-- ==== Sys2Proof/Word.lean ====
section
/-! DEFINITION. The data widths of R3 and the one exact number type the model keeps in its state. -/
namespace Sys2Proof

/-- 8 bits (R3). -/
abbrev Byte := BitVec 8
/-- 16 bits (R3). -/
abbrev Half := BitVec 16
/-- 32 bits (R3): an instruction word, a literal word, an FP32 value. -/
abbrev Word := BitVec 32
/-- 64 bits (R3): a token value, a slot, an address. -/
abbrev Dword := BitVec 64

/-- An exact dyadic number num × 2^ex: the shares of R169 and R170, which only halve, add and subtract, and every
exact value that a number format can hold. Two terms may stand for one number. -/
structure Dy where
  num : Int
  ex : Int
  deriving DecidableEq, Repr

/-- A sorted association list: keys strictly rising. -/
abbrev KV (α : Type) := List (Nat × α)

end Sys2Proof
end

