-- ==== Sys2Proof/Syntax.lean ====
section
/-! DEFINITION. The instructions and the device events of the part, one constructor of `Instr` for each row of the
opcode table (the device events first, the computing instructions last): the encodings of spec/10 (R237 to R248), the device events of spec/95. Register numbers and raw
fields are kept as the encoding gives them; what a raw field may hold is said in Sys2Proof/WellFormed.lean. -/
namespace Sys2Proof

/-- A source operand of R237. `lit` carries its literal word. -/
inductive Operand where
  /-- v0 to v63: a value produced in this instance. -/
  | v (i : BitVec 6)
  /-- w0 to w47: a slot of the window. -/
  | w (i : Fin 48)
  /-- g0 to g3: a gather-shared register. -/
  | g (i : BitVec 2)
  /-- Always 0. -/
  | zero
  /-- The fibre index in the gather. -/
  | fi
  /-- The gather index in the launch. -/
  | gi
  /-- The launch's kernel argument pointer. -/
  | ka
  /-- The scratchpad aperture base. -/
  | sb
  /-- The window base as a store index (R26). -/
  | wb
  /-- A literal word, read sign-extended (R240). -/
  | lit (x : BitVec 32)
  /-- The predicate word. -/
  | pw
  deriving DecidableEq, Repr

/-- A destination operand of R237: the writable names. -/
inductive Dest where
  | v (i : BitVec 6)
  | w (i : Fin 48)
  | g (i : BitVec 2)
  | zero
  | pw
  deriving DecidableEq, Repr

/-- A management-core register written through REGISTER_WRITE (R5, R6). -/
inductive MReg where
  /-- XLAT_VA (R65). -/
  | xlatVa
  /-- XLAT_CMD (R66). -/
  | xlatCmd
  /-- XLAT_STAT (R67). -/
  | xlatStat
  /-- CSPART of a core (R72). -/
  | cspart (core : Nat)
  /-- BVDRAIN (R184). -/
  | bvdrain
  /-- QCFG of a queue, dword 0 or 1 (R386). -/
  | qcfg (q : Nat) (dw : Bool)
  /-- CSPSTAT of a core (R73). -/
  | cspstat (core : Nat)
  /-- EMENT (R412). -/
  | ement
  /-- DBGCTL of a slot (R415). -/
  | dbgctl (slot : Nat)
  /-- DBGBP n.i (R416). -/
  | dbgbp (slot i : Nat)
  /-- A dword of an ownership entry in OWNTAB (R354). -/
  | owntab (cl id dw : Nat)
  /-- INCARN of a die, read-only (R106). -/
  | incarn (die : Nat)
  /-- BRSTAT of a bridge, read-only (R99). -/
  | brstat (br : Nat)
  /-- FSTAT of a function, read-only (R450). -/
  | fstat (func : Nat)
  /-- A dword of a function's mailbox request (R452). -/
  | mbreq (func dw : Nat)
  /-- MBCTL of a function (R452). -/
  | mbctl (func : Nat)
  deriving DecidableEq, Repr

/-- What a peer module asks of the part's memory (R40, R335). -/
inductive PeerOp where
  | read
  | write
  /-- An ATOM, or a RED, carried out at this part's home: its fn and whether it is 64 bits wide. -/
  | atomic (fn : Nat) (w64 red : Bool)
  deriving DecidableEq, Repr

/-- What the host answers to an ATS translation request (R70). -/
inductive AtsResult where
  /-- Granted: the translated page address, and whether writes are allowed. -/
  | granted (pa : Nat) (w : Bool)
  /-- Refused for lack of a page. -/
  | noPage
  /-- Refused for permission. -/
  | denied
  deriving DecidableEq, Repr

/-- What the read of a line shows of errors: none, one that its ECC corrects, or an uncorrectable one, a CXL.mem poison
indication among them (R89, R100, R101). -/
inductive Ecc where
  | clean
  | corrected
  | uncorrectable
  deriving DecidableEq, Repr

/-- What a die asks of a line's home (R91): ownership, or a copy; and what the read shows of errors. -/
structure LineRequest where
  own : Bool
  ecc : Ecc
  deriving DecidableEq, Repr

/-- A replay of a flit on a bridge, with success or without (R98). -/
structure Replay where
  bridge : Nat
  ok : Bool
  deriving DecidableEq, Repr

/-- One constructor per row of the opcode table: 280 instructions and 99 device events. -/
inductive Instr where
  /-- R213. A configured block admits one ready fibre, reading its live-ins, g0 to g3 and pw. -/
  | blockAdmission (f : Nat)
  /-- R218. A block instance whose nodes have all fired or been absorbed applies all its effects in one cycle. -/
  | commit (f : Nat)
  /-- R220. A fault discards every uncommitted effect of a block instance. -/
  | instanceFault (f : Nat)
  /-- R411. A fault found after commit is delivered at the fibre's next block boundary with POST set. -/
  | postCommitTrapDelivery (f : Nat)
  /-- R215. A load, ATOM or copy result arrives for a slot, filling it unless a later write supersedes it. -/
  | loadResultArrival (p : Nat)
  /-- R224. The block scheduler ranks unconfigured waiting sets and chooses one to configure. -/
  | schedulerChoice (core : Nat)
  /-- R469. A line fill requested by a configuration build or IPREF completes into the instruction cache. -/
  | instructionLineFill (core ctx line : Nat)
  /-- R211. A configuration image is built from fetched words after its last word arrives. -/
  | configBuildComplete (core ctx hdr : Nat)
  /-- R222. A configuration image is placed node by node on freed nodes and begins admitting. -/
  | configPlacement (core ctx hdr : Nat)
  /-- R222. A node with no old-generation token passes the teardown and returns to the free pool. -/
  | nodeTeardown (core cfg node : Nat)
  /-- R223. A fibre that has waited more than 4096 cycles becomes aged. -/
  | fibreAgeing (f : Nat)
  /-- R265. A yielded fibre becomes ready when its delay expires. -/
  | yieldDelayExpiry (f : Nat)
  /-- R113. A window fill's line data arrives and sets V on the window's invalid words of that line. -/
  | windowFillComplete (g line : Nat)
  /-- R93. A posted write, RED or drain is performed at the line's home slice. -/
  | homeWrite (i : Nat)
  /-- R126. A copy-engine operation completes and its tag count falls. -/
  | copyOperationComplete (core i : Nat)
  /-- R87. A core named by a release record writes back its dirty first-level bytes and acknowledges. -/
  | drainRequest (i : Nat)
  /-- R87. An acquire completes once all drain acknowledgements arrive and invalidates clean first-level bytes. -/
  | acquireComplete (f : Nat)
  /-- R96. A destination die acknowledges a fence token once all earlier tokens on its circuit are performed. -/
  | fenceTokenArrival (i : Nat)
  /-- R96. A device- or system-scope fence completes when every acknowledgement has arrived. -/
  | fenceComplete (f : Nat)
  /-- R82. The ageing sweep writes back dirty bytes and invalidates clean bytes older than 2^16 cycles. -/
  | l1AgeingSweep (core : Nat)
  /-- R91. A home directory serves a read or ownership request, invalidating or recalling other copies. -/
  | coherenceRequest (die line : Nat) (excl : LineRequest)
  /-- R86. A slice evicts a line, draining cores its records name and invalidating window words. -/
  | lineEviction (die line : Nat)
  /-- R92. An evicted directory entry first recalls its line from every named die. -/
  | directoryEntryEviction (line : Nat)
  /-- R104. An uncorrectable directory error recalls the line from all dies and rebuilds the entry. -/
  | directoryError (line : Nat)
  /-- R105. A recovered coherence agent's old incarnation is cleared and it rejoins with a new number. -/
  | agentRejoin (isDie : Bool) (unit : Nat)
  /-- R171. A withholdable addition reaches a die's holder, which withholds, drains or posts it. -/
  | holderOffer (i : Nat)
  /-- R170. The home grants a holder half the line's unallocated share or refuses. -/
  | grantRequest (die line : Nat)
  /-- R172. A holder receiving a forced-drain request drains the line and returns its share. -/
  | forcedDrain (die line : Nat)
  /-- R173. The home applies a drained partial sum to its element as one addition. -/
  | drainApplied (i : Nat)
  /-- R175. The home forces drains until the undrained share is within tolerance and then reads. -/
  | boundedRead (i : Nat)
  /-- R76. A bank that has emptied in its old role leaves it and joins its new role. -/
  | repartitionBankEmpty (core : Nat)
  /-- R78. The first-level cache flush started by a change of L1B finishes. -/
  | l1FlushComplete (core : Nat)
  /-- R68. XLAT_CMD KIND 1 removes a context's translation entries overlapping a range. -/
  | xlatInvPageRange (v : BitVec 32)
  /-- R68. XLAT_CMD KIND 2 removes every entry of a context. -/
  | xlatInvContext (v : BitVec 32)
  /-- R68. XLAT_CMD KIND 3 removes a context's entries whose leaf has a given RGX. -/
  | xlatInvRegion (v : BitVec 32)
  /-- R68. XLAT_CMD KIND 4 also removes configuration and instruction cache contents and retires blocks of the range. -/
  | xlatInvCodeRange (v : BitVec 32)
  /-- R68. XLAT_CMD KIND 5 removes every entry of every context. -/
  | xlatInvAll (v : BitVec 32)
  /-- R69. An invalidation's BUSY falls once covered accesses and in-flight walks are finished. -/
  | xlatInvalidationDone
  /-- R74. A write of CSPART starts a core store repartition or is refused. -/
  | cspartWrite (core : Nat) (v : BitVec 32)
  /-- R184. A write of BVDRAIN forces a drain of the named dies' holders or is refused. -/
  | bvdrainWrite (v : BitVec 32)
  /-- R386. A write of a queue's QCFG configures or re-weights the queue, refusing a bad DEPTH. -/
  | qcfgWrite (q : Nat) (dw : Bool) (v : BitVec 64)
  /-- R387. A 64-byte write to a queue's ingress port appends a launch record or is dropped. -/
  | ingressPortWrite (func off : Nat) (bytes : List (BitVec 8))
  /-- R391. Dispatch takes a record from a ring and accepts it, giving a LID, or refuses it. -/
  | launchAcceptance (q : Nat)
  /-- R395. Firmware writes a SLOTTAB bind record binding a launch to cores of a die. -/
  | bindRecordWrite (die idx dw : Nat) (v : BitVec 64)
  /-- R396. Dispatch places a launch's next gather on the first bound core with room. -/
  | gatherPlacement
  /-- R122. A gather whose fibres have ended retires its windows, drains copies and frees its banks. -/
  | gatherExit (g : Nat)
  /-- R401. A launch completes, releasing at system scope and writing its completion records. -/
  | launchCompletion (lid : Nat)
  /-- R441. The loader checks, places, relocates and maps a code object in a context. -/
  | codeLoad (handle : BitVec 64) (pool : Nat)
  /-- R441. A load finishes, making the object resident or failing with an error code. -/
  | codeLoadComplete (handle : BitVec 64)
  /-- R445. A withdrawn object whose reference count reaches zero is unmapped and freed. -/
  | codeUnload (handle : BitVec 64)
  /-- R445. A registered object referenced only by its registration is evicted for memory, keeping its range. -/
  | codeEviction (handle : BitVec 64)
  /-- R419. Firmware kills an idempotent launch, ending its fibres and returning it to ORDERED. -/
  | kill (lid : Nat)
  /-- R419. Firmware clears a launch's bind records so its resident gathers run to exit. -/
  | drain (lid : Nat)
  /-- R420. Firmware stops a launch at block boundaries to save its context to lehrs. -/
  | checkpoint (lid : Nat)
  /-- R420. After copies, engines, holders and caches have settled, lehrs are written and the launch becomes SAVED. -/
  | checkpointSaved (lid pool : Nat)
  /-- R426. Firmware validates lehrs and restores a SAVED launch's gathers and launch sections. -/
  | restore (lid : Nat)
  /-- R414. A time slice expires and stops fibres at their next block boundary. -/
  | timeSliceExpiry (lid : Nat)
  /-- R342. The sequencer takes the oldest start request and begins a program. -/
  | sequencerProgramStart (cl : Nat)
  /-- R357. An issued matrix instruction completes on its engine. -/
  | matComplete (cl i : Nat)
  /-- R415. Writing HALTREQ halts every fibre of the job at its next block boundary. -/
  | dbgHaltreq (slot : Nat)
  /-- R418. DBGCMD OP 0 continues one halted fibre. -/
  | dbgcmdFibre (slot : Nat) (v : BitVec 64)
  /-- R418. DBGCMD OP 1 continues every halted fibre of a gather. -/
  | dbgcmdGather (slot : Nat) (v : BitVec 64)
  /-- R418. DBGCMD OP 2 continues every halted fibre of the job. -/
  | dbgcmdJob (slot : Nat) (v : BitVec 64)
  /-- R440. Mailbox service 1 registers a code object and returns its handle. -/
  | serviceRegister (func : Nat)
  /-- R444. Mailbox service 2 withdraws a code object handle. -/
  | serviceWithdraw (func : Nat)
  /-- R453. Mailbox service 3 performs a translation invalidation and replies when BUSY falls. -/
  | serviceInvalidate (func : Nat)
  /-- R464. Mailbox service 4 requests a power mode and cap. -/
  | servicePowerMode (func : Nat)
  /-- R460. Mailbox service 5 reads reliability log entries. -/
  | serviceReadLog (func : Nat)
  /-- R453. Mailbox service 6 accesses the debug slots. -/
  | serviceDebugSlot (func : Nat)
  /-- R453. Mailbox service 7 configures a job's contexts, queues, circuit set, peer number and host window. -/
  | serviceJobConfig (func : Nat)
  /-- R463. Mailbox service 8 loads an authenticated firmware image and resets the part. -/
  | serviceLoadFirmware (func : Nat)
  /-- R452. A firmware service finishes, writes its reply and sets DONE. -/
  | mailboxReply (func : Nat)
  /-- R34. A management-core write through the on-chip map stores a slot, scratchpad, state or tile. -/
  | onchipMapWrite (off : Nat) (bytes : List (BitVec 8))
  /-- R5. A write to a management-core register with no behaviour of its own updates its writable fields. -/
  | registerWrite (r : MReg) (v : BitVec 64)
  /-- R454. A host access through a function's host window reaches the part's memory on the host path. -/
  | hostWindowAccess (func off len : Nat) (wr : Option (List (BitVec 8)))
  /-- R40. A peer module's access arrives over the scale-up ports and is performed against local HBM. -/
  | peerRequest (op : PeerOp) (addr len : Nat) (bytes : List (BitVec 8))
  /-- R70. An ATS invalidation request completes after every access using a matching entry has completed. -/
  | atsInvalidation (func base span : Nat)
  /-- R70. A page request response arrives and the waiting host-aperture access retries. -/
  | priResponse (func page : Nat) (ok : Bool)
  /-- R70. No page request success within 2^24 cycles faults the access with cause 0x08. -/
  | priTimeout (func page : Nat)
  /-- R101. A silent second-tier device makes waiting accesses fault with cause 0x0D after 2^24 cycles. -/
  | secondTierTimeout (port : Nat)
  /-- R98. A flit with a CRC error or no acknowledgement is replayed from the retry buffer. -/
  | flitReplay (br : Replay)
  /-- R98. After eight failed replays a bridge link retrains, substituting a spare lane if retraining fails. -/
  | linkRetrain (br : Nat) (ok : Bool)
  /-- R462. A bridge link with no spare left goes down and the far compute die leaves service. -/
  | linkDown (br : Nat)
  /-- R456. A scale-up lane failure retrains the port on two lanes at half rate. -/
  | portLaneFailure (port : Nat)
  /-- R457. A scale-up port goes down and its circuits move to another port of the set. -/
  | portDown (port : Nat)
  /-- R459. A failed cluster's launches are cancelled and the die's hot spare is substituted. -/
  | clusterFailure (cl : Nat)
  /-- R461. A compute die leaves service, its HBM becoming absent and its launches cancelled. -/
  | dieOutOfService (die : Nat)
  /-- R460. An HBM row that has corrected 16 errors is copied to a spare row. -/
  | rowSparing (die stack : Nat)
  /-- R18. A change of power mode, budget, THR or FTHR takes effect at one cycle for the whole part. -/
  | powerChangeApply
  /-- R465. Every 2^16 cycles the arbiter estimates power and sets THR and FTHR. -/
  | arbiterInterval (est estF : List Nat)
  /-- R464. Firmware lowers BUDGET by itself when coolant limits require it. -/
  | coolantLimit (watts : Nat)
  /-- R463. The part is reset and registers take their reset values. -/
  | reset
  /-- R49. A page walk finishes reading its entries, sets A or D by compare-and-swap, and its result serves every merged request. -/
  | pageWalkComplete (i : Nat)
  /-- R169. A home evicts a grant record, first forcing a drain of every holder it names. -/
  | grantRecordEviction (line : Nat)
  /-- R355. Firmware evicts a HOME tile, spilling it to its handle when DIRTY and making it FREE. -/
  | homeTileEviction (cl id : Nat)
  /-- R97. A receiving bridge grants a circuit more send allowance, releasing tokens its sender holds. -/
  | sendAllowanceGrant (circ hop flits : Nat)
  /-- R70. An ATS translation for a host-aperture access returns from the host, granting or refusing the translation. -/
  | atsTranslationCompletion (func page : Nat) (res : AtsResult)
  /-- R401. Firmware closes a job, letting it complete once its launch counter is zero. -/
  | jobClose (job : Nat)
  /-- R463. The firmware or the management core fails, leaving only configuration space, FSTAT and mailbox service 8 answering. -/
  | managementCoreFailure
  /-- R258. Unconditional direct transfer to the target header at commit. -/
  | jmp (off : BitVec 20)
  /-- R258. Transfers to the target when the predicate is true, otherwise falls through. -/
  | brt (p : Operand) (off : BitVec 20)
  /-- R258. Transfers to the target when the predicate is false, otherwise falls through. -/
  | brf (p : Operand) (off : BitVec 20)
  /-- R259. Pushes return header and WOFF, advances the window and transfers to a CALLEE block. -/
  | call (k : BitVec 7) (off : BitVec 20)
  /-- R260. Tool trampoline acting as JMP when instrumentation is enabled, otherwise trapping with cause 0x03. -/
  | tramp (off : BitVec 20)
  /-- R260. Tool trampoline acting as CALL with a window advance when instrumentation is enabled, otherwise trapping. -/
  | trampLink (k : BitVec 6) (off : BitVec 20)
  /-- R262. Indirect transfer to the 64-bit address in A at commit. -/
  | bri (a : Operand)
  /-- R262. Indirect call to the address in A with a raw window advance. -/
  | calli (a : Operand) (k : BitVec 7)
  /-- R262. Pops the newest call-stack entry, refilling a spilled pair first, and returns to a CTAIL block. -/
  | ret
  /-- R264. Ends the fibre at commit, discarding its call stack and withdrawing its barrier arrivals. -/
  | exit
  /-- R266. Creates a new fibre of the gather at commit with the given entry and argument. -/
  | fork (d : Dest) (a b : Operand)
  /-- R268. Arrives at a barrier and fires only when the arrival's phase completes. -/
  | bar (n : BitVec 7)
  /-- R268. Arrives at a barrier without waiting for completion. -/
  | arrive (n : BitVec 7)
  /-- R269. Post-commit wait for the fibre's pending phase on a barrier to complete. -/
  | await (n : BitVec 7)
  /-- R263. Adds a signed slot count to WOFF at commit. -/
  | winb (a : Operand)
  /-- R271. Passes its data token when the predicate is true and absorbs it otherwise. -/
  | steer (d : Dest) (a p : Operand)
  /-- R272. Forwards whichever data input arrives, choosing by predicate when both arrive. -/
  | merge (d : Dest) (a b p : Operand)
  /-- R273. Selects A or B by the predicate once all three inputs arrive. -/
  | sel (d : Dest) (a b p : Operand)
  /-- R274. Produces one bit of pw as held at admission. -/
  | pget (d : Dest) (n : BitVec 7)
  /-- R274. Replaces one bit of pw with the predicate at commit. -/
  | pset (a : Operand) (n : BitVec 7)
  /-- R265. Falls through at commit and keeps the fibre unready for a delay. -/
  | yield (a : Operand)
  /-- R275. Post-commit device-side launch that releases, reads a launch record and reports acceptance status. -/
  | launch (d : Dest) (a b : Operand)
  /-- R276. Post-commit release that queues a sequencer program start request. -/
  | efork (d : Dest) (a b : Operand)
  /-- R277. Fibre post-commit append to a rendezvous point's arrival queue, holding admission until taken. -/
  | rdv (n : BitVec 7)
  /-- R277. Sequencer waits for a count of its launch's fibres at a point and completes the rendezvous with the oldest. -/
  | sequencerRdv (a : Operand) (n : BitVec 7)
  /-- R278. Post-commit request to cancel a launch, graph, phase or job, reporting a status. -/
  | cancel (d : Dest) (a : Operand) (lvl : BitVec 7)
  /-- R385. Cullet that traps for emulation of a sixteen-fibre exchange-group shuffle. -/
  | shfl (d : Dest) (a b : Operand)
  /-- R384. Cullet that traps for emulation of an exchange-group vote. -/
  | vote (d : Dest) (a : Operand) (mode : BitVec 7)
  /-- R291. Compares A with B by type and condition, producing 0 or 1. -/
  | icmp (ty : BitVec 2) (cond : BitVec 4) (d : Dest) (a b : Operand)
  /-- R296. Adds a sign-extended 12-bit immediate in 32 or 64 bits. -/
  | addi (w64 : Bool) (d : Dest) (a : Operand) (imm : BitVec 12)
  /-- R296. ANDs a sign-extended 12-bit immediate. -/
  | andi (w64 : Bool) (d : Dest) (a : Operand) (imm : BitVec 12)
  /-- R296. ORs a sign-extended 12-bit immediate. -/
  | ori (w64 : Bool) (d : Dest) (a : Operand) (imm : BitVec 12)
  /-- R297. 64-bit left shift by a constant. -/
  | shli (d : Dest) (a : Operand) (n : BitVec 6)
  /-- R297. 64-bit logical right shift by a constant. -/
  | shri (d : Dest) (a : Operand) (n : BitVec 6)
  /-- R297. 64-bit arithmetic right shift by a constant. -/
  | sari (d : Dest) (a : Operand) (n : BitVec 6)
  /-- R297. 64-bit left rotation by a constant. -/
  | rotli (d : Dest) (a : Operand) (n : BitVec 6)
  /-- R298. Loads a sign-extended 20-bit upper immediate. -/
  | lhi (d : Dest) (imm : BitVec 20)
  /-- R298. Adds a 20-bit upper immediate to the PCHI word's address. -/
  | pchi (d : Dest) (imm : BitVec 20)
  /-- R302. Packed half-precision addition. -/
  | hadd (bf : Bool) (d : Dest) (a b : Operand)
  /-- R302. Packed half-precision subtraction. -/
  | hsub (bf : Bool) (d : Dest) (a b : Operand)
  /-- R302. Packed half-precision multiplication. -/
  | hmul (bf : Bool) (d : Dest) (a b : Operand)
  /-- R302. Packed half-precision fused multiply-add. -/
  | hfma (bf : Bool) (d : Dest) (a b c : Operand)
  /-- R302. Packed half-precision minimum. -/
  | hmin (bf : Bool) (d : Dest) (a b : Operand)
  /-- R302. Packed half-precision maximum. -/
  | hmax (bf : Bool) (d : Dest) (a b : Operand)
  /-- R302. Inverts each half's sign bit. -/
  | hneg (bf : Bool) (d : Dest) (a : Operand)
  /-- R302. Clears each half's sign bit. -/
  | habs (bf : Bool) (d : Dest) (a : Operand)
  /-- R303. Two-element half-precision dot product plus FP32 addend, rounded once. -/
  | hdot2 (bf : Bool) (d : Dest) (a b c : Operand)
  /-- R315. Relaxed load of a byte to b128 access, performed run-ahead. -/
  | ld (q sz : BitVec 3) (d : Dest) (a : Operand) (off : BitVec 7)
  /-- R319. Format load that decodes one element of a block by the page's FMT. -/
  | ldFmt (q : BitVec 3) (d : Dest) (a : Operand) (e : BitVec 5)
  /-- R315. Relaxed store performed at commit with a cache hint. -/
  | st (q sz : BitVec 3) (x a : Operand) (off : BitVec 7)
  /-- R320. Format store that encodes one element into a FP32 to INT4 page. -/
  | stFmt (q : BitVec 3) (x a : Operand) (e : BitVec 5)
  /-- R322. Atomic read of a word or dword. -/
  | atomLoad (w64 : Bool) (scope : BitVec 3) (order : BitVec 2) (d : Dest) (a : Operand)
  /-- R322. Atomic write of a word or dword. -/
  | atomStore (w64 : Bool) (scope : BitVec 3) (order : BitVec 2) (a b : Operand)
  /-- R322. Atomic integer add returning the old value. -/
  | atomAdd (w64 : Bool) (scope : BitVec 3) (order : BitVec 2) (d : Dest) (a b : Operand)
  /-- R322. Atomic integer subtract. -/
  | atomSub (w64 : Bool) (scope : BitVec 3) (order : BitVec 2) (d : Dest) (a b : Operand)
  /-- R322. Atomic bitwise AND. -/
  | atomAnd (w64 : Bool) (scope : BitVec 3) (order : BitVec 2) (d : Dest) (a b : Operand)
  /-- R322. Atomic bitwise OR. -/
  | atomOr (w64 : Bool) (scope : BitVec 3) (order : BitVec 2) (d : Dest) (a b : Operand)
  /-- R322. Atomic bitwise XOR. -/
  | atomXor (w64 : Bool) (scope : BitVec 3) (order : BitVec 2) (d : Dest) (a b : Operand)
  /-- R322. Atomic signed minimum. -/
  | atomMin (w64 : Bool) (scope : BitVec 3) (order : BitVec 2) (d : Dest) (a b : Operand)
  /-- R322. Atomic signed maximum. -/
  | atomMax (w64 : Bool) (scope : BitVec 3) (order : BitVec 2) (d : Dest) (a b : Operand)
  /-- R322. Atomic unsigned minimum. -/
  | atomMinn (w64 : Bool) (scope : BitVec 3) (order : BitVec 2) (d : Dest) (a b : Operand)
  /-- R322. Atomic unsigned maximum. -/
  | atomMaxn (w64 : Bool) (scope : BitVec 3) (order : BitVec 2) (d : Dest) (a b : Operand)
  /-- R322. Atomic exchange. -/
  | atomSwap (w64 : Bool) (scope : BitVec 3) (order : BitVec 2) (d : Dest) (a b : Operand)
  /-- R322. Atomic compare-and-swap. -/
  | atomCas (w64 : Bool) (scope : BitVec 3) (order : BitVec 2) (d : Dest) (a b c : Operand)
  /-- R322. Atomic wrapping increment bounded by B. -/
  | atomInc (w64 : Bool) (scope : BitVec 3) (order : BitVec 2) (d : Dest) (a b : Operand)
  /-- R322. Atomic wrapping decrement bounded by B. -/
  | atomDec (w64 : Bool) (scope : BitVec 3) (order : BitVec 2) (d : Dest) (a b : Operand)
  /-- R324. Atomic FP32 add, withholdable when relaxed in a bounded region. -/
  | atomFadd (w64 : Bool) (scope : BitVec 3) (order : BitVec 2) (d : Dest) (a b : Operand)
  /-- R322. Atomic FP32 minimum. -/
  | atomFmin (w64 : Bool) (scope : BitVec 3) (order : BitVec 2) (d : Dest) (a b : Operand)
  /-- R322. Atomic FP32 maximum. -/
  | atomFmax (w64 : Bool) (scope : BitVec 3) (order : BitVec 2) (d : Dest) (a b : Operand)
  /-- R322. Atomic packed FP16 add. -/
  | atomHadd2F16 (w64 : Bool) (scope : BitVec 3) (order : BitVec 2) (d : Dest) (a b : Operand)
  /-- R322. Atomic packed BF16 add. -/
  | atomHadd2Bf16 (w64 : Bool) (scope : BitVec 3) (order : BitVec 2) (d : Dest) (a b : Operand)
  /-- R325. Reduction integer add with no returned value. -/
  | redAdd (w64 : Bool) (scope : BitVec 3) (order : BitVec 2) (a b : Operand)
  /-- R325. Reduction bitwise AND. -/
  | redAnd (w64 : Bool) (scope : BitVec 3) (order : BitVec 2) (a b : Operand)
  /-- R325. Reduction bitwise OR. -/
  | redOr (w64 : Bool) (scope : BitVec 3) (order : BitVec 2) (a b : Operand)
  /-- R325. Reduction bitwise XOR. -/
  | redXor (w64 : Bool) (scope : BitVec 3) (order : BitVec 2) (a b : Operand)
  /-- R325. Reduction signed minimum. -/
  | redMin (w64 : Bool) (scope : BitVec 3) (order : BitVec 2) (a b : Operand)
  /-- R325. Reduction signed maximum. -/
  | redMax (w64 : Bool) (scope : BitVec 3) (order : BitVec 2) (a b : Operand)
  /-- R325. Reduction unsigned minimum. -/
  | redMinn (w64 : Bool) (scope : BitVec 3) (order : BitVec 2) (a b : Operand)
  /-- R325. Reduction unsigned maximum. -/
  | redMaxn (w64 : Bool) (scope : BitVec 3) (order : BitVec 2) (a b : Operand)
  /-- R166. Reduction FP32 add, offered to a holder when relaxed and bounded. -/
  | redFadd (w64 : Bool) (scope : BitVec 3) (order : BitVec 2) (a b : Operand)
  /-- R166. Reduction packed FP16 add. -/
  | redHadd2F16 (w64 : Bool) (scope : BitVec 3) (order : BitVec 2) (a b : Operand)
  /-- R166. Reduction packed BF16 add. -/
  | redHadd2Bf16 (w64 : Bool) (scope : BitVec 3) (order : BitVec 2) (a b : Operand)
  /-- R327. Acquire, release, acquire-release or sequentially consistent fence at a scope on a path mask. -/
  | fence (scope mask kind : BitVec 7)
  /-- R328. Drains every withheld bounded addition of the holders within its scope. -/
  | fencex (scope : BitVec 7)
  /-- R329. Release fence narrowed to one or two regions. -/
  | relb (scope mask n n2 : BitVec 7)
  /-- R329. Acquire fence narrowed to one region. -/
  | acqb (scope mask n : BitVec 7)
  /-- R110. Binds a scratchpad range to a global range as a mapped window. -/
  | spmap (a b c : Operand)
  /-- R121. Retires a whole window on a tag, writing back its dirty words. -/
  | spunmap (t : BitVec 7) (a : Operand)
  /-- R118. Writes back the dirty words of a window range on a tag. -/
  | spwb (t : BitVec 7) (a b : Operand)
  /-- R120. Discards a window range at commit, losing dirty bytes. -/
  | spinv (a b : Operand)
  /-- R128. Copies bytes within the gather's allocation on a tag. -/
  | spcpy (t : BitVec 7) (a b c : Operand)
  /-- R127. Fills invalid window words of a shaped range ahead of touch on a tag. -/
  | spfill (t : BitVec 7) (a b c : Operand)
  /-- R332. Prefetches a data line to a cache level without faulting. -/
  | pref (a : Operand) (k : BitVec 7)
  /-- R471. Prefetches instruction-cache lines after commit without faulting. -/
  | ipref (a : Operand) (k : BitVec 7)
  /-- R335. Issues a descriptor-driven local copy on a tag. -/
  | cpy (t : BitVec 7) (a b c : Operand)
  /-- R335. Issues a copy from a peer module to local memory on a tag. -/
  | cpyr (t : BitVec 7) (a b : Operand)
  /-- R335. Issues a copy from local memory to a peer module on a tag. -/
  | cpyp (t : BitVec 7) (a b : Operand)
  /-- R335. Issues a gather copy whose source rows come from an index array. -/
  | cpyg (t : BitVec 7) (a b : Operand)
  /-- R341. Post-commit wait until any masked tag is done. -/
  | wany (d : Dest) (a : Operand)
  /-- R341. Post-commit wait until all masked tags are done, returning their error flags. -/
  | wall (d : Dest) (a : Operand)
  /-- R341. Returns the lowest done tag within a mask. -/
  | ffr (d : Dest) (a : Operand)
  /-- R341. Returns the gather's done bitmap. -/
  | tags (d : Dest)
  /-- R341. Returns the first error record among masked tags and clears their flags and records. -/
  | tagclr (d : Dest) (a : Operand)
  /-- R361. Issues a 128-cycle matrix multiply-accumulate into an accumulator tile. -/
  | mma (ctl a b : Operand)
  /-- R364. Issues a gated delta-rule update of a state tile over a chunk of tokens. -/
  | mdelta (ctl a b : Operand)
  /-- R365. Issues a linear recurrence scan down the rows of a tile. -/
  | mscan (ctl a b : Operand)
  /-- R366. Issues a conversion and write of a tile to scratchpad. -/
  | mout (ctl a : Operand)
  /-- R366. Issues a load of a whole tile from scratchpad. -/
  | mlda (ctl a : Operand)
  /-- R366. Issues zeroing of a tile with an element type. -/
  | mzero (a : Operand) (ty : BitVec 7)
  /-- R367. Synchronously binds a tile to a punty handle, loading its image if any. -/
  | mpin (d : Dest) (a b : Operand)
  /-- R368. Writes a dirty pinned tile to its handle and makes it ACTIVE. -/
  | munpin (a : Operand)
  /-- R368. Writes a tile image to its handle or to a given address. -/
  | mspill (a b : Operand)
  /-- R368. Loads a tile from an image and makes it ACTIVE. -/
  | mfill (a b : Operand)
  /-- R372. Waits until every issued instruction on the masked engines completes. -/
  | mwait (a : Operand)
  /-- R368. Claims a FREE tile for the launch and reports its ownership. -/
  | mown (d : Dest) (a : Operand)
  /-- R377. Reads a special register. -/
  | rdsr (d : Dest) (n : BitVec 7)
  /-- R374. Writes FSP or THND at commit. -/
  | wrsr (n : BitVec 7) (a : Operand)
  /-- R378. Samples the part-wide cycle counter when the node fires. -/
  | clock (d : Dest) (a : Operand)
  /-- R381. Raises a software trap with cause 0x10. -/
  | trap (a : Operand)
  /-- R382. Ends a trap handler and re-admits the trapped block. -/
  | resumeRetry
  /-- R382. Ends a trap handler and re-admits the block with the trapping instruction replaced by a value. -/
  | resumeSkip (a : Operand)
  /-- R381. Breakpoint that halts the fibre when a debugger is attached, otherwise a NOP. -/
  | bkpt (k : BitVec 7)
  /-- R383. Ends cullet emulation, committing the shadow and re-admitting the cullet's block with its result. -/
  | emulret (a : Operand)
  /-- R380. Does nothing. -/
  | nop
  /-- R379. Reads a per-context performance count on the core. -/
  | perfc (d : Dest) (k : BitVec 7)
  /-- R384. Cullet that traps for emulation of the exchange-group position. -/
  | laneid (d : Dest)
  /-- R287. 32-bit addition, sign-extended. -/
  | add (d : Dest) (a b : Operand)
  /-- R287. 32-bit subtraction, sign-extended. -/
  | sub (d : Dest) (a b : Operand)
  /-- R287. Low 32 bits of a product. -/
  | mul (d : Dest) (a b : Operand)
  /-- R287. High 32 bits of a signed product. -/
  | mulh (d : Dest) (a b : Operand)
  /-- R287. High 32 bits of an unsigned product. -/
  | mulhn (d : Dest) (a b : Operand)
  /-- R287. Signed 32-bit minimum. -/
  | min (d : Dest) (a b : Operand)
  /-- R287. Signed 32-bit maximum. -/
  | max (d : Dest) (a b : Operand)
  /-- R287. Unsigned 32-bit minimum. -/
  | minn (d : Dest) (a b : Operand)
  /-- R287. Unsigned 32-bit maximum. -/
  | maxn (d : Dest) (a b : Operand)
  /-- R287. 32-bit bitwise AND. -/
  | and (d : Dest) (a b : Operand)
  /-- R287. 32-bit bitwise OR. -/
  | or (d : Dest) (a b : Operand)
  /-- R287. 32-bit bitwise XOR. -/
  | xor (d : Dest) (a b : Operand)
  /-- R287. 32-bit A AND NOT B. -/
  | andn (d : Dest) (a b : Operand)
  /-- R287. 32-bit left shift by B mod 32. -/
  | shl (d : Dest) (a b : Operand)
  /-- R287. 32-bit logical right shift, zero-extended. -/
  | shr (d : Dest) (a b : Operand)
  /-- R287. 32-bit arithmetic right shift. -/
  | sar (d : Dest) (a b : Operand)
  /-- R287. 32-bit left rotation. -/
  | rotl (d : Dest) (a b : Operand)
  /-- R287. Counts leading zero bits of a 32-bit value. -/
  | clz (d : Dest) (a : Operand)
  /-- R287. Counts trailing zero bits of a 32-bit value. -/
  | ctz (d : Dest) (a : Operand)
  /-- R287. Counts one bits of a 32-bit value. -/
  | popc (d : Dest) (a : Operand)
  /-- R287. Reverses the bits of a 32-bit value. -/
  | brev (d : Dest) (a : Operand)
  /-- R289. Wrapping 32-bit absolute value. -/
  | abs (d : Dest) (a : Operand)
  /-- R287. 32-bit negation. -/
  | neg (d : Dest) (a : Operand)
  /-- R287. 32-bit bitwise complement. -/
  | not (d : Dest) (a : Operand)
  /-- R289. Saturating signed 32-bit addition. -/
  | adds (d : Dest) (a b : Operand)
  /-- R289. Saturating signed 32-bit subtraction. -/
  | subs (d : Dest) (a b : Operand)
  /-- R289. Signed 32-bit division truncated toward zero, all ones on division by zero. -/
  | div (d : Dest) (a b : Operand)
  /-- R289. Unsigned 32-bit division. -/
  | divn (d : Dest) (a b : Operand)
  /-- R289. Signed 32-bit remainder. -/
  | rem (d : Dest) (a b : Operand)
  /-- R289. Unsigned 32-bit remainder. -/
  | remn (d : Dest) (a b : Operand)
  /-- R287. Copies A[31:0] sign-extended. -/
  | mov (d : Dest) (a : Operand)
  /-- R288. Sign- or zero-extends a byte, half or word of A by a raw code. -/
  | xtnd (d : Dest) (a : Operand) (code : BitVec 7)
  /-- R384. Cullet that traps for emulation of a 24-bit multiply. -/
  | mul24 (d : Dest) (a b : Operand)
  /-- R286. 64-bit addition. -/
  | add64 (d : Dest) (a b : Operand)
  /-- R286. 64-bit subtraction. -/
  | sub64 (d : Dest) (a b : Operand)
  /-- R286. Low 64 bits of a product. -/
  | mul64 (d : Dest) (a b : Operand)
  /-- R286. High 64 bits of a signed product. -/
  | mulh64 (d : Dest) (a b : Operand)
  /-- R286. High 64 bits of an unsigned product. -/
  | mulhn64 (d : Dest) (a b : Operand)
  /-- R286. Signed 64-bit minimum. -/
  | min64 (d : Dest) (a b : Operand)
  /-- R286. Signed 64-bit maximum. -/
  | max64 (d : Dest) (a b : Operand)
  /-- R286. Unsigned 64-bit minimum. -/
  | minn64 (d : Dest) (a b : Operand)
  /-- R286. Unsigned 64-bit maximum. -/
  | maxn64 (d : Dest) (a b : Operand)
  /-- R286. 64-bit bitwise AND. -/
  | and64 (d : Dest) (a b : Operand)
  /-- R286. 64-bit bitwise OR. -/
  | or64 (d : Dest) (a b : Operand)
  /-- R286. 64-bit bitwise XOR. -/
  | xor64 (d : Dest) (a b : Operand)
  /-- R286. 64-bit A AND NOT B. -/
  | andn64 (d : Dest) (a b : Operand)
  /-- R286. 64-bit left shift by B mod 64. -/
  | shl64 (d : Dest) (a b : Operand)
  /-- R286. 64-bit logical right shift. -/
  | shr64 (d : Dest) (a b : Operand)
  /-- R286. 64-bit arithmetic right shift. -/
  | sar64 (d : Dest) (a b : Operand)
  /-- R286. 64-bit left rotation. -/
  | rotl64 (d : Dest) (a b : Operand)
  /-- R286. Counts leading zero bits of a 64-bit value. -/
  | clz64 (d : Dest) (a : Operand)
  /-- R286. Counts trailing zero bits of a 64-bit value. -/
  | ctz64 (d : Dest) (a : Operand)
  /-- R286. Counts one bits of a 64-bit value. -/
  | popc64 (d : Dest) (a : Operand)
  /-- R286. Reverses the bits of a 64-bit value. -/
  | brev64 (d : Dest) (a : Operand)
  /-- R289. Wrapping 64-bit absolute value. -/
  | abs64 (d : Dest) (a : Operand)
  /-- R286. 64-bit negation. -/
  | neg64 (d : Dest) (a : Operand)
  /-- R286. 64-bit bitwise complement. -/
  | not64 (d : Dest) (a : Operand)
  /-- R289. Saturating signed 64-bit addition. -/
  | adds64 (d : Dest) (a b : Operand)
  /-- R289. Saturating signed 64-bit subtraction. -/
  | subs64 (d : Dest) (a b : Operand)
  /-- R289. Signed 64-bit division. -/
  | div64 (d : Dest) (a b : Operand)
  /-- R289. Unsigned 64-bit division. -/
  | divn64 (d : Dest) (a b : Operand)
  /-- R289. Signed 64-bit remainder. -/
  | rem64 (d : Dest) (a b : Operand)
  /-- R289. Unsigned 64-bit remainder. -/
  | remn64 (d : Dest) (a b : Operand)
  /-- R287. Copies all 64 bits of A. -/
  | mov64 (d : Dest) (a : Operand)
  /-- R288. Extends part of A by a raw code, as XTND. -/
  | xtnd64 (d : Dest) (a : Operand) (code : BitVec 7)
  /-- R290. Exact signed 32 by 32 to 64-bit product. -/
  | mulw (d : Dest) (a b : Operand)
  /-- R290. Exact unsigned 32 by 32 to 64-bit product. -/
  | mulwn (d : Dest) (a b : Operand)
  /-- R293. Extracts a signed bit field of A. -/
  | bfx (d : Dest) (a b : Operand)
  /-- R293. Extracts an unsigned bit field of A. -/
  | bfxn (d : Dest) (a b : Operand)
  /-- R293. Inserts B into a bit field of A. -/
  | bfi (d : Dest) (a b c : Operand)
  /-- R292. Forms A + B modulo 2^64. -/
  | lea1 (d : Dest) (a b : Operand)
  /-- R292. Forms A + 2B modulo 2^64. -/
  | lea2 (d : Dest) (a b : Operand)
  /-- R292. Forms A + 4B modulo 2^64. -/
  | lea4 (d : Dest) (a b : Operand)
  /-- R292. Forms A + 8B modulo 2^64. -/
  | lea8 (d : Dest) (a b : Operand)
  /-- R292. Forms A + 16B modulo 2^64. -/
  | lea16 (d : Dest) (a b : Operand)
  /-- R294. Builds each result byte from the bytes of B and A by selectors in C. -/
  | perm (d : Dest) (a b c : Operand)
  /-- R292. 32-bit multiply-add, sign-extended. -/
  | mad (d : Dest) (a b c : Operand)
  /-- R292. 64-bit multiply-add. -/
  | mad64 (d : Dest) (a b c : Operand)
  /-- R295. Predicate AND. -/
  | pand (d : Dest) (a b : Operand)
  /-- R295. Predicate OR. -/
  | por (d : Dest) (a b : Operand)
  /-- R295. Predicate XOR. -/
  | pxor (d : Dest) (a b : Operand)
  /-- R295. Predicate complement. -/
  | pnot (d : Dest) (a : Operand)
  /-- R295. Predicate A AND NOT B. -/
  | pandn (d : Dest) (a b : Operand)
  /-- R295. Turns a predicate into an all-ones or zero mask. -/
  | p2i (d : Dest) (a : Operand)
  /-- R295. Turns a non-zero value into a true predicate. -/
  | i2p (d : Dest) (a : Operand)
  /-- R300. FP32 addition rounded RNE. -/
  | fadd (d : Dest) (a b : Operand)
  /-- R300. FP32 subtraction. -/
  | fsub (d : Dest) (a b : Operand)
  /-- R300. FP32 multiplication. -/
  | fmul (d : Dest) (a b : Operand)
  /-- R300. FP32 fused multiply-add with one rounding. -/
  | fma (d : Dest) (a b c : Operand)
  /-- R197. FP32 minimum with NaN and signed-zero rules. -/
  | fmin (d : Dest) (a b : Operand)
  /-- R197. FP32 maximum with NaN and signed-zero rules. -/
  | fmax (d : Dest) (a b : Operand)
  /-- R301. Clears the FP32 sign bit. -/
  | fabs (d : Dest) (a : Operand)
  /-- R301. Inverts the FP32 sign bit. -/
  | fneg (d : Dest) (a : Operand)
  /-- R300. FP32 equality compare. -/
  | feq (d : Dest) (a b : Operand)
  /-- R300. FP32 not-equal-or-unordered compare. -/
  | fne (d : Dest) (a b : Operand)
  /-- R300. FP32 less-than compare. -/
  | flt (d : Dest) (a b : Operand)
  /-- R300. FP32 less-or-equal compare. -/
  | fle (d : Dest) (a b : Operand)
  /-- R300. True when either FP32 operand is NaN. -/
  | funord (d : Dest) (a b : Operand)
  /-- R301. Rounds FP32 to an integer value, nearest-even. -/
  | frndn (d : Dest) (a : Operand)
  /-- R301. Rounds FP32 to an integer value toward zero. -/
  | frndz (d : Dest) (a : Operand)
  /-- R301. Rounds FP32 to an integer value upward. -/
  | frndu (d : Dest) (a : Operand)
  /-- R301. Rounds FP32 to an integer value downward. -/
  | frndd (d : Dest) (a : Operand)
  /-- R301. Clamps FP32 to [+0, 1.0]. -/
  | fsat (d : Dest) (a : Operand)
  /-- R301. Copies B's sign onto A. -/
  | fcsgn (d : Dest) (a b : Operand)
  /-- R300. Correctly rounded FP32 division. -/
  | fdiv (d : Dest) (a b : Operand)
  /-- R300. Correctly rounded FP32 square root. -/
  | fsqrt (d : Dest) (a : Operand)
  /-- R384. Cullet that traps for emulation of a saturating FP32 by FP16 multiply-add. -/
  | fmadsat (d : Dest) (a b : Operand)
  /-- R305. FP32 to signed 32-bit integer, toward zero. -/
  | ftoi (d : Dest) (a : Operand)
  /-- R305. FP32 to unsigned 32-bit integer, toward zero. -/
  | fton (d : Dest) (a : Operand)
  /-- R305. FP32 to signed 64-bit integer. -/
  | ftoi64 (d : Dest) (a : Operand)
  /-- R305. FP32 to unsigned 64-bit integer. -/
  | fton64 (d : Dest) (a : Operand)
  /-- R305. Signed 32-bit integer to FP32. -/
  | itof (d : Dest) (a : Operand)
  /-- R305. Unsigned 32-bit integer to FP32. -/
  | ntof (d : Dest) (a : Operand)
  /-- R305. Signed 64-bit integer to FP32. -/
  | itof64 (d : Dest) (a : Operand)
  /-- R305. Unsigned 64-bit integer to FP32. -/
  | ntof64 (d : Dest) (a : Operand)
  /-- R306. Packs two FP32 values to FP16. -/
  | pkh (d : Dest) (a b : Operand)
  /-- R306. Packs two FP32 values to BF16. -/
  | pkb (d : Dest) (a b : Operand)
  /-- R306. Unpacks two FP16 values to FP32. -/
  | uph (d : Dest) (a : Operand)
  /-- R306. Unpacks two BF16 values to FP32. -/
  | upb (d : Dest) (a : Operand)
  /-- R307. Packs four BF16 values to E4M3. -/
  | pk8e4 (d : Dest) (a : Operand)
  /-- R307. Packs four BF16 values to E5M2. -/
  | pk8e5 (d : Dest) (a : Operand)
  /-- R307. Unpacks four E4M3 values to BF16. -/
  | up8e4 (d : Dest) (a : Operand)
  /-- R307. Unpacks four E5M2 values to BF16. -/
  | up8e5 (d : Dest) (a : Operand)
  /-- R307. Packs eight BF16 values to E2M1. -/
  | pk4 (d : Dest) (a b : Operand)
  /-- R307. Unpacks E2M1 elements 0 to 3 to BF16. -/
  | up4l (d : Dest) (a : Operand)
  /-- R307. Unpacks E2M1 elements 4 to 7 to BF16. -/
  | up4h (d : Dest) (a : Operand)
  /-- R308. Packs four 16-bit integers to saturated INT8. -/
  | pki8 (d : Dest) (a : Operand)
  /-- R308. Unpacks INT8 to sign-extended 16-bit integers. -/
  | upi8 (d : Dest) (a : Operand)
  /-- R308. Packs eight 8-bit integers to saturated INT4. -/
  | pki4 (d : Dest) (a : Operand)
  /-- R308. Unpacks INT4 to sign-extended 8-bit integers. -/
  | upi4 (d : Dest) (a : Operand)
  /-- R310. Multiplies an FP32 value by an E8M0 scale. -/
  | scale (d : Dest) (a b : Operand)
  /-- R310. Derives an E8M0 scale from an FP32 magnitude for an element format. -/
  | escale (d : Dest) (a : Operand) (f : BitVec 7)
  /-- R310. Decodes half of an LC2 codeword to four BF16 weights. -/
  | cbdec (d : Dest) (a : Operand) (h : BitVec 7)
  /-- R307. Packs four BF16 values to E3M2. -/
  | pk6e3 (d : Dest) (a : Operand)
  /-- R307. Unpacks four E3M2 values to BF16. -/
  | up6e3 (d : Dest) (a : Operand)
  /-- R307. Packs four BF16 values to E2M3. -/
  | pk6e2 (d : Dest) (a : Operand)
  /-- R307. Unpacks four E2M3 values to BF16. -/
  | up6e2 (d : Dest) (a : Operand)
  /-- R309. Stochastically rounded pack of two FP32 values to FP16. -/
  | pkhSr (d : Dest) (a b c : Operand)
  /-- R309. Stochastically rounded pack of two FP32 values to BF16. -/
  | pkbSr (d : Dest) (a b c : Operand)
  /-- R309. Stochastically rounded pack to E4M3. -/
  | pk8e4Sr (d : Dest) (a c : Operand)
  /-- R309. Stochastically rounded pack to E5M2. -/
  | pk8e5Sr (d : Dest) (a c : Operand)
  /-- R309. Stochastically rounded pack to E2M1. -/
  | pk4Sr (d : Dest) (a b c : Operand)
  /-- R309. Stochastically rounded pack to E3M2. -/
  | pk6e3Sr (d : Dest) (a c : Operand)
  /-- R309. Stochastically rounded pack to E2M3. -/
  | pk6e2Sr (d : Dest) (a c : Operand)
  /-- R384. Cullet that traps for emulation of an FP32 to FP16 flush-to-zero conversion. -/
  | cvt16z (d : Dest) (a : Operand)
  /-- R199. Special-function reciprocal approximation. -/
  | rcp (d : Dest) (a : Operand)
  /-- R199. Special-function reciprocal square root. -/
  | rsq (d : Dest) (a : Operand)
  /-- R199. Special-function square root approximation. -/
  | sqrta (d : Dest) (a : Operand)
  /-- R199. Special-function base-2 exponential. -/
  | exp2 (d : Dest) (a : Operand)
  /-- R199. Special-function base-2 logarithm. -/
  | log2 (d : Dest) (a : Operand)
  /-- R199. Special-function sin(pi x). -/
  | sinpi (d : Dest) (a : Operand)
  /-- R199. Special-function cos(pi x). -/
  | cospi (d : Dest) (a : Operand)
  /-- R199. Special-function hyperbolic tangent. -/
  | tanh (d : Dest) (a : Operand)
  /-- R199. Special-function logistic sigmoid. -/
  | sigm (d : Dest) (a : Operand)
  deriving DecidableEq, Repr

end Sys2Proof
end

