-- ==== Sys2Proof/WellFormed.lean ====
section
/-! DEFINITION. Which instructions are well formed: the limits that the descriptions put on raw fields and operands
(R133, R137 to R140, R247, R256, R261, R288, R291, R310, R315 to R317, R321, R323, R325, R326, R331, R335, R341, R359,
R376). A word that breaks one is illegal, cause 0x01. -/
namespace Sys2Proof

/-- Not a literal (R240, R256). -/
def Operand.notLit : Operand → Bool
  | .lit _ => false
  | _ => true

/-- A slot or zero (R133, R261). -/
def Dest.slotOrZero : Dest → Bool
  | .w _ => true
  | .zero => true
  | _ => false

/-- What LD may name (R316). -/
def Dest.loadable : Dest → Bool
  | .g _ => false
  | .pw => false
  | _ => true

/-- An even v value, for the 16-byte forms (R316). -/
def Dest.evenV : Dest → Bool
  | .v i => i.toNat % 2 == 0
  | _ => false

/-- An even v value as a source (R316). -/
def Operand.evenV : Operand → Bool
  | .v i => i.toNat % 2 == 0
  | _ => false

/-- Names that sequencer code may read (R343). -/
def Operand.seqName : Operand → Bool
  | .v _ => true
  | .w _ => true
  | .zero => true
  | .lit _ => true
  | _ => false

/-- Names that sequencer code may write (R343). -/
def Dest.seqName : Dest → Bool
  | .v _ => true
  | .w _ => true
  | .zero => true
  | _ => false

/-- The raw fields and operands of an instruction are in range. `sq` says that it stands in sequencer code, where R346
lifts R133. -/
def Instr.wellFormed (sq : Bool) : Instr → Bool
  | .jmp _ => true
  | .brt p _ => p.notLit
  | .brf p _ => p.notLit
  | .call _ _ => true
  | .tramp _ => true
  | .trampLink _ _ => true
  | .bri _ => true
  | .calli _ _ => true
  | .ret => true
  | .exit => true
  | .fork d _ _ => d.slotOrZero
  | .bar n => n.toNat < 16
  | .arrive n => n.toNat < 16
  | .await n => n.toNat < 16
  | .winb _ => true
  | .steer _ _ _ => true
  | .merge _ _ _ _ => true
  | .sel _ _ _ _ => true
  | .pget _ n => n.toNat < 16
  | .pset _ n => n.toNat < 16
  | .yield _ => true
  | .launch d _ _ => d.slotOrZero
  | .efork d _ _ => d.slotOrZero
  | .rdv n => n.toNat < 16
  | .sequencerRdv _ n => n.toNat < 16
  | .cancel d _ lvl => d.slotOrZero && decide (lvl.toNat < 4)
  | .shfl _ _ _ => true
  | .vote _ _ mode => mode.toNat < 4
  | .add _ _ _ => true
  | .sub _ _ _ => true
  | .mul _ _ _ => true
  | .mulh _ _ _ => true
  | .mulhn _ _ _ => true
  | .min _ _ _ => true
  | .max _ _ _ => true
  | .minn _ _ _ => true
  | .maxn _ _ _ => true
  | .and _ _ _ => true
  | .or _ _ _ => true
  | .xor _ _ _ => true
  | .andn _ _ _ => true
  | .shl _ _ _ => true
  | .shr _ _ _ => true
  | .sar _ _ _ => true
  | .rotl _ _ _ => true
  | .clz _ _ => true
  | .ctz _ _ => true
  | .popc _ _ => true
  | .brev _ _ => true
  | .abs _ _ => true
  | .neg _ _ => true
  | .not _ _ => true
  | .adds _ _ _ => true
  | .subs _ _ _ => true
  | .div _ _ _ => true
  | .divn _ _ _ => true
  | .rem _ _ _ => true
  | .remn _ _ _ => true
  | .mov _ _ => true
  | .xtnd _ _ code => code.toNat < 6
  | .mul24 _ _ _ => true
  | .add64 _ _ _ => true
  | .sub64 _ _ _ => true
  | .mul64 _ _ _ => true
  | .mulh64 _ _ _ => true
  | .mulhn64 _ _ _ => true
  | .min64 _ _ _ => true
  | .max64 _ _ _ => true
  | .minn64 _ _ _ => true
  | .maxn64 _ _ _ => true
  | .and64 _ _ _ => true
  | .or64 _ _ _ => true
  | .xor64 _ _ _ => true
  | .andn64 _ _ _ => true
  | .shl64 _ _ _ => true
  | .shr64 _ _ _ => true
  | .sar64 _ _ _ => true
  | .rotl64 _ _ _ => true
  | .clz64 _ _ => true
  | .ctz64 _ _ => true
  | .popc64 _ _ => true
  | .brev64 _ _ => true
  | .abs64 _ _ => true
  | .neg64 _ _ => true
  | .not64 _ _ => true
  | .adds64 _ _ _ => true
  | .subs64 _ _ _ => true
  | .div64 _ _ _ => true
  | .divn64 _ _ _ => true
  | .rem64 _ _ _ => true
  | .remn64 _ _ _ => true
  | .mov64 _ _ => true
  | .xtnd64 _ _ code => code.toNat < 6
  | .mulw _ _ _ => true
  | .mulwn _ _ _ => true
  | .icmp _ cond _ _ _ => cond.toNat < 6
  | .bfx _ _ _ => true
  | .bfxn _ _ _ => true
  | .bfi _ _ _ _ => true
  | .lea1 _ _ _ => true
  | .lea2 _ _ _ => true
  | .lea4 _ _ _ => true
  | .lea8 _ _ _ => true
  | .lea16 _ _ _ => true
  | .perm _ _ _ _ => true
  | .mad _ _ _ _ => true
  | .mad64 _ _ _ _ => true
  | .pand _ _ _ => true
  | .por _ _ _ => true
  | .pxor _ _ _ => true
  | .pnot _ _ => true
  | .pandn _ _ _ => true
  | .p2i _ _ => true
  | .i2p _ _ => true
  | .addi _ _ _ _ => true
  | .andi _ _ _ _ => true
  | .ori _ _ _ _ => true
  | .shli _ _ _ => true
  | .shri _ _ _ => true
  | .sari _ _ _ => true
  | .rotli _ _ _ => true
  | .lhi _ _ => true
  | .pchi _ _ => true
  | .fadd _ _ _ => true
  | .fsub _ _ _ => true
  | .fmul _ _ _ => true
  | .fma _ _ _ _ => true
  | .fmin _ _ _ => true
  | .fmax _ _ _ => true
  | .fabs _ _ => true
  | .fneg _ _ => true
  | .feq _ _ _ => true
  | .fne _ _ _ => true
  | .flt _ _ _ => true
  | .fle _ _ _ => true
  | .funord _ _ _ => true
  | .frndn _ _ => true
  | .frndz _ _ => true
  | .frndu _ _ => true
  | .frndd _ _ => true
  | .fsat _ _ => true
  | .fcsgn _ _ _ => true
  | .fdiv _ _ _ => true
  | .fsqrt _ _ => true
  | .fmadsat _ _ _ => true
  | .hadd _ _ _ _ => true
  | .hsub _ _ _ _ => true
  | .hmul _ _ _ _ => true
  | .hfma _ _ _ _ _ => true
  | .hmin _ _ _ _ => true
  | .hmax _ _ _ _ => true
  | .hneg _ _ _ => true
  | .habs _ _ _ => true
  | .hdot2 _ _ _ _ _ => true
  | .ftoi _ _ => true
  | .fton _ _ => true
  | .ftoi64 _ _ => true
  | .fton64 _ _ => true
  | .itof _ _ => true
  | .ntof _ _ => true
  | .itof64 _ _ => true
  | .ntof64 _ _ => true
  | .pkh _ _ _ => true
  | .pkb _ _ _ => true
  | .uph _ _ => true
  | .upb _ _ => true
  | .pk8e4 _ _ => true
  | .pk8e5 _ _ => true
  | .up8e4 _ _ => true
  | .up8e5 _ _ => true
  | .pk4 _ _ _ => true
  | .up4l _ _ => true
  | .up4h _ _ => true
  | .pki8 _ _ => true
  | .upi8 _ _ => true
  | .pki4 _ _ => true
  | .upi4 _ _ => true
  | .scale _ _ _ => true
  | .escale _ _ f => f.toNat < 6
  | .cbdec _ _ h => h.toNat < 2
  | .pk6e3 _ _ => true
  | .up6e3 _ _ => true
  | .pk6e2 _ _ => true
  | .up6e2 _ _ => true
  | .pkhSr _ _ _ _ => true
  | .pkbSr _ _ _ _ => true
  | .pk8e4Sr _ _ _ => true
  | .pk8e5Sr _ _ _ => true
  | .pk4Sr _ _ _ _ => true
  | .pk6e3Sr _ _ _ => true
  | .pk6e2Sr _ _ _ => true
  | .cvt16z _ _ => true
  | .rcp _ _ => true
  | .rsq _ _ => true
  | .sqrta _ _ => true
  | .exp2 _ _ => true
  | .log2 _ _ => true
  | .sinpi _ _ => true
  | .cospi _ _ => true
  | .tanh _ _ => true
  | .sigm _ _ => true
  | .ld _ sz d _ _ => d.loadable && sz != 7 && (sz != 6 || d.evenV)
  | .ldFmt _ d _ _ => d.loadable
  | .st q sz x _ _ => x.notLit && sz != 7 && decide (q.toNat < 3) && (sz != 6 || x.evenV)
  | .stFmt q x _ _ => x.notLit && decide (q.toNat < 3)
  | .atomLoad _ scope order d _ => (sq || d.slotOrZero) && decide (scope.toNat < 6) && decide (order.toNat < 2)
  | .atomStore _ scope order _ _ => decide (scope.toNat < 6) && decide (order.toNat % 2 = 0)
  | .atomAdd _ scope _ d _ _ => (sq || d.slotOrZero) && decide (scope.toNat < 6)
  | .atomSub _ scope _ d _ _ => (sq || d.slotOrZero) && decide (scope.toNat < 6)
  | .atomAnd _ scope _ d _ _ => (sq || d.slotOrZero) && decide (scope.toNat < 6)
  | .atomOr _ scope _ d _ _ => (sq || d.slotOrZero) && decide (scope.toNat < 6)
  | .atomXor _ scope _ d _ _ => (sq || d.slotOrZero) && decide (scope.toNat < 6)
  | .atomMin _ scope _ d _ _ => (sq || d.slotOrZero) && decide (scope.toNat < 6)
  | .atomMax _ scope _ d _ _ => (sq || d.slotOrZero) && decide (scope.toNat < 6)
  | .atomMinn _ scope _ d _ _ => (sq || d.slotOrZero) && decide (scope.toNat < 6)
  | .atomMaxn _ scope _ d _ _ => (sq || d.slotOrZero) && decide (scope.toNat < 6)
  | .atomSwap _ scope _ d _ _ => (sq || d.slotOrZero) && decide (scope.toNat < 6)
  | .atomCas _ scope _ d _ _ _ => (sq || d.slotOrZero) && decide (scope.toNat < 6)
  | .atomInc _ scope _ d _ _ => (sq || d.slotOrZero) && decide (scope.toNat < 6)
  | .atomDec _ scope _ d _ _ => (sq || d.slotOrZero) && decide (scope.toNat < 6)
  | .atomFadd _ scope _ d _ _ => (sq || d.slotOrZero) && decide (scope.toNat < 6)
  | .atomFmin _ scope _ d _ _ => (sq || d.slotOrZero) && decide (scope.toNat < 6)
  | .atomFmax _ scope _ d _ _ => (sq || d.slotOrZero) && decide (scope.toNat < 6)
  | .atomHadd2F16 _ scope _ d _ _ => (sq || d.slotOrZero) && decide (scope.toNat < 6)
  | .atomHadd2Bf16 _ scope _ d _ _ => (sq || d.slotOrZero) && decide (scope.toNat < 6)
  | .redAdd _ scope order _ _ => decide (scope.toNat < 6) && decide (order.toNat % 2 = 0)
  | .redAnd _ scope order _ _ => decide (scope.toNat < 6) && decide (order.toNat % 2 = 0)
  | .redOr _ scope order _ _ => decide (scope.toNat < 6) && decide (order.toNat % 2 = 0)
  | .redXor _ scope order _ _ => decide (scope.toNat < 6) && decide (order.toNat % 2 = 0)
  | .redMin _ scope order _ _ => decide (scope.toNat < 6) && decide (order.toNat % 2 = 0)
  | .redMax _ scope order _ _ => decide (scope.toNat < 6) && decide (order.toNat % 2 = 0)
  | .redMinn _ scope order _ _ => decide (scope.toNat < 6) && decide (order.toNat % 2 = 0)
  | .redMaxn _ scope order _ _ => decide (scope.toNat < 6) && decide (order.toNat % 2 = 0)
  | .redFadd _ scope order _ _ => decide (scope.toNat < 6) && decide (order.toNat % 2 = 0)
  | .redHadd2F16 _ scope order _ _ => decide (scope.toNat < 6) && decide (order.toNat % 2 = 0)
  | .redHadd2Bf16 _ scope order _ _ => decide (scope.toNat < 6) && decide (order.toNat % 2 = 0)
  | .fence scope mask kind => decide (scope.toNat < 6) && mask != 0 && decide (kind.toNat < 4)
  | .fencex scope => scope.toNat < 6
  | .relb scope mask n n2 => decide (scope.toNat < 6) && mask != 0 && decide (n.toNat < 64) && (decide (64 ≤ n2.toNat) || n2 == 0)
  | .acqb scope mask n => decide (scope.toNat < 6) && mask != 0 && decide (n.toNat < 64)
  | .spmap _ _ _ => true
  | .spunmap t _ => t.toNat < 64
  | .spwb t _ _ => t.toNat < 64
  | .spinv _ _ => true
  | .spcpy t _ _ _ => t.toNat < 64
  | .spfill t _ _ _ => t.toNat < 64
  | .pref _ k => k.toNat < 2
  | .ipref _ k => k.toNat < 16
  | .cpy t _ _ _ => t.toNat < 64
  | .cpyr t _ _ => t.toNat < 64
  | .cpyp t _ _ => t.toNat < 64
  | .cpyg t _ _ => t.toNat < 64
  | .wany d _ => d.slotOrZero
  | .wall d _ => d.slotOrZero
  | .ffr _ _ => true
  | .tags _ => true
  | .tagclr d _ => d.slotOrZero
  | .mma ctl _ _ => ctl.notLit
  | .mdelta ctl _ _ => ctl.notLit
  | .mscan ctl _ _ => ctl.notLit
  | .mout ctl _ => ctl.notLit
  | .mlda ctl _ => ctl.notLit
  | .mzero _ ty => ty.toNat < 2
  | .mpin _ _ _ => true
  | .munpin _ => true
  | .mspill _ _ => true
  | .mfill _ _ => true
  | .mwait _ => true
  | .mown _ _ => true
  | .rdsr _ n => n.toNat < 22
  | .wrsr n _ => n == 1 || n == 10
  | .clock _ _ => true
  | .trap _ => true
  | .resumeRetry => true
  | .resumeSkip _ => true
  | .bkpt _ => true
  | .emulret _ => true
  | .nop => true
  | .perfc _ k => k.toNat < 16
  | .laneid _ => true
  | .blockAdmission _ => true
  | .commit _ => true
  | .instanceFault _ => true
  | .postCommitTrapDelivery _ => true
  | .loadResultArrival _ => true
  | .schedulerChoice core => decide (core < 640)
  | .instructionLineFill core _ _ => decide (core < 640)
  | .configBuildComplete core _ _ => decide (core < 640)
  | .configPlacement core _ _ => decide (core < 640)
  | .nodeTeardown core _ _ => decide (core < 640)
  | .fibreAgeing _ => true
  | .yieldDelayExpiry _ => true
  | .windowFillComplete _ _ => true
  | .homeWrite _ => true
  | .copyOperationComplete core _ => decide (core < 640)
  | .drainRequest _ => true
  | .acquireComplete _ => true
  | .fenceTokenArrival _ => true
  | .fenceComplete _ => true
  | .l1AgeingSweep core => decide (core < 640)
  | .coherenceRequest die _ _ => decide (die < 8)
  | .lineEviction die _ => decide (die < 8)
  | .directoryEntryEviction _ => true
  | .directoryError _ => true
  | .agentRejoin _ _ => true
  | .holderOffer _ => true
  | .grantRequest die _ => decide (die < 8)
  | .forcedDrain die _ => decide (die < 8)
  | .drainApplied _ => true
  | .boundedRead _ => true
  | .repartitionBankEmpty core => decide (core < 640)
  | .l1FlushComplete core => decide (core < 640)
  | .xlatInvPageRange _ => true
  | .xlatInvContext _ => true
  | .xlatInvRegion _ => true
  | .xlatInvCodeRange _ => true
  | .xlatInvAll _ => true
  | .xlatInvalidationDone => true
  | .cspartWrite core _ => decide (core < 640)
  | .bvdrainWrite _ => true
  | .qcfgWrite q _ _ => decide (q < 2048)
  | .ingressPortWrite func _ _ => decide (func < 64)
  | .launchAcceptance q => decide (q < 2048)
  | .bindRecordWrite die _ _ _ => decide (die < 8)
  | .gatherPlacement => true
  | .gatherExit _ => true
  | .launchCompletion _ => true
  | .codeLoad _ _ => true
  | .codeLoadComplete _ => true
  | .codeUnload _ => true
  | .codeEviction _ => true
  | .kill _ => true
  | .drain _ => true
  | .checkpoint _ => true
  | .checkpointSaved _ _ => true
  | .restore _ => true
  | .timeSliceExpiry _ => true
  | .sequencerProgramStart cl => decide (cl < 160)
  | .matComplete cl _ => decide (cl < 160)
  | .dbgHaltreq slot => decide (slot < 8)
  | .dbgcmdFibre slot _ => decide (slot < 8)
  | .dbgcmdGather slot _ => decide (slot < 8)
  | .dbgcmdJob slot _ => decide (slot < 8)
  | .serviceRegister func => decide (func < 64)
  | .serviceWithdraw func => decide (func < 64)
  | .serviceInvalidate func => decide (func < 64)
  | .servicePowerMode func => decide (func < 64)
  | .serviceReadLog func => decide (func < 64)
  | .serviceDebugSlot func => decide (func < 64)
  | .serviceJobConfig func => decide (func < 64)
  | .serviceLoadFirmware func => decide (func < 64)
  | .mailboxReply func => decide (func < 64)
  | .onchipMapWrite _ _ => true
  | .registerWrite _ _ => true
  | .hostWindowAccess func _ _ _ => decide (func < 64)
  | .peerRequest _ _ _ _ => true
  | .atsInvalidation func _ _ => decide (func < 64)
  | .priResponse func _ _ => decide (func < 64)
  | .priTimeout func _ => decide (func < 64)
  | .secondTierTimeout port => decide (port < 2)
  | .flitReplay br => decide (br.bridge < 28)
  | .linkRetrain br _ => decide (br < 28)
  | .linkDown br => decide (br < 28)
  | .portLaneFailure port => decide (port < 24)
  | .portDown port => decide (port < 24)
  | .clusterFailure cl => decide (cl < 160)
  | .dieOutOfService die => decide (die < 8)
  | .rowSparing die _ => decide (die < 8)
  | .powerChangeApply => true
  | .arbiterInterval _ _ => true
  | .coolantLimit _ => true
  | .reset => true
  | .pageWalkComplete _ => true
  | .grantRecordEviction _ => true
  | .homeTileEviction cl id => decide (cl < 160) && decide (id < 32)
  | .sendAllowanceGrant _ _ _ => true
  | .atsTranslationCompletion func _ _ => decide (func < 64)
  | .jobClose _ => true
  | .managementCoreFailure => true

/-- Every name of an instruction is one that sequencer code accepts, and the instruction is one that sequencer code
holds (R343, R345). -/
def Instr.seqOk : Instr → Bool
  | .jmp _ => true
  | .brt p _ => p.seqName
  | .brf p _ => p.seqName
  | .call k _ => k == 0
  | .tramp _ => true
  | .trampLink k _ => k == 0
  | .bri a => a.seqName
  | .calli a k => a.seqName && k == 0
  | .ret => true
  | .exit => true
  | .fork _ _ _ => false
  | .bar _ => false
  | .arrive _ => false
  | .await _ => false
  | .winb _ => false
  | .steer _ _ _ => false
  | .merge _ _ _ _ => false
  | .sel _ _ _ _ => false
  | .pget _ _ => false
  | .pset _ _ => false
  | .yield _ => false
  | .launch _ _ _ => false
  | .efork _ _ _ => false
  | .rdv _ => false
  | .sequencerRdv a _ => a.seqName
  | .cancel _ _ _ => false
  | .shfl _ _ _ => false
  | .vote _ _ _ => false
  | .add d a b => d.seqName && a.seqName && b.seqName
  | .sub d a b => d.seqName && a.seqName && b.seqName
  | .mul d a b => d.seqName && a.seqName && b.seqName
  | .mulh d a b => d.seqName && a.seqName && b.seqName
  | .mulhn d a b => d.seqName && a.seqName && b.seqName
  | .min d a b => d.seqName && a.seqName && b.seqName
  | .max d a b => d.seqName && a.seqName && b.seqName
  | .minn d a b => d.seqName && a.seqName && b.seqName
  | .maxn d a b => d.seqName && a.seqName && b.seqName
  | .and d a b => d.seqName && a.seqName && b.seqName
  | .or d a b => d.seqName && a.seqName && b.seqName
  | .xor d a b => d.seqName && a.seqName && b.seqName
  | .andn d a b => d.seqName && a.seqName && b.seqName
  | .shl d a b => d.seqName && a.seqName && b.seqName
  | .shr d a b => d.seqName && a.seqName && b.seqName
  | .sar d a b => d.seqName && a.seqName && b.seqName
  | .rotl d a b => d.seqName && a.seqName && b.seqName
  | .clz d a => d.seqName && a.seqName
  | .ctz d a => d.seqName && a.seqName
  | .popc d a => d.seqName && a.seqName
  | .brev d a => d.seqName && a.seqName
  | .abs d a => d.seqName && a.seqName
  | .neg d a => d.seqName && a.seqName
  | .not d a => d.seqName && a.seqName
  | .adds d a b => d.seqName && a.seqName && b.seqName
  | .subs d a b => d.seqName && a.seqName && b.seqName
  | .div d a b => d.seqName && a.seqName && b.seqName
  | .divn d a b => d.seqName && a.seqName && b.seqName
  | .rem d a b => d.seqName && a.seqName && b.seqName
  | .remn d a b => d.seqName && a.seqName && b.seqName
  | .mov d a => d.seqName && a.seqName
  | .xtnd d a _ => d.seqName && a.seqName
  | .mul24 _ _ _ => false
  | .add64 d a b => d.seqName && a.seqName && b.seqName
  | .sub64 d a b => d.seqName && a.seqName && b.seqName
  | .mul64 d a b => d.seqName && a.seqName && b.seqName
  | .mulh64 d a b => d.seqName && a.seqName && b.seqName
  | .mulhn64 d a b => d.seqName && a.seqName && b.seqName
  | .min64 d a b => d.seqName && a.seqName && b.seqName
  | .max64 d a b => d.seqName && a.seqName && b.seqName
  | .minn64 d a b => d.seqName && a.seqName && b.seqName
  | .maxn64 d a b => d.seqName && a.seqName && b.seqName
  | .and64 d a b => d.seqName && a.seqName && b.seqName
  | .or64 d a b => d.seqName && a.seqName && b.seqName
  | .xor64 d a b => d.seqName && a.seqName && b.seqName
  | .andn64 d a b => d.seqName && a.seqName && b.seqName
  | .shl64 d a b => d.seqName && a.seqName && b.seqName
  | .shr64 d a b => d.seqName && a.seqName && b.seqName
  | .sar64 d a b => d.seqName && a.seqName && b.seqName
  | .rotl64 d a b => d.seqName && a.seqName && b.seqName
  | .clz64 d a => d.seqName && a.seqName
  | .ctz64 d a => d.seqName && a.seqName
  | .popc64 d a => d.seqName && a.seqName
  | .brev64 d a => d.seqName && a.seqName
  | .abs64 d a => d.seqName && a.seqName
  | .neg64 d a => d.seqName && a.seqName
  | .not64 d a => d.seqName && a.seqName
  | .adds64 d a b => d.seqName && a.seqName && b.seqName
  | .subs64 d a b => d.seqName && a.seqName && b.seqName
  | .div64 d a b => d.seqName && a.seqName && b.seqName
  | .divn64 d a b => d.seqName && a.seqName && b.seqName
  | .rem64 d a b => d.seqName && a.seqName && b.seqName
  | .remn64 d a b => d.seqName && a.seqName && b.seqName
  | .mov64 d a => d.seqName && a.seqName
  | .xtnd64 d a _ => d.seqName && a.seqName
  | .mulw d a b => d.seqName && a.seqName && b.seqName
  | .mulwn d a b => d.seqName && a.seqName && b.seqName
  | .icmp _ _ d a b => d.seqName && a.seqName && b.seqName
  | .bfx d a b => d.seqName && a.seqName && b.seqName
  | .bfxn d a b => d.seqName && a.seqName && b.seqName
  | .bfi d a b c => d.seqName && a.seqName && b.seqName && c.seqName
  | .lea1 d a b => d.seqName && a.seqName && b.seqName
  | .lea2 d a b => d.seqName && a.seqName && b.seqName
  | .lea4 d a b => d.seqName && a.seqName && b.seqName
  | .lea8 d a b => d.seqName && a.seqName && b.seqName
  | .lea16 d a b => d.seqName && a.seqName && b.seqName
  | .perm d a b c => d.seqName && a.seqName && b.seqName && c.seqName
  | .mad d a b c => d.seqName && a.seqName && b.seqName && c.seqName
  | .mad64 d a b c => d.seqName && a.seqName && b.seqName && c.seqName
  | .pand d a b => d.seqName && a.seqName && b.seqName
  | .por d a b => d.seqName && a.seqName && b.seqName
  | .pxor d a b => d.seqName && a.seqName && b.seqName
  | .pnot d a => d.seqName && a.seqName
  | .pandn d a b => d.seqName && a.seqName && b.seqName
  | .p2i d a => d.seqName && a.seqName
  | .i2p d a => d.seqName && a.seqName
  | .addi _ d a _ => d.seqName && a.seqName
  | .andi _ d a _ => d.seqName && a.seqName
  | .ori _ d a _ => d.seqName && a.seqName
  | .shli d a _ => d.seqName && a.seqName
  | .shri d a _ => d.seqName && a.seqName
  | .sari d a _ => d.seqName && a.seqName
  | .rotli d a _ => d.seqName && a.seqName
  | .lhi d _ => d.seqName
  | .pchi d _ => d.seqName
  | .fadd d a b => d.seqName && a.seqName && b.seqName
  | .fsub d a b => d.seqName && a.seqName && b.seqName
  | .fmul d a b => d.seqName && a.seqName && b.seqName
  | .fma d a b c => d.seqName && a.seqName && b.seqName && c.seqName
  | .fmin d a b => d.seqName && a.seqName && b.seqName
  | .fmax d a b => d.seqName && a.seqName && b.seqName
  | .fabs d a => d.seqName && a.seqName
  | .fneg d a => d.seqName && a.seqName
  | .feq d a b => d.seqName && a.seqName && b.seqName
  | .fne d a b => d.seqName && a.seqName && b.seqName
  | .flt d a b => d.seqName && a.seqName && b.seqName
  | .fle d a b => d.seqName && a.seqName && b.seqName
  | .funord d a b => d.seqName && a.seqName && b.seqName
  | .frndn d a => d.seqName && a.seqName
  | .frndz d a => d.seqName && a.seqName
  | .frndu d a => d.seqName && a.seqName
  | .frndd d a => d.seqName && a.seqName
  | .fsat d a => d.seqName && a.seqName
  | .fcsgn d a b => d.seqName && a.seqName && b.seqName
  | .fdiv d a b => d.seqName && a.seqName && b.seqName
  | .fsqrt d a => d.seqName && a.seqName
  | .fmadsat _ _ _ => false
  | .hadd _ d a b => d.seqName && a.seqName && b.seqName
  | .hsub _ d a b => d.seqName && a.seqName && b.seqName
  | .hmul _ d a b => d.seqName && a.seqName && b.seqName
  | .hfma _ d a b c => d.seqName && a.seqName && b.seqName && c.seqName
  | .hmin _ d a b => d.seqName && a.seqName && b.seqName
  | .hmax _ d a b => d.seqName && a.seqName && b.seqName
  | .hneg _ d a => d.seqName && a.seqName
  | .habs _ d a => d.seqName && a.seqName
  | .hdot2 _ d a b c => d.seqName && a.seqName && b.seqName && c.seqName
  | .ftoi d a => d.seqName && a.seqName
  | .fton d a => d.seqName && a.seqName
  | .ftoi64 d a => d.seqName && a.seqName
  | .fton64 d a => d.seqName && a.seqName
  | .itof d a => d.seqName && a.seqName
  | .ntof d a => d.seqName && a.seqName
  | .itof64 d a => d.seqName && a.seqName
  | .ntof64 d a => d.seqName && a.seqName
  | .pkh d a b => d.seqName && a.seqName && b.seqName
  | .pkb d a b => d.seqName && a.seqName && b.seqName
  | .uph d a => d.seqName && a.seqName
  | .upb d a => d.seqName && a.seqName
  | .pk8e4 d a => d.seqName && a.seqName
  | .pk8e5 d a => d.seqName && a.seqName
  | .up8e4 d a => d.seqName && a.seqName
  | .up8e5 d a => d.seqName && a.seqName
  | .pk4 d a b => d.seqName && a.seqName && b.seqName
  | .up4l d a => d.seqName && a.seqName
  | .up4h d a => d.seqName && a.seqName
  | .pki8 d a => d.seqName && a.seqName
  | .upi8 d a => d.seqName && a.seqName
  | .pki4 d a => d.seqName && a.seqName
  | .upi4 d a => d.seqName && a.seqName
  | .scale d a b => d.seqName && a.seqName && b.seqName
  | .escale d a _ => d.seqName && a.seqName
  | .cbdec d a _ => d.seqName && a.seqName
  | .pk6e3 d a => d.seqName && a.seqName
  | .up6e3 d a => d.seqName && a.seqName
  | .pk6e2 d a => d.seqName && a.seqName
  | .up6e2 d a => d.seqName && a.seqName
  | .pkhSr d a b c => d.seqName && a.seqName && b.seqName && c.seqName
  | .pkbSr d a b c => d.seqName && a.seqName && b.seqName && c.seqName
  | .pk8e4Sr d a c => d.seqName && a.seqName && c.seqName
  | .pk8e5Sr d a c => d.seqName && a.seqName && c.seqName
  | .pk4Sr d a b c => d.seqName && a.seqName && b.seqName && c.seqName
  | .pk6e3Sr d a c => d.seqName && a.seqName && c.seqName
  | .pk6e2Sr d a c => d.seqName && a.seqName && c.seqName
  | .cvt16z _ _ => false
  | .rcp d a => d.seqName && a.seqName
  | .rsq d a => d.seqName && a.seqName
  | .sqrta d a => d.seqName && a.seqName
  | .exp2 d a => d.seqName && a.seqName
  | .log2 d a => d.seqName && a.seqName
  | .sinpi d a => d.seqName && a.seqName
  | .cospi d a => d.seqName && a.seqName
  | .tanh d a => d.seqName && a.seqName
  | .sigm d a => d.seqName && a.seqName
  | .ld _ _ d a _ => d.seqName && a.seqName
  | .ldFmt _ d a _ => d.seqName && a.seqName
  | .st _ _ x a _ => x.seqName && a.seqName
  | .stFmt _ x a _ => x.seqName && a.seqName
  | .atomLoad _ _ _ d a => d.seqName && a.seqName
  | .atomStore _ _ _ a b => a.seqName && b.seqName
  | .atomAdd _ _ _ d a b => d.seqName && a.seqName && b.seqName
  | .atomSub _ _ _ d a b => d.seqName && a.seqName && b.seqName
  | .atomAnd _ _ _ d a b => d.seqName && a.seqName && b.seqName
  | .atomOr _ _ _ d a b => d.seqName && a.seqName && b.seqName
  | .atomXor _ _ _ d a b => d.seqName && a.seqName && b.seqName
  | .atomMin _ _ _ d a b => d.seqName && a.seqName && b.seqName
  | .atomMax _ _ _ d a b => d.seqName && a.seqName && b.seqName
  | .atomMinn _ _ _ d a b => d.seqName && a.seqName && b.seqName
  | .atomMaxn _ _ _ d a b => d.seqName && a.seqName && b.seqName
  | .atomSwap _ _ _ d a b => d.seqName && a.seqName && b.seqName
  | .atomCas _ _ _ d a b c => d.seqName && a.seqName && b.seqName && c.seqName
  | .atomInc _ _ _ d a b => d.seqName && a.seqName && b.seqName
  | .atomDec _ _ _ d a b => d.seqName && a.seqName && b.seqName
  | .atomFadd _ _ _ d a b => d.seqName && a.seqName && b.seqName
  | .atomFmin _ _ _ d a b => d.seqName && a.seqName && b.seqName
  | .atomFmax _ _ _ d a b => d.seqName && a.seqName && b.seqName
  | .atomHadd2F16 _ _ _ d a b => d.seqName && a.seqName && b.seqName
  | .atomHadd2Bf16 _ _ _ d a b => d.seqName && a.seqName && b.seqName
  | .redAdd _ _ _ a b => a.seqName && b.seqName
  | .redAnd _ _ _ a b => a.seqName && b.seqName
  | .redOr _ _ _ a b => a.seqName && b.seqName
  | .redXor _ _ _ a b => a.seqName && b.seqName
  | .redMin _ _ _ a b => a.seqName && b.seqName
  | .redMax _ _ _ a b => a.seqName && b.seqName
  | .redMinn _ _ _ a b => a.seqName && b.seqName
  | .redMaxn _ _ _ a b => a.seqName && b.seqName
  | .redFadd _ _ _ a b => a.seqName && b.seqName
  | .redHadd2F16 _ _ _ a b => a.seqName && b.seqName
  | .redHadd2Bf16 _ _ _ a b => a.seqName && b.seqName
  | .fence _ _ _ => true
  | .fencex _ => true
  | .relb _ _ _ _ => true
  | .acqb _ _ _ => true
  | .spmap _ _ _ => false
  | .spunmap _ _ => false
  | .spwb _ _ _ => false
  | .spinv _ _ => false
  | .spcpy _ _ _ _ => false
  | .spfill _ _ _ _ => false
  | .pref _ _ => false
  | .ipref _ _ => false
  | .cpy _ _ _ _ => false
  | .cpyr _ _ _ => false
  | .cpyp _ _ _ => false
  | .cpyg _ _ _ => false
  | .wany _ _ => false
  | .wall _ _ => false
  | .ffr _ _ => false
  | .tags _ => false
  | .tagclr _ _ => false
  | .mma ctl a b => ctl.seqName && a.seqName && b.seqName
  | .mdelta ctl a b => ctl.seqName && a.seqName && b.seqName
  | .mscan ctl a b => ctl.seqName && a.seqName && b.seqName
  | .mout ctl a => ctl.seqName && a.seqName
  | .mlda ctl a => ctl.seqName && a.seqName
  | .mzero a _ => a.seqName
  | .mpin d a b => d.seqName && a.seqName && b.seqName
  | .munpin a => a.seqName
  | .mspill a b => a.seqName && b.seqName
  | .mfill a b => a.seqName && b.seqName
  | .mwait a => a.seqName
  | .mown d a => d.seqName && a.seqName
  | .rdsr d n => d.seqName && (n == 0 || n == 14 || n == 15 || n == 16 || n == 18 || n == 19 || n == 20 || n == 21)
  | .wrsr _ _ => false
  | .clock d a => d.seqName && a.seqName
  | .trap a => a.seqName
  | .resumeRetry => false
  | .resumeSkip _ => false
  | .bkpt _ => true
  | .emulret _ => false
  | .nop => true
  | .perfc d _ => d.seqName
  | .laneid _ => false
  | .blockAdmission _ => false
  | .commit _ => false
  | .instanceFault _ => false
  | .postCommitTrapDelivery _ => false
  | .loadResultArrival _ => false
  | .schedulerChoice _ => false
  | .instructionLineFill _ _ _ => false
  | .configBuildComplete _ _ _ => false
  | .configPlacement _ _ _ => false
  | .nodeTeardown _ _ _ => false
  | .fibreAgeing _ => false
  | .yieldDelayExpiry _ => false
  | .windowFillComplete _ _ => false
  | .homeWrite _ => false
  | .copyOperationComplete _ _ => false
  | .drainRequest _ => false
  | .acquireComplete _ => false
  | .fenceTokenArrival _ => false
  | .fenceComplete _ => false
  | .l1AgeingSweep _ => false
  | .coherenceRequest _ _ _ => false
  | .lineEviction _ _ => false
  | .directoryEntryEviction _ => false
  | .directoryError _ => false
  | .agentRejoin _ _ => false
  | .holderOffer _ => false
  | .grantRequest _ _ => false
  | .forcedDrain _ _ => false
  | .drainApplied _ => false
  | .boundedRead _ => false
  | .repartitionBankEmpty _ => false
  | .l1FlushComplete _ => false
  | .xlatInvPageRange _ => false
  | .xlatInvContext _ => false
  | .xlatInvRegion _ => false
  | .xlatInvCodeRange _ => false
  | .xlatInvAll _ => false
  | .xlatInvalidationDone => false
  | .cspartWrite _ _ => false
  | .bvdrainWrite _ => false
  | .qcfgWrite _ _ _ => false
  | .ingressPortWrite _ _ _ => false
  | .launchAcceptance _ => false
  | .bindRecordWrite _ _ _ _ => false
  | .gatherPlacement => false
  | .gatherExit _ => false
  | .launchCompletion _ => false
  | .codeLoad _ _ => false
  | .codeLoadComplete _ => false
  | .codeUnload _ => false
  | .codeEviction _ => false
  | .kill _ => false
  | .drain _ => false
  | .checkpoint _ => false
  | .checkpointSaved _ _ => false
  | .restore _ => false
  | .timeSliceExpiry _ => false
  | .sequencerProgramStart _ => false
  | .matComplete _ _ => false
  | .dbgHaltreq _ => false
  | .dbgcmdFibre _ _ => false
  | .dbgcmdGather _ _ => false
  | .dbgcmdJob _ _ => false
  | .serviceRegister _ => false
  | .serviceWithdraw _ => false
  | .serviceInvalidate _ => false
  | .servicePowerMode _ => false
  | .serviceReadLog _ => false
  | .serviceDebugSlot _ => false
  | .serviceJobConfig _ => false
  | .serviceLoadFirmware _ => false
  | .mailboxReply _ => false
  | .onchipMapWrite _ _ => false
  | .registerWrite _ _ => false
  | .hostWindowAccess _ _ _ _ => false
  | .peerRequest _ _ _ _ => false
  | .atsInvalidation _ _ _ => false
  | .priResponse _ _ _ => false
  | .priTimeout _ _ => false
  | .secondTierTimeout _ => false
  | .flitReplay _ => false
  | .linkRetrain _ _ => false
  | .linkDown _ => false
  | .portLaneFailure _ => false
  | .portDown _ => false
  | .clusterFailure _ => false
  | .dieOutOfService _ => false
  | .rowSparing _ _ => false
  | .powerChangeApply => false
  | .arbiterInterval _ _ => false
  | .coolantLimit _ => false
  | .reset => false
  | .pageWalkComplete _ => false
  | .grantRecordEviction _ => false
  | .homeTileEviction _ _ => false
  | .sendAllowanceGrant _ _ _ => false
  | .atsTranslationCompletion _ _ _ => false
  | .jobClose _ => false
  | .managementCoreFailure => false

end Sys2Proof
end

