-- ==== Sys2Proof/Decode.lean ====
section
/-! DEFINITION. The decoder and the encoder, written from the encoding tables of spec/10 (R237 to R248). -/
namespace Sys2Proof

/-- Why a word is not an instruction (R209, R247). Every one of them is trap cause 0x01. -/
inductive DecodeError where
  /-- No word is there. -/
  | missing
  /-- Major 0x00. -/
  | illMajor
  /-- Major 0x01 in a body. -/
  | header
  /-- Major 0x1F as a first word. -/
  | extension
  /-- An fn value that its major does not assign. -/
  | unassigned
  /-- A MAT word in fibre code. -/
  | matrix
  /-- An operand field that names nothing readable there. -/
  | operand
  /-- A destination field that names nothing writable there. -/
  | destination
  /-- An unused field that is not 0 (R238), or a reserved bit that is set. -/
  | unused
  /-- An X-form word with no extension word after it. -/
  | noExtension
  /-- A field holds 126 and its literal word is missing. -/
  | noLiteral
  /-- A raw field or an operand that the instruction calls illegal. -/
  | raw
  deriving DecidableEq, Repr

/-- The computing instructions with a destination and two sources. -/
inductive Op2 where
  | add | sub | mul | mulh | mulhn | min | max | minn | maxn | and | or | xor
  | andn | shl | shr | sar | rotl | adds | subs | div | divn | rem | remn | mul24
  | add64 | sub64 | mul64 | mulh64 | mulhn64 | min64 | max64 | minn64 | maxn64 | and64 | or64 | xor64
  | andn64 | shl64 | shr64 | sar64 | rotl64 | adds64 | subs64 | div64 | divn64 | rem64 | remn64 | mulw
  | mulwn | bfx | bfxn | lea1 | lea2 | lea4 | lea8 | lea16 | pand | por | pxor | pandn
  | fadd | fsub | fmul | fmin | fmax | feq | fne | flt | fle | funord | fcsgn | fdiv
  | fmadsat | pkh | pkb | pk4 | scale
  deriving DecidableEq, Repr

/-- The computing instructions with a destination and one source. -/
inductive Op1 where
  | clz | ctz | popc | brev | abs | neg | not | mov | clz64 | ctz64 | popc64 | brev64
  | abs64 | neg64 | not64 | mov64 | pnot | p2i | i2p | fabs | fneg | frndn | frndz | frndu
  | frndd | fsat | fsqrt | ftoi | fton | ftoi64 | fton64 | itof | ntof | itof64 | ntof64 | uph
  | upb | pk8e4 | pk8e5 | up8e4 | up8e5 | up4l | up4h | pki8 | upi8 | pki4 | upi4 | pk6e3
  | up6e3 | pk6e2 | up6e2 | cvt16z | rcp | rsq | sqrta | exp2 | log2 | sinpi | cospi | tanh
  | sigm
  deriving DecidableEq, Repr

/-- The computing instructions with a destination and three sources (X form). -/
inductive Op3 where
  | bfi | perm | mad | mad64 | fma | pkhSr | pkbSr | pk4Sr
  deriving DecidableEq, Repr

/-- The computing instructions with a destination, one source and random bits (X form). -/
inductive Op2c where
  | pk8e4Sr | pk8e5Sr | pk6e3Sr | pk6e2Sr
  deriving DecidableEq, Repr

/-- The computing instructions with a destination, one source and a raw field. -/
inductive OpK where
  | xtnd | xtnd64 | escale | cbdec
  deriving DecidableEq, Repr

/-- An instruction as the decoder finds it: whole, or a computing instruction as its name and fields. (An instruction
of the second kind is the same thing written in two pieces, so that the model can be run as well as reasoned about:
Lean's runtime cannot build the last constructors of so large a type.) -/
inductive Parsed where
  | whole (i : Instr)
  | op2 (o : Op2) (d : Dest) (a b : Operand)
  | op1 (o : Op1) (d : Dest) (a : Operand)
  | op3 (o : Op3) (d : Dest) (a b c : Operand)
  | op2c (o : Op2c) (d : Dest) (a c : Operand)
  | opK (o : OpK) (d : Dest) (a : Operand) (k : BitVec 7)
  deriving DecidableEq, Repr

/-- The instruction. -/
noncomputable def Parsed.instr : Parsed → Instr
  | .whole i => i
  | .op2 .add d a b => .add d a b
  | .op2 .sub d a b => .sub d a b
  | .op2 .mul d a b => .mul d a b
  | .op2 .mulh d a b => .mulh d a b
  | .op2 .mulhn d a b => .mulhn d a b
  | .op2 .min d a b => .min d a b
  | .op2 .max d a b => .max d a b
  | .op2 .minn d a b => .minn d a b
  | .op2 .maxn d a b => .maxn d a b
  | .op2 .and d a b => .and d a b
  | .op2 .or d a b => .or d a b
  | .op2 .xor d a b => .xor d a b
  | .op2 .andn d a b => .andn d a b
  | .op2 .shl d a b => .shl d a b
  | .op2 .shr d a b => .shr d a b
  | .op2 .sar d a b => .sar d a b
  | .op2 .rotl d a b => .rotl d a b
  | .op2 .adds d a b => .adds d a b
  | .op2 .subs d a b => .subs d a b
  | .op2 .div d a b => .div d a b
  | .op2 .divn d a b => .divn d a b
  | .op2 .rem d a b => .rem d a b
  | .op2 .remn d a b => .remn d a b
  | .op2 .mul24 d a b => .mul24 d a b
  | .op2 .add64 d a b => .add64 d a b
  | .op2 .sub64 d a b => .sub64 d a b
  | .op2 .mul64 d a b => .mul64 d a b
  | .op2 .mulh64 d a b => .mulh64 d a b
  | .op2 .mulhn64 d a b => .mulhn64 d a b
  | .op2 .min64 d a b => .min64 d a b
  | .op2 .max64 d a b => .max64 d a b
  | .op2 .minn64 d a b => .minn64 d a b
  | .op2 .maxn64 d a b => .maxn64 d a b
  | .op2 .and64 d a b => .and64 d a b
  | .op2 .or64 d a b => .or64 d a b
  | .op2 .xor64 d a b => .xor64 d a b
  | .op2 .andn64 d a b => .andn64 d a b
  | .op2 .shl64 d a b => .shl64 d a b
  | .op2 .shr64 d a b => .shr64 d a b
  | .op2 .sar64 d a b => .sar64 d a b
  | .op2 .rotl64 d a b => .rotl64 d a b
  | .op2 .adds64 d a b => .adds64 d a b
  | .op2 .subs64 d a b => .subs64 d a b
  | .op2 .div64 d a b => .div64 d a b
  | .op2 .divn64 d a b => .divn64 d a b
  | .op2 .rem64 d a b => .rem64 d a b
  | .op2 .remn64 d a b => .remn64 d a b
  | .op2 .mulw d a b => .mulw d a b
  | .op2 .mulwn d a b => .mulwn d a b
  | .op2 .bfx d a b => .bfx d a b
  | .op2 .bfxn d a b => .bfxn d a b
  | .op2 .lea1 d a b => .lea1 d a b
  | .op2 .lea2 d a b => .lea2 d a b
  | .op2 .lea4 d a b => .lea4 d a b
  | .op2 .lea8 d a b => .lea8 d a b
  | .op2 .lea16 d a b => .lea16 d a b
  | .op2 .pand d a b => .pand d a b
  | .op2 .por d a b => .por d a b
  | .op2 .pxor d a b => .pxor d a b
  | .op2 .pandn d a b => .pandn d a b
  | .op2 .fadd d a b => .fadd d a b
  | .op2 .fsub d a b => .fsub d a b
  | .op2 .fmul d a b => .fmul d a b
  | .op2 .fmin d a b => .fmin d a b
  | .op2 .fmax d a b => .fmax d a b
  | .op2 .feq d a b => .feq d a b
  | .op2 .fne d a b => .fne d a b
  | .op2 .flt d a b => .flt d a b
  | .op2 .fle d a b => .fle d a b
  | .op2 .funord d a b => .funord d a b
  | .op2 .fcsgn d a b => .fcsgn d a b
  | .op2 .fdiv d a b => .fdiv d a b
  | .op2 .fmadsat d a b => .fmadsat d a b
  | .op2 .pkh d a b => .pkh d a b
  | .op2 .pkb d a b => .pkb d a b
  | .op2 .pk4 d a b => .pk4 d a b
  | .op2 .scale d a b => .scale d a b
  | .op1 .clz d a => .clz d a
  | .op1 .ctz d a => .ctz d a
  | .op1 .popc d a => .popc d a
  | .op1 .brev d a => .brev d a
  | .op1 .abs d a => .abs d a
  | .op1 .neg d a => .neg d a
  | .op1 .not d a => .not d a
  | .op1 .mov d a => .mov d a
  | .op1 .clz64 d a => .clz64 d a
  | .op1 .ctz64 d a => .ctz64 d a
  | .op1 .popc64 d a => .popc64 d a
  | .op1 .brev64 d a => .brev64 d a
  | .op1 .abs64 d a => .abs64 d a
  | .op1 .neg64 d a => .neg64 d a
  | .op1 .not64 d a => .not64 d a
  | .op1 .mov64 d a => .mov64 d a
  | .op1 .pnot d a => .pnot d a
  | .op1 .p2i d a => .p2i d a
  | .op1 .i2p d a => .i2p d a
  | .op1 .fabs d a => .fabs d a
  | .op1 .fneg d a => .fneg d a
  | .op1 .frndn d a => .frndn d a
  | .op1 .frndz d a => .frndz d a
  | .op1 .frndu d a => .frndu d a
  | .op1 .frndd d a => .frndd d a
  | .op1 .fsat d a => .fsat d a
  | .op1 .fsqrt d a => .fsqrt d a
  | .op1 .ftoi d a => .ftoi d a
  | .op1 .fton d a => .fton d a
  | .op1 .ftoi64 d a => .ftoi64 d a
  | .op1 .fton64 d a => .fton64 d a
  | .op1 .itof d a => .itof d a
  | .op1 .ntof d a => .ntof d a
  | .op1 .itof64 d a => .itof64 d a
  | .op1 .ntof64 d a => .ntof64 d a
  | .op1 .uph d a => .uph d a
  | .op1 .upb d a => .upb d a
  | .op1 .pk8e4 d a => .pk8e4 d a
  | .op1 .pk8e5 d a => .pk8e5 d a
  | .op1 .up8e4 d a => .up8e4 d a
  | .op1 .up8e5 d a => .up8e5 d a
  | .op1 .up4l d a => .up4l d a
  | .op1 .up4h d a => .up4h d a
  | .op1 .pki8 d a => .pki8 d a
  | .op1 .upi8 d a => .upi8 d a
  | .op1 .pki4 d a => .pki4 d a
  | .op1 .upi4 d a => .upi4 d a
  | .op1 .pk6e3 d a => .pk6e3 d a
  | .op1 .up6e3 d a => .up6e3 d a
  | .op1 .pk6e2 d a => .pk6e2 d a
  | .op1 .up6e2 d a => .up6e2 d a
  | .op1 .cvt16z d a => .cvt16z d a
  | .op1 .rcp d a => .rcp d a
  | .op1 .rsq d a => .rsq d a
  | .op1 .sqrta d a => .sqrta d a
  | .op1 .exp2 d a => .exp2 d a
  | .op1 .log2 d a => .log2 d a
  | .op1 .sinpi d a => .sinpi d a
  | .op1 .cospi d a => .cospi d a
  | .op1 .tanh d a => .tanh d a
  | .op1 .sigm d a => .sigm d a
  | .op3 .bfi d a b c => .bfi d a b c
  | .op3 .perm d a b c => .perm d a b c
  | .op3 .mad d a b c => .mad d a b c
  | .op3 .mad64 d a b c => .mad64 d a b c
  | .op3 .fma d a b c => .fma d a b c
  | .op3 .pkhSr d a b c => .pkhSr d a b c
  | .op3 .pkbSr d a b c => .pkbSr d a b c
  | .op3 .pk4Sr d a b c => .pk4Sr d a b c
  | .op2c .pk8e4Sr d a c => .pk8e4Sr d a c
  | .op2c .pk8e5Sr d a c => .pk8e5Sr d a c
  | .op2c .pk6e3Sr d a c => .pk6e3Sr d a c
  | .op2c .pk6e2Sr d a c => .pk6e2Sr d a c
  | .opK .xtnd d a k => .xtnd d a k
  | .opK .xtnd64 d a k => .xtnd64 d a k
  | .opK .escale d a k => .escale d a k
  | .opK .cbdec d a k => .cbdec d a k

/-- Raw fields in range, as Instr.wellFormed says of the instruction. -/
def Parsed.wellFormed (sq : Bool) : Parsed → Bool
  | .whole i => i.wellFormed sq
  | .op2 _ _ _ _ => true
  | .op1 _ _ _ => true
  | .op3 _ _ _ _ _ => true
  | .op2c _ _ _ _ => true
  | .opK .xtnd _ _ k => k.toNat < 6
  | .opK .xtnd64 _ _ k => k.toNat < 6
  | .opK .escale _ _ k => k.toNat < 6
  | .opK .cbdec _ _ k => k.toNat < 2

/-- Whether sequencer code accepts the instruction, as Instr.seqOk says of it. -/
def Parsed.seqOk : Parsed → Bool
  | .whole i => i.seqOk
  | .op2 o d a b => !(o == .mul24 || o == .fmadsat) && d.seqName && a.seqName && b.seqName
  | .op1 o d a => !(o == .cvt16z) && d.seqName && a.seqName
  | .op3 _ d a b c => d.seqName && a.seqName && b.seqName && c.seqName
  | .op2c _ d a c => d.seqName && a.seqName && c.seqName
  | .opK _ d a _ => d.seqName && a.seqName

/-- What one decoding step gives: an instruction and the words that follow it. -/
abbrev Decoded := Except DecodeError (Parsed × List Word)

/-! ## Fields (R239) -/

def fOp (w : Word) : Nat := w.toNat / 2 ^ 27
def fD (w : Word) : Nat := w.toNat / 2 ^ 20 % 128
def fA (w : Word) : Nat := w.toNat / 2 ^ 13 % 128
def fB (w : Word) : Nat := w.toNat / 2 ^ 6 % 128
def fFn (w : Word) : Nat := w.toNat % 64
/-- imm20 and off20. -/
def fImm20 (w : Word) : BitVec 20 := BitVec.ofNat 20 w.toNat
/-- imm12. -/
def fImm12 (w : Word) : BitVec 12 := BitVec.ofNat 12 w.toNat
/-- The m bit of format I. -/
def fM (w : Word) : Bool := w.toNat / 2 ^ 12 % 2 == 1
/-- q, sz and off7 of format M. -/
def fQ (w : Word) : Nat := w.toNat / 2 ^ 10 % 8
def fSz (w : Word) : Nat := w.toNat / 2 ^ 7 % 8
def fOff7 (w : Word) : Nat := w.toNat % 128

/-- A first word of format A (R239). -/
def packA (op d a b fn : Nat) : Word := BitVec.ofNat 32 (op * 2 ^ 27 + d * 2 ^ 20 + a * 2 ^ 13 + b * 2 ^ 6 + fn)
/-- A word of format U or B (R239). -/
def packU (op d imm : Nat) : Word := BitVec.ofNat 32 (op * 2 ^ 27 + d * 2 ^ 20 + imm)
/-- A word of format I (R239). -/
def packI (op d a m imm : Nat) : Word := BitVec.ofNat 32 (op * 2 ^ 27 + d * 2 ^ 20 + a * 2 ^ 13 + m * 2 ^ 12 + imm)
/-- A word of format M (R239). -/
def packM (op d a q sz off : Nat) : Word :=
  BitVec.ofNat 32 (op * 2 ^ 27 + d * 2 ^ 20 + a * 2 ^ 13 + q * 2 ^ 10 + sz * 2 ^ 7 + off)
/-- An extension word (R239): C in [26:20], the instruction-defined bits in [19:0]. -/
def packX (c x : Nat) : Word := BitVec.ofNat 32 (0x1F * 2 ^ 27 + c * 2 ^ 20 + x)

/-! ## Operand names (R237) -/

/-- The name a field gives, other than lit. -/
def nameOf (c : Nat) : Option Operand :=
  if c < 64 then some (.v (BitVec.ofNat 6 c))
  else if h : c - 64 < 48 then some (.w ⟨c - 64, h⟩)
  else if c < 116 then some (.g (BitVec.ofNat 2 (c - 112)))
  else if c < 120 then none
  else if c = 120 then some .zero
  else if c = 121 then some .fi
  else if c = 122 then some .gi
  else if c = 123 then some .ka
  else if c = 124 then some .sb
  else if c = 125 then some .wb
  else if c = 127 then some .pw
  else none

/-- The code of a name; lit is 126. -/
def codeOf : Operand → Nat
  | .v i => i.toNat
  | .w i => 64 + i.val
  | .g i => 112 + i.toNat
  | .zero => 120
  | .fi => 121
  | .gi => 122
  | .ka => 123
  | .sb => 124
  | .wb => 125
  | .lit _ => 126
  | .pw => 127

/-- The literal words an operand takes (R240). -/
def litOf : Operand → List Word
  | .lit x => [x]
  | _ => []

/-- A source field: its name, or the next literal word (R240). -/
def takeSrc (c : Nat) (ls : List Word) : Except DecodeError (Operand × List Word) :=
  if c = 126 then
    match ls with
    | x :: r => .ok (.lit x, r)
    | [] => .error .noLiteral
  else
    match nameOf c with
    | some o => .ok (o, ls)
    | none => .error .operand

/-- A D field that is read: no literal follows it (R240, R247). -/
def takeD (c : Nat) : Except DecodeError Operand :=
  match nameOf c with
  | some o => .ok o
  | none => .error .operand

/-- A destination field (R237). -/
def takeDest (c : Nat) : Except DecodeError Dest :=
  if c < 64 then .ok (.v (BitVec.ofNat 6 c))
  else if h : c - 64 < 48 then .ok (.w ⟨c - 64, h⟩)
  else if c < 116 then .ok (.g (BitVec.ofNat 2 (c - 112)))
  else if c = 120 then .ok .zero
  else if c = 127 then .ok .pw
  else .error .destination

/-- The code of a destination. -/
def codeOfDest : Dest → Nat
  | .v i => i.toNat
  | .w i => 64 + i.val
  | .g i => 112 + i.toNat
  | .zero => 120
  | .pw => 127

/-- The extension word that must follow (R240), its C field and its bits [19:0]. -/
def takeExt : List Word → Except DecodeError (Nat × Nat × List Word)
  | [] => .error .noExtension
  | x :: r => if fOp x = 0x1F then .ok (fD x, x.toNat % 2 ^ 20, r) else .error .noExtension

/-- An unused field holds 0 (R238). -/
def unused (n : Nat) (k : Decoded) : Decoded := if n = 0 then k else .error .unused

/-! ## Shapes: which fields an instruction names -/

def sDAB (w : Word) (r : List Word) (mk : Dest → Operand → Operand → Parsed) : Decoded :=
  match takeDest (fD w), takeSrc (fA w) r with
  | .error e, _ => .error e
  | .ok _, .error e => .error e
  | .ok d, .ok (a, r1) =>
    match takeSrc (fB w) r1 with
    | .error e => .error e
    | .ok (b, r2) => .ok (mk d a b, r2)

def sDA (w : Word) (r : List Word) (mk : Dest → Operand → Parsed) : Decoded :=
  unused (fB w) <|
  match takeDest (fD w), takeSrc (fA w) r with
  | .error e, _ => .error e
  | .ok _, .error e => .error e
  | .ok d, .ok (a, r1) => .ok (mk d a, r1)

def sD (w : Word) (r : List Word) (mk : Dest → Parsed) : Decoded :=
  unused (fA w) <| unused (fB w) <|
  match takeDest (fD w) with
  | .error e => .error e
  | .ok d => .ok (mk d, r)

def sDABC (w : Word) (r : List Word) (mk : Dest → Operand → Operand → Operand → Parsed) : Decoded :=
  match takeDest (fD w), takeExt r with
  | .error e, _ => .error e
  | .ok _, .error e => .error e
  | .ok d, .ok (cf, x, r0) => unused x <|
    match takeSrc (fA w) r0 with
    | .error e => .error e
    | .ok (a, r1) =>
      match takeSrc (fB w) r1 with
      | .error e => .error e
      | .ok (b, r2) =>
        match takeSrc cf r2 with
        | .error e => .error e
        | .ok (c, r3) => .ok (mk d a b c, r3)

def sDAC (w : Word) (r : List Word) (mk : Dest → Operand → Operand → Parsed) : Decoded :=
  unused (fB w) <|
  match takeDest (fD w), takeExt r with
  | .error e, _ => .error e
  | .ok _, .error e => .error e
  | .ok d, .ok (cf, x, r0) => unused x <|
    match takeSrc (fA w) r0 with
    | .error e => .error e
    | .ok (a, r1) =>
      match takeSrc cf r1 with
      | .error e => .error e
      | .ok (c, r2) => .ok (mk d a c, r2)

def sDAK (w : Word) (r : List Word) (mk : Dest → Operand → BitVec 7 → Parsed) : Decoded :=
  match takeDest (fD w), takeSrc (fA w) r with
  | .error e, _ => .error e
  | .ok _, .error e => .error e
  | .ok d, .ok (a, r1) => .ok (mk d a (BitVec.ofNat 7 (fB w)), r1)

def sDK (w : Word) (r : List Word) (mk : Dest → BitVec 7 → Parsed) : Decoded :=
  unused (fA w) <|
  match takeDest (fD w) with
  | .error e => .error e
  | .ok d => .ok (mk d (BitVec.ofNat 7 (fB w)), r)

/-- RDSR: the register number is raw in A. -/
def sDKa (w : Word) (r : List Word) (mk : Dest → BitVec 7 → Parsed) : Decoded :=
  unused (fB w) <|
  match takeDest (fD w) with
  | .error e => .error e
  | .ok d => .ok (mk d (BitVec.ofNat 7 (fA w)), r)

/-- WRSR and the tag instructions: D is raw. -/
def sTA (w : Word) (r : List Word) (mk : BitVec 7 → Operand → Parsed) : Decoded :=
  unused (fB w) <|
  match takeSrc (fA w) r with
  | .error e => .error e
  | .ok (a, r1) => .ok (mk (BitVec.ofNat 7 (fD w)) a, r1)

def sTAB (w : Word) (r : List Word) (mk : BitVec 7 → Operand → Operand → Parsed) : Decoded :=
  match takeSrc (fA w) r with
  | .error e => .error e
  | .ok (a, r1) =>
    match takeSrc (fB w) r1 with
    | .error e => .error e
    | .ok (b, r2) => .ok (mk (BitVec.ofNat 7 (fD w)) a b, r2)

def sTABC (w : Word) (r : List Word) (mk : BitVec 7 → Operand → Operand → Operand → Parsed) : Decoded :=
  match takeExt r with
  | .error e => .error e
  | .ok (cf, x, r0) => unused x <|
    match takeSrc (fA w) r0 with
    | .error e => .error e
    | .ok (a, r1) =>
      match takeSrc (fB w) r1 with
      | .error e => .error e
      | .ok (b, r2) =>
        match takeSrc cf r2 with
        | .error e => .error e
        | .ok (c, r3) => .ok (mk (BitVec.ofNat 7 (fD w)) a b c, r3)

def sA (w : Word) (r : List Word) (mk : Operand → Parsed) : Decoded := unused (fD w) (sTA w r fun _ a => mk a)
def sAB (w : Word) (r : List Word) (mk : Operand → Operand → Parsed) : Decoded :=
  unused (fD w) (sTAB w r fun _ a b => mk a b)
def sABC (w : Word) (r : List Word) (mk : Operand → Operand → Operand → Parsed) : Decoded :=
  unused (fD w) (sTABC w r fun _ a b c => mk a b c)

def sAK (w : Word) (r : List Word) (mk : Operand → BitVec 7 → Parsed) : Decoded :=
  unused (fD w) <|
  match takeSrc (fA w) r with
  | .error e => .error e
  | .ok (a, r1) => .ok (mk a (BitVec.ofNat 7 (fB w)), r1)

def sK (w : Word) (r : List Word) (mk : BitVec 7 → Parsed) : Decoded :=
  unused (fD w) <| unused (fA w) <| .ok (mk (BitVec.ofNat 7 (fB w)), r)

def s0 (w : Word) (r : List Word) (i : Parsed) : Decoded :=
  unused (fD w) <| unused (fA w) <| unused (fB w) <| .ok (i, r)

/-- MAT instructions whose D is read. -/
def sXAB (w : Word) (r : List Word) (mk : Operand → Operand → Operand → Parsed) : Decoded :=
  match takeD (fD w), takeSrc (fA w) r with
  | .error e, _ => .error e
  | .ok _, .error e => .error e
  | .ok x, .ok (a, r1) =>
    match takeSrc (fB w) r1 with
    | .error e => .error e
    | .ok (b, r2) => .ok (mk x a b, r2)

def sXA (w : Word) (r : List Word) (mk : Operand → Operand → Parsed) : Decoded :=
  unused (fB w) <|
  match takeD (fD w), takeSrc (fA w) r with
  | .error e, _ => .error e
  | .ok _, .error e => .error e
  | .ok x, .ok (a, r1) => .ok (mk x a, r1)

/-- ATOM and RED (R321, R325): scope in extension [19:17], order in [16:15], [14:0] zero. -/
def sAtom (w : Word) (r : List Word) (hasD hasB hasC : Bool)
    (mk : Bool → BitVec 3 → BitVec 2 → Dest → Operand → Operand → Operand → Parsed) : Decoded :=
  match (if hasD then takeDest (fD w) else .ok .zero), takeExt r with
  | .error e, _ => .error e
  | .ok _, .error e => .error e
  | .ok d, .ok (cf, x, r0) =>
    unused (x % 2 ^ 15) <| unused (if hasB then 0 else fB w) <| unused (if hasC then 0 else cf) <|
    match takeSrc (fA w) r0 with
    | .error e => .error e
    | .ok (a, r1) =>
      match (if hasB then takeSrc (fB w) r1 else .ok (.zero, r1)) with
      | .error e => .error e
      | .ok (b, r2) =>
        match (if hasC then takeSrc cf r2 else .ok (.zero, r2)) with
        | .error e => .error e
        | .ok (c, r3) =>
          .ok (mk (fFn w / 32 == 1) (BitVec.ofNat 3 (x / 2 ^ 17)) (BitVec.ofNat 2 (x / 2 ^ 15)) d a b c, r3)

/-! ## The opcode map (R241, R245, R246) -/

/-- Major 0x07. -/
def decodeFlow (sq : Bool) (w : Word) (r : List Word) : Decoded :=
  match fFn w with
  | 0x00 => sA w r fun x => .whole (.bri x)
  | 0x01 => sAK w r fun x y => .whole (.calli x y)
  | 0x02 => s0 w r (.whole .ret)
  | 0x03 => s0 w r (.whole .exit)
  | 0x04 => sDAB w r fun x y z => .whole (.fork x y z)
  | 0x05 => sK w r fun x => .whole (.bar x)
  | 0x06 => sK w r fun x => .whole (.arrive x)
  | 0x07 => sK w r fun x => .whole (.await x)
  | 0x08 => sA w r fun x => .whole (.winb x)
  | 0x09 => sDAB w r fun x y z => .whole (.steer x y z)
  | 0x0A => sDABC w r fun x y z u => .whole (.merge x y z u)
  | 0x0B => sDABC w r fun x y z u => .whole (.sel x y z u)
  | 0x0C => sDK w r fun x y => .whole (.pget x y)
  | 0x0E => sA w r fun x => .whole (.yield x)
  | 0x0F => sDAB w r fun x y z => .whole (.launch x y z)
  | 0x10 => sDAB w r fun x y z => .whole (.efork x y z)
  | 0x12 => sDAK w r fun x y z => .whole (.cancel x y z)
  | 0x3E => sDAB w r fun x y z => .whole (.shfl x y z)
  | 0x3F => sDAK w r fun x y z => .whole (.vote x y z)
  | 0x0D => if fD w = 127 then sAK (w &&& 0xF80FFFFF) r fun a n => .whole (.pset a n) else .error .destination
  | 0x11 => if sq then sAK w r (fun a n => .whole (.sequencerRdv a n)) else sK w r fun n => .whole (.rdv n)
  | _ => .error .unassigned

/-- Major 0x08. -/
def decodeIalu (w : Word) (r : List Word) : Decoded :=
  match fFn w with
  | 0x00 => sDAB w r (.op2 .add)
  | 0x01 => sDAB w r (.op2 .sub)
  | 0x02 => sDAB w r (.op2 .mul)
  | 0x03 => sDAB w r (.op2 .mulh)
  | 0x04 => sDAB w r (.op2 .mulhn)
  | 0x05 => sDAB w r (.op2 .min)
  | 0x06 => sDAB w r (.op2 .max)
  | 0x07 => sDAB w r (.op2 .minn)
  | 0x08 => sDAB w r (.op2 .maxn)
  | 0x09 => sDAB w r (.op2 .and)
  | 0x0A => sDAB w r (.op2 .or)
  | 0x0B => sDAB w r (.op2 .xor)
  | 0x0C => sDAB w r (.op2 .andn)
  | 0x0D => sDAB w r (.op2 .shl)
  | 0x0E => sDAB w r (.op2 .shr)
  | 0x0F => sDAB w r (.op2 .sar)
  | 0x10 => sDAB w r (.op2 .rotl)
  | 0x11 => sDA w r (.op1 .clz)
  | 0x12 => sDA w r (.op1 .ctz)
  | 0x13 => sDA w r (.op1 .popc)
  | 0x14 => sDA w r (.op1 .brev)
  | 0x15 => sDA w r (.op1 .abs)
  | 0x16 => sDA w r (.op1 .neg)
  | 0x17 => sDA w r (.op1 .not)
  | 0x18 => sDAB w r (.op2 .adds)
  | 0x19 => sDAB w r (.op2 .subs)
  | 0x1A => sDAB w r (.op2 .div)
  | 0x1B => sDAB w r (.op2 .divn)
  | 0x1C => sDAB w r (.op2 .rem)
  | 0x1D => sDAB w r (.op2 .remn)
  | 0x1E => sDA w r (.op1 .mov)
  | 0x1F => sDAK w r (.opK .xtnd)
  | 0x3F => sDAB w r (.op2 .mul24)
  | _ => .error .unassigned

/-- Major 0x09. -/
def decodeIalu64 (w : Word) (r : List Word) : Decoded :=
  match fFn w with
  | 0x00 => sDAB w r (.op2 .add64)
  | 0x01 => sDAB w r (.op2 .sub64)
  | 0x02 => sDAB w r (.op2 .mul64)
  | 0x03 => sDAB w r (.op2 .mulh64)
  | 0x04 => sDAB w r (.op2 .mulhn64)
  | 0x05 => sDAB w r (.op2 .min64)
  | 0x06 => sDAB w r (.op2 .max64)
  | 0x07 => sDAB w r (.op2 .minn64)
  | 0x08 => sDAB w r (.op2 .maxn64)
  | 0x09 => sDAB w r (.op2 .and64)
  | 0x0A => sDAB w r (.op2 .or64)
  | 0x0B => sDAB w r (.op2 .xor64)
  | 0x0C => sDAB w r (.op2 .andn64)
  | 0x0D => sDAB w r (.op2 .shl64)
  | 0x0E => sDAB w r (.op2 .shr64)
  | 0x0F => sDAB w r (.op2 .sar64)
  | 0x10 => sDAB w r (.op2 .rotl64)
  | 0x11 => sDA w r (.op1 .clz64)
  | 0x12 => sDA w r (.op1 .ctz64)
  | 0x13 => sDA w r (.op1 .popc64)
  | 0x14 => sDA w r (.op1 .brev64)
  | 0x15 => sDA w r (.op1 .abs64)
  | 0x16 => sDA w r (.op1 .neg64)
  | 0x17 => sDA w r (.op1 .not64)
  | 0x18 => sDAB w r (.op2 .adds64)
  | 0x19 => sDAB w r (.op2 .subs64)
  | 0x1A => sDAB w r (.op2 .div64)
  | 0x1B => sDAB w r (.op2 .divn64)
  | 0x1C => sDAB w r (.op2 .rem64)
  | 0x1D => sDAB w r (.op2 .remn64)
  | 0x1E => sDA w r (.op1 .mov64)
  | 0x1F => sDAK w r (.opK .xtnd64)
  | 0x20 => sDAB w r (.op2 .mulw)
  | 0x21 => sDAB w r (.op2 .mulwn)
  | _ => .error .unassigned

/-- Major 0x0B. -/
def decodeImisc (w : Word) (r : List Word) : Decoded :=
  match fFn w with
  | 0x00 => sDAB w r (.op2 .bfx)
  | 0x01 => sDAB w r (.op2 .bfxn)
  | 0x02 => sDABC w r (.op3 .bfi)
  | 0x03 => sDAB w r (.op2 .lea1)
  | 0x04 => sDAB w r (.op2 .lea2)
  | 0x05 => sDAB w r (.op2 .lea4)
  | 0x06 => sDAB w r (.op2 .lea8)
  | 0x07 => sDAB w r (.op2 .lea16)
  | 0x08 => sDABC w r (.op3 .perm)
  | 0x09 => sDABC w r (.op3 .mad)
  | 0x0A => sDABC w r (.op3 .mad64)
  | 0x0B => sDAB w r (.op2 .pand)
  | 0x0C => sDAB w r (.op2 .por)
  | 0x0D => sDAB w r (.op2 .pxor)
  | 0x0E => sDA w r (.op1 .pnot)
  | 0x0F => sDAB w r (.op2 .pandn)
  | 0x10 => sDA w r (.op1 .p2i)
  | 0x11 => sDA w r (.op1 .i2p)
  | _ => .error .unassigned

/-- Major 0x12. -/
def decodeFalu (w : Word) (r : List Word) : Decoded :=
  match fFn w with
  | 0x00 => sDAB w r (.op2 .fadd)
  | 0x01 => sDAB w r (.op2 .fsub)
  | 0x02 => sDAB w r (.op2 .fmul)
  | 0x03 => sDABC w r (.op3 .fma)
  | 0x04 => sDAB w r (.op2 .fmin)
  | 0x05 => sDAB w r (.op2 .fmax)
  | 0x06 => sDA w r (.op1 .fabs)
  | 0x07 => sDA w r (.op1 .fneg)
  | 0x08 => sDAB w r (.op2 .feq)
  | 0x09 => sDAB w r (.op2 .fne)
  | 0x0A => sDAB w r (.op2 .flt)
  | 0x0B => sDAB w r (.op2 .fle)
  | 0x0C => sDAB w r (.op2 .funord)
  | 0x0D => sDA w r (.op1 .frndn)
  | 0x0E => sDA w r (.op1 .frndz)
  | 0x0F => sDA w r (.op1 .frndu)
  | 0x10 => sDA w r (.op1 .frndd)
  | 0x11 => sDA w r (.op1 .fsat)
  | 0x12 => sDAB w r (.op2 .fcsgn)
  | 0x13 => sDAB w r (.op2 .fdiv)
  | 0x14 => sDA w r (.op1 .fsqrt)
  | 0x3F => sDAB w r (.op2 .fmadsat)
  | _ => .error .unassigned

/-- Major 0x14. -/
def decodeFcvt (w : Word) (r : List Word) : Decoded :=
  match fFn w with
  | 0x00 => sDA w r (.op1 .ftoi)
  | 0x01 => sDA w r (.op1 .fton)
  | 0x02 => sDA w r (.op1 .ftoi64)
  | 0x03 => sDA w r (.op1 .fton64)
  | 0x04 => sDA w r (.op1 .itof)
  | 0x05 => sDA w r (.op1 .ntof)
  | 0x06 => sDA w r (.op1 .itof64)
  | 0x07 => sDA w r (.op1 .ntof64)
  | 0x08 => sDAB w r (.op2 .pkh)
  | 0x09 => sDAB w r (.op2 .pkb)
  | 0x0A => sDA w r (.op1 .uph)
  | 0x0B => sDA w r (.op1 .upb)
  | 0x0C => sDA w r (.op1 .pk8e4)
  | 0x0D => sDA w r (.op1 .pk8e5)
  | 0x0E => sDA w r (.op1 .up8e4)
  | 0x0F => sDA w r (.op1 .up8e5)
  | 0x10 => sDAB w r (.op2 .pk4)
  | 0x11 => sDA w r (.op1 .up4l)
  | 0x12 => sDA w r (.op1 .up4h)
  | 0x13 => sDA w r (.op1 .pki8)
  | 0x14 => sDA w r (.op1 .upi8)
  | 0x15 => sDA w r (.op1 .pki4)
  | 0x16 => sDA w r (.op1 .upi4)
  | 0x17 => sDAB w r (.op2 .scale)
  | 0x18 => sDAK w r (.opK .escale)
  | 0x19 => sDAK w r (.opK .cbdec)
  | 0x1A => sDA w r (.op1 .pk6e3)
  | 0x1B => sDA w r (.op1 .up6e3)
  | 0x1C => sDA w r (.op1 .pk6e2)
  | 0x1D => sDA w r (.op1 .up6e2)
  | 0x28 => sDABC w r (.op3 .pkhSr)
  | 0x29 => sDABC w r (.op3 .pkbSr)
  | 0x2C => sDAC w r (.op2c .pk8e4Sr)
  | 0x2D => sDAC w r (.op2c .pk8e5Sr)
  | 0x30 => sDABC w r (.op3 .pk4Sr)
  | 0x3A => sDAC w r (.op2c .pk6e3Sr)
  | 0x3C => sDAC w r (.op2c .pk6e2Sr)
  | 0x3F => sDA w r (.op1 .cvt16z)
  | _ => .error .unassigned

/-- Major 0x15. -/
def decodeSfu (w : Word) (r : List Word) : Decoded :=
  match fFn w with
  | 0x00 => sDA w r (.op1 .rcp)
  | 0x01 => sDA w r (.op1 .rsq)
  | 0x02 => sDA w r (.op1 .sqrta)
  | 0x03 => sDA w r (.op1 .exp2)
  | 0x04 => sDA w r (.op1 .log2)
  | 0x05 => sDA w r (.op1 .sinpi)
  | 0x06 => sDA w r (.op1 .cospi)
  | 0x07 => sDA w r (.op1 .tanh)
  | 0x08 => sDA w r (.op1 .sigm)
  | _ => .error .unassigned

/-- Major 0x1B. -/
def decodeCache (w : Word) (r : List Word) : Decoded :=
  match fFn w with
  | 0x00 => sABC w r fun x y z => .whole (.spmap x y z)
  | 0x01 => sTA w r fun x y => .whole (.spunmap x y)
  | 0x02 => sTAB w r fun x y z => .whole (.spwb x y z)
  | 0x03 => sAB w r fun x y => .whole (.spinv x y)
  | 0x04 => sTABC w r fun x y z u => .whole (.spcpy x y z u)
  | 0x05 => sTABC w r fun x y z u => .whole (.spfill x y z u)
  | 0x06 => sAK w r fun x y => .whole (.pref x y)
  | 0x07 => sAK w r fun x y => .whole (.ipref x y)
  | _ => .error .unassigned

/-- Major 0x1C. -/
def decodeCopy (w : Word) (r : List Word) : Decoded :=
  match fFn w with
  | 0x00 => sTABC w r fun x y z u => .whole (.cpy x y z u)
  | 0x01 => sTAB w r fun x y z => .whole (.cpyr x y z)
  | 0x02 => sTAB w r fun x y z => .whole (.cpyp x y z)
  | 0x03 => sTAB w r fun x y z => .whole (.cpyg x y z)
  | 0x04 => sDA w r fun x y => .whole (.wany x y)
  | 0x05 => sDA w r fun x y => .whole (.wall x y)
  | 0x06 => sDA w r fun x y => .whole (.ffr x y)
  | 0x07 => sD w r fun x => .whole (.tags x)
  | 0x08 => sDA w r fun x y => .whole (.tagclr x y)
  | _ => .error .unassigned

/-- Major 0x1D. -/
def decodeMat (w : Word) (r : List Word) : Decoded :=
  match fFn w with
  | 0x00 => sXAB w r fun x y z => .whole (.mma x y z)
  | 0x01 => sXAB w r fun x y z => .whole (.mdelta x y z)
  | 0x02 => sXAB w r fun x y z => .whole (.mscan x y z)
  | 0x03 => sXA w r fun x y => .whole (.mout x y)
  | 0x04 => sXA w r fun x y => .whole (.mlda x y)
  | 0x05 => sAK w r fun x y => .whole (.mzero x y)
  | 0x06 => sDAB w r fun x y z => .whole (.mpin x y z)
  | 0x07 => sA w r fun x => .whole (.munpin x)
  | 0x08 => sAB w r fun x y => .whole (.mspill x y)
  | 0x09 => sAB w r fun x y => .whole (.mfill x y)
  | 0x0A => sA w r fun x => .whole (.mwait x)
  | 0x0B => sDA w r fun x y => .whole (.mown x y)
  | _ => .error .unassigned

/-- Major 0x1E. -/
def decodeSys (w : Word) (r : List Word) : Decoded :=
  match fFn w with
  | 0x00 => sDKa w r fun x y => .whole (.rdsr x y)
  | 0x02 => sDA w r fun x y => .whole (.clock x y)
  | 0x03 => sA w r fun x => .whole (.trap x)
  | 0x05 => sK w r fun x => .whole (.bkpt x)
  | 0x06 => sA w r fun x => .whole (.emulret x)
  | 0x07 => s0 w r (.whole .nop)
  | 0x08 => sDK w r fun x y => .whole (.perfc x y)
  | 0x3F => sD w r fun x => .whole (.laneid x)
  | 0x01 => sTA w r fun n a => .whole (.wrsr n a)
  | 0x04 =>
    if fB w = 0 then s0 w r (.whole .resumeRetry)
    else if fB w = 1 then sAK w r (fun a _ => .whole (.resumeSkip a)) else .error .raw
  | _ => .error .unassigned

/-- Major 0x13: fn [5] is the type (R302). -/
def decodeHalu (w : Word) (r : List Word) : Decoded :=
  match fFn w % 32 with
  | 0 => sDAB w r (fun d a b => .whole (.hadd (fFn w / 32 == 1) d a b))
  | 1 => sDAB w r (fun d a b => .whole (.hsub (fFn w / 32 == 1) d a b))
  | 2 => sDAB w r (fun d a b => .whole (.hmul (fFn w / 32 == 1) d a b))
  | 3 => sDABC w r (fun d a b c => .whole (.hfma (fFn w / 32 == 1) d a b c))
  | 4 => sDAB w r (fun d a b => .whole (.hmin (fFn w / 32 == 1) d a b))
  | 5 => sDAB w r (fun d a b => .whole (.hmax (fFn w / 32 == 1) d a b))
  | 6 => sDA w r (fun d a => .whole (.hneg (fFn w / 32 == 1) d a))
  | 7 => sDA w r (fun d a => .whole (.habs (fFn w / 32 == 1) d a))
  | 8 => sDABC w r (fun d a b c => .whole (.hdot2 (fFn w / 32 == 1) d a b c))
  | _ => .error .unassigned

/-- Major 0x18 (R321). -/
def decodeAtom (w : Word) (r : List Word) : Decoded :=
  match fFn w % 32 with
  | 0 => sAtom w r true false false fun x s q d a _ _ => .whole (.atomLoad x s q d a)
  | 1 => if fD w = 120 then sAtom w r false true false fun x s q _ a b _ => .whole (.atomStore x s q a b) else .error .destination
  | 2 => sAtom w r true true false fun x s q d a b _ => .whole (.atomAdd x s q d a b)
  | 3 => sAtom w r true true false fun x s q d a b _ => .whole (.atomSub x s q d a b)
  | 4 => sAtom w r true true false fun x s q d a b _ => .whole (.atomAnd x s q d a b)
  | 5 => sAtom w r true true false fun x s q d a b _ => .whole (.atomOr x s q d a b)
  | 6 => sAtom w r true true false fun x s q d a b _ => .whole (.atomXor x s q d a b)
  | 7 => sAtom w r true true false fun x s q d a b _ => .whole (.atomMin x s q d a b)
  | 8 => sAtom w r true true false fun x s q d a b _ => .whole (.atomMax x s q d a b)
  | 9 => sAtom w r true true false fun x s q d a b _ => .whole (.atomMinn x s q d a b)
  | 10 => sAtom w r true true false fun x s q d a b _ => .whole (.atomMaxn x s q d a b)
  | 11 => sAtom w r true true false fun x s q d a b _ => .whole (.atomSwap x s q d a b)
  | 12 => sAtom w r true true true fun x s q d a b c => .whole (.atomCas x s q d a b c)
  | 13 => sAtom w r true true false fun x s q d a b _ => .whole (.atomInc x s q d a b)
  | 14 => sAtom w r true true false fun x s q d a b _ => .whole (.atomDec x s q d a b)
  | 15 => sAtom w r true true false fun x s q d a b _ => .whole (.atomFadd x s q d a b)
  | 16 => sAtom w r true true false fun x s q d a b _ => .whole (.atomFmin x s q d a b)
  | 17 => sAtom w r true true false fun x s q d a b _ => .whole (.atomFmax x s q d a b)
  | 18 => sAtom w r true true false fun x s q d a b _ => .whole (.atomHadd2F16 x s q d a b)
  | 19 => sAtom w r true true false fun x s q d a b _ => .whole (.atomHadd2Bf16 x s q d a b)
  | _ => .error .unassigned

/-- Major 0x19: D is zero in its encoding, an unused field (R238, R325). -/
def decodeRed (w : Word) (r : List Word) : Decoded :=
  unused (fD w) <|
  match fFn w % 32 with
  | 2 => sAtom w r false true false fun x s q _ a b _ => .whole (.redAdd x s q a b)
  | 4 => sAtom w r false true false fun x s q _ a b _ => .whole (.redAnd x s q a b)
  | 5 => sAtom w r false true false fun x s q _ a b _ => .whole (.redOr x s q a b)
  | 6 => sAtom w r false true false fun x s q _ a b _ => .whole (.redXor x s q a b)
  | 7 => sAtom w r false true false fun x s q _ a b _ => .whole (.redMin x s q a b)
  | 8 => sAtom w r false true false fun x s q _ a b _ => .whole (.redMax x s q a b)
  | 9 => sAtom w r false true false fun x s q _ a b _ => .whole (.redMinn x s q a b)
  | 10 => sAtom w r false true false fun x s q _ a b _ => .whole (.redMaxn x s q a b)
  | 15 => sAtom w r false true false fun x s q _ a b _ => .whole (.redFadd x s q a b)
  | 18 => sAtom w r false true false fun x s q _ a b _ => .whole (.redHadd2F16 x s q a b)
  | 19 => sAtom w r false true false fun x s q _ a b _ => .whole (.redHadd2Bf16 x s q a b)
  | _ => .error .unassigned

/-- Major 0x1A: raw fields (R326). -/
def decodeFence (w : Word) (r : List Word) : Decoded :=
  let d := BitVec.ofNat 7 (fD w)
  let a := BitVec.ofNat 7 (fA w)
  let b := BitVec.ofNat 7 (fB w)
  match fFn w with
  | 0x00 => .ok (.whole (.fence d a b), r)
  | 0x01 => unused (fA w) <| unused (fB w) <| .ok (.whole (.fencex d), r)
  | 0x02 =>
    match takeExt r with
    | .error e => .error e
    | .ok (cf, x, r0) => unused x (.ok (.whole (.relb d a b (BitVec.ofNat 7 cf)), r0))
  | 0x03 => .ok (.whole (.acqb d a b), r)
  | _ => .error .unassigned

/-- Major 0x0A: fn [5:4] the type, fn [3:0] the condition (R291). -/
def decodeIcmp (w : Word) (r : List Word) : Decoded :=
  if fFn w % 16 < 6 then sDAB w r fun d a b => .whole (.icmp (BitVec.ofNat 2 (fFn w / 16)) (BitVec.ofNat 4 (fFn w)) d a b)
  else .error .unassigned

/-- Formats I of majors 0x0C to 0x0E (R296). -/
def sImm (w : Word) (r : List Word) (mk : Bool → Dest → Operand → BitVec 12 → Parsed) : Decoded :=
  match takeDest (fD w), takeSrc (fA w) r with
  | .error e, _ => .error e
  | .ok _, .error e => .error e
  | .ok d, .ok (a, r1) => .ok (mk (fM w) d a (fImm12 w), r1)

/-- Major 0x0F (R297): m and imm12 [9:6] are zero. -/
def decodeShi (w : Word) (r : List Word) : Decoded :=
  unused (w.toNat / 2 ^ 12 % 2) <| unused (w.toNat / 2 ^ 6 % 16) <|
  match takeDest (fD w), takeSrc (fA w) r with
  | .error e, _ => .error e
  | .ok _, .error e => .error e
  | .ok d, .ok (a, r1) =>
    let n := BitVec.ofNat 6 w.toNat
    match w.toNat / 2 ^ 10 % 4 with
    | 0 => .ok (.whole (.shli d a n), r1)
    | 1 => .ok (.whole (.shri d a n), r1)
    | 2 => .ok (.whole (.sari d a n), r1)
    | _ => .ok (.whole (.rotli d a n), r1)

/-- Format U (R298). -/
def sU (w : Word) (r : List Word) (mk : Dest → BitVec 20 → Parsed) : Decoded :=
  match takeDest (fD w) with
  | .error e => .error e
  | .ok d => .ok (mk d (fImm20 w), r)

/-- BRT and BRF: P is a predicate operand other than lit (R256). -/
def sBr (w : Word) (r : List Word) (mk : Operand → BitVec 20 → Parsed) : Decoded :=
  match takeD (fD w) with
  | .error e => .error e
  | .ok p => .ok (mk p (fImm20 w), r)

/-- TRAMP (R260): P [6] is L. -/
def decodeTramp (w : Word) (r : List Word) : Decoded :=
  if fD w / 64 = 1 then .ok (.whole (.trampLink (BitVec.ofNat 6 (fD w)) (fImm20 w)), r)
  else if fD w = 0 then .ok (.whole (.tramp (fImm20 w)), r) else .error .raw

/-- Major 0x16 (R314, R318). -/
def decodeLd (w : Word) (r : List Word) : Decoded :=
  match takeDest (fD w), takeSrc (fA w) r with
  | .error e, _ => .error e
  | .ok _, .error e => .error e
  | .ok d, .ok (a, r1) =>
    if fSz w = 7 then unused (fOff7 w / 32) (.ok (.whole (.ldFmt (BitVec.ofNat 3 (fQ w)) d a (BitVec.ofNat 5 (fOff7 w))), r1))
    else .ok (.whole (.ld (BitVec.ofNat 3 (fQ w)) (BitVec.ofNat 3 (fSz w)) d a (BitVec.ofNat 7 (fOff7 w))), r1)

/-- Major 0x17 (R314, R318): D is the data source. -/
def decodeSt (w : Word) (r : List Word) : Decoded :=
  match takeD (fD w), takeSrc (fA w) r with
  | .error e, _ => .error e
  | .ok _, .error e => .error e
  | .ok x, .ok (a, r1) =>
    if fSz w = 7 then unused (fOff7 w / 32) (.ok (.whole (.stFmt (BitVec.ofNat 3 (fQ w)) x a (BitVec.ofNat 5 (fOff7 w))), r1))
    else .ok (.whole (.st (BitVec.ofNat 3 (fQ w)) (BitVec.ofNat 3 (fSz w)) x a (BitVec.ofNat 7 (fOff7 w))), r1)

/-- The instruction at the head of the words, before its raw fields are judged. `sq` says that this is sequencer code. -/
def parse (sq : Bool) : List Word → Decoded
  | [] => .error .missing
  | w :: r =>
    match fOp w with
    | 0x00 => .error .illMajor
    | 0x01 => .error .header
    | 0x02 => unused (fD w) (.ok (.whole (.jmp (fImm20 w)), r))
    | 0x03 => sBr w r fun p o => .whole (.brt p o)
    | 0x04 => sBr w r fun p o => .whole (.brf p o)
    | 0x05 => .ok (.whole (.call (BitVec.ofNat 7 (fD w)) (fImm20 w)), r)
    | 0x06 => decodeTramp w r
    | 0x07 => decodeFlow sq w r
    | 0x08 => decodeIalu w r
    | 0x09 => decodeIalu64 w r
    | 0x0A => decodeIcmp w r
    | 0x0B => decodeImisc w r
    | 0x0C => sImm w r fun m d a k => .whole (.addi m d a k)
    | 0x0D => sImm w r fun m d a k => .whole (.andi m d a k)
    | 0x0E => sImm w r fun m d a k => .whole (.ori m d a k)
    | 0x0F => decodeShi w r
    | 0x10 => sU w r fun d k => .whole (.lhi d k)
    | 0x11 => sU w r fun d k => .whole (.pchi d k)
    | 0x12 => decodeFalu w r
    | 0x13 => decodeHalu w r
    | 0x14 => decodeFcvt w r
    | 0x15 => decodeSfu w r
    | 0x16 => decodeLd w r
    | 0x17 => decodeSt w r
    | 0x18 => decodeAtom w r
    | 0x19 => decodeRed w r
    | 0x1A => decodeFence w r
    | 0x1B => decodeCache w r
    | 0x1C => decodeCopy w r
    | 0x1D => if sq then decodeMat w r else .error .matrix
    | 0x1E => decodeSys w r
    | _ => .error .extension

/-- The instruction at the head of the words: parsed, and its raw fields in range. Total on any words. -/
def parseOk (sq : Bool) (ws : List Word) : Decoded :=
  match parse sq ws with
  | .error e => .error e
  | .ok (p, r) => if p.wellFormed sq then .ok (p, r) else .error .raw

/-- The decoder: the instruction at the head of the words and the words after it, or why there is none. -/
noncomputable def decode (sq : Bool) (ws : List Word) : Except DecodeError (Instr × List Word) :=
  match parseOk sq ws with
  | .error e => .error e
  | .ok (p, r) => .ok (p.instr, r)

/-! ## The encoder -/

/-- Format A with its literal words. -/
def encA (op d : Nat) (a b : Operand) (fn : Nat) : List Word :=
  packA op d (codeOf a) (codeOf b) fn :: (litOf a ++ litOf b)
/-- Format A with one operand in A and a raw or unused B. -/
def encK (op d : Nat) (a : Operand) (b fn : Nat) : List Word := packA op d (codeOf a) b fn :: litOf a
/-- X form with three operands. -/
def encX (op d : Nat) (a b c : Operand) (fn x : Nat) : List Word :=
  packA op d (codeOf a) (codeOf b) fn :: packX (codeOf c) x :: (litOf a ++ litOf b ++ litOf c)
/-- X form with operands A and B, C unused. -/
def encX2 (op d : Nat) (a b : Operand) (fn x : Nat) : List Word :=
  packA op d (codeOf a) (codeOf b) fn :: packX 0 x :: (litOf a ++ litOf b)
/-- The width bit of ATOM, RED and the type bit of HALU, in fn. -/
def fn5 (b : Bool) (fn : Nat) : Nat := if b then 32 + fn else fn
/-- Scope and order in an extension word (R321). -/
def atomX (s : BitVec 3) (o : BitVec 2) : Nat := s.toNat * 2 ^ 17 + o.toNat * 2 ^ 15

/-- The words of a well-formed instruction; a device event has none. -/
def encode : Instr → List Word
  | .jmp off => [packU 0x02 0 off.toNat]
  | .brt p off => [packU 0x03 (codeOf p) off.toNat]
  | .brf p off => [packU 0x04 (codeOf p) off.toNat]
  | .call k off => [packU 0x05 k.toNat off.toNat]
  | .tramp off => [packU 0x06 0 off.toNat]
  | .trampLink k off => [packU 0x06 (64 + k.toNat) off.toNat]
  | .bri a => encK 0x07 0 a 0 0x00
  | .calli a k => encK 0x07 0 a k.toNat 0x01
  | .ret => [packA 0x07 0 0 0 0x02]
  | .exit => [packA 0x07 0 0 0 0x03]
  | .fork d a b => encA 0x07 (codeOfDest d) a b 0x04
  | .bar n => [packA 0x07 0 0 n.toNat 0x05]
  | .arrive n => [packA 0x07 0 0 n.toNat 0x06]
  | .await n => [packA 0x07 0 0 n.toNat 0x07]
  | .winb a => encK 0x07 0 a 0 0x08
  | .steer d a p => encA 0x07 (codeOfDest d) a p 0x09
  | .merge d a b p => encX 0x07 (codeOfDest d) a b p 0x0A 0
  | .sel d a b p => encX 0x07 (codeOfDest d) a b p 0x0B 0
  | .pget d n => [packA 0x07 (codeOfDest d) 0 n.toNat 0x0C]
  | .pset a n => encK 0x07 127 a n.toNat 0x0D
  | .yield a => encK 0x07 0 a 0 0x0E
  | .launch d a b => encA 0x07 (codeOfDest d) a b 0x0F
  | .efork d a b => encA 0x07 (codeOfDest d) a b 0x10
  | .rdv n => [packA 0x07 0 0 n.toNat 0x11]
  | .sequencerRdv a n => encK 0x07 0 a n.toNat 0x11
  | .cancel d a lvl => encK 0x07 (codeOfDest d) a lvl.toNat 0x12
  | .shfl d a b => encA 0x07 (codeOfDest d) a b 0x3E
  | .vote d a mode => encK 0x07 (codeOfDest d) a mode.toNat 0x3F
  | .add d a b => encA 0x08 (codeOfDest d) a b 0x00
  | .sub d a b => encA 0x08 (codeOfDest d) a b 0x01
  | .mul d a b => encA 0x08 (codeOfDest d) a b 0x02
  | .mulh d a b => encA 0x08 (codeOfDest d) a b 0x03
  | .mulhn d a b => encA 0x08 (codeOfDest d) a b 0x04
  | .min d a b => encA 0x08 (codeOfDest d) a b 0x05
  | .max d a b => encA 0x08 (codeOfDest d) a b 0x06
  | .minn d a b => encA 0x08 (codeOfDest d) a b 0x07
  | .maxn d a b => encA 0x08 (codeOfDest d) a b 0x08
  | .and d a b => encA 0x08 (codeOfDest d) a b 0x09
  | .or d a b => encA 0x08 (codeOfDest d) a b 0x0A
  | .xor d a b => encA 0x08 (codeOfDest d) a b 0x0B
  | .andn d a b => encA 0x08 (codeOfDest d) a b 0x0C
  | .shl d a b => encA 0x08 (codeOfDest d) a b 0x0D
  | .shr d a b => encA 0x08 (codeOfDest d) a b 0x0E
  | .sar d a b => encA 0x08 (codeOfDest d) a b 0x0F
  | .rotl d a b => encA 0x08 (codeOfDest d) a b 0x10
  | .clz d a => encK 0x08 (codeOfDest d) a 0 0x11
  | .ctz d a => encK 0x08 (codeOfDest d) a 0 0x12
  | .popc d a => encK 0x08 (codeOfDest d) a 0 0x13
  | .brev d a => encK 0x08 (codeOfDest d) a 0 0x14
  | .abs d a => encK 0x08 (codeOfDest d) a 0 0x15
  | .neg d a => encK 0x08 (codeOfDest d) a 0 0x16
  | .not d a => encK 0x08 (codeOfDest d) a 0 0x17
  | .adds d a b => encA 0x08 (codeOfDest d) a b 0x18
  | .subs d a b => encA 0x08 (codeOfDest d) a b 0x19
  | .div d a b => encA 0x08 (codeOfDest d) a b 0x1A
  | .divn d a b => encA 0x08 (codeOfDest d) a b 0x1B
  | .rem d a b => encA 0x08 (codeOfDest d) a b 0x1C
  | .remn d a b => encA 0x08 (codeOfDest d) a b 0x1D
  | .mov d a => encK 0x08 (codeOfDest d) a 0 0x1E
  | .xtnd d a code => encK 0x08 (codeOfDest d) a code.toNat 0x1F
  | .mul24 d a b => encA 0x08 (codeOfDest d) a b 0x3F
  | .add64 d a b => encA 0x09 (codeOfDest d) a b 0x00
  | .sub64 d a b => encA 0x09 (codeOfDest d) a b 0x01
  | .mul64 d a b => encA 0x09 (codeOfDest d) a b 0x02
  | .mulh64 d a b => encA 0x09 (codeOfDest d) a b 0x03
  | .mulhn64 d a b => encA 0x09 (codeOfDest d) a b 0x04
  | .min64 d a b => encA 0x09 (codeOfDest d) a b 0x05
  | .max64 d a b => encA 0x09 (codeOfDest d) a b 0x06
  | .minn64 d a b => encA 0x09 (codeOfDest d) a b 0x07
  | .maxn64 d a b => encA 0x09 (codeOfDest d) a b 0x08
  | .and64 d a b => encA 0x09 (codeOfDest d) a b 0x09
  | .or64 d a b => encA 0x09 (codeOfDest d) a b 0x0A
  | .xor64 d a b => encA 0x09 (codeOfDest d) a b 0x0B
  | .andn64 d a b => encA 0x09 (codeOfDest d) a b 0x0C
  | .shl64 d a b => encA 0x09 (codeOfDest d) a b 0x0D
  | .shr64 d a b => encA 0x09 (codeOfDest d) a b 0x0E
  | .sar64 d a b => encA 0x09 (codeOfDest d) a b 0x0F
  | .rotl64 d a b => encA 0x09 (codeOfDest d) a b 0x10
  | .clz64 d a => encK 0x09 (codeOfDest d) a 0 0x11
  | .ctz64 d a => encK 0x09 (codeOfDest d) a 0 0x12
  | .popc64 d a => encK 0x09 (codeOfDest d) a 0 0x13
  | .brev64 d a => encK 0x09 (codeOfDest d) a 0 0x14
  | .abs64 d a => encK 0x09 (codeOfDest d) a 0 0x15
  | .neg64 d a => encK 0x09 (codeOfDest d) a 0 0x16
  | .not64 d a => encK 0x09 (codeOfDest d) a 0 0x17
  | .adds64 d a b => encA 0x09 (codeOfDest d) a b 0x18
  | .subs64 d a b => encA 0x09 (codeOfDest d) a b 0x19
  | .div64 d a b => encA 0x09 (codeOfDest d) a b 0x1A
  | .divn64 d a b => encA 0x09 (codeOfDest d) a b 0x1B
  | .rem64 d a b => encA 0x09 (codeOfDest d) a b 0x1C
  | .remn64 d a b => encA 0x09 (codeOfDest d) a b 0x1D
  | .mov64 d a => encK 0x09 (codeOfDest d) a 0 0x1E
  | .xtnd64 d a code => encK 0x09 (codeOfDest d) a code.toNat 0x1F
  | .mulw d a b => encA 0x09 (codeOfDest d) a b 0x20
  | .mulwn d a b => encA 0x09 (codeOfDest d) a b 0x21
  | .icmp ty cond d a b => encA 0x0A (codeOfDest d) a b (ty.toNat * 16 + cond.toNat)
  | .bfx d a b => encA 0x0B (codeOfDest d) a b 0x00
  | .bfxn d a b => encA 0x0B (codeOfDest d) a b 0x01
  | .bfi d a b c => encX 0x0B (codeOfDest d) a b c 0x02 0
  | .lea1 d a b => encA 0x0B (codeOfDest d) a b 0x03
  | .lea2 d a b => encA 0x0B (codeOfDest d) a b 0x04
  | .lea4 d a b => encA 0x0B (codeOfDest d) a b 0x05
  | .lea8 d a b => encA 0x0B (codeOfDest d) a b 0x06
  | .lea16 d a b => encA 0x0B (codeOfDest d) a b 0x07
  | .perm d a b c => encX 0x0B (codeOfDest d) a b c 0x08 0
  | .mad d a b c => encX 0x0B (codeOfDest d) a b c 0x09 0
  | .mad64 d a b c => encX 0x0B (codeOfDest d) a b c 0x0A 0
  | .pand d a b => encA 0x0B (codeOfDest d) a b 0x0B
  | .por d a b => encA 0x0B (codeOfDest d) a b 0x0C
  | .pxor d a b => encA 0x0B (codeOfDest d) a b 0x0D
  | .pnot d a => encK 0x0B (codeOfDest d) a 0 0x0E
  | .pandn d a b => encA 0x0B (codeOfDest d) a b 0x0F
  | .p2i d a => encK 0x0B (codeOfDest d) a 0 0x10
  | .i2p d a => encK 0x0B (codeOfDest d) a 0 0x11
  | .addi w64 d a imm => packI 0x0C (codeOfDest d) (codeOf a) w64.toNat imm.toNat :: litOf a
  | .andi w64 d a imm => packI 0x0D (codeOfDest d) (codeOf a) w64.toNat imm.toNat :: litOf a
  | .ori w64 d a imm => packI 0x0E (codeOfDest d) (codeOf a) w64.toNat imm.toNat :: litOf a
  | .shli d a n => packI 0x0F (codeOfDest d) (codeOf a) 0 (0 * 2 ^ 10 + n.toNat) :: litOf a
  | .shri d a n => packI 0x0F (codeOfDest d) (codeOf a) 0 (1 * 2 ^ 10 + n.toNat) :: litOf a
  | .sari d a n => packI 0x0F (codeOfDest d) (codeOf a) 0 (2 * 2 ^ 10 + n.toNat) :: litOf a
  | .rotli d a n => packI 0x0F (codeOfDest d) (codeOf a) 0 (3 * 2 ^ 10 + n.toNat) :: litOf a
  | .lhi d imm => [packU 0x10 (codeOfDest d) imm.toNat]
  | .pchi d imm => [packU 0x11 (codeOfDest d) imm.toNat]
  | .fadd d a b => encA 0x12 (codeOfDest d) a b 0x00
  | .fsub d a b => encA 0x12 (codeOfDest d) a b 0x01
  | .fmul d a b => encA 0x12 (codeOfDest d) a b 0x02
  | .fma d a b c => encX 0x12 (codeOfDest d) a b c 0x03 0
  | .fmin d a b => encA 0x12 (codeOfDest d) a b 0x04
  | .fmax d a b => encA 0x12 (codeOfDest d) a b 0x05
  | .fabs d a => encK 0x12 (codeOfDest d) a 0 0x06
  | .fneg d a => encK 0x12 (codeOfDest d) a 0 0x07
  | .feq d a b => encA 0x12 (codeOfDest d) a b 0x08
  | .fne d a b => encA 0x12 (codeOfDest d) a b 0x09
  | .flt d a b => encA 0x12 (codeOfDest d) a b 0x0A
  | .fle d a b => encA 0x12 (codeOfDest d) a b 0x0B
  | .funord d a b => encA 0x12 (codeOfDest d) a b 0x0C
  | .frndn d a => encK 0x12 (codeOfDest d) a 0 0x0D
  | .frndz d a => encK 0x12 (codeOfDest d) a 0 0x0E
  | .frndu d a => encK 0x12 (codeOfDest d) a 0 0x0F
  | .frndd d a => encK 0x12 (codeOfDest d) a 0 0x10
  | .fsat d a => encK 0x12 (codeOfDest d) a 0 0x11
  | .fcsgn d a b => encA 0x12 (codeOfDest d) a b 0x12
  | .fdiv d a b => encA 0x12 (codeOfDest d) a b 0x13
  | .fsqrt d a => encK 0x12 (codeOfDest d) a 0 0x14
  | .fmadsat d a b => encA 0x12 (codeOfDest d) a b 0x3F
  | .hadd bf d a b => encA 0x13 (codeOfDest d) a b (fn5 bf 0)
  | .hsub bf d a b => encA 0x13 (codeOfDest d) a b (fn5 bf 1)
  | .hmul bf d a b => encA 0x13 (codeOfDest d) a b (fn5 bf 2)
  | .hfma bf d a b c => encX 0x13 (codeOfDest d) a b c (fn5 bf 3) 0
  | .hmin bf d a b => encA 0x13 (codeOfDest d) a b (fn5 bf 4)
  | .hmax bf d a b => encA 0x13 (codeOfDest d) a b (fn5 bf 5)
  | .hneg bf d a => encK 0x13 (codeOfDest d) a 0 (fn5 bf 6)
  | .habs bf d a => encK 0x13 (codeOfDest d) a 0 (fn5 bf 7)
  | .hdot2 bf d a b c => encX 0x13 (codeOfDest d) a b c (fn5 bf 8) 0
  | .ftoi d a => encK 0x14 (codeOfDest d) a 0 0x00
  | .fton d a => encK 0x14 (codeOfDest d) a 0 0x01
  | .ftoi64 d a => encK 0x14 (codeOfDest d) a 0 0x02
  | .fton64 d a => encK 0x14 (codeOfDest d) a 0 0x03
  | .itof d a => encK 0x14 (codeOfDest d) a 0 0x04
  | .ntof d a => encK 0x14 (codeOfDest d) a 0 0x05
  | .itof64 d a => encK 0x14 (codeOfDest d) a 0 0x06
  | .ntof64 d a => encK 0x14 (codeOfDest d) a 0 0x07
  | .pkh d a b => encA 0x14 (codeOfDest d) a b 0x08
  | .pkb d a b => encA 0x14 (codeOfDest d) a b 0x09
  | .uph d a => encK 0x14 (codeOfDest d) a 0 0x0A
  | .upb d a => encK 0x14 (codeOfDest d) a 0 0x0B
  | .pk8e4 d a => encK 0x14 (codeOfDest d) a 0 0x0C
  | .pk8e5 d a => encK 0x14 (codeOfDest d) a 0 0x0D
  | .up8e4 d a => encK 0x14 (codeOfDest d) a 0 0x0E
  | .up8e5 d a => encK 0x14 (codeOfDest d) a 0 0x0F
  | .pk4 d a b => encA 0x14 (codeOfDest d) a b 0x10
  | .up4l d a => encK 0x14 (codeOfDest d) a 0 0x11
  | .up4h d a => encK 0x14 (codeOfDest d) a 0 0x12
  | .pki8 d a => encK 0x14 (codeOfDest d) a 0 0x13
  | .upi8 d a => encK 0x14 (codeOfDest d) a 0 0x14
  | .pki4 d a => encK 0x14 (codeOfDest d) a 0 0x15
  | .upi4 d a => encK 0x14 (codeOfDest d) a 0 0x16
  | .scale d a b => encA 0x14 (codeOfDest d) a b 0x17
  | .escale d a f => encK 0x14 (codeOfDest d) a f.toNat 0x18
  | .cbdec d a h => encK 0x14 (codeOfDest d) a h.toNat 0x19
  | .pk6e3 d a => encK 0x14 (codeOfDest d) a 0 0x1A
  | .up6e3 d a => encK 0x14 (codeOfDest d) a 0 0x1B
  | .pk6e2 d a => encK 0x14 (codeOfDest d) a 0 0x1C
  | .up6e2 d a => encK 0x14 (codeOfDest d) a 0 0x1D
  | .pkhSr d a b c => encX 0x14 (codeOfDest d) a b c 0x28 0
  | .pkbSr d a b c => encX 0x14 (codeOfDest d) a b c 0x29 0
  | .pk8e4Sr d a c => packA 0x14 (codeOfDest d) (codeOf a) 0 0x2C :: packX (codeOf c) 0 :: (litOf a ++ litOf c)
  | .pk8e5Sr d a c => packA 0x14 (codeOfDest d) (codeOf a) 0 0x2D :: packX (codeOf c) 0 :: (litOf a ++ litOf c)
  | .pk4Sr d a b c => encX 0x14 (codeOfDest d) a b c 0x30 0
  | .pk6e3Sr d a c => packA 0x14 (codeOfDest d) (codeOf a) 0 0x3A :: packX (codeOf c) 0 :: (litOf a ++ litOf c)
  | .pk6e2Sr d a c => packA 0x14 (codeOfDest d) (codeOf a) 0 0x3C :: packX (codeOf c) 0 :: (litOf a ++ litOf c)
  | .cvt16z d a => encK 0x14 (codeOfDest d) a 0 0x3F
  | .rcp d a => encK 0x15 (codeOfDest d) a 0 0x00
  | .rsq d a => encK 0x15 (codeOfDest d) a 0 0x01
  | .sqrta d a => encK 0x15 (codeOfDest d) a 0 0x02
  | .exp2 d a => encK 0x15 (codeOfDest d) a 0 0x03
  | .log2 d a => encK 0x15 (codeOfDest d) a 0 0x04
  | .sinpi d a => encK 0x15 (codeOfDest d) a 0 0x05
  | .cospi d a => encK 0x15 (codeOfDest d) a 0 0x06
  | .tanh d a => encK 0x15 (codeOfDest d) a 0 0x07
  | .sigm d a => encK 0x15 (codeOfDest d) a 0 0x08
  | .ld q sz d a off => packM 0x16 (codeOfDest d) (codeOf a) q.toNat sz.toNat off.toNat :: litOf a
  | .ldFmt q d a e => packM 0x16 (codeOfDest d) (codeOf a) q.toNat 7 e.toNat :: litOf a
  | .st q sz x a off => packM 0x17 (codeOf x) (codeOf a) q.toNat sz.toNat off.toNat :: litOf a
  | .stFmt q x a e => packM 0x17 (codeOf x) (codeOf a) q.toNat 7 e.toNat :: litOf a
  | .atomLoad w64 scope order d a => packA 0x18 (codeOfDest d) (codeOf a) 0 (fn5 w64 0) :: packX 0 (atomX scope order) :: litOf a
  | .atomStore w64 scope order a b => encX2 0x18 120 a b (fn5 w64 1) (atomX scope order)
  | .atomAdd w64 scope order d a b => encX2 0x18 (codeOfDest d) a b (fn5 w64 2) (atomX scope order)
  | .atomSub w64 scope order d a b => encX2 0x18 (codeOfDest d) a b (fn5 w64 3) (atomX scope order)
  | .atomAnd w64 scope order d a b => encX2 0x18 (codeOfDest d) a b (fn5 w64 4) (atomX scope order)
  | .atomOr w64 scope order d a b => encX2 0x18 (codeOfDest d) a b (fn5 w64 5) (atomX scope order)
  | .atomXor w64 scope order d a b => encX2 0x18 (codeOfDest d) a b (fn5 w64 6) (atomX scope order)
  | .atomMin w64 scope order d a b => encX2 0x18 (codeOfDest d) a b (fn5 w64 7) (atomX scope order)
  | .atomMax w64 scope order d a b => encX2 0x18 (codeOfDest d) a b (fn5 w64 8) (atomX scope order)
  | .atomMinn w64 scope order d a b => encX2 0x18 (codeOfDest d) a b (fn5 w64 9) (atomX scope order)
  | .atomMaxn w64 scope order d a b => encX2 0x18 (codeOfDest d) a b (fn5 w64 10) (atomX scope order)
  | .atomSwap w64 scope order d a b => encX2 0x18 (codeOfDest d) a b (fn5 w64 11) (atomX scope order)
  | .atomCas w64 scope order d a b c => encX 0x18 (codeOfDest d) a b c (fn5 w64 12) (atomX scope order)
  | .atomInc w64 scope order d a b => encX2 0x18 (codeOfDest d) a b (fn5 w64 13) (atomX scope order)
  | .atomDec w64 scope order d a b => encX2 0x18 (codeOfDest d) a b (fn5 w64 14) (atomX scope order)
  | .atomFadd w64 scope order d a b => encX2 0x18 (codeOfDest d) a b (fn5 w64 15) (atomX scope order)
  | .atomFmin w64 scope order d a b => encX2 0x18 (codeOfDest d) a b (fn5 w64 16) (atomX scope order)
  | .atomFmax w64 scope order d a b => encX2 0x18 (codeOfDest d) a b (fn5 w64 17) (atomX scope order)
  | .atomHadd2F16 w64 scope order d a b => encX2 0x18 (codeOfDest d) a b (fn5 w64 18) (atomX scope order)
  | .atomHadd2Bf16 w64 scope order d a b => encX2 0x18 (codeOfDest d) a b (fn5 w64 19) (atomX scope order)
  | .redAdd w64 scope order a b => encX2 0x19 0 a b (fn5 w64 2) (atomX scope order)
  | .redAnd w64 scope order a b => encX2 0x19 0 a b (fn5 w64 4) (atomX scope order)
  | .redOr w64 scope order a b => encX2 0x19 0 a b (fn5 w64 5) (atomX scope order)
  | .redXor w64 scope order a b => encX2 0x19 0 a b (fn5 w64 6) (atomX scope order)
  | .redMin w64 scope order a b => encX2 0x19 0 a b (fn5 w64 7) (atomX scope order)
  | .redMax w64 scope order a b => encX2 0x19 0 a b (fn5 w64 8) (atomX scope order)
  | .redMinn w64 scope order a b => encX2 0x19 0 a b (fn5 w64 9) (atomX scope order)
  | .redMaxn w64 scope order a b => encX2 0x19 0 a b (fn5 w64 10) (atomX scope order)
  | .redFadd w64 scope order a b => encX2 0x19 0 a b (fn5 w64 15) (atomX scope order)
  | .redHadd2F16 w64 scope order a b => encX2 0x19 0 a b (fn5 w64 18) (atomX scope order)
  | .redHadd2Bf16 w64 scope order a b => encX2 0x19 0 a b (fn5 w64 19) (atomX scope order)
  | .fence scope mask kind => [packA 0x1A scope.toNat mask.toNat kind.toNat 0x00]
  | .fencex scope => [packA 0x1A scope.toNat 0 0 0x01]
  | .relb scope mask n n2 => [packA 0x1A scope.toNat mask.toNat n.toNat 0x02, packX n2.toNat 0]
  | .acqb scope mask n => [packA 0x1A scope.toNat mask.toNat n.toNat 0x03]
  | .spmap a b c => encX 0x1B 0 a b c 0x00 0
  | .spunmap t a => encK 0x1B t.toNat a 0 0x01
  | .spwb t a b => encA 0x1B t.toNat a b 0x02
  | .spinv a b => encA 0x1B 0 a b 0x03
  | .spcpy t a b c => encX 0x1B t.toNat a b c 0x04 0
  | .spfill t a b c => encX 0x1B t.toNat a b c 0x05 0
  | .pref a k => encK 0x1B 0 a k.toNat 0x06
  | .ipref a k => encK 0x1B 0 a k.toNat 0x07
  | .cpy t a b c => encX 0x1C t.toNat a b c 0x00 0
  | .cpyr t a b => encA 0x1C t.toNat a b 0x01
  | .cpyp t a b => encA 0x1C t.toNat a b 0x02
  | .cpyg t a b => encA 0x1C t.toNat a b 0x03
  | .wany d a => encK 0x1C (codeOfDest d) a 0 0x04
  | .wall d a => encK 0x1C (codeOfDest d) a 0 0x05
  | .ffr d a => encK 0x1C (codeOfDest d) a 0 0x06
  | .tags d => [packA 0x1C (codeOfDest d) 0 0 0x07]
  | .tagclr d a => encK 0x1C (codeOfDest d) a 0 0x08
  | .mma ctl a b => encA 0x1D (codeOf ctl) a b 0x00
  | .mdelta ctl a b => encA 0x1D (codeOf ctl) a b 0x01
  | .mscan ctl a b => encA 0x1D (codeOf ctl) a b 0x02
  | .mout ctl a => encK 0x1D (codeOf ctl) a 0 0x03
  | .mlda ctl a => encK 0x1D (codeOf ctl) a 0 0x04
  | .mzero a ty => encK 0x1D 0 a ty.toNat 0x05
  | .mpin d a b => encA 0x1D (codeOfDest d) a b 0x06
  | .munpin a => encK 0x1D 0 a 0 0x07
  | .mspill a b => encA 0x1D 0 a b 0x08
  | .mfill a b => encA 0x1D 0 a b 0x09
  | .mwait a => encK 0x1D 0 a 0 0x0A
  | .mown d a => encK 0x1D (codeOfDest d) a 0 0x0B
  | .rdsr d n => [packA 0x1E (codeOfDest d) n.toNat 0 0x00]
  | .wrsr n a => encK 0x1E n.toNat a 0 0x01
  | .clock d a => encK 0x1E (codeOfDest d) a 0 0x02
  | .trap a => encK 0x1E 0 a 0 0x03
  | .resumeRetry => [packA 0x1E 0 0 0 0x04]
  | .resumeSkip a => encK 0x1E 0 a 1 0x04
  | .bkpt k => [packA 0x1E 0 0 k.toNat 0x05]
  | .emulret a => encK 0x1E 0 a 0 0x06
  | .nop => [packA 0x1E 0 0 0 0x07]
  | .perfc d k => [packA 0x1E (codeOfDest d) 0 k.toNat 0x08]
  | .laneid d => [packA 0x1E (codeOfDest d) 0 0 0x3F]
  | .blockAdmission _ => []
  | .commit _ => []
  | .instanceFault _ => []
  | .postCommitTrapDelivery _ => []
  | .loadResultArrival _ => []
  | .schedulerChoice _ => []
  | .instructionLineFill _ _ _ => []
  | .configBuildComplete _ _ _ => []
  | .configPlacement _ _ _ => []
  | .nodeTeardown _ _ _ => []
  | .fibreAgeing _ => []
  | .yieldDelayExpiry _ => []
  | .windowFillComplete _ _ => []
  | .homeWrite _ => []
  | .copyOperationComplete _ _ => []
  | .drainRequest _ => []
  | .acquireComplete _ => []
  | .fenceTokenArrival _ => []
  | .fenceComplete _ => []
  | .l1AgeingSweep _ => []
  | .coherenceRequest _ _ _ => []
  | .lineEviction _ _ => []
  | .directoryEntryEviction _ => []
  | .directoryError _ => []
  | .agentRejoin _ _ => []
  | .holderOffer _ => []
  | .grantRequest _ _ => []
  | .forcedDrain _ _ => []
  | .drainApplied _ => []
  | .boundedRead _ => []
  | .repartitionBankEmpty _ => []
  | .l1FlushComplete _ => []
  | .xlatInvPageRange _ => []
  | .xlatInvContext _ => []
  | .xlatInvRegion _ => []
  | .xlatInvCodeRange _ => []
  | .xlatInvAll _ => []
  | .xlatInvalidationDone => []
  | .cspartWrite _ _ => []
  | .bvdrainWrite _ => []
  | .qcfgWrite _ _ _ => []
  | .ingressPortWrite _ _ _ => []
  | .launchAcceptance _ => []
  | .bindRecordWrite _ _ _ _ => []
  | .gatherPlacement => []
  | .gatherExit _ => []
  | .launchCompletion _ => []
  | .codeLoad _ _ => []
  | .codeLoadComplete _ => []
  | .codeUnload _ => []
  | .codeEviction _ => []
  | .kill _ => []
  | .drain _ => []
  | .checkpoint _ => []
  | .checkpointSaved _ _ => []
  | .restore _ => []
  | .timeSliceExpiry _ => []
  | .sequencerProgramStart _ => []
  | .matComplete _ _ => []
  | .dbgHaltreq _ => []
  | .dbgcmdFibre _ _ => []
  | .dbgcmdGather _ _ => []
  | .dbgcmdJob _ _ => []
  | .serviceRegister _ => []
  | .serviceWithdraw _ => []
  | .serviceInvalidate _ => []
  | .servicePowerMode _ => []
  | .serviceReadLog _ => []
  | .serviceDebugSlot _ => []
  | .serviceJobConfig _ => []
  | .serviceLoadFirmware _ => []
  | .mailboxReply _ => []
  | .onchipMapWrite _ _ => []
  | .registerWrite _ _ => []
  | .hostWindowAccess _ _ _ _ => []
  | .peerRequest _ _ _ _ => []
  | .atsInvalidation _ _ _ => []
  | .priResponse _ _ _ => []
  | .priTimeout _ _ => []
  | .secondTierTimeout _ => []
  | .flitReplay _ => []
  | .linkRetrain _ _ => []
  | .linkDown _ => []
  | .portLaneFailure _ => []
  | .portDown _ => []
  | .clusterFailure _ => []
  | .dieOutOfService _ => []
  | .rowSparing _ _ => []
  | .powerChangeApply => []
  | .arbiterInterval _ _ => []
  | .coolantLimit _ => []
  | .reset => []
  | .pageWalkComplete _ => []
  | .grantRecordEviction _ => []
  | .homeTileEviction _ _ => []
  | .sendAllowanceGrant _ _ _ => []
  | .atsTranslationCompletion _ _ _ => []
  | .jobClose _ => []
  | .managementCoreFailure => []

/-! ## The opcode table's numbering -/

/-- Whether a first word is one that only sequencer code gives a meaning: a MAT word, or RDV with a count. -/
def seqWord (w : Word) : Bool := fOp w == 0x1D || (fOp w == 0x07 && fFn w == 0x11 && fA w != 0)

/-- The words of an instruction whose bits are w, bit 0 the least significant of the first word; the bits above nbits
are 0. The longest instruction has five words: first word, extension, three literals (R240). -/
def tableWords (nbits w : Nat) : List Word :=
  let v := w % 2 ^ nbits
  [BitVec.ofNat 32 v, BitVec.ofNat 32 (v / 2 ^ 32), BitVec.ofNat 32 (v / 2 ^ 64), BitVec.ofNat 32 (v / 2 ^ 96),
   BitVec.ofNat 32 (v / 2 ^ 128)]

/-- A 32-bit word as four bytes, the least significant first (R4). -/
def bytesOfWord (w : Word) : List Byte :=
  [BitVec.ofNat 8 w.toNat, BitVec.ofNat 8 (w.toNat / 2 ^ 8), BitVec.ofNat 8 (w.toNat / 2 ^ 16),
   BitVec.ofNat 8 (w.toNat / 2 ^ 24)]

/-- Little-endian bytes as words (R4). -/
def wordsOfBytes : List Byte → List Word
  | a :: b :: c :: d :: r =>
    BitVec.ofNat 32 (a.toNat + b.toNat * 2 ^ 8 + c.toNat * 2 ^ 16 + d.toNat * 2 ^ 24) :: wordsOfBytes r
  | _ => []

/-- What the decoder reads from an instruction numbered as the opcode table numbers it, laid out in memory as R4 lays
it out. -/
noncomputable def decodeTableWord (nbits w : Nat) : Option Instr :=
  let ws := wordsOfBytes ((tableWords nbits w).flatMap bytesOfWord)
  match decode (seqWord (ws.headD 0)) ws with
  | .ok (i, _) => some i
  | .error _ => none

end Sys2Proof
end

