-- ==== Sys2Proof/Config.lean ====
section
/-! DEFINITION. The free values of the model: what the spec leaves open. None has a body, so no proof can see one. -/
namespace Sys2Proof.Config

/-- A dword that the spec leaves open or that comes from outside the part (host or peer memory, R39, R40), for each
count of the state's counter of free values. Log entry 12. -/
opaque freeDword : Nat → Dword

/-- A choice that the spec leaves open bit by bit (R336, R338), for each count of the counter. Log entry 12. -/
opaque freeBit : Nat → Bool

/-- The FP32 value that special function number k (R311's fn) gives for the FP32 operand, where R199 bounds the result
and does not fix it. The same on every node (R199). Log entry 13. -/
opaque sfuValue : Nat → Word → Word

/-- What a byte of a mapped window reads as through the on-chip map while it is neither valid nor written (R111: what it held
before can no longer be read), by the window's number and the byte's place in the partition. Log entry 65. -/
opaque unreadByte : Nat → Nat → Byte

/-- The slice, 0 to 95, of a die's second-level cache that serves a line, and the set of that slice, 0 to 511: a hash of the
physical address that R89 does not give. Log entry 62. -/
opaque l2Slice : Nat → Nat
opaque l2Set : Nat → Nat

/-- Which of its die's two HBM stacks holds a 256-byte granule (R100: interleaved, visible only as bandwidth), for the
reliability log. Log entry 80. -/
opaque hbmStack : Nat → Nat

/-- The set of a first-level data cache of n sets that holds a line, which R79 does not give. Log entry 62. -/
opaque l1Set : Nat → Nat → Nat
/-- The set of a context and virtual line in a core's instruction cache (R469; log entry 62). -/
opaque icSet : Nat → Nat → Nat

end Sys2Proof.Config
end

