-- ==== Sys2Proof/Machine/State.lean ====
section
/-! DEFINITION. The state of the part as plain data, the reasons a step can stop, and the state after reset.
Unit numbers are natural numbers: die d is 0 to 7; cluster c of die d is 20·d + c; core k of that cluster is
4·(20·d + c) + k. Sparse storage is a sorted association list whose unlisted keys hold the default that the
accessor in Machine/Store.lean names. -/
namespace Sys2Proof.Machine

/-! ## Translation (spec/03) -/

/-- A context translation record (R43), its four dwords as firmware wrote them, and the job that owns the context. -/
structure Ctx where
  d0 : Dword
  d1 : Dword
  d2 : Dword
  d3 : Dword
  job : Nat
  deriving DecidableEq, Repr

/-- What an access needs of a page (R57). -/
structure Need where
  r : Bool
  w : Bool
  x : Bool
  deriving DecidableEq, Repr

/-- A leaf as a translation cache holds it (R62, R56): context, level, first page of 16 KiB, the entry and the region
descriptor its RGX named when it was read. -/
structure Leaf where
  ctx : Nat
  lvl : Nat
  page : Nat
  pte : Dword
  desc : List Dword
  deriving DecidableEq, Repr

/-- What an entry of a translation cache holds (R62): a leaf, or, in a die's second-level cache, a table entry read at
level 1 or 2: context, level, the first page that it covers, and the address of the next table. -/
inductive Cached where
  | leaf (l : Leaf)
  | table (ctx lvl page next : Nat)
  deriving DecidableEq, Repr

/-- An entry of one translation cache: core c is unit c, its copy engine 1000 + c, the sequencer of cluster k
2000 + k, the second-level cache of die d 3000 + d (R62). -/
structure TlbEntry where
  unit : Nat
  what : Cached
  deriving DecidableEq, Repr

/-- A release record (R85, R88): the releasing core, its incarnation, and the regions it carries (none: all). -/
structure RelRec where
  core : Nat
  inc : Nat
  rgx : List Nat
  deriving DecidableEq, Repr

/-- What a waiting access learns when its walk, fill or read ends (R58, R63, R113, R70). -/
inductive Fresh where
  /-- The walk reached this leaf; whether it started from level 0 (R58). -/
  | leaf (l : Leaf) (whole : Bool)
  /-- The access fails with this cause and this value of TVAL. -/
  | fail (cause : BitVec 8) (tval : Dword)
  /-- The host refused a function the translation of a 4 KiB page, asked with or without PRI, for a write or not: the cause (R70). -/
  | refused (func page : Nat) (pri w : Bool) (cause : BitVec 8)
  /-- A bounded read at the home returned these bytes (R175). -/
  | bytes (a : Nat) (bs : List Byte)
  /-- An offered ATOM read this value at the home and met these release records there, each with the copy that held it
  (R141, R177); no value: the line is poisoned (R103). -/
  | old (x : Option Nat) (recs : List (Nat × RelRec))
  deriving DecidableEq, Repr

/-- A request waiting on a walk: the agent, the unit whose translation cache it uses, what it needs, the first address
of its page, and whether what a cache holds fails it, so that the walk must start from level 0 (R58). -/
structure Waiter where
  agent : Nat
  unit : Nat
  need : Need
  va : Nat
  afresh : Bool
  deriving DecidableEq, Repr

/-- A walk outstanding on a die for one context and page, with every request merged into it (R63). -/
structure Walk where
  die : Nat
  ctx : Nat
  page : Nat
  waiters : List Waiter
  /-- An invalidation has come since the walk began: it reads every level again (R69). -/
  restart : Bool
  deriving DecidableEq, Repr

/-- An entry of the address translation cache on LD0 (R70): function, 4 KiB host page, translated page, write. -/
structure AtsEntry where
  func : Nat
  page : Nat
  pa : Nat
  w : Bool
  deriving DecidableEq, Repr

/-- An ATS translation or a page request outstanding (R70), for contexts of one PRI bit; `pri` is the cycle of the page request, once
sent. -/
structure AtsReq where
  func : Nat
  page : Nat
  usePri : Bool
  pri : Option Nat
  waiters : List Waiter
  deriving DecidableEq, Repr

/-- An invalidation in progress (R68, R69): what it covers, and the agents whose accesses it still waits for. -/
structure Inval where
  kind : Nat
  ctx : Nat
  page : Nat
  pages : Nat
  rgx : Nat
  waits : List Nat
  deriving DecidableEq, Repr

/-! ## Caches, links and memory (spec/04, spec/05, spec/07) -/

/-- A valid byte of a first-level data cache (R79): its value, its dirty bit, when it was filled or became dirty
(R82), and the circuit set of the job that stored it, on which it travels while it is dirty (R94). -/
structure L1Byte where
  val : Byte
  dirty : Bool
  at_ : Nat
  set : Nat
  deriving DecidableEq, Repr

/-- What a first-level line carries beside its bytes (R79, R80): the RGX of its first fill and the keep hint. -/
structure L1Tag where
  rgx : Nat
  keep : Bool
  deriving DecidableEq, Repr

/-- The states of a die's copy of a line (R91). -/
inductive Moesi where
  | m | o | e | s | i
  deriving DecidableEq, Repr

/-- A die's copy of a line (R86, R91, R116): its state, its release records oldest first, and the windows that hold
valid words of it, each as the gather and the 128-byte line of its allocation that stands for the line. -/
structure L2Line where
  st : Moesi
  recs : List RelRec
  win : List (Nat × Nat)
  deriving DecidableEq, Repr

/-- The kind of the additions that a holder keeps for a line (R168). -/
inductive BKind where
  | f32 | f16 | bf16
  deriving DecidableEq, Repr

/-- What a holder keeps for a line (R168): the share, the kind, and per element the partial sum and the magnitude as
FP32 bits (unlisted elements hold −0.0 and +0.0). -/
structure Holder where
  share : Dy
  kind : Option BKind
  p : KV Word
  m : KV Word
  deriving DecidableEq, Repr

/-- A home's grant record for a line (R169): L, the granted shares by die, the unallocated share. -/
structure Grant where
  lim : Word
  shares : KV Dy
  un : Dy
  deriving DecidableEq, Repr

/-- The window that a writeback comes from: the gather, the line of its allocation, the window's number. -/
structure WinLine where
  g : Nat
  aline : Nat
  id : Nat
  deriving DecidableEq, Repr

/-- What travels on a virtual circuit between dies (R93, R94, R96, R172). -/
inductive Payload where
  /-- A posted write of bytes at physical addresses, the window that it writes back (R117), and the copy-engine operation that it
  belongs to (R126). -/
  | write (cells : List (Nat × Byte)) (own : Option WinLine) (op : Option Nat)
  /-- The same of bounded elements, which the home writes once every holder has drained (R93, R178). -/
  | bounded (cells : List (Nat × Byte)) (own : Option WinLine) (op : Option Nat)
  /-- A posted RED: fn, width, address, operand, the release record it carries. -/
  | red (fn : Nat) (w64 : Bool) (pa : Nat) (x : Dword) (rel : Option RelRec)
  /-- An addition to one element that a holder did not take (R171). -/
  | add (line elem : Nat) (kind : BKind) (x : Word)
  /-- A fence token of an agent (R96). -/
  | fence (agent : Nat)
  /-- A holder's partial sums of a line (R172): the kind, the sums by element, and the share it returns. -/
  | drain (die line : Nat) (kind : BKind) (sums : KV Word) (back : Option Dy)
  deriving DecidableEq, Repr

/-- A token on a circuit: circuit set, source and destination die (8 and 9 are LD0 and LD1), class (R94), whether the send
allowance has let it leave (R97), the core that sent it, if one did, with the incarnations of die and core that it carries
(R105), and what it carries. -/
structure Posted where
  set : Nat
  src : Nat
  dst : Nat
  cls : Nat
  sent : Bool
  core : Option Nat
  dieInc : Nat
  coreInc : Nat
  what : Payload
  deriving DecidableEq, Repr

/-- The additions of one RED or ATOM on their way to a die's holder (R167, R171), of which one to an element is offered at
a time. -/
structure Offer where
  die : Nat
  set : Nat
  line : Nat
  elem : Nat
  kind : BKind
  lim : Word
  x : Word
  agent : Nat
  /-- Its address. -/
  pa : Nat
  /-- The additions still to be offered after this one: element and addend. -/
  more : List (Nat × Word)
  /-- An ATOM's additions that R171 posts: they are performed with its read (R177). -/
  late : List (Nat × Word)
  /-- An ATOM's addition, whose read R177 places. -/
  atom : Bool
  /-- The release record that an ATOM of a release-pending fibre leaves (R85). -/
  rel : Option RelRec
  /-- Where R171 has come to: 0 fresh, 1 and 3 waiting for the first and second grant, 2 and 4 answered; 5: an ATOM's read waits
  for the drains on their way (R176). -/
  stage : Nat
  deriving DecidableEq, Repr

/-- A bounded read waiting at its home (R175): bytes, tolerance code, limit, the agent that waits, and its address. -/
structure BRead where
  pa : Nat
  len : Nat
  q : Nat
  lim : Word
  agent : Nat
  va : Nat
  deriving DecidableEq, Repr

/-- A miss-status entry (R83, R84): core, line, cycle of allocation, the fibres whose acquires have invalidated since, and
the slot loads that it serves, by producer. -/
structure Miss where
  core : Nat
  line : Nat
  at_ : Nat
  acq : List Nat
  loads : List Nat
  deriving DecidableEq, Repr

/-- A window fill outstanding (R113 to R115): gather, global line, tolerance code, the agents it serves, and the words
of the line that an invalidation has reached meanwhile. -/
structure Fill where
  g : Nat
  line : Nat
  q : Nat
  agents : List Nat
  stale : List Nat
  deriving DecidableEq, Repr

/-- The operations of a copy engine (R118, R121, R127, R128, R335). -/
inductive CopyKind where
  | cpy | cpyr | cpyp | cpyg | spwb | spunmap | spcpy | spfill
  deriving DecidableEq, Repr

/-- An issued copy-engine operation: gather, issuing fibre, tag, operand values, the descriptor as read, the
issuer's window base at admission as a slot of its allocation (kind 2 slots, R334), the first of the producers of
those slots, and, once it has moved its bytes, how it has ended: its reason and address if it failed (R126, R339). -/
structure CopyOp where
  id : Nat
  g : Nat
  f : Nat
  kind : CopyKind
  tag : Nat
  a : Dword
  b : Dword
  c : Dword
  desc : List Dword
  slot0 : Nat
  prod : Option Nat
  ended : Option (Option (Nat × Nat))
  deriving DecidableEq, Repr

/-- A fence whose tokens or acknowledgements are outstanding (R96, R156): the agent and the circuits, as destination
dies, still to answer. -/
structure FenceWait where
  agent : Nat
  left : Nat
  deriving DecidableEq, Repr

/-- A drain request sent for an acquire (R87): the acquiring agent, the copy that held the record, as die·2^45 + line, and
the record: the core to drain, and the regions (none: all). -/
structure DrainReq where
  agent : Nat
  copy : Nat
  record : RelRec
  deriving DecidableEq, Repr

/-- The core store's partition of one core, in banks (R72). -/
structure Part where
  lv : Nat
  sp : Nat
  tm : Nat
  l1 : Nat
  deriving DecidableEq, Repr

/-- A core's partition registers (R72, R73): the target, the partition in force, what has still to leave, the flush of
R78, and ERR. -/
structure CoreStore where
  target : Part
  now : Part
  pend : Nat
  flush : Bool
  err : Bool
  deriving DecidableEq, Repr

/-- The memory system. -/
structure MemSys where
  /-- Physical memory as the coherent second level and the homes hold it: canonical, an unlisted byte reads 0. -/
  mem : List Host.Cell
  /-- Poisoned 128-byte lines (R100, R103). -/
  poison : List Nat
  /-- Attached second-tier capacity in bytes, by port (R28). -/
  tier : KV Nat
  /-- First-level data cache bytes, by core·2^52 + physical address (R79). -/
  l1 : KV L1Byte
  /-- First-level line tags, by core·2^45 + line. -/
  l1tag : KV L1Tag
  /-- Second-level copies, by die·2^45 + line (R91). -/
  l2 : KV L2Line
  misses : List Miss
  /-- Misses that wait for a miss-status entry, in arrival order: core and agent (R83). -/
  missq : List (Nat × Nat)
  tlb : List TlbEntry
  walks : List Walk
  /-- Answers not yet taken by the agents they are for. -/
  fresh : List (Nat × Fresh)
  atc : List AtsEntry
  ats : List AtsReq
  /-- Translations that accesses of fibres have used: fibre, function, 4 KiB host page (R70). -/
  atsUsed : List (Nat × Nat × Nat)
  /-- Tokens on the circuits, oldest first. -/
  posted : List Posted
  /-- Send allowances in flits, by circuit and hop (R97). -/
  allow : KV Nat
  fences : List FenceWait
  drains : List DrainReq
  holders : KV Holder
  grants : KV Grant
  offers : List Offer
  breads : List BRead
  /-- Scratchpad bytes, by core·2^21 + partition offset; unlisted bytes are 0. -/
  sp : KV Byte
  /-- The tag-matching store window's bytes other than its barrier entries (R31, R424), by core·2^21 + offset. -/
  tm : KV Byte
  fills : List Fill
  /-- Copy-engine operations, by core, oldest first (R337). -/
  copies : KV (List CopyOp)
  /-- Partition registers by core. -/
  stores : KV CoreStore
  /-- Incarnations (R105): die d at d, core c at 8 + c. -/
  inc : KV Nat
  /-- Dies not admitted to coherence (R106). -/
  out : List Nat
  /-- The model's own: the present move needs what its sender has to hold back for now (R95, R97, R105), so that the move is
  not made in this cycle (log entry 61). -/
  hold : Bool
  deriving DecidableEq, Repr

/-! ## Fibres, gathers and blocks (spec/09) -/

/-- A token (R216, R217). -/
inductive Tok where
  | val (x : Dword)
  | absorbed
  deriving DecidableEq, Repr

/-- The way a fibre entered its PC (R244). -/
inductive Entry where
  /-- A launch, LAUNCH or FORK: needs ENTRY. -/
  | entry
  /-- CALL or CALLI: needs CALLEE. -/
  | call
  /-- RET: needs CTAIL. -/
  | ret
  /-- Trap handler entry: needs TRAPH. -/
  | trap
  /-- Cullet emulation entry: needs EMUL. -/
  | emul
  /-- Any other way: needs nothing. -/
  | plain
  deriving DecidableEq, Repr

/-- A call-stack entry (R204, R231). -/
structure CallEntry where
  ret : Dword
  woff : Nat
  deriving DecidableEq, Repr

/-- A fault of a node (R407, R409). -/
structure NodeFault where
  eidx : Nat
  cause : BitVec 8
  tval : Dword
  a : Dword
  b : Dword
  c : Dword
  deriving DecidableEq, Repr

/-- What a slot write of an instance leaves at commit (R214). -/
inductive SlotW where
  | full (x : Dword)
  /-- The slot becomes empty; the producer with this number fills it. -/
  | wait (p : Nat)
  deriving DecidableEq, Repr

/-- A store held until commit (R132): address and bytes as the virtual access names them, how it was resolved. -/
inductive StoreTo where
  /-- Global memory: physical cells, the page's RGX, the hint (R80), and whether it is performed at the die's L2. -/
  | global (rgx : Nat) (hint : Nat) (atL2 : Bool)
  /-- The gather's own scratchpad. -/
  | scratch
  /-- An on-chip map address (R36). -/
  | onchip
  /-- The host or peer aperture. -/
  | outside
  deriving DecidableEq, Repr

/-- A store of an instance: index, place, bytes by address (physical, allocation offset or map offset), and for an INT4
store the nibble mask of its byte (R134, R320). -/
structure StoreOp where
  eidx : Nat
  va : Dword
  goal : StoreTo
  cells : List (Nat × Byte)
  nib : Option Bool
  lim : Word
  /-- The pages whose check it has passed, each with its RGX (R69). -/
  pages : List (Nat × Nat)
  deriving DecidableEq, Repr

/-- A post-commit operation (R132, R411): the block and index it stands at, the number of its instance (the model's own,
R135), the instruction, the values of A, B and C,
the copy descriptor read ahead (R335), the window base at admission as a slot of the allocation, the producer of its
destination slot, if it has one, and the place of an ATOM or RED as its check has resolved it (cells: its addresses). -/
structure PostOp where
  hdr : Dword
  eidx : Nat
  inst : Nat
  op : Instr
  a : Dword
  b : Dword
  c : Dword
  desc : List Dword
  slot0 : Nat
  prod : Option Nat
  place : Option StoreOp
  deriving DecidableEq, Repr

/-- A slot load not yet performed (R132): its address as translated, its form, and the store bytes of its own instance
that it must return (R134). -/
structure SlotLoad where
  va : Dword
  goal : StoreTo
  pas : List Nat
  form : Nat
  rgx : Nat
  q : Nat
  lim : Word
  fwd : List (Nat × Byte)
  aux : List Dword
  deriving DecidableEq, Repr

/-- An outstanding producer of a slot (R215): the fibre, the slot of its allocation, and the load it performs, if it is one;
`value` once an ATOM or a copy has its result. -/
structure Producer where
  f : Nat
  slot : Nat
  load : Option SlotLoad
  value : Option Dword
  deriving DecidableEq, Repr

/-- What an instance's terminator leaves (R219, R259). -/
inductive Transfer where
  | goto (pc : Dword) (e : Entry)
  | call (pc : Dword) (adv : Nat)
  /-- RET, with the pair that it has refilled, the newest first (R233). -/
  | ret (fill : Option (CallEntry × CallEntry))
  | exit
  | yield (d : Nat)
  | resume (skip : Option Dword)
  | emulret (x : Dword)
  deriving DecidableEq, Repr

/-- A block instance (R213 to R218): the block's words as configured, what it read at admission, its tokens, the
nodes still to fire, and the effects held until commit. -/
structure Inst where
  hdr : Dword
  n : Nat
  body : List Word
  cfg : Nat
  fi : Dword
  gi : Dword
  ka : Dword
  sb : Dword
  wb : Dword
  pw : Half
  gs : KV Dword
  live : KV Dword
  toks : KV Tok
  todo : List Nat
  subst : Option (Nat × Dword)
  slotW : KV SlotW
  gW : KV Dword
  pwW : Option Half
  winb : Option Dword
  fspW : Option Dword
  thndW : Option Dword
  stores : List StoreOp
  forks : List (Nat × Dword × Dword)
  xfer : Option Transfer
  post : List PostOp
  /-- BAR nodes that have arrived: index, barrier, phase. -/
  bars : List (Nat × Nat × Bool)
  faults : List NodeFault
  /-- Pages whose check has passed: page and RGX (R69). -/
  used : List (Nat × Nat)
  deriving DecidableEq, Repr

/-- The trap record of a fibre (R373, R408): special registers 3 to 9. -/
structure TrapRec where
  cause : Dword
  epc : Dword
  eidx : Dword
  tval : Dword
  topa : Dword
  topb : Dword
  topc : Dword
  deriving DecidableEq, Repr

/-- The shadow of an emulation (R413): what its commits have written, and the stores of its spills, oldest first. -/
structure Shadow where
  /-- The model's own: the count of numbers given when the emulation began; instances and producers of the emulation have later
  ones. -/
  born : Nat
  slots : KV Dword
  empties : List Nat
  gs : KV Dword
  pw : Half
  woff : Nat
  stack : List CallEntry
  spilled : Nat
  fsp : Dword
  thnd : Dword
  spills : List StoreOp
  deriving DecidableEq, Repr

/-- A fibre (R204, R373, R409 to R411, R423). -/
structure Fibre where
  pc : Dword
  prev : Dword
  way : Entry
  pw : Half
  woff : Nat
  stack : List CallEntry
  spilled : Nat
  fsp : Dword
  thnd : Dword
  trap : TrapRec
  emul : Dword
  shadow : Option Shadow
  hm : Bool
  spw : Half
  swoff : Nat
  tpend : Bool
  halt : Bool
  bponce : Bool
  resume : Dword
  /-- Retry notes: block, node index and phase (R270). -/
  notes : List (Dword × Nat × Bool)
  /-- The substituted node of a RESUME skip or an EMULRET: index and value (R382, R383). -/
  subst : Option (Nat × Dword)
  /-- Release-pending, with the regions it carries (R85, R329). -/
  rel : Option (List Nat)
  /-- Release records met by its ATOMs since its last acquire fence, each with the copy that it was met on, as
  die·2^45 + line (R142, R107). -/
  met : List (Nat × RelRec)
  /-- Post-commit operations issued in order and not yet performed (R132). -/
  post : List PostOp
  /-- How far the head of `post` has come: 0 not begun, 1 waiting for fence acknowledgements (R96), 2 released, 3 waiting
  for drains (R87), 5 queued at a rendezvous point (R277), 6 waiting for its offered additions (R171). -/
  stage : Nat
  /-- Operations held for a handler (R411). -/
  held : List PostOp
  /-- Operations withdrawn for a checkpoint (R420). -/
  tail : List PostOp
  /-- Producers of slot loads whose fault is reported: performed only on a retry (R411, R382). -/
  heldLoads : List Nat
  /-- A post-commit report not yet delivered (R411). -/
  report : Option NodeFault
  reportHdr : Dword
  /-- The report is of an operation of the emulation that the fibre is in (R413). -/
  reportOwn : Bool
  since : Nat
  aged : Bool
  delay : Option Nat
  parked : Bool
  /-- The cycle in which it was parked (R223). -/
  parkedAt : Nat
  /-- SHFL and VOTE traps that its emulations have answered, by the cullet's address (R385). -/
  culls : KV Nat
  /-- How many of `post`, from its head on, are operations of the fibre that had this index before and has ended (R205). -/
  orphans : Nat
  /-- The release-pending states of the fibres whose those are, each with how many of them, the first first (R141). -/
  orel : List (Nat × Option (List Nat))
  /-- No further admission: cancelled, or stopped for a checkpoint (R404, R420). -/
  stop : Bool
  cancelled : Bool
  /-- Its EXIT has committed, or it was ended; it stays until its post-commit operations are done (R264). -/
  ended : Bool
  deriving DecidableEq, Repr

/-- A barrier of a gather (R227, R424): the phase, the fibres that have arrived, those held for the next phase, and the
counts of both, which a map write may set to anything (R31). -/
structure Barrier where
  phase : Bool
  arr : List Nat
  held : List Nat
  na : Nat
  nh : Nat
  deriving DecidableEq, Repr

/-- A meeting of an exchange group (R385): the cullet's address, the group fi [9:4], which trap of each member at that address
it is, A and B of the participants by position, whether every live member has trapped, and the participants whose emulation
has still to answer. -/
structure Meet where
  addr : Nat
  group : Nat
  n : Nat
  vals : KV (Dword × Dword)
  closed : Bool
  left : List Nat
  deriving DecidableEq, Repr

/-- A mapped window (R110, R121), with a number that no other window has had (the model's own). -/
structure Window where
  id : Nat
  va : Nat
  off : Nat
  len : Nat
  retiring : Bool
  deriving DecidableEq, Repr

/-- A window word's state (R111). -/
structure WinWord where
  v : Bool
  bm : BitVec 4
  deriving DecidableEq, Repr

/-- A copy tag (R124, R339). -/
structure Tag where
  count : Nat
  err : Bool
  record : Dword
  deriving DecidableEq, Repr

/-- A resident gather (R206, R394, R396). -/
structure Gather where
  core : Nat
  lid : Nat
  gi : Nat
  gid : Nat
  ctx : Nat
  size : Nat
  wsize : Nat
  lvBase : Nat
  spBase : Nat
  spSize : Nat
  gs : KV Dword
  bars : KV Barrier
  wins : KV Window
  /-- Window words by allocation word index. -/
  words : KV WinWord
  /-- SPMAP changes reserved by checked, unperformed instructions (R330). -/
  reserved : List (Nat × Window)
  /-- Windows named by a checked, unperformed SPUNMAP. -/
  unmaps : List (Nat × Nat)
  tags : KV Tag
  /-- A withholdable addition was offered since the last FENCEX (R181). -/
  offered : Bool
  /-- Meetings of its exchange groups (R385). -/
  meets : List Meet
  deriving DecidableEq, Repr

/-- A live-value slot (R204, R215): value, full bit, and the latest outstanding producer. -/
structure Slot where
  val : Dword
  full : Bool
  prod : Option Nat
  deriving DecidableEq, Repr

/-- A configured block of a core (R210, R221, R222): image, first region and number of regions, generation bit, whether
it is retiring, nodes its teardown has not passed, whether it is placed, and when it was configured. -/
structure Config where
  id : Nat
  ctx : Nat
  hdr : Dword
  words : List Word
  reg : Nat
  regs : Nat
  gen : Bool
  retiring : Bool
  left : List Nat
  ready : Option Nat
  at_ : Nat
  deriving DecidableEq, Repr

/-- A configuration image in a core's cache (R211). -/
structure Image where
  ctx : Nat
  hdr : Dword
  words : List Word
  used : Nat
  deriving DecidableEq, Repr

/-- An instruction-cache line (R469): context, virtual line, its 128 bytes, last use. -/
structure ILine where
  ctx : Nat
  line : Nat
  bytes : List Byte
  used : Nat
  deriving DecidableEq, Repr

/-- A configuration build (R211, R469, R470): the block, the lines still awaited, those that have failed, and those that it has
read, with their bytes. -/
structure Build where
  ctx : Nat
  hdr : Dword
  lines : List Nat
  failed : List Nat
  read : KV (List Byte)
  deriving DecidableEq, Repr

/-- An instruction line fill outstanding (R469, R471): whether a build or only an IPREF waits on it, and whether a build
started it (R379: it counts once its translation has passed). -/
structure IFill where
  ctx : Nat
  line : Nat
  forBuild : Bool
  counted : Bool
  deriving DecidableEq, Repr

/-- A waiting set (R223): context, header address, and the header words as read at its creation (none: the read failed,
R213); `fail` is how its build failed: cause, word index and TVAL (R209, R470), for the fibres of `failing`, ready then. -/
structure WSet where
  ctx : Nat
  hdr : Dword
  words : Option (List Word)
  fail : Option (Nat × Nat × Dword)
  failing : List Nat
  deriving DecidableEq, Repr

/-- One core's fabric (R12, R210 to R226, R469). -/
structure Fabric where
  cfgs : List Config
  /-- Generation bits of the four regions. -/
  gens : KV Bool
  images : List Image
  ilines : List ILine
  ifills : List IFill
  builds : List Build
  sets : List WSet
  chosen : Option (Nat × Dword)
  deriving DecidableEq, Repr

/-- The fabric and what runs on it. -/
structure Fab where
  /-- Gathers by core·32 + gather slot. -/
  gathers : KV Gather
  /-- Fibres by gather·1024 + fibre index. -/
  fibres : KV Fibre
  /-- Block instances by fibre. -/
  insts : KV Inst
  /-- Live-value slots by core·2^18 + store index; an unlisted slot holds 0, empty. -/
  slots : KV Slot
  prods : KV Producer
  cores : KV Fabric
  /-- Counts of R379, by (unit·65536 + context)·16 + k; unit is the core, or 1000 + cluster. -/
  perf : KV Nat
  deriving DecidableEq, Repr

/-! ## Matrix sequencers and engines (spec/14) -/

/-- A queued start request (R276). -/
structure StartReq where
  addr : Dword
  arg : Dword
  lid : Nat
  job : Nat
  ctx : Nat
  /-- The forking fibre's core within the cluster and its gather's GID; GID 0 is none. -/
  core : Nat
  gid : Nat
  deriving DecidableEq, Repr

/-- A matrix operand as an engine has read it (R351 to R353): format, whether k runs along its stored rows, the bytes
of its stored rows, and those of its scale rows. -/
structure MatData where
  fmt : Nat
  along : Bool
  rows : List (List Byte)
  scales : List (List Byte)
  deriving DecidableEq, Repr

/-- A held B operand (R361): its descriptor's locator, and the operand as read; a restore leaves it to be read again. -/
structure HeldB where
  loc : Dword
  data : Option MatData
  deriving DecidableEq, Repr

/-- An issued MAT instruction (R357): the instruction, its control value, the tile element type that it works on, the
engines and tiles that it uses, its operands as read, the scratchpad ranges that it reads and writes, as core, first byte
and length. -/
structure MatOp where
  op : Instr
  ctl : Dword
  int32 : Bool
  engines : List Nat
  tiles : List Nat
  data : List MatData
  reads : List (Nat × Nat × Nat)
  writes : List (Nat × Nat × Nat)
  deriving DecidableEq, Repr

/-- A cluster's sequencer (R342). Registers: v0 to v63 at 0 to 63, w0 to w47 at 64 to 111. -/
structure Seq where
  run : Bool
  halted : Bool
  pc : Dword
  regs : KV Dword
  stack : List Dword
  lid : Nat
  job : Nat
  ctx : Nat
  /-- Bindings by core number 0 to 3: the bound gather's GID (R349, R473). -/
  binds : KV Nat
  held : KV HeldB
  startq : List StartReq
  mats : List MatOp
  /-- The fibres' arrival queues by rendezvous point (R277). -/
  rdv : KV (List Nat)
  /-- How far the present instruction has come, as Fibre.stage; 4 when its acquire has completed. -/
  stage : Nat
  met : List (Nat × RelRec)
  stop : Bool
  /-- What its instruction waits for, as the count of R379 that its cycles belong to: 2 a full engine queue, 3 an RDV, 0
  neither. -/
  stall : Nat
  deriving DecidableEq, Repr

/-- States of a tile (R355). -/
inductive TileState where
  | free | active | pinned | home
  deriving DecidableEq, Repr

/-- An ownership entry (R354). -/
structure Own where
  handle : Dword
  job : Nat
  launch : Nat
  int32 : Bool
  dirty : Bool
  st : TileState
  tokens : Dword
  deriving DecidableEq, Repr

/-- The matrix sequencers and engines of the part. -/
structure Mat where
  seqs : KV Seq
  /-- Ownership entries by 32·cluster + id. -/
  own : KV Own
  /-- Tile elements by (32·cluster + id)·16384 + 128·i + j; unlisted elements are +0. -/
  tiles : KV Word
  deriving DecidableEq, Repr

/-! ## Queues, launches, code objects and saved contexts (spec/16, 17, 18) -/

/-- A work queue (R386 to R388): the two dwords of QCFG, the ring's head and fill, DROPS. -/
structure Queue where
  d0 : Dword
  d1 : Dword
  head : Nat
  count : Nat
  drops : Nat
  deriving DecidableEq, Repr

/-- States of a launch (R392). -/
inductive LState where
  | loading | ordered | unbound | running | saved | complete
  deriving DecidableEq, Repr

/-- A kernel descriptor with its object's base applied (R431, R432). -/
structure Kernel where
  entry : Dword
  handler : Dword
  gather : Nat
  window : Nat
  scratch : Nat
  estimate : Nat
  idem : Bool
  deriving DecidableEq, Repr

/-- A launch (R389 to R393, R398 to R405). -/
structure Launch where
  st : LState
  job : Nat
  ctx : Nat
  queue : Nat
  code : Dword
  kidx : Nat
  kern : Option Kernel
  instr : Bool
  glast : Bool
  plast : Bool
  ngath : Nat
  karg : Dword
  fspBase : Dword
  fspStep : Nat
  prio : Nat
  graph : Nat
  phase : Nat
  /-- Serial numbers of the graph and the phase it joined (R398). -/
  graphId : Nat
  phaseId : Nat
  /-- Declared read and write ranges as granules, first and last; none declares all memory (R399, R400). -/
  reads : Option (List (Nat × Nat))
  writes : Option (List (Nat × Nat))
  crec : Dword
  byHost : Bool
  /-- Acceptance order. -/
  order : Nat
  placed : Nat
  left : Nat
  ended : Nat
  status : Nat
  info : Dword
  cause : BitVec 8
  tval : Dword
  /-- A first copy or writeback error (R403, status 1). -/
  copyErr : Option Dword
  cancelled : Bool
  killed : Bool
  draining : Bool
  checkpoint : Bool
  /-- The gathers it holds are stopping for a time slice (R414). -/
  slice : Bool
  deriving DecidableEq, Repr

/-- A graph or a phase of a job (R398, R401). -/
structure Group where
  job : Nat
  number : Nat
  isPhase : Bool
  open_ : Bool
  closer : Nat
  cancelled : Bool
  info : Nat
  done : Bool
  crec : Dword
  ctx : Nat
  phaseId : Nat
  order : Nat
  deriving DecidableEq, Repr

/-- A job (R9, R94, R401, R453). -/
structure Job where
  set : Nat
  ctx : Nat
  func : Nat
  closing : Bool
  done : Bool
  deriving DecidableEq, Repr

/-- A bind record, its four dwords (R395). -/
structure Bind where
  d0 : Dword
  d1 : Dword
  d2 : Dword
  deriving DecidableEq, Repr

/-- Where a code object stands in its context (R441, R444, R445): `wanted` when its load has been asked for, `loading` from
its mapping to the end of its invalidation, or until its failure is reported. -/
inductive ObjState where
  | absent | wanted | loading | resident | evicting | failed
  deriving DecidableEq, Repr

/-- A mapped range of pages of a loaded object: first virtual page, physical frames, shared or private. -/
structure ObjPages where
  page : Nat
  frames : List Nat
  shared : Bool
  deriving DecidableEq, Repr

/-- A registered code object (R439 to R445): the image as copied at registration, its libraries, those that its load has
asked for (R441), those that it imports from (R444), and its copy. -/
structure CodeObj where
  handle : Dword
  job : Nat
  func : Nat
  image : List Byte
  libs : List Dword
  tried : List Dword
  uses : List Dword
  registered : Bool
  st : ObjState
  base : Nat
  span : Nat
  reserved : Bool
  digest : List Word
  imports : List Nat
  kernels : List Kernel
  pages : List ObjPages
  err : Nat
  errIdx : Nat
  errP : Dword
  deriving DecidableEq, Repr

/-- What a saved fibre keeps beside its lehr record, which R423 gives no place for (log entry 47): how it came to its PC, a
pending substitution, every retry note, the release records it has met, the operations withdrawn from it, those held for
a handler and the slot loads held with them. -/
structure Kept where
  way : Entry
  subst : Option (Nat × Dword)
  notes : List (Dword × Nat × Bool)
  met : List (Nat × RelRec)
  tail : List PostOp
  held : List PostOp
  heldLoads : List Nat
  /-- The producers of those operations and loads. -/
  prods : KV Producer
  /-- Window changes reserved by those operations, by node index (R330). -/
  reserved : List (Nat × Window)
  unmaps : List (Nat × Nat)
  /-- Its answered SHFL and VOTE traps (R385). -/
  culls : KV Nat
  deriving DecidableEq, Repr

/-- A saved launch's lehrs and launch sections (R421, R425): physical address and length of each, with the cluster for a
launch section; what is kept beside them, by gather index · 1024 + fibre index, the start requests by cluster, and the
meetings by gather index. -/
structure Saved where
  lehrs : List (Nat × Nat)
  sections : List (Nat × Nat × Nat)
  kept : KV Kept
  reqs : KV (List StartReq)
  meets : KV (List Meet)
  /-- The numbers of the saved gathers, which no new one takes (R373). -/
  gids : List Nat
  deriving DecidableEq, Repr

/-- The failure of a load that no mailbox request waits for, as the loader reports it to the registrant (R442): function,
handle, code, index, P. -/
structure LoadReport where
  func : Nat
  handle : Dword
  code : Nat
  idx : Nat
  p : Dword
  deriving DecidableEq, Repr

/-- Dispatch, loader and firmware tables. -/
structure Disp where
  ctxs : KV Ctx
  jobs : KV Job
  queues : KV Queue
  launches : KV Launch
  nextLid : Nat
  nextGid : Nat
  nextOrder : Nat
  groups : KV Group
  slottab : KV Bind
  objs : KV CodeObj
  serials : KV Nat
  saved : KV Saved
  /-- Failures reported to the registrants of code objects, oldest first (R442). -/
  reports : List LoadReport
  /-- The 16 KiB frames that the loader has taken for page tables (R441). -/
  tables : List Nat
  deriving DecidableEq, Repr

/-! ## The management core, the host port and the links (spec/17, 19) -/

/-- A debug slot (R415, R416): its fields, and the fibres of the last halt request that have still to halt. -/
structure DbgSlot where
  job : Nat
  haltTrap : Bool
  hGather : Bool
  halting : List Nat
  att : Bool
  bps : KV Dword
  deriving DecidableEq, Repr

/-- A function's mailbox (R452): the request as written, the request and the code that the running service has taken, the
reply, and the messages of MSI-X vector 0 that its DONE has sent to the host (R449). -/
structure Mailbox where
  req : KV Dword
  taken : KV Dword
  rep : KV Dword
  code : Nat
  run : Nat
  status : Nat
  done : Bool
  go : Bool
  /-- The reply of a service that has run and not yet answered: status and reply dwords. -/
  pending : Option (Nat × List Dword)
  signals : Nat
  deriving DecidableEq, Repr

/-- A bridge (R98, R99). -/
structure Bridge where
  retry : Nat
  spare : Nat
  retrain : Nat
  down : Bool
  up : Bool
  fails : Nat
  spares : Nat
  deriving DecidableEq, Repr

/-- A scale-up port (R456, R457). -/
structure Port where
  lanes : Nat
  up : Bool
  deriving DecidableEq, Repr

/-- A reliability log entry (R460). -/
structure LogEntry where
  kind : Nat
  die : Nat
  unit : Nat
  inc : Nat
  count : Nat
  clock : Nat
  deriving DecidableEq, Repr

/-- The power state (R16, R464, R465): what PWRM reports, the change requested, and the arbiter's last interval. -/
structure Power where
  fthr : Nat
  budget : Nat
  thr : Nat
  mode : Nat
  req : List (Nat × Nat)
  nextThr : Nat
  nextFthr : Nat
  last : Nat
  deriving DecidableEq, Repr

/-- Registers of the management core's space and of the host port. -/
structure Mgmt where
  xlatVa : Dword
  xlatCmd : Word
  xlatErr : Bool
  inval : Option Inval
  bvDies : BitVec 8
  bvBusy : Bool
  bvErr : Bool
  ement : Dword
  dbg : KV DbgSlot
  power : Power
  peer : Option Nat
  dies : BitVec 8
  degraded : Bool
  mail : KV Mailbox
  hwBase : KV Nat
  routes : KV (List Nat)
  bridges : KV Bridge
  ports : KV Port
  log : List LogEntry
  spareUsed : List Nat
  firmware : Bool
  /-- The management core's last access to physical memory ended in a bus error (R29, R33). -/
  busErr : Bool
  /-- The CTXIDs that contexts have had, and that no whole-context invalidation has completed for since (R44). -/
  ctxUsed : List Nat
  deriving DecidableEq, Repr

/-! ## The whole state -/

/-- Who moves when the agenda is empty: the model's own field (log entry 9). -/
inductive Focus where
  | none
  | fibre (f : Nat)
  | seq (cl : Nat)
  deriving DecidableEq, Repr

/-- For whom an instruction is being executed: nobody, a node of a fibre's instance, the head of a fibre's post-commit
operations, or a sequencer. -/
inductive Agent where
  | none
  | node (f e : Nat)
  | post (f : Nat)
  | seq (cl : Nat)
  /-- A device event on behalf of a resident gather: a copy, a window fill. -/
  | gather (g : Nat)
  /-- A token that arrives on a circuit of this set. -/
  | token (set : Nat)
  deriving DecidableEq, Repr

/-- The state of the part. -/
structure State where
  ms : MemSys
  fab : Fab
  mat : Mat
  disp : Disp
  mg : Mgmt
  /-- CLOCK (R378). -/
  clock : Nat
  /-- The model's own: the count of free values taken (log entry 12). -/
  free : Nat
  /-- The model's own: numbers given to producers, configurations, copies and groups. -/
  serial : Nat
  /-- The model's own: who moves next (log entry 9). -/
  focus : Focus
  /-- The model's own: for whom the present instruction is executed. -/
  cur : Agent
  /-- The model's own: device events and inputs to come, first first (log entry 9). -/
  agenda : List Instr
  deriving DecidableEq, Repr

/-- Why the machine stops. -/
inductive Fault where
  /-- An instruction was to be executed and no agent is named for it, or the agent does not exist. Raised by every
  instruction's meaning. Safe: no run of the part is in such a state. -/
  | noAgent
  deriving DecidableEq, Repr

/-- Why the model has no meaning for a step. -/
inductive Refusal where
  /-- The instruction has no meaning in the model yet. Raised by Dispatch only. Safe. -/
  | notModelled (mnemonic : String)
  deriving DecidableEq, Repr

/-! ## Reset -/

/-- The memory system after reset: nothing cached, nothing in transit, every die admitted. -/
def MemSys.reset : MemSys where
  mem := []
  poison := []
  tier := [(0, 8192000000000), (1, 8192000000000)]
  l1 := []
  l1tag := []
  l2 := []
  misses := []
  missq := []
  tlb := []
  walks := []
  fresh := []
  atc := []
  ats := []
  atsUsed := []
  posted := []
  allow := []
  fences := []
  drains := []
  holders := []
  grants := []
  offers := []
  breads := []
  sp := []
  tm := []
  fills := []
  copies := []
  stores := []
  inc := []
  out := []
  hold := false

/-- The fabric after reset: no gather resident. -/
def Fab.reset : Fab where
  gathers := []
  fibres := []
  insts := []
  slots := []
  prods := []
  cores := []
  perf := []

/-- Sequencers and tiles after reset: every tile FREE and +0 (R354). -/
def Mat.reset : Mat where
  seqs := []
  own := []
  tiles := []

/-- Dispatch after reset: no queue enabled, no launch, no object. -/
def Disp.reset : Disp where
  ctxs := []
  jobs := []
  queues := []
  launches := []
  nextLid := 1
  nextGid := 1
  nextOrder := 0
  groups := []
  slottab := []
  objs := []
  serials := []
  saved := []
  reports := []
  tables := []

/-- PWRM's reset values (R16). -/
def Power.reset : Power where
  fthr := 0
  budget := 0xC80
  thr := 0
  mode := 0
  req := []
  nextThr := 0
  nextFthr := 0
  last := 0

/-- Management registers after reset (R65 to R67, R184, R412, R415, R450). -/
def Mgmt.reset : Mgmt where
  xlatVa := 0
  xlatCmd := 0
  xlatErr := false
  inval := none
  bvDies := 0
  bvBusy := false
  bvErr := false
  ement := 0
  dbg := []
  power := Power.reset
  peer := none
  dies := 0xFF
  degraded := false
  mail := []
  hwBase := []
  routes := []
  bridges := []
  ports := []
  log := []
  spareUsed := []
  firmware := true
  busErr := false
  ctxUsed := []

/-- The part right after reset. -/
def State.reset : State where
  ms := MemSys.reset
  fab := Fab.reset
  mat := Mat.reset
  disp := Disp.reset
  mg := Mgmt.reset
  clock := 0
  free := 0
  serial := 0
  focus := .none
  cur := .none
  agenda := []

end Sys2Proof.Machine
end

