-- ==== Sys2Proof/Machine/Store.lean ====
section
/-! DEFINITION. Sparse storage: sorted association lists, byte memory, and little-endian values (R4). -/
namespace Sys2Proof.Machine

/-- The value at a key. -/
def kvGet {α : Type} (k : Nat) : KV α → Option α
  | [] => none
  | (i, x) :: r => if i = k then some x else kvGet k r

/-- Put a value at a key, keeping keys rising. -/
def kvSet {α : Type} (k : Nat) (v : α) : KV α → KV α
  | [] => [(k, v)]
  | (i, x) :: r => if i = k then (k, v) :: r else if k < i then (k, v) :: (i, x) :: r else (i, x) :: kvSet k v r

/-- Remove a key. -/
def kvDel {α : Type} (k : Nat) : KV α → KV α
  | [] => []
  | (i, x) :: r => if i = k then kvDel k r else (i, x) :: kvDel k r

/-- The value at a key, or the default that an unlisted key holds. -/
def kvGetD {α : Type} (k : Nat) (d : α) (m : KV α) : α := (kvGet k m).getD d

/-- Put a value at a key of a map in which an unlisted key holds d. -/
def kvSetD {α : Type} [DecidableEq α] (k : Nat) (d v : α) (m : KV α) : KV α :=
  if v = d then kvDel k m else kvSet k v m

/-- Change the value at a key, if there is one. -/
def kvMod {α : Type} (k : Nat) (f : α → α) (m : KV α) : KV α :=
  match kvGet k m with
  | some x => kvSet k (f x) m
  | none => m

/-- Change every value. -/
def kvMap {α : Type} (f : Nat → α → α) (m : KV α) : KV α := m.map fun p => (p.1, f p.1 p.2)

/-- Keep the entries that pass a test. -/
def kvFilter {α : Type} (f : Nat → α → Bool) (m : KV α) : KV α := m.filter fun p => f p.1 p.2

/-- Keys strictly rising. -/
def kvSorted {α : Type} : KV α → Bool
  | [] => true
  | [_] => true
  | (i, _) :: (j, y) :: r => decide (i < j) && kvSorted ((j, y) :: r)

/-! ## Byte memory -/

/-- One byte; an unlisted byte reads 0 (log entry 1). -/
def memGet (m : List Host.Cell) (a : Nat) : Byte := kvGetD a 0 m
/-- Write one byte, keeping the canonical form. -/
def memPut (m : List Host.Cell) (a : Nat) (v : Byte) : List Host.Cell := kvSetD a 0 v m
/-- Write cells, the first first. -/
def memPuts (m : List Host.Cell) (cs : List (Nat × Byte)) : List Host.Cell := cs.foldl (fun m c => memPut m c.1 c.2) m
/-- The canonical form: addresses strictly rising, no entry equal to what an unlisted address reads as. -/
def Memory.wf (m : List Host.Cell) : Bool := kvSorted m && m.all fun c => c.2 != 0

/-! ## Little-endian values (R4) -/

/-- The first n bytes of a number, lowest first. -/
def leBytes : Nat → Nat → List Byte
  | 0, _ => []
  | n + 1, x => BitVec.ofNat 8 x :: leBytes n (x / 256)

/-- The number that bytes hold, lowest first. -/
def leNat : List Byte → Nat
  | [] => 0
  | b :: r => b.toNat + 256 * leNat r

/-- The bytes at n consecutive addresses. -/
def addrs : Nat → Nat → List Nat
  | _, 0 => []
  | a, n + 1 => a :: addrs (a + 1) n

/-- Pairs of consecutive addresses from a and bytes. -/
def cellsAt (a : Nat) : List Byte → List (Nat × Byte)
  | [] => []
  | b :: r => (a, b) :: cellsAt (a + 1) r

/-- A bit field of a number, as R5 writes [h:l]. -/
def bits (x h l : Nat) : Nat := x / 2 ^ l % 2 ^ (h - l + 1)

/-- One bit of a number. -/
def bit (x n : Nat) : Bool := x / 2 ^ n % 2 == 1

/-- A number from a truth value. -/
def ofBool (b : Bool) : Nat := if b then 1 else 0

/-- Two's complement of an n-bit number. -/
def toSigned (n x : Nat) : Int := if x < 2 ^ (n - 1) then (x : Int) else (x : Int) - (2 ^ n : Nat)

/-- An integer modulo 2^n. -/
def wrap (n : Nat) (x : Int) : Nat := (x % ((2 ^ n : Nat) : Int)).toNat

/-- Sign extension of an n-bit value to a dword (R7). -/
def sextD (n x : Nat) : Dword := BitVec.ofInt 64 (toSigned n (x % 2 ^ n))

/-- A dword's signed value. -/
def sD64 (x : Dword) : Int := x.toInt

/-- An element of a list with its index removed. -/
def dropAt {α : Type} : Nat → List α → List α
  | _, [] => []
  | 0, _ :: r => r
  | n + 1, x :: r => x :: dropAt n r

/-- Change an element of a list. -/
def modAt {α : Type} (f : α → α) : Nat → List α → List α
  | _, [] => []
  | 0, x :: r => f x :: r
  | n + 1, x :: r => x :: modAt f n r

/-- Numbers 0 to n − 1. -/
def upto (n : Nat) : List Nat := List.range n

/-- The largest of a list by a measure, the earliest among equals. -/
def maxBy {α : Type} (f : α → Nat) : List α → Option α
  | [] => none
  | x :: r =>
    match maxBy f r with
    | none => some x
    | some y => if f x < f y then some y else some x

/-- The smallest of a list by a measure, the earliest among equals. -/
def minBy {α : Type} (f : α → Nat) : List α → Option α
  | [] => none
  | x :: r =>
    match minBy f r with
    | none => some x
    | some y => if f y < f x then some y else some x

/-- A list in an order, elements that it holds equal in the order they stood in. -/
def sortBy {α : Type} (le : α → α → Bool) : List α → List α
  | [] => []
  | x :: r => insertBy x (sortBy le r)
where
  insertBy (x : α) : List α → List α
    | [] => [x]
    | y :: t => if le x y then x :: y :: t else y :: insertBy x t

end Sys2Proof.Machine
end

