-- ==== Sys2Proof/Machine/Numbers.lean ====
section
/-! DEFINITION. Number formats, rounding and exact arithmetic (spec/08, R185 to R197). Every value is decoded to an
exact number, computed exactly, and rounded once. -/
namespace Sys2Proof

/-- A whole number. -/
def Dy.ofInt (n : Int) : Dy := ⟨n, 0⟩

/-- Both numerators at the smaller exponent. -/
def Dy.align (a b : Dy) : Int × Int × Int :=
  let e := min a.ex b.ex
  (a.num * (2 ^ (a.ex - e).toNat : Nat), b.num * (2 ^ (b.ex - e).toNat : Nat), e)

/-- Exact sum. -/
def Dy.add (a b : Dy) : Dy := let (x, y, e) := Dy.align a b; ⟨x + y, e⟩
/-- Exact difference. -/
def Dy.sub (a b : Dy) : Dy := let (x, y, e) := Dy.align a b; ⟨x - y, e⟩
/-- Exact product. -/
def Dy.mul (a b : Dy) : Dy := ⟨a.num * b.num, a.ex + b.ex⟩
/-- Half. -/
def Dy.half (a : Dy) : Dy := ⟨a.num, a.ex - 1⟩
/-- Times 2^k. -/
def Dy.scale (a : Dy) (k : Int) : Dy := ⟨a.num, a.ex + k⟩
/-- Negated. -/
def Dy.neg (a : Dy) : Dy := ⟨-a.num, a.ex⟩
/-- Magnitude. -/
def Dy.abs (a : Dy) : Dy := ⟨a.num.natAbs, a.ex⟩
/-- Less than, as numbers. -/
def Dy.lt (a b : Dy) : Bool := let (x, y, _) := Dy.align a b; decide (x < y)
/-- At most, as numbers. -/
def Dy.le (a b : Dy) : Bool := let (x, y, _) := Dy.align a b; decide (x ≤ y)
/-- Is it 0? -/
def Dy.isZero (a : Dy) : Bool := a.num == 0
/-- 0. -/
def Dy.zero : Dy := ⟨0, 0⟩

end Sys2Proof

namespace Sys2Proof.Machine

/-! ## Exact numbers -/

/-- A value of a floating-point format: a NaN, an infinity, or ± m × 2^e. -/
inductive FV where
  | nan
  | inf (neg : Bool)
  | fin (neg : Bool) (m : Nat) (e : Int)
  deriving DecidableEq, Repr

/-- m × 2^k for k of either sign, k not negative here. -/
def shlNat (m : Nat) (k : Int) : Nat := m * 2 ^ k.toNat

/-- The real number of a finite value. -/
def FV.dy : FV → Dy
  | .fin neg m e => ⟨if neg then -(m : Int) else (m : Int), e⟩
  | _ => Dy.zero

/-- A number with the sign that a zero takes. -/
def FV.ofDy (d : Dy) (zneg : Bool) : FV :=
  if d.num == 0 then .fin zneg 0 0 else .fin (decide (d.num < 0)) d.num.natAbs d.ex

def FV.isNan : FV → Bool
  | .nan => true
  | _ => false

def FV.isInf : FV → Bool
  | .inf _ => true
  | _ => false

def FV.negative : FV → Bool
  | .nan => false
  | .inf n => n
  | .fin n _ _ => n

def FV.isZero : FV → Bool
  | .fin _ 0 _ => true
  | _ => false

def FV.neg : FV → FV
  | .nan => .nan
  | .inf n => .inf (!n)
  | .fin n m e => .fin (!n) m e

/-! ## Formats (R185) -/

/-- How a format uses its largest exponent: as IEEE formats do, for one NaN only (E4M3), or for numbers only. -/
inductive Special where
  | ieee | oneNan | none
  deriving DecidableEq, Repr

/-- A floating-point format: exponent bits, fraction bits, bias, and the use of the largest exponent. -/
structure Fmt where
  eb : Nat
  mb : Nat
  bias : Int
  sp : Special
  deriving DecidableEq, Repr

def fp32 : Fmt := ⟨8, 23, 127, .ieee⟩
def fp16 : Fmt := ⟨5, 10, 15, .ieee⟩
def bf16 : Fmt := ⟨8, 7, 127, .ieee⟩
def e5m2 : Fmt := ⟨5, 2, 15, .ieee⟩
def e4m3 : Fmt := ⟨4, 3, 7, .oneNan⟩
def e3m2 : Fmt := ⟨3, 2, 3, .none⟩
def e2m3 : Fmt := ⟨2, 3, 1, .none⟩
def e2m1 : Fmt := ⟨2, 1, 1, .none⟩

/-- Bits of a format. -/
def Fmt.width (f : Fmt) : Nat := 1 + f.eb + f.mb
/-- The largest finite magnitude's encoding. -/
def Fmt.maxCode (f : Fmt) : Nat :=
  match f.sp with
  | .ieee => (2 ^ f.eb - 1) * 2 ^ f.mb - 1
  | .oneNan => 2 ^ (f.eb + f.mb) - 2
  | .none => 2 ^ (f.eb + f.mb) - 1
/-- The canonical NaN (R186); a format without NaN gives +0 (R194). -/
def Fmt.nanCode (f : Fmt) : Nat :=
  match f.sp with
  | .ieee => (2 ^ f.eb - 1) * 2 ^ f.mb + 2 ^ (f.mb - 1)
  | .oneNan => 2 ^ (f.eb + f.mb) - 1
  | .none => 0
/-- The sign bit. -/
def Fmt.signCode (f : Fmt) (neg : Bool) : Nat := if neg then 2 ^ (f.eb + f.mb) else 0

/-- The value an encoding stands for (R185). -/
def Fmt.decode (f : Fmt) (x : Nat) : FV :=
  let neg := bit x (f.eb + f.mb)
  let e := x / 2 ^ f.mb % 2 ^ f.eb
  let m := x % 2 ^ f.mb
  let top := e == 2 ^ f.eb - 1
  if f.sp == .ieee && top then (if m == 0 then .inf neg else .nan)
  else if f.sp == .oneNan && top && m == 2 ^ f.mb - 1 then .nan
  else if e == 0 then .fin neg m (1 - f.bias - f.mb)
  else .fin neg (2 ^ f.mb + m) ((e : Int) - f.bias - f.mb)

/-! ## Rounding (R192 to R195) -/

/-- Rounding directions. -/
inductive Dir where
  | rne | rz | ru | rd
  deriving DecidableEq, Repr

/-- floor(log2 (m × 2^e)) for m > 0. -/
def ilog (m : Nat) (e : Int) : Int := (Nat.log2 m : Int) + e

/-- m × 2^e in units of 2^q: the whole part, and the rest over 2^k as (rest, k). -/
def units (m : Nat) (e q : Int) : Nat × Nat × Nat :=
  if q ≤ e then (m * 2 ^ (e - q).toNat, 0, 0)
  else let k := (q - e).toNat; (m / 2 ^ k, m % 2 ^ k, k)

/-- A whole number of units rounded by the rest over 2^k. -/
def roundUnits (d : Dir) (neg : Bool) (n r k : Nat) : Nat :=
  if r = 0 then n
  else match d with
    | .rz => n
    | .ru => if neg then n else n + 1
    | .rd => if neg then n + 1 else n
    | .rne => if 2 * r < 2 ^ k then n else if 2 ^ k < 2 * r then n + 1 else n + n % 2

/-- The exponent of a format's unit at the magnitude of m × 2^e; below the smallest normal, the subnormal step. -/
def Fmt.quantum (f : Fmt) (m : Nat) (e : Int) : Int := max (ilog m e - f.mb) (1 - f.bias - f.mb)

/-- The encoding of n units of 2^q, without its sign and as though the exponent had no upper bound. -/
def Fmt.codeAt (f : Fmt) (n : Nat) (q : Int) : Nat := ((q + f.mb + f.bias - 1) * (2 ^ f.mb : Nat)).toNat + n

/-- What an overflow gives (R193). -/
def Fmt.overflow (f : Fmt) (d : Dir) (neg : Bool) : Nat :=
  if f.sp == .ieee && f.mb != 2 then
    let inf := f.maxCode + 1
    match d with
    | .rne => inf
    | .rz => f.maxCode
    | .ru => if neg then f.maxCode else inf
    | .rd => if neg then inf else f.maxCode
  else f.maxCode

/-- A magnitude m × 2^e rounded to a format, without its sign. -/
def Fmt.roundMag (f : Fmt) (d : Dir) (neg : Bool) (m : Nat) (e : Int) : Nat :=
  if m = 0 then 0
  else
    let q := f.quantum m e
    let (n, r, k) := units m e q
    let c := f.codeAt (roundUnits d neg n r k) q
    if f.maxCode < c then f.overflow d neg else c

/-- An infinity converted to a format (R194). -/
def Fmt.infCode (f : Fmt) : Nat := if f.sp == .ieee then f.maxCode + 1 else f.maxCode

/-- A value rounded to a format (R192 to R194). -/
def Fmt.round (f : Fmt) (d : Dir) : FV → Nat
  | .nan => f.nanCode
  | .inf neg => f.signCode neg + f.infCode
  | .fin neg m e => f.signCode neg + f.roundMag d neg m e

/-- A value rounded stochastically with 32 bits (R195). -/
def Fmt.roundSR (f : Fmt) (rb : Nat) : FV → Nat
  | .nan => f.nanCode
  | .inf neg => f.signCode neg + f.infCode
  | .fin neg m e =>
    if m = 0 then f.signCode neg
    else
      let q := f.quantum m e
      let (n, r, k) := units m e q
      let frac := if 32 ≤ k then r / 2 ^ (k - 32) else r * 2 ^ (32 - k)
      let n' := if r = 0 then n else if 2 ^ 32 ≤ frac + rb then n + 1 else n
      let c := f.codeAt n' q
      f.signCode neg + (if f.maxCode < c then f.overflow .rne neg else c)

/-! ## Exact operations (R196, R197, R200) -/

/-- Exact sum of a list: NaN, ∞ − ∞ and the sign of an exact zero as R192 and R196 say. -/
def FV.sum (l : List FV) : FV :=
  if l.any FV.isNan || (l.any (· == .inf true) && l.any (· == .inf false)) then .nan
  else if l.any (· == .inf true) then .inf true
  else if l.any (· == .inf false) then .inf false
  else FV.ofDy (l.foldl (fun d x => d.add x.dy) Dy.zero) (l.all fun x => x.isZero && x.negative)

def FV.add (a b : FV) : FV := FV.sum [a, b]
def FV.sub (a b : FV) : FV := FV.sum [a, b.neg]

/-- Exact product: 0 × ∞ is a NaN (R196). -/
def FV.mul : FV → FV → FV
  | .nan, _ => .nan
  | _, .nan => .nan
  | .inf s, .inf t => .inf (s != t)
  | .inf s, .fin t m _ => if m = 0 then .nan else .inf (s != t)
  | .fin s m _, .inf t => if m = 0 then .nan else .inf (s != t)
  | .fin s m e, .fin t n f => .fin (s != t) (m * n) (e + f)

/-- Exact product and sum, to be rounded once. -/
def FV.fma (a b c : FV) : FV :=
  match a.mul b with
  | .nan => .nan
  | p => FV.sum [p, c]

/-- The integer square root, one bit of the root for each unit of fuel. -/
def isqrtLoop : Nat → Nat → Nat → Nat
  | 0, _, r => r
  | k + 1, x, r =>
    let t := r + 2 ^ k
    isqrtLoop k x (if t * t ≤ x then t else r)

/-- The largest r with r × r ≤ x, for x below 4^k. -/
def isqrt (k x : Nat) : Nat := isqrtLoop k x 0

/-- A quotient to 64 significant bits and more, with a last bit that says whether anything was cut off, so that one
rounding of it is the rounding of the exact quotient. -/
def divMag (m : Nat) (e : Int) (n : Nat) (f : Int) : Nat × Int :=
  let k := Nat.log2 n + 66
  let x := m * 2 ^ k
  (2 * (x / n) + (if x % n = 0 then 0 else 1), e - f - k - 1)

/-- Division (R196); x ÷ 0 is an infinity. -/
def FV.div : FV → FV → FV
  | .nan, _ => .nan
  | _, .nan => .nan
  | .inf _, .inf _ => .nan
  | .inf s, .fin t _ _ => .inf (s != t)
  | .fin s _ _, .inf t => .fin (s != t) 0 0
  | .fin s m e, .fin t n f =>
    if n = 0 then (if m = 0 then .nan else .inf (s != t))
    else let (q, g) := divMag m e n f; .fin (s != t) q g

/-- Square root (R196), as FV.div keeps a last sticky bit. -/
def FV.sqrt : FV → FV
  | .nan => .nan
  | .inf neg => if neg then .nan else .inf false
  | .fin neg m e =>
    if m = 0 then .fin neg 0 0
    else if neg then .nan
    else
      let x := if e % 2 = 0 then m * 2 ^ 128 else m * 2 ^ 129
      let g := if e % 2 = 0 then e - 128 else e - 129
      let r := isqrt (Nat.log2 x / 2 + 1) x
      .fin false (2 * r + (if r * r = x then 0 else 1)) (g / 2 - 1)

/-- a < b as real numbers or infinities; false when either is a NaN. -/
def FV.lt : FV → FV → Bool
  | .nan, _ => false
  | _, .nan => false
  | .inf s, .inf t => s && !t
  | .inf s, .fin _ _ _ => s
  | .fin _ _ _, .inf t => !t
  | x, y => x.dy.lt y.dy

/-- Equal as real numbers or infinities; false when either is a NaN. -/
def FV.eq : FV → FV → Bool
  | .nan, _ => false
  | _, .nan => false
  | .inf s, .inf t => s == t
  | .inf _, _ => false
  | _, .inf _ => false
  | x, y => (x.dy.sub y.dy).isZero

/-- The smaller value with −0 below +0 (R197). -/
def FV.below (a b : FV) : Bool := a.lt b || (a.eq b && a.negative && !b.negative)

/-- Rounded to a whole number (R301). -/
def roundInt (d : Dir) (neg : Bool) (m : Nat) (e : Int) : Nat :=
  let (n, r, k) := units m e 0
  roundUnits d neg n r k

/-! ## Integers from and to floating point (R193, R194, R305) -/

/-- A value truncated toward zero into an integer target, saturating; a NaN gives 0. -/
def FV.toInt (lo hi : Int) : FV → Int
  | .nan => 0
  | .inf neg => if neg then lo else hi
  | .fin neg m e =>
    let n : Int := roundInt .rz neg m e
    let v := if neg then -n else n
    if v < lo then lo else if hi < v then hi else v

/-- A value rounded to nearest even into an integer target, saturating; a NaN gives 0 (R366). -/
def FV.toIntRne (lo hi : Int) : FV → Int
  | .nan => 0
  | .inf neg => if neg then lo else hi
  | .fin neg m e =>
    let n : Int := roundInt .rne neg m e
    let v := if neg then -n else n
    if v < lo then lo else if hi < v then hi else v

/-- An integer as an exact value. -/
def FV.ofInt (n : Int) : FV := .fin (decide (n < 0)) n.natAbs 0

/-! ## FP32 shorthands -/

def f32 (x : Word) : FV := fp32.decode x.toNat
def toF32 (v : FV) : Word := BitVec.ofNat 32 (fp32.round .rne v)
/-- Round up toward +∞ (R168). -/
def toF32Up (v : FV) : Word := BitVec.ofNat 32 (fp32.round .ru v)

/-- A dyadic number above 0 as the nearest FP32 not below it, and so on, is `toF32Up`; this is the value of an FP32. -/
def dyOfF32 (x : Word) : Dy := (f32 x).dy

/-- The E8M0 scale 2^(x − 127), or NaN for 0xFF (R188). -/
def e8m0 (x : Nat) : FV := if x = 0xFF then .nan else .fin false 1 ((x : Int) - 127)

/-! ## LC2 (R191) -/

/-- The parity of the low n bits of x. -/
def parity : Nat → Nat → Bool
  | 0, _ => false
  | n + 1, x => (x % 2 == 1) != parity n (x / 2)

/-- Coordinate j of a codeword, in quarters: ±1, ±3, ±5 or ±7. -/
def lc2Coord (w j : Nat) : Int :=
  let mag : Int := if bit w (8 + j) then 6 else 2
  let neg := if j < 7 then bit w (1 + j) else parity 7 (w / 2) != parity 8 (w / 256)
  let shift : Int := if bit w 0 then 1 else -1
  (if neg then -mag else mag) + shift

/-- A weight: the scale times the coordinate. -/
def lc2Weight (y w j : Nat) : FV :=
  let c := lc2Coord w j
  FV.mul (e4m3.decode y) (.fin (decide (c < 0)) c.natAbs (-2))

end Sys2Proof.Machine
end

