-- ==== Sys2Proof/Machine/Map.lean ====
section
/-! DEFINITION. Unit numbers, the physical map (R28 to R31), virtual addresses (R19 to R22), and the fields of context
records, page-table entries and region descriptors (R43 to R54). -/
namespace Sys2Proof.Machine

/-! ## Units -/

/-- The die of a core. -/
def dieOfCore (core : Nat) : Nat := core / 80
/-- The cluster of a core. -/
def clOfCore (core : Nat) : Nat := core / 4
/-- The die of a cluster. -/
def dieOfCl (cl : Nat) : Nat := cl / 20
/-- The gather of a fibre. -/
def gatherOf (f : Nat) : Nat := f / 1024
/-- The core of a gather. -/
def coreOfGather (g : Nat) : Nat := g / 32
/-- The core of a fibre. -/
def coreOf (f : Nat) : Nat := coreOfGather (gatherOf f)
/-- The fibre's index in its gather. -/
def fiOf (f : Nat) : Nat := f % 1024
/-- The die of a fibre. -/
def dieOf (f : Nat) : Nat := dieOfCore (coreOf f)

/-- The die on which a unit with a translation cache stands: cores, copy engines 1000 + c, sequencers 2000 + k. -/
def dieOfUnit (u : Nat) : Nat :=
  if u < 1000 then dieOfCore u else if u < 2000 then dieOfCore (u - 1000) else if u < 3000 then dieOfCl (u - 2000) else u - 3000

/-- The number by which a waiting request names its agent: a node of a fibre. -/
def agentNode (f e : Nat) : Nat := f * 128 + e
/-- The number by which a waiting request names a sequencer. -/
def agentSeq (cl : Nat) : Nat := 10 ^ 12 + cl

/-! ## The physical map (R28) -/

/-- Where a physical address lies. -/
inductive Place where
  | hbm (die : Nat)
  | onchip (off : Nat)
  | tier (port : Nat)
  | peer
  | host
  | absent
  deriving DecidableEq, Repr

/-- Populated bytes of a die's HBM (R28). -/
def hbmBytes : Nat := 0x165A0BC000

/-- The place of a physical address: HBM of a die in service, the on-chip map, the attached second tier, an aperture. -/
def placeOf (s : State) (pa : Nat) : Place :=
  if pa < 2 ^ 40 then
    let d := pa / 2 ^ 37
    if pa % 2 ^ 37 < 96000000000 ∧ s.mg.dies.getLsbD d then .hbm d else .absent
  else if pa < 2 ^ 40 + 2 ^ 34 then .onchip (pa - 2 ^ 40)
  else if 2 ^ 44 ≤ pa ∧ pa < 2 ^ 45 then
    let p := (pa - 2 ^ 44) / 2 ^ 43
    if pa % 2 ^ 43 < kvGetD p 0 s.ms.tier then .tier p else .absent
  else if 2 ^ 50 ≤ pa ∧ pa < 2 ^ 51 then .peer
  else if 2 ^ 51 ≤ pa ∧ pa < 2 ^ 52 then .host
  else .absent

/-- Memory of the part: HBM or the second tier. -/
def Place.isMem : Place → Bool
  | .hbm _ => true
  | .tier _ => true
  | _ => false

/-- The host or peer aperture. -/
def Place.outside : Place → Bool
  | .peer => true
  | .host => true
  | _ => false

/-- The next die in service from d, in ascending order with wrap-around (R461). -/
def nextDie (s : State) (d : Nat) : Nat := ((upto 8).map fun k => (d + k) % 8).find? (fun k => s.mg.dies.getLsbD k) |>.getD d

/-- The home die of a line of memory (R90, R461). -/
def homeOf (s : State) (pa : Nat) : Nat := if pa < 2 ^ 40 then pa / 2 ^ 37 else nextDie s (pa / 2 ^ 14 % 8)

/-- The 128-byte line of an address. -/
def lineOf (pa : Nat) : Nat := pa / 128

/-! ## The on-chip map (R30, R31) -/

/-- What an on-chip offset names. -/
inductive Chip where
  /-- Byte of slot s of a core. -/
  | slot (core s b : Nat)
  | scratch (core x : Nat)
  | tag (core x : Nat)
  /-- Eight full bits from slot 8·x. -/
  | full (core x : Nat)
  /-- Byte b of element k of tile 32·cl + id. -/
  | tile (cl id b : Nat)
  | absent
  deriving DecidableEq, Repr

/-- A core's partition registers; at reset, CSPART's reset values (R72). -/
def partOf (s : State) (core : Nat) : CoreStore :=
  kvGetD core { target := ⟨8, 16, 2, 6⟩, now := ⟨8, 16, 2, 6⟩, pend := 0, flush := false, err := false } s.ms.stores

/-- Banks of a role that the on-chip map shows: a bank that is leaving is absent already (R75). -/
def shownBanks (now target : Nat) : Nat := min now target

/-- The decoding of R30 and R31. Numbers are those of units in service (R10): the windows of a die out of service are absent (log
entry 93). -/
def chipOf (s : State) (off : Nat) : Chip :=
  let die := off / 2 ^ 31
  let clu := off / 2 ^ 26 % 32
  if 20 ≤ clu || !s.mg.dies.getLsbD die then .absent
  else
    let cl := 20 * die + clu
    if off / 2 ^ 25 % 2 = 0 then
      let core := 4 * cl + off / 2 ^ 23 % 4
      let o := off % 2 ^ 21
      let p := partOf s core
      match off / 2 ^ 21 % 4 with
      | 0 => if o / 8 < shownBanks p.now.lv p.target.lv * 8192 then .slot core (o / 8) (o % 8) else .absent
      | 1 => if o < shownBanks p.now.sp p.target.sp * 65536 then .scratch core o else .absent
      | 2 => if o < shownBanks p.now.tm p.target.tm * 65536 then .tag core o else .absent
      | _ => if o * 8 < shownBanks p.now.lv p.target.lv * 8192 then .full core o else .absent
    else
      let t := off % 2 ^ 25
      if t < 2 ^ 21 then .tile cl (t / 2 ^ 16) (t % 2 ^ 16) else .absent

/-! ## Virtual addresses (R19 to R22) -/

/-- Canonical: bits [63:58] all equal bit 57. -/
def canonical (a : Nat) : Bool := decide (a < 2 ^ 57) || (decide (2 ^ 64 - 2 ^ 57 ≤ a) && decide (a < 2 ^ 64))

/-- The addresses of an access of n bytes, each modulo 2^64 (R20). -/
def vaBytes (a n : Nat) : List Nat := (upto n).map fun i => (a + i) % 2 ^ 64

/-- The aperture base of a context (R22, R43). -/
def Ctx.sb (c : Ctx) : Nat := c.d2.toNat / 2 ^ 36 * 2 ^ 36
/-- Whether an address lies in the context's aperture. -/
def Ctx.inAperture (c : Ctx) (a : Nat) : Bool := a / 2 ^ 36 == c.d2.toNat / 2 ^ 36
def Ctx.root (c : Ctx) : Nat := bits c.d0.toNat 51 14
def Ctx.en (c : Ctx) : Bool := bit c.d0.toNat 0
def Ctx.rdt (c : Ctx) : Nat := bits c.d1.toNat 51 11 * 2 ^ 11
def Ctx.onchip (c : Ctx) : Bool := bit c.d2.toNat 16
def Ctx.func (c : Ctx) : Nat := bits c.d3.toNat 31 24
def Ctx.pri (c : Ctx) : Bool := bit c.d3.toNat 1
def Ctx.ats (c : Ctx) : Bool := bit c.d3.toNat 0

def Ctx.ctxid (c : Ctx) : Nat := bits c.d2.toNat 15 0

/-- The record of a context that firmware has not set up: not enabled, its aperture at the reset placement (R21). -/
def noCtx : Ctx := ⟨0, 0, 0xFFFFFFF000000000, 0, 0⟩
/-- A context by its identifier. -/
def ctxOf (s : State) (ctx : Nat) : Ctx := kvGetD ctx noCtx s.disp.ctxs

/-! ## Leaves and descriptors (R47, R53) -/

def Leaf.fmt (l : Leaf) : Nat := bits l.pte.toNat 63 60
def Leaf.rgx (l : Leaf) : Nat := bits l.pte.toNat 59 54
def Leaf.d (l : Leaf) : Bool := bit l.pte.toNat 10
def Leaf.a (l : Leaf) : Bool := bit l.pte.toNat 9
def Leaf.x (l : Leaf) : Bool := bit l.pte.toNat 6
def Leaf.w (l : Leaf) : Bool := bit l.pte.toNat 5
def Leaf.r (l : Leaf) : Bool := bit l.pte.toNat 4

/-- Bits of a page's offset at a level (R48). -/
def pageBits (lvl : Nat) : Nat := 14 + 11 * (3 - lvl)

/-- The number of 16 KiB pages below 2^58 (R45). -/
def vpage (va : Nat) : Nat := va % 2 ^ 58 / 2 ^ 14

/-- Whether the leaf translates an address. -/
def Leaf.covers (l : Leaf) (ctx va : Nat) : Bool :=
  l.ctx == ctx && l.page / 2 ^ (pageBits l.lvl - 14) == vpage va / 2 ^ (pageBits l.lvl - 14)

/-- The physical address (R48). -/
def Leaf.pa (l : Leaf) (va : Nat) : Nat :=
  bits l.pte.toNat 51 14 * 2 ^ 14 / 2 ^ pageBits l.lvl * 2 ^ pageBits l.lvl + va % 2 ^ pageBits l.lvl

/-- The fields of the region descriptor that the leaf carries. -/
def Leaf.base (l : Leaf) : Nat := (l.desc.getD 0 0).toNat / 2 ^ 14 * 2 ^ 14
def Leaf.endv (l : Leaf) : Nat := (l.desc.getD 1 0).toNat / 2 ^ 14 * 2 ^ 14
def Leaf.scale (l : Leaf) : Nat := (l.desc.getD 2 0).toNat
def Leaf.lim (l : Leaf) : Word := BitVec.ofNat 32 (l.desc.getD 3 0).toNat

/-- A descriptor's LIM is not below zero, not infinite and no NaN (R53). -/
def limOk (x : Word) : Bool :=
  match f32 x with
  | .fin neg m _ => !neg || m == 0
  | _ => false

/-- The descriptor is valid (R53). -/
def Leaf.valid (l : Leaf) : Bool :=
  bit (l.desc.getD 0 0).toNat 0 && bits (l.desc.getD 0 0).toNat 13 1 == 0 && bits (l.desc.getD 1 0).toNat 13 0 == 0 &&
  bits (l.desc.getD 3 0).toNat 63 32 == 0 && canonical l.base && canonical l.endv && decide (l.base < l.endv) && limOk l.lim

/-- The region applies to every byte of an access (R54). -/
def Leaf.inRegion (l : Leaf) (vas : List Nat) : Bool :=
  l.valid && vas.all fun a => decide (l.base ≤ a) && decide (a < l.endv)

/-- A page's region does not forbid an access of these bytes (R54). -/
def Leaf.permits (vas : List Nat) (l : Leaf) : Bool := !l.valid || l.inRegion vas

/-- Bounded (R165): the limit, if the page's region sets one and the frame is memory of the part. -/
def Leaf.bound (s : State) (l : Leaf) (va : Nat) : Option Word :=
  if l.valid && decide (l.base ≤ va) && decide (va < l.endv) && l.lim.toNat % 2 ^ 31 != 0 && (placeOf s (l.pa va)).isMem
  then some l.lim else none

/-- A present entry is malformed (R48). -/
def malformed (s : State) (e lvl : Nat) : Bool :=
  let leaf := bit e 1
  if leaf then
    lvl == 0 || bits e 53 52 != 0 || bits e 8 7 != 0 || bits e 3 2 != 0 || (lvl == 2 && bits e 24 14 != 0) ||
    (lvl == 1 && bits e 35 14 != 0) || (bit e 5 && !bit e 4) || bits e 63 60 == 15
  else
    lvl == 3 || bits e 63 52 != 0 || bits e 10 2 != 0 || !(placeOf s (bits e 51 14 * 2 ^ 14)).isMem

end Sys2Proof.Machine
end

