-- ==== Sys2Proof/Machine/Cache.lean ====
section
/-! DEFINITION. The coherent memory below the first-level caches and the caches themselves (R71, R79 to R93, R100 to
R107, R111, R116, R117), with the sums that holders keep (R168 to R173). The value of every byte of memory stands once,
in `mem`; a die's copy is its state, its release records and its window sharers. -/
namespace Sys2Proof.Machine

/-! ## Field access -/

def State.gather? (s : State) (g : Nat) : Option Gather := kvGet g s.fab.gathers
def State.setGather (s : State) (g : Nat) (x : Gather) : State :=
  { s with fab := { s.fab with gathers := kvSet g x s.fab.gathers } }
def State.modGather (s : State) (g : Nat) (fn : Gather → Gather) : State :=
  { s with fab := { s.fab with gathers := kvMod g fn s.fab.gathers } }
def State.setMem (s : State) (m : List Host.Cell) : State := { s with ms := { s.ms with mem := m } }
def State.byte (s : State) (pa : Nat) : Byte := memGet s.ms.mem pa
def State.setL2 (s : State) (m : KV L2Line) : State := { s with ms := { s.ms with l2 := m } }
def State.setL1 (s : State) (m : KV L1Byte) : State := { s with ms := { s.ms with l1 := m } }

/-- A count of R379. -/
def perfKey (unit ctx k : Nat) : Nat := (unit * 65536 + ctx) * 16 + k
def State.count (s : State) (unit ctx k : Nat) : State :=
  let m := s.fab.perf
  { s with fab := { s.fab with perf := kvSet (perfKey unit ctx k) ((kvGetD (perfKey unit ctx k) 0 m + 1) % 2 ^ 64) m } }

/-- An entry of the reliability log (R460). -/
def State.logEvent (s : State) (kind die unit inc : Nat) : State :=
  { s with mg := { s.mg with log := s.mg.log ++ [⟨kind, die, unit, inc, 1, s.clock⟩] } }

/-- The die whose memory holds a line, for the reliability log: its home, or the link die of its second-tier port. -/
def memDie (s : State) (line : Nat) : Nat :=
  if line * 128 < 2 ^ 44 then homeOf s (line * 128) else 8 + (line * 128 - 2 ^ 44) / 2 ^ 43
/-- The unit of that memory (R460): an HBM stack of the die, which R100 does not place (log entry 80), or the second-tier port. -/
def memUnit (line : Nat) : Nat :=
  if line * 128 < 2 ^ 44 then Config.hbmStack (line / 2) % 2 else (line * 128 - 2 ^ 44) / 2 ^ 43
/-- An event of a line of memory: 1 a corrected error, 2 an uncorrectable error or poison (R460). -/
def State.logLine (s : State) (kind line : Nat) : State := s.logEvent kind (memDie s line) (memUnit line) 0

/-- Sort cells into lines: the lines of a list of cells, each once. -/
def linesOf (cs : List (Nat × Byte)) : List Nat := (cs.map fun c => lineOf c.1).eraseDups

/-! ## Windows (R111, R117) -/

/-- A window word's state; a word that is not listed has V = 0 and BM = 0. -/
def Gather.word (g : Gather) (w : Nat) : WinWord := kvGetD w ⟨false, 0⟩ g.words
def Gather.setWord (g : Gather) (w : Nat) (x : WinWord) : Gather := { g with words := kvSetD w ⟨false, 0⟩ x g.words }

/-- The window of a gather that holds an allocation offset, if one maps it (R110, R121). -/
def Gather.winAt (g : Gather) (off : Nat) : Option Window :=
  ((g.wins.map (·.2)).filter fun w => !w.retiring && decide (w.off ≤ off) && decide (off < w.off + w.len)).head?

/-- Clear V of the words of an allocation line that hold written bytes; BM stays (R117). -/
def Gather.stale (g : Gather) (aline : Nat) (hit : Nat → Bool) : Gather :=
  (upto 32).foldl (fun g k =>
    let w := aline * 32 + k
    if (upto 4).any (fun b => hit (4 * k + b)) && (g.word w).v then g.setWord w { g.word w with v := false } else g) g

/-- Words of the line are marked in a fill that is outstanding, so that it does not set V on them (R115). -/
def staleFills (fs : List Fill) (g aline : Nat) (hit : Nat → Bool) : List Fill :=
  fs.map fun f => if f.g == g && f.line == aline then
    { f with stale := f.stale ++ (upto 32).filter fun k => (upto 4).any fun b => hit (4 * k + b) } else f

/-- Invalidate words of one window. -/
def State.staleWin (s : State) (w : Nat × Nat) (hit : Nat → Bool) : State :=
  let s := s.modGather w.1 fun g => g.stale w.2 hit
  { s with ms := { s.ms with fills := staleFills s.ms.fills w.1 w.2 hit } }

/-- A window line that a copy names belongs to the window whose own writeback is being performed (R117). -/
def State.spares (s : State) (but : Option WinLine) (w : Nat × Nat) : Bool :=
  match but with
  | some x => x.g == w.1 && x.aline == w.2 && (match s.gather? x.g with
    | some g => g.wins.any fun p => p.2.id == x.id
    | none => false)
  | none => false

/-- Invalidate words of every window named by a copy, but for a window's own writeback. -/
def State.staleWins (s : State) (ws : List (Nat × Nat)) (hit : Nat → Bool) (but : Option WinLine) : State :=
  ws.foldl (fun s w => if s.spares but w then s else s.staleWin w hit) s

/-! ## Circuits (R94, R95, R97) -/

/-- The column of a die (R94): LD0 left of CD0 and CD4, LD1 right of CD3 and CD7. -/
def column (d : Nat) : Nat := if d = 8 then 0 else if d = 9 then 5 else d % 4 + 1
/-- The dies of a route, in order (R94): along the row of the source, or of the destination for a link die, then across. -/
def fixedRoute (src dst : Nat) : List Nat :=
  let row := if src < 8 then src / 4 else dst / 4
  let at_ (c : Nat) : Nat := if c = 0 then 8 else if c = 5 then 9 else row * 4 + c - 1
  let a := column src
  let b := column dst
  let along := if a ≤ b then (addrs a (b - a + 1)).map at_ else ((addrs b (a - b + 1)).map at_).reverse
  if along.getLast? = some dst then along else along ++ [dst]
/-- Two dies are joined by a link. -/
def adjacent (a b : Nat) : Bool := (fixedRoute a b).length == 2 && (a < 8 || b < 8)
/-- A die carries traffic: a compute die in service, or a link die. -/
def State.carries (s : State) (d : Nat) : Bool := decide (8 ≤ d) || s.mg.dies.getLsbD d
/-- Routes, last die first, grown by one hop. -/
def State.growRoutes (s : State) (dst : Nat) (rs : List (List Nat)) : List (List Nat) :=
  rs.flatMap fun r => ((upto 10).filter fun d =>
    adjacent (r.headD 0) d && !r.contains d && (d == dst || s.carries d)).map fun d => d :: r
/-- The first of the shortest routes that avoid the dies out of service (R462; log entry 81). -/
def State.detour (s : State) (dst : Nat) : Nat → List (List Nat) → Option (List Nat)
  | 0, _ => none
  | n + 1, rs => match rs.find? fun r => r.head? == some dst with
    | some r => some r.reverse
    | none => s.detour dst n (s.growRoutes dst rs)
/-- The route of a circuit: fixed, but around a die that is out of service (R94, R462). -/
def State.routeOf (s : State) (src dst : Nat) : List Nat :=
  let r := fixedRoute src dst
  if (r.drop 1).dropLast.all s.carries then r else (s.detour dst 10 [[src]]).getD r
/-- The hops of a route. -/
def State.hopsBetween (s : State) (a b : Nat) : Nat := (s.routeOf a b).length - 1
/-- A circuit as one number: circuit set, source and destination die (8 and 9 are LD0 and LD1), class. -/
def circOf (set src dst cls : Nat) : Nat := ((set * 10 + src) * 10 + dst) * 4 + cls
/-- The allowance that a circuit has at a hop at first, and that a bridge grants anew: more flits than any one move sends on one
circuit (log entry 5). -/
def fullAllowance : Nat := 2 ^ 64
/-- What is left of the allowance of a circuit at a hop, in flits. -/
def State.allowance (s : State) (circ hop : Nat) : Nat := kvGetD (circ * 16 + hop) fullAllowance s.ms.allow
def State.setAllowance (s : State) (circ hop n : Nat) : State :=
  { s with ms := { s.ms with allow := kvSetD (circ * 16 + hop) fullAllowance n s.ms.allow } }
/-- Every hop of a route has an allowance. -/
def State.allowed (s : State) (circ hops : Nat) : Bool := (upto hops).all fun h => decide (0 < s.allowance circ h)
/-- A flit is taken from each hop's allowance: one for each token, at every hop as it leaves (log entry 63). -/
def State.spend (s : State) (circ hops : Nat) : State :=
  (upto hops).foldl (fun s h => s.setAllowance circ h (s.allowance circ h - 1)) s
/-- The circuit of a token. -/
def Posted.circ (p : Posted) : Nat := circOf p.set p.src p.dst p.cls

/-- The circuit set of a job; set 0 for a job without its own (R94). -/
def State.setOf (s : State) (job : Nat) : Nat := match kvGet job s.disp.jobs with
  | some j => j.set
  | none => 0
/-- The circuit set of a resident gather's job. -/
def State.setOfGather (s : State) (g : Nat) : Nat := match s.gather? g with
  | some x => (match kvGet x.lid s.disp.launches with
    | some l => s.setOf l.job
    | none => 0)
  | none => 0
/-- The circuit set of the present move's traffic: the job's for an agent of a job, set 0 for the hardware itself (R94). -/
def State.moveSet (s : State) : Nat := match s.cur with
  | .node f _ => s.setOfGather (gatherOf f)
  | .post f => s.setOfGather (gatherOf f)
  | .gather g => s.setOfGather g
  | .token set => set
  | .seq cl => (match kvGet cl s.mat.seqs with
    | some q => s.setOf q.job
    | none => 0)
  | .none => 0

/-- The die from which the present move's agent acts, if it is an agent of a die. -/
def State.moveDie (s : State) : Option Nat := match s.cur with
  | .node f _ => some (dieOf f)
  | .post f => some (dieOf f)
  | .gather g => some (dieOfCore (coreOfGather g))
  | .seq cl => some (dieOfCl cl)
  | _ => none

/-- The core from which the present move's agent acts, if it is an agent of a core. -/
def State.moveCore (s : State) : Option Nat := match s.cur with
  | .node f _ => some (coreOf f)
  | .post f => some (coreOf f)
  | .gather g => some (coreOfGather g)
  | _ => none

/-- The present move needs what has to wait (R95, R97, R105): it is not made in this cycle (log entry 61). -/
def State.holdBack (s : State) : State := { s with ms := { s.ms with hold := true } }
/-- A part of a move that is left undone where what it needs has to wait (R97: no circuit's traffic waits on another's
allowance). -/
def State.attempt (s : State) (m : State → State) : State :=
  if s.ms.hold then s else let t := m s; if t.ms.hold then s else t
/-- A token carries a write of one of these lines to its home (R93). -/
def Posted.writes (p : Posted) (lines : List Nat) : Bool :=
  match p.what with
  | .write cs _ _ => cs.any fun c => lines.contains (lineOf c.1)
  | .bounded cs _ _ => cs.any fun c => lines.contains (lineOf c.1)
  | .red _ _ pa _ _ => lines.contains (lineOf pa)
  | .add l _ _ _ => lines.contains l
  | _ => false

/-- A part of a move that waits where what it needs has to wait: the state as it was, and the answer that says so. -/
def State.orWait {α : Type} (s : State) (wait : α) (r : State × α) : State × α := if r.1.ms.hold then (s, wait) else r

/-- A part of a move that is made for another agent, on that one's circuits (R94). -/
def State.asAgent (s : State) (a : Agent) (m : State → State) : State := { m { s with cur := a } with cur := s.cur }
/-- A part of a move that travels on the circuits of a set (R94). -/
def State.onSet (s : State) (set : Nat) (m : State → State) : State := s.asAgent (.token set) m
def State.readOnSet {α : Type} (s : State) (set : Nat) (m : State → State × α) : State × α :=
  let r := m { s with cur := .token set }
  ({ r.1 with cur := s.cur }, r.2)
/-- What a die does with a line waits for the die's own posted writes of it, which the home has still to perform: an agent
of the die never reads or writes past a write that it must follow (R145, R147, R153; log entry 61). -/
def State.afterOwn (s : State) (die line : Nat) : State :=
  if s.ms.posted.any fun p => p.src == die && p.writes [line] then s.holdBack else s

/-- A token that its destination performs within the present move: a read or ownership request (class 0), a forward, recall
or drain request (1), data or an acknowledgement (2), an eviction (3). It waits behind the earlier tokens of its circuit
(R95) and for the allowance (R97). -/
def State.sendOn (s : State) (set src dst cls : Nat) : State :=
  if src = dst then s
  else
    let c := circOf set src dst cls
    if (s.ms.posted.any fun p => p.circ == c) || !s.allowed c (s.hopsBetween src dst) then s.holdBack
    else s.spend c (s.hopsBetween src dst)
def State.send (s : State) (src dst cls : Nat) : State := s.sendOn s.moveSet src dst cls
/-- A request of a die that the home of a line performs within the present move, and its answer (R94). -/
def State.visit (s : State) (die line : Nat) : State :=
  (s.send die (homeOf s (line * 128)) 0).send (homeOf s (line * 128)) die 2

/-- The home's read of a second-tier line from the link die of its port, port 0 on LD0 and port 1 on LD1 (R95, R101; log
entry 64). -/
def State.sendTier (s : State) (line : Nat) : State :=
  if line * 128 < 2 ^ 44 then s
  else
    let home := homeOf s (line * 128)
    let ld := 8 + (line * 128 - 2 ^ 44) / 2 ^ 43
    (s.send home ld 0).send ld home 2

/-- The home's write of a second-tier line, on the writeback class (R94, R95; log entry 64). -/
def State.sendTierBack (s : State) (line : Nat) : State :=
  if line * 128 < 2 ^ 44 then s else s.send (homeOf s (line * 128)) (8 + (line * 128 - 2 ^ 44) / 2 ^ 43) 3

/-- A die that is not admitted to coherence makes no request (R105), and a home that has left service takes none for good: what a holder
has for its lines stays withheld (log entry 98). -/
def State.admitted (s : State) (die : Nat) : State := if s.ms.out.contains die then s.holdBack else s

/-- The tokens of a request of a die for a line (R91, R94): to the home, from the home to each die that must act, and their
answers to the requester; the home answers with memory's data where no die has to act. -/
def State.sendRequest (s : State) (die line : Nat) (acting : List Nat) : State :=
  let home := homeOf s (line * 128)
  let s := (s.admitted die).send die home 0
  if acting.isEmpty then (s.sendTier line).send home die 2
  else acting.foldl (fun s d => (s.send home d 1).send d die 2) s

/-! ## Second-level copies (R89 to R92) -/

/-- Die and line as one key. -/
def l2key (die line : Nat) : Nat := die * 2 ^ 45 + line
/-- A copy; an unlisted one is in state I. -/
def State.copyOf (s : State) (die line : Nat) : L2Line := kvGetD (l2key die line) ⟨.i, [], []⟩ s.ms.l2
def State.setCopy (s : State) (die line : Nat) (c : L2Line) : State := s.setL2 (kvSetD (l2key die line) ⟨.i, [], []⟩ c s.ms.l2)
/-- The dies that hold a line. -/
def State.sharers (s : State) (line : Nat) : List Nat := (upto 8).filter fun d => (s.copyOf d line).st != .i

/-- First-level key of a byte. -/
def l1key (core pa : Nat) : Nat := core * 2 ^ 52 + pa
def l1lineKey (core line : Nat) : Nat := core * 2 ^ 45 + line
def State.l1At (s : State) (core pa : Nat) : Option L1Byte := kvGet (l1key core pa) s.ms.l1
/-- The valid bytes of a core's first-level cache, as physical address and byte. -/
def State.l1Bytes (s : State) (core : Nat) : List (Nat × L1Byte) :=
  (s.ms.l1.filter fun p => p.1 / 2 ^ 52 == core).map fun p => (p.1 % 2 ^ 52, p.2)
/-- The tag of a first-level line. -/
def State.l1TagOf (s : State) (core line : Nat) : Option L1Tag := kvGet (l1lineKey core line) s.ms.l1tag

/-- Records of a line merged, each once (R86). -/
def mergeRecs (a b : List RelRec) : List RelRec := (a ++ b).eraseDups

/-- What stays of a copy although the line is recalled: the window that writes itself back (R117). The die then stays a
sharer for it (R116). -/
def State.keptCopy (s : State) (c : L2Line) (but : Option WinLine) : L2Line :=
  match c.win.filter (s.spares but) with
  | [] => ⟨.i, [], []⟩
  | w => ⟨.s, [], w⟩

/-- The records of some dies' copies. A home slice keeps records of a line that it does not hold (R86, R104). -/
def State.recsAt (s : State) (line : Nat) (ds : List Nat) : List RelRec :=
  ds.foldl (fun r d => mergeRecs r (s.copyOf d line).recs) []

/-- A die obtains the line for writing: every other copy is recalled, its records travel and its windows lose the line
(R91, R117). It is in M, or in O where a window keeps the line. -/
def State.own (s : State) (die line : Nat) (but : Option WinLine) : State :=
  let s := s.afterOwn die line
  let c := s.copyOf die line
  if c.st == .m || c.st == .e then s.setCopy die line { c with st := .m }
  else
    let others := (s.sharers line).filter (· != die)
    let s := s.sendRequest die line others
    let home := homeOf s (line * 128)
    let gone := (home :: others).eraseDups.filter (· != die)
    let recs := mergeRecs c.recs (s.recsAt line gone)
    let s := gone.foldl (fun s d =>
      (s.staleWins (s.copyOf d line).win (fun _ => true) but).setCopy d line (s.keptCopy (s.copyOf d line) but)) s
    let shared := others.any fun d => (s.copyOf d line).st != .i
    s.setCopy die line { s.copyOf die line with st := if shared then .o else .m, recs := recs }

/-- A die obtains a copy to read: the owner goes to O or S, the records travel (R86, R91). -/
def State.share (s : State) (die line : Nat) : State :=
  let s := s.afterOwn die line
  if (s.copyOf die line).st != .i then s
  else
    let others := s.sharers line
    let owner := others.filter fun d => (s.copyOf d line).st != .s
    let s := s.sendRequest die line owner
    let recs := s.recsAt line (homeOf s (line * 128) :: die :: others)
    let s := owner.foldl (fun s d =>
      let c := s.copyOf d line
      s.setCopy d line { c with st := if c.st == .m then .o else if c.st == .e then .s else c.st }) s
    s.setCopy die line ⟨if others.isEmpty then .e else .s, recs, []⟩

/-! ## Writes performed at a second-level copy (R80, R103) -/

/-- All 128 bytes of the line are among the cells. -/
def wholeLine (cs : List (Nat × Byte)) (line : Nat) : Bool := (upto 128).all fun b => cs.any fun c => c.1 == line * 128 + b

/-- The bytes of a line of HBM or the second tier are written at a die's copy: ownership, the poison rule, the bytes, and
the window words that they make stale. `clears` says that a whole line written clears the poison. -/
def State.writeLine (s : State) (die line : Nat) (cs : List (Nat × Byte)) (clears : Bool) (but : Option WinLine) : State :=
  let mine := cs.filter fun c => lineOf c.1 == line
  if s.ms.poison.contains line && !(clears && wholeLine mine line) then s.logLine 2 line
  else
    let s := s.own die line but
    let s := s.setMem (memPuts s.ms.mem mine)
    let s := { s with ms := { s.ms with poison := s.ms.poison.filter (· != line) } }
    s.staleWins (s.copyOf die line).win (fun b => mine.any fun c => c.1 == line * 128 + b) but

/-- Bytes written at a die's copies. -/
def State.writeAt (s : State) (die : Nat) (cs : List (Nat × Byte)) (clears : Bool) (but : Option WinLine) : State :=
  (linesOf cs).foldl (fun s l => s.writeLine die l cs clears but) s

/-! ## First-level caches (R79 to R82) -/

/-- The dirty bytes of a core's lines that pass a test. -/
def State.dirtyOf (s : State) (core : Nat) (keep : Nat → Bool) : List (Nat × Byte) :=
  ((s.l1Bytes core).filter fun p => p.2.dirty && keep (lineOf p.1)).map fun p => (p.1, p.2.val)

/-- Tags of lines that hold no byte go. -/
def State.trimTags (s : State) (core : Nat) : State :=
  { s with ms := { s.ms with l1tag := kvFilter (fun k _ => k / 2 ^ 45 != core ||
      s.ms.l1.any fun p => p.1 / 128 == core * 2 ^ 45 + k % 2 ^ 45) s.ms.l1tag } }

/-- Bytes of some poisoned lines leave a core's first-level cache, which never holds them (R103). -/
def State.l1Unpoison (s : State) (core : Nat) (lines : List Nat) : State :=
  let bad := lines.filter s.ms.poison.contains
  if bad.isEmpty then s
  else (s.setL1 (kvFilter (fun k _ => k / 2 ^ 52 != core || !bad.contains (lineOf (k % 2 ^ 52))) s.ms.l1)).trimTags core

/-- The dirty bytes of a line with the circuit sets of the jobs that stored them, and those sets. -/
def State.dirtyBytes (s : State) (core line : Nat) : List (Nat × L1Byte) :=
  (s.l1Bytes core).filter fun p => p.2.dirty && lineOf p.1 == line
def State.dirtySets (s : State) (core line : Nat) : List Nat := ((s.dirtyBytes core line).map (·.2.set)).eraseDups

/-- The dirty bytes of a line that jobs of one circuit set stored: they are performed at the die's copy on that set, and are then
clean (R81, R94). A line all of whose bytes are dirty is one write where it meets poison, which it clears; what meets poison
otherwise is discarded (R103). -/
def State.partClean (s : State) (core line set : Nat) : State :=
  let all := s.dirtyBytes core line
  let whole := s.ms.poison.contains line && wholeLine (all.map fun p => (p.1, p.2.val)) line
  let cs := (all.filter fun p => whole || p.2.set == set).map fun p => (p.1, p.2.val)
  if cs.isEmpty then s else
  let s := s.onSet set fun s => s.writeLine (dieOfCore core) line cs true none
  (s.setL1 (cs.foldl (fun m c => kvMod (l1key core c.1) (fun b => { b with dirty := false }) m) s.ms.l1)).l1Unpoison core [line]
/-- A writeback of the dirty bytes of a line, set by set. -/
def State.lineClean (s : State) (core line : Nat) : State :=
  (s.dirtySets core line).foldl (fun s c => s.partClean core line c) s
/-- The lines of a core that pass a test and hold dirty bytes. -/
def State.dirtyLines (s : State) (core : Nat) (keep : Nat → Bool) : List Nat := linesOf (s.dirtyOf core keep)
/-- A writeback of the lines that pass a test, as one move. -/
def State.writeback (s : State) (core : Nat) (keep : Nat → Bool) : State :=
  (s.dirtyLines core keep).foldl (fun s l => s.lineClean core l) s
/-- The same line by line and set by set: bytes whose circuit holds them back stay dirty, and keep no others (R97). -/
def State.writebackSome (s : State) (core : Nat) (keep : Nat → Bool) : State :=
  (s.dirtyLines core keep).foldl (fun s l =>
    (s.dirtySets core l).foldl (fun s c => s.attempt fun s => s.partClean core l c) s) s

/-- Whether a line is tagged with one of the regions; no region named means every line (R88). -/
def State.tagged (s : State) (core : Nat) (rgx : List Nat) (line : Nat) : Bool :=
  rgx.isEmpty || (match s.l1TagOf core line with
    | some t => rgx.contains t.rgx
    | none => false)

/-- A core's drain (R87 step 2, R88) goes on, as far as its lines' circuits let it (R97); what of it is left. -/
def State.drainSome (s : State) (core : Nat) (rgx : List Nat) : State := s.writebackSome core (s.tagged core rgx)
def State.undrained (s : State) (core : Nat) (rgx : List Nat) : Bool := !(s.dirtyLines core (s.tagged core rgx)).isEmpty

/-- The clean valid bytes of a core's lines that pass a test are invalidated (R82, R87 step 3). -/
def State.dropClean (s : State) (core : Nat) (keep : Nat → Bool) : State :=
  (s.setL1 (kvFilter (fun k b => k / 2 ^ 52 != core || b.dirty || !keep (lineOf (k % 2 ^ 52))) s.ms.l1)).trimTags core

/-- An acquire's invalidation on a core for some fibres (R84, R87, R88): clean bytes go, outstanding miss entries install
nothing, and no later miss of the fibres joins one of them. -/
def State.acquireDrops (s : State) (core : Nat) (fs : List Nat) (rgx : List Nat) : State :=
  let s := s.dropClean core (s.tagged core rgx)
  let met (m : Miss) : Miss := if m.core == core then { m with acq := fs.filter (fun f => !m.acq.contains f) ++ m.acq } else m
  { s with ms := { s.ms with misses := s.ms.misses.map met } }
/-- The same for one fibre. -/
def State.acquireDrop (s : State) (f : Nat) (rgx : List Nat) : State := s.acquireDrops (coreOf f) [f] rgx

/-- Bytes of a core's first-level cache take written values and are clean, where they are held (R80); those of a poisoned
line go (R103). -/
def State.l1Update (s : State) (core : Nat) (cs : List (Nat × Byte)) : State :=
  (s.setL1 (cs.foldl (fun m c => kvMod (l1key core c.1) (fun b => { b with val := c.2, dirty := false }) m) s.ms.l1)).l1Unpoison
    core (linesOf cs)

/-- Bytes are dropped from a core's first-level cache. -/
def State.l1Drop (s : State) (core : Nat) (pas : List Nat) : State :=
  (s.setL1 (pas.foldl (fun m p => kvDel (l1key core p) m) s.ms.l1)).trimTags core

/-- The lines of bytes are written back before an access to them is performed below the first level (R80). -/
def State.flushLines (s : State) (core : Nat) (pas : List Nat) : State :=
  let ls := (pas.map lineOf).eraseDups
  s.writeback core ls.contains

/-- The RGX that a store or fill leaves on a line (R79, R88): the first one stays. -/
def State.tagLine (s : State) (core line rgx : Nat) (keep : Bool) : State :=
  let t := match s.l1TagOf core line with
    | some t => { t with keep := t.keep || keep }
    | none => ⟨rgx, keep⟩
  { s with ms := { s.ms with l1tag := kvSet (l1lineKey core line) t s.ms.l1tag } }

/-- A store into the first-level cache (R79): the line is allocated without a fetch. -/
def State.l1Store (s : State) (core rgx : Nat) (keep : Bool) (cs : List (Nat × Byte)) : State :=
  let s := (linesOf cs).foldl (fun s l => s.tagLine core l rgx keep) s
  s.setL1 (cs.foldl (fun m c =>
    let since := match kvGet (l1key core c.1) m with
      | some b => if b.dirty then b.at_ else s.clock
      | none => s.clock
    kvSet (l1key core c.1) ⟨c.2, true, since, s.moveSet⟩ m) s.ms.l1)

/-- A fill of a first-level line from the die's copy (R79): bytes that are not dirty. A poisoned line is not installed
(R103). -/
def State.l1Fill (s : State) (core line rgx : Nat) : State :=
  let s := s.share (dieOfCore core) line
  if s.ms.poison.contains line then s
  else
    let s := s.tagLine core line rgx false
    s.setL1 ((upto 128).foldl (fun m b =>
      let pa := line * 128 + b
      match kvGet (l1key core pa) m with
      | some x => if x.dirty then m else kvSet (l1key core pa) ⟨s.byte pa, false, s.clock, 0⟩ m
      | none => kvSet (l1key core pa) ⟨s.byte pa, false, s.clock, 0⟩ m) s.ms.l1)

/-! ## Release records (R85, R86) -/

/-- The incarnations of R105: dies at 0 to 7, cores from 8. -/
def State.coreInc (s : State) (core : Nat) : Nat := kvGetD (8 + core) 0 s.ms.inc
def State.dieInc (s : State) (die : Nat) : Nat := kvGetD die 0 s.ms.inc

/-- A drain request to a core and its acknowledgement, for an agent of a die (R87, R94). -/
def State.sendDrain (s : State) (die core : Nat) : State := (s.send die (dieOfCore core) 1).send (dieOfCore core) die 2

/-- A record is attached to a die's copy (R86); the trim at the end of the move brings a copy that then has too many to four. -/
def State.attach (s : State) (die line : Nat) (r : RelRec) : State :=
  let c := s.copyOf die line
  s.setCopy die line { c with recs := mergeRecs c.recs [r] }

/-- A record leaves a die's copy (R86, R107). -/
def State.dropRec (s : State) (die line : Nat) (r : RelRec) : State :=
  let c := s.copyOf die line
  s.setCopy die line { c with recs := c.recs.filter (· != r) }

/-- A record of a copy causes the drain that it names, as far as its lines' circuits let it, and goes once nothing of it is left
(R86, R97; log entry 61). -/
def State.drainRec (s : State) (die line : Nat) (r : RelRec) : State :=
  s.attempt fun s =>
    let s := (s.sendDrain die r.core).drainSome r.core r.rgx
    if s.undrained r.core r.rgx then s else s.dropRec die line r
/-- The same for all the records of a copy. -/
def State.drainRecs (s : State) (die line : Nat) : State :=
  (s.copyOf die line).recs.foldl (fun s r => s.drainRec die line r) s

/-! ## Holders and grants (R168 to R173) -/

/-- A holder of a die for a line; a holder with nothing is not listed. -/
def emptyHolder : Holder := ⟨Dy.zero, none, [], []⟩
def State.holder (s : State) (die line : Nat) : Holder := kvGetD (l2key die line) emptyHolder s.ms.holders
def State.setHolder (s : State) (die line : Nat) (h : Holder) : State :=
  { s with ms := { s.ms with holders := kvSetD (l2key die line) emptyHolder h s.ms.holders } }
def State.dropHolder (s : State) (die line : Nat) : State :=
  { s with ms := { s.ms with holders := kvDel (l2key die line) s.ms.holders } }

/-- Bytes of an element of a kind. -/
def BKind.bytes : BKind → Nat
  | .f32 => 4
  | _ => 2
def BKind.fmt : BKind → Fmt
  | .f32 => Sys2Proof.Machine.fp32
  | .f16 => Sys2Proof.Machine.fp16
  | .bf16 => Sys2Proof.Machine.bf16

/-- One partial sum applied to its element, as cells (R173). -/
def applySum (m : List Host.Cell) (line : Nat) (k : BKind) (e : Nat) (p : Word) : List (Nat × Byte) :=
  let a := line * 128 + e * k.bytes
  let x := leNat ((addrs a k.bytes).map (memGet m))
  cellsAt a (leBytes k.bytes (k.fmt.round .rne ((k.fmt.decode x).add (f32 p))))

/-- Partial sums applied at the home: one write that recalls every other copy (R173); where they meet poison they are
discarded, and the event is logged (R103). -/
def State.applySums (s : State) (line : Nat) (k : BKind) (sums : KV Word) : State :=
  if sums.isEmpty then s
  else if s.ms.poison.contains line then s.logLine 2 line
  else
    let die := homeOf s (line * 128)
    sums.foldl (fun s p => s.writeLine die line (applySum s.ms.mem line k p.1 p.2) false none) s

/-- A share comes back to the home; when the last has come the record goes (R169). -/
def State.giveBack (s : State) (die line : Nat) (share : Dy) : State :=
  match kvGet line s.ms.grants with
  | none => s
  | some g =>
    let shares := kvDel die g.shares
    let grants := if shares.isEmpty then kvDel line s.ms.grants
      else kvSet line { g with shares := shares, un := g.un.add share } s.ms.grants
    { s with ms := { s.ms with grants := grants } }

/-- The drains of one holder's line that are still on their way, in order. -/
def isDrainOf (die line : Nat) (p : Posted) : Bool :=
  match p.what with
  | .drain d l _ _ _ => d == die && l == line
  | _ => false

/-- A token of an incarnation that is over (R105). -/
def State.outdated (s : State) (p : Posted) : Bool :=
  p.dieInc != s.dieInc p.src || (match p.core with
    | some c => p.coreInc != s.coreInc c
    | none => false)

/-- Apply the drains of a holder's line that are on their way (R179: before a forced drain of the same holder); those of an
incarnation that is over are discarded (R105, R182). -/
def State.applyPosted (s : State) (die line : Nat) : State :=
  let ps := s.ms.posted.filter (isDrainOf die line)
  let s := { s with ms := { s.ms with posted := s.ms.posted.filter fun p => !isDrainOf die line p } }
  ps.foldl (fun s p => if s.outdated p then s else match p.what with
    | .drain d l k sums back =>
      let s := s.applySums l k sums
      (match back with
       | some x => s.giveBack d l x
       | none => s)
    | _ => s) s

/-- A forced drain (R172), on the writeback class: the holder's sums are applied at the home and its share is returned. -/
def State.forceDrain (s : State) (die line : Nat) : State :=
  let s := (s.send die (homeOf s (line * 128)) 3).applyPosted die line
  let h := s.holder die line
  let s := s.applySums line (h.kind.getD .f32) h.p
  (s.dropHolder die line).giveBack die line h.share

/-- A home's forced-drain request to a holder, on the forward class (R175), and the drain. -/
def State.askForced (s : State) (die line : Nat) : State := (s.send (homeOf s (line * 128)) die 1).forceDrain die line

/-- Forced drains of every holder with a share on the line (R178: as a read with ε = 0). -/
def State.drainLine (s : State) (line : Nat) : State :=
  match kvGet line s.ms.grants with
  | none => s
  | some g => (g.shares.map (·.1)).foldl (fun s d => s.askForced d line) s

/-- A drain of a line is on its way: its additions stand in no holder and not yet at the home, and a read of the line waits
for them (R176). -/
def Posted.drainsLine (line : Nat) (p : Posted) : Bool :=
  match p.what with
  | .drain _ l _ _ _ => l == line
  | _ => false
def State.awaitDrains (s : State) (line : Nat) : State :=
  if s.ms.posted.any (Posted.drainsLine line) then s.holdBack else s

/-- Every line that a die's holder keeps additions or a share for. -/
def State.heldLines (s : State) (die : Nat) : List Nat :=
  ((s.ms.holders.filter fun p => p.1 / 2 ^ 45 == die).map fun p => p.1 % 2 ^ 45) ++
  s.ms.posted.filterMap fun p => match p.what with
    | .drain d l _ _ _ => if d == die then some l else none
    | _ => none

/-- Forced drains of the lines of a die's holder (R180, R184): every line whose circuit lets its drain leave now (R97). -/
def State.drainDie (s : State) (die : Nat) : State :=
  (s.heldLines die).eraseDups.foldl (fun s l => s.attempt fun s => s.forceDrain die l) s
/-- A die's holder keeps nothing. -/
def State.drainedDie (s : State) (die : Nat) : Bool := (s.heldLines die).isEmpty

/-! ## Reads below the first level -/

/-- Any of the bytes lies in a poisoned line (R103). -/
def State.poisoned (s : State) (pas : List Nat) : Option Nat := pas.find? fun p => s.ms.poison.contains (lineOf p)

/-- Bytes read at a die's copies. -/
def State.readAt (s : State) (die : Nat) (pas : List Nat) : State × List Byte :=
  let s := ((pas.map lineOf).eraseDups).foldl (fun s l => s.share die l) s
  (s, pas.map s.byte)

/-- A scratchpad byte by core and partition offset. -/
def spKey (core off : Nat) : Nat := core * 2 ^ 21 + off
def State.spByte (s : State) (core off : Nat) : Byte := kvGetD (spKey core off) 0 s.ms.sp
def State.setSp (s : State) (core : Nat) (cs : List (Nat × Byte)) : State :=
  { s with ms := { s.ms with sp := cs.foldl (fun m c => kvSetD (spKey core c.1) 0 c.2 m) s.ms.sp } }

end Sys2Proof.Machine
end

