-- ==== Sys2Proof/Machine/Xlate.lean ====
section
/-! DEFINITION. Translation (R43 to R63, R70): the walk, the check of R57, the setting of A and D, the translation
caches, and the two ways an access uses them. A node of a fibre and a sequencer that miss wait for a walk of the die; an
operation that the part carries out as one step of the model (a copy, a fetch, a record) walks in that step (log entry
14). -/
namespace Sys2Proof.Machine

/-- What an access fails with: a cause and TVAL. -/
structure Bad where
  cause : Nat
  tval : Nat
  deriving DecidableEq, Repr

/-! ## The walk (R49) -/

/-- What a walk finds: nothing usable, or a leaf and the address of its entry. -/
inductive Walked where
  | absent
  | leaf (l : Leaf) (pa : Nat)
  deriving DecidableEq, Repr

/-- A dword of memory that the walk reads: none where the address is absent (R29) or poisoned. -/
def State.walkRead (s : State) (pa : Nat) : Option Nat :=
  if (placeOf s pa).isMem && !s.ms.poison.contains (lineOf pa) then some (leNat ((addrs pa 8).map s.byte)) else none

/-- The descriptor of a region, read with a leaf (R56): none where the table is not in the part's memory (R29, R44). -/
def State.readDesc (s : State) (c : Ctx) (rgx : Nat) : Option (List Dword) :=
  let a := c.rdt + 32 * rgx
  match s.walkRead a, s.walkRead (a + 8), s.walkRead (a + 16), s.walkRead (a + 24) with
  | some w, some x, some y, some z => some [BitVec.ofNat 64 w, BitVec.ofNat 64 x, BitVec.ofNat 64 y, BitVec.ofNat 64 z]
  | _, _, _, _ => none

/-- What a walk comes to: the table entries that it has read at levels 1 and 2 (R62), and what it finds. -/
structure WalkEnd where
  tables : List Cached
  res : Walked
  deriving DecidableEq, Repr

/-- A line that a walk of a die reads (R49): drained of withheld additions (R177: a page walk has q = 0), and held by the
die's second-level cache (R80, R89). -/
def State.walkLine (s : State) (die pa : Nat) : State :=
  if (placeOf s pa).isMem then (s.drainLine (lineOf pa)).share die (lineOf pa) else s

/-- The levels of a walk of a die from the table at t, so many of them left (R49). -/
def State.walkFrom (s : State) (die : Nat) (c : Ctx) (ctx va : Nat) : Nat → Nat → State × WalkEnd
  | 0, _ => (s, ⟨[], .absent⟩)
  | n + 1, t =>
    let lvl := 3 - n
    let a := t + 8 * (va % 2 ^ 58 / 2 ^ pageBits lvl % 2048)
    let s := s.walkLine die a
    match s.walkRead a with
    | none => (s, ⟨[], .absent⟩)
    | some e =>
      let first := vpage va / 2 ^ (pageBits lvl - 14) * 2 ^ (pageBits lvl - 14)
      if !bit e 0 then (s, ⟨[], .absent⟩)
      else if malformed s e lvl then (s, ⟨[], .absent⟩)
      else if bit e 1 then
        let s := s.walkLine die (c.rdt + 32 * bits e 59 54)
        match s.readDesc c (bits e 59 54) with
        | none => (s, ⟨[], .absent⟩)
        | some d => (s, ⟨[], .leaf ⟨ctx, lvl, first, BitVec.ofNat 64 e, d⟩ a⟩)
      else
        let next := bits e 51 14 * 2 ^ 14
        let (s, r) := s.walkFrom die c ctx va n next
        (s, if lvl = 0 then r else { r with tables := .table ctx lvl first next :: r.tables })

/-- A walk of a context for an address from level 0. PTROOT and RDT must lie in the part's memory (R44). -/
def State.walkWhole (s : State) (die ctx va : Nat) : State × WalkEnd :=
  let c := ctxOf s ctx
  if (placeOf s (c.root * 2 ^ 14)).isMem && (placeOf s c.rdt).isMem then s.walkFrom die c ctx va 4 (c.root * 2 ^ 14)
  else (s, ⟨[], .absent⟩)

/-- What a walk from level 0 would find now. -/
def State.walk (s : State) (ctx va : Nat) : Walked := (s.walkWhole 0 ctx va).2.res

/-! ## Permission (R57) -/

/-- A look at a page's format that is no access to it (R318). -/
def Need.none (n : Need) : Bool := !n.r && !n.w && !n.x

/-- A leaf grants an access: permissions, and a frame that exists and may be used (R29, R33). -/
def State.grants? (s : State) (l : Leaf) (va : Nat) (n : Need) : Bool :=
  n.none || (!n.r || l.r) && (!n.w || l.w) && (!n.x || l.x) &&
  (match placeOf s (l.pa va) with
   | .absent => false
   | .onchip off => (ctxOf s l.ctx).onchip && !n.x && chipOf s off != .absent
   | .peer => !n.x
   | .host => !n.x
   | _ => true)

/-- The cause of a permission failure and of a missing entry (R57). -/
def permCause (n : Need) : Nat := if n.x then 0x0C else 0x09
def absentCause (n : Need) : Nat := if n.x then 0x0C else 0x08

/-- A and D set in the entry (R50); the entry is a line of the part's memory, written as by any agent of the die. -/
def State.setAD (s : State) (die : Nat) (l : Leaf) (pa : Nat) (n : Need) : State × Leaf :=
  let e := l.pte ||| 0x200#64 ||| (if n.w then 0x400#64 else 0)
  if e == l.pte || n.none then (s, l)
  else (s.writeAt die (cellsAt pa (leBytes 8 e.toNat)) false none, { l with pte := e })

/-! ## Translation caches (R62) -/

/-- Entries that a unit's cache holds. -/
def tlbSize (u : Nat) : Nat := if u < 1000 then 128 else if u < 3000 then 32 else 4096

/-- The leaf of an entry. -/
def TlbEntry.leaf? (t : TlbEntry) : Option Leaf := match t.what with
  | .leaf l => some l
  | .table _ _ _ _ => none

/-- A leaf in one cache. -/
def State.tlbFind (s : State) (u ctx va : Nat) : Option Leaf :=
  s.ms.tlb.findSome? fun t => if t.unit == u then t.leaf?.filter fun l => l.covers ctx va else none

/-- The table to which an entry of a die's second-level cache leads for an address, if it was read at a level. -/
def TlbEntry.tableFor (t : TlbEntry) (lvl ctx va : Nat) : Option Nat := match t.what with
  | .table c l page next =>
    if c == ctx && l == lvl && page / 2 ^ (pageBits lvl - 14) == vpage va / 2 ^ (pageBits lvl - 14) then some next else none
  | .leaf _ => none
def State.tableFind (s : State) (die lvl ctx va : Nat) : Option Nat :=
  s.ms.tlb.findSome? fun t => if t.unit == 3000 + die then t.tableFor lvl ctx va else none

/-- Two entries stand for the same page or table of a context. -/
def Cached.sameTag : Cached → Cached → Bool
  | .leaf l, .leaf m => m.covers l.ctx (l.page * 2 ^ 14)
  | .table c l p _, .table d m q _ => c == d && l == m && p == q
  | _, _ => false

/-- An entry put into one cache; the oldest goes when the cache is full. -/
def State.tlbPut (s : State) (u : Nat) (x : Cached) : State :=
  let rest := s.ms.tlb.filter fun t => !(t.unit == u && x.sameTag t.what)
  let mine := rest.filter fun t => t.unit == u
  let kept := if tlbSize u ≤ mine.length then
      rest.filter fun t => t.unit != u || (mine.take (tlbSize u - 1)).contains t else rest
  { s with ms := { s.ms with tlb := ⟨u, x⟩ :: kept } }

/-- A leaf in a unit's cache and in its die's. -/
def State.tlbInstall (s : State) (u : Nat) (l : Leaf) : State := (s.tlbPut u (.leaf l)).tlbPut (3000 + dieOfUnit u) (.leaf l)

/-- A leaf that an access may use: it grants the access, D is set for a write (R50, R58), and nothing else in it fails the
access. -/
def State.useful (s : State) (va : Nat) (n : Need) (ok : Leaf → Bool) (l : Leaf) : Bool := s.grants? l va n && (!n.w || l.d) && ok l

/-- The cached leaf of an address: the unit's, else its die's. -/
def State.cachedLeaf (s : State) (u ctx va : Nat) : Option Leaf :=
  match s.tlbFind u ctx va with
  | some l => some l
  | none => s.tlbFind (3000 + dieOfUnit u) ctx va

/-- A cached leaf that an access may use: no fault is taken on a cached entry (R58). -/
def State.cached (s : State) (u ctx va : Nat) (n : Need) (ok : Leaf → Bool) : Option Leaf :=
  (s.cachedLeaf u ctx va).filter (s.useful va n ok)

/-- A translation cache miss is counted for the fibres' core or for the sequencer (R379). -/
def State.countMiss (s : State) (u ctx : Nat) : State :=
  if u < 1000 then s.count u ctx 7 else if 2000 ≤ u && u < 3000 then s.count (u - 1000) ctx 7 else s

/-- A cached leaf serves an access: one that only the die's cache holds is a miss of the unit's, which takes it (R62, R379). -/
def State.takeCached (s : State) (u ctx va : Nat) (l : Leaf) : State :=
  if (s.tlbFind u ctx va).isSome then s else (s.countMiss u ctx).tlbPut u (.leaf l)

/-! ## Walks of a die (R49, R62, R63) -/

/-- Where a walk of a die may start: levels left and table, from the deepest table entry that its cache holds. -/
def State.walkStart (s : State) (die ctx va : Nat) : Option (Nat × Nat) :=
  match s.tableFind die 2 ctx va, s.tableFind die 1 ctx va with
  | some t, _ => some (1, t)
  | none, some t => some (2, t)
  | none, none => none

/-- A walk of a die: from a cached table entry, and from level 0 where there is none, where it must be, or where what the
shorter walk finds would fail (R58). It answers the leaf and whether it started from level 0. -/
def State.walkDie (s : State) (die ctx va : Nat) (afresh : Bool) (good : Leaf → Bool) : State × Walked × Bool :=
  let keep (p : State × WalkEnd) : State := p.2.tables.foldl (fun s t => s.tlbPut (3000 + die) t) p.1
  let whole (s : State) : State × Walked × Bool := let p := s.walkWhole die ctx va; (keep p, p.2.res, true)
  match if afresh then none else s.walkStart die ctx va with
  | none => whole s
  | some (n, t) =>
    let p := s.walkFrom die (ctxOf s ctx) ctx va n t
    match p.2.res with
    | .leaf l pa => if good l then (keep p, .leaf l pa, false) else whole p.1
    | .absent => whole p.1

/-! ## The answers of walks (R63) -/

/-- The answers for an agent. -/
def State.freshOf (s : State) (agent : Nat) : List Fresh := (s.ms.fresh.filter fun p => p.1 == agent).map (·.2)
def State.addFresh (s : State) (agent : Nat) (x : Fresh) : State :=
  { s with ms := { s.ms with fresh := s.ms.fresh ++ [(agent, x)] } }
/-- An agent's answers are used up, and it waits for nothing. -/
def State.clearFresh (s : State) (agent : Nat) : State :=
  { s with ms := { s.ms with
      fresh := s.ms.fresh.filter fun p => p.1 != agent
      walks := s.ms.walks.map fun w => { w with waiters := w.waiters.filter fun x => x.agent != agent }
      ats := s.ms.ats.map fun a => { a with waiters := a.waiters.filter fun x => x.agent != agent }
      fills := s.ms.fills.map fun f => { f with agents := f.agents.filter fun x => x != agent }
      missq := s.ms.missq.filter fun m => m.2 != agent
      breads := s.ms.breads.filter fun b => b.agent != agent } }

/-- A fresh leaf for an address. -/
def freshLeaf (fs : List Fresh) (ctx va : Nat) : Option (Leaf × Bool) :=
  fs.reverse.findSome? fun x => match x with
    | .leaf l whole => if l.covers ctx va then some (l, whole) else none
    | _ => none
/-- A failure for an address of the same 16 KiB page. -/
def freshFail (fs : List Fresh) (va : Nat) : Option Bad :=
  fs.findSome? fun x => match x with
    | .fail c t => if t.toNat / 2 ^ 14 == va / 2 ^ 14 then some ⟨c.toNat, t.toNat⟩ else none
    | _ => none

/-- What one request of a walk learns: it checks its own permissions, and A and D are set for it if they pass (R49, R50,
R63). The leaf goes on with them to the next. A look at a format (R318) sets nothing, and leaves in no cache a leaf with A = 0, so
that its access sets A (R50). -/
def State.serve (die va : Nat) (whole : Bool) (p : State × Walked) (x : Waiter) : State × Walked :=
  match p.2 with
  | .absent => (p.1.addFresh x.agent (.fail (BitVec.ofNat 8 (absentCause x.need)) (BitVec.ofNat 64 x.va)), p.2)
  | .leaf l pa =>
    let (s, l) := if p.1.grants? l va x.need then p.1.setAD die l pa x.need else (p.1, l)
    let s := if x.need.none && !l.a then s else s.tlbInstall x.unit l
    (s.addFresh x.agent (.leaf l whole), .leaf l pa)

/-- A walk that has read its entries serves its requests. -/
def State.endWalk (s : State) (w : Walk) : State :=
  let s := { s with ms := { s.ms with walks := s.ms.walks.filter (· != w) } }
  let va := w.page * 2 ^ 14
  let (s, r, whole) := s.walkDie w.die w.ctx va (w.restart || w.waiters.any (·.afresh)) fun l => w.waiters.all fun x => s.grants? l va x.need
  (w.waiters.foldl (State.serve w.die va whole) (s, r)).1

/-- Walkers of a die (R62). -/
def walkers : Nat := 32
/-- A walk of the list has a walker: fewer than 32 walks of its die came before it (R63). -/
def State.hasWalker (s : State) (i : Nat) : Bool :=
  match s.ms.walks[i]? with
  | some w => decide (((s.ms.walks.take i).filter fun x => x.die == w.die).length < walkers)
  | none => false

/-- The walks of a die that end before an agent that does not wait goes on: that of its page, whose result serves it too, and
those that must leave a walker free for it (R63; log entry 14). -/
def State.walksBefore (s : State) (die ctx page : Nat) : List Walk :=
  let mine := s.ms.walks.filter fun w => w.die == die
  match mine.findIdx? fun w => w.ctx == ctx && w.page == page with
  | some k => mine.take (k + 1 - walkers) ++ (mine.drop k).take 1
  | none => mine.take (mine.length + 1 - walkers)
/-- For whom an agent that waits acts. -/
def agentCur (agent : Nat) : Agent := if 10 ^ 12 ≤ agent then .seq (agent - 10 ^ 12) else .node (agent / 128) (agent % 128)
/-- For whom a walk is made: the first request that it serves. -/
def Walk.cur (w : Walk) : Agent := match w.waiters with
  | x :: _ => agentCur x.agent
  | [] => .none

/-- The walks before an agent end, each on the circuits of the job for which it is made (R94, R95). -/
def State.freeWalker (s : State) (die ctx page : Nat) : State :=
  (s.walksBefore die ctx page).foldl (fun s w => s.asAgent w.cur fun s => s.endWalk w) s

/-! ## Translation in one step -/

/-- A translation by an agent that does not wait: the cached leaf, or the leaf of the walk that its page has outstanding with A
set, or of a walk made now (R50); `ok` is what else the access asks of a leaf, so that no cached one fails it (R58). The aperture is none of
its business. -/
def State.xlate (s : State) (u ctx va : Nat) (n : Need) (ok : Leaf → Bool := fun _ => true) : State × Except Bad Leaf :=
  if !canonical va then (s, .error ⟨permCause n, va⟩)
  else match s.cached u ctx va n ok with
    | some l => (s.takeCached u ctx va l, .ok l)
    | none =>
      let die := dieOfUnit u
      let afresh := (s.cachedLeaf u ctx va).isSome
      let s := (s.freeWalker die ctx (vpage va)).countMiss u ctx
      match (s.cached u ctx va n ok).filter (·.a) with
      | some l => (s.tlbPut u (.leaf l), .ok l)
      | none => match s.walkDie die ctx va afresh fun l => s.grants? l va n && ok l with
        | (s, .absent, _) => (s, .error ⟨absentCause n, va⟩)
        | (s, .leaf l pa, _) =>
          if s.grants? l va n then
            let (s, l) := s.setAD die l pa n
            (s.tlbInstall u l, .ok l)
          else (s.tlbInstall u l, .error ⟨permCause n, va⟩)

/-! ## Translation by an agent that waits (R63) -/

/-- What a waiting agent's translation has come to. -/
inductive Xl where
  | wait
  | ok (l : Leaf)
  | bad (b : Bad)
  deriving DecidableEq, Repr

/-- A waiter among others, once. -/
def addWaiter (ws : List Waiter) (w : Waiter) : List Waiter := if ws.contains w then ws else ws ++ [w]

/-- A request joins the walk of its die for its page, or starts one (R63). -/
def joinWalks (die ctx page : Nat) (w : Waiter) : List Walk → List Walk
  | [] => [⟨die, ctx, page, [w], false⟩]
  | x :: r =>
    if x.die == die && x.ctx == ctx && x.page == page then { x with waiters := addWaiter x.waiters w } :: r
    else x :: joinWalks die ctx page w r
def State.joinWalk (s : State) (die ctx page : Nat) (w : Waiter) : State :=
  { s with ms := { s.ms with walks := joinWalks die ctx page w s.ms.walks } }

/-- A node or a sequencer asks for a walk and waits. `miss` says that it is the first walk of a look-up; a walk made again
because a cached leaf cannot serve the access is a miss too (R379; log entry 21). -/
def State.askWalk (s : State) (agent u ctx va : Nat) (n : Need) (afresh miss : Bool) : State × Xl :=
  let w : Waiter := ⟨agent, u, n, va / 2 ^ 14 * 2 ^ 14, afresh⟩
  let s := if !miss || (s.ms.walks.any fun x => x.ctx == ctx && x.page == vpage va && x.waiters.contains w) then s else s.countMiss u ctx
  (s.joinWalk (dieOfUnit u) ctx (vpage va) w, .wait)

/-- A translation by a node or a sequencer: a cached leaf, the answer of a walk, or waiting; `ok` as in State.xlate. -/
def State.xlateWait (s : State) (agent u ctx va : Nat) (n : Need) (ok : Leaf → Bool := fun _ => true) : State × Xl :=
  if !canonical va then (s, .bad ⟨permCause n, va⟩)
  else match s.cached u ctx va n ok with
    | some l => (s.takeCached u ctx va l, .ok l)
    | none =>
      let fs := s.freshOf agent
      match freshLeaf fs ctx va with
      | some (l, whole) =>
        let unset := s.grants? l va n && !n.none && !l.a
        if s.useful va n ok l && !unset then (s, .ok l)
        else if !whole || (s.grants? l va n && n.w && !l.d) || unset then s.askWalk agent u ctx va n true !unset
        else (s, if s.grants? l va n then .ok l else .bad ⟨permCause n, va⟩)
      | none => match freshFail fs va with
        | some b => (s, .bad ⟨b.cause, va⟩)
        | none => s.askWalk agent u ctx va n (s.cachedLeaf u ctx va).isSome true

/-! ## The host aperture (R70) -/

/-- Host-aperture addresses of a context with ATS: the translation on LD0, if it is held. -/
def State.atcFind (s : State) (func page : Nat) (w : Bool) : Option AtsEntry :=
  s.ms.atc.find? fun a => a.func == func && a.page == page && (a.w || !w)

/-- A request joins the ATS request of its function and page from a context with the same PRI bit, or starts one. -/
def joinAts (func page : Nat) (pri : Bool) (w : Waiter) : List AtsReq → List AtsReq
  | [] => [⟨func, page, pri, none, [w]⟩]
  | x :: r =>
    if x.func == func && x.page == page && x.usePri == pri then { x with waiters := addWaiter x.waiters w } :: r
    else x :: joinAts func page pri w r

/-- The translation that an access of a fibre uses is remembered until the access has completed (R70). -/
def State.useAts (s : State) (agent func page : Nat) : State :=
  let x := (agent / 128, func, page)
  if 10 ^ 12 ≤ agent || s.ms.atsUsed.contains x then s else { s with ms := { s.ms with atsUsed := x :: s.ms.atsUsed } }

/-- The host's refusal of a request, if it is among an agent's answers: the cause (R70). -/
def freshRefused (fs : List Fresh) (func page : Nat) (pri w : Bool) : Option Nat :=
  fs.findSome? fun x => match x with
    | .refused fn p q v c => if fn == func && p == page && q == pri && v == w then some c.toNat else none
    | _ => none

/-- The host address of a host-aperture access: untranslated without ATS; otherwise the translation, waiting, or its
failure. -/
def State.hostAddr (s : State) (agent u ctx va pa : Nat) (n : Need) : State × Except Bad (Option Nat) :=
  let c := ctxOf s ctx
  let ha := pa % 2 ^ 51
  if !c.ats then (s, .ok (some ha))
  else match s.atcFind c.func (ha / 4096) n.w with
    | some a => (s.useAts agent c.func (ha / 4096), .ok (some (a.pa + ha % 4096)))
    | none =>
      match freshRefused (s.freshOf agent) c.func (ha / 4096) c.pri n.w with
      | some x => (s, .error ⟨x, va⟩)
      | none => ({ s with ms := { s.ms with ats := joinAts c.func (ha / 4096) c.pri ⟨agent, u, n, va / 2 ^ 14 * 2 ^ 14, false⟩ s.ms.ats } }, .ok none)

end Sys2Proof.Machine
end

