-- ==== Sys2Proof/Machine/Fetch.lean ====
section
/-! DEFINITION. Instruction and configuration fetch on a core (R42, R211, R213, R469 to R471). -/
namespace Sys2Proof.Machine

/-- What a fetch needs. -/
def needX : Need := ⟨false, false, true⟩
def needR : Need := ⟨true, false, false⟩
def needW : Need := ⟨false, true, false⟩
def needRW : Need := ⟨true, true, false⟩

/-- A core's fabric; one that has run nothing. -/
def emptyFabric : Fabric := ⟨[], [], [], [], [], [], [], none⟩
def State.fabric (s : State) (core : Nat) : Fabric := kvGetD core emptyFabric s.fab.cores
def State.setFabric (s : State) (core : Nat) (f : Fabric) : State :=
  { s with fab := { s.fab with cores := kvSetD core emptyFabric f s.fab.cores } }

/-- A line of a core's instruction cache. -/
def Fabric.line? (f : Fabric) (ctx line : Nat) : Option ILine := f.ilines.find? fun l => l.ctx == ctx && l.line == line

/-- The set of a line in the instruction cache: 512 lines, 8 ways to a set (R469; log entry 62). -/
def ILine.set (l : ILine) : Nat := Config.icSet l.ctx l.line % 64

/-- A line put into the cache; the least recently used of a full set goes (R469). -/
def Fabric.putLine (f : Fabric) (l : ILine) : Fabric :=
  let rest := f.ilines.filter fun x => !(x.ctx == l.ctx && x.line == l.line)
  let rest := if rest.length < 8 then rest
    else
      let ways := rest.filter fun x => x.set == l.set
      if ways.length < 8 then rest
      else match minBy (·.used) ways with
        | some x => rest.erase x
        | none => rest
  { f with ilines := l :: rest }

/-- The translation of a virtual line for fetch: for X, the page's region not forbidding the line (R54; log entry 96). -/
def State.fetchLeaf (s : State) (unit ctx line : Nat) : State × Option Leaf :=
  let va := line * 128 % 2 ^ 64
  if (ctxOf s ctx).inAperture va then (s, none)
  else match s.xlate unit ctx va needX (Leaf.permits [va, va + 127]) with
    | (s, .error _) => (s, none)
    | (s, .ok l) => (s, if l.permits [va, va + 127] then some l else none)

/-- The bytes of a virtual line for fetch (R42, R469): translated, from the part's memory only, not poisoned. The
answer says whether it may be fetched; a failing line has cause 0x0C. -/
def State.fetchNow (s : State) (unit die ctx line : Nat) : State × Option (List Byte) :=
  match s.fetchLeaf unit ctx line with
  | (s, none) => (s, none)
  | (s, some l) =>
    let pa := l.pa (line * 128)
    if (placeOf s pa).isMem && !s.ms.poison.contains (lineOf pa) then
      let (s, bs) := s.readAt die (addrs pa 128)
      (s, some bs)
    else (s, none)

/-- The same, on the circuits of the job that owns the context (R94, R95). -/
def State.fetchBytes (s : State) (unit die ctx line : Nat) : State × Option (List Byte) :=
  s.readOnSet (s.setOf (ctxOf s ctx).job) fun s => s.fetchNow unit die ctx line

/-- A fetch of a virtual line passes its translation, so its fill starts (R469); the fill itself may still meet poison. -/
def State.fetchStarts (s : State) (unit ctx line : Nat) : Bool :=
  match (s.fetchLeaf unit ctx line).2 with
  | none => false
  | some l => (placeOf s (l.pa (line * 128))).isMem

/-- A line that a build awaited has come, with its bytes, or has failed. -/
def Build.got (ctx line : Nat) (bytes : Option (List Byte)) (b : Build) : Build :=
  if b.ctx == ctx && b.lines.contains line then
    let b := { b with lines := b.lines.erase line }
    match bytes with
    | some bs => { b with read := kvSet line bs b.read }
    | none => { b with failed := b.failed ++ [line] }
  else b

/-- A build that has read or asked for what has changed starts again from its first line (R469). -/
def Build.again (b : Build) : Build := { b with lines := [], failed := [], read := [] }

/-- A fill of an absent line ends, for everything that has joined it (R469, R471): it counts where a build's read has started it,
and a failure leaves no trace where no build waits for the line. -/
def State.finishFill (s : State) (core : Nat) (x : IFill) : State × Option (List Byte) :=
  let fb := s.fabric core
  let s := s.setFabric core { fb with ifills := fb.ifills.filter fun y => !(y.ctx == x.ctx && y.line == x.line) }
  let s := if x.counted && s.fetchStarts core x.ctx x.line then s.count core x.ctx 5 else s
  let tell (bytes : Option (List Byte)) (fb : Fabric) : Fabric := { fb with builds := fb.builds.map (Build.got x.ctx x.line bytes) }
  match s.fetchBytes core (dieOfCore core) x.ctx x.line with
  | (t, some bs) => (t.setFabric core (tell (some bs) ((t.fabric core).putLine ⟨x.ctx, x.line, bs, t.clock⟩)), some bs)
  | (t, none) =>
    let t := if x.forBuild then t else s
    (t.setFabric core (tell none (t.fabric core)), none)

/-- A line as a build reads it (R469): from the instruction cache; joined to the fill of it that is outstanding; or filled. -/
def State.fetchLine (s : State) (core ctx line : Nat) : State × Option (List Byte) :=
  match (s.fabric core).line? ctx line with
  | some l => (s.setFabric core ((s.fabric core).putLine { l with used := s.clock }), some l.bytes)
  | none => s.finishFill core (match (s.fabric core).ifills.find? fun y => y.ctx == ctx && y.line == line with
    | some y => { y with forBuild := true }
    | none => ⟨ctx, line, true, true⟩)

/-- The lines that hold n words from a word address. -/
def codeLines (a n : Nat) : List Nat := ((upto n).map fun i => (a + 4 * i) % 2 ^ 64 / 128).eraseDups

/-- The words at an address, out of lines. -/
def wordsFrom (a n : Nat) (ls : List (Nat × List Byte)) : List Word :=
  wordsOfBytes ((upto (4 * n)).map fun i =>
    let b := (a + i) % 2 ^ 64
    match ls.find? fun l => l.1 == b / 128 with
    | some l => l.2.getD (b % 128) 0
    | none => 0)

/-- Words fetched through the instruction cache: all of them, or the lines that failed. -/
def State.fetchWords (s : State) (core ctx a n : Nat) : State × Except (List Nat) (List Word) :=
  let (s, got, bad) := (codeLines a n).foldl (fun (p : State × List (Nat × List Byte) × List Nat) l =>
    match p.1.fetchLine core ctx l with
    | (s, some bs) => (s, p.2.1 ++ [(l, bs)], p.2.2)
    | (s, none) => (s, p.2.1, p.2.2 ++ [l])) (s, [], [])
  if bad.isEmpty then (s, .ok (wordsFrom a n got)) else (s, .error bad)

/-- A header address that can be fetched at all: canonical and a multiple of 4 (R220). -/
def goodTarget (a : Nat) : Bool := canonical a && a % 4 == 0

/-- The header words read when a waiting set is created (R213). -/
def State.readHeader (s : State) (core ctx hdr : Nat) : State × Option (List Word) :=
  if goodTarget hdr then
    match s.fetchWords core ctx hdr 4 with
    | (s, .ok ws) => (s, some ws)
    | (s, .error _) => (s, none)
  else (s, none)

/-- The words at a sequencer's PC, up to the first that cannot be read, and that one's address (R342). -/
def State.seqFetch (s : State) (cl ctx pc : Nat) : Nat → State × List Word × Option Nat
  | 0 => (s, [], none)
  | n + 1 => match s.fetchBytes (2000 + cl) (cl / 20) ctx (pc % 2 ^ 64 / 128) with
    | (s, none) => (s, [], some pc)
    | (s, some bs) =>
      let (s, r, bad) := s.seqFetch cl ctx ((pc + 4) % 2 ^ 64) n
      (s, wordsOfBytes (bs.drop (pc % 128) |>.take 4) ++ r, bad)

/-! ## Header fields (R242, R243) -/

def hdrIsHeader (w : Word) : Bool := w.toNat / 2 ^ 27 == 1
def hdrN (w : Word) : Nat := bits w.toNat 26 20
def hdrCtail (w : Word) : Bool := bit w.toNat 19
def hdrEntry (w : Word) : Bool := bit w.toNat 18
def hdrCallee (w : Word) : Bool := bit w.toNat 17
def hdrTraph (w : Word) : Bool := bit w.toNat 16
def hdrEmul (w : Word) : Bool := bit w.toNat 15
def hdrJoinb (w : Word) : Bool := bit w.toNat 14

/-- Whether the masks of a header declare slot i live-in, and trap on it when empty (R243). -/
def liveIn (ws : List Word) (i : Nat) : Bool :=
  if i < 32 then bit (ws.getD 1 0).toNat i else bit (ws.getD 3 0).toNat (i - 32)
def trapIn (ws : List Word) (i : Nat) : Bool :=
  liveIn ws i && (if i < 32 then bit (ws.getD 2 0).toNat i else bit (ws.getD 3 0).toNat (i - 16))

end Sys2Proof.Machine
end

