-- ==== Sys2Proof/Machine/Block.lean ====
section
/-! DEFINITION. Blocks as configured (R208 to R210, R247): the nodes of a body, what each reads and writes, whether a
block is configurable, and how many regions it takes. -/
namespace Sys2Proof.Machine

/-! ## What an instruction reads and writes -/

/-- The v value after an even one, for the 16-byte forms (R316). -/
def nextV : Operand → Operand
  | .v k => .v (k + 1)
  | o => o
def nextD : Dest → Dest
  | .v k => .v (k + 1)
  | o => o

/-- The source operands of an instruction that is not among the computing instructions of `Parsed`, as fields A, B, C
and then a D that is read. -/
def wholeSrcs : Instr → List Operand
  | .brt p _ => [p]
  | .brf p _ => [p]
  | .bri a => [a]
  | .calli a _ => [a]
  | .fork _ a b => [a, b]
  | .winb a => [a]
  | .steer _ a p => [a, p]
  | .merge _ a b p => [a, b, p]
  | .sel _ a b p => [a, b, p]
  | .pset a _ => [a]
  | .yield a => [a]
  | .launch _ a b => [a, b]
  | .efork _ a b => [a, b]
  | .sequencerRdv a _ => [a]
  | .cancel _ a _ => [a]
  | .shfl _ a b => [a, b]
  | .vote _ a _ => [a]
  | .icmp _ _ _ a b => [a, b]
  | .addi _ _ a _ => [a]
  | .andi _ _ a _ => [a]
  | .ori _ _ a _ => [a]
  | .shli _ a _ => [a]
  | .shri _ a _ => [a]
  | .sari _ a _ => [a]
  | .rotli _ a _ => [a]
  | .hadd _ _ a b => [a, b]
  | .hsub _ _ a b => [a, b]
  | .hmul _ _ a b => [a, b]
  | .hfma _ _ a b c => [a, b, c]
  | .hmin _ _ a b => [a, b]
  | .hmax _ _ a b => [a, b]
  | .hneg _ _ a => [a]
  | .habs _ _ a => [a]
  | .hdot2 _ _ a b c => [a, b, c]
  | .ld _ _ _ a _ => [a]
  | .ldFmt _ _ a _ => [a]
  | .st _ sz x a _ => if sz = 6 then [a, x, nextV x] else [a, x]
  | .stFmt _ x a _ => [a, x]
  | .atomLoad _ _ _ _ a => [a]
  | .atomStore _ _ _ a b => [a, b]
  | .atomAdd _ _ _ _ a b => [a, b]
  | .atomSub _ _ _ _ a b => [a, b]
  | .atomAnd _ _ _ _ a b => [a, b]
  | .atomOr _ _ _ _ a b => [a, b]
  | .atomXor _ _ _ _ a b => [a, b]
  | .atomMin _ _ _ _ a b => [a, b]
  | .atomMax _ _ _ _ a b => [a, b]
  | .atomMinn _ _ _ _ a b => [a, b]
  | .atomMaxn _ _ _ _ a b => [a, b]
  | .atomSwap _ _ _ _ a b => [a, b]
  | .atomCas _ _ _ _ a b c => [a, b, c]
  | .atomInc _ _ _ _ a b => [a, b]
  | .atomDec _ _ _ _ a b => [a, b]
  | .atomFadd _ _ _ _ a b => [a, b]
  | .atomFmin _ _ _ _ a b => [a, b]
  | .atomFmax _ _ _ _ a b => [a, b]
  | .atomHadd2F16 _ _ _ _ a b => [a, b]
  | .atomHadd2Bf16 _ _ _ _ a b => [a, b]
  | .redAdd _ _ _ a b => [a, b]
  | .redAnd _ _ _ a b => [a, b]
  | .redOr _ _ _ a b => [a, b]
  | .redXor _ _ _ a b => [a, b]
  | .redMin _ _ _ a b => [a, b]
  | .redMax _ _ _ a b => [a, b]
  | .redMinn _ _ _ a b => [a, b]
  | .redMaxn _ _ _ a b => [a, b]
  | .redFadd _ _ _ a b => [a, b]
  | .redHadd2F16 _ _ _ a b => [a, b]
  | .redHadd2Bf16 _ _ _ a b => [a, b]
  | .spmap a b c => [a, b, c]
  | .spunmap _ a => [a]
  | .spwb _ a b => [a, b]
  | .spinv a b => [a, b]
  | .spcpy _ a b c => [a, b, c]
  | .spfill _ a b c => [a, b, c]
  | .pref a _ => [a]
  | .ipref a _ => [a]
  | .cpy _ a b c => [a, b, c]
  | .cpyr _ a b => [a, b]
  | .cpyp _ a b => [a, b]
  | .cpyg _ a b => [a, b]
  | .wany _ a => [a]
  | .wall _ a => [a]
  | .ffr _ a => [a]
  | .tagclr _ a => [a]
  | .mma ctl a b => [a, b, ctl]
  | .mdelta ctl a b => [a, b, ctl]
  | .mscan ctl a b => [a, b, ctl]
  | .mout ctl a => [a, ctl]
  | .mlda ctl a => [a, ctl]
  | .mzero a _ => [a]
  | .mpin _ a b => [a, b]
  | .munpin a => [a]
  | .mspill a b => [a, b]
  | .mfill a b => [a, b]
  | .mwait a => [a]
  | .mown _ a => [a]
  | .wrsr _ a => [a]
  | .clock _ a => [a]
  | .trap a => [a]
  | .resumeSkip a => [a]
  | .emulret a => [a]
  | _ => []

/-- The destinations of such an instruction. -/
def wholeDests : Instr → List Dest
  | .fork d _ _ => [d]
  | .steer d _ _ => [d]
  | .merge d _ _ _ => [d]
  | .sel d _ _ _ => [d]
  | .pget d _ => [d]
  | .pset _ _ => [.pw]
  | .launch d _ _ => [d]
  | .efork d _ _ => [d]
  | .cancel d _ _ => [d]
  | .shfl d _ _ => [d]
  | .vote d _ _ => [d]
  | .icmp _ _ d _ _ => [d]
  | .addi _ d _ _ => [d]
  | .andi _ d _ _ => [d]
  | .ori _ d _ _ => [d]
  | .shli d _ _ => [d]
  | .shri d _ _ => [d]
  | .sari d _ _ => [d]
  | .rotli d _ _ => [d]
  | .lhi d _ => [d]
  | .pchi d _ => [d]
  | .hadd _ d _ _ => [d]
  | .hsub _ d _ _ => [d]
  | .hmul _ d _ _ => [d]
  | .hfma _ d _ _ _ => [d]
  | .hmin _ d _ _ => [d]
  | .hmax _ d _ _ => [d]
  | .hneg _ d _ => [d]
  | .habs _ d _ => [d]
  | .hdot2 _ d _ _ _ => [d]
  | .ld _ sz d _ _ => if sz = 6 then [d, nextD d] else [d]
  | .ldFmt _ d _ _ => [d]
  | .atomLoad _ _ _ d _ => [d]
  | .atomAdd _ _ _ d _ _ => [d]
  | .atomSub _ _ _ d _ _ => [d]
  | .atomAnd _ _ _ d _ _ => [d]
  | .atomOr _ _ _ d _ _ => [d]
  | .atomXor _ _ _ d _ _ => [d]
  | .atomMin _ _ _ d _ _ => [d]
  | .atomMax _ _ _ d _ _ => [d]
  | .atomMinn _ _ _ d _ _ => [d]
  | .atomMaxn _ _ _ d _ _ => [d]
  | .atomSwap _ _ _ d _ _ => [d]
  | .atomCas _ _ _ d _ _ _ => [d]
  | .atomInc _ _ _ d _ _ => [d]
  | .atomDec _ _ _ d _ _ => [d]
  | .atomFadd _ _ _ d _ _ => [d]
  | .atomFmin _ _ _ d _ _ => [d]
  | .atomFmax _ _ _ d _ _ => [d]
  | .atomHadd2F16 _ _ _ d _ _ => [d]
  | .atomHadd2Bf16 _ _ _ d _ _ => [d]
  | .wany d _ => [d]
  | .wall d _ => [d]
  | .ffr d _ => [d]
  | .tags d => [d]
  | .tagclr d _ => [d]
  | .mpin d _ _ => [d]
  | .mown d _ => [d]
  | .rdsr d _ => [d]
  | .clock d _ => [d]
  | .perfc d _ => [d]
  | .laneid d => [d]
  | _ => []

/-- The source operands of an instruction. -/
def srcsOf : Parsed → List Operand
  | .whole i => wholeSrcs i
  | .op2 _ _ a b => [a, b]
  | .op1 _ _ a => [a]
  | .op3 _ _ a b c => [a, b, c]
  | .op2c _ _ a c => [a, c]
  | .opK _ _ a _ => [a]

/-- The destinations of an instruction. -/
def destsOf : Parsed → List Dest
  | .whole i => wholeDests i
  | .op2 _ d _ _ => [d]
  | .op1 _ d _ => [d]
  | .op3 _ d _ _ _ => [d]
  | .op2c _ d _ _ => [d]
  | .opK _ d _ _ => [d]

/-- The transfers and terminators of R208. -/
def isTransfer : Parsed → Bool
  | .whole i => match i with
    | .jmp _ => true
    | .brt _ _ => true
    | .brf _ _ => true
    | .call _ _ => true
    | .tramp _ => true
    | .trampLink _ _ => true
    | .bri _ => true
    | .calli _ _ => true
    | .ret => true
    | .exit => true
    | .yield _ => true
    | .resumeRetry => true
    | .resumeSkip _ => true
    | .emulret _ => true
    | _ => false
  | _ => false

/-- BAR, ARRIVE and AWAIT (R209). -/
def isBarrier : Parsed → Bool
  | .whole (.bar _) => true
  | .whole (.arrive _) => true
  | .whole (.await _) => true
  | _ => false

/-- What a block may write only once beside operands (R247, R263): WINB, and the special register of a WRSR. -/
def singleWrite : Parsed → Option Nat
  | .whole (.winb _) => some 1000
  | .whole (.wrsr n _) => some n.toNat
  | _ => none

/-! ## Nodes -/

/-- The kinds of node (R210). -/
inductive NodeKind where
  | int | fp | sfu | mem
  deriving DecidableEq, Repr

/-- A first word of FMADSAT or CVT16Z: a cullet takes an integer node, whatever its major (R210, R248). -/
def floatCullet (w : Word) : Bool := (fOp w == 0x12 || fOp w == 0x14) && fFn w == 0x3F

/-- The kind of node that an instruction takes, by its first word. -/
def kindOf (w : Word) : NodeKind :=
  let m := fOp w
  if floatCullet w then .int
  else if m = 0x12 ∨ m = 0x13 ∨ m = 0x14 then .fp
  else if m = 0x15 then .sfu
  else if 0x16 ≤ m ∧ m ≤ 0x1C then .mem
  else .int

/-- Nodes of a kind in one region (R210, R12). -/
def capacity : NodeKind → Nat
  | .int => 16
  | .fp => 10
  | .sfu => 2
  | .mem => 4

/-- A place in a body where an instruction begins: its index, its first word, what stands there, and, of an instruction that is
refused for one of its fields, the instruction that it is but for that field. -/
structure BodyNode where
  eidx : Nat
  word : Word
  what : Except DecodeError Parsed
  like : Option Parsed

/-- A word with another value in a field of seven bits. -/
def fieldWith (w : Word) (sh c : Nat) : Word := BitVec.ofNat 32 (w.toNat - w.toNat / 2 ^ sh % 128 * 2 ^ sh + c * 2 ^ sh)
/-- A word as it is, and with `zero` or 0 in a field. -/
def fieldTries (w : Word) (sh : Nat) : List Word := [w, fieldWith w sh 120, fieldWith w sh 0]

/-- The same for the destination field, which PSET needs to be `pw` and WRSR to number a register that may be written. -/
def destTries (w : Word) : List Word := fieldTries w 20 ++ [fieldWith w 20 127, fieldWith w 20 1]
/-- The same for field B, which RESUME needs to be 0 or 1. -/
def bTries (w : Word) : List Word := fieldTries w 6 ++ [fieldWith w 6 1]

/-- The words after a first word, as they are, with an extension word that names nothing or whose C is unused, and with words supplied where the body
ends too soon; with the number of words supplied before them. -/
def restTries (r : List Word) : List (Nat × List Word) :=
  (0, r) :: ((match r with
    | x :: t => if fOp x = 0x1F then [(0, packX (fD x) 0 :: t), (0, packX 120 0 :: t), (0, packX 0 0 :: t)] else []
    | [] => []) ++ [(0, r ++ [0, 0, 0]), (1, packX 120 0 :: r ++ [0, 0, 0])])

/-- The instruction that a refused one is but for its offending fields, and how many of the words after the first are its
extension and literal words, which are never decoded (R240); `sq` asks for an instruction of sequencer code. A D that may not stand
there is `zero` in it, and counts as no writer (log entry 15): it is the first field tried, alone. -/
def likeOf (sq : Bool) (w : Word) (r : List Word) : Option (Parsed × Nat) :=
  ((destTries w ++ ((destTries w).flatMap fun w => (fieldTries w 13).flatMap bTries)).flatMap fun w =>
    (restTries r).map fun x => (w, x)).findSome? fun t => match parseOk sq (t.1 :: t.2.2) with
      | .ok (p, rest) => some (p, min r.length (t.2.2.length - rest.length - t.2.1))
      | .error _ => none

/-- How many of the words behind a word that is no instruction of fibre code belong to it: those of the MAT instruction that it is, or
none (log entry 15). -/
def wordsBehind (w : Word) (r : List Word) : Nat := if seqWord w then ((likeOf true w r).map (·.2)).getD 0 else 0

/-- The nodes of a body. A MAT instruction stands for nothing in fibre code, and its extension and literal words are its own (R240,
R359). After a word that is no instruction of any fields the next word is looked at (log entry 15). -/
def bodyNodes : Nat → Nat → List Word → List BodyNode
  | 0, _, _ => []
  | _, _, [] => []
  | n + 1, e, w :: r =>
    match parseOk false (w :: r) with
    | .error x => (match likeOf false w r with
      | some (p, k) => ⟨e, w, .error x, some p⟩ :: bodyNodes n (e + 1 + k) (r.drop k)
      | none => ⟨e, w, .error x, none⟩ :: bodyNodes n (e + 1 + wordsBehind w r) (r.drop (wordsBehind w r)))
    | .ok (p, rest) => ⟨e, w, .ok p, none⟩ :: bodyNodes n (e + ((w :: r).length - rest.length)) rest

/-- The instructions of a body with their indices. -/
def nodesOf (body : List Word) : List (Nat × Parsed) :=
  (bodyNodes body.length 0 body).filterMap fun b => match b.what with
    | .ok p => some (b.eidx, p)
    | .error _ => none

/-- The v values that an instruction reads and writes. -/
def vReads (p : Parsed) : List Nat := (srcsOf p).filterMap fun o => match o with
  | .v k => some k.toNat
  | _ => none
def vWrites (p : Parsed) : List Nat := (destsOf p).filterMap fun o => match o with
  | .v k => some k.toNat
  | _ => none
/-- The window slots that it reads. -/
def wReads (p : Parsed) : List Nat := (srcsOf p).filterMap fun o => match o with
  | .w k => some k.val
  | _ => none

/-- The nodes that produce what a node reads. -/
def feeders (ns : List (Nat × Parsed)) (p : Parsed) : List Nat :=
  (ns.filter fun q => (vWrites q.2).any (vReads p).contains).map (·.1)

/-- The nodes reached from some nodes by going to their feeders, at most so many times. -/
def ancestors (ns : List (Nat × Parsed)) : Nat → List Nat → List Nat → List Nat
  | 0, _, seen => seen
  | _, [], seen => seen
  | n + 1, e :: todo, seen =>
    let more := match ns.find? fun q => q.1 == e with
      | some q => (feeders ns q.2).filter fun x => !seen.contains x
      | none => []
    ancestors ns n (more.eraseDups ++ todo) (more.eraseDups ++ seen)

/-- Whether node e needs node x's result, directly or through other nodes. -/
def dependsOn (ns : List (Nat × Parsed)) (e x : Nat) : Bool := (ancestors ns 256 [e] []).contains x

/-- The instructions that the emulation of a cullet may not hold (R413). -/
def isBarred (p : Parsed) : Bool := match p with
  | .whole (.fork _ _ _) => true
  | .whole (.bar _) => true
  | .whole (.arrive _) => true
  | .whole (.await _) => true
  | .whole (.winb _) => true
  | .whole (.launch _ _ _) => true
  | .whole (.efork _ _ _) => true
  | .whole (.rdv _) => true
  | .whole (.cancel _ _ _) => true
  | .whole (.spmap _ _ _) => true
  | .whole (.spunmap _ _) => true
  | .whole (.spwb _ _ _) => true
  | .whole (.spinv _ _) => true
  | .whole (.spcpy _ _ _ _) => true
  | .whole (.spfill _ _ _ _) => true
  | .whole (.pref _ _) => true
  | .whole (.ipref _ _) => true
  | .whole (.cpy _ _ _ _) => true
  | .whole (.cpyr _ _ _) => true
  | .whole (.cpyp _ _ _) => true
  | .whole (.cpyg _ _ _) => true
  | .whole (.wany _ _) => true
  | .whole (.wall _ _) => true
  | .whole (.ffr _ _) => true
  | .whole (.tags _) => true
  | .whole (.tagclr _ _) => true
  | _ => false

/-! ## Whether a block is configurable (R209, R247) -/

/-- The indices of nodes that write something an earlier node writes already. -/
def rewriters {α : Type} [DecidableEq α] (f : Parsed → List α) : List (Nat × Parsed) → List α → List Nat
  | [], _ => []
  | (e, p) :: r, seen =>
    let ws := f p
    if ws.any seen.contains || ws.eraseDups.length != ws.length then e :: rewriters f r (ws ++ seen)
    else rewriters f r (ws ++ seen)

/-- What may be written once: every destination but zero. -/
def onceDests (p : Parsed) : List Dest := (destsOf p).filter (· != .zero)

/-- The first node that finds no room on four regions, kind by kind, in index order (R210). -/
def noRoom : List (Nat × NodeKind) → (NodeKind → Nat) → List Nat
  | [], _ => []
  | (e, k) :: r, used =>
    if 4 * capacity k ≤ used k then [e] else noRoom r (fun x => if x = k then used x + 1 else used x)

/-- The indices at which a body breaks a rule of R209 or R247, or has a NOP last (R380, log entry 71). What a refused instruction
reads and writes counts as well. -/
def offences (hdr : List Word) (body : List Word) : List Nat :=
  let bs := bodyNodes body.length 0 body
  let ns := bs.filterMap fun b => match b.what with
    | .ok p => some (b.eidx, p)
    | .error _ => b.like.map fun p => (b.eidx, p)
  let bad := bs.filterMap fun b => match b.what with
    | .ok _ => none
    | .error _ => some b.eidx
  let last := (bs.getLast?.map (·.eidx)).getD 0
  let written := ns.flatMap fun q => vWrites q.2
  let w0 := hdr.getD 0 0
  bad ++
  ((ns.filter fun q => isTransfer q.2 && q.1 != last).map (·.1)) ++
  ((ns.filter fun q => q.2 == .whole .nop && q.1 == last).map (·.1)) ++
  rewriters onceDests ns [] ++
  rewriters (fun p => (singleWrite p).toList) ns [] ++
  ((ns.filter fun q => (vReads q.2).any fun k => !written.contains k).map (·.1)) ++
  ((ns.filter fun q => dependsOn ns q.1 q.1).map (·.1)) ++
  ((ns.filter fun q => (wReads q.2).any fun k => !liveIn hdr k).map (·.1)) ++
  ((ns.filter fun q => isBarrier q.2 && !hdrJoinb w0).map (·.1)) ++
  noRoom (bs.map fun b => (b.eidx, kindOf b.word)) (fun _ => 0)

/-- The index that R209 reports, if the block is not configurable: 0x7F for the header, otherwise the lowest. -/
def blockOffence (hdr body : List Word) : Option Nat :=
  let w0 := hdr.getD 0 0
  if hdrN w0 = 0 ∨ bits w0.toNat 13 0 ≠ 0 then some 0x7F else minBy id (offences hdr body)

/-- Regions that a block takes (R210): 1, 2 or 4. -/
def regionsFor (body : List Word) : Nat :=
  let ks := (bodyNodes body.length 0 body).map fun b => kindOf b.word
  let fits (n : Nat) := [NodeKind.int, .fp, .sfu, .mem].all fun k => decide ((ks.filter (· == k)).length ≤ n * capacity k)
  if fits 1 then 1 else if fits 2 then 2 else 4

/-- The barriers that a block's BAR and ARRIVE nodes name (R224). -/
def barriersOf (body : List Word) : List Nat :=
  (nodesOf body).filterMap fun q => match q.2 with
    | .whole (.bar n) => some n.toNat
    | .whole (.arrive n) => some n.toNat
    | _ => none

/-- A configured block is retired (R222): its teardown has every node of the body before it. -/
def Config.retire (c : Config) : Config :=
  if c.retiring then c else { c with retiring := true, left := (nodesOf (c.words.drop 4)).map (·.1) }

/-- A memory node (R228): one that a check of R59 can fault. -/
def isMemNode (p : Parsed) : Bool := match p with
  | .whole (.ld _ _ _ _ _) => true
  | .whole (.ldFmt _ _ _ _) => true
  | .whole (.st _ _ _ _ _) => true
  | .whole (.stFmt _ _ _ _) => true
  | .whole (.atomLoad _ _ _ _ _) => true
  | .whole (.atomStore _ _ _ _ _) => true
  | .whole (.atomAdd _ _ _ _ _ _) => true
  | .whole (.atomSub _ _ _ _ _ _) => true
  | .whole (.atomAnd _ _ _ _ _ _) => true
  | .whole (.atomOr _ _ _ _ _ _) => true
  | .whole (.atomXor _ _ _ _ _ _) => true
  | .whole (.atomMin _ _ _ _ _ _) => true
  | .whole (.atomMax _ _ _ _ _ _) => true
  | .whole (.atomMinn _ _ _ _ _ _) => true
  | .whole (.atomMaxn _ _ _ _ _ _) => true
  | .whole (.atomSwap _ _ _ _ _ _) => true
  | .whole (.atomCas _ _ _ _ _ _ _) => true
  | .whole (.atomInc _ _ _ _ _ _) => true
  | .whole (.atomDec _ _ _ _ _ _) => true
  | .whole (.atomFadd _ _ _ _ _ _) => true
  | .whole (.atomFmin _ _ _ _ _ _) => true
  | .whole (.atomFmax _ _ _ _ _ _) => true
  | .whole (.atomHadd2F16 _ _ _ _ _ _) => true
  | .whole (.atomHadd2Bf16 _ _ _ _ _ _) => true
  | .whole (.redAdd _ _ _ _ _) => true
  | .whole (.redAnd _ _ _ _ _) => true
  | .whole (.redOr _ _ _ _ _) => true
  | .whole (.redXor _ _ _ _ _) => true
  | .whole (.redMin _ _ _ _ _) => true
  | .whole (.redMax _ _ _ _ _) => true
  | .whole (.redMinn _ _ _ _ _) => true
  | .whole (.redMaxn _ _ _ _ _) => true
  | .whole (.redFadd _ _ _ _ _) => true
  | .whole (.redHadd2F16 _ _ _ _ _) => true
  | .whole (.redHadd2Bf16 _ _ _ _ _) => true
  | .whole (.fence _ _ _) => true
  | .whole (.fencex _) => true
  | .whole (.relb _ _ _ _) => true
  | .whole (.acqb _ _ _) => true
  | .whole (.spmap _ _ _) => true
  | .whole (.spunmap _ _) => true
  | .whole (.spwb _ _ _) => true
  | .whole (.spinv _ _) => true
  | .whole (.spcpy _ _ _ _) => true
  | .whole (.spfill _ _ _ _) => true
  | .whole (.pref _ _) => true
  | .whole (.ipref _ _) => true
  | .whole (.cpy _ _ _ _) => true
  | .whole (.cpyr _ _ _) => true
  | .whole (.cpyp _ _ _) => true
  | .whole (.cpyg _ _ _) => true
  | .whole (.wany _ _) => true
  | .whole (.wall _ _) => true
  | .whole (.ffr _ _) => true
  | .whole (.tags _) => true
  | .whole (.tagclr _ _) => true
  | _ => false

end Sys2Proof.Machine
end

