-- ==== Sys2Proof/Machine/Operands.lean ====
section
/-! DEFINITION. Operand names (R237): what an agent reads under each of them, how a node's result reaches its
destination, absorption (R217), and the one form that every instruction computing a value from its operands takes. -/
namespace Sys2Proof.Machine

/-- What a node finds at an input. -/
inductive Got where
  /-- Nothing has arrived yet. -/
  | wait
  /-- The input was absorbed. -/
  | gone
  | val (x : Dword)
  deriving DecidableEq, Repr

/-- What a node finds at all its inputs. -/
inductive Gots where
  | wait
  | gone
  | vals (xs : List Dword)
  deriving DecidableEq, Repr

/-- A literal word, sign-extended (R237). -/
def litVal (x : Word) : Dword := x.signExtend 64

/-- A node's input (R237): window slots, g registers and pw as captured at admission. -/
def Inst.read (i : Inst) : Operand → Got
  | .v k => match kvGet k.toNat i.toks with
    | none => .wait
    | some .absorbed => .gone
    | some (.val x) => .val x
  | .w k => .val (kvGetD k.val 0 i.live)
  | .g k => .val (kvGetD k.toNat 0 i.gs)
  | .zero => .val 0
  | .fi => .val i.fi
  | .gi => .val i.gi
  | .ka => .val i.ka
  | .sb => .val i.sb
  | .wb => .val i.wb
  | .lit x => .val (litVal x)
  | .pw => .val (i.pw.zeroExtend 64)

/-- All inputs of a node: it waits while one has not arrived, and is absorbed if one was absorbed (R216, R217). -/
def Inst.reads (i : Inst) : List Operand → Gots
  | [] => .vals []
  | o :: r =>
    match i.read o, i.reads r with
    | .wait, _ => .wait
    | _, .wait => .wait
    | .gone, _ => .gone
    | _, .gone => .gone
    | .val x, .vals xs => .vals (x :: xs)

/-- The values of those inputs that have arrived, 0 for the others (R407: TOPA, TOPB, TOPC). -/
def Inst.seen (i : Inst) (o : Operand) : Dword :=
  match i.read o with
  | .val x => x
  | _ => 0

/-- The node is no longer to fire. -/
def Inst.done (i : Inst) (e : Nat) : Inst := { i with todo := i.todo.erase e }

/-- A value at a destination (R237): v at once, the others held until commit. -/
def Inst.put (i : Inst) (d : Dest) (x : Dword) : Inst :=
  match d with
  | .v k => { i with toks := kvSet k.toNat (.val x) i.toks }
  | .w k => { i with slotW := kvSet k.val (.full x) i.slotW }
  | .g k => { i with gW := kvSet k.toNat x i.gW }
  | .zero => i
  | .pw => { i with pwW := some (x.truncate 16) }

/-- An absorbed output: a v value is absorbed, any other destination is not written (R217). -/
def Inst.absorbed (i : Inst) (d : Dest) : Inst :=
  match d with
  | .v k => { i with toks := kvSet k.toNat .absorbed i.toks }
  | _ => i

/-- The node fires and produces a value. -/
def Inst.fire (i : Inst) (e : Nat) (d : Dest) (x : Dword) : Inst := (i.done e).put d x

/-- The node is absorbed (R217). -/
def Inst.absorb (i : Inst) (e : Nat) (d : Dest) : Inst := (i.done e).absorbed d

/-- A sequencer's operand (R343). -/
def Seq.read (q : Seq) : Operand → Dword
  | .v k => kvGetD k.toNat 0 q.regs
  | .w k => kvGetD (64 + k.val) 0 q.regs
  | .lit x => litVal x
  | _ => 0

/-- A sequencer's register write (R343). -/
def Seq.put (q : Seq) (d : Dest) (x : Dword) : Seq :=
  match d with
  | .v k => { q with regs := kvSet k.toNat x q.regs }
  | .w k => { q with regs := kvSet (64 + k.val) x q.regs }
  | _ => q

/-- PC moves past so many words (R342). -/
def Seq.past (q : Seq) (words : Nat) : Seq := { q with pc := q.pc + BitVec.ofNat 64 (4 * words) }

/-- The literal words of operands (R240). -/
def litCount : List Operand → Nat
  | [] => 0
  | .lit _ :: r => litCount r + 1
  | _ :: r => litCount r

/-! ## Access to the agents -/

def State.inst? (s : State) (f : Nat) : Option Inst := kvGet f s.fab.insts
def State.setInst (s : State) (f : Nat) (i : Inst) : State := { s with fab := { s.fab with insts := kvSet f i s.fab.insts } }
def State.seq? (s : State) (cl : Nat) : Option Seq := kvGet cl s.mat.seqs
def State.setSeq (s : State) (cl : Nat) (q : Seq) : State := { s with mat := { s.mat with seqs := kvSet cl q s.mat.seqs } }

/-- The outcome type of every meaning. -/
abbrev Result := Host.Outcome State Fault Refusal

/-! ## Instructions that compute a value -/

/-- The general form: a fibre's node gathers its inputs and fires, or is absorbed, or waits; a sequencer reads its
registers, writes its destination and moves past the instruction's words (`ext` of them beside the first word and the
literals). -/
def compute (l : List Operand) (ext : Nat) (d : Dest) (fn : List Dword → Dword) (s : State) : Result :=
  match s.cur with
  | .node f e =>
    match s.inst? f with
    | none => .fault .noAgent
    | some i =>
      match i.reads l with
      | .wait => .next s
      | .gone => .next (s.setInst f (i.absorb e d))
      | .vals xs => .next (s.setInst f (i.fire e d (fn xs)))
  | .seq cl =>
    match s.seq? cl with
    | none => .fault .noAgent
    | some q => .next (s.setSeq cl ((q.put d (fn (l.map q.read))).past (1 + ext + litCount l)))
  | _ => .fault .noAgent

/-- One source. -/
def compute1 (d : Dest) (a : Operand) (fn : Dword → Dword) (s : State) : Result :=
  compute [a] 0 d (fun xs => fn (xs.getD 0 0)) s

/-- Two sources. -/
def compute2 (d : Dest) (a b : Operand) (fn : Dword → Dword → Dword) (s : State) : Result :=
  compute [a, b] 0 d (fun xs => fn (xs.getD 0 0) (xs.getD 1 0)) s

/-- Three sources, in X form. -/
def compute3 (d : Dest) (a b c : Operand) (fn : Dword → Dword → Dword → Dword) (s : State) : Result :=
  compute [a, b, c] 1 d (fun xs => fn (xs.getD 0 0) (xs.getD 1 0) (xs.getD 2 0)) s

/-- Two sources A and C, in X form. -/
def compute2x (d : Dest) (a c : Operand) (fn : Dword → Dword → Dword) (s : State) : Result :=
  compute [a, c] 1 d (fun xs => fn (xs.getD 0 0) (xs.getD 1 0)) s

/-- No source. -/
def compute0 (d : Dest) (x : Dword) (s : State) : Result := compute [] 0 d (fun _ => x) s

end Sys2Proof.Machine
end

