-- ==== Sys2Proof/Machine/Flags.lean ====
section
/-! DEFINITION. The part keeps no flags (R187, R289): what other machines keep in them, this one computes as values.
Predicates (R256, R295), comparisons (R291, R300), saturation (R289, R308) and the corner cases of division (R289), each
written once for every width. -/
namespace Sys2Proof.Machine

/-- A truth value as a token: 1 or 0 in all 64 bits. -/
def ofPred (b : Bool) : Dword := if b then 1 else 0

/-- A predicate operand is true when bit 0 is 1 (R256). -/
def isTrue (x : Dword) : Bool := x.getLsbD 0

/-- The low word of a token (R237). -/
def lo32 (x : Dword) : Word := x.truncate 32

/-- A 32-bit result extended by sign (R287, column S). -/
def extS (y : Word) : Dword := y.signExtend 64
/-- A 32-bit result extended by zero (R287, column Z). -/
def extZ (y : Word) : Dword := y.zeroExtend 64

/-! ## Comparison (R291) -/

/-- The condition of ICMP's code 0 to 5 between two values of one width. -/
def icmpCond {w : Nat} (signed : Bool) (cond : Nat) (a b : BitVec w) : Bool :=
  let lt := if signed then a.slt b else a.ult b
  match cond with
  | 0 => a == b
  | 1 => a != b
  | 2 => lt
  | 3 => lt || a == b
  | 4 => !(lt || a == b)
  | _ => !lt

/-- ICMP: types 0 and 1 compare the low words, 2 and 3 the dwords, the even ones signed (R291). -/
def icmpHolds (ty cond : Nat) (a b : Dword) : Bool :=
  if ty < 2 then icmpCond (ty == 0) cond (lo32 a) (lo32 b) else icmpCond (ty == 2) cond a b

/-! ## Integer results of one width (R287, R289) -/

/-- The two's-complement values of w bits. -/
def minOf (w : Nat) : Int := -((2 ^ (w - 1) : Nat) : Int)
def maxOf (w : Nat) : Int := ((2 ^ (w - 1) : Nat) : Int) - 1

/-- Saturation to lo..hi (R193, R289). -/
def clamp (lo hi x : Int) : Int := if x < lo then lo else if hi < x then hi else x

/-- High half of the signed product. -/
def mulHigh {w : Nat} (a b : BitVec w) : BitVec w := BitVec.ofInt w (a.toInt * b.toInt / ((2 ^ w : Nat) : Int))
/-- High half of the unsigned product. -/
def mulHighU {w : Nat} (a b : BitVec w) : BitVec w := BitVec.ofNat w (a.toNat * b.toNat / 2 ^ w)
def minS {w : Nat} (a b : BitVec w) : BitVec w := if a.sle b then a else b
def maxS {w : Nat} (a b : BitVec w) : BitVec w := if b.sle a then a else b
def minU {w : Nat} (a b : BitVec w) : BitVec w := if a.ule b then a else b
def maxU {w : Nat} (a b : BitVec w) : BitVec w := if b.ule a then a else b
def andNot {w : Nat} (a b : BitVec w) : BitVec w := a &&& ~~~b
def shlMod {w : Nat} (a b : BitVec w) : BitVec w := a <<< (b.toNat % w)
def shrMod {w : Nat} (a b : BitVec w) : BitVec w := a >>> (b.toNat % w)
def sarMod {w : Nat} (a b : BitVec w) : BitVec w := a.sshiftRight (b.toNat % w)
def rotlMod {w : Nat} (a b : BitVec w) : BitVec w := a.rotateLeft (b.toNat % w)
/-- Zero bits from the top; w when there is no one. -/
def leadZeros {w : Nat} (a : BitVec w) : BitVec w := BitVec.ofNat w (if a.toNat = 0 then w else w - 1 - Nat.log2 a.toNat)
/-- Zero bits from the bottom among the low n bits. -/
def trailCount : Nat → Nat → Nat
  | 0, _ => 0
  | n + 1, x => if x % 2 = 1 then 0 else 1 + trailCount n (x / 2)
def trailZeros {w : Nat} (a : BitVec w) : BitVec w := BitVec.ofNat w (trailCount w a.toNat)
/-- One bits among the low n. -/
def oneCount : Nat → Nat → Nat
  | 0, _ => 0
  | n + 1, x => x % 2 + oneCount n (x / 2)
def popCount {w : Nat} (a : BitVec w) : BitVec w := BitVec.ofNat w (oneCount w a.toNat)
/-- The low n bits of x in reverse order, after acc. -/
def reverseLoop : Nat → Nat → Nat → Nat
  | 0, _, acc => acc
  | n + 1, x, acc => reverseLoop n (x / 2) (2 * acc + x % 2)
def bitReverse {w : Nat} (a : BitVec w) : BitVec w := BitVec.ofNat w (reverseLoop w a.toNat 0)
def absWrap {w : Nat} (a : BitVec w) : BitVec w := BitVec.ofInt w a.toInt.natAbs
def addSat {w : Nat} (a b : BitVec w) : BitVec w := BitVec.ofInt w (clamp (minOf w) (maxOf w) (a.toInt + b.toInt))
def subSat {w : Nat} (a b : BitVec w) : BitVec w := BitVec.ofInt w (clamp (minOf w) (maxOf w) (a.toInt - b.toInt))
/-- Division and remainder: all ones for a divisor of 0, and truncation toward zero wrapping for the most negative value
by −1 (R289). -/
def divS {w : Nat} (a b : BitVec w) : BitVec w := if b.toNat = 0 then BitVec.allOnes w else BitVec.ofInt w (a.toInt.tdiv b.toInt)
def divU {w : Nat} (a b : BitVec w) : BitVec w := if b.toNat = 0 then BitVec.allOnes w else BitVec.ofNat w (a.toNat / b.toNat)
def remS {w : Nat} (a b : BitVec w) : BitVec w := if b.toNat = 0 then BitVec.allOnes w else BitVec.ofInt w (a.toInt.tmod b.toInt)
def remU {w : Nat} (a b : BitVec w) : BitVec w := if b.toNat = 0 then BitVec.allOnes w else BitVec.ofNat w (a.toNat % b.toNat)

/-- A 32-bit operation on the low words, its result extended by sign. -/
def opS (fn : Word → Word → Word) (a b : Dword) : Dword := extS (fn (lo32 a) (lo32 b))
/-- The same, extended by zero. -/
def opZ (fn : Word → Word → Word) (a b : Dword) : Dword := extZ (fn (lo32 a) (lo32 b))
/-- Unary forms. -/
def unS (fn : Word → Word) (a : Dword) : Dword := extS (fn (lo32 a))
def unZ (fn : Word → Word) (a : Dword) : Dword := extZ (fn (lo32 a))

/-! ## Bit fields and bytes (R288, R293, R294) -/

/-- XTND's codes (R288). -/
def extendCode (k : Nat) (a : Dword) : Dword :=
  match k with
  | 0 => (a.truncate 8).signExtend 64
  | 1 => (a.truncate 8).zeroExtend 64
  | 2 => (a.truncate 16).signExtend 64
  | 3 => (a.truncate 16).zeroExtend 64
  | 4 => extS (lo32 a)
  | _ => extZ (lo32 a)

/-- Position and length of a field control value. -/
def fieldPos (c : Dword) : Nat := bits c.toNat 5 0
def fieldLen (c : Dword) : Nat := min (bits c.toNat 14 8) 64

/-- BFX: a signed field. -/
def fieldS (a c : Dword) : Dword :=
  let n := fieldLen c
  if n = 0 then 0 else sextD n ((a.sshiftRight (fieldPos c)).toNat % 2 ^ n)
/-- BFXN: an unsigned field. -/
def fieldU (a c : Dword) : Dword := BitVec.ofNat 64 (a.toNat / 2 ^ fieldPos c % 2 ^ fieldLen c)
/-- BFI: B inserted into a field of A. -/
def fieldIns (a b c : Dword) : Dword :=
  let mask : Dword := BitVec.ofNat 64 ((2 ^ fieldLen c - 1) * 2 ^ fieldPos c)
  (a &&& ~~~mask) ||| ((b <<< fieldPos c) &&& mask)

/-- Byte i of the 16 bytes of cat(B, A). -/
def permByte (a b c : Dword) (i : Nat) : Nat := (a.toNat + b.toNat * 2 ^ 64) / 2 ^ (8 * (c.toNat / 2 ^ (4 * i) % 16)) % 256
/-- PERM. -/
def permute (a b c : Dword) : Dword := BitVec.ofNat 64 (leNat ((upto 8).map fun i => BitVec.ofNat 8 (permByte a b c i)))

/-- Elements of a token, so many bits each. -/
def elem (width i x : Nat) : Nat := x / 2 ^ (width * i) % 2 ^ width
/-- A token from elements of so many bits. -/
def packElems (width : Nat) : List Nat → Nat
  | [] => 0
  | x :: r => x % 2 ^ width + 2 ^ width * packElems width r

/-! ## Floating-point predicates and selections (R197, R300, R301) -/

/-- The smaller or larger of two encodings of a format: the other one when one is a NaN, the canonical NaN when both
are, −0 below +0 (R197). -/
def minF (f : Fmt) (a b : Nat) : Nat :=
  let x := f.decode a
  let y := f.decode b
  if x.isNan then (if y.isNan then f.nanCode else b) else if y.isNan then a else if y.below x then b else a
def maxF (f : Fmt) (a b : Nat) : Nat :=
  let x := f.decode a
  let y := f.decode b
  if x.isNan then (if y.isNan then f.nanCode else b) else if y.isNan then a else if x.below y then b else a

/-- FSAT (R301). -/
def satUnit (x : Word) : Word :=
  match f32 x with
  | .nan => 0
  | .inf n => if n then 0 else 0x3F800000
  | .fin n m e => if n || m == 0 then 0 else if (FV.fin false 1 0).lt (.fin n m e) then 0x3F800000 else x

/-- FRND (R301): |a| ≥ 2^23 stays, a result of zero keeps the sign. -/
def roundToInt (d : Dir) (x : Word) : Word :=
  match f32 x with
  | .nan => 0x7FC00000
  | .inf _ => x
  | .fin n m e => toF32 (.fin n (roundInt d n m e) 0)

end Sys2Proof.Machine
end

