-- ==== Sys2Proof/Machine/Ops.lean ====
section
/-! DEFINITION. The named operations over fibres, slots, barriers, launches and sequencers, and the taking of an
exception: by a fibre (R220, R409 to R414), after commit (R411), and by a sequencer (R347). -/
namespace Sys2Proof.Machine

/-! ## Fibres and slots -/

def State.fibre? (s : State) (f : Nat) : Option Fibre := kvGet f s.fab.fibres
def State.setFibre (s : State) (f : Nat) (x : Fibre) : State := { s with fab := { s.fab with fibres := kvSet f x s.fab.fibres } }
def State.modFibre (s : State) (f : Nat) (fn : Fibre → Fibre) : State :=
  { s with fab := { s.fab with fibres := kvMod f fn s.fab.fibres } }
/-- An instance is over; an invalidation waits for it no more (R69). -/
def State.delInst (s : State) (f : Nat) : State :=
  { s with
    fab := { s.fab with insts := kvDel f s.fab.insts }
    mg := { s.mg with inval := s.mg.inval.map fun v => { v with waits := v.waits.filter (· != f) } } }

/-- The fibres of a gather that have not ended (R227: live fibres). -/
def State.liveFibres (s : State) (g : Nat) : List Nat :=
  (s.fab.fibres.filter fun p => gatherOf p.1 == g && !p.2.ended).map (·.1)

/-- A fibre index is in use: a fibre that has not ended holds it, or a producer is outstanding for its slots (R205). The
operations that an ended fibre has still to carry out do not hold it. -/
def State.indexUsed (s : State) (f : Nat) : Bool :=
  (match s.fibre? f with
   | some x => !x.ended || (s.inst? f).isSome
   | none => false) || s.fab.prods.any fun p => p.2.f == f

/-- The context of a fibre. -/
def State.ctxOfFibre (s : State) (f : Nat) : Nat := match s.gather? (gatherOf f) with
  | some g => g.ctx
  | none => 0

/-- What a fibre sees of its own pw, window, call stack, FSP and THND: in an emulation, the shadow's (R413). -/
def Fibre.eff (f : Fibre) : Fibre :=
  match f.shadow with
  | none => f
  | some h => { f with pw := h.pw, woff := h.woff, stack := h.stack, spilled := h.spilled, fsp := h.fsp, thnd := h.thnd }

/-- A changed view put back: in an emulation, into the shadow. -/
def Fibre.keep (f v : Fibre) : Fibre :=
  match f.shadow with
  | none => v
  | some h => { v with
      pw := f.pw, woff := f.woff, stack := f.stack, spilled := f.spilled, fsp := f.fsp, thnd := f.thnd
      shadow := some { h with pw := v.pw, woff := v.woff, stack := v.stack, spilled := v.spilled, fsp := v.fsp, thnd := v.thnd } }

def slotKey (core idx : Nat) : Nat := core * 2 ^ 18 + idx
def noSlot : Slot := ⟨0, false, none⟩
def State.slot (s : State) (core idx : Nat) : Slot := kvGetD (slotKey core idx) noSlot s.fab.slots
def State.setSlot (s : State) (core idx : Nat) (x : Slot) : State :=
  { s with fab := { s.fab with slots := kvSetD (slotKey core idx) noSlot x s.fab.slots } }

/-- The store index of slot k of a fibre's allocation (R26). -/
def storeIdx (ga : Gather) (f k : Nat) : Nat := ga.lvBase + fiOf f * ga.wsize + k

/-- Slot k of a fibre's allocation as the fibre sees it. -/
def State.fibreSlot (s : State) (f k : Nat) : Slot :=
  match s.gather? (gatherOf f), s.fibre? f with
  | some ga, some x =>
    let real := s.slot (coreOf f) (storeIdx ga f k)
    (match x.shadow with
     | none => real
     | some h => if h.empties.contains k then noSlot else match kvGet k h.slots with
       | some v => ⟨v, true, none⟩
       | none => real)
  | _, _ => noSlot

/-- A full slot: the value stored, no producer waited for (R214, R215). -/
def State.fillSlot (s : State) (f k : Nat) (x : Dword) : State :=
  match s.gather? (gatherOf f), s.fibre? f with
  | some ga, some fb =>
    (match fb.shadow with
     | none => s.setSlot (coreOf f) (storeIdx ga f k) ⟨x, true, none⟩
     | some h => s.setFibre f { fb with shadow := some { h with slots := kvSet k x h.slots, empties := h.empties.erase k } })
  | _, _ => s

/-- A slot emptied for a producer (R214, R215). -/
def State.clearSlot (s : State) (f k p : Nat) : State :=
  match s.gather? (gatherOf f), s.fibre? f with
  | some ga, some fb =>
    (match fb.shadow with
     | none =>
       let o := s.slot (coreOf f) (storeIdx ga f k)
       s.setSlot (coreOf f) (storeIdx ga f k) ⟨o.val, false, some p⟩
     | some h => s.setFibre f { fb with shadow := some { h with
         slots := kvDel k h.slots, empties := if h.empties.contains k then h.empties else k :: h.empties } })
  | _, _ => s

/-- A fibre as it is created (R204, R266, R394). -/
def newFibre (pc fsp thnd : Dword) (clock : Nat) : Fibre where
  pc := pc
  prev := 0
  way := .entry
  pw := 0
  woff := 0
  stack := []
  spilled := 0
  fsp := fsp
  thnd := thnd
  trap := ⟨0, 0, 0, 0, 0, 0, 0⟩
  emul := 0
  shadow := none
  hm := false
  spw := 0
  swoff := 0
  tpend := false
  halt := false
  bponce := false
  resume := 0
  notes := []
  subst := none
  rel := none
  met := []
  post := []
  stage := 0
  held := []
  tail := []
  heldLoads := []
  report := none
  reportHdr := 0
  reportOwn := false
  since := clock
  aged := false
  delay := none
  parked := false
  parkedAt := 0
  culls := []
  orphans := 0
  orel := []
  stop := false
  cancelled := false
  ended := false

/-- FSP of a new fibre (R394). -/
def fspOf (l : Launch) (k : Kernel) (gi fi : Nat) : Dword :=
  l.fspBase - BitVec.ofNat 64 ((gi * k.gather + fi) * 32 * l.fspStep)

/-! ## Launches and debugging -/

def State.launch? (s : State) (lid : Nat) : Option Launch := kvGet lid s.disp.launches
def State.modLaunch (s : State) (lid : Nat) (fn : Launch → Launch) : State :=
  { s with disp := { s.disp with launches := kvMod lid fn s.disp.launches } }
/-- The launch of a fibre. -/
def State.launchOf (s : State) (f : Nat) : Option Launch := match s.gather? (gatherOf f) with
  | some g => s.launch? g.lid
  | none => none
/-- The job of a fibre. -/
def State.jobOf (s : State) (f : Nat) : Nat := match s.launchOf f with
  | some l => l.job
  | none => 0

/-- The debug slot attached to a job: the lowest-numbered one (R415). -/
def State.attached (s : State) (job : Nat) : Option DbgSlot :=
  (upto 8).findSome? fun n => match kvGet n s.mg.dbg with
    | some d => if d.att && d.job == job then some d else none
    | none => none

/-- The gathers of a launch that are resident, as keys. -/
def State.gathersOf (s : State) (lid : Nat) : List Nat := (s.fab.gathers.filter fun p => p.2.lid == lid).map (·.1)
/-- The fibres of a launch. -/
def State.fibresOf (s : State) (lid : Nat) : List Nat :=
  (s.fab.fibres.filter fun p => match s.gather? (gatherOf p.1) with
    | some g => g.lid == lid
    | none => false).map (·.1)

/-! ## Operations that hold their fibre's admission (R136, R313) -/

/-- The order of an ATOM. -/
def atomOrder : Instr → Nat
  | .atomLoad _ _ o _ _ => o.toNat
  | .atomStore _ _ o _ _ => o.toNat
  | .atomAdd _ _ o _ _ _ => o.toNat
  | .atomSub _ _ o _ _ _ => o.toNat
  | .atomAnd _ _ o _ _ _ => o.toNat
  | .atomOr _ _ o _ _ _ => o.toNat
  | .atomXor _ _ o _ _ _ => o.toNat
  | .atomMin _ _ o _ _ _ => o.toNat
  | .atomMax _ _ o _ _ _ => o.toNat
  | .atomMinn _ _ o _ _ _ => o.toNat
  | .atomMaxn _ _ o _ _ _ => o.toNat
  | .atomSwap _ _ o _ _ _ => o.toNat
  | .atomCas _ _ o _ _ _ _ => o.toNat
  | .atomInc _ _ o _ _ _ => o.toNat
  | .atomDec _ _ o _ _ _ => o.toNat
  | .atomFadd _ _ o _ _ _ => o.toNat
  | .atomFmin _ _ o _ _ _ => o.toNat
  | .atomFmax _ _ o _ _ _ => o.toNat
  | .atomHadd2F16 _ _ o _ _ _ => o.toNat
  | .atomHadd2Bf16 _ _ o _ _ _ => o.toNat
  | _ => 0

/-- The operations that keep their fibre from its next block (R136, R313). -/
def holdsAdmission (op : Instr) : Bool :=
  match op with
  | .fence _ _ k => k != 1
  | .acqb _ _ _ => true
  | .fencex _ => true
  | .wany _ _ => true
  | .wall _ _ => true
  | .await _ => true
  | .rdv _ => true
  | op => atomOrder op == 1 || atomOrder op == 3

/-- The fibre has such an operation to complete: it has not joined the waiting set of its PC yet (R219). -/
def Fibre.awaits (x : Fibre) : Bool := (x.post.drop x.orphans).any fun p => holdsAdmission p.op

/-! ## Waiting sets (R223) -/

/-- A set has a fibre: some fibre of the core that has not ended, is not parked and has joined has it as its PC. -/
def State.setUsed (s : State) (core : Nat) (w : WSet) : Bool :=
  s.fab.fibres.any fun p => coreOf p.1 == core && !p.2.ended && !p.2.parked && p.2.pc == w.hdr && !p.2.awaits &&
    s.ctxOfFibre p.1 == w.ctx

/-- A fibre that joins a set has no part in how a build failed before: it starts a new one (R470). -/
def Fabric.forgive (fb : Fabric) (f : Nat) : Fabric :=
  { fb with sets := fb.sets.map fun w =>
      let l := w.failing.filter (· != f)
      { w with failing := l, fail := if l.isEmpty then none else w.fail } }

/-- A fibre joins the set of its PC, unless an operation holds its admission (R219); a new set reads its header words (R213);
with 256 sets the fibre is parked. -/
def State.joinOne (s : State) (f : Nat) : State :=
  match s.fibre? f with
  | none => s
  | some x =>
    let core := coreOf f
    let ctx := s.ctxOfFibre f
    let s := s.setFabric core ((s.fabric core).forgive f)
    if x.awaits then s
    else if (s.fabric core).sets.any fun w => w.ctx == ctx && w.hdr == x.pc then s.setFibre f { x with parked := false }
    else if 256 ≤ (s.fabric core).sets.length then
      s.setFibre f { x with parked := true, parkedAt := if x.parked then x.parkedAt else s.clock }
    else
      let s := s.setFibre f { x with parked := false }
      let (s, ws) := s.readHeader core ctx x.pc.toNat
      let fb := s.fabric core
      s.setFabric core { fb with sets := fb.sets ++ [⟨ctx, x.pc, ws, none, []⟩] }

/-- The parked fibres of a core, longest parked first. -/
def State.parkedOn (s : State) (core : Nat) : List Nat :=
  (sortBy (fun a b => decide (a.2.parkedAt ≤ b.2.parkedAt))
    (s.fab.fibres.filter fun p => coreOf p.1 == core && p.2.parked && !p.2.ended)).map (·.1)

/-- Sets with no fibre go, and parked fibres receive the entries that they leave, in the order of their parking (R223). -/
def State.trimSets (s : State) (core : Nat) : State :=
  let f := s.fabric core
  let s := s.setFabric core { f with sets := f.sets.filter (s.setUsed core) }
  (s.parkedOn core).foldl (fun s f => s.joinOne f) s

/-- A fibre joins its set, after those that were parked before it. -/
def State.joinSet (s : State) (f : Nat) : State := (s.trimSets (coreOf f)).joinOne f

/-! ## Barriers (R227, R228, R268) -/

/-- A barrier at which nobody has arrived. -/
def noBar : Barrier := ⟨false, [], [], 0, 0⟩
def Gather.bar (g : Gather) (b : Nat) : Barrier := kvGetD b noBar g.bars
def Gather.setBar (g : Gather) (b : Nat) (x : Barrier) : Gather := { g with bars := kvSetD b noBar x g.bars }

/-- A fibre's arrivals are withdrawn (R227). -/
def Barrier.withdraw (x : Barrier) (fi : Nat) : Barrier where
  phase := x.phase
  arr := x.arr.filter (· != fi)
  held := x.held.filter (· != fi)
  na := if x.arr.contains fi then x.na - 1 else x.na
  nh := if x.held.contains fi then x.nh - 1 else x.nh

/-- The BAR nodes that arrived in a phase of a barrier fire. -/
def Inst.release (i : Inst) (b : Nat) (ph : Bool) : Inst :=
  { i with todo := i.todo.filter fun e => !(i.bars.any fun x => x.1 == e && x.2.1 == b && x.2.2 == ph) }

/-- A barrier completes when its arrival count reaches the number of live fibres (R227); arrivals held for the next phase are counted
in the check of the next cycle (R268). -/
def State.checkBar (s : State) (g b : Nat) : State :=
  match s.gather? g with
  | none => s
  | some ga =>
    let x := ga.bar b
    if x.na = 0 ∨ x.na < (s.liveFibres g).length then s
    else
      let s := s.setGather g (ga.setBar b ⟨!x.phase, x.held, [], x.nh, 0⟩)
      { s with fab := { s.fab with insts := kvMap (fun f i => if gatherOf f == g then i.release b x.phase else i) s.fab.insts } }

/-- All sixteen barriers looked at. -/
def State.checkBars (s : State) (g : Nat) : State := (upto 16).foldl (fun s b => s.checkBar g b) s

/-- An arrival: the phase it counts in; none when an arrival of the fibre is held already (R268). -/
def State.arriveBar (s : State) (f b : Nat) : State × Option Bool :=
  match s.gather? (gatherOf f) with
  | none => (s, none)
  | some ga =>
    let x := ga.bar b
    let fi := fiOf f
    if x.held.contains fi then (s, none)
    else if x.arr.contains fi then
      (s.setGather (gatherOf f) (ga.setBar b { x with held := x.held ++ [fi], nh := x.nh + 1 }), some (!x.phase))
    else (s.setGather (gatherOf f) (ga.setBar b { x with arr := x.arr ++ [fi], na := x.na + 1 }), some x.phase)

/-- The fibre has a pending phase on a barrier (R269). -/
def State.pendingBar (s : State) (f b : Nat) : Bool :=
  match s.gather? (gatherOf f) with
  | some ga => (ga.bar b).arr.contains (fiOf f) || (ga.bar b).held.contains (fiOf f)
  | none => false

/-- An AWAIT at the head of the fibre's queue waits (R269). One of an ended fibre does not, whoever has its index now: its
arrivals are withdrawn (R227). -/
def State.awaitWaits (s : State) (f b : Nat) : Bool := s.pendingBar f b && (s.fibre? f).any fun x => x.orphans == 0

/-! ## Meetings of exchange groups (R385) -/

/-- The members of a gather's group that have not ended. -/
def State.groupLive (s : State) (g k : Nat) : List Nat := (s.liveFibres g).filter fun f => fiOf f / 16 == k

/-- A meeting once every live member of its group has trapped at its occurrence; members that have ended answer no more. -/
def Meet.settle (m : Meet) (live : List Nat) : Meet :=
  let ps := live.map fun f => fiOf f % 16
  { m with
    closed := m.closed || ps.all fun p => (kvGet p m.vals).isSome
    left := m.left.filter ps.contains }

/-- The meetings of a gather are looked at. One that has closed is kept: a fibre that is forked later may still come to it. -/
def State.checkMeets (s : State) (g : Nat) : State :=
  s.modGather g fun ga => { ga with meets := ga.meets.map fun m => m.settle (s.groupLive g m.group) }

/-- The address of the instruction that a trap record names. -/
def TrapRec.at_ (r : TrapRec) : Nat := (r.epc.toNat + 16 + 4 * r.eidx.toNat) % 2 ^ 64

/-- A word of SHFL or VOTE (R384). -/
def isExchange (w : Nat) : Bool := w / 2 ^ 27 % 32 == 0x07 && (w % 64 == 0x3E || w % 64 == 0x3F)

/-- A participant joins the meeting of its trap: the n-th at that address, where n of its traps there are over (log entry 57). -/
def joinMeet (a k n p : Nat) (v : Dword × Dword) : List Meet → List Meet
  | [] => [⟨a, k, n, [(p, v)], false, [p]⟩]
  | m :: r =>
    if m.addr == a && m.group == k && m.n == n then
      { m with vals := kvSet p v m.vals, left := if m.left.contains p then m.left else m.left ++ [p] } :: r
    else m :: joinMeet a k n p v r

/-- The meeting that a fibre's present emulation is part of. -/
def State.meetOf (s : State) (f : Nat) : Option Meet :=
  match s.fibre? f, s.gather? (gatherOf f) with
  | some x, some ga =>
    if x.emul.getLsbD 0 && isExchange (x.emul.toNat / 2 ^ 32) then
      ga.meets.find? fun m => m.addr == x.trap.at_ && m.group == fiOf f / 16 && m.n == kvGetD x.trap.at_ 0 x.culls
    else none
  | _, _ => none

/-- The emulation of a SHFL or VOTE waits until every live member of the group has trapped at that occurrence. -/
def State.meetOpen (s : State) (f : Nat) : Bool := match s.meetOf f with
  | some m => !m.closed
  | none => false

/-- A SHFL or VOTE whose emulation begins joins its meeting. -/
def State.enterMeet (s : State) (f : Nat) : State :=
  match s.fibre? f with
  | none => s
  | some x =>
    if isExchange (x.emul.toNat / 2 ^ 32) then
      let a := x.trap.at_
      (s.modGather (gatherOf f) fun ga => { ga with
        meets := joinMeet a (fiOf f / 16) (kvGetD a 0 x.culls) (fiOf f % 16) (x.trap.topa, x.trap.topb) ga.meets }).checkMeets (gatherOf f)
    else s

/-- The occurrence at an address is over for the fibre: its next trap there belongs to the next one. -/
def State.leaveMeetAt (s : State) (f : Nat) (x : Fibre) (a : Nat) : State :=
  let n := kvGetD a 0 x.culls
  let s := s.setFibre f { x with culls := kvSet a (n + 1) x.culls }
  (s.modGather (gatherOf f) fun ga => { ga with
    meets := ga.meets.map fun m => if m.addr == a && m.group == fiOf f / 16 && m.n == n then
      { m with left := m.left.filter (· != fiOf f % 16) } else m }).checkMeets (gatherOf f)

/-- The same for the occurrence of the fibre's trap, at a SHFL or VOTE. -/
def State.leaveMeet (s : State) (f : Nat) : State :=
  match s.fibre? f with
  | none => s
  | some x => if isExchange (x.emul.toNat / 2 ^ 32) then s.leaveMeetAt f x x.trap.at_ else s

/-- A handler that the fibre leaves without RESUME gives up the occurrence that it has joined and not answered, whether the
emulation's own fault ended it or a report of an earlier operation (log entries 57, 84). -/
def State.quitMeet (s : State) (f : Nat) : State :=
  match s.fibre? f, s.gather? (gatherOf f) with
  | some x, some ga =>
    (match ga.meets.find? fun m => m.group == fiOf f / 16 && m.left.contains (fiOf f % 16) && m.n == kvGetD m.addr 0 x.culls with
     | some m => s.leaveMeetAt f x m.addr
     | none => s)
  | _, _ => s

/-- The values of a fibre that ends leave the meetings that have not closed: its position is then nobody's, or a later
fibre's. -/
def State.withdrawMeets (s : State) (f : Nat) : State :=
  s.modGather (gatherOf f) fun ga => { ga with
    meets := ga.meets.map fun m => if m.group == fiOf f / 16 && !m.closed then { m with vals := kvDel (fiOf f % 16) m.vals } else m }

/-! ## Discarding, ending, cancelling -/

/-- An agent is a node of the fibre's instance. -/
def nodeAgent (f a : Nat) : Bool := a / 128 == f && a % 128 != 127

/-- Nothing waits any more for the nodes of a fibre's instance, and none of them stands before others for a miss-status entry
(R83). -/
def State.clearWaits (s : State) (f : Nat) : State :=
  { s with ms := { s.ms with
      fresh := s.ms.fresh.filter fun p => !nodeAgent f p.1
      walks := s.ms.walks.map fun w => { w with waiters := w.waiters.filter fun x => !nodeAgent f x.agent }
      ats := s.ms.ats.map fun a => { a with waiters := a.waiters.filter fun x => !nodeAgent f x.agent }
      fills := s.ms.fills.map fun w => { w with agents := w.agents.filter fun x => !nodeAgent f x }
      missq := s.ms.missq.filter fun m => !nodeAgent f m.2
      breads := s.ms.breads.filter fun b => !nodeAgent f b.agent } }

/-- An instance is discarded (R220): its reservations are released (R330), and arrivals that it has made stay as retry
notes (R270). -/
def State.discard (s : State) (f : Nat) : State :=
  match s.inst? f with
  | none => s
  | some i =>
    let s := (s.clearWaits f).delInst f
    let waits := i.slotW.filterMap fun w => match w.2 with
      | .wait p => some p
      | .full _ => none
    let s := { s with fab := { s.fab with prods := kvFilter (fun p _ => !waits.contains p) s.fab.prods } }
    let s := s.modGather (gatherOf f) fun g => { g with
      reserved := g.reserved.filter fun r => r.1 / 128 != f
      unmaps := g.unmaps.filter fun r => r.1 / 128 != f }
    s.modFibre f fun x => { x with notes := x.notes ++ i.bars.map fun b => (i.hdr, b.1, b.2.2) }

/-- A fibre leaves the rendezvous queues of its cluster. -/
def State.leaveRdv (s : State) (f : Nat) : State :=
  let cl := clOfCore (coreOf f)
  { s with mat := { s.mat with seqs := kvMod cl (fun q => { q with rdv := kvMap (fun _ l => l.filter (· != f)) q.rdv }) s.mat.seqs } }

/-- A fibre's record goes once it has ended and nothing of it is left to do. -/
def State.reap (s : State) (f : Nat) : State :=
  match s.fibre? f with
  | none => s
  | some x => if x.ended && x.post.isEmpty && (s.inst? f).isNone then
      { s with fab := { s.fab with fibres := kvDel f s.fab.fibres } } else s

/-- The key of a window reservation of a fibre's post-commit operation (R330). -/
def reservedKey (f e : Nat) : Nat := agentNode f e + 2 ^ 40
/-- The reservations of a fibre's operations go, but for those of operations that stay. -/
def Gather.unreserve (g : Gather) (f : Nat) (stay : List PostOp) : Gather :=
  let keep (k : Nat) : Bool := k < 2 ^ 40 || (k - 2 ^ 40) / 128 != f || stay.any fun p => reservedKey f p.eidx == k
  { g with reserved := g.reserved.filter fun r => keep r.1, unmaps := g.unmaps.filter fun r => keep r.1 }

/-- The producers of an operation: the first alone, or, for a copy into slots, one for each (R335). -/
def prodsOf (op : Instr) (desc : List Dword) : Option Nat → List Nat
  | none => []
  | some k =>
    let slots := addrs k (bits (desc.getD 4 0).toNat 31 0 / 8)
    match op with
    | .cpy _ _ _ _ => slots
    | .cpyr _ _ _ => slots
    | .cpyp _ _ _ => slots
    | .cpyg _ _ _ => slots
    | _ => [k]
def PostOp.prods (p : PostOp) : List Nat := prodsOf p.op p.desc p.prod

/-- Producers are discarded (R205). -/
def State.dropProds (s : State) (ps : List Nat) : State :=
  if ps.isEmpty then s else { s with fab := { s.fab with prods := kvFilter (fun p _ => !ps.contains p) s.fab.prods } }

/-- A fibre's operations become those that stay; what the others would have produced is discarded, and the head begins anew
unless it stays. -/
def State.keepPosts (s : State) (f : Nat) (x : Fibre) (stay : List PostOp) : State :=
  let st := if stay.head? = x.post.head? ∧ stay ≠ [] then x.stage else 0
  let s := if st = 5 then s else s.leaveRdv f
  (s.setFibre f { x with post := stay, stage := st }).dropProds ((x.post.filter fun p => !stay.contains p).flatMap (·.prods))

/-- Elders' operations have left the head of the queue. -/
def dropElders : Nat → List (Nat × Option (List Nat)) → List (Nat × Option (List Nat))
  | _, [] => []
  | k, (n, r) :: t => if n ≤ k then dropElders (k - n) t else (n - k, r) :: t
def Fibre.passed (x : Fibre) (k : Nat) : Fibre := { x with orphans := x.orphans - k, orel := dropElders k x.orel }

/-- A fibre ends (R205, R227, R264): slots empty, arrivals withdrawn, call stack gone. `keep` says which of its
post-commit operations are still carried out; for them its pending release stands (R141; log entry 83). The barriers of its
gather are still to be checked. -/
def State.leaveGather (s : State) (f : Nat) (keep : List PostOp) : State :=
  match s.fibre? f, s.gather? (gatherOf f) with
  | some x, some ga =>
    let lo := slotKey (coreOf f) (storeIdx ga f 0)
    let s := { s with fab := { s.fab with slots := kvFilter (fun k _ => k < lo || lo + ga.wsize ≤ k) s.fab.slots } }
    let s := s.setGather (gatherOf f) ({ ga with bars := kvMap (fun _ b => b.withdraw (fiOf f)) ga.bars }.unreserve f keep)
    let s := s.modLaunch ga.lid fun l => { l with ended := l.ended + 1 }
    let s := (s.keepPosts f x keep).dropProds (x.heldLoads ++ (x.held ++ x.tail).flatMap (·.prods))
    let s := s.modFibre f fun x => { x with
      ended := true, stack := [], spilled := 0, shadow := none, halt := false, tpend := false, parked := false
      held := [], tail := [], heldLoads := [], report := none, orphans := min x.orphans keep.length }
    (((s.reap f).withdrawMeets f).checkMeets (gatherOf f)).trimSets (coreOf f)
  | _, _ => s
def State.endFibre (s : State) (f : Nat) (keep : List PostOp) : State := (s.leaveGather f keep).checkBars (gatherOf f)

/-- Operations that no rendezvous point keeps: once the program has ended, nothing takes a fibre there (R404). -/
def withoutRdv (l : List PostOp) : List PostOp := l.filter fun p => match p.op with
  | .rdv _ => false
  | _ => true

/-- The operations that a cancelled fibre still completes: the one it has begun, unless it waits at a rendezvous or a
barrier (R404), and those of the fibre that had its index before. Which operations count as issued R404 does not say (log entry
48). -/
def begun (x : Fibre) : List PostOp :=
  if 0 < x.orphans then withoutRdv (x.post.take x.orphans)
  else if x.stage != 0 then (match x.post with
    | p :: _ => (match p.op with
      | .rdv _ => []
      | .await _ => []
      | _ => [p])
    | [] => []) else []

/-- A fibre is stopped for good (R404 step 2): at once, or when its instance is over. One that has ended keeps no place at a
rendezvous point. -/
def State.cancelFibre (s : State) (f : Nat) : State :=
  match s.fibre? f with
  | none => s
  | some x =>
    if x.ended then (s.keepPosts f x (withoutRdv x.post)).reap f
    else if (s.inst? f).isSome then s.setFibre f { x with cancelled := true, stop := true }
    else s.leaveGather f (begun x)
/-- The same for several, whose gathers' barriers are then checked (R268). -/
def State.cancelFibres (s : State) (fs : List Nat) : State :=
  ((fs.map gatherOf).eraseDups).foldl (fun s g => s.checkBars g) (fs.foldl State.cancelFibre s)

/-- A sequencer's program ends: by EXIT, or as at a fault, which also takes its launch's start requests away (R344,
R347). -/
def State.endProgram (s : State) (cl : Nat) (fault : Bool) : State :=
  match s.seq? cl with
  | none => s
  | some q =>
    let s := s.clearFresh (agentSeq cl)
    let s := { s with ms := { s.ms with
      fences := s.ms.fences.filter fun w => w.agent != agentSeq cl
      drains := s.ms.drains.filter fun d => d.agent != agentSeq cl } }
    s.setSeq cl { q with
      run := false, halted := false, stage := 0, binds := [], held := [], met := [], stop := false, stall := 0
      startq := if fault then q.startq.filter fun r => r.lid != q.lid else q.startq }

/-! ## Tiles of a launch (R355) -/

/-- An ownership entry (R354); one that was never written is all zero. -/
def noOwn : Own := ⟨0, 0, 0, false, false, .free, 0⟩
def State.own? (s : State) (cl id : Nat) : Own := kvGetD (32 * cl + id) noOwn s.mat.own
def State.setOwn (s : State) (cl id : Nat) (o : Own) : State :=
  { s with mat := { s.mat with own := kvSetD (32 * cl + id) noOwn o s.mat.own } }

/-- Every element of a tile becomes +0. -/
def State.clearTile (s : State) (cl id : Nat) : State :=
  { s with mat := { s.mat with tiles := kvFilter (fun k _ => k / 16384 != 32 * cl + id) s.mat.tiles } }
/-- A tile becomes FREE: +0 in every element. -/
def State.freeTile (s : State) (cl id : Nat) : State :=
  let s := s.clearTile cl id
  { s with mat := { s.mat with own := kvDel (32 * cl + id) s.mat.own } }

/-- Instructions that a launch's program has issued on a cluster are not complete. -/
def State.issued (s : State) (cl lid : Nat) : Bool := (s.seq? cl).any fun q => q.lid == lid && !q.mats.isEmpty
/-- The tiles of a launch, as cluster and id. -/
def State.tilesOf (s : State) (lid : Nat) : List (Nat × Nat) :=
  (s.mat.own.filter fun o => o.2.launch == lid && (o.2.st == .active || o.2.st == .pinned)).map fun o => (o.1 / 32, o.1 % 32)

/-- The launch ends, is cancelled or killed (R355, R371): ACTIVE tiles become FREE, PINNED ones HOME, once the instructions that its
program has issued on the cluster are complete (R404 step 3). -/
def State.endTiles (s : State) (lid : Nat) : State :=
  ((s.tilesOf lid).filter fun t => !(s.issued t.1 lid)).foldl (fun s t =>
    let o := s.own? t.1 t.2
    if o.st == .active then s.freeTile t.1 t.2 else s.setOwn t.1 t.2 { o with st := .home, launch := 0 }) s

/-! ## Cancelling -/

/-- The sequencer programs and start requests of a launch end, and its tiles change (R404 step 3, R371). -/
def State.endPrograms (s : State) (lid : Nat) : State :=
  State.endTiles ((s.mat.seqs.map (·.1)).foldl (fun s cl =>
    match s.seq? cl with
    | none => s
    | some q =>
      let s := if q.run && q.lid == lid then s.endProgram cl true else s
      { s with mat := { s.mat with seqs := kvMod cl (fun q => { q with startq := q.startq.filter fun r => r.lid != lid }) s.mat.seqs } }) s) lid

/-- A launch's sequencer programs, start requests and issued instructions have ended (R401). -/
def State.programsOver (s : State) (lid : Nat) : Bool :=
  s.mat.seqs.all fun q => !(q.2.run && q.2.lid == lid) && !(q.2.startq.any fun r => r.lid == lid) &&
    !(q.2.lid == lid && !q.2.mats.isEmpty)

/-- The counter of a running launch has fallen to 0 and nothing of it is left to end: a cancel finds it complete (R405). -/
def State.spent (s : State) (lid : Nat) (l : Launch) : Bool :=
  l.st == .running && l.left == 0 && !l.killed && (s.gathersOf lid).isEmpty && s.programsOver lid && (kvGet lid s.disp.saved).isNone

/-- A launch is cancelled (R404): nothing more of it is placed, its fibres and its program end. `info` is INFO of status
2; a launch that another event has ended already keeps that event's status (R403). A cancel that meets a checkpoint in
progress waits (R405), and is the first event to end the launch: its status stays where the checkpoint's spill then fails (R403,
R370; log entry 48). What a drain has saved of a running launch's sections goes (R370). -/
def State.cancelLaunch (s : State) (lid : Nat) (info : Dword) : State :=
  match s.launch? lid with
  | none => s
  | some l =>
    if l.st == .complete || s.spent lid l then s
    else
      let l := { l with cancelled := true, status := if l.status == 0 then 2 else l.status, info := if l.status == 0 then info else l.info }
      if l.checkpoint then { s with disp := { s.disp with launches := kvSet lid l s.disp.launches } }
      else
        let l := if l.st == LState.running then { l with placed := l.ngath, left := (s.gathersOf lid).length } else { l with left := 0 }
        let s := { s with disp := { s.disp with
          launches := kvSet lid l s.disp.launches
          saved := if l.st == LState.running then kvDel lid s.disp.saved else s.disp.saved } }
        (s.cancelFibres (s.fibresOf lid)).endPrograms lid

/-- The first event that ends a launch gives it its status; the rest of the launch is cancelled (R403). -/
def State.launchEvent (s : State) (lid st : Nat) (info : Dword) (cause : Nat) (tval : Dword) : State :=
  let s := s.modLaunch lid fun l => if l.status == 0 then
    { l with status := st, info := info, cause := BitVec.ofNat 8 cause, tval := tval } else l
  s.cancelLaunch lid 0

/-! ## Taking an exception -/

/-- The trap record (R407, R408). -/
def trapRec (hdr : Dword) (n : NodeFault) (post : Bool) : TrapRec where
  cause := BitVec.ofNat 64 (n.cause.toNat + ofBool post * 2 ^ 16)
  epc := hdr
  eidx := BitVec.ofNat 64 n.eidx
  tval := n.tval
  topa := n.a
  topb := n.b
  topc := n.c

/-- The fibre's recorded trap enters its handler: pw and WOFF into the trap save, HM set, PC ← THND (R409). -/
def enterHandler (x : Fibre) (clock : Nat) : Fibre :=
  { x with spw := x.pw, swoff := x.woff, hm := true, pc := x.thnd, way := .trap, since := clock, aged := false,
           tpend := false, halt := false, delay := none }

/-- Cullet emulation is entered (R412): the shadow begins as the fibre's own state. -/
def enterEmulation (x : Fibre) (entry : Dword) (clock born : Nat) : Fibre :=
  { x with emul := (x.trap.tval <<< 32) ||| 1, pc := entry, way := .emul, since := clock, aged := false, delay := none,
           shadow := some ⟨born, [], [], [], x.pw, x.woff, x.stack, x.spilled, x.fsp, x.thnd, []⟩ }

/-- Other fibres of a gather halt at their next block boundary (R418). -/
def State.haltGather (s : State) (f : Nat) : State :=
  { s with fab := { s.fab with fibres := kvMap (fun k x => if gatherOf k == gatherOf f && k != f then { x with halt := true } else x) s.fab.fibres } }

/-- A fibre halts, its trap pending (R414, R418). -/
def State.haltFibre (s : State) (f : Nat) (pend : Bool) (slot : Option DbgSlot) : State :=
  let s := s.modFibre f fun x => { x with halt := true, tpend := x.tpend || pend }
  match slot with
  | some d => if d.hGather then s.haltGather f else s
  | none => s

/-- A trap with no handler (R410): a debugger halts the fibre, or the launch ends with status 4 (R403). -/
def State.noHandler (s : State) (f : Nat) : State :=
  match s.fibre? f, s.gather? (gatherOf f) with
  | some x, some ga =>
    (match s.attached (s.jobOf f) with
     | some d => if d.haltTrap then s.haltFibre f true (some d)
       else s.launchEvent ga.lid 4 x.trap.epc (x.trap.cause.toNat % 256) x.trap.tval
     | none => s.launchEvent ga.lid 4 x.trap.epc (x.trap.cause.toNat % 256) x.trap.tval)
  | _, _ => s

/-- A recorded trap is delivered (R409 to R412, R418): the debugger for a breakpoint, the emulation entry for a cullet,
THND otherwise; none of them in handler mode. -/
def State.deliver (s : State) (f : Nat) : State :=
  match s.fibre? f with
  | none => s
  | some x =>
    let code := x.trap.cause.toNat % 256
    if code = 0x11 then s.haltFibre f true (s.attached (s.jobOf f))
    else if x.hm then s.noHandler f
    else if code = 0x02 then
      if s.mg.ement.getLsbD 0 then
        ((s.setFibre f (enterEmulation x (s.mg.ement &&& ~~~3#64) s.clock s.serial)).enterMeet f).joinSet f
      else s.noHandler f
    else if x.thnd = 0 then s.noHandler f
    else (s.setFibre f (enterHandler x s.clock)).joinSet f

/-- The fibre is in an emulation (R413). -/
def State.inShadow (s : State) (f : Nat) : Bool := match s.fibre? f with
  | some x => x.shadow.isSome
  | none => false

/-- The operations of one instance, by its number, that a queue begins with, and the rest. -/
def sameInstance (n : Nat) (l : List PostOp) : List PostOp × List PostOp :=
  (l.takeWhile fun p => p.inst == n, l.dropWhile fun p => p.inst == n)

/-- What stands behind a failed operation and the later ones of its instance: operations of later instances, which wait for them
(R313). -/
def heldBehind : List PostOp → List PostOp × List PostOp
  | [] => ([], [])
  | p :: r => let (mine, rest) := sameInstance p.inst r; (p :: mine, rest)

/-- Operations held for a handler, and slot loads held with them, are given up: their producers go (R410, R411). The operations of
later instances that waited for them go on, before any that the handler has queued. -/
def State.dropHeld (s : State) (f : Nat) : State :=
  match s.fibre? f with
  | none => s
  | some x =>
    let (gone, rest) := heldBehind x.held
    let post := if x.stage != 0 then x.post.take 1 ++ rest ++ x.post.drop 1 else rest ++ x.post
    let ps := x.heldLoads ++ gone.flatMap (·.prods)
    ((s.setFibre f { x with post := post, held := [], heldLoads := [] }).modGather (gatherOf f) fun g =>
      g.unreserve f (post ++ x.tail)).dropProds ps

/-- A trap is the emulation's own (R413): the fibre is in one, and what fails is no operation of an instance before it. -/
def Fibre.inner (x : Fibre) (post : Bool) : Bool := x.shadow.isSome && (!post || x.reportOwn)

/-- THE TAKING OF AN EXCEPTION by a fibre (R220, R409, R411, R413, R414): the instance is discarded; the record is
written; a fault inside an emulation discards the shadow and becomes cause 0x13 of the cullet; the report of an operation from
before the emulation discards the emulation too, and the fibre goes on at the cullet's block, where the cullet traps again (log
entry 84); a halted fibre keeps the trap pending; a cancelled one ends. -/
def State.takeTrap (s : State) (f : Nat) (hdr : Dword) (n : NodeFault) (post : Bool) : State :=
  let s := if (s.inst? f).isSome then s.count (coreOf f) (s.ctxOfFibre f) 2 else s
  let s := s.discard f
  let s := if (s.fibre? f).any (·.inner post) then s.dropHeld f else s
  match s.fibre? f with
  | none => s
  | some x =>
    if x.cancelled then s.endFibre f (begun x)
    else
      let r := trapRec hdr n post
      let r := if x.inner post then
          { x.trap with cause := BitVec.ofNat 64 (0x13 + n.cause.toNat * 2 ^ 8 + ofBool post * 2 ^ 16), tval := n.tval } else r
      let x := { x with
        trap := r, shadow := none, emul := x.emul &&& ~~~1#64, subst := none
        resume := if post then (if x.shadow.isSome && !x.inner post then x.trap.epc else x.pc) else 0
        reportOwn := false }
      let s := s.setFibre f x
      if x.halt then s.setFibre f { x with tpend := true } else s.deliver f

/-- The return from a handler (R382, R410): pw and WOFF from the trap save, handler mode ends. -/
def leaveHandler (x : Fibre) : Fibre := { x with pw := x.spw, woff := x.swoff, hm := false }

/-! ## Faults of the agents -/

/-- The lowest-indexed fault of an instance. -/
def lowestFault (l : List NodeFault) : Option NodeFault := minBy (·.eidx) l

/-- The nodes of some kind that are still to fire. -/
def Inst.pending (i : Inst) (p : Parsed → Bool) : List Nat :=
  ((nodesOf i.body).filter fun q => i.todo.contains q.1 && p q.2).map (·.1)
/-- WINB, and WRSR of FSP. -/
def isWinb (p : Parsed) : Bool := match p with
  | .whole (.winb _) => true
  | _ => false
def writesFsp (p : Parsed) : Bool := match p with
  | .whole (.wrsr n _) => n == 1
  | _ => false
/-- A WINB of the instance has not fired yet. -/
def Inst.winbPending (i : Inst) : Bool := !(i.pending isWinb).isEmpty
/-- A WRSR of FSP of the instance has not fired yet: a spill or refill uses the FSP that it leaves (R374). -/
def Inst.fspPending (i : Inst) : Bool := !(i.pending writesFsp).isEmpty
/-- The memory nodes of a lower index that have not passed their translation: they have not fired, or their check has failed
(R228). -/
def Inst.memLeft (i : Inst) (e : Nat) : List Nat :=
  ((nodesOf i.body).filter fun q => decide (q.1 < e) && isMemNode q.2 &&
    (i.todo.contains q.1 || i.faults.any fun n => n.eidx == q.1)).map (·.1)
def Inst.memBefore (i : Inst) (e : Nat) : Bool := !(i.memLeft e).isEmpty

/-- A store of a lower index that is still to fire, and does not wait for this node: its bytes may be needed (R134). -/
def Inst.storesBefore (i : Inst) (e : Nat) : List Nat :=
  let ns := nodesOf i.body
  (ns.filter fun q => decide (q.1 < e) && i.todo.contains q.1 && !dependsOn ns q.1 e &&
    (match q.2 with
     | .whole (.st _ _ _ _ _) => true
     | .whole (.stFmt _ _ _ _) => true
     | _ => false)).map (·.1)
def Inst.awaitsStore (i : Inst) (e : Nat) : Bool := !(i.storesBefore e).isEmpty

/-- A node that reads memory as it fires, and is no terminator: LD, or a copy, whose descriptor it reads. -/
def readsNow (p : Parsed) : Bool := match p with
  | .whole (.ld _ _ _ _ _) => true
  | .whole (.ldFmt _ _ _ _) => true
  | .whole (.cpy _ _ _ _) => true
  | .whole (.cpyr _ _ _) => true
  | .whole (.cpyp _ _ _) => true
  | .whole (.cpyg _ _ _) => true
  | _ => false
/-- A node that arrives at a barrier. -/
def arrives (p : Parsed) : Bool := match p with
  | .whole (.bar _) => true
  | .whole (.arrive _) => true
  | _ => false

/-- What a node waits for before it fires: the nodes that feed it and have not fired; for a read of memory the stores before it
(R134), for an arrival the memory nodes before it (R228). -/
def Inst.awaited (i : Inst) (e : Nat) : List Nat :=
  let ns := nodesOf i.body
  match ns.find? fun q => q.1 == e with
  | none => []
  | some q => ((feeders ns q.2).filter fun k => i.todo.contains k || i.faults.any fun n => n.eidx == k) ++
      (if readsNow q.2 then i.storesBefore e else []) ++ (if arrives q.2 then i.memLeft e else [])

/-- The nodes that can fire no more, because what they wait for cannot: beginning with those that have failed. A MERGE goes on
as long as one of what it waits for may come (R272). -/
def Inst.stuck (i : Inst) : Nat → List Nat → List Nat
  | 0, l => l
  | n + 1, l =>
    let ns := nodesOf i.body
    i.stuck n (l ++ i.todo.filter fun e => !l.contains e &&
      (match ns.find? fun q => q.1 == e with
       | some (_, .whole (.merge _ _ _ _)) => !(i.awaited e).isEmpty && (i.awaited e).all l.contains
       | _ => (i.awaited e).any l.contains))

/-- The fault is reported once no node of a lower index can still fire, a BAR that has arrived apart (R59, R209, R409). -/
def Inst.faultReady (i : Inst) : Option NodeFault :=
  match lowestFault i.faults with
  | none => none
  | some n =>
    let over_ := i.stuck i.todo.length (i.faults.map (·.eidx))
    if i.todo.any fun e => e < n.eidx && !(i.bars.any fun b => b.1 == e) && !over_.contains e then none else some n

/-- A node faults: it is noted, and the exception is taken at once if it is the one to report; a post-commit report that has
still to be delivered comes first (R414). -/
def State.nodeFault (s : State) (f e : Nat) (cause : Nat) (tval a b c : Dword) : State :=
  match s.inst? f with
  | none => s
  | some i =>
    let i := { i.done e with faults := i.faults ++ [⟨e, BitVec.ofNat 8 cause, tval, a, b, c⟩] }
    let s := s.setInst f i
    match i.faultReady, (s.fibre? f).any (·.report.isSome) with
    | some n, false => s.takeTrap f i.hdr n false
    | _, _ => s

/-- A sequencer fault (R347): cause, PC and TVAL into its launch's status, and the launch is cancelled. -/
def State.seqFault (s : State) (cl cause : Nat) (tval : Dword) : State :=
  match s.seq? cl with
  | none => s
  | some q => (s.endProgram cl true).launchEvent q.lid 3 q.pc cause tval

/-- A fault of a post-commit operation (R135, R411): reported at the next block boundary; it and the later operations of
its instance are held, and those of later instances behind them (R313). A fibre that has ended reports nothing, and they are not
carried out. While another report has still to be delivered, the operation stays at the head, to be performed again. -/
def State.postFault (s : State) (f cause : Nat) (tval : Dword) : State :=
  match s.fibre? f with
  | none => s
  | some x => match x.post with
    | [] => s
    | p :: r =>
      let (mine, rest) := sameInstance p.inst r
      if x.ended then (s.keepPosts f { x.passed (mine.length + 1) with stage := 0 } rest).reap f
      else if 0 < x.orphans then s.keepPosts f { x.passed (mine.length + 1) with stage := 0 } rest
      else if x.report.isSome then s.setFibre f { x with stage := 0 }
      else
        s.setFibre f { x with
          post := [], held := p :: mine ++ rest ++ x.held, stage := 0, reportHdr := p.hdr
          reportOwn := x.shadow.any fun h => decide (h.born ≤ p.inst)
          report := some ⟨p.eidx, BitVec.ofNat 8 cause, tval, p.a, p.b, p.c⟩ }

/-- The head of a fibre's post-commit operations is done; with the last that held its admission the fibre joins its waiting
set, and waits from then on (R219, R223). -/
def State.popPost (s : State) (f : Nat) : State :=
  match s.fibre? f with
  | none => s
  | some x =>
    let y := { x.passed 1 with post := x.post.tail, stage := 0 }
    if y.ended then (s.setFibre f y).reap f
    else if x.awaits && !y.awaits && (s.inst? f).isNone then
      (s.setFibre f { y with since := max y.since s.clock, aged := false }).joinSet f
    else s.setFibre f y

/-- The present instruction faults, for whomever it is executed; `ops` are its A, B and C. -/
def failWith (s : State) (cause : Nat) (tval : Dword) (ops : List Dword) : Result :=
  match s.cur with
  | .node f e => .next (s.nodeFault f e cause tval (ops.getD 0 0) (ops.getD 1 0) (ops.getD 2 0))
  | .post f => .next (s.postFault f cause tval)
  | .seq cl => .next (s.seqFault cl cause tval)
  | _ => .fault .noAgent

/-- The first word of the present node's instruction (R407). -/
def State.firstWord (s : State) (f e : Nat) : Word := match s.inst? f with
  | some i => i.body.getD e 0
  | none => 0

/-- The word at a sequencer's PC, where its program can be read. -/
def State.seqWordAt (s : State) (cl : Nat) : Word :=
  match s.seq? cl with
  | none => 0
  | some q => match s.xlate (2000 + cl) q.ctx q.pc.toNat needX with
    | (_, .ok l) => BitVec.ofNat 32 (leNat ((addrs (l.pa q.pc.toNat) 4).map s.byte))
    | (_, .error _) => 0

/-- An instruction that sequencer code may not hold (R345): cause 0x01, TVAL its first word. -/
def illegalSeq (s : State) (cl : Nat) : Result := .next (s.seqFault cl 0x01 ((s.seqWordAt cl).zeroExtend 64))

/-- The node is absorbed, with all its destinations (R217). -/
def Inst.absorbAll (i : Inst) (e : Nat) (ds : List Dest) : Inst := ds.foldl (fun i d => i.absorbed d) (i.done e)

/-- A node of an instance with its operands: nothing while one has not arrived, absorption, or the rest. -/
def withNode (s : State) (l : List Operand) (ds : List Dest) (k : Nat → Nat → Inst → List Dword → Result) : Result :=
  match s.cur with
  | .node f e =>
    match s.inst? f with
    | none => .fault .noAgent
    | some i =>
      match i.reads l with
      | .wait => .next s
      | .gone => .next (s.setInst f (i.absorbAll e ds))
      | .vals xs => k f e i xs
  | .seq cl => illegalSeq s cl
  | _ => .fault .noAgent

/-- A cullet encoding (R248, R312): when its operands have arrived, the node traps with cause 0x02. A sequencer has no
cullets (R345). -/
def cullet (l : List Operand) (d : Dest) (s : State) : Result :=
  withNode s l [d] fun f e _ xs =>
    .next (s.nodeFault f e 0x02 ((s.firstWord f e).zeroExtend 64) (xs.getD 0 0) (xs.getD 1 0) (xs.getD 2 0))

/-- An emulation may not hold some instructions (R413). -/
def State.emulating (s : State) (f : Nat) : Bool := s.inShadow f

/-- A dword that nothing constrains (log entry 12). -/
def State.takeFree (s : State) : State × Dword := ({ s with free := s.free + 1 }, Config.freeDword s.free)
/-- A bit that nothing constrains. -/
def State.takeBit (s : State) : State × Bool := ({ s with free := s.free + 1 }, Config.freeBit s.free)
/-- A number not given before. -/
def State.takeSerial (s : State) : State × Nat := ({ s with serial := s.serial + 1 }, s.serial)

end Sys2Proof.Machine
end

