-- ==== Sys2Proof/Machine/Access.lean ====
section
/-! DEFINITION. How an access is resolved (R20 to R24, R28, R29, R36, R39, R40, R54, R57), and how its bytes are read
and written: global memory through the first-level cache or below it (R79, R80), scratchpad and window words (R109 to
R117, R476), the on-chip map (R33 to R37), the apertures, bounded elements (R174 to R178). -/
namespace Sys2Proof.Machine

/-! ## Translation of several bytes -/

/-- What translating the bytes of an access comes to: each byte's address with its leaf. -/
inductive Many where
  | wait
  | bad (b : Bad)
  | ok (xs : List (Nat × Leaf))
  deriving DecidableEq, Repr

/-- Every byte translated; each page is decided on its own (R50), and the first failing byte is the one named (R59). No
cached leaf is used that `ok` fails for the byte (R58). -/
def State.xlateBytes (s : State) (agent unit ctx : Nat) (need : Need) (ok : Nat → Leaf → Bool) : List Nat → State × Many
  | [] => (s, .ok [])
  | va :: r =>
    let (s, x) := s.xlateWait agent unit ctx va need (ok va)
    let (s, y) := s.xlateBytes agent unit ctx need ok r
    (s, match x, y with
      | .wait, _ => .wait
      | _, .wait => .wait
      | .bad b, _ => .bad b
      | _, .bad b => .bad b
      | .ok l, .ok ls => .ok ((va, l) :: ls))

/-- The first byte that a region forbids (R54), among bytes with their leaves. -/
def regionBad (xs : List (Nat × Leaf)) : Option Nat :=
  (xs.find? fun p => p.2.valid && !p.2.inRegion (xs.map (·.1))).map (·.1)

/-- A peer's own part of the address space (R40): whether a number names this part, or a module that a port reaches. -/
def State.ownPeer (s : State) (n : Nat) : Bool := s.mg.peer == some n
def State.portUp (s : State) (p : Nat) : Bool := (kvGetD p ⟨4, true⟩ s.mg.ports).up
def State.reachable (s : State) (n : Nat) : Bool := s.ownPeer n || (kvGetD n [] s.mg.routes).any s.portUp

/-- A frame that is no peer's, or the frame of a peer that can be reached, where it has memory there (R40). -/
def State.peerFits (s : State) (pa : Nat) : Bool := match placeOf s pa with
  | .peer => s.reachable (pa / 2 ^ 40 % 1024) && (!s.ownPeer (pa / 2 ^ 40 % 1024) || (placeOf s (pa % 2 ^ 40)).isMem)
  | _ => true

/-- A frame that a fill, a writeback or a record of a launch can use: the on-chip map is none (R33, R36). -/
def State.lineFits (s : State) (pa : Nat) : Bool := match placeOf s pa with
  | .onchip _ => false
  | _ => s.peerFits pa

/-- The tile belongs to a job: it is not FREE and the ownership entry names the job (R33, R354). -/
def State.ownsTile (s : State) (cl id job : Nat) : Bool := (s.own? cl id).st != .free && (s.own? cl id).job == job

/-- A store that the map does not allow a program (R36). -/
def State.chipStoreBad (s : State) (off job : Nat) : Bool :=
  match chipOf s off with
  | .absent => true
  | .tag _ _ => true
  | .full _ _ => true
  | .tile cl id _ => !s.ownsTile cl id job
  | _ => false

/-! ## Resolution -/

/-- What an access's bytes turn out to be. -/
inductive Resolved where
  | wait
  | bad (b : Bad)
  /-- Bytes of the part's memory, with the leaf of the first. -/
  | mem (pas : List Nat) (l : Leaf)
  /-- Bytes of the gather's allocation. -/
  | scratch (offs : List Nat)
  /-- The on-chip map, by offset, with the RGX of its page. -/
  | onchip (off rgx : Nat)
  /-- The host aperture, and the RGX. -/
  | host (addr rgx : Nat)
  /-- A peer's memory: number and address, and the RGX. -/
  | peer (n addr rgx : Nat)
  deriving DecidableEq, Repr

/-- Who makes an access: its agent number, the unit whose translation cache it uses, its context, its gather, its job. -/
structure Who where
  agent : Nat
  unit : Nat
  ctx : Nat
  ga : Option Gather
  job : Nat
  deriving DecidableEq, Repr

/-- The place of an access that leaves the part's memory: the host's address, translated by ATS where the context asks for it
(R39, R70), or a peer that a port reaches (R40); waiting, or a failure. -/
def State.outsidePlace (s : State) (agent unit ctx va pa rgx : Nat) (need : Need) : State × Resolved :=
  match placeOf s pa with
  | .host =>
    (match s.hostAddr agent unit ctx va pa need with
     | (s, .ok none) => (s, .wait)
     | (s, .ok (some a)) => (s, .host a rgx)
     | (s, .error b) => (s, .bad b))
  | .peer =>
    (s, if s.peerFits pa then .peer (pa / 2 ^ 40 % 1024) (pa % 2 ^ 40) rgx else .bad ⟨0x09, va⟩)
  | _ => (s, .bad ⟨0x09, va⟩)

/-- The place to which a leaf leads a byte of a load or store of n bytes fails no such access (R29, R36, R40): no cached leaf is
used whose place would (R58). -/
def State.placeFits (s : State) (w : Who) (n : Nat) (need : Need) (va : Nat) (l : Leaf) : Bool :=
  match placeOf s (l.pa va) with
  | .onchip off => decide (8 ≤ n) && (if need.w then !s.chipStoreBad off w.job else chipOf s off != .absent)
  | _ => s.peerFits (l.pa va)

/-- An access of n bytes is resolved: the address rules of R20 and R22, alignment, translation and permission, region if the
access heeds it, place. -/
def State.resolve (s : State) (w : Who) (ea n align : Nat) (need : Need) (heeds : Bool := true)
    (fits : Nat → Leaf → Bool := s.placeFits w n need) : State × Resolved :=
  let vas := vaBytes ea n
  let c := ctxOf s w.ctx
  if vas.any fun a => !canonical a then (s, .bad ⟨0x09, ea⟩)
  else if vas.any c.inAperture then
    match w.ga with
    | none => (s, .bad ⟨0x09, ea⟩)
    | some g =>
      if !(vas.all fun a => c.inAperture a && decide (a - c.sb < g.spSize)) then (s, .bad ⟨0x09, ea⟩)
      else if ea % align != 0 then (s, .bad ⟨0x0B, ea⟩)
      else (s, .scratch (vas.map fun a => a - c.sb))
  else if ea % align != 0 then (s, .bad ⟨0x0B, ea⟩)
  else
    match s.xlateBytes w.agent w.unit w.ctx need (fun va l => (!heeds || l.permits vas) && fits va l) vas with
    | (s, .wait) => (s, .wait)
    | (s, .bad b) => (s, .bad b)
    | (s, .ok xs) =>
      match if heeds then regionBad xs else none, xs with
      | some a, _ => (s, .bad ⟨0x09, a⟩)
      | none, [] => (s, .bad ⟨0x09, ea⟩)
      | none, (va, l) :: _ =>
        match placeOf s (l.pa va) with
        | .onchip off => (s, .onchip off l.rgx)
        | .hbm _ => (s, .mem (xs.map fun p => p.2.pa p.1) l)
        | .tier _ => (s, .mem (xs.map fun p => p.2.pa p.1) l)
        | _ => s.outsidePlace w.agent w.unit w.ctx va (l.pa va) l.rgx need

/-! ## The apertures -/

/-- The job for which the present move is made, if it is an agent's of a job. -/
def State.moveJob (s : State) : Nat := match s.cur with
  | .node f _ => s.jobOf f
  | .post f => s.jobOf f
  | .gather g => ((s.gather? g).bind fun ga => (s.launch? ga.lid).map (·.job)).getD 0
  | .seq cl => ((s.seq? cl).map (·.job)).getD 0
  | _ => 0

/-- The port that carries a job's traffic to a peer (R457): a place of the set fixed for the job, and another one only while that
port is down. -/
def State.portOf (s : State) (job peer : Nat) : Option Nat :=
  let ps := kvGetD peer [] s.mg.routes
  (ps.drop (job % ps.length) ++ ps.take (job % ps.length)).find? s.portUp

/-- The link die through which the present move reaches an address outside the part: LD0 for the host, that of the port for a
peer (R456; log entry 82). -/
def State.linkDie (s : State) (pa : Nat) : Nat :=
  if pa < 2 ^ 51 then (match s.portOf s.moveJob (pa / 2 ^ 40 % 1024) with
    | some p => if p < 12 then 8 else 9
    | none => 8)
  else 8

/-- A request of the present move's die to that link die, and the answer (R94, R95). -/
def State.visitOut (s : State) (pa : Nat) : State := match s.moveDie with
  | some d => (s.send d (s.linkDie pa) 0).send (s.linkDie pa) d 2
  | none => s

/-- Bytes that come from outside the part: nothing constrains them. -/
def freeBytes : Nat → State → State × List Byte
  | 0, s => (s, [])
  | n + 1, s =>
    let (s, x) := s.takeFree
    let (s, r) := freeBytes n s
    (s, leBytes 8 x.toNat ++ r)

/-- An access of the present move that is performed past its core's first-level cache: the core's dirty bytes are written back before
it, and the cache holds none of the bytes afterwards (R80, R147). -/
def State.pastL1 (s : State) (pas : List Nat) : State := match s.moveCore with
  | some k => (s.flushLines k pas).l1Drop k pas
  | none => s

/-- A read of a peer's memory or of the host: none where the transaction is refused (R39). -/
def State.outsideRead (s : State) (r : Resolved) (n : Nat) : State × Option (List Byte) :=
  match r with
  | .peer p a _ =>
    if s.ownPeer p then
      let pas := addrs a n
      let s := ((pas.map lineOf).eraseDups).foldl (fun s l => match s.moveDie with
        | some d => (s.visit d l).drainLine l
        | none => s.drainLine l) (s.pastL1 pas)
      if (s.poisoned pas).isSome then (s, none)
      else let (s, bs) := s.readAt (homeOf s a) pas; (s, some bs)
    else let (s, bs) := freeBytes ((n + 7) / 8) (s.visitOut (2 ^ 50 + p * 2 ^ 40 + a)); (s, some (bs.take n))
  | .host a _ =>
    let (s, refused) := (s.visitOut (2 ^ 51 + a)).takeBit
    if refused then (s, none) else let (s, bs) := freeBytes ((n + 7) / 8) s; (s, some (bs.take n))
  | _ => (s, none)

/-! ## The on-chip map (R33 to R37) -/

/-- Dwords in memory order. -/
def dwBytes (l : List Dword) : List Byte := l.flatMap fun d => leBytes 8 d.toNat
/-- A number as a dword. -/
def dn (n : Nat) : Dword := BitVec.ofNat 64 n

/-- A barrier entry (R424). -/
def barEntry (ga : Gather) (b : Nat) : List Byte := match kvGet b ga.bars with
  | some x => dwBytes [dn (ga.gid * 2 ^ 32 + b * 2 ^ 28 + ofBool x.phase * 2 ^ 27 + x.na % 2 ^ 11 * 2 ^ 16 + x.nh % 2 ^ 11 * 2 ^ 5 + 1), 0]
  | none => dwBytes [0, 0]

/-- The barrier whose entry stands at an offset of a core's tag-matching window: the gather in slot n keeps barrier b at
256·n + 16·b (R31, R424; log entry 55). -/
def State.barAt (s : State) (core x : Nat) : Option (Nat × Gather) :=
  match s.gather? (core * 32 + x / 256) with
  | some ga => if x / 256 < 32 ∧ (kvGet (x / 16 % 16) ga.bars).isSome then some (x / 16 % 16, ga) else none
  | none => none

/-- A byte of the tag-matching window. -/
def State.tmByte (s : State) (core x : Nat) : Byte :=
  match s.barAt core x with
  | some (b, ga) => (barEntry ga b).getD (x % 16) 0
  | none => kvGetD (core * 2 ^ 21 + x) 0 s.ms.tm

/-- The gather of a core whose allocation holds a partition offset. -/
def State.gatherAt (s : State) (core x : Nat) : Option (Nat × Gather) :=
  s.fab.gathers.find? fun p => p.2.core == core && decide (p.2.spBase ≤ x) && decide (x < p.2.spBase + p.2.spSize)

/-- The window in which a scratchpad byte is neither valid nor written, so that what it held cannot be read (R111). -/
def State.unread (s : State) (core x : Nat) : Option Window :=
  match s.gatherAt core x with
  | none => none
  | some (_, ga) =>
    let o := x - ga.spBase
    let w := ga.word (o / 4)
    if w.v || w.bm.getLsbD (o % 4) then none else ga.winAt o

/-- A byte of the on-chip map as committed state (R35). -/
def State.chipByte (s : State) (off : Nat) : Option Byte :=
  match chipOf s off with
  | .slot core k b => some (BitVec.ofNat 8 ((s.slot core k).val.toNat / 2 ^ (8 * b)))
  | .scratch core x => some (match s.unread core x with
    | some w => Config.unreadByte w.id x
    | none => s.spByte core x)
  | .tag core x => some (s.tmByte core x)
  | .full core x => some (BitVec.ofNat 8 (leBits ((upto 8).map fun i => (s.slot core (8 * x + i)).full)))
  | .tile cl id b =>
    let w := kvGetD ((32 * cl + id) * 16384 + b / 4) 0 s.mat.tiles
    some (BitVec.ofNat 8 (w.toNat / 2 ^ (8 * (b % 4))))
  | .absent => none
where
  leBits : List Bool → Nat
    | [] => 0
    | b :: r => ofBool b + 2 * leBits r

/-- A tile element. -/
def State.tileAt (s : State) (cl id k : Nat) : Word := kvGetD ((32 * cl + id) * 16384 + k) 0 s.mat.tiles
def State.setTile (s : State) (cl id k : Nat) (x : Word) : State :=
  { s with mat := { s.mat with tiles := kvSetD ((32 * cl + id) * 16384 + k) 0 x s.mat.tiles } }

/-! ## Reading a bounded element (R174 to R176) -/

/-- ε of a tolerance code (R174). -/
def epsOf (q : Nat) (lim : Word) : Dy := if q = 0 then Dy.zero else (dyOfF32 lim).scale ((q : Int) - 7)
/-- The sum of shares. -/
def sumShares (m : KV Dy) : Dy := m.foldl (fun a p => a.add p.2) Dy.zero
/-- The largest positive share, the lowest die among equals. -/
def largestShare : KV Dy → Option (Nat × Dy)
  | [] => none
  | p :: r =>
    match largestShare r with
    | none => if p.2.isZero then none else some p
    | some x => if p.2.lt x.2 then some x else if p.2.isZero then some x else some p

/-- Forced drains until what is left undrained is within ε (R175). -/
def drainLoop : Nat → State → Nat → Dy → KV Dy → State
  | 0, s, _, _, _ => s
  | n + 1, s, line, eps, u =>
    if (sumShares u).le eps then s
    else match largestShare u with
      | none => s
      | some h => drainLoop n (s.askForced h.1 line) line eps (kvDel h.1 u)
def State.drainTo (s : State) (line q : Nat) (lim : Word) : State :=
  match kvGet line s.ms.grants with
  | none => s
  | some g => drainLoop 9 (s.awaitDrains line) line (epsOf q lim) g.shares

/-! ## Scratchpad and window words -/

/-- The global address that an allocation offset stands for, if a window maps it (R110). -/
def Gather.backing (g : Gather) (off : Nat) : Option Nat := (g.winAt off).map fun w => (w.va + (off - w.off)) % 2 ^ 64

/-- The physical line that backs an allocation line, where a walk finds one in the part's memory. -/
def State.backLine (s : State) (g : Gather) (off : Nat) : Option Nat :=
  match g.backing off with
  | none => none
  | some va => match s.walk g.ctx va with
    | .leaf l _ => if (placeOf s (l.pa va)).isMem then some (lineOf (l.pa va)) else none
    | .absent => none

/-- A window is entered in the sharer vector of a line, and the die becomes a sharer (R116). -/
def State.enterWin (s : State) (die line g aline : Nat) : State :=
  let s := s.share die line
  let c := s.copyOf die line
  if c.win.contains (g, aline) then s else s.setCopy die line { c with win := c.win ++ [(g, aline)] }

/-- The written bytes of one word of an allocation: BM takes them, and a word written whole becomes valid once its line
is registered (R112, R476). Outside every window nothing changes. -/
def State.markWord (s : State) (g w : Nat) (mask : Nat) : State :=
  match s.gather? g with
  | none => s
  | some ga =>
    match ga.winAt (4 * w) with
    | none => s
    | some _ =>
      let x := ga.word w
      let bm := x.bm ||| BitVec.ofNat 4 mask
      if mask = 15 then
        let s := match s.backLine ga (4 * w) with
          | some line => s.enterWin (dieOfCore ga.core) line g (4 * w / 128)
          | none => s
        s.modGather g fun ga => ga.setWord w ⟨true, bm⟩
      else s.setGather g (ga.setWord w ⟨x.v, bm⟩)

/-- The words that bytes of an allocation touch, each with the mask of its written bytes. -/
def wordMasks (offs : List Nat) : List (Nat × Nat) :=
  ((offs.map (· / 4)).eraseDups).map fun w =>
    (w, ((upto 4).filter fun b => offs.contains (4 * w + b)).foldl (fun m b => m + 2 ^ b) 0)

/-- Bytes written in a gather's allocation, as one write. -/
def State.scratchWrite (s : State) (g : Nat) (cs : List (Nat × Byte)) : State :=
  match s.gather? g with
  | none => s
  | some ga =>
    let s := s.setSp ga.core (cs.map fun c => (ga.spBase + c.1, c.2))
    (wordMasks (cs.map (·.1))).foldl (fun s w => s.markWord g w.1 w.2) s

/-- A byte of an allocation. -/
def State.scratchByte (s : State) (ga : Gather) (off : Nat) : Byte := s.spByte ga.core (ga.spBase + off)

/-- The words that the bytes touch and that must be filled before they are read (R112). -/
def Gather.invalid (g : Gather) (offs : List Nat) : List Nat :=
  ((offs.map (· / 4)).eraseDups).filter fun w => (g.winAt (4 * w)).isSome && !(g.word w).v

/-- A request for the fill of a window line by an agent; requests for one line merge (R114), and the fill takes the
smallest of their tolerances (log entry 66). -/
def joinFill (g line q agent : Nat) : List Fill → List Fill
  | [] => [⟨g, line, q, [agent], []⟩]
  | f :: r =>
    if f.g == g && f.line == line then
      { f with q := min f.q q, agents := if f.agents.contains agent then f.agents else f.agents ++ [agent] } :: r
    else f :: joinFill g line q agent r

/-- What reading bytes comes to. -/
inductive Read where
  | wait
  | bad (b : Bad)
  | bytes (bs : List Byte)
  deriving DecidableEq, Repr

/-- Words of windows made valid: waiting for fills, their failure, or ready. The failure names the global address of the
touched word (R113). -/
def State.needFills (s : State) (agent g q : Nat) (ga : Gather) (offs : List Nat) : State × Option (Option Bad) :=
  match ga.invalid offs with
  | [] => (s, none)
  | ws =>
    let bad := ws.findSome? fun w => match ga.backing (4 * w) with
      | some va => (match freshFail (s.freshOf agent) va with
        | some b => some (⟨b.cause, va⟩ : Bad)
        | none => none)
      | none => none
    match bad with
    | some b => (s, some (some b))
    | none =>
      let lines := (ws.map (· / 32)).eraseDups
      ({ s with ms := { s.ms with fills := lines.foldl (fun fs l => joinFill g l q agent fs) s.ms.fills } }, some none)

/-- Bytes of an allocation read by an agent, window words being filled first. -/
def State.scratchRead (s : State) (agent g q : Nat) (ga : Gather) (offs : List Nat) : State × Read :=
  match s.needFills agent g q ga offs with
  | (s, some (some b)) => (s, .bad b)
  | (s, some none) => (s, .wait)
  | (s, none) => (s, .bytes (offs.map (s.scratchByte ga)))

/-- A fill made in one step, of a line of an allocation with a tolerance, by an agent and the unit whose translation cache it
uses: done, waiting for the host's translation, or its failure (R113). The core's clean first-level bytes of the line go: no later
load returns an older write than a read of the window (R147). -/
def State.fillNow (s : State) (agent unit g aline q : Nat) : State × Option (Option Bad) :=
  match s.gather? g with
  | none => (s, none)
  | some ga =>
    match ga.backing (aline * 128) with
    | none => (s, none)
    | some va =>
      let vas := [va, va + 127]
      match s.xlate unit ga.ctx va needR (fun l => l.permits vas && s.lineFits (l.pa va)) with
      | (s, .error b) => (s, some (some b))
      | (s, .ok l) =>
        let pa := l.pa va
        if !l.permits vas then (s, some (some ⟨0x09, va⟩))
        else if !(placeOf s pa).isMem then
          match s.outsidePlace agent unit ga.ctx va pa l.rgx needR with
          | (s, .wait) => (s, some none)
          | (s, .bad b) => (s, some (some b))
          | (s, r) => match s.outsideRead r 128 with
            | (s, none) => (s, some (some ⟨0x0D, va⟩))
            | (s, some bs) => (setLine (s.clearFresh agent) ga g aline fun b => bs.getD b 0, none)
        else if s.ms.poison.contains (lineOf pa) then (s, some (some ⟨0x0D, va⟩))
        else
          let s := match l.bound s va with
            | some lim => s.drainTo (lineOf pa) q lim
            | none => s
          let s := (s.enterWin (dieOfCore ga.core) (lineOf pa) g aline).dropClean ga.core (· == lineOf pa)
          (setLine s ga g aline (fun b => s.byte (lineOf pa * 128 + b)), none)
where
  /-- Invalid words of the line take the bytes whose BM bit is clear, and become valid. -/
  setLine (s : State) (ga : Gather) (g aline : Nat) (src : Nat → Byte) : State :=
    (upto 32).foldl (init := s.count ga.core ga.ctx 8) (fun s k =>
      let w := aline * 32 + k
      let x := ga.word w
      if x.v || (ga.winAt (4 * w)).isNone then s
      else
        let s := s.setSp ga.core (((upto 4).filter fun b => !x.bm.getLsbD b).map fun b => (ga.spBase + 4 * w + b, src (4 * k + b)))
        s.modGather g fun ga => ga.setWord w ⟨true, x.bm⟩)

end Sys2Proof.Machine
end

