-- ==== Sys2Proof/Machine/Perform.lean ====
section
/-! DEFINITION. How resolved accesses are performed: loads with what their own instance stores (R134), stores at commit
(R80, R93, R132, R178), what travels on the circuits (R93 to R97). -/
namespace Sys2Proof.Machine

/-! ## Circuits (R93 to R97, R105) -/

/-- A token is put on its circuit by a core or by the die itself; it is held there while the allowance is zero, or behind one
that is (R97). It carries the incarnations of die and core (R105). -/
def State.postToken (s : State) (set src dst cls : Nat) (core : Option Nat) (what : Payload) : State :=
  let c := circOf set src dst cls
  let go := !(s.ms.posted.any fun p => p.circ == c && !p.sent) && s.allowed c (s.hopsBetween src dst)
  let s := if go then s.spend c (s.hopsBetween src dst) else s
  let p : Posted := ⟨set, src, dst, cls, go, core, s.dieInc src, (core.map s.coreInc).getD 0, what⟩
  { s with ms := { s.ms with posted := s.ms.posted ++ [p] } }

/-! ## Writes below the first level -/

/-- A release-pending state as the record that a write carries (R85). -/
def State.recOf (s : State) (f : Nat) (rel : Option (List Nat)) : Option RelRec :=
  rel.map fun rgx => ⟨coreOf f, s.coreInc (coreOf f), rgx⟩
/-- The release record that a write of a release-pending fibre carries (R85). -/
def State.relRec (s : State) (f : Nat) : Option RelRec := (s.fibre? f).bind fun x => s.recOf f x.rel
/-- The release-pending state of the fibre whose operations stand first in the queue: that of an ended fibre lasts until its
last operation is done (R141; log entry 83). -/
def Fibre.postRel (x : Fibre) : Option (List Nat) := match x.orel with
  | g :: _ => g.2
  | [] => x.rel
def Fibre.withRel (x : Fibre) (r : Option (List Nat)) : Fibre := match x.orel with
  | g :: t => { x with orel := (g.1, r) :: t }
  | [] => { x with rel := r }
/-- The record that a post-commit operation of a release-pending fibre carries. -/
def State.postRec (s : State) (f : Nat) : Option RelRec := (s.fibre? f).bind fun x => s.recOf f x.postRel

/-- A record left on the copies of lines at which writes are performed. -/
def State.attachAll (s : State) (die : Nat) (cs : List (Nat × Byte)) (rel : Option RelRec) : State :=
  match rel with
  | none => s
  | some r => (linesOf cs).foldl (fun s l => s.attach die l r) s

/-- A write performed at a die's L2 by an agent of a core (R80). -/
def State.storeL2 (s : State) (core : Nat) (cs : List (Nat × Byte)) (rel : Option RelRec) : State :=
  let s := s.flushLines core (cs.map (·.1))
  let s := s.writeAt (dieOfCore core) cs false none
  (s.attachAll (dieOfCore core) cs rel).l1Update core cs

/-- A write performed at the die's L2 when the line is homed there, and posted to its home otherwise (R93); `bounded` says that
every holder drains before it (R178). -/
def State.postWrite (s : State) (set die : Nat) (core : Option Nat) (cs : List (Nat × Byte)) (own : Option WinLine)
    (op : Option Nat) (bounded : Bool := false) : State :=
  (linesOf cs).foldl (fun s l =>
    let mine := cs.filter fun c => lineOf c.1 == l
    let home := homeOf s (l * 128)
    if home = die then (if bounded then s.drainLine l else s).writeLine die l mine true own
    else s.postToken set die home 0 core (if bounded then .bounded mine own op else .write mine own op)) s

/-- A bounded element is written at the home after every holder has drained (R178). -/
def State.boundedWrite (s : State) (cs : List (Nat × Byte)) (rel : Option RelRec) : State :=
  (linesOf cs).foldl (fun s l =>
    let mine := cs.filter fun c => lineOf c.1 == l
    let s := s.drainLine l
    let home := homeOf s (l * 128)
    (s.writeLine home l mine true none).attachAll home mine rel) s

/-- A byte with one nibble replaced (R320). -/
def mergeNib (old : Byte) (hi : Bool) (x : Byte) : Byte :=
  if hi then (old &&& 0x0F#8) ||| (x <<< 4) else (old &&& 0xF0#8) ||| (x &&& 0x0F#8)
def nibCells (old : Nat → Byte) (nib : Option Bool) (cs : List (Nat × Byte)) : List (Nat × Byte) :=
  match nib with
  | none => cs
  | some hi => cs.map fun c => (c.1, mergeNib (old c.1) hi c.2)

/-! ## The on-chip map -/

/-- A byte in a dword. -/
def setByte (x : Dword) (b : Nat) (v : Byte) : Dword :=
  BitVec.ofNat 64 (x.toNat - x.toNat / 2 ^ (8 * b) % 256 * 2 ^ (8 * b) + v.toNat * 2 ^ (8 * b))

/-- The bytes of a tag-matching entry that is no barrier of a resident gather. -/
def State.tmRaw (s : State) (core x : Nat) (bs : List Byte) : State :=
  { s with ms := { s.ms with tm := (bs.zipIdx).foldl (fun m b => kvSetD (core * 2 ^ 21 + x + b.2) 0 b.1 m) s.ms.tm } }

/-- Bytes written to the tag-matching entry at an offset, as one write of the entry (R31, R424): an entry in use whose GID names
a resident gather of the core is that gather's barrier, with the phase and the counts written; the entry that stood there
goes, if it was another (log entry 55). -/
def State.tmWrite (s : State) (core x : Nat) (cs : List (Nat × Byte)) : State :=
  let bs := (upto 16).map fun k => match cs.find? fun c => c.1 == x + k with
    | some c => c.2
    | none => s.tmByte core (x + k)
  let d := leNat (bs.take 8)
  let b := bits d 31 28
  let s := match s.barAt core x with
    | some (o, ga) => if bit d 0 ∧ o = b ∧ ga.gid = bits d 63 32 then s
      else s.setGather (core * 32 + x / 256) { ga with bars := kvDel o ga.bars }
    | none => s
  match s.fab.gathers.find? fun g => g.2.core == core && g.2.gid == bits d 63 32 && bit d 0 with
  | some (g, ga) =>
    (s.tmRaw core x (List.replicate 16 0)).setGather g { ga with
      bars := kvSet b { ga.bar b with phase := bit d 27, na := bits d 26 16, nh := bits d 15 5 } ga.bars }
  | none => s.tmRaw core x bs

/-- The tag-matching entries among cells of the map, as core and offset, and their bytes. -/
def State.chipTags (s : State) (cs : List (Nat × Byte)) : List (Nat × Nat × Byte) :=
  cs.filterMap fun c => match chipOf s c.1 with
    | .tag core x => some (core, x, c.2)
    | _ => none

/-- One byte through the map, but for scratchpad and tag-matching bytes (R34). A slot written is full, and a
result that arrives for it afterwards is discarded (log entry 78); a tile written is DIRTY (R356). -/
def State.chipPut (s : State) (off : Nat) (v : Byte) : State :=
  match chipOf s off with
  | .slot core k b => let x := s.slot core k; s.setSlot core k ⟨setByte x.val b v, true, x.prod⟩
  | .full core x => (upto 8).foldl (fun s i => let y := s.slot core (8 * x + i); s.setSlot core (8 * x + i) { y with full := v.getLsbD i }) s
  | .tile cl id b =>
    let w := s.tileAt cl id (b / 4)
    (s.setTile cl id (b / 4) ((setByte (w.zeroExtend 64) (b % 4) v).truncate 32)).setOwn cl id { s.own? cl id with dirty := true }
  | _ => s

/-- The scratchpad bytes among cells of the map, by gather and allocation offset. -/
def State.chipScratch (s : State) (cs : List (Nat × Byte)) : List (Nat × Nat × Byte) :=
  cs.filterMap fun c => match chipOf s c.1 with
    | .scratch core x => (match s.gatherAt core x with
      | some (g, ga) => some (g, x - ga.spBase, c.2)
      | none => none)
    | _ => none

/-- A write through the map (R34, R35): a scratchpad byte of a gather's allocation acts as a store of that gather. -/
def State.chipWrite (s : State) (cs : List (Nat × Byte)) : State :=
  let sc := s.chipScratch cs
  let tg := s.chipTags cs
  let s := cs.foldl (fun s c => match chipOf s c.1 with
    | .scratch core x => if (s.gatherAt core x).isSome then s else s.setSp core [(x, c.2)]
    | _ => s.chipPut c.1 c.2) s
  let s := ((tg.map fun c => (c.1, c.2.1 / 16 * 16)).eraseDups).foldl (fun s e =>
    s.tmWrite e.1 e.2 ((tg.filter fun c => c.1 == e.1 && c.2.1 / 16 * 16 == e.2).map (·.2))) s
  ((sc.map (·.1)).eraseDups).foldl (fun s g => s.scratchWrite g ((sc.filter fun x => x.1 == g).map (·.2))) s

/-! ## The apertures -/

/-- A cell of the peer aperture that names the part's own memory (R40). -/
def State.ownCell (s : State) (a : Nat) : Bool := decide (a < 2 ^ 51) && s.ownPeer (a / 2 ^ 40 % 1024)
/-- Bytes written to a peer's memory or to the host, which travel to a link die (R95); the part's own number names its own
memory, at whose home they are performed (R40). Cells are addresses of the peer aperture or of the host aperture. -/
def State.outsideWrite (s : State) (cs : List (Nat × Byte)) (op : Option Nat := none) : State :=
  let own := (cs.filter fun c => s.ownCell c.1).map fun c => (c.1 % 2 ^ 40, c.2)
  let out := cs.filter fun c => !s.ownCell c.1
  match s.moveDie with
  | none => s.boundedWrite own none
  | some d =>
    let s := ((linesOf own).foldl (fun s l => s.visit d l) (s.pastL1 (own.map (·.1)))).boundedWrite own none
    match out with
    | [] => s
    | c :: _ => s.postToken s.moveSet d (s.linkDie c.1) 0 s.moveCore (.write out none op)

/-! ## Stores at commit (R132) -/

/-- A store of a fibre is performed. -/
def State.performStore (s : State) (f : Nat) (o : StoreOp) : State :=
  let core := coreOf f
  match o.goal with
  | .scratch =>
    (match s.gather? (gatherOf f) with
     | some ga => s.scratchWrite (gatherOf f) (nibCells (s.scratchByte ga) o.nib o.cells)
     | none => s)
  | .onchip => s.chipWrite o.cells
  | .outside => s.outsideWrite o.cells
  | .global rgx hint atL2 =>
    let rel := s.relRec f
    if o.lim.toNat % 2 ^ 31 != 0 then
      let s := (linesOf o.cells).foldl (fun s l => (s.visit (dieOf f) l).drainLine l) (s.flushLines core (o.cells.map (·.1)))
      let cs := nibCells s.byte o.nib o.cells
      (s.boundedWrite cs rel).l1Update core cs
    else if rel.isSome || (atL2 && hint != 1) || ((partOf s core).flush && !atL2) then
      let s := s.flushLines core (o.cells.map (·.1))
      s.storeL2 core (nibCells s.byte o.nib o.cells) rel
    else if atL2 then
      let s := s.flushLines core (o.cells.map (·.1))
      let cs := nibCells s.byte o.nib o.cells
      (s.postWrite (s.setOf (s.jobOf f)) (dieOf f) (some core) cs none none).l1Update core cs
    else s.l1Store core rgx (hint == 2) o.cells

/-- The stores of an instance, in index order. -/
def State.performStores (s : State) (f : Nat) (os : List StoreOp) : State :=
  (sortBy (fun a b => decide (a.eidx ≤ b.eidx)) os).foldl (fun s o => s.performStore f o) s

/-! ## Loads -/

/-! ### Miss-status entries (R83, R84) -/

/-- Miss-status entries of a core (R83). -/
def missEntries : Nat := 256
/-- The lines of bytes that a core's first-level cache does not hold. -/
def State.missing (s : State) (core : Nat) (pas : List Nat) : List Nat :=
  ((pas.filter fun p => (s.l1At core p).isNone).map lineOf).eraseDups
/-- The lines of bytes that a load reads below the first-level cache: all while that cache is flushed (R78). -/
def State.below (s : State) (core : Nat) (pas : List Nat) : List Nat :=
  if (partOf s core).flush then (pas.map lineOf).eraseDups else s.missing core pas
/-- A slot load is still to be performed. -/
def State.loadOpen (s : State) (p : Nat) : Bool := match kvGet p s.fab.prods with
  | some pr => pr.load.isSome
  | none => false
/-- An entry still serves a load. -/
def State.missOpen (s : State) (m : Miss) : Bool := m.loads.any s.loadOpen
/-- A miss of a fibre joins an entry: same line, no more than 32 cycles after its allocation (R83), and allocated before no
acquire of the fibre (R84). -/
def State.joins (s : State) (f line : Nat) (m : Miss) : Bool :=
  m.core == coreOf f && m.line == line && decide (s.clock ≤ m.at_ + 32) && !m.acq.contains f && s.missOpen m
def State.joinable (s : State) (f line : Nat) : Option Miss := s.ms.misses.find? (s.joins f line)

/-- An agent of a fibre has the miss-status entries that its load needs, or waits for them in arrival order (R83). -/
def State.missRoom (s : State) (f agent : Nat) (pas : List Nat) : State × Bool :=
  let core := coreOf f
  let new := (s.missing core pas).filter fun l => (s.joinable f l).isNone
  let used := (s.ms.misses.filter fun m => m.core == core && s.missOpen m).length
  let before := (s.ms.missq.filter fun m => m.1 == core).head?
  if new.isEmpty || (decide (used + new.length ≤ missEntries) && (before.isNone || before == some (core, agent))) then
    (if s.ms.missq.isEmpty then s else { s with ms := { s.ms with missq := s.ms.missq.filter (· != (core, agent)) } }, true)
  else if s.ms.missq.contains (core, agent) then (s, false)
  else ({ s with ms := { s.ms with missq := s.ms.missq ++ [(core, agent)] } }, false)

/-- Lines that a slot load misses have miss-status entries that serve it (R83). -/
def State.addMisses (s : State) (f p : Nat) (pas : List Nat) : State :=
  let add (ms : List Miss) (l : Nat) : List Miss :=
    match ms.findIdx? (s.joins f l) with
    | some k => modAt (fun m => { m with loads := p :: m.loads }) k ms
    | none => ms ++ [⟨coreOf f, l, s.clock, [], [p]⟩]
  { s with ms := { s.ms with misses := (s.missing (coreOf f) pas).foldl add (s.ms.misses.filter s.missOpen) } }

/-- A slot load is served: its entries are done with it. -/
def State.endMisses (s : State) (p : Nat) : State :=
  let left := s.ms.misses.map fun m => { m with loads := m.loads.filter (· != p) }
  { s with ms := { s.ms with misses := left.filter fun m => !m.loads.isEmpty } }

/-- What a slot load fetches is installed: no acquire on the core has come since its entries were allocated (R84). -/
def State.missesLive (s : State) (core p : Nat) (pas : List Nat) : Bool :=
  (s.missing core pas).all fun l => s.ms.misses.any fun m => m.core == core && m.line == l && m.loads.contains p && m.acq.isEmpty

/-- Misses of the first-level data cache are counted (R379). -/
def State.countLines (s : State) (core ctx : Nat) (lines : List Nat) : State := lines.foldl (fun s _ => s.count core ctx 6) s

/-- Bytes for a core that are not installed in its first-level cache (R84): those that the die's L2 holds, but for the core's own
dirty ones, so that an aligned load is one access (R149). The clean bytes that it reads past are invalidated: no later load
returns an older write than this one (R147). -/
def State.readPast (s : State) (core ctx : Nat) (pas : List Nat) : State × List Byte :=
  let (s, bs) := (s.countLines core ctx (s.missing core pas)).readAt (dieOfCore core) pas
  let own (p : Nat) : Option Byte := (s.l1At core p).bind fun b => if b.dirty then some b.val else none
  (s.l1Drop core (pas.filter fun p => (own p).isNone), (pas.zip bs).map fun x => (own x.1).getD x.2)

/-- A relaxed load through the first-level cache (R79, R81): none where a line that must be fetched is poisoned (R103).
While the cache is being flushed, the load is performed at the die's L2 (R78), after the core's dirty bytes of its lines; it is
no first-level line miss (log entry 21). -/
def State.loadL1 (s : State) (core ctx rgx : Nat) (pas : List Nat) : State × Option (List Byte) :=
  if (s.below core pas).any s.ms.poison.contains then (s, none)
  else if (partOf s core).flush then
    let (s, bs) := (s.flushLines core pas).readAt (dieOfCore core) pas
    (s, some bs)
  else
    let s := (s.missing core pas).foldl (fun s l => (s.count core ctx 6).l1Fill core l rgx) s
    (s, some (pas.map fun p => match s.l1At core p with
      | some b => b.val
      | none => s.byte p))

/-- A relaxed load of a fibre that fetches now: a line that it joins another's entry for is not installed where an acquire
has come since (R84). -/
def State.loadFibre (s : State) (f ctx rgx : Nat) (pas : List Nat) : State × Option (List Byte) :=
  let lines := s.missing (coreOf f) pas
  if lines.all fun l => ((s.joinable f l).map fun m => m.acq.isEmpty).getD true then s.loadL1 (coreOf f) ctx rgx pas
  else if lines.any s.ms.poison.contains then (s, none)
  else let (s, bs) := s.readPast (coreOf f) ctx pas; (s, some bs)

/-- Which space a store goes to, for forwarding. -/
def StoreTo.space : StoreTo → Nat
  | .global _ _ _ => 0
  | .scratch => 1
  | .onchip => 2
  | .outside => 3

/-- The space of an access and the addresses of its bytes there. -/
def Resolved.cells (n : Nat) : Resolved → Nat × List Nat
  | .mem pas _ => (0, pas)
  | .scratch offs => (1, offs)
  | .onchip off _ => (2, addrs off n)
  | .host a _ => (3, addrs (2 ^ 51 + a) n)
  | .peer p a _ => (3, addrs (2 ^ 50 + p * 2 ^ 40 + a) n)
  | _ => (9, [])

/-- The stores of an instance that a node of index e must see, the lowest first (R134). -/
def Inst.earlier (i : Inst) (e space : Nat) : List StoreOp :=
  sortBy (fun a b => decide (a.eidx ≤ b.eidx)) (i.stores.filter fun o => decide (o.eidx < e) && o.goal.space == space)

/-- A byte as those stores leave it. -/
def forward (os : List StoreOp) (a : Nat) (old : Byte) : Byte :=
  os.foldl (fun b o => match o.cells.find? fun c => c.1 == a with
    | none => b
    | some c => match o.nib with
      | none => c.2
      | some hi => mergeNib b hi c.2) old

/-- Every byte comes from the instance's own stores. -/
def covered (os : List StoreOp) (as : List Nat) : Bool :=
  as.all fun a => os.any fun o => o.nib.isNone && o.cells.any fun c => c.1 == a
/-- Some byte does. -/
def touched (os : List StoreOp) (as : List Nat) : Bool := as.any fun a => os.any fun o => o.cells.any fun c => c.1 == a

/-- The bytes that a bounded read at the home has answered with. -/
def freshBytes (fs : List Fresh) (a n : Nat) : Option (List Byte) :=
  fs.findSome? fun x => match x with
    | .bytes b bs => if b == a && bs.length == n then some bs else none
    | _ => none

/-! ## An agent's own earlier writes (R147) -/

/-- Additions that an agent has offered and that no holder has taken or passed on yet (R171). -/
def State.offering (s : State) (agent : Nat) : Bool := s.ms.offers.any fun o => o.agent == agent

/-- An addition posted to its home that has not been performed. -/
def isAdd (die : Nat) (p : Posted) : Bool := p.src == die && (match p.what with
  | .add _ _ _ _ => true
  | _ => false)

/-- Additions of an agent that have not reached their holder, or their home (R180). -/
def State.addsOut (s : State) (agent die : Nat) : Bool := s.offering agent || s.ms.posted.any (isAdd die)

/-- A write of these lines is under way from a die, or an addition that the agent has offered (R93, R171). -/
def State.underWay (s : State) (die agent : Nat) (lines : List Nat) : Bool :=
  (s.ms.posted.any fun p => p.src == die && p.writes lines) || s.ms.offers.any fun o => o.agent == agent && lines.contains o.line

/-- An ATOM or RED of an earlier instance of the fibre has still to be performed on one of these bytes, or a write of
theirs is under way: a read of a later instance waits, since it returns that write or a later one (R147). -/
def State.ownAhead (s : State) (f space : Nat) (as : List Nat) : Bool :=
  (match s.fibre? f with
   | some x => x.post.any fun p => match p.place with
     | some o => o.goal.space == space && o.cells.any fun c => as.contains c.1
     | none => false
   | none => false) ||
  (space == 0 && s.underWay (dieOf f) (agentNode f 127) (as.map lineOf))

/-- A bounded read is asked of the home (R175), or its answer is taken; a poisoned line fails it. -/
def State.boundedRead (s : State) (agent q : Nat) (lim : Word) (ea : Nat) (pas : List Nat) : State × Read :=
  let a := pas.headD 0
  match freshBytes (s.freshOf agent) a pas.length with
  | some bs => (s, .bytes bs)
  | none => match freshFail (s.freshOf agent) ea with
    | some b => (s, .bad ⟨b.cause, ea⟩)
    | none =>
      let b : BRead := ⟨a, pas.length, q, lim, agent, ea⟩
      ({ s with ms := { s.ms with breads := if s.ms.breads.contains b then s.ms.breads else s.ms.breads ++ [b] } }, .wait)

/-- The bytes of a fibre's resolved load. -/
def State.fibreRead (s : State) (f : Nat) (w : Who) (q ea n : Nat) (r : Resolved) : State × Read :=
  match r with
  | .wait => (s, .wait)
  | .bad b => (s, .bad b)
  | .scratch offs =>
    (match w.ga with
     | some ga => s.scratchRead w.agent (gatherOf f) q ga offs
     | none => (s, .bad ⟨0x09, ea⟩))
  | .onchip off _ =>
    (match (addrs off n).mapM s.chipByte with
     | some bs => (s, .bytes bs)
     | none => (s, .bad ⟨0x09, ea⟩))
  | .mem pas l =>
    (match l.bound s ea with
     | some lim => s.boundedRead w.agent q lim ea pas
     | none => match s.missRoom f w.agent pas with
       | (s, false) => (s, .wait)
       | (s, true) => match s.loadFibre f w.ctx l.rgx pas with
         | (s, some bs) => (s, .bytes bs)
         | (s, none) => (s, .bad ⟨0x0D, ea⟩))
  | r => match s.outsideRead r n with
    | (s, some bs) => (s, .bytes bs)
    | (s, none) => (s, .bad ⟨0x0D, ea⟩)

/-- The bytes of a load with what the instance has stored (R134). Window words are filled first all the same (R112). -/
def State.loadWith (s : State) (f e : Nat) (i : Inst) (w : Who) (q ea n : Nat) (r : Resolved) : State × Read :=
  let (sp, as) := r.cells n
  let os := i.earlier e sp
  if sp != 1 && !as.isEmpty && covered os as then (s, .bytes (as.map fun a => forward os a 0))
  else match s.fibreRead f w q ea n r with
    | (s, .bytes bs) => (s, .bytes (if as.isEmpty then bs else (as.zip bs).map fun p => forward os p.1 p.2))
    | x => x

/-- Who a fibre's node is, as the maker of an access. -/
def State.whoNode (s : State) (f e : Nat) : Who := ⟨agentNode f e, coreOf f, s.ctxOfFibre f, s.gather? (gatherOf f), s.jobOf f⟩
/-- The head of a fibre's post-commit operations, as the maker of an access. -/
def State.whoPost (s : State) (f : Nat) : Who := s.whoNode f 127
/-- A sequencer, as the maker of an access. -/
def State.whoSeq (_ : State) (cl : Nat) (q : Seq) : Who := ⟨agentSeq cl, 2000 + cl, q.ctx, none, q.job⟩

end Sys2Proof.Machine
end

