-- ==== Sys2Proof/Machine/Memory.lean ====
section
/-! DEFINITION. LD, ST and the format accesses (R314 to R320, R346, R52 to R55). -/
namespace Sys2Proof.Machine

/-! ## Forms (R314, R315) -/

/-- Bytes of an access size. -/
def sizeOf7 (sz : BitVec 3) : Nat :=
  match sz.toNat with
  | 0 => 1
  | 1 => 1
  | 2 => 2
  | 3 => 2
  | 4 => 4
  | 5 => 8
  | _ => 16

/-- The effective address (R314). -/
def effAddr (a : Dword) (off : BitVec 7) (n : Nat) : Nat := (a + (off.signExtend 64) * BitVec.ofNat 64 n).toNat

/-- What LD writes to D (R315). -/
def loadValue (sz : BitVec 3) (bs : List Byte) : Dword :=
  let x := leNat bs
  match sz.toNat with
  | 1 => sextD 8 x
  | 3 => sextD 16 x
  | _ => BitVec.ofNat 64 x

/-- The bytes that ST stores (R315). -/
def storeBytes (sz : BitVec 3) (x y : Dword) : List Byte :=
  if sz = 6 then leBytes 8 x.toNat ++ leBytes 8 y.toNat else leBytes (sizeOf7 sz) x.toNat

/-- The window operand that a destination names. -/
def slotOf : Dest → Option Nat
  | .w k => some k.val
  | _ => none

/-- The page of an access and its RGX, kept until commit (R69). -/
def Resolved.page (ea : Nat) : Resolved → Nat × Nat
  | .mem _ l => (vpage ea, l.rgx)
  | .onchip _ g => (vpage ea, g)
  | .host _ g => (vpage ea, g)
  | .peer _ _ g => (vpage ea, g)
  | _ => (vpage ea, 64)
def Inst.touch (i : Inst) (ea : Nat) (r : Resolved) : Inst := { i with used := i.used ++ [r.page ea] }

/-- A node's check fails (R59). -/
def failNode (s : State) (f e : Nat) (b : Bad) (ops : List Dword) : Result :=
  .next ((s.clearFresh (agentNode f e)).nodeFault f e b.cause (BitVec.ofNat 64 b.tval) (ops.getD 0 0) (ops.getD 1 0) (ops.getD 2 0))

/-- A node that has its results: the first destination, and the second for a 16-byte load. -/
def fireLoad (s : State) (f e : Nat) (i : Inst) (d : Dest) (sz : BitVec 3) (bs : List Byte) : Result :=
  let i := if sz = 6 then ((i.done e).put d (BitVec.ofNat 64 (leNat (bs.take 8)))).put (nextD d) (BitVec.ofNat 64 (leNat (bs.drop 8)))
    else i.fire e d (loadValue sz bs)
  .next ((s.clearFresh (agentNode f e)).setInst f i)

/-! ## Slot loads (R132, R215) -/

def State.setProds (s : State) (m : KV Producer) : State := { s with fab := { s.fab with prods := m } }
def State.modProd (s : State) (p : Nat) (fn : Producer → Producer) : State := s.setProds (kvMod p fn s.fab.prods)
def State.dropProd (s : State) (p : Nat) : State := s.setProds (kvDel p s.fab.prods)

/-- The producer belongs to an instance that has not committed. -/
def State.inFlight (s : State) (f p : Nat) : Bool := match s.inst? f with
  | some i => i.slotW.any fun w => w.2 == .wait p
  | none => false

/-- A fault of a fibre found after the commit of its instance by an operation that does not stand in the queue (R411);
one that is waiting to be reported already comes first. -/
def State.reportLate (s : State) (f : Nat) (hdr : Dword) (e cause : Nat) (tval a : Dword) : State :=
  s.modFibre f fun x => if x.ended || x.report.isSome then x
    else { x with reportHdr := hdr, report := some ⟨e, BitVec.ofNat 8 cause, tval, a, 0, 0⟩ }

/-- A slot load finds poison (R103): the node faults, or the fibre hears of it after its commit; where the fibre has ended, the
load is given up with its slot (R205). -/
def State.poisonLoad (s : State) (p : Nat) (pr : Producer) (j : SlotLoad) : State :=
  let e := (j.aux.getD 1 0).toNat
  if s.inFlight pr.f p then (s.modProd p fun pr => { pr with load := none }).nodeFault pr.f e 0x0D j.va (j.aux.getD 2 0) 0 0
  else if (s.fibre? pr.f).all (·.ended) then s.dropProd p
  else (s.reportLate pr.f (j.aux.getD 0 0) e 0x0D j.va (j.aux.getD 2 0)).modFibre pr.f fun x => { x with heldLoads := p :: x.heldLoads }

/-- The load's fault is reported, and it waits for what the handler decides (R411). -/
def State.loadHeld (s : State) (f p : Nat) : Bool := match s.fibre? f with
  | some x => x.heldLoads.contains p
  | none => false

/-- One slot load is performed: its value is fixed (R132), and kept until it arrives. -/
def State.performLoad1 (s : State) (p : Nat) : State :=
  match kvGet p s.fab.prods with
  | none => s
  | some pr =>
    match if s.loadHeld pr.f p then none else pr.load with
    | none => s
    | some j =>
      let core := coreOf pr.f
      if (s.below core j.pas).any s.ms.poison.contains then
        (s.endMisses p).poisonLoad p pr j
      else
        let (s, bs) := if s.missesLive core p j.pas then
            (match s.loadL1 core (s.ctxOfFibre pr.f) j.rgx j.pas with
             | (s, some bs) => (s, bs)
             | (s, none) => (s, []))
          else s.readPast core (s.ctxOfFibre pr.f) j.pas
        (s.endMisses p).modProd p fun pr =>
          { pr with load := none, value := some (loadValue (BitVec.ofNat 3 j.form) bs) }

/-- The slot loads of a fibre. -/
def State.loadsOf (s : State) (f : Nat) : List Nat :=
  (s.fab.prods.filter fun p => p.2.f == f && p.2.load.isSome).map (·.1)

/-- The slot loads of a fibre's committed instances with lower numbers than n that read one of these bytes. -/
def State.earlierLoads (s : State) (f n : Nat) (pas : List Nat) : List Nat :=
  (s.fab.prods.filter fun p => p.2.f == f && decide (p.1 < n) && !s.inFlight f p.1 && (match p.2.load with
    | some j => j.pas.any pas.contains
    | none => false)).map (·.1)

/-- The slot loads of a fibre that read one of these bytes are performed before a later read of the fibre (R147). -/
def State.settleLoads (s : State) (f n : Nat) (pas : List Nat) : State :=
  (s.earlierLoads f n pas).foldl (fun s p => s.performLoad1 p) s

/-- A slot load is performed, after those before it on the same bytes. -/
def State.performLoad (s : State) (p : Nat) : State :=
  match kvGet p s.fab.prods with
  | some ⟨f, _, some j, _⟩ => (s.settleLoads f p j.pas).performLoad1 p
  | _ => s

/-- Every load of a fibre that a release must follow is performed (R144). -/
def State.performLoads (s : State) (f : Nat) : State := (s.loadsOf f).foldl (fun s p => s.performLoad p) s

/-! ## LD -/

/-- A load into a slot that may be performed after commit (R132): the node fires, and a producer stands for the value. -/
def State.issueLoad (s : State) (f e : Nat) (i : Inst) (k : Nat) (ea : Nat) (a : Dword) (pas : List Nat) (l : Leaf)
    (sz : BitVec 3) : State :=
  let (s, p) := s.takeSerial
  let woff := match s.fibre? f with
    | some x => x.eff.woff
    | none => 0
  let job : SlotLoad := { va := BitVec.ofNat 64 ea, goal := .global l.rgx 0 false, pas := pas, form := sz.toNat, rgx := l.rgx,
                          q := 0, lim := 0, fwd := [], aux := [i.hdr, BitVec.ofNat 64 e, a] }
  let s := (s.setProds (kvSet p ⟨f, woff + k, some job, none⟩ s.fab.prods)).addMisses f p pas
  (s.clearFresh (agentNode f e)).setInst f { (i.done e) with slotW := kvSet k (.wait p) i.slotW }

/-- On-chip addresses take 8- and 16-byte accesses only (R36). -/
def onchipBad (r : Resolved) (n : Nat) : Bool := match r with
  | .onchip _ _ => decide (n < 8)
  | _ => false

/-- A fibre's LD. -/
def ldNode (s : State) (q sz : BitVec 3) (d : Dest) (a : Dword) (off : BitVec 7) (f e : Nat) (i : Inst) : Result :=
  let n := sizeOf7 sz
  let ea := effAddr a off n
  if i.awaitsStore e then .next s
  else
    let w := s.whoNode f e
    let (s, r) := s.resolve w ea n n needR
    if onchipBad r n then failNode s f e ⟨0x09, ea⟩ [a]
    else
      let i := match r with
        | .wait => i
        | _ => i.touch ea r
      let (sp, as) := r.cells n
      let late := !(touched (i.earlier e sp) as) && !s.emulating f
      if s.ownAhead f sp as then .next s
      else match slotOf d, r, late with
      | some k, .mem pas l, true =>
        if (l.bound s ea).isNone then
          match s.missRoom f w.agent pas with
          | (s, true) => .next (s.issueLoad f e i k ea a pas l sz)
          | (s, false) => .next s
        else (match s.loadWith f e i w q.toNat ea n r with
          | (s, .wait) => .next s
          | (s, .bad b) => failNode s f e b [a]
          | (s, .bytes bs) => fireLoad s f e i d sz bs)
      | _, _, _ =>
        let s := if sp = 0 then s.settleLoads f s.serial as else s
        match s.loadWith f e i w q.toNat ea n r with
        | (s, .wait) => .next s
        | (s, .bad b) => failNode s f e b [a]
        | (s, .bytes bs) => fireLoad s f e i d sz bs

/-! ## Sequencer accesses (R346) -/

/-- The bytes of a sequencer's resolved load, read at the die's L2. -/
def State.seqRead (s : State) (cl : Nat) (w : Who) (q ea n : Nat) (r : Resolved) : State × Read :=
  match r with
  | .wait => (s, .wait)
  | .bad b => (s, .bad b)
  | .scratch _ => (s, .bad ⟨0x09, ea⟩)
  | .onchip off _ =>
    (match (addrs off n).mapM s.chipByte with
     | some bs => (s, .bytes bs)
     | none => (s, .bad ⟨0x09, ea⟩))
  | .mem pas l =>
    if s.underWay (dieOfCl cl) w.agent (pas.map lineOf) then (s, .wait)
    else (match l.bound s ea with
     | some lim => s.boundedRead w.agent q lim ea pas
     | none =>
       if (s.poisoned pas).isSome then (s, .bad ⟨0x0D, ea⟩)
       else let (s, bs) := s.readAt (dieOfCl cl) pas; (s, .bytes bs))
  | r => match s.outsideRead r n with
    | (s, some bs) => (s, .bytes bs)
    | (s, none) => (s, .bad ⟨0x0D, ea⟩)

/-- A store of a sequencer waits for its own earlier writes of the lines (log entry 56). -/
def State.seqAhead (s : State) (cl : Nat) (w : Who) (r : Resolved) (n : Nat) : Bool :=
  (r.cells n).1 == 0 && s.underWay (dieOfCl cl) w.agent ((r.cells n).2.map lineOf)

/-- Bytes stored by a sequencer at resolved addresses: at the die's L2 whatever the hint, so that the store is complete before
the next instruction (R346), and at the home for a bounded store. -/
def State.seqWrite (s : State) (cl : Nat) (ea n : Nat) (r : Resolved) (bs : List Byte) : State :=
  match r with
  | .mem pas l =>
    let cs := pas.zip bs
    if (l.bound s ea).isSome then ((linesOf cs).foldl (fun s l => s.visit (dieOfCl cl) l) s).boundedWrite cs none
    else s.writeAt (dieOfCl cl) cs false none
  | .onchip off _ => s.chipWrite (cellsAt off bs)
  | r => s.outsideWrite ((r.cells n).2.zip bs)

/-- A sequencer's instruction is done: its answers are used up, and PC moves past its words. -/
def State.seqDone (s : State) (cl : Nat) (q : Seq) (words : Nat) : State :=
  (s.clearFresh (agentSeq cl)).setSeq cl (q.past words)

/-- A sequencer instruction fails (R347). -/
def failSeq (s : State) (cl : Nat) (b : Bad) : Result := .next (s.seqFault cl b.cause (BitVec.ofNat 64 b.tval))

/-- A sequencer's LD. -/
def ldSeq (s : State) (q sz : BitVec 3) (d : Dest) (a : Operand) (off : BitVec 7) (cl : Nat) (sq : Seq) : Result :=
  let n := sizeOf7 sz
  let ea := effAddr (sq.read a) off n
  let w := s.whoSeq cl sq
  let (s, r) := s.resolve w ea n n needR
  if onchipBad r n then failSeq s cl ⟨0x09, ea⟩
  else match s.seqRead cl w q.toNat ea n r with
    | (s, .wait) => .next s
    | (s, .bad b) => failSeq s cl b
    | (s, .bytes bs) =>
      let sq := if sz = 6 then (sq.put d (BitVec.ofNat 64 (leNat (bs.take 8)))).put (nextD d) (BitVec.ofNat 64 (leNat (bs.drop 8)))
        else sq.put d (loadValue sz bs)
      .next (s.seqDone cl sq (1 + litCount [a]))

/-- LD (R314 to R317). -/
def execLd (q sz : BitVec 3) (d : Dest) (a : Operand) (off : BitVec 7) (s : State) : Result :=
  match s.cur with
  | .seq cl => (match s.seq? cl with
    | some sq => ldSeq s q sz d a off cl sq
    | none => .fault .noAgent)
  | _ => withNode s [a] (if sz = 6 then [d, nextD d] else [d]) fun f e i xs => ldNode s q sz d (xs.getD 0 0) off f e i

/-! ## ST -/

/-- The pages of translated bytes, each with its RGX (R69). -/
def pagesOf (xs : List (Nat × Leaf)) : List (Nat × Nat) := (xs.map fun x => (vpage x.1, x.2.rgx)).eraseDups

/-- The pages that back the window words of a write grant W (R112): waiting, a failure, or those pages. -/
def State.windowStoreCheck (s : State) (w : Who) (ga : Gather) (offs : List Nat) : State × Option (Except Bad (List (Nat × Nat))) :=
  let vas := offs.filterMap ga.backing
  match s.xlateBytes w.agent w.unit w.ctx needW (fun _ => Leaf.permits vas) vas with
  | (s, .wait) => (s, none)
  | (s, .bad b) => (s, some (.error b))
  | (s, .ok xs) => (s, some (match regionBad xs with
    | some a => .error ⟨0x09, a⟩
    | none => .ok (pagesOf xs)))

/-- The store that a resolved place makes, or waiting, or a failure. -/
def State.planStore (s : State) (w : Who) (job e ea hint n : Nat) (nib : Option Bool) (bs : List Byte) (r : Resolved) :
    State × Option (Except Bad StoreOp) :=
  let mk (goal : StoreTo) (lim : Word) (pages : List (Nat × Nat)) : StoreOp :=
    ⟨e, BitVec.ofNat 64 ea, goal, (r.cells n).2.zip bs, nib, lim, pages⟩
  match r with
  | .wait => (s, none)
  | .bad b => (s, some (.error b))
  | .scratch offs =>
    (match w.ga with
     | none => (s, some (.error ⟨0x09, ea⟩))
     | some ga => match s.windowStoreCheck w ga offs with
       | (s, none) => (s, none)
       | (s, some (.error b)) => (s, some (.error b))
       | (s, some (.ok ps)) => (s, some (.ok (mk .scratch 0 ps))))
  | .onchip off _ => (s, some (if n < 8 || s.chipStoreBad off job then .error ⟨0x09, ea⟩ else .ok (mk .onchip 0 [r.page ea])))
  | .mem _ l => (s, some (.ok (mk (.global l.rgx hint (hint == 1)) ((l.bound s ea).getD 0) [r.page ea])))
  | _ => (s, some (.ok (mk .outside 0 [r.page ea])))

/-- A fibre's ST: checked now, performed at commit (R132). -/
def stNode (s : State) (q sz : BitVec 3) (a x y : Dword) (off : BitVec 7) (f e : Nat) (i : Inst) : Result :=
  let n := sizeOf7 sz
  let ea := effAddr a off n
  let w := s.whoNode f e
  let (s, r) := s.resolve w ea n n needW
  match s.planStore w (s.jobOf f) e ea q.toNat n none (storeBytes sz x y) r with
  | (s, none) => .next s
  | (s, some (.error b)) => failNode s f e b [a]
  | (s, some (.ok o)) =>
    .next ((s.clearFresh (agentNode f e)).setInst f { i.done e with stores := i.stores ++ [o] })

/-- A sequencer's ST. -/
def stSeq (s : State) (q sz : BitVec 3) (x a : Operand) (off : BitVec 7) (cl : Nat) (sq : Seq) : Result :=
  let n := sizeOf7 sz
  let ea := effAddr (sq.read a) off n
  let w := s.whoSeq cl sq
  let (s, r) := s.resolve w ea n n needW
  match s.planStore w sq.job 0 ea q.toNat n none [] r with
  | (s, none) => .next s
  | (s, some (.error b)) => failSeq s cl b
  | (s, some (.ok _)) =>
    if s.seqAhead cl w r n then .next s
    else .next ((s.seqWrite cl ea n r (storeBytes sz (sq.read x) (sq.read (nextV x)))).seqDone cl sq (1 + litCount [a]))

/-- ST (R314 to R317). -/
def execSt (q sz : BitVec 3) (x a : Operand) (off : BitVec 7) (s : State) : Result :=
  match s.cur with
  | .seq cl => (match s.seq? cl with
    | some sq => stSeq s q sz x a off cl sq
    | none => .fault .noAgent)
  | _ => withNode s (if sz = 6 then [a, x, nextV x] else [a, x]) [] fun f e i xs =>
    stNode s q sz (xs.getD 0 0) (xs.getD 1 0) (xs.getD 2 0) off f e i

/-! ## Format accesses (R318 to R320) -/

/-- Bytes of a format's block (R52, R318). -/
def blockBytes (fmt : Nat) : Nat :=
  match fmt with
  | 1 => 128
  | 2 => 64
  | 3 => 64
  | 4 => 32
  | 5 => 32
  | 6 => 32
  | 7 => 16
  | 8 => 32
  | 9 => 32
  | 10 => 24
  | 11 => 24
  | 12 => 16
  | 13 => 32
  | _ => 17

/-- The bytes of a block that hold element e (R318, R189, R191). -/
def elemOffsets (fmt e : Nat) : List Nat :=
  match fmt with
  | 1 => addrs (4 * e) 4
  | 2 => addrs (2 * e) 2
  | 3 => addrs (2 * e) 2
  | 7 => [e / 2]
  | 10 => [6 * e / 8, (6 * e + 5) / 8].eraseDups
  | 11 => [6 * e / 8, (6 * e + 5) / 8].eraseDups
  | 12 => [e / 2]
  | 14 => [2 * (e / 4), 2 * (e / 4) + 1, 16]
  | _ => [e]

/-- Formats 0x8 to 0xD take a scale from the region's array (R55). -/
def isScaled (fmt : Nat) : Bool := decide (8 ≤ fmt) && decide (fmt ≤ 13)

/-- The number format of a page format with floating elements. -/
def pageFmt (fmt : Nat) : Fmt :=
  match fmt with
  | 1 => Sys2Proof.Machine.fp32
  | 2 => Sys2Proof.Machine.fp16
  | 3 => Sys2Proof.Machine.bf16
  | 4 => e4m3
  | 5 => e5m2
  | 8 => e4m3
  | 9 => e5m2
  | 10 => e3m2
  | 11 => e2m3
  | _ => e2m1

/-- The stored element's bits, out of the bytes of elemOffsets. -/
def elemCode (fmt e : Nat) (bs : List Byte) : Nat :=
  let x := leNat bs
  match fmt with
  | 7 => x / 2 ^ (4 * (e % 2)) % 16
  | 12 => x / 2 ^ (4 * (e % 2)) % 16
  | 10 => x / 2 ^ (6 * e % 8) % 64
  | 11 => x / 2 ^ (6 * e % 8) % 64
  | _ => x

/-- What a format load writes to D (R319); y is the scale byte of a scaled format. -/
def fmtValue (fmt e y : Nat) (bs : List Byte) : Dword :=
  let x := elemCode fmt e bs
  if fmt = 6 then sextD 8 x
  else if fmt = 7 then sextD 4 x
  else if fmt = 13 then extZ (toF32 ((e8m0 y).mul ((FV.ofInt (toSigned 8 x)).mul (.fin false 1 (-6)))))
  else if fmt = 14 then
    let w := leNat (bs.take 2)
    let k := (bs.getD 2 0).toNat
    let j := 2 * (e % 4)
    BitVec.ofNat 64 ((toF32 (lc2Weight k w j)).toNat + (toF32 (lc2Weight k w (j + 1))).toNat * 2 ^ 32)
  else if isScaled fmt then extZ (toF32 ((e8m0 y).mul ((pageFmt fmt).decode x)))
  else extZ (toF32 ((pageFmt fmt).decode x))

/-- The bytes and the nibble that a format store writes (R320). -/
def fmtBytes (fmt e : Nat) (x : Dword) : List Byte × Option Bool :=
  match fmt with
  | 1 => (leBytes 4 x.toNat, none)
  | 2 => (leBytes 2 (Sys2Proof.Machine.fp16.round .rne (f32 (lo32 x))), none)
  | 3 => (leBytes 2 (Sys2Proof.Machine.bf16.round .rne (f32 (lo32 x))), none)
  | 4 => (leBytes 1 (e4m3.round .rne (f32 (lo32 x))), none)
  | 5 => (leBytes 1 (e5m2.round .rne (f32 (lo32 x))), none)
  | 6 => (leBytes 1 (wrap 8 (clamp (-128) 127 x.toInt)), none)
  | _ => (leBytes 1 (wrap 4 (clamp (-8) 7 x.toInt)), some (e % 2 == 1))

/-- A format access as resolved: the format, the element's bytes, the address of its scale byte, the leaf and the global
address of the element's first byte, the pages that it touches. -/
structure FmtPlan where
  fmt : Nat
  at_ : Resolved
  scale : Option Nat
  leaf : Leaf
  va : Nat
  pages : List (Nat × Nat)
  deriving DecidableEq, Repr

/-- Where a byte of a format access lies: its global address, and the allocation offset if it is one of a window word, whose
own page backs it (R24). -/
def State.fmtPlace (s : State) (w : Who) (a : Nat) : Except Bad (Nat × Option Nat) :=
  let c := ctxOf s w.ctx
  if !canonical a then .error ⟨0x09, a⟩
  else if c.inAperture a then
    match w.ga with
    | none => .error ⟨0x09, a⟩
    | some g =>
      if g.spSize ≤ a - c.sb then .error ⟨0x09, a⟩
      else match g.backing (a - c.sb) with
        | some va => .ok (va, some (a - c.sb))
        | none => .error ⟨0x09, a⟩
  else .ok (a, none)

/-- The format checks on the leaf of the block (R52 to R55), for its element e: the address of the scale byte, if there is one. A
failure names the lowest byte of the element (R59, R318), and the block where it is misaligned or has no format. -/
def fmtCheck (l : Leaf) (a va e : Nat) (store : Bool) : Except Bad (Option Nat) :=
  let fmt := l.fmt
  let low := (a + (elemOffsets fmt e).headD 0) % 2 ^ 64
  if fmt = 0 then .error ⟨0x09, a⟩
  else if store && decide (8 ≤ fmt) then .error ⟨0x0A, low⟩
  else if fmt < 8 then (if va % blockBytes fmt = 0 then .ok none else .error ⟨0x0B, a⟩)
  else if !isScaled fmt then .ok none
  else if !l.valid then .error ⟨0x09, low⟩
  else if ((va : Int) - l.base) % blockBytes fmt ≠ 0 then .error ⟨0x0B, a⟩
  else if va < l.base || l.endv ≤ va then .error ⟨0x09, low⟩
  else if l.scale = 0 then .error ⟨0x09, low⟩
  else .ok (some ((l.scale + (va - l.base) / blockBytes fmt) % 2 ^ 64))

/-- Every byte of an element by its place; the access faults as R20 and R22 say where one has none. -/
def State.fmtPlaces (s : State) (w : Who) (a : Nat) (os : List Nat) : Except Bad (List (Nat × Option Nat)) :=
  match os.mapM fun o => (s.fmtPlace w ((a + o) % 2 ^ 64)).toOption with
  | some ps => .ok ps
  | none => .error ⟨0x09, a⟩

/-- Where the bytes of an element may lie (R318): in the part's memory, and for those of window words also where a fill gets them
(R24, R39); a frame of the on-chip map holds none (R36). -/
def State.fmtSeat (s : State) (inWindow : Bool) (pa : Nat) : Bool := (placeOf s pa).isMem || (inWindow && (placeOf s pa).outside)

/-- The bytes of an element as translated: all of them where an element may lie, of pages of one format (R318), and allowed by
their regions (R54). -/
def State.fmtJudge (s : State) (fmt : Nat) (scale : Option Nat) (a : Nat) (ps : List (Nat × Option Nat)) (xs : List (Nat × Leaf)) :
    Except Bad FmtPlan :=
  match xs.find? fun x => x.2.fmt != fmt || !s.fmtSeat (ps.any (·.2.isSome)) (x.2.pa x.1), regionBad xs, xs with
  | some x, _, _ => .error ⟨0x09, x.1⟩
  | none, some x, _ => .error ⟨0x09, x⟩
  | none, none, (va, l) :: _ =>
    let offs := ps.filterMap (·.2)
    if offs.isEmpty then .ok ⟨fmt, .mem (xs.map fun x => x.2.pa x.1) l, scale, l, va, pagesOf xs⟩
    else if offs.length = ps.length then .ok ⟨fmt, .scratch offs, scale, l, va, pagesOf xs⟩
    else .error ⟨0x09, a⟩
  | none, none, [] => .error ⟨0x09, a⟩

/-- A format access resolved. The page of the block address gives the format; what it touches, and what is checked, is the
bytes of the element only (R318, R59; log entry 67). -/
def State.fmtPlan (s : State) (w : Who) (a e : Nat) (store : Bool) : State × Option (Except Bad FmtPlan) :=
  match s.fmtPlace w a with
  | .error b => (s, some (.error b))
  | .ok (va, _) =>
    match s.xlateWait w.agent w.unit w.ctx va ⟨false, false, false⟩ fun l => (fmtCheck l a va e store).isOk with
    | (s, .wait) => (s, none)
    | (s, .bad b) => (s, some (.error b))
    | (s, .ok l) =>
      match fmtCheck l a va e store with
      | .error b => (s, some (.error b))
      | .ok scale =>
        match s.fmtPlaces w a (elemOffsets l.fmt e) with
        | .error b => (s, some (.error b))
        | .ok ps =>
          let vas := ps.map (·.1)
          match s.xlateBytes w.agent w.unit w.ctx (if store then needW else needR)
              (fun va x => x.fmt == l.fmt && x.permits vas && s.fmtSeat (ps.any (·.2.isSome)) (x.pa va)) vas with
          | (s, .wait) => (s, none)
          | (s, .bad b) => (s, some (.error b))
          | (s, .ok xs) => (s, some (s.fmtJudge l.fmt scale a ps xs))

/-- Runs of consecutive addresses. -/
def runsOf : List Nat → List (List Nat)
  | [] => []
  | a :: r => match runsOf r with
    | (b :: x) :: y => if b = a + 1 then (a :: b :: x) :: y else [a] :: (b :: x) :: y
    | y => [a] :: y

/-- Several bounded reads, one for each run of addresses. -/
def State.boundedReads (s : State) (agent q : Nat) (lim : Word) (ea : Nat) : List (List Nat) → State × Read
  | [] => (s, .bytes [])
  | r :: rs =>
    let (s, x) := s.boundedRead agent q lim ea r
    let (s, y) := s.boundedReads agent q lim ea rs
    (s, match x, y with
      | .wait, _ => .wait
      | _, .wait => .wait
      | .bad b, _ => .bad b
      | _, .bad b => .bad b
      | .bytes a, .bytes b => .bytes (a ++ b))

/-- A resolved read that heeds no region: it is no bounded one. -/
def Resolved.plain : Resolved → Resolved
  | .mem pas l => .mem pas { l with desc := [] }
  | r => r

/-- The scale byte of a format access, resolved: an ordinary read that heeds neither FMT nor RGX (R55). -/
def State.scalePlace (s : State) (w : Who) (va : Nat) : State × Resolved :=
  let (s, r) := s.resolve w va 1 1 needR false
  (s, if onchipBad r 1 then .bad ⟨0x09, va⟩ else r.plain)

/-- The scale byte of a fibre's format load, with what the instance has stored (R55, R134), after the fibre's own earlier writes
and reads of it (R147); and its page (R69). -/
def State.scaleFibre (s : State) (f e : Nat) (i : Inst) (w : Who) (p : FmtPlan) : State × Read × List (Nat × Nat) :=
  match p.scale with
  | none => (s, .bytes [0], [])
  | some va =>
    let (s, r) := s.scalePlace w va
    let (sp, as) := r.cells 1
    if s.ownAhead f sp as then (s, .wait, [])
    else
      let s := if sp = 0 then s.settleLoads f s.serial as else s
      let (s, x) := s.loadWith f e i w 0 va 1 r
      (s, x, [r.page va])

/-- The scale byte of a sequencer's format load. -/
def State.scaleSeq (s : State) (cl : Nat) (w : Who) (p : FmtPlan) : State × Read :=
  match p.scale with
  | none => (s, .bytes [0])
  | some va =>
    let (s, r) := s.scalePlace w va
    s.seqRead cl w 0 va 1 r

/-- The element's bytes for a fibre, with what the instance has stored. -/
def State.fmtFibreRead (s : State) (f e : Nat) (i : Inst) (w : Who) (q a : Nat) (p : FmtPlan) : State × Read :=
  match p.at_, p.leaf.bound s p.va with
  | .mem pas _, some lim =>
    (match s.boundedReads w.agent q lim a (runsOf pas) with
     | (s, .bytes bs) => (s, .bytes ((pas.zip bs).map fun x => forward (i.earlier e 0) x.1 x.2))
     | x => x)
  | .mem pas l, none => s.loadWith f e i w q a pas.length (.mem pas l)
  | .scratch offs, _ => s.loadWith f e i w q a offs.length (.scratch offs)
  | _, _ => (s, .bad ⟨0x09, a⟩)

/-- A fibre's format load. -/
def ldFmtNode (s : State) (q : BitVec 3) (d : Dest) (a : Dword) (el : Nat) (f e : Nat) (i : Inst) : Result :=
  if i.awaitsStore e then .next s
  else
    let w := s.whoNode f e
    match s.fmtPlan w a.toNat el false with
    | (s, none) => .next s
    | (s, some (.error b)) => failNode s f e b [a]
    | (s, some (.ok p)) =>
      if s.ownAhead f (p.at_.cells 0).1 (p.at_.cells 0).2 then .next s
      else match s.scaleFibre f e i w p with
      | (s, .wait, _) => .next s
      | (s, .bad b, _) => failNode s f e b [a]
      | (s, .bytes ys, page) =>
        let s := if (p.at_.cells 0).1 = 0 then s.settleLoads f s.serial (p.at_.cells 0).2 else s
        match s.fmtFibreRead f e i w q.toNat a.toNat p with
        | (s, .wait) => .next s
        | (s, .bad b) => failNode s f e b [a]
        | (s, .bytes bs) =>
          let i := { i with used := i.used ++ p.pages ++ page }
          .next ((s.clearFresh (agentNode f e)).setInst f (i.fire e d (fmtValue p.fmt el (ys.headD 0).toNat bs)))

/-- A sequencer's format load. -/
def ldFmtSeq (s : State) (q : BitVec 3) (d : Dest) (a : Operand) (el : Nat) (cl : Nat) (sq : Seq) : Result :=
  let w := s.whoSeq cl sq
  let ad := (sq.read a).toNat
  match s.fmtPlan w ad el false with
  | (s, none) => .next s
  | (s, some (.error b)) => failSeq s cl b
  | (s, some (.ok p)) =>
    match s.scaleSeq cl w p with
    | (s, .wait) => .next s
    | (s, .bad b) => failSeq s cl b
    | (s, .bytes ys) =>
      let r := match p.at_, p.leaf.bound s p.va with
        | .mem pas _, some lim =>
          if s.underWay (dieOfCl cl) w.agent (pas.map lineOf) then (s, Read.wait)
          else s.boundedReads w.agent q.toNat lim ad (runsOf pas)
        | .mem pas l, none => s.seqRead cl w q.toNat ad pas.length (.mem pas l)
        | _, _ => (s, .bad ⟨0x09, ad⟩)
      match r with
      | (s, .wait) => .next s
      | (s, .bad b) => failSeq s cl b
      | (s, .bytes bs) => .next (s.seqDone cl (sq.put d (fmtValue p.fmt el (ys.headD 0).toNat bs)) (1 + litCount [a]))

/-- LD.FMT (R318, R319). -/
def execLdFmt (q : BitVec 3) (d : Dest) (a : Operand) (e : BitVec 5) (s : State) : Result :=
  match s.cur with
  | .seq cl => (match s.seq? cl with
    | some sq => ldFmtSeq s q d a e.toNat cl sq
    | none => .fault .noAgent)
  | _ => withNode s [a] [d] fun f n i xs => ldFmtNode s q d (xs.getD 0 0) e.toNat f n i

/-- A fibre's format store: an INT4 store is performed at the die's L2, or on a window word that is filled first. -/
def stFmtNode (s : State) (q : BitVec 3) (a x : Dword) (el : Nat) (f e : Nat) (i : Inst) : Result :=
  let w := s.whoNode f e
  match s.fmtPlan w a.toNat el true with
  | (s, none) => .next s
  | (s, some (.error b)) => failNode s f e b [a]
  | (s, some (.ok p)) =>
    let (bs, nib) := fmtBytes p.fmt el x
    let fill := match p.at_, w.ga, nib with
      | .scratch offs, some ga, some _ => s.needFills w.agent (gatherOf f) 7 ga offs
      | _, _, _ => (s, none)
    match fill with
    | (s, some none) => .next s
    | (s, some (some b)) => failNode s f e b [a]
    | (s, none) =>
      let goal : StoreTo := match p.at_ with
        | .mem _ l => if nib.isSome then .global l.rgx 0 true else .global l.rgx q.toNat (q == 1)
        | _ => .scratch
      let lim := match p.at_ with
        | .mem _ _ => (p.leaf.bound s p.va).getD 0
        | _ => 0
      let o : StoreOp := ⟨e, a, goal, (p.at_.cells bs.length).2.zip bs, nib, lim, p.pages⟩
      .next ((s.clearFresh (agentNode f e)).setInst f { i.done e with stores := i.stores ++ [o] })

/-- A sequencer's format store. -/
def stFmtSeq (s : State) (x a : Operand) (el : Nat) (cl : Nat) (sq : Seq) : Result :=
  let w := s.whoSeq cl sq
  let ad := (sq.read a).toNat
  match s.fmtPlan w ad el true with
  | (s, none) => .next s
  | (s, some (.error b)) => failSeq s cl b
  | (s, some (.ok p)) =>
    let (bs, nib) := fmtBytes p.fmt el (sq.read x)
    if s.seqAhead cl w p.at_ bs.length then .next s else
    let s := if nib.isSome && (p.leaf.bound s p.va).isSome then ((p.at_.cells bs.length).2.map lineOf).foldl (fun s l => s.drainLine l) s else s
    let cs := nibCells s.byte nib ((p.at_.cells bs.length).2.zip bs)
    .next ((s.seqWrite cl p.va bs.length p.at_ (cs.map (·.2))).seqDone cl sq (1 + litCount [a]))

/-- ST.FMT (R318, R320). -/
def execStFmt (q : BitVec 3) (x a : Operand) (e : BitVec 5) (s : State) : Result :=
  match s.cur with
  | .seq cl => (match s.seq? cl with
    | some sq => stFmtSeq s x a e.toNat cl sq
    | none => .fault .noAgent)
  | _ => withNode s [a, x] [] fun f n i xs => stFmtNode s q (xs.getD 0 0) (xs.getD 1 0) e.toNat f n i

end Sys2Proof.Machine
end

