-- ==== Sys2Proof/Machine/Sync.lean ====
section
/-! DEFINITION. What releases and acquires are made of (R84 to R88, R96, R107, R140 to R142, R154 to R156), the loads that
a release must follow (R132, R144), and the form that every post-commit operation takes (R132, R313). -/
namespace Sys2Proof.Machine

/-! ## Fence tokens (R96) -/

/-- The other dies in service. -/
def State.otherDies (s : State) (d : Nat) : List Nat := (upto 8).filter fun k => k != d && s.mg.dies.getLsbD k

/-- The core of an agent that is a fibre; an agent number from 10^12 is a sequencer's. -/
def agentCore (agent : Nat) : Option Nat := if 10 ^ 12 ≤ agent then none else some (coreOf (agent / 128))

/-- A fence token on every request-class and writeback-class circuit of a set that leaves the die, to the other compute dies
and to the two link dies. -/
def State.sendTokens (s : State) (agent set die : Nat) : State :=
  let ds := s.otherDies die ++ [8, 9]
  let c := agentCore agent
  let s := ds.foldl (fun s d => (s.postToken set die d 0 c (.fence agent)).postToken set die d 3 c (.fence agent)) s
  { s with ms := { s.ms with fences := s.ms.fences ++ [⟨agent, 2 * ds.length⟩] } }

/-- The fence that an agent waits for. -/
def State.fenceOf (s : State) (agent : Nat) : Option FenceWait := s.ms.fences.find? fun w => w.agent == agent

/-- A fence or release at system scope waits until the peer has acknowledged the CPYR and CPYP operations that the fibre has
issued (R96, R455). -/
def State.systemWaits (s : State) (f scope : Nat) : Bool :=
  decide (5 ≤ scope) && (kvGetD (coreOf f) [] s.ms.copies).any fun o => o.f == f && (o.kind == .cpyr || o.kind == .cpyp)

/-! ## Paths (R154) -/

/-- The mask names the fibre path together with a path that goes below the first level (R154). -/
def maskBelow (m : Nat) : Bool := bit m 0 && (bit m 1 || bit m 2 || bit m 3 || bit m 6)

/-- The release side of a fence on a core: what it writes back before it completes (R154, R156, R162). -/
def State.releaseDrain (s : State) (core scope mask : Nat) (sc : Bool) (rgx : List Nat) : State :=
  if maskBelow mask || (sc && decide (2 ≤ scope)) then s.drainSome core rgx else s
/-- Lines of it have still to leave, held back by their circuits (R97). -/
def State.releaseLeft (s : State) (core scope mask : Nat) (sc : Bool) (rgx : List Nat) : Bool :=
  (maskBelow mask || (sc && decide (2 ≤ scope))) && s.undrained core rgx

/-! ## Drains for an acquire (R87, R88, R107) -/

/-- The record names an incarnation that is gone (R107). -/
def State.staleRec (s : State) (r : RelRec) : Bool := r.inc != s.coreInc r.core

/-- An acquire with region n acts on the record: any, without a region; otherwise one that carries n or none (R88). -/
def recMatters (n : Option Nat) (r : Nat × RelRec) : Bool := match n with
  | none => true
  | some k => r.2.rgx.isEmpty || r.2.rgx.contains k

/-- Records as they were met on a die's copy of a line. -/
def metOn (die line : Nat) (rs : List RelRec) : List (Nat × RelRec) := rs.map fun r => (l2key die line, r)

/-- The drain requests of an acquire made on a die: one for each record that names another core (R87 step 1, R94). -/
def State.askDrains (s : State) (die agent : Nat) (own : Option Nat) (rs : List (Nat × RelRec)) : State :=
  let asked := rs.filter fun r => own != some r.2.core
  let s := asked.foldl (fun s r => s.sendDrain die r.2.core) s
  { s with ms := { s.ms with drains := s.ms.drains ++ asked.map fun r => ⟨agent, r.1, r.2⟩ } }

/-- A record leaves the copy that it was met on (R86, R107). -/
def State.dropMet (s : State) (r : Nat × RelRec) : State := s.dropRec (r.1 / 2 ^ 45) (r.1 % 2 ^ 45) r.2

/-- No drain of an agent is outstanding. -/
def State.drained (s : State) (agent : Nat) : Bool := !(s.ms.drains.any fun d => d.agent == agent)

/-- The incarnation that a record should carry is another: the first such record. -/
def State.findStale (s : State) (rs : List (Nat × RelRec)) : Option (Nat × RelRec) := rs.find? fun r => s.staleRec r.2

/-! ## Path 6 (R155) -/

/-- The header words of waiting sets are read again, where a test says so (R213). -/
def State.rereadSets (s : State) (core : Nat) (p : WSet → Bool) : State :=
  ((s.fabric core).sets.filter p).foldl (fun s w =>
    let (s, ws) := s.readHeader core w.ctx w.hdr.toNat
    let fb := s.fabric core
    s.setFabric core { fb with sets := fb.sets.map fun x => if x.ctx == w.ctx && x.hdr == w.hdr then { x with words := ws } else x }) s

/-- The fetch caches of a core and its configured blocks of one context are made new, and what its builds have read (R155). -/
def State.refetch (s : State) (core ctx : Nat) : State :=
  let fb := s.fabric core
  (s.setFabric core { fb with
    ilines := []
    images := fb.images.filter fun im => im.ctx != ctx
    builds := fb.builds.map fun b => if b.ctx == ctx then b.again else b
    cfgs := fb.cfgs.map fun c => if c.ctx == ctx then c.retire else c }).rereadSets core fun w => w.ctx == ctx

/-! ## Post-commit operations -/

/-- An operation still stands at the head of its fibre's queue: what had to be done before it has not ended the fibre. -/
def State.atHeadOf (s : State) (f : Nat) (p : PostOp) : Bool := (s.fibre? f).any fun x => x.post.head? == some p

/-- The effect at the head of a fibre's queue takes so far. -/
def State.setStage (s : State) (f n : Nat) : State := s.modFibre f fun x => { x with stage := n }

/-- The result of a post-commit operation: its producer has its value, to arrive (R215); the operation is done. -/
def State.donePost (s : State) (f : Nat) (p : PostOp) (x : Dword) : State :=
  let s := match p.prod with
    | some n => s.modProd n fun pr => { pr with value := some x }
    | none => s
  s.popPost f

/-- A node whose effect comes after commit fires: the operation is kept with its operands, and its destination slot, if
it has one, waits for it (R132, R214). -/
def State.addPost (s : State) (f e : Nat) (i : Inst) (d : Option Dest) (op : Instr) (xs : List Dword) (desc : List Dword)
    (place : Option StoreOp) : State :=
  let woff := match s.fibre? f with
    | some x => x.eff.woff
    | none => 0
  let po (p : Option Nat) : PostOp :=
    { hdr := i.hdr, eidx := e, op := op, a := xs.getD 0 0, b := xs.getD 1 0, c := xs.getD 2 0, desc := desc
      slot0 := woff, prod := p, place := place, inst := 0 }
  match d.bind slotOf with
  | some k =>
    let (s, p) := s.takeSerial
    (s.setProds (kvSet p ⟨f, woff + k, none, none⟩ s.fab.prods)).setInst f
      { (i.done e) with slotW := kvSet k (.wait p) i.slotW, post := i.post ++ [po (some p)] }
  | none => s.setInst f { (i.done e) with post := i.post ++ [po none] }

/-- An instruction that the emulation of a cullet may not hold (R413): cause 0x01, TVAL its first word. -/
def failEmulated (s : State) (f e : Nat) (xs : List Dword) : Result :=
  .next (s.nodeFault f e 0x01 ((s.firstWord f e).zeroExtend 64) (xs.getD 0 0) (xs.getD 1 0) (xs.getD 2 0))

/-- The form of a post-commit operation without checks: its node keeps it; at the head of the queue it is performed, after
every addition of the fibre has reached its holder or gone on to its home (R132). -/
def afterCommit (s : State) (op : Instr) (l : List Operand) (d : Option Dest) (barred : Bool)
    (perform : Nat → Fibre → PostOp → State → Result) : Result :=
  match s.cur with
  | .post f => (match s.fibre? f with
    | none => .fault .noAgent
    | some x => match x.post with
      | [] => .fault .noAgent
      | p :: _ => if s.offering (agentNode f 127) then .next s else perform f x p s)
  | _ => withNode s l d.toList fun f e i xs =>
    if barred && s.emulating f then failEmulated s f e xs else .next (s.addPost f e i d op xs [] none)

/-- What a post-commit operation does to the fibre when its fault is found (R135). -/
def failPost (s : State) (f cause : Nat) (tval : Dword) : Result := .next (s.postFault f cause tval)

end Sys2Proof.Machine
end

