-- ==== Sys2Proof/Machine/Bounded.lean ====
section
/-! DEFINITION. Value-bounded additions on their way: grants (R169, R170), the holder's taking of an addition (R171), and
its drains (R172). -/
namespace Sys2Proof.Machine

/-- The home grants half the unallocated share, or nothing (R169, R170); a refusal without a record leaves none. -/
def State.requestGrant (s : State) (die line : Nat) (lim : Word) : State × Dy :=
  let g := (kvGet line s.ms.grants).getD ⟨lim, [], dyOfF32 lim⟩
  let least := (dyOfF32 g.lim).scale (-7)
  if g.lim != lim || g.un.lt least then (s, Dy.zero)
  else
    let x := g.un.half
    let g := { g with un := x, shares := kvSet die ((kvGetD die Dy.zero g.shares).add x) g.shares }
    ({ s with ms := { s.ms with grants := kvSet line g s.ms.grants } }, x)

/-- A grant answers a holder's request, on the response class: its share grows. -/
def State.grantTo (s : State) (set die line : Nat) (lim : Word) : State :=
  let home := homeOf s (line * 128)
  let (s, x) := ((s.sendOn set die home 0).sendOn set home die 2).requestGrant die line lim
  let h := s.holder die line
  s.setHolder die line { h with share := h.share.add x }

/-- A voluntary drain (R172): the sums go to the home on the writeback class; the share stays. It travels on the circuit set
of the job whose addition causes it (log entry 69). -/
def State.drainKeep (s : State) (set die line : Nat) : State :=
  let h := s.holder die line
  let home := homeOf s (line * 128)
  let k := h.kind.getD .f32
  let s := s.setHolder die line { h with kind := none, p := [], m := [] }
  if h.p.isEmpty then s
  else if home = die then s.applySums line k h.p
  else s.postToken set die home 3 none (.drain die line k h.p none)

/-- −0.0, where a partial sum starts. -/
def negZero : Word := 0x80000000

/-- |a| as an exact number. -/
def magOf (x : Word) : Dy := (dyOfF32 x).abs

/-- m + |a|, exactly. -/
def Holder.need (h : Holder) (e : Nat) (x : Word) : Dy := (dyOfF32 (kvGetD e 0 h.m)).add (magOf x)

/-- The addend goes into the partial sum (R168, R171). -/
def Holder.take (h : Holder) (e : Nat) (k : BKind) (x : Word) : Holder :=
  { h with
    kind := some k
    p := kvSet e (toF32 ((f32 (kvGetD e negZero h.p)).add (f32 x))) h.p
    m := kvSet e (BitVec.ofNat 32 (Sys2Proof.Machine.fp32.round .ru (FV.ofDy (h.need e x) false))) h.m }

/-- One addition performed at the home as one write (R93, R171). -/
def State.addAtHome (s : State) (line e : Nat) (k : BKind) (x : Word) : State :=
  s.writeLine (homeOf s (line * 128)) line (applySum s.ms.mem line k e x) false none

/-- An offer is replaced, or taken away. -/
def State.setOffer (s : State) (i : Nat) (o : Offer) : State :=
  { s with ms := { s.ms with offers := modAt (fun _ => o) i s.ms.offers } }
def State.dropOffer (s : State) (i : Nat) : State := { s with ms := { s.ms with offers := dropAt i s.ms.offers } }

/-- The 32 bits that an ATOM reads at the home, in one event with the additions that R171 has posted (R177), after the drains
that are on their way (R176). A poisoned line fails it (R103). The read meets the release records of the home's copy, and the
ATOM leaves its own there (R85, R141). -/
def State.answerOffer (s : State) (o : Offer) : State :=
  let home := homeOf s (o.line * 128)
  let s := ((s.sendOn o.set o.die home 0).sendOn o.set home o.die 2).awaitDrains o.line
  if s.ms.poison.contains o.line then s.addFresh o.agent (.old none [])
  else
    let (s, bs) := s.readAt home (addrs o.pa 4)
    let recs := metOn home o.line (s.copyOf home o.line).recs
    let s := o.late.foldl (fun s a => s.addAtHome o.line a.1 o.kind a.2) s
    (s.attachAll home [(o.pa, 0)] o.rel).addFresh o.agent (.old (some (leNat bs)) recs)

/-- An addition of an offer is dealt with: the next one is offered, and after the last an ATOM reads, once no drain of the
line is on its way (R176). -/
def State.offerOn (s : State) (i : Nat) (o : Offer) : State :=
  match o.more with
  | (e, x) :: r => s.setOffer i { o with elem := e, x := x, more := r, stage := 0 }
  | [] => if !o.atom then s.dropOffer i
    else if s.ms.posted.any (Posted.drainsLine o.line) then s.setOffer i { o with stage := 5 }
    else (s.dropOffer i).answerOffer o

/-- The addition is withheld. -/
def State.withhold (s : State) (i : Nat) (o : Offer) : State :=
  (s.setHolder o.die o.line ((s.holder o.die o.line).take o.elem o.kind o.x)).offerOn i o

/-- One addition of a RED posted to the home (R93). -/
def State.postAdd (s : State) (set die line e : Nat) (k : BKind) (x : Word) : State :=
  let home := homeOf s (line * 128)
  if home = die then s.addAtHome line e k x else s.postToken set die home 0 none (.add line e k x)

/-- The addition is posted to the home; an ATOM's is performed there with its read. -/
def State.postOffer (s : State) (i : Nat) (o : Offer) : State :=
  if o.atom then s.offerOn i { o with late := o.late ++ [(o.elem, o.x)] }
  else (s.postAdd o.set o.die o.line o.elem o.kind o.x).offerOn i o

/-- The line's additions are of the offer's kind, or drained (R168, R171). -/
def State.sameKind (s : State) (o : Offer) : State :=
  match (s.holder o.die o.line).kind with
  | some k => if k == o.kind then s else s.drainKeep o.set o.die o.line
  | none => s

/-- From the change of kind on (R171). -/
def State.offerMain (s : State) (i : Nat) (o : Offer) : State :=
  let s := s.sameKind o
  let h := s.holder o.die o.line
  if h.share.lt (h.need o.elem o.x) then s.setOffer i { o with stage := 3 } else s.withhold i o

/-- From the answer to the second grant request on (R171). -/
def State.offerEnd (s : State) (i : Nat) (o : Offer) : State :=
  let s := s.sameKind o
  let h := s.holder o.die o.line
  if h.share.lt (h.need o.elem o.x) then
    let s := s.drainKeep o.set o.die o.line
    if h.share.lt (magOf o.x) then s.postOffer i o else s.withhold i o
  else s.withhold i o

/-- An offer's turn: a holder deals with the offers of a line one at a time, in the order in which they reach it (R168). -/
def State.offerFirst (s : State) (i : Nat) (o : Offer) : Bool :=
  !((s.ms.offers.take i).any fun x => x.die == o.die && x.line == o.line)

/-- One go at an offer (R171), as far as the next grant request. -/
def State.holderStep (s : State) (i : Nat) (o : Offer) : State :=
  if !s.offerFirst i o then s
  else
    let h := s.holder o.die o.line
    match o.stage with
    | 0 => if h.share.isZero then s.setOffer i { o with stage := 1 } else s.offerMain i o
    | 2 => if h.share.isZero then s.postOffer i o else s.offerMain i o
    | 4 => s.offerEnd i o
    | 5 => (s.dropOffer i).answerOffer o
    | _ => s

/-- The offer of a holder's line that waits for a grant. -/
def asksGrant (die line : Nat) (o : Offer) : Bool := o.die == die && o.line == line && (o.stage == 1 || o.stage == 3)

end Sys2Proof.Machine
end

