-- ==== Sys2Proof/Machine/Atomic.lean ====
section
/-! DEFINITION. ATOM and RED (R321 to R325, R39, R40, R80, R85, R87, R112, R166, R177, R178). -/
namespace Sys2Proof.Machine

/-! ## The operations (R322) -/

/-- A lane-wise operation on values of so many lanes. -/
def laneOp (lw n : Nat) (g : Nat → Nat → Nat) (x y : Nat) : Nat :=
  packElems lw ((upto n).map fun i => g (elem lw i x) (elem lw i y))

/-- The sum of two values of a format, rounded once. -/
def addFmt (f : Fmt) (x y : Nat) : Nat := f.round .rne ((f.decode x).add (f.decode y))

/-- What operation fn on w bits writes, if it writes (R322, R245); old, b and c are below 2^w. -/
def atomNew (fn w old b c : Nat) : Option Nat :=
  match fn with
  | 0 => none
  | 1 => some b
  | 2 => some ((old + b) % 2 ^ w)
  | 3 => some ((old + 2 ^ w - b) % 2 ^ w)
  | 4 => some (old &&& b)
  | 5 => some (old ||| b)
  | 6 => some (old ^^^ b)
  | 7 => some (if toSigned w old ≤ toSigned w b then old else b)
  | 8 => some (if toSigned w old ≤ toSigned w b then b else old)
  | 9 => some (if old ≤ b then old else b)
  | 10 => some (if old ≤ b then b else old)
  | 11 => some b
  | 12 => if old = c then some b else none
  | 13 => some (if b ≤ old then 0 else old + 1)
  | 14 => some (if old = 0 ∨ b < old then b else old - 1)
  | 15 => some (laneOp 32 (w / 32) (addFmt Sys2Proof.Machine.fp32) old b)
  | 16 => some (laneOp 32 (w / 32) (minF Sys2Proof.Machine.fp32) old b)
  | 17 => some (laneOp 32 (w / 32) (maxF Sys2Proof.Machine.fp32) old b)
  | 18 => some (laneOp 16 (w / 16) (addFmt Sys2Proof.Machine.fp16) old b)
  | _ => some (laneOp 16 (w / 16) (addFmt Sys2Proof.Machine.bf16) old b)

/-- The width of an ATOM or RED. -/
def atomBits (w64 : Bool) : Nat := if w64 then 64 else 32

/-- An ATOM or RED as its fields give it. -/
structure AtomOp where
  fn : Nat
  w64 : Bool
  scope : Nat
  order : Nat
  red : Bool
  deriving DecidableEq, Repr

def AtomOp.bits (o : AtomOp) : Nat := atomBits o.w64
def AtomOp.bytes (o : AtomOp) : Nat := o.bits / 8
/-- Release and acquire order (R139). -/
def AtomOp.releases (o : AtomOp) : Bool := o.order == 2 || o.order == 3
def AtomOp.acquires (o : AtomOp) : Bool := o.order == 1 || o.order == 3
/-- The kind of addition it makes on FP32 or packed halves (R166, R168). -/
def AtomOp.kind (o : AtomOp) : Option BKind :=
  match o.fn with
  | 15 => some .f32
  | 18 => some .f16
  | 19 => some .bf16
  | _ => none

/-! ## Places (R324) -/

/-- Whether the host accepts the operation (R39). -/
def hostAtom (o : AtomOp) : Bool := if o.red then o.fn == 2 else o.fn == 2 || o.fn == 11 || o.fn == 12

/-- The place to which a leaf leads an ATOM or RED does not fail it (R36, R39, R40). -/
def State.atomFits (s : State) (o : AtomOp) (va : Nat) (l : Leaf) : Bool :=
  match placeOf s (l.pa va) with
  | .onchip _ => false
  | .host => hostAtom o
  | _ => s.peerFits (l.pa va)
/-- The address of an ATOM or RED is resolved (R324). -/
def State.resolveAtom (s : State) (w : Who) (o : AtomOp) (ea : Nat) : State × Resolved :=
  s.resolve w ea o.bytes o.bytes needRW true (s.atomFits o)

/-- Where an ATOM or RED is performed, checked as its node fires (R313, R324). -/
def State.planAtom (s : State) (w : Who) (e ea : Nat) (o : AtomOp) (r : Resolved) : State × Option (Except Bad StoreOp) :=
  let n := o.bytes
  let mk (goal : StoreTo) (lim : Word) (pages : List (Nat × Nat)) : StoreOp :=
    ⟨e, BitVec.ofNat 64 ea, goal, (r.cells n).2.map fun a => (a, 0), none, lim, pages⟩
  match r with
  | .wait => (s, none)
  | .bad b => (s, some (.error b))
  | .onchip _ _ => (s, some (.error ⟨0x09, ea⟩))
  | .scratch offs =>
    (match w.ga with
     | none => (s, some (.error ⟨0x09, ea⟩))
     | some ga => match s.windowStoreCheck w ga offs with
       | (s, none) => (s, none)
       | (s, some (.error b)) => (s, some (.error b))
       | (s, some (.ok ps)) => (s, some (.ok (mk .scratch 0 ps))))
  | .mem _ l => (s, some (.ok (mk (.global l.rgx 0 true) ((l.bound s ea).getD 0) [r.page ea])))
  | .host _ _ => (s, some (if hostAtom o then .ok (mk .outside 0 [r.page ea]) else .error ⟨0x09, ea⟩))
  | .peer _ _ _ => (s, some (.ok (mk .outside 0 [r.page ea])))

/-! ## Performing them -/

/-- What performing comes to. -/
inductive AtomOut where
  | wait
  /-- Its additions have been offered to the holder. -/
  | offered
  | bad (b : Bad)
  /-- The old value, and the release records met, each with the copy that held it. -/
  | done (old : Nat) (recs : List (Nat × RelRec))
  deriving DecidableEq, Repr

/-- Who performs it: die, core with its first-level cache (none: a sequencer), agent, circuit set, the record that its
write carries, whether it is an acquire that drains, its gather. `at_` is the die at whose copy it is performed, `cache` whether
the core's first-level cache may hold its bytes. -/
structure Doer where
  die : Nat
  at_ : Nat
  core : Option Nat
  cache : Bool
  agent : Nat
  set : Nat
  rel : Option RelRec
  pending : Bool
  acq : Bool
  g : Option Nat
  deriving DecidableEq, Repr

/-- A read-modify-write at one die's copy of a line: the new state, the old value, and the records met. -/
def State.rmwAt (s : State) (die : Nat) (o : AtomOp) (pas : List Nat) (b c : Nat) (rel : Option RelRec) :
    State × Nat × List (Nat × RelRec) :=
  let line := lineOf (pas.headD 0)
  let s := s.share die line
  let old := leNat (pas.map s.byte)
  let recs := metOn die line (s.copyOf die line).recs
  match atomNew o.fn o.bits old b c with
  | none => (s, old, recs)
  | some x =>
    let cs := pas.zip (leBytes o.bytes x)
    ((s.writeLine die line cs false none).attachAll die cs rel, old, recs)

/-- A RED performed at a die's copy, for one that was posted or is homed there. -/
def State.redAt (s : State) (die : Nat) (o : AtomOp) (pas : List Nat) (b : Nat) (rel : Option RelRec) : State :=
  (s.rmwAt die o pas b 0 rel).1

/-- The addends of a withholdable addition, by lane, as FP32. -/
def lanesOf (k : BKind) (b : Nat) : List (Nat × Word) :=
  match k with
  | .f32 => [(0, BitVec.ofNat 32 b)]
  | k => (upto 2).map fun i => (i, toF32 (k.fmt.decode (elem 16 i b)))

/-- An infinity or a NaN. -/
def notFinite (x : Word) : Bool := match f32 x with
  | .fin _ _ _ => false
  | _ => true

/-- The additions of one operation by element: an addend that is a NaN or an infinity is posted past the holder, the others are
offered to it (R166, R171). -/
def State.offerAll (s : State) (w : Doer) (o : AtomOp) (k : BKind) (pa : Nat) (lim : Word) (b : Nat) : State :=
  let ls := (lanesOf k b).map fun l => (pa % 128 / k.bytes + l.1, l.2)
  let s := (ls.filter fun l => notFinite l.2).foldl (fun s l => s.postAdd w.set w.die (lineOf pa) l.1 k l.2) s
  match ls.filter fun l => !notFinite l.2 with
  | [] => s
  | (e, x) :: r =>
    { s with ms := { s.ms with offers := s.ms.offers ++ [⟨w.die, w.set, lineOf pa, e, k, lim, x, w.agent, pa, r, [], !o.red, w.rel, 0⟩] } }

/-- The gather has offered a withholdable addition (R181). -/
def State.markOffered (s : State) (g : Option Nat) : State :=
  match g with
  | some g => s.modGather g fun ga => { ga with offered := true }
  | none => s

/-- The addition may be withheld (R166): FADD or HADD2 on 32 bits, relaxed, and no RED of a release-pending fibre (log entry
29). An ATOM with an addend that is a NaN or an infinity is none (R177: q = 0). -/
def AtomOp.mayWithhold (o : AtomOp) (pending : Bool) (b : Nat) : Bool :=
  o.kind.any (fun k => o.red || !(lanesOf k b).any fun l => notFinite l.2) && !o.w64 && o.order == 0 && !(o.red && pending)

/-- An access to memory that is not bounded (R80, R93); a sequencer's RED is performed at its die's copy at once (R346). -/
def State.atomPlain (s : State) (w : Doer) (o : AtomOp) (pas : List Nat) (b c : Nat) : State × AtomOut :=
  let pa := pas.headD 0
  let home := homeOf s pa
  let first := if w.cache then w.core else none
  let s := match first with
    | some k => s.flushLines k pas
    | none => s
  let drop (s : State) : State := match first with
    | some k => s.l1Drop k pas
    | none => s
  if o.red then
    if home = w.at_ || w.core.isNone then (drop (s.redAt w.at_ o pas b w.rel), .done 0 [])
    else (drop (s.postToken w.set w.die home 0 w.core (.red o.fn o.w64 pa (BitVec.ofNat 64 b) w.rel)), .done 0 [])
  else if (s.poisoned pas).isSome then (s, .bad ⟨0x0D, 0⟩)
  else
    let s := s.share w.at_ (lineOf pa)
    match if w.acq then s.findStale (metOn w.at_ (lineOf pa) (s.copyOf w.at_ (lineOf pa)).recs) else none with
    | some r => (s.dropMet r, .bad ⟨0x0D, 0⟩)
    | none =>
      let (s, old, recs) := s.rmwAt w.at_ o pas b c w.rel
      (drop s, .done old recs)

/-- An operation performed at the home of the line, which the home's requests for forced drains precede (R40, R177, R178). -/
def State.atomHome (s : State) (w : Doer) (o : AtomOp) (pas : List Nat) (b c : Nat) : State × AtomOut :=
  let line := lineOf (pas.headD 0)
  ((s.visit w.die line).drainLine line).atomPlain { w with at_ := homeOf s (line * 128), cache := false } o pas b c

/-- An access to a bounded element (R166, R177, R178). A sequencer's additions are offered as a fibre's are, and it waits for
them; a RED of its that may not be withheld is performed at the home at once (R346). -/
def State.atomBounded (s : State) (w : Doer) (o : AtomOp) (pas : List Nat) (lim : Word) (b c : Nat) : State × AtomOut :=
  let pa := pas.headD 0
  let home := homeOf s pa
  let s := match w.core with
    | some k => (s.flushLines k pas).l1Drop k pas
    | none => s
  if o.mayWithhold w.pending b then
    match o.kind with
    | some k =>
      if !o.red && (s.poisoned pas).isSome then (s, .bad ⟨0x0D, 0⟩)
      else ((s.markOffered w.g).offerAll w o k pa lim b, if o.red && w.core.isSome then .done 0 [] else .offered)
    | none => (s, .done 0 [])
  else if o.red && o.kind.isSome && !o.w64 then
    if home = w.die || w.core.isNone then ((s.visit w.die (lineOf pa)).redAt home o pas b w.rel, .done 0 [])
    else (s.postToken w.set w.die home 0 w.core (.red o.fn o.w64 pa (BitVec.ofNat 64 b) w.rel), .done 0 [])
  else s.atomHome w o pas b c

/-- An access to the gather's scratchpad copy (R112, R324). -/
def State.atomScratch (s : State) (w : Doer) (o : AtomOp) (offs : List Nat) (b c : Nat) : State × AtomOut :=
  match w.g with
  | none => (s, .bad ⟨0x09, 0⟩)
  | some g => match s.gather? g with
    | none => (s, .bad ⟨0x09, 0⟩)
    | some ga => match s.scratchRead w.agent g 7 ga offs with
      | (s, .wait) => (s, .wait)
      | (s, .bad e) => (s, .bad e)
      | (s, .bytes bs) =>
        let old := leNat bs
        match atomNew o.fn o.bits old b c with
        | none => (s, .done old [])
        | some x => (s.scratchWrite g (offs.zip (leBytes o.bytes x)), .done old [])

/-- An access to the host or a peer (R39, R40): the part's own number is its own memory, at whose home it is performed; a peer that
no port reaches any more fails it (R457). -/
def State.atomOutside (s : State) (w : Doer) (o : AtomOp) (as : List Nat) (b c : Nat) : State × AtomOut :=
  let a := as.headD 0
  if a < 2 ^ 51 then
    if s.ownPeer (a / 2 ^ 40 % 1024) then s.atomHome w o (as.map fun x => x % 2 ^ 40) b c
    else if !s.reachable (a / 2 ^ 40 % 1024) then (s, .bad ⟨0x09, 0⟩)
    else let (s, x) := (s.visitOut a).takeFree; (s, .done (x.toNat % 2 ^ o.bits) [])
  else
    let (s, refused) := (s.visitOut a).takeBit
    if refused then (s, .bad ⟨0x0D, 0⟩) else let (s, x) := s.takeFree; (s, .done (x.toNat % 2 ^ o.bits) [])

/-- An ATOM or RED at the place its check found. A failure names the access's address. -/
def State.atomPerform (s : State) (w : Doer) (o : AtomOp) (at_ : StoreOp) (b c : Dword) : State × AtomOut :=
  let as := at_.cells.map (·.1)
  let x := b.toNat % 2 ^ o.bits
  let y := c.toNat % 2 ^ o.bits
  let (s, r) := match at_.goal with
    | .scratch => s.atomScratch w o as x y
    | .outside => s.atomOutside w o as x y
    | .onchip => (s, .bad ⟨0x09, 0⟩)
    | .global _ _ _ => if at_.lim.toNat % 2 ^ 31 != 0 then s.atomBounded w o as at_.lim x y else s.atomPlain w o as x y
  (s, match r with
    | .bad e => .bad ⟨e.cause, if e.tval = 0 then at_.va.toNat else e.tval⟩
    | r => r)

/-- What has become of an agent's offered ATOM, once its read has been made: the old value and the records that the read met
(R141, R142), or the failure on a poisoned line (R103), which names the access's address. -/
def State.offeredValue (s : State) (agent : Nat) (va : Dword) : Option AtomOut :=
  (s.freshOf agent).findSome? fun x => match x with
    | .old (some x) recs => some (.done x recs)
    | .old none _ => some (.bad ⟨0x0D, va.toNat⟩)
    | _ => none

/-! ## By a fibre -/

/-- The fibre's release record for this operation: the full one of a release order, or that of a release-pending fibre
(R85). -/
def State.atomRec (s : State) (f : Nat) (o : AtomOp) : Option RelRec :=
  if o.releases && decide (2 ≤ o.scope) then some ⟨coreOf f, s.coreInc (coreOf f), []⟩ else s.postRec f

/-- It takes the steps of R96 before it is performed: at device or system scope, one with release order, and a RED of a
release-pending fibre (R85, R93, R96). -/
def State.atomFences (s : State) (f : Nat) (o : AtomOp) : Bool :=
  decide (4 ≤ o.scope) && (o.releases || (o.red && (s.postRec f).isSome))
/-- Step 1 of R96 is not over: an addition of the fibre is on its way to its holder, or a peer has still to acknowledge. -/
def State.fencesWait (s : State) (f : Nat) (o : AtomOp) : Bool :=
  s.atomFences f o && (s.offering (agentNode f 127) || s.systemWaits f o.scope)

/-- The fibre as the doer. -/
def State.fibreDoer (s : State) (f : Nat) (o : AtomOp) : Doer :=
  { die := dieOf f, at_ := dieOf f, core := some (coreOf f), cache := true, agent := agentNode f 127, set := s.setOf (s.jobOf f), rel := s.atomRec f o
    pending := (s.postRec f).isSome, acq := o.acquires && decide (2 ≤ o.scope), g := some (gatherOf f) }

/-- The performed ATOM's end: its records are drained if it is an acquire at cluster scope or wider, and remembered otherwise
(R87, R142). -/
def State.atomEnd (s : State) (f : Nat) (p : PostOp) (o : AtomOp) (old : Nat) (recs : List (Nat × RelRec)) : State :=
  let s := s.clearFresh (agentNode f 127)
  let s := if o.acquires then s.modFibre f fun x => x.withRel none else s
  if o.acquires && decide (2 ≤ o.scope) then
    let s := match p.prod with
      | some n => s.modProd n fun pr => { pr with value := some (BitVec.ofNat 64 old) }
      | none => s
    (s.askDrains (dieOf f) (agentNode f 127) (some (coreOf f)) recs).setStage f 3
  else (s.modFibre f fun x => { x with met := (x.met ++ recs).eraseDups }).donePost f p (BitVec.ofNat 64 old)

/-- It waits: an ordered one for the fibre's additions (R132), and each that reads for the fibre's own writes of its line
(R147). -/
def State.atomWaits (s : State) (f : Nat) (o : AtomOp) (at_ : StoreOp) : Bool :=
  (o.order != 0 && s.offering (agentNode f 127)) ||
  (!o.red && at_.goal.space == 0 && s.underWay (dieOf f) (agentNode f 127) (at_.cells.map fun c => lineOf c.1))

/-- On scratchpad an operation acts at gather scope, whatever it names (R324). -/
def AtomOp.at_ (o : AtomOp) (goal : StoreTo) : AtomOp := if goal.space = 1 then { o with scope := min o.scope 1 } else o

/-- An ATOM or RED at the head of a fibre's queue. -/
def atomPost (named : AtomOp) (f : Nat) (x : Fibre) (p : PostOp) (s : State) : Result :=
  match p.place with
  | none => .next (s.popPost f)
  | some at_ =>
    let o := named.at_ at_.goal
    if x.stage = 1 ∨ x.stage = 3 then .next s
    else if x.stage = 0 ∧ (s.atomWaits f o at_ ∨ s.fencesWait f o) then .next s
    else if x.stage = 6 then
      match s.offeredValue (agentNode f 127) at_.va with
      | some (.done old recs) => .next (s.atomEnd f p o old recs)
      | some (.bad e) => failPost (s.clearFresh (agentNode f 127)) f e.cause (BitVec.ofNat 64 e.tval)
      | _ => .next s
    else
      let s := if o.releases || s.atomFences f o then s.performLoads f
        else if at_.goal.space = 0 then s.settleLoads f s.serial (at_.cells.map (·.1)) else s
      if x.stage = 0 ∧ s.atomFences f o then
        .next ((s.sendTokens (agentNode f 127) (s.setOf (s.jobOf f)) (dieOf f)).setStage f 1)
      else
        match s.atomPerform (s.fibreDoer f o) o at_ p.b p.c with
        | (s, .wait) => .next s
        | (s, .offered) => .next ((s.clearFresh (agentNode f 127)).setStage f 6)
        | (s, .bad e) => failPost (s.clearFresh (agentNode f 127)) f e.cause (BitVec.ofNat 64 e.tval)
        | (s, .done old recs) => .next (s.atomEnd f p o old recs)

/-- The node of an ATOM or RED: it is checked, and performed after commit (R313, R323). -/
def atomNode (s : State) (op : Instr) (o : AtomOp) (d : Dest) (f e : Nat) (i : Inst) (xs : List Dword) : Result :=
  let a := xs.getD 0 0
  let w := s.whoNode f e
  let (s, r) := s.resolveAtom w o a.toNat
  match s.planAtom w e a.toNat o r with
  | (s, none) => .next s
  | (s, some (.error b)) => failNode s f e b xs
  | (s, some (.ok at_)) =>
    .next ((s.clearFresh (agentNode f e)).addPost f e { i with used := i.used ++ at_.pages } (some d) op xs [] (some at_))

/-! ## By a sequencer (R346) -/

/-- A sequencer's narrowest scope is cluster scope (R137). -/
def seqScope (n : Nat) : Nat := max n 2

/-- The sequencer as the doer: it has no first-level cache, and leaves no release record (R85). -/
def State.seqDoer (s : State) (cl : Nat) (q : Seq) (o : AtomOp) : Doer :=
  { die := dieOfCl cl, at_ := dieOfCl cl, core := none, cache := false, agent := agentSeq cl, set := s.setOf q.job, rel := none, pending := false
    acq := o.acquires, g := none }

/-- A sequencer's ATOM has its value: an acquire then waits for its drains. -/
def seqAtomEnd (s : State) (cl : Nat) (q : Seq) (d : Dest) (words : Nat) (o : AtomOp) (old : Nat) (recs : List (Nat × RelRec)) :
    Result :=
  let q := if o.red then q else q.put d (BitVec.ofNat 64 old)
  if o.acquires then
    .next (((s.clearFresh (agentSeq cl)).askDrains (dieOfCl cl) (agentSeq cl) none recs).setSeq cl { q with stage := 3 })
  else .next (s.seqDone cl { q with stage := 0, met := (q.met ++ recs).eraseDups } words)

/-- A sequencer's ATOM or RED. -/
def atomSeq (s : State) (o : AtomOp) (d : Dest) (l : List Operand) (cl : Nat) (q : Seq) : Result :=
  let words := 2 + litCount l
  let xs := l.map q.read
  let a := xs.getD 0 0
  let w := s.whoSeq cl q
  let o := { o with scope := seqScope o.scope }
  if q.stage = 1 ∨ q.stage = 3 then .next s
  else if q.stage = 4 then .next (s.seqDone cl { q with stage := 0 } words)
  else if q.stage = 6 ∧ o.red then
    if s.addsOut (agentSeq cl) (dieOfCl cl) then .next s else seqAtomEnd s cl q d words o 0 []
  else if q.stage = 6 then
    match s.offeredValue (agentSeq cl) a with
    | some (.done old recs) => seqAtomEnd s cl q d words o old recs
    | some (.bad e) => failSeq s cl e
    | _ => .next s
  else
    let (s, r) := s.resolveAtom w o a.toNat
    match s.planAtom w 0 a.toNat o r with
    | (s, none) => .next s
    | (s, some (.error b)) => failSeq s cl b
    | (s, some (.ok at_)) =>
      if q.stage = 0 ∧ (o.order != 0 && s.offering (agentSeq cl) || !o.red && at_.goal.space == 0 &&
          s.underWay (dieOfCl cl) (agentSeq cl) (at_.cells.map fun c => lineOf c.1)) then .next s
      else if q.stage = 0 ∧ o.releases ∧ 4 ≤ o.scope then
        .next ((s.sendTokens (agentSeq cl) (s.setOf q.job) (dieOfCl cl)).setSeq cl { q with stage := 1 })
      else
        match s.atomPerform (s.seqDoer cl q o) o at_ (xs.getD 1 0) (xs.getD 2 0) with
        | (s, .wait) => .next s
        | (s, .offered) => .next ((s.clearFresh (agentSeq cl)).setSeq cl { q with stage := 6 })
        | (s, .bad e) => failSeq s cl e
        | (s, .done old recs) => seqAtomEnd s cl q d words o old recs

/-- ATOM or RED for whomever it is executed. -/
def atomic (op : Instr) (fn : Nat) (w64 : Bool) (scope : BitVec 3) (order : BitVec 2) (red : Bool) (d : Dest)
    (l : List Operand) (s : State) : Result :=
  let o : AtomOp := ⟨fn, w64, scope.toNat, order.toNat, red⟩
  match s.cur with
  | .seq cl => (match s.seq? cl with
    | some q => atomSeq s o d l cl q
    | none => .fault .noAgent)
  | .post f => (match s.fibre? f with
    | none => .fault .noAgent
    | some x => match x.post with
      | [] => .fault .noAgent
      | p :: _ => atomPost o f x p s)
  | _ => withNode s l (if red then [] else [d]) fun f e i xs => atomNode s op o d f e i xs

/-! ## The instructions -/

/-- ATOM LOAD (R322): atomic read. -/
def execAtomLoad (w64 : Bool) (scope : BitVec 3) (order : BitVec 2) (d : Dest) (a : Operand) (s : State) : Result :=
  atomic (.atomLoad w64 scope order d a) 0 w64 scope order false d [a] s
/-- ATOM STORE (R322): atomic write. -/
def execAtomStore (w64 : Bool) (scope : BitVec 3) (order : BitVec 2) (a b : Operand) (s : State) : Result :=
  atomic (.atomStore w64 scope order a b) 1 w64 scope order false .zero [a, b] s
/-- ATOM ADD (R322): old + b. -/
def execAtomAdd (w64 : Bool) (scope : BitVec 3) (order : BitVec 2) (d : Dest) (a b : Operand) (s : State) : Result :=
  atomic (.atomAdd w64 scope order d a b) 2 w64 scope order false d [a, b] s
/-- ATOM SUB (R322): old − b. -/
def execAtomSub (w64 : Bool) (scope : BitVec 3) (order : BitVec 2) (d : Dest) (a b : Operand) (s : State) : Result :=
  atomic (.atomSub w64 scope order d a b) 3 w64 scope order false d [a, b] s
/-- ATOM AND (R322): old and b. -/
def execAtomAnd (w64 : Bool) (scope : BitVec 3) (order : BitVec 2) (d : Dest) (a b : Operand) (s : State) : Result :=
  atomic (.atomAnd w64 scope order d a b) 4 w64 scope order false d [a, b] s
/-- ATOM OR (R322): old or b. -/
def execAtomOr (w64 : Bool) (scope : BitVec 3) (order : BitVec 2) (d : Dest) (a b : Operand) (s : State) : Result :=
  atomic (.atomOr w64 scope order d a b) 5 w64 scope order false d [a, b] s
/-- ATOM XOR (R322): old xor b. -/
def execAtomXor (w64 : Bool) (scope : BitVec 3) (order : BitVec 2) (d : Dest) (a b : Operand) (s : State) : Result :=
  atomic (.atomXor w64 scope order d a b) 6 w64 scope order false d [a, b] s
/-- ATOM MIN (R322): signed minimum. -/
def execAtomMin (w64 : Bool) (scope : BitVec 3) (order : BitVec 2) (d : Dest) (a b : Operand) (s : State) : Result :=
  atomic (.atomMin w64 scope order d a b) 7 w64 scope order false d [a, b] s
/-- ATOM MAX (R322): signed maximum. -/
def execAtomMax (w64 : Bool) (scope : BitVec 3) (order : BitVec 2) (d : Dest) (a b : Operand) (s : State) : Result :=
  atomic (.atomMax w64 scope order d a b) 8 w64 scope order false d [a, b] s
/-- ATOM MINN (R322): unsigned minimum. -/
def execAtomMinn (w64 : Bool) (scope : BitVec 3) (order : BitVec 2) (d : Dest) (a b : Operand) (s : State) : Result :=
  atomic (.atomMinn w64 scope order d a b) 9 w64 scope order false d [a, b] s
/-- ATOM MAXN (R322): unsigned maximum. -/
def execAtomMaxn (w64 : Bool) (scope : BitVec 3) (order : BitVec 2) (d : Dest) (a b : Operand) (s : State) : Result :=
  atomic (.atomMaxn w64 scope order d a b) 10 w64 scope order false d [a, b] s
/-- ATOM SWAP (R322): exchange. -/
def execAtomSwap (w64 : Bool) (scope : BitVec 3) (order : BitVec 2) (d : Dest) (a b : Operand) (s : State) : Result :=
  atomic (.atomSwap w64 scope order d a b) 11 w64 scope order false d [a, b] s
/-- ATOM CAS (R322): compare and swap. -/
def execAtomCas (w64 : Bool) (scope : BitVec 3) (order : BitVec 2) (d : Dest) (a b c : Operand) (s : State) : Result :=
  atomic (.atomCas w64 scope order d a b c) 12 w64 scope order false d [a, b, c] s
/-- ATOM INC (R322): wrapping increment bounded by b. -/
def execAtomInc (w64 : Bool) (scope : BitVec 3) (order : BitVec 2) (d : Dest) (a b : Operand) (s : State) : Result :=
  atomic (.atomInc w64 scope order d a b) 13 w64 scope order false d [a, b] s
/-- ATOM DEC (R322): wrapping decrement bounded by b. -/
def execAtomDec (w64 : Bool) (scope : BitVec 3) (order : BitVec 2) (d : Dest) (a b : Operand) (s : State) : Result :=
  atomic (.atomDec w64 scope order d a b) 14 w64 scope order false d [a, b] s
/-- ATOM FADD (R322): FP32 sum per lane. -/
def execAtomFadd (w64 : Bool) (scope : BitVec 3) (order : BitVec 2) (d : Dest) (a b : Operand) (s : State) : Result :=
  atomic (.atomFadd w64 scope order d a b) 15 w64 scope order false d [a, b] s
/-- ATOM FMIN (R322): FP32 minimum per lane. -/
def execAtomFmin (w64 : Bool) (scope : BitVec 3) (order : BitVec 2) (d : Dest) (a b : Operand) (s : State) : Result :=
  atomic (.atomFmin w64 scope order d a b) 16 w64 scope order false d [a, b] s
/-- ATOM FMAX (R322): FP32 maximum per lane. -/
def execAtomFmax (w64 : Bool) (scope : BitVec 3) (order : BitVec 2) (d : Dest) (a b : Operand) (s : State) : Result :=
  atomic (.atomFmax w64 scope order d a b) 17 w64 scope order false d [a, b] s
/-- ATOM HADD2F16 (R322): FP16 sum per lane. -/
def execAtomHadd2F16 (w64 : Bool) (scope : BitVec 3) (order : BitVec 2) (d : Dest) (a b : Operand) (s : State) : Result :=
  atomic (.atomHadd2F16 w64 scope order d a b) 18 w64 scope order false d [a, b] s
/-- ATOM HADD2BF16 (R322): BF16 sum per lane. -/
def execAtomHadd2Bf16 (w64 : Bool) (scope : BitVec 3) (order : BitVec 2) (d : Dest) (a b : Operand) (s : State) : Result :=
  atomic (.atomHadd2Bf16 w64 scope order d a b) 19 w64 scope order false d [a, b] s
/-- RED ADD (R325): old + b. -/
def execRedAdd (w64 : Bool) (scope : BitVec 3) (order : BitVec 2) (a b : Operand) (s : State) : Result :=
  atomic (.redAdd w64 scope order a b) 2 w64 scope order true .zero [a, b] s
/-- RED AND (R325): old and b. -/
def execRedAnd (w64 : Bool) (scope : BitVec 3) (order : BitVec 2) (a b : Operand) (s : State) : Result :=
  atomic (.redAnd w64 scope order a b) 4 w64 scope order true .zero [a, b] s
/-- RED OR (R325): old or b. -/
def execRedOr (w64 : Bool) (scope : BitVec 3) (order : BitVec 2) (a b : Operand) (s : State) : Result :=
  atomic (.redOr w64 scope order a b) 5 w64 scope order true .zero [a, b] s
/-- RED XOR (R325): old xor b. -/
def execRedXor (w64 : Bool) (scope : BitVec 3) (order : BitVec 2) (a b : Operand) (s : State) : Result :=
  atomic (.redXor w64 scope order a b) 6 w64 scope order true .zero [a, b] s
/-- RED MIN (R325): signed minimum. -/
def execRedMin (w64 : Bool) (scope : BitVec 3) (order : BitVec 2) (a b : Operand) (s : State) : Result :=
  atomic (.redMin w64 scope order a b) 7 w64 scope order true .zero [a, b] s
/-- RED MAX (R325): signed maximum. -/
def execRedMax (w64 : Bool) (scope : BitVec 3) (order : BitVec 2) (a b : Operand) (s : State) : Result :=
  atomic (.redMax w64 scope order a b) 8 w64 scope order true .zero [a, b] s
/-- RED MINN (R325): unsigned minimum. -/
def execRedMinn (w64 : Bool) (scope : BitVec 3) (order : BitVec 2) (a b : Operand) (s : State) : Result :=
  atomic (.redMinn w64 scope order a b) 9 w64 scope order true .zero [a, b] s
/-- RED MAXN (R325): unsigned maximum. -/
def execRedMaxn (w64 : Bool) (scope : BitVec 3) (order : BitVec 2) (a b : Operand) (s : State) : Result :=
  atomic (.redMaxn w64 scope order a b) 10 w64 scope order true .zero [a, b] s
/-- RED FADD (R325): FP32 sum per lane. -/
def execRedFadd (w64 : Bool) (scope : BitVec 3) (order : BitVec 2) (a b : Operand) (s : State) : Result :=
  atomic (.redFadd w64 scope order a b) 15 w64 scope order true .zero [a, b] s
/-- RED HADD2F16 (R325): FP16 sum per lane. -/
def execRedHadd2F16 (w64 : Bool) (scope : BitVec 3) (order : BitVec 2) (a b : Operand) (s : State) : Result :=
  atomic (.redHadd2F16 w64 scope order a b) 18 w64 scope order true .zero [a, b] s
/-- RED HADD2BF16 (R325): BF16 sum per lane. -/
def execRedHadd2Bf16 (w64 : Bool) (scope : BitVec 3) (order : BitVec 2) (a b : Operand) (s : State) : Result :=
  atomic (.redHadd2Bf16 w64 scope order a b) 19 w64 scope order true .zero [a, b] s

end Sys2Proof.Machine
end

