-- ==== Sys2Proof/Machine/Fence.lean ====
section
/-! DEFINITION. The FENCE group (R140 to R142, R154 to R156, R162 to R164, R180, R326 to R329). -/
namespace Sys2Proof.Machine

/-- A fence: scope, path mask, whether it releases, acquires, is sequentially consistent; the regions of a RELB (none:
all), and the region of an ACQB. -/
structure FenceOp where
  scope : Nat
  mask : Nat
  rel : Bool
  acq : Bool
  sc : Bool
  rgx : List Nat
  acqN : Option Nat
  deriving DecidableEq, Repr

/-- FENCE of a kind (R140). -/
def fenceOp (scope mask kind : BitVec 7) : FenceOp where
  scope := scope.toNat
  mask := mask.toNat
  rel := kind != 0
  acq := kind != 1
  sc := kind == 3
  rgx := []
  acqN := none

/-- RELB (R329): n2 [6] says that there is a second region. -/
def relbOp (scope mask n n2 : BitVec 7) : FenceOp where
  scope := scope.toNat
  mask := mask.toNat
  rel := true
  acq := false
  sc := false
  rgx := n.toNat :: (if n2.getLsbD 6 then [n2.toNat % 64] else [])
  acqN := none

/-- ACQB (R329). -/
def acqbOp (scope mask n : BitVec 7) : FenceOp where
  scope := scope.toNat
  mask := mask.toNat
  rel := false
  acq := true
  sc := false
  rgx := []
  acqN := some n.toNat

/-- The region that an acquire's invalidation is narrowed to. -/
def FenceOp.dropRgx (o : FenceOp) : List Nat := o.acqN.toList

/-- The end of a fibre's acquire by fence: what the first level and the fetch caches lose (R87, R88, R154, R155), and
what becomes of the fibre's pending release and met records (R85, R142). -/
def State.endFence (s : State) (f : Nat) (o : FenceOp) : State :=
  let core := coreOf f
  let s := if o.acq && (decide (2 ≤ o.scope) || maskBelow o.mask) then s.acquireDrop f o.dropRgx else s
  let s := if o.acq && bit o.mask 6 then s.refetch core (s.ctxOfFibre f) else s
  let s := s.modFibre f fun x => { x.withRel (if o.rel && decide (2 ≤ o.scope) then some o.rgx else none) with
    met := if o.acq then x.met.filter fun r => !recMatters o.acqN r else x.met }
  s.popPost f

/-- A fence at the head of a fibre's queue: the fence tokens of R96 at device or system scope, whatever its kind (R154), then
the drains of an acquire. A release waits for the lines that their circuits hold back (R97); the failure of one of the fibre's loads
may take the fence away. A stale record faults with TVAL 0 (log entry 68). -/
def fencePost (o : FenceOp) (f : Nat) (x : Fibre) (p : PostOp) (s : State) : Result :=
  let agent := agentNode f 127
  if x.stage = 1 ∨ x.stage = 3 ∨ (x.stage = 0 ∧ s.systemWaits f o.scope) then .next s
  else
    let s := if x.stage == 0 && (o.rel || decide (4 ≤ o.scope)) then s.performLoads f else s
    let s := if o.rel && x.stage == 0 then s.releaseDrain (coreOf f) o.scope o.mask o.sc o.rgx else s
    if !s.atHeadOf f p || (o.rel && x.stage == 0 && s.releaseLeft (coreOf f) o.scope o.mask o.sc o.rgx) then .next s
    else if x.stage == 0 && decide (4 ≤ o.scope) then
      .next ((s.sendTokens agent (s.setOf (s.jobOf f)) (dieOf f)).setStage f 1)
    else if o.acq && decide (2 ≤ o.scope) then
      let rs := x.met.filter (recMatters o.acqN)
      match s.findStale rs with
      | some r => failPost ((s.modFibre f fun x => { x with met := x.met.erase r }).dropMet r) f 0x0D 0
      | none => .next ((s.askDrains (dieOf f) agent (some (coreOf f)) rs).setStage f 3)
    else .next (s.endFence f o)

/-- A sequencer's fence: after its MAT instructions (R346), below every first-level cache. -/
def fenceSeq (o : FenceOp) (words : Nat) (cl : Nat) (q : Seq) (s : State) : Result :=
  let agent := agentSeq cl
  if !q.mats.isEmpty || s.offering agent || q.stage == 1 || q.stage == 3 then .next s
  else if q.stage = 4 then
    .next (s.seqDone cl { q with stage := 0, met := q.met.filter fun r => !recMatters o.acqN r } words)
  else if q.stage == 0 && decide (4 ≤ o.scope) then
    .next ((s.sendTokens agent (s.setOf q.job) (dieOfCl cl)).setSeq cl { q with stage := 1 })
  else if o.acq then
    let rs := q.met.filter (recMatters o.acqN)
    match s.findStale rs with
    | some r => failSeq ((s.setSeq cl { q with met := q.met.erase r }).dropMet r) cl ⟨0x0D, 0⟩
    | none => .next ((s.askDrains (dieOfCl cl) agent none rs).setSeq cl { q with stage := 3 })
  else .next (s.seqDone cl { q with stage := 0 } words)

/-- A fence for whomever it is executed. -/
def fence (op : Instr) (o : FenceOp) (words : Nat) (s : State) : Result :=
  match s.cur with
  | .seq cl => (match s.seq? cl with
    | some q => fenceSeq o words cl q s
    | none => .fault .noAgent)
  | _ => afterCommit s op [] none false (fencePost o)

/-- FENCE (R327). -/
def execFence (scope mask kind : BitVec 7) (s : State) : Result :=
  fence (.fence scope mask kind) (fenceOp scope mask kind) 1 s

/-- RELB (R329). -/
def execRelb (scope mask n n2 : BitVec 7) (s : State) : Result :=
  fence (.relb scope mask n n2) (relbOp scope mask n n2) 2 s

/-- ACQB (R329). -/
def execAcqb (scope mask n : BitVec 7) (s : State) : Result :=
  fence (.acqb scope mask n) (acqbOp scope mask n) 1 s

/-! ## FENCEX (R164, R180, R328) -/

/-- The holders that FENCEX drains: the die's own, or all eight. -/
def scopeDies (scope die : Nat) : List Nat := if 4 ≤ scope then upto 8 else [die]
def State.drainScope (s : State) (scope die : Nat) : State := (scopeDies scope die).foldl (fun s d => s.drainDie d) s
/-- Every one of them keeps nothing. -/
def State.drainedScope (s : State) (scope die : Nat) : Bool := (scopeDies scope die).all s.drainedDie

/-- FENCEX at the head of a fibre's queue: drains that a circuit holds back leave later, and FENCEX waits for them (R97, R180). -/
def fencexPost (scope : Nat) (f : Nat) (_ : Fibre) (_ : PostOp) (s : State) : Result :=
  if s.addsOut (agentNode f 127) (dieOf f) then .next s
  else
    let s := s.drainScope scope (dieOf f)
    if !s.drainedScope scope (dieOf f) then .next s else
    let s := if 4 ≤ scope then s.modGather (gatherOf f) fun g => { g with offered := false } else s
    .next ((s.modFibre f fun x => x.withRel none).popPost f)

/-- FENCEX (R328). -/
def execFencex (scope : BitVec 7) (s : State) : Result :=
  match s.cur with
  | .seq cl => (match s.seq? cl with
    | some q =>
      if !q.mats.isEmpty || s.addsOut (agentSeq cl) (dieOfCl cl) then .next s
      else
        let s := s.drainScope scope.toNat (dieOfCl cl)
        .next (if s.drainedScope scope.toNat (dieOfCl cl) then s.seqDone cl q 1 else s)
    | none => .fault .noAgent)
  | _ => afterCommit s (.fencex scope) [] none false (fencexPost scope.toNat)

/-! ## The events -/

/-- The address of the ATOM whose acquire an agent makes; 0 for a fence's (log entry 68). -/
def State.acquireVa (s : State) (agent : Nat) : Dword :=
  if 10 ^ 12 ≤ agent then 0
  else (((s.fibre? (agent / 128)).bind fun x => x.post.head?.bind (·.place)).map (·.va)).getD 0

/-- The acquire that an agent is making fails: it waits for no other drain, and what an ATOM has read is not delivered. -/
def State.cutAcquire (s : State) (agent : Nat) : State :=
  let va := s.acquireVa agent
  let s := { s with ms := { s.ms with drains := s.ms.drains.filter fun d => d.agent != agent } }
  if 10 ^ 12 ≤ agent then s.seqFault (agent - 10 ^ 12) 0x0D va
  else
    let s := match (s.fibre? (agent / 128)).bind fun x => x.post.head?.bind (·.prod) with
      | some n => s.modProd n fun pr => { pr with value := none }
      | none => s
    s.postFault (agent / 128) 0x0D va

/-- It fails on a record (R107), which is dropped. -/
def State.failAcquire (s : State) (agent : Nat) (r : Nat × RelRec) : State :=
  let s := if 10 ^ 12 ≤ agent then s else s.modFibre (agent / 128) fun x => { x with met := x.met.erase r }
  (s.dropMet r).cutAcquire agent

/-- DRAIN_REQUEST (R87 step 2): the core that a request names drains, the record goes from the copy that has caused the drain
(R86), and the request is acknowledged; a core that has rejoined meanwhile has lost what the record stood for (R107). While a line's circuit holds it back, the request stands (R97). -/
def execDrainRequest (i : Nat) (s : State) : Result :=
  match s.ms.drains[i]? with
  | none => .next s
  | some d =>
    if s.staleRec d.record then .next (s.failAcquire d.agent (d.copy, d.record))
    else
      let s := s.drainSome d.record.core d.record.rgx
      .next (if s.undrained d.record.core d.record.rgx then s
        else { s with ms := { s.ms with drains := dropAt i s.ms.drains } }.dropMet (d.copy, d.record))

/-- The fence at the head of a fibre's queue. -/
def fenceOfOp : Instr → Option FenceOp
  | .fence a b c => some (fenceOp a b c)
  | .relb a b c d => some (relbOp a b c d)
  | .acqb a b c => some (acqbOp a b c)
  | _ => none

/-- ACQUIRE_COMPLETE (R87 step 3): the agent's drains are all acknowledged; the core's clean bytes go, and the acquire is
over. An agent number from 10^12 is a sequencer's. -/
def execAcquireComplete (f : Nat) (s : State) : Result :=
  if 10 ^ 12 ≤ f then
    let cl := f - 10 ^ 12
    match s.seq? cl with
    | none => .next s
    | some q => if q.stage = 3 ∧ s.drained f then .next (s.setSeq cl { q with stage := 4 }) else .next s
  else
    match s.fibre? f with
    | none => .next s
    | some x =>
      if x.stage = 3 ∧ s.drained (agentNode f 127) then
        match x.post with
        | [] => .next s
        | p :: _ => match fenceOfOp p.op with
          | some o => .next (s.endFence f o)
          | none => .next ((s.acquireDrop f []).popPost f)
      else .next s

/-- FENCE_TOKEN_ARRIVAL (R96 step 3): the token numbered i on the circuits, a fence's, with nothing before it on its
circuit, is acknowledged on the response class; one of an incarnation that is over is discarded (R105). -/
def execFenceTokenArrival (i : Nat) (s : State) : Result :=
  match s.ms.posted[i]? with
  | none => .next s
  | some p => match p.what with
    | .fence agent =>
      if p.sent && !((s.ms.posted.take i).any fun x => x.circ == p.circ) then
        let s := { s with ms := { s.ms with posted := dropAt i s.ms.posted } }
        if s.outdated p then .next s
        else
          let s := s.sendOn p.set p.dst p.src 2
          .next { s with ms := { s.ms with
            fences := s.ms.fences.map fun w => if w.agent == agent then { w with left := w.left - 1 } else w } }
      else .next s
    | _ => .next s

/-- FENCE_COMPLETE (R96 step 4): every acknowledgement has arrived; the instruction goes on. -/
def execFenceComplete (f : Nat) (s : State) : Result :=
  let agent := if 10 ^ 12 ≤ f then f else agentNode f 127
  match s.fenceOf agent with
  | none => .next s
  | some w =>
    if w.left ≠ 0 then .next s
    else
      let s := { s with ms := { s.ms with fences := s.ms.fences.filter fun w => w.agent != agent } }
      if 10 ^ 12 ≤ f then
        match s.seq? (f - 10 ^ 12) with
        | some q => .next (s.setSeq (f - 10 ^ 12) { q with stage := 2 })
        | none => .next s
      else .next (s.setStage f 2)

end Sys2Proof.Machine
end

