-- ==== Sys2Proof/Machine/Flow.lean ====
section
/-! DEFINITION. Transfers, calls, windows, barriers, FORK and the predicates of a block (R256 to R274), with the transfers
of sequencer code (R344). -/
namespace Sys2Proof.Machine

/-! ## Addresses -/

/-- The header that follows a block's body (R208, R259). -/
def fallThrough (hdr : Dword) (n : Nat) : Dword := hdr + 16 + BitVec.ofNat 64 (4 * n)
def Inst.next (i : Inst) : Dword := fallThrough i.hdr i.n
/-- The address of a word of the body. -/
def Inst.addrOf (i : Inst) (e : Nat) : Dword := i.hdr + 16 + BitVec.ofNat 64 (4 * e)
/-- The target of a B-format word at an address (R239, R258). -/
def branchTo (a : Dword) (off : BitVec 20) : Dword := a + 4 * off.signExtend 64

/-! ## Sequencer transfers (R344) -/

/-- A sequencer goes on at an address. -/
def seqJump (s : State) (cl : Nat) (q : Seq) (pc : Dword) : Result := .next (s.setSeq cl { q with pc := pc })

/-- A sequencer call: sixteen entries are the most that the stack holds. -/
def seqCall (s : State) (cl : Nat) (q : Seq) (ret pc : Dword) : Result :=
  if 16 ≤ q.stack.length then .next (s.seqFault cl 0x05 16)
  else .next (s.setSeq cl { q with stack := ret :: q.stack, pc := pc })

/-- A sequencer return. -/
def seqRet (s : State) (cl : Nat) (q : Seq) : Result :=
  match q.stack with
  | [] => .next (s.seqFault cl 0x0E 0)
  | a :: r => .next (s.setSeq cl { q with stack := r, pc := a })

/-- An instruction with a form of its own in sequencer code. -/
def bySeq (s : State) (onSeq : Nat → Seq → Result) (onFibre : Result) : Result :=
  match s.cur with
  | .seq cl => (match s.seq? cl with
    | some q => onSeq cl q
    | none => .fault .noAgent)
  | _ => onFibre

/-! ## Transfers of a fibre (R258 to R262) -/

/-- The node of a transfer fires: what the commit is to do. -/
def transfer (s : State) (f e : Nat) (i : Inst) (x : Transfer) : Result := .next (s.setInst f { (i.done e) with xfer := some x })

/-- JMP (R258). -/
def execJmp (off : BitVec 20) (s : State) : Result :=
  bySeq s (fun cl q => seqJump s cl q (branchTo q.pc off)) <|
    withNode s [] [] fun f e i _ => transfer s f e i (.goto (branchTo (i.addrOf e) off) .plain)

/-- A branch on one sense of its predicate. -/
def branch (sense : Bool) (p : Operand) (off : BitVec 20) (s : State) : Result :=
  bySeq s (fun cl q => if isTrue (q.read p) == sense then seqJump s cl q (branchTo q.pc off) else .next (s.setSeq cl (q.past 1))) <|
    withNode s [p] [] fun f e i xs =>
      transfer s f e i (.goto (if isTrue (xs.getD 0 0) == sense then branchTo (i.addrOf e) off else i.next) .plain)

/-- BRT (R258). -/
def execBrt (p : Operand) (off : BitVec 20) (s : State) : Result := branch true p off s
/-- BRF (R258). -/
def execBrf (p : Operand) (off : BitVec 20) (s : State) : Result := branch false p off s

/-- WSIZE of a gather, or the least that a kernel has. -/
def wsizeOf (s : State) (f : Nat) : Nat := match s.gather? (gatherOf f) with
  | some g => g.wsize
  | none => 48

/-- WOFF with an instance's WINB, as a signed value (R263). -/
def Inst.woffWith (i : Inst) (woff : Nat) : Int := (woff : Int) + (i.winb.getD 0).toInt

/-- A window lies within its allocation (R230). -/
def windowOk (wsize : Nat) (w : Int) : Bool := decide (0 ≤ w) && decide (w ≤ (wsize : Int) - 48)

/-- The spill of the two oldest entries (R232): its four stores, or waiting, or a failure. -/
def State.planSpill (s : State) (w : Who) (job e : Nat) (fsp : Nat) : List (Nat × Dword) → State × Option (Except Bad (List StoreOp))
  | [] => (s, some (.ok []))
  | (off, v) :: r =>
    let a := (fsp + 2 ^ 64 - 32 + off) % 2 ^ 64
    let (s, x) := s.resolve w a 8 8 needW
    match s.planStore w job e a 0 8 none (leBytes 8 v.toNat) x with
    | (s, none) => (s, none)
    | (s, some (.error b)) => (s, some (.error b))
    | (s, some (.ok o)) => match s.planSpill w job e fsp r with
      | (s, some (.ok os)) => (s, some (.ok (o :: os)))
      | y => y

/-- The four dwords of a spill record (R234): the oldest entry first. -/
def spillWords (stack : List CallEntry) : List (Nat × Dword) :=
  let e0 := stack.getD 3 ⟨0, 0⟩
  let e1 := stack.getD 2 ⟨0, 0⟩
  [(0, e0.ret), (8, BitVec.ofNat 64 e0.woff), (16, e1.ret), (24, BitVec.ofNat 64 e1.woff)]

/-- A call's node (R259, R263, R232): the window check, and the spill when four entries are held. -/
def callNode (s : State) (f e : Nat) (i : Inst) (xs : List Dword) (target : Dword) (adv : Nat) : Result :=
  match s.fibre? f with
  | none => .fault .noAgent
  | some x =>
    if i.winbPending then .next s
    else
      let v := x.eff
      let nw := i.woffWith v.woff + (adv : Int)
      if !windowOk (wsizeOf s f) nw then failNode s f e ⟨0x05, (BitVec.ofInt 64 nw).toNat⟩ xs
      else if v.stack.length < 4 then transfer s f e i (.call target adv)
      else if i.fspPending then .next s
      else
        let fsp := (i.fspW.getD v.fsp).toNat
        if fsp % 32 ≠ 0 then failNode s f e ⟨0x0B, fsp⟩ xs
        else match s.planSpill (s.whoNode f e) (s.jobOf f) e fsp (spillWords v.stack) with
          | (s, none) => .next s
          | (s, some (.error b)) => failNode s f e b xs
          | (s, some (.ok os)) =>
            transfer (s.clearFresh (agentNode f e)) f e { i with stores := i.stores ++ os } (.call target adv)

/-- CALL (R258, R259). -/
def execCall (k : BitVec 7) (off : BitVec 20) (s : State) : Result :=
  bySeq s (fun cl q => seqCall s cl q (q.pc + 4) (branchTo q.pc off)) <|
    withNode s [] [] fun f e i xs => callNode s f e i xs (branchTo (i.addrOf e) off) k.toNat

/-- TRAMP in a launch whose instrumentation is disabled (R260): cause 0x03, TVAL the word. -/
def trampTrap (s : State) (f e : Nat) : Result := .next (s.nodeFault f e 0x03 ((s.firstWord f e).zeroExtend 64) 0 0 0)

/-- Whether instrumentation is enabled for a launch (R386). -/
def State.instrOn (s : State) (lid : Nat) : Bool := match s.launch? lid with
  | some l => l.instr
  | none => false

/-- The launch of a fibre, as a number. -/
def State.lidOf (s : State) (f : Nat) : Nat := match s.gather? (gatherOf f) with
  | some g => g.lid
  | none => 0

/-- TRAMP (R260). -/
def execTramp (off : BitVec 20) (s : State) : Result :=
  bySeq s (fun cl q => if s.instrOn q.lid then seqJump s cl q (branchTo q.pc off)
      else .next (s.seqFault cl 0x03 ((s.seqWordAt cl).zeroExtend 64))) <|
    withNode s [] [] fun f e i _ =>
      if s.instrOn (s.lidOf f) then transfer s f e i (.goto (branchTo (i.addrOf e) off) .plain) else trampTrap s f e

/-- TRAMP.LINK (R260). -/
def execTrampLink (k : BitVec 6) (off : BitVec 20) (s : State) : Result :=
  bySeq s (fun cl q => if s.instrOn q.lid then seqCall s cl q (q.pc + 4) (branchTo q.pc off)
      else .next (s.seqFault cl 0x03 ((s.seqWordAt cl).zeroExtend 64))) <|
    withNode s [] [] fun f e i xs =>
      if s.instrOn (s.lidOf f) then callNode s f e i xs (branchTo (i.addrOf e) off) k.toNat else trampTrap s f e

/-- BRI (R262). -/
def execBri (a : Operand) (s : State) : Result :=
  bySeq s (fun cl q => seqJump s cl q (q.read a)) <|
    withNode s [a] [] fun f e i xs => transfer s f e i (.goto (xs.getD 0 0) .plain)

/-- CALLI (R262). -/
def execCalli (a : Operand) (k : BitVec 7) (s : State) : Result :=
  bySeq s (fun cl q => seqCall s cl q (q.pc + BitVec.ofNat 64 (4 + 4 * litCount [a])) (q.read a)) <|
    withNode s [a] [] fun f e i xs => callNode s f e i xs (xs.getD 0 0) k.toNat

/-- The four dwords of a spill record read back (R233), after the fibre's own earlier writes and reads of them (R147). -/
def State.readRecord (s : State) (f e : Nat) (i : Inst) (w : Who) (fsp : Nat) : List Nat → State × Read
  | [] => (s, .bytes [])
  | off :: r =>
    let a := (fsp + off) % 2 ^ 64
    let (s, x) := s.resolve w a 8 8 needR
    let (sp, as) := x.cells 8
    if s.ownAhead f sp as then (s, .wait)
    else
      let s := if sp = 0 then s.settleLoads f s.serial as else s
      match s.loadWith f e i w 0 a 8 x with
      | (s, .bytes bs) => (match s.readRecord f e i w fsp r with
        | (s, .bytes cs) => (s, .bytes (bs ++ cs))
        | y => y)
      | y => y

/-- The entries of a spill record, the newest first; none where one breaks R233. -/
def entriesOf (wsize : Nat) (bs : List Byte) : Option (CallEntry × CallEntry) :=
  let dw (k : Nat) := leNat ((bs.drop (8 * k)).take 8)
  if dw 1 + 48 ≤ wsize && dw 3 + 48 ≤ wsize then
    some (⟨BitVec.ofNat 64 (dw 2), dw 3⟩, ⟨BitVec.ofNat 64 (dw 0), dw 1⟩)
  else none

/-- RET's node (R231, R233): the WOFF that it would leave is checked as a call's is (R230). -/
def retNode (s : State) (f e : Nat) (i : Inst) : Result :=
  match s.fibre? f with
  | none => .fault .noAgent
  | some x =>
    let v := x.eff
    match v.stack with
    | c :: _ => if windowOk (wsizeOf s f) c.woff then transfer s f e i (.ret none)
      else failNode s f e ⟨0x05, c.woff⟩ []
    | [] =>
    if v.spilled = 0 then failNode s f e ⟨0x0E, 0⟩ []
    else if i.awaitsStore e || i.fspPending then .next s
    else
      let fsp := (i.fspW.getD v.fsp).toNat
      let held := match x.shadow with
        | some h => h.spills.map fun o => { o with eidx := 0 }
        | none => []
      match s.readRecord f 128 { i with stores := held ++ i.stores } (s.whoNode f e) fsp [0, 8, 16, 24] with
      | (s, .wait) => .next s
      | (s, .bad b) => failNode s f e b []
      | (s, .bytes bs) => match entriesOf (wsizeOf s f) bs with
        | none => failNode s f e ⟨0x05, fsp⟩ []
        | some r => transfer (s.clearFresh (agentNode f e)) f e i (.ret (some r))

/-- RET (R262). -/
def execRet (s : State) : Result :=
  bySeq s (fun cl q => seqRet s cl q) <| withNode s [] [] fun f e i _ => retNode s f e i

/-- EXIT (R264, R344); a sequencer's comes after its issued instructions (R357). -/
def execExit (s : State) : Result :=
  bySeq s (fun cl q => if q.mats.isEmpty then .next (s.endProgram cl false) else .next s) <| withNode s [] [] fun f e i _ => transfer s f e i .exit

/-- YIELD (R265). -/
def execYield (a : Operand) (s : State) : Result :=
  withNode s [a] [] fun f e i xs => transfer s f e i (.yield (min (xs.getD 0 0).toNat 65535))

/-! ## FORK and WINB -/

/-- FORK (R266): held until commit. -/
def execFork (d : Dest) (a b : Operand) (s : State) : Result :=
  withNode s [a, b] [d] fun f e i xs =>
    if s.emulating f then failEmulated s f e xs
    else .next (s.setInst f { (i.done e) with forks := i.forks ++ [(e, xs.getD 0 0, xs.getD 1 0)] })

/-- WINB (R263). -/
def execWinb (a : Operand) (s : State) : Result :=
  withNode s [a] [] fun f e i xs =>
    if s.emulating f then failEmulated s f e xs
    else match s.fibre? f with
      | none => .fault .noAgent
      | some x =>
        let nw := (x.eff.woff : Int) + (xs.getD 0 0).toInt
        if windowOk (wsizeOf s f) nw then .next (s.setInst f { (i.done e) with winb := some (xs.getD 0 0) })
        else failNode s f e ⟨0x05, (BitVec.ofInt 64 nw).toNat⟩ xs

/-! ## Barriers (R268 to R270) -/

/-- The tag on which an operation is issued to the copy engine (R124, R337). -/
def tagOf : Instr → Option Nat
  | .cpy t _ _ _ => some t.toNat
  | .cpyr t _ _ => some t.toNat
  | .cpyp t _ _ => some t.toNat
  | .cpyg t _ _ => some t.toNat
  | .spwb t _ _ => some t.toNat
  | .spunmap t _ => some t.toNat
  | .spcpy t _ _ _ => some t.toNat
  | .spfill t _ _ _ => some t.toNat
  | _ => none

/-- A post-commit operation that an arrival must follow: an ATOM or RED, a LAUNCH, which reads its record (R275), or the issue of
a copy-engine operation (R124). -/
def PostOp.accesses (p : PostOp) : Bool := p.place.isSome || (tagOf p.op).isSome || (match p.op with
  | .launch _ _ _ => true
  | _ => false)

/-- Such an operation of an earlier instance of the fibre has still to be performed (R229, R267, R269). -/
def State.memPending (s : State) (f : Nat) : Bool :=
  (match s.fibre? f with
   | some x => x.post.any (·.accesses)
   | none => false) || s.offering (agentNode f 127)

/-- The retry note of a node (R270). -/
def Fibre.note (x : Fibre) (i : Inst) (e : Nat) : Option Bool :=
  (x.notes.find? fun n => n.1 == i.hdr && n.2.1 == e).map fun n => n.2.2

/-- A noted arrival still waits for its phase. -/
def State.notePending (s : State) (f b : Nat) (ph : Bool) : Bool :=
  match s.gather? (gatherOf f) with
  | none => false
  | some g =>
    let x := g.bar b
    (x.phase == ph && x.arr.contains (fiOf f)) || (x.phase != ph && x.held.contains (fiOf f))

/-- The instance is still there, and nothing in it or before it has failed that a node's arrival must follow (R228, R270). -/
def State.mayArrive (s : State) (f e : Nat) : Bool :=
  (s.inst? f).any (fun i => !i.memBefore e) && (s.fibre? f).any fun x => x.report.isNone

/-- The arrival of a node, which comes after every operation of the fibre's earlier instances (R229): the state, and the phase
in which it counts; none while it cannot arrive yet. -/
def State.arriveNode (s : State) (f e b : Nat) (i : Inst) (x : Fibre) : State × Option (Bool × Bool) :=
  match x.note i e with
  | some ph => (s, some (ph, s.notePending f b ph))
  | none =>
    if s.memPending f then (s, none)
    else
      let t := s.performLoads f
      if !t.mayArrive f e then (t, none)
      else match t.arriveBar f b with
      | (s, some ph) => (s, some (ph, true))
      | (_, none) => (s, none)

/-- An instance is held at a BAR whose phase has not completed. -/
def Inst.atBar (i : Inst) : Bool := i.bars.any fun b => i.todo.contains b.1

/-- A fibre that a checkpoint stops and that comes to be held at a BAR gives its instance up at once (R420 step 1). -/
def State.stopAtBar (s : State) (f : Nat) (x : Fibre) : State :=
  if x.stop && !x.cancelled && (s.inst? f).any (fun i => i.atBar && i.faults.isEmpty) then s.discard f else s

/-- BAR's and ARRIVE's node: BAR fires when its phase completes. -/
def barNode (s : State) (wait : Bool) (f e b : Nat) (i : Inst) : Result :=
  match s.fibre? f with
  | none => .fault .noAgent
  | some x =>
    if s.emulating f then failEmulated s f e []
    else if i.memBefore e || i.bars.any (fun y => y.1 == e) then .next s
    else match s.arriveNode f e b i x with
      | (s, none) => .next s
      | (s, some (ph, pending)) =>
        match s.inst? f with
        | none => .next s
        | some i =>
          let i := { i with bars := i.bars ++ [(e, b, ph)] }
          let i := if wait && pending then i else i.done e
          .next (((s.setInst f i).checkBar (gatherOf f) b).stopAtBar f x)

/-- BAR (R268). -/
def execBar (n : BitVec 7) (s : State) : Result := withNode s [] [] fun f e i _ => barNode s true f e n.toNat i
/-- ARRIVE (R268). -/
def execArrive (n : BitVec 7) (s : State) : Result := withNode s [] [] fun f e i _ => barNode s false f e n.toNat i

/-- AWAIT (R269). -/
def execAwait (n : BitVec 7) (s : State) : Result :=
  afterCommit s (.await n) [] none true fun f _ _ s => if s.awaitWaits f n.toNat then .next s else .next (s.popPost f)

/-! ## Predication (R271 to R274) -/

/-- STEER (R271). -/
def execSteer (d : Dest) (a p : Operand) (s : State) : Result :=
  withNode s [a, p] [d] fun f e i xs =>
    .next (s.setInst f (if isTrue (xs.getD 1 0) then i.fire e d (xs.getD 0 0) else i.absorb e d))

/-- What MERGE forwards (R272): nothing yet, absorption, or a value. -/
def mergeOf : Got → Got → Got → Got
  | .wait, _, _ => .wait
  | _, .wait, _ => .wait
  | .val x, .gone, _ => .val x
  | .gone, .val y, _ => .val y
  | .gone, .gone, _ => .gone
  | .val _, .val _, .wait => .wait
  | .val _, .val y, .gone => .val y
  | .val x, .val y, .val p => .val (if isTrue p then x else y)

/-- MERGE (R272). -/
def execMerge (d : Dest) (a b p : Operand) (s : State) : Result :=
  withNode s [] [d] fun f e i _ =>
    match mergeOf (i.read a) (i.read b) (i.read p) with
    | .wait => .next s
    | .gone => .next (s.setInst f (i.absorb e d))
    | .val x => .next (s.setInst f (i.fire e d x))

/-- SEL (R273). -/
def execSel (d : Dest) (a b p : Operand) (s : State) : Result :=
  withNode s [a, b, p] [d] fun f e i xs =>
    .next (s.setInst f (i.fire e d (if isTrue (xs.getD 2 0) then xs.getD 0 0 else xs.getD 1 0)))

/-- PGET (R274). -/
def execPget (d : Dest) (n : BitVec 7) (s : State) : Result :=
  withNode s [] [d] fun f e i _ => .next (s.setInst f (i.fire e d (ofPred (i.pw.getLsbD n.toNat))))

/-- A bit of a predicate word replaced. -/
def setPwBit (pw : Half) (n : Nat) (b : Bool) : Half :=
  (pw &&& ~~~(1#16 <<< n)) ||| (if b then 1#16 <<< n else 0)

/-- PSET (R274). -/
def execPset (a : Operand) (n : BitVec 7) (s : State) : Result :=
  withNode s [a] [.pw] fun f e i xs =>
    .next (s.setInst f (i.fire e .pw ((setPwBit i.pw n.toNat (isTrue (xs.getD 0 0))).zeroExtend 64)))

end Sys2Proof.Machine
end

