-- ==== Sys2Proof/Machine/System.lean ====
section
/-! DEFINITION. The system instructions (R373 to R383) and the cullet encodings (R384, R385), with the results that
firmware's emulation of a cullet reproduces. -/
namespace Sys2Proof.Machine

/-! ## Special registers (R373) -/

/-- A gather's copy tag; one never used counts nothing. -/
def noTag : Tag := ⟨0, false, 0⟩
def Gather.tag (g : Gather) (t : Nat) : Tag := kvGetD t noTag g.tags
def Gather.setTag (g : Gather) (t : Nat) (x : Tag) : Gather := { g with tags := kvSetD t noTag x g.tags }

/-- A 64-bit map of numbers 0 to 63. -/
def bitmap (p : Nat → Bool) : Dword := BitVec.ofNat 64 (((upto 64).filter p).foldl (fun m k => m + 2 ^ k) 0)

/-- TAGS: bit t is set while no operation of tag t is outstanding (R125). -/
def Gather.doneMap (g : Gather) : Dword := bitmap fun t => (g.tag t).count == 0
/-- The tags of operations that fibres of a gather have committed and the copy engine has still to take (R337), those held for
a handler among them (R411). -/
def State.tagsQueued (s : State) (g : Nat) : List Nat :=
  s.fab.fibres.flatMap fun p => if gatherOf p.1 == g then (p.2.post ++ p.2.held).filterMap fun o => tagOf o.op else []
/-- TAGS as TAGS, FFR and RDSR read it: an operation counts from the commit of its instance (R124; log entry 85). -/
def State.doneMap (s : State) (k : Nat) (g : Gather) : Dword :=
  let queued := s.tagsQueued k
  bitmap fun t => (g.tag t).count == 0 && !queued.contains t
/-- Those that fibres other than f have committed. -/
def State.tagsAhead (s : State) (f : Nat) : List Nat :=
  s.fab.fibres.flatMap fun p => if gatherOf p.1 == gatherOf f && p.1 != f then
    (p.2.post ++ p.2.held).filterMap fun o => tagOf o.op else []
/-- DONE as a WANY or WALL at the head of a fibre's queue reads it (R124; log entry 85). -/
def State.waitMap (s : State) (f : Nat) (g : Gather) : Dword :=
  let queued := s.tagsAhead f
  bitmap fun t => (g.tag t).count == 0 && !queued.contains t
/-- CSD: the error flags (R340). -/
def Gather.errMap (g : Gather) : Dword := bitmap fun t => (g.tag t).err

/-- PWRM (R16). -/
def Power.word (p : Power) : Dword := BitVec.ofNat 64 (p.fthr * 2 ^ 20 + p.budget * 2 ^ 8 + p.thr * 2 ^ 4 + p.mode)

/-- A launch's identifier, job and priority as special registers; die, cluster and core of a unit. -/
def State.launchReg (s : State) (lid n : Nat) : Dword :=
  match n, s.launch? lid with
  | 14, _ => BitVec.ofNat 64 lid
  | 15, some l => BitVec.ofNat 64 l.job
  | 16, some l => BitVec.ofNat 64 l.prio
  | _, _ => 0

/-- What RDSR reads in a fibre. -/
def State.fibreReg (s : State) (f n : Nat) : Dword :=
  match s.fibre? f, s.gather? (gatherOf f) with
  | some x, some g =>
    (match n with
     | 0 => BitVec.ofNat 64 s.clock
     | 1 => x.eff.fsp
     | 2 => BitVec.ofNat 64 g.wsize
     | 3 => x.trap.cause
     | 4 => x.trap.epc
     | 5 => x.trap.eidx
     | 6 => x.trap.tval
     | 7 => x.trap.topa
     | 8 => x.trap.topb
     | 9 => x.trap.topc
     | 10 => x.eff.thnd
     | 11 => s.doneMap (gatherOf f) g
     | 12 => g.errMap
     | 13 => BitVec.ofNat 64 g.gid
     | 17 => x.emul
     | 18 => s.mg.power.word
     | 19 => BitVec.ofNat 64 (dieOf f)
     | 20 => BitVec.ofNat 64 (clOfCore (coreOf f) % 20)
     | 21 => BitVec.ofNat 64 (coreOf f % 4)
     | n => s.launchReg g.lid n)
  | _, _ => 0

/-- What RDSR reads in a sequencer program; none where R345 forbids it. -/
def State.seqReg (s : State) (cl : Nat) (q : Seq) (n : Nat) : Option Dword :=
  match n with
  | 0 => some (BitVec.ofNat 64 s.clock)
  | 14 => some (s.launchReg q.lid 14)
  | 15 => some (BitVec.ofNat 64 q.job)
  | 16 => some (s.launchReg q.lid 16)
  | 18 => some s.mg.power.word
  | 19 => some (BitVec.ofNat 64 (dieOfCl cl))
  | 20 => some (BitVec.ofNat 64 (cl % 20))
  | 21 => some 0
  | _ => none

/-- RDSR (R377). -/
def execRdsr (d : Dest) (n : BitVec 7) (s : State) : Result :=
  bySeq s (fun cl q => match s.seqReg cl q n.toNat with
    | some x => .next (s.setSeq cl ((q.put d x).past 1))
    | none => illegalSeq s cl) <|
  withNode s [] [d] fun f e i _ => .next (s.setInst f (i.fire e d (s.fibreReg f n.toNat)))

/-- WRSR (R374): held until commit. -/
def execWrsr (n : BitVec 7) (a : Operand) (s : State) : Result :=
  withNode s [a] [] fun f e i xs =>
    .next (s.setInst f (if n = 1 then { (i.done e) with fspW := some (xs.getD 0 0) } else { (i.done e) with thndW := some (xs.getD 0 0) }))

/-- CLOCK (R378). -/
def execClock (d : Dest) (a : Operand) (s : State) : Result := compute [a] 0 d (fun _ => BitVec.ofNat 64 s.clock) s

/-- PERFC (R379). -/
def execPerfc (d : Dest) (k : BitVec 7) (s : State) : Result :=
  bySeq s (fun cl q => .next (s.setSeq cl ((q.put d (BitVec.ofNat 64 (kvGetD (perfKey (1000 + cl) q.ctx k.toNat) 0 s.fab.perf))).past 1))) <|
  withNode s [] [d] fun f e i _ =>
    .next (s.setInst f (i.fire e d (BitVec.ofNat 64 (kvGetD (perfKey (coreOf f) (s.ctxOfFibre f) k.toNat) 0 s.fab.perf))))

/-- NOP (R380). -/
def execNop (s : State) : Result :=
  bySeq s (fun cl q => .next (s.setSeq cl (q.past 1))) <| withNode s [] [] fun f e i _ => .next (s.setInst f (i.done e))

/-! ## Traps and returns (R381 to R383) -/

/-- TRAP (R381). -/
def execTrap (a : Operand) (s : State) : Result :=
  bySeq s (fun cl q => .next (s.seqFault cl 0x10 (q.read a))) <|
  withNode s [a] [] fun f e _ xs => .next (s.nodeFault f e 0x10 (xs.getD 0 0) (xs.getD 0 0) 0 0)

/-- BKPT (R381, R345). -/
def execBkpt (k : BitVec 7) (s : State) : Result :=
  bySeq s (fun cl q => .next (s.setSeq cl (if (s.attached q.job).isSome then { q with halted := true } else q.past 1))) <|
  withNode s [] [] fun f e i _ =>
    if (s.attached (s.jobOf f)).isSome then .next (s.nodeFault f e 0x11 (k.zeroExtend 64) 0 0 0)
    else .next (s.setInst f (i.done e))

/-- The fibre runs a handler that RESUME may end (R382, R407). -/
def Fibre.mayResume (x : Fibre) : Bool :=
  let c := x.trap.cause.toNat % 256
  x.hm && ((decide (4 ≤ c) && decide (c ≤ 0x11)) || (decide (0x13 ≤ c) && decide (c ≤ 0x15)))

/-- RESUME's node. -/
def resumeNode (s : State) (f e : Nat) (i : Inst) (skip : Option Dword) (xs : List Dword) : Result :=
  match s.fibre? f with
  | none => .fault .noAgent
  | some x => if x.mayResume then transfer s f e i (.resume skip) else failEmulated s f e xs

/-- RESUME retry (R382). -/
def execResumeRetry (s : State) : Result := withNode s [] [] fun f e i _ => resumeNode s f e i none []
/-- RESUME skip (R382). -/
def execResumeSkip (a : Operand) (s : State) : Result :=
  withNode s [a] [] fun f e i xs => resumeNode s f e i (some (xs.getD 0 0)) xs

/-- EMULRET (R383). -/
def execEmulret (a : Operand) (s : State) : Result :=
  withNode s [a] [] fun f e i xs =>
    if s.emulating f then transfer s f e i (.emulret (xs.getD 0 0)) else failEmulated s f e xs

/-! ## Cullets (R384, R385) -/

/-- MUL24. -/
def execMul24 (d : Dest) (a b : Operand) (s : State) : Result := cullet [a, b] d s
/-- FMADSAT. -/
def execFmadsat (d : Dest) (a b : Operand) (s : State) : Result := cullet [a, b] d s
/-- CVT16Z. -/
def execCvt16z (d : Dest) (a : Operand) (s : State) : Result := cullet [a] d s
/-- LANEID. -/
def execLaneid (d : Dest) (s : State) : Result := cullet [] d s
/-- SHFL. -/
def execShfl (d : Dest) (a b : Operand) (s : State) : Result := cullet [a, b] d s
/-- VOTE. -/
def execVote (d : Dest) (a : Operand) (_mode : BitVec 7) (s : State) : Result := cullet [a] d s

/-- The result that emulation gives MUL24 (R384). -/
def mul24Result (a b : Dword) : Dword := sextD 32 ((sextD 24 a.toNat * sextD 24 b.toNat).toNat % 2 ^ 32)

/-- The result that emulation gives FMADSAT. -/
def fmadsatResult (a b : Dword) : Dword :=
  let h (k : Nat) : FV := Sys2Proof.Machine.fp16.decode (b.toNat / 2 ^ (16 * k) % 2 ^ 16)
  extZ (satUnit (toF32 (((f32 (lo32 a)).mul (h 0)).add (h 1))))

/-- The result that emulation gives CVT16Z. -/
def cvt16zResult (a : Dword) : Dword :=
  match f32 (lo32 a) with
  | .nan => 0x7E00
  | x =>
    let y := Sys2Proof.Machine.fp16.round .rz x
    BitVec.ofNat 64 (if y / 2 ^ 10 % 32 = 0 then y / 2 ^ 15 * 2 ^ 15 else y)

/-- The result that emulation gives LANEID. -/
def laneidResult (fi : Nat) : Dword := BitVec.ofNat 64 (fi % 16)

/-- The source position of a SHFL (R385). -/
def shflSource (p : Nat) (b : Dword) : Nat :=
  let k := b.toNat % 16
  match b.toNat / 16 % 4 with
  | 0 => k
  | 1 => (p + k) % 16
  | 2 => p ^^^ k
  | _ => 15 - p

/-- The result of a SHFL among the participants' values by position; the reader's own where there is none. -/
def shflResult (vals : KV Dword) (p : Nat) (own b : Dword) : Dword := kvGetD (shflSource p b) own vals

/-- The result of a VOTE among the participants' values by position (R384). -/
def voteResult (vals : KV Dword) (mode : Nat) : Dword :=
  let set := vals.filter fun v => v.2.getLsbD 0
  match mode with
  | 0 => BitVec.ofNat 64 (ofBool (set.length == vals.length))
  | 1 => BitVec.ofNat 64 (ofBool (!set.isEmpty))
  | 2 => BitVec.ofNat 64 set.length
  | _ => BitVec.ofNat 64 (set.foldl (fun m v => m + 2 ^ (v.1 % 16)) 0)

/-- The result of a meeting for the participant at a position, by the word of SHFL (fn 0x3E) or VOTE, whose raw B is the mode
(R384, R385). -/
def Meet.result (m : Meet) (w p : Nat) : Dword :=
  let vals := m.vals.map fun v => (v.1, v.2.1)
  let own := kvGetD p (0, 0) m.vals
  if w % 64 = 0x3E then shflResult vals p own.1 own.2 else voteResult vals (w / 64 % 128)

/-- What the emulation of a fibre's SHFL or VOTE has to return: a result once its meeting is complete (R385). -/
def State.exchangeResult (s : State) (f : Nat) : Option Dword :=
  match s.fibre? f, s.meetOf f with
  | some x, some m => if m.closed then some (m.result (x.emul.toNat / 2 ^ 32) (fiOf f % 16)) else none
  | _, _ => none

end Sys2Proof.Machine
end

