-- ==== Sys2Proof/Machine/Copy.lean ====
section
/-! DEFINITION. The CACHE group (R110, R118 to R121, R127, R128, R330 to R332, R471), the copies (R333 to R339, R476) and
the tags (R124, R341). -/
namespace Sys2Proof.Machine

/-! ## Ranges of an allocation -/

/-- An aperture address as an offset of the allocation: none outside it (R22). -/
def Ctx.offset (c : Ctx) (g : Gather) (a : Nat) : Option Nat :=
  if c.inAperture a && decide (a - c.sb < g.spSize) then some (a - c.sb) else none

/-- The first byte of a range that lies outside the allocation. -/
def outsideByte (c : Ctx) (g : Gather) (a len : Nat) : Option Nat :=
  if len = 0 then none
  else match c.offset g a with
    | none => some a
    | some o => if g.spSize < o + len then some (c.sb + g.spSize) else none

/-- The window that holds a whole range (R331). -/
def Gather.winRange (g : Gather) (c : Ctx) (a len : Nat) : Option Window :=
  match c.offset g a with
  | none => none
  | some o => match g.winAt o with
    | some w => if o + len ≤ w.off + w.len then some w else none
    | none => none

/-- The first byte of a run of the allocation that no window covers. -/
def Gather.uncovered (g : Gather) : Nat → Nat → Nat → Option Nat
  | 0, o, _ => some o
  | n + 1, o, stop =>
    if stop ≤ o then none
    else match g.winAt o with
      | none => some o
      | some w => g.uncovered n (w.off + w.len) stop

/-- The same for a range of addresses, as an address. -/
def uncoveredByte (c : Ctx) (g : Gather) (a len : Nat) : Option Nat :=
  if len = 0 then none
  else match c.offset g a with
    | none => some a
    | some o => (g.uncovered 9 o (o + len)).map fun x => c.sb + x

/-! ## SPMAP and SPUNMAP: checks and reservations (R110, R330) -/

/-- Two ranges have a byte in common. -/
def overlap (a n b m : Nat) : Bool := decide (a < b + m) && decide (b < a + n)
/-- The same for ranges of virtual addresses, modulo 2^64 (R20). -/
def overlapVa (a n b m : Nat) : Bool :=
  decide ((a + 2 ^ 64 - b) % 2 ^ 64 < m) || decide ((b + 2 ^ 64 - a) % 2 ^ 64 < n)

/-- The limits of R110 for a new window, among those that a gather holds or has reserved. -/
def winLimits (c : Ctx) (g : Gather) (off va len : Nat) : Option Bad :=
  let ws := g.wins.map (·.2) ++ g.reserved.map (·.2)
  if off % 128 != 0 || va % 128 != 0 || len % 128 != 0 || decide (len < 128) then some ⟨0x0B, va⟩
  else if g.spSize < off + len then some ⟨0x09, off⟩
  else if !canonical va || !canonical ((va + len - 1) % 2 ^ 64) || overlapVa va len c.sb (2 ^ 36) then some ⟨0x09, va⟩
  else if ws.any fun w => overlap off len w.off w.len then some ⟨0x15, off⟩
  else if ws.any fun w => overlapVa va len w.va w.len then some ⟨0x15, va⟩
  else if 8 ≤ ws.length then some ⟨0x15, 2 ^ 64 - 1⟩
  else none

/-- A node of the CACHE or COPY group: never within an emulation (R413). -/
def withCopyNode (s : State) (l : List Operand) (ds : List Dest)
    (k : Nat → Nat → Inst → Gather → List Dword → Result) : Result :=
  withNode s l ds fun f e i xs =>
    if s.emulating f then failEmulated s f e xs
    else match s.gather? (gatherOf f) with
      | none => .fault .noAgent
      | some g => k f e i g xs

/-- The reservation of a post-commit operation: its instance's, and after commit its own. -/
def heldKey (f e : Nat) : Nat := reservedKey f e

/-- A reservation taken out of a list. -/
def takeFirst {α : Type} (k : Nat) : List (Nat × α) → Option α × List (Nat × α)
  | [] => (none, [])
  | (i, x) :: r => if i = k then (some x, r) else let (y, r) := takeFirst k r; (y, (i, x) :: r)

/-- The lowest window number that is free. -/
def Gather.freeWin (g : Gather) : Nat := ((upto 8).find? fun k => (kvGet k g.wins).isNone).getD 8

/-- Words of a range made invalid and clean (R111, R120). -/
def Gather.voidWords (g : Gather) (off len : Nat) : Gather :=
  { g with words := kvFilter (fun w _ => 4 * w + 4 ≤ off || off + len ≤ 4 * w) g.words }

/-- A window begins (R111). -/
def Gather.mapWin (g : Gather) (w : Window) : Gather :=
  { (g.voidWords w.off w.len) with wins := kvSet g.freeWin w g.wins }

/-- SPMAP at the head of the queue. -/
def spmapPost (f : Nat) (_ : Fibre) (p : PostOp) (s : State) : Result :=
  let (s, n) := s.takeSerial
  .next ((s.modGather (gatherOf f) fun g =>
    match takeFirst (heldKey f p.eidx) g.reserved with
    | (some w, r) => { g with reserved := r }.mapWin { w with id := n }
    | (none, _) => g).popPost f)

/-- What stands at the head of a fibre's queue is performed. -/
def atHead (s : State) (perform : Nat → Fibre → PostOp → State → Result) (node : Result) : Result :=
  match s.cur with
  | .post f => (match s.fibre? f with
    | none => .fault .noAgent
    | some x => match x.post with
      | [] => .fault .noAgent
      | p :: _ => perform f x p s)
  | _ => node

/-- SPMAP (R110, R331). -/
def execSpmap (a b c : Operand) (s : State) : Result :=
  atHead s spmapPost <| withCopyNode s [a, b, c] [] fun f e i g xs =>
    let cx := ctxOf s g.ctx
    let off := ((xs.getD 0 0) - BitVec.ofNat 64 cx.sb).toNat
    match winLimits cx g off (xs.getD 1 0).toNat (xs.getD 2 0).toNat with
    | some b => failNode s f e b xs
    | none =>
      let w : Window := ⟨0, (xs.getD 1 0).toNat, off, (xs.getD 2 0).toNat, false⟩
      .next ((s.addPost f e i none (.spmap a b c) xs [] none).setGather (gatherOf f)
        { g with reserved := g.reserved ++ [(agentNode f e, w)] })

/-! ## Issue (R124, R337) -/

/-- A core's copy engine. -/
def State.copiesOf (s : State) (core : Nat) : List CopyOp := kvGetD core [] s.ms.copies
def State.setCopies (s : State) (core : Nat) (l : List CopyOp) : State :=
  { s with ms := { s.ms with copies := kvSetD core [] l s.ms.copies } }

/-- There is room on the engine and in the tag's count. -/
def State.canIssue (s : State) (f tag : Nat) : Bool :=
  decide ((s.copiesOf (coreOf f)).length < 128) &&
  (match s.gather? (gatherOf f) with
   | some g => decide ((g.tag tag).count < 255)
   | none => false)

/-- The operation at the head of the queue is issued. -/
def State.issueCopy (s : State) (f tag : Nat) (kind : CopyKind) (p : PostOp) : State :=
  let (s, n) := s.takeSerial
  let op : CopyOp := ⟨n, gatherOf f, f, kind, tag, p.a, p.b, p.c, p.desc, p.slot0, p.prod, none⟩
  let s := s.setCopies (coreOf f) (s.copiesOf (coreOf f) ++ [op])
  (s.modGather (gatherOf f) fun g => g.setTag tag { g.tag tag with count := (g.tag tag).count + 1 }).popPost f

/-- Issue, once there is room. -/
def issuePost (tag : Nat) (kind : CopyKind) (f : Nat) (_ : Fibre) (p : PostOp) (s : State) : Result :=
  if s.canIssue f tag then .next (s.issueCopy f tag kind p) else .next s

/-- A window stops mapping (R121 steps 1 and 3): bytes neither valid nor written read as zero. -/
def State.retireWin (s : State) (g off : Nat) : State :=
  match s.gather? g with
  | none => s
  | some ga =>
    match ga.wins.find? fun w => !w.2.retiring && w.2.off == off with
    | none => s
    | some (k, w) =>
      let lost := (upto (w.len / 4)).flatMap fun j =>
        let x := ga.word (w.off / 4 + j)
        if x.v then [] else ((upto 4).filter fun b => !x.bm.getLsbD b).map fun b => (ga.spBase + w.off + 4 * j + b, (0 : Byte))
      (s.setSp ga.core lost).setGather g { ga with wins := kvSet k { w with retiring := true } ga.wins }

/-- The SPUNMAPs of a committing instance: their windows stop mapping at once (R121 step 1). -/
def State.commitUnmaps (s : State) (f : Nat) (ps : List PostOp) : State :=
  ps.foldl (fun s p => match p.op with
    | .spunmap _ _ => s.retireWin (gatherOf f) (p.a - BitVec.ofNat 64 (ctxOf s (s.ctxOfFibre f)).sb).toNat
    | _ => s) s

/-- SPUNMAP at the head of the queue: what is left of the window goes to the copy engine. -/
def spunmapPost (tag : Nat) (f : Nat) (_ : Fibre) (p : PostOp) (s : State) : Result :=
  if s.canIssue f tag then
    .next ((s.modGather (gatherOf f) fun g => { g with unmaps := (takeFirst (heldKey f p.eidx) g.unmaps).2 }).issueCopy f tag .spunmap p)
  else .next s

/-- SPUNMAP (R121, R331). -/
def execSpunmap (t : BitVec 7) (a : Operand) (s : State) : Result :=
  atHead s (spunmapPost t.toNat) <| withCopyNode s [a] [] fun f e i g xs =>
    let off := ((xs.getD 0 0) - BitVec.ofNat 64 (ctxOf s g.ctx).sb).toNat
    if (g.wins.any fun w => !w.2.retiring && w.2.off == off) && !(g.unmaps.any fun u => u.2 == off) then
      .next ((s.addPost f e i none (.spunmap t a) xs [] none).setGather (gatherOf f)
        { g with unmaps := g.unmaps ++ [(agentNode f e, off)] })
    else failNode s f e ⟨0x09, (xs.getD 0 0).toNat⟩ xs

/-- The checks of SPWB and SPINV (R331). -/
def rangeCheck (s : State) (g : Gather) (a b : Dword) : Option Bad :=
  if a.toNat % 4 != 0 || b.toNat % 4 != 0 then some ⟨0x0B, a.toNat⟩
  else if b = 0 then none
  else if (g.winRange (ctxOf s g.ctx) a.toNat b.toNat).isSome then none
  else some ⟨0x09, a.toNat⟩

/-- SPWB (R118, R331). -/
def execSpwb (t : BitVec 7) (a b : Operand) (s : State) : Result :=
  atHead s (issuePost t.toNat .spwb) <| withCopyNode s [a, b] [] fun f e i g xs =>
    match rangeCheck s g (xs.getD 0 0) (xs.getD 1 0) with
    | some b => failNode s f e b xs
    | none => .next (s.addPost f e i none (.spwb t a b) xs [] none)

/-- SPINV (R120, R331): performed in its instance's commit, by `commitSpinv`. -/
def execSpinv (a b : Operand) (s : State) : Result :=
  atHead s (fun f _ _ s => .next (s.popPost f)) <| withCopyNode s [a, b] [] fun f e i g xs =>
    match rangeCheck s g (xs.getD 0 0) (xs.getD 1 0) with
    | some b => failNode s f e b xs
    | none => .next (s.addPost f e i none (.spinv a b) xs [] none)

/-- The SPINVs of a committing instance take effect after its stores (R331). -/
def State.commitSpinv (s : State) (f : Nat) (ps : List PostOp) : State :=
  ps.foldl (fun s p => match p.op with
    | .spinv _ _ => s.modGather (gatherOf f) fun g =>
        if (rangeCheck s g p.a p.b).isNone then g.voidWords (p.a.toNat - (ctxOf s g.ctx).sb) p.b.toNat else g
    | _ => s) s

/-- SPCPY (R128, R331). -/
def execSpcpy (t : BitVec 7) (a b c : Operand) (s : State) : Result :=
  atHead s (issuePost t.toNat .spcpy) <| withCopyNode s [a, b, c] [] fun f e i g xs =>
    let cx := ctxOf s g.ctx
    let len := (xs.getD 2 0).toNat
    match outsideByte cx g (xs.getD 0 0).toNat len, outsideByte cx g (xs.getD 1 0).toNat len with
    | some x, _ => failNode s f e ⟨0x09, x⟩ xs
    | none, some x => failNode s f e ⟨0x09, x⟩ xs
    | none, none => .next (s.addPost f e i none (.spcpy t a b c) xs [] none)

/-- The rows of an SPFILL: start and length (R331). -/
def fillRows (a b c : Dword) : List (Nat × Nat) :=
  (upto (bits c.toNat 47 32 + 1)).map fun i => ((a.toNat + i * bits c.toNat 31 0) % 2 ^ 64, b.toNat)

/-- SPFILL (R127, R331). -/
def execSpfill (t : BitVec 7) (a b c : Operand) (s : State) : Result :=
  atHead s (issuePost t.toNat .spfill) <| withCopyNode s [a, b, c] [] fun f e i g xs =>
    let cx := ctxOf s g.ctx
    match (fillRows (xs.getD 0 0) (xs.getD 1 0) (xs.getD 2 0)).findSome? fun r => uncoveredByte cx g r.1 r.2 with
    | some x => failNode s f e ⟨0x09, x⟩ xs
    | none => .next (s.addPost f e i none (.spfill t a b c) xs [] none)

/-! ## Prefetches (R332, R471) -/

/-- PREF performed: nothing at all where it would have to fault or to leave the part's memory (R60); a bounded line is read at its
home with q = 7, and installed in no other copy (R174). -/
def State.prefetch (s : State) (f a k : Nat) : State :=
  let ctx := s.ctxOfFibre f
  if !canonical a || (ctxOf s ctx).inAperture a then s
  else match s.xlate (coreOf f) ctx a needR fun l => l.permits [a] && (placeOf s (l.pa a)).isMem with
    | (_, .error _) => s
    | (t, .ok l) =>
      let pa := l.pa a
      if !l.permits [a] || !(placeOf s pa).isMem then s
      else
      let s := t
      if s.ms.poison.contains (lineOf pa) then s
      else match l.bound s a with
      | some lim => ((s.visit (dieOf f) (lineOf pa)).drainTo (lineOf pa) 7 lim).share (homeOf s pa) (lineOf pa)
      | none =>
      if k = 0 && !(partOf s (coreOf f)).flush then s.l1Fill (coreOf f) (lineOf pa) l.rgx
      else s.share (dieOf f) (lineOf pa)

/-- PREF (R332). -/
def execPref (a : Operand) (k : BitVec 7) (s : State) : Result :=
  atHead s (fun f _ p s => .next ((s.prefetch f p.a.toNat k.toNat).popPost f)) <|
    withCopyNode s [a] [] fun f e i _ xs => .next (s.addPost f e i none (.pref a k) xs [] none)

/-- A line of the instruction cache is asked for, once; `build` says that a configuration build waits for it (R471). -/
def joinIFill (ctx line : Nat) (build : Bool) : List IFill → List IFill
  | [] => [⟨ctx, line, build, build⟩]
  | x :: r => if x.ctx = ctx ∧ x.line = line then ⟨ctx, line, x.forBuild || build, x.counted⟩ :: r else x :: joinIFill ctx line build r
def Fabric.askLine (fb : Fabric) (ctx : Nat) (build : Bool) (line : Nat) : Fabric :=
  if (fb.line? ctx line).isSome then fb else { fb with ifills := joinIFill ctx line build fb.ifills }

/-- IPREF (R332, R471). -/
def execIpref (a : Operand) (k : BitVec 7) (s : State) : Result :=
  atHead s (fun f _ p s =>
    let core := coreOf f
    let ctx := s.ctxOfFibre f
    let lines := (upto (k.toNat + 1)).map fun i => (p.a.toNat / 128 + i) % 2 ^ 57
    .next ((s.setFabric core (lines.foldl (fun fb l => fb.askLine ctx false l) (s.fabric core))).popPost f)) <|
    withCopyNode s [a] [] fun f e i _ xs => .next (s.addPost f e i none (.ipref a k) xs [] none)

/-! ## Copies: their nodes (R335) -/

/-- The dwords of bytes. -/
def dwordsOf : List Byte → List Dword
  | a :: b :: c :: d :: e :: f :: g :: h :: r => BitVec.ofNat 64 (leNat [a, b, c, d, e, f, g, h]) :: dwordsOf r
  | _ => []

/-- The node of a copy: the alignment of its descriptor, and the descriptor read as a run-ahead load, after the fibre's own
earlier writes and reads of it (R147). It lies in global memory or in the scratchpad, not in the on-chip map (R36). -/
def copyNode (s : State) (op : Instr) (f e : Nat) (i : Inst) (xs : List Dword) : Result :=
  let a := (xs.getD 0 0).toNat
  if i.awaitsStore e then .next s
  else
    let w := s.whoNode f e
    let (s, r) := s.resolve w a 64 64 needR true fun va l => s.lineFits (l.pa va)
    let (sp, as) := r.cells 64
    if sp = 2 then failNode s f e ⟨0x09, a⟩ xs
    else if s.ownAhead f sp as then .next s
    else
    let s := if sp = 0 then s.settleLoads f s.serial as else s
    match s.loadWith f e i w 0 a 64 r with
    | (s, .wait) => .next s
    | (s, .bad b) => failNode s f e b xs
    | (s, .bytes bs) => .next ((s.clearFresh (agentNode f e)).addPost f e (i.touch a r) none op xs (dwordsOf bs) none)

/-- CPY (R335). -/
def execCpy (t : BitVec 7) (a b c : Operand) (s : State) : Result :=
  atHead s (issuePost t.toNat .cpy) <| withCopyNode s [a, b, c] [] fun f e i _ xs => copyNode s (.cpy t a b c) f e i xs
/-- CPYR (R335). -/
def execCpyr (t : BitVec 7) (a b : Operand) (s : State) : Result :=
  atHead s (issuePost t.toNat .cpyr) <| withCopyNode s [a, b] [] fun f e i _ xs => copyNode s (.cpyr t a b) f e i xs
/-- CPYP (R335). -/
def execCpyp (t : BitVec 7) (a b : Operand) (s : State) : Result :=
  atHead s (issuePost t.toNat .cpyp) <| withCopyNode s [a, b] [] fun f e i _ xs => copyNode s (.cpyp t a b) f e i xs
/-- CPYG (R335). -/
def execCpyg (t : BitVec 7) (a b : Operand) (s : State) : Result :=
  atHead s (issuePost t.toNat .cpyg) <| withCopyNode s [a, b] [] fun f e i _ xs => copyNode s (.cpyg t a b) f e i xs

/-! ## Copies: the shape and its limits (R333, R334) -/

/-- A copy as it is to run: rows of bytes, the first addresses of both ends, the steps between rows, the kinds, the peer
at either end, and the index array. -/
structure Shape where
  rows : Nat
  inner : Nat
  src : Dword
  dst : Dword
  sstep : Dword
  dstep : Dword
  skind : Nat
  dkind : Nat
  speer : Option Nat
  dpeer : Option Nat
  idx : Option Dword
  deriving DecidableEq, Repr

/-- The shape that a descriptor and the operands give. -/
def shapeOf (kind : CopyKind) (desc : List Dword) (a b c : Dword) : Shape :=
  let d (k : Nat) := desc.getD k 0
  let d5 := (d 5).toNat
  match kind with
  | .spcpy => ⟨1, c.toNat, b, a, 0, 0, 1, 1, none, none, none⟩
  | _ =>
    { rows := bits (d 4).toNat 63 32
      inner := bits (d 4).toNat 31 0
      src := d 0 + (if kind = .cpy then b else 0)
      dst := d 1 + (if kind = .cpy then c else if kind = .cpyg then b else 0)
      sstep := d 2
      dstep := d 3
      skind := bits d5 63 60
      dkind := bits d5 59 56
      speer := if kind = .cpyr then some b.toNat else none
      dpeer := if kind = .cpyp then some b.toNat else none
      idx := if kind = .cpyg then some (d 6) else none }

/-- The kinds that an instruction allows (R335). -/
def kindsOk (kind : CopyKind) (sk dk : Nat) : Bool :=
  match kind with
  | .cpyr => sk == 0 && dk ≤ 1
  | .cpyp => sk ≤ 1 && dk == 0
  | _ => (sk ≤ 1 || sk == 3) && dk ≤ 3

/-- The offset of a row within its tile, exactly. -/
def rowOffset (base step : Dword) (r : Nat) : Int := ((base.toNat % 2 ^ 16 : Nat) : Int) + step.toInt * (r : Int)

/-- The limits of a tile endpoint: none, or the reason (R334). -/
def tileLimit (base step : Dword) (rows inner : Nat) (indexed : Bool) : Option Nat :=
  let last := rowOffset base step (rows - 1)
  if bits base.toNat 63 21 != 0 || inner % 8 != 0 then some 0x01
  else if base.toNat % 8 != 0 then some 0x0B
  else if indexed then none
  else if 1 < rows && step.toNat % 8 != 0 then some 0x0B
  else if last < 0 || 65536 < last + inner || 65536 < base.toNat % 2 ^ 16 + inner then some 0x01
  else none

/-- The limits of a slot destination (R334). -/
def slotLimit (h : Shape) : Option Nat :=
  let n := h.inner / 8
  if h.rows != 1 || h.inner % 8 != 0 || n == 0 || 8 < n || bits h.dst.toNat 63 6 != 0 || 48 < h.dst.toNat + n then some 0x01
  else if h.src.toNat % 8 != 0 then some 0x0B
  else none

/-- The reason for which a copy fails the checks made at commit, if it does (R334, R338). -/
def copyOffence (kind : CopyKind) (desc : List Dword) (a b c : Dword) : Option Nat :=
  let d (k : Nat) := desc.getD k 0
  let h := shapeOf kind desc a b c
  let sadd := if kind = .cpy then b else 0
  let dadd := if kind = .cpy then c else if kind = .cpyg then b else 0
  if h.rows = 0 || 2 ^ 24 < h.rows || h.inner = 0 || 2 ^ 24 < h.inner || bits (d 5).toNat 55 0 != 0 || d 7 != 0 ||
      (kind != .cpyg && d 6 != 0) || !kindsOk kind h.skind h.dkind then some 0x01
  else if (2 ≤ h.skind && sadd != 0) || (2 ≤ h.dkind && dadd != 0) then some 0x01
  else
    let x := if h.skind = 3 then tileLimit h.src h.sstep h.rows h.inner h.idx.isSome else none
    let y := if h.dkind = 3 then tileLimit h.dst h.dstep h.rows h.inner false
      else if h.dkind = 2 then slotLimit h else none
    match x, y with
    | some 0x01, _ => some 0x01
    | _, some 0x01 => some 0x01
    | some r, _ => some r
    | none, y => y

/-- The copy that a post-commit operation issues. -/
def copyKindOf : Instr → Option CopyKind
  | .cpy _ _ _ _ => some .cpy
  | .cpyr _ _ _ => some .cpyr
  | .cpyp _ _ _ => some .cpyp
  | .cpyg _ _ _ => some .cpyg
  | _ => none

/-- Producers for so many slots of a fibre, with numbers that follow one another; the slots are emptied for them. -/
def State.emptySlots (s : State) (f slot : Nat) : Nat → State
  | 0 => s
  | n + 1 =>
    let (s, p) := s.takeSerial
    let s := (s.setProds (kvSet p ⟨f, slot, none, none⟩ s.fab.prods)).clearSlot f slot p
    s.emptySlots f (slot + 1) n

/-- At commit, the slots of a slot destination are marked empty where the checks pass (R335). -/
def State.commitCopy (s : State) (f : Nat) (p : PostOp) : State × PostOp :=
  match copyKindOf p.op with
  | none => (s, p)
  | some k =>
    let h := shapeOf k p.desc p.a p.b p.c
    if h.dkind = 2 && (copyOffence k p.desc p.a p.b p.c).isNone then
      let first := s.serial
      (s.emptySlots f (p.slot0 + h.dst.toNat) (h.inner / 8), { p with prod := some first })
    else (s, p)
def State.commitCopies (s : State) (f : Nat) : List PostOp → State × List PostOp
  | [] => (s, [])
  | p :: r =>
    let (s, p) := s.commitCopy f p
    let (s, r) := s.commitCopies f r
    (s, p :: r)

/-! ## Copies: the bytes -/

/-- Where a byte of a copy stands. -/
inductive Spot where
  | mem (pa : Nat) (bounded : Bool)
  | scratch (off : Nat)
  | chip (off : Nat)
  | host (a : Nat)
  | peer (n a : Nat)
  | slot (k : Nat)
  deriving DecidableEq, Repr

/-- What finding a byte comes to: a request still out (R70), the reason and address of a failure (R339), or the place. -/
inductive Found where
  | wait
  | bad (reason va : Nat)
  /-- The fill of a source word of a window fails (R128). -/
  | unfilled (reason va : Nat)
  | at_ (x : Spot)
  deriving DecidableEq, Repr

/-- One number for each place whose bytes can be both source and destination. -/
def Spot.key : Spot → Nat
  | .mem pa _ => pa
  | .scratch o => 2 ^ 60 + o
  | .chip o => 2 * 2 ^ 60 + o
  | .host a => 3 * 2 ^ 60 + a
  | .peer n a => 4 * 2 ^ 60 + n * 2 ^ 58 + a
  | .slot k => 5 * 2 ^ 60 + 2 ^ 70 + k

/-- A copy's agent number, the translation cache it uses. -/
def CopyOp.agent (o : CopyOp) : Nat := 2 * 10 ^ 12 + o.id
def CopyOp.core (o : CopyOp) : Nat := coreOf o.f
def CopyOp.unit (o : CopyOp) : Nat := 1000 + o.core

/-- The on-chip offset of a byte of a tile. -/
def tileOff (cl id b : Nat) : Nat := cl / 20 * 2 ^ 31 + cl % 20 * 2 ^ 26 + 2 ^ 25 + id * 65536 + b

/-- A byte of the part's memory: a source line is held by the die's second-level cache, or read at its home where it is bounded
(R80, R89, R177), and is not poisoned. -/
def State.spotMem (s : State) (o : CopyOp) (pa va : Nat) (wr : Bool) (lim : Option Word) : State × Found :=
  if wr then (s, .at_ (.mem pa lim.isSome))
  else if s.ms.poison.contains (lineOf pa) then (s, .bad 0x0D va)
  else
    let die := dieOf o.f
    let home := homeOf s pa
    (match lim with
      | some x => ((s.visit die (lineOf pa)).drainTo (lineOf pa) 7 x).share home (lineOf pa)
      | none => s.share die (lineOf pa), .at_ (.mem pa lim.isSome))

/-- A byte of the part's own memory named through its own peer number (R40): read and written at its home, exactly (R177). -/
def State.spotOwn (s : State) (o : CopyOp) (pa va : Nat) (wr : Bool) : State × Found :=
  if wr then (s, .at_ (.mem pa true))
  else if s.ms.poison.contains (lineOf pa) then (s, .bad 0x0D va)
  else (((s.visit (dieOf o.f) (lineOf pa)).drainLine (lineOf pa)).share (homeOf s pa) (lineOf pa), .at_ (.mem pa true))

/-- The place to which a leaf leads a byte of a copy fails no such access (R29, R33, R40, R58). -/
def State.copyFits (s : State) (job : Nat) (wr sz8 : Bool) (va : Nat) (l : Leaf) : Bool :=
  match placeOf s (l.pa va) with
  | .onchip off => sz8 && (s.chipByte off).isSome && !(wr && s.chipStoreBad off job)
  | _ => s.peerFits (l.pa va)

/-- A byte at a global address (kind 0): `sz8` says that its row moves whole aligned dwords (R33). One that the on-chip map has written
into a window word is a map write, and the word's page is not checked (R476; log entry 35). -/
def State.spotGlobal (s : State) (o : CopyOp) (ctx job va : Nat) (wr sz8 : Bool) : State × Found :=
  let need := if wr then needW else needR
  if !canonical va || (ctxOf s ctx).inAperture va then (s, .bad 0x09 va)
  else match s.xlate o.unit ctx va need fun l => l.permits [va] && s.copyFits job wr sz8 va l with
    | (s, .error b) => (s, .bad b.cause va)
    | (s, .ok l) =>
      if !l.permits [va] then (s, .bad 0x09 va)
      else
        let pa := l.pa va
        match placeOf s pa with
        | .onchip off =>
          if !sz8 || (s.chipByte off).isNone then (s, .bad 0x09 va)
          else if wr && s.chipStoreBad off job then
            (s, .bad (match chipOf s off with
              | .tile _ _ _ => 0x14
              | _ => 0x09) va)
          else (s, .at_ (.chip off))
        | .hbm _ => s.spotMem o pa va wr (l.bound s va)
        | .tier _ => s.spotMem o pa va wr (l.bound s va)
        | _ => match s.outsidePlace o.agent o.unit ctx va pa l.rgx need with
          | (s, .wait) => (s, .wait)
          | (s, .bad b) => (s, .bad b.cause va)
          | (s, .host a _) => (s, .at_ (.host a))
          | (s, .peer n a _) => if s.ownPeer n then s.spotOwn o a va wr else (s, .at_ (.peer n a))
          | (s, _) => (s, .bad 0x09 va)

/-- A byte of the allocation (kind 1): a source word is filled through the core's own translation cache (R62), a destination word's
backing page checked through the copy engine's (R476). -/
def State.spotScratch (s : State) (o : CopyOp) (va : Nat) (wr : Bool) : State × Found :=
  match s.gather? o.g with
  | none => (s, .bad 0x09 va)
  | some ga =>
    match (ctxOf s ga.ctx).offset ga va with
    | none => (s, .bad 0x09 va)
    | some off =>
      match ga.backing off with
      | none => (s, .at_ (.scratch off))
      | some gva =>
        if wr then
          match s.xlate o.unit ga.ctx gva needW (Leaf.permits [gva]) with
          | (s, .error b) => (s, .bad b.cause gva)
          | (s, .ok l) => (s, if l.permits [gva] then .at_ (.scratch off) else .bad 0x09 gva)
        else if (ga.word (off / 4)).v then (s, .at_ (.scratch off))
        else match s.fillNow o.agent o.core o.g (off / 128) 7 with
          | (s, some none) => (s, .wait)
          | (s, some (some b)) => (s, .unfilled b.cause (gva / 4 * 4))
          | (s, none) => (s, .at_ (.scratch off))

/-- A byte of a tile (kind 3). -/
def State.spotTile (s : State) (o : CopyOp) (job va : Nat) : Found :=
  let cl := clOfCore o.core
  let id := va / 2 ^ 16 % 32
  if s.ownsTile cl id job then .at_ (.chip (tileOff cl id (va % 2 ^ 16))) else .bad 0x14 va

/-- A byte at a peer (CPYR, CPYP): the part's own number is its own memory. -/
def State.spotPeer (s : State) (o : CopyOp) (ctx job n va : Nat) (wr sz8 : Bool) : State × Found :=
  if s.ownPeer n then s.spotGlobal o ctx job va wr sz8
  else if s.reachable n then (s, .at_ (.peer n va)) else (s, .bad 0x09 va)

/-- A byte of an end of a copy. -/
def State.spot (s : State) (o : CopyOp) (ctx job kind : Nat) (peer : Option Nat) (va : Nat) (wr sz8 : Bool) : State × Found :=
  match peer with
  | some n => s.spotPeer o ctx job n va wr sz8
  | none =>
    match kind with
    | 0 => s.spotGlobal o ctx job va wr sz8
    | 1 => s.spotScratch o va wr
    | 2 => (s, .at_ (.slot va))
    | _ => (s, s.spotTile o job va)

/-- The places of consecutive bytes, as far as the first that fails. One that has to wait, for the host or for a circuit, keeps no
later one from what that one needs (R97). -/
def State.spots (s : State) (f : State → Nat → State × Found) : Nat → Nat → State × List Spot × Option Found
  | 0, _ => (s, [], none)
  | n + 1, va =>
    match s.orWait .wait (f s (va % 2 ^ 64)) with
    | (s, .wait) => ((s.spots f n (va + 1)).1, [], some .wait)
    | (s, .at_ x) =>
      let (s, xs, e) := s.spots f n (va + 1)
      (s, x :: xs, e)
    | (s, e) => (s, [], some e)

/-- The byte at a source place; nothing constrains one outside the part. -/
def State.spotByte (s : State) (ga : Gather) : Spot → State × Byte
  | .mem pa _ => (s, s.byte pa)
  | .scratch off => (s, s.scratchByte ga off)
  | .chip off => (s, (s.chipByte off).getD 0)
  | _ => let (s, x) := s.takeFree; (s, BitVec.ofNat 8 x.toNat)
def State.spotBytes (s : State) (ga : Gather) : List Spot → State × List Byte
  | [] => (s, [])
  | x :: r =>
    let (s, b) := s.spotByte ga x
    let (s, bs) := s.spotBytes ga r
    (s, b :: bs)

/-- A byte to be moved: its source, its destination, what the source held before the copy. -/
structure Move where
  src : Spot
  dst : Spot
  old : Byte
  row : Nat
  deriving DecidableEq, Repr

/-- How far the rows of a copy have come: the bytes to move, and the failure that ends it, if one does. -/
structure Rows where
  moves : List Move
  part : List Move
  fail : Option (Nat × Nat)
  wait : Bool
  deriving DecidableEq, Repr

/-- The index of a row of a CPYG (R335), read on the copy-engine path, in the issuing gather's allocation where its address lies in
the aperture (R23), its four bytes from no on-chip address (R33): its value, or the failure, which names the index (R339). -/
def State.copyIndex (s : State) (o : CopyOp) (ctx job : Nat) (ga : Gather) (idx : Dword) (r : Nat) : State × Except Found Nat :=
  let va := (idx.toNat + 4 * r) % 2 ^ 64
  let kind := if (ctxOf s ctx).inAperture va then 1 else 0
  match s.spots (fun s a => s.spot o ctx job kind none a false false) 4 va with
  | (s, xs, none) => let (s, bs) := s.spotBytes ga xs; (s, .ok (leNat bs))
  | (s, _, some (.bad r _)) => (s, .error (.bad r va))
  | (s, _, some (.unfilled r _)) => (s, .error (.bad r va))
  | (s, _, some e) => (s, .error e)

/-- The source address of a row, or why there is none: an index that leads out of its tile, or to an address that is not aligned,
breaks a limit of kind 2 or 3 (R334). The record of such a failure names the descriptor, as that of one found at commit does: R339
names neither for a limit that fails once the index is known (log entry 35). -/
def State.rowSource (s : State) (o : CopyOp) (ctx job : Nat) (ga : Gather) (h : Shape) (r : Nat) : State × Except Found Nat :=
  match h.idx with
  | none => (s, .ok (h.src + BitVec.ofNat 64 r * h.sstep).toNat)
  | some idx =>
    match s.copyIndex o ctx job ga idx r with
    | (s, .error e) => (s, .error e)
    | (s, .ok n) =>
      let a := (h.src + BitVec.ofNat 64 n * h.sstep).toNat
      let x := rowOffset h.src h.sstep n
      if (h.skind = 3 || h.dkind = 2) && a % 8 != 0 then (s, .error (.bad 0x0B o.a.toNat))
      else if h.skind = 3 && (decide (x < 0) || decide (65536 < x + h.inner)) then (s, .error (.bad 0x01 o.a.toNat))
      else (s, .ok a)

/-- A place lies in one of some lines of memory. -/
def Spot.inLines (lines : List Nat) : Spot → Bool
  | .mem pa _ => lines.contains (lineOf pa)
  | _ => false

/-- A poisoned line that the rows of a copy write only in part ends it (R103): at the first byte of the first row that meets
one. -/
def State.cutPoison (s : State) (h : Shape) (rows : Rows) : Rows :=
  let ms := rows.moves ++ rows.part
  let cells := ms.filterMap fun m => match m.dst with
    | .mem pa _ => some (pa, m.old)
    | _ => none
  let bad := (linesOf cells).filter fun l => s.ms.poison.contains l && !wholeLine cells l
  match ms.find? fun m => m.dst.inLines bad with
  | none => rows
  | some m =>
    let before := (ms.filter fun x => x.row == m.row).takeWhile fun x => !x.dst.inLines bad
    { rows with
      moves := ms.filter fun x => decide (x.row < m.row), part := before
      fail := some (0x0D, ((h.dst + BitVec.ofNat 64 m.row * h.dstep).toNat + before.length) % 2 ^ 64) }

/-- The aperture address of a place outside the part. -/
def Spot.outside? : Spot → Option Nat
  | .host a => some (2 ^ 51 + a)
  | .peer n a => some (2 ^ 50 + n * 2 ^ 40 + a)
  | _ => none

/-- A row's reads outside the part travel to the link die and back (R95). -/
def State.visitSpots (s : State) (xs : List Spot) : State := match xs.findSome? (·.outside?) with
  | some a => s.visitOut a
  | none => s

/-- A host transaction of a row is refused (R39), or a peer refuses its side: the index of the byte and the reason. That it is the
row's first byte outside the part is the model's choice: the rules name no byte (log entry 27). -/
def State.refusedAt (s : State) (xs : List Spot) : State × Option (Nat × Nat) :=
  match xs.findIdx? fun x => match x with
    | .host _ => true
    | .peer _ _ => true
    | _ => false with
  | none => (s, none)
  | some k =>
    let (s, no) := s.takeBit
    let (s, which) := s.takeBit
    let r := match xs[k]? with
      | some (.peer _ _) => if which then 0x08 else 0x09
      | _ => 0x0D
    (s, if no then some (k, r) else none)

/-- The earlier of two failures of a row, by byte; the source's at the same byte. -/
def earlier (a b : Option (Nat × Nat × Nat)) : Option (Nat × Nat × Nat) :=
  match a, b with
  | some x, some y => if y.1 < x.1 then some y else some x
  | some x, none => some x
  | none, y => y

/-- One row: its bytes to move up to the first failure, and that failure as byte, reason, address. -/
def State.copyRow (s : State) (o : CopyOp) (ctx job : Nat) (ga : Gather) (h : Shape) (r : Nat) :
    State × Except Found (List Move × Option (Nat × Nat × Nat)) :=
  let sz8 (a : Nat) := h.inner % 8 == 0 && a % 8 == 0
  match s.rowSource o ctx job ga h r with
  | (s, .error e) => (s, .error e)
  | (s, .ok sa) =>
    let da := (h.dst + BitVec.ofNat 64 r * h.dstep).toNat
    let (s, ss, se) := s.spots (fun s a => s.spot o ctx job h.skind h.speer a false (sz8 sa)) h.inner sa
    let (s, ds, de) := s.spots (fun s a => s.spot o ctx job h.dkind h.dpeer a true (sz8 da)) h.inner da
    if se = some .wait ∨ de = some .wait ∨ (s.visitSpots ss).ms.hold = true then (s, .error .wait)
    else
      let bad (xs : List Spot) (e : Option Found) : Option (Nat × Nat × Nat) := match e with
        | some (.bad r va) => some (xs.length, r, va)
        | some (.unfilled r va) => some (xs.length, r, va)
        | _ => none
      let (s, sr) := (s.visitSpots ss).refusedAt ss
      let (s, dr) := s.refusedAt ds
      let at_ (base : Nat) (x : Option (Nat × Nat)) : Option (Nat × Nat × Nat) := x.map fun p => (p.1, p.2, (base + p.1) % 2 ^ 64)
      let e := earlier (earlier (bad ss se) (at_ sa sr)) (earlier (bad ds de) (at_ da dr))
      let (s, bs) := s.spotBytes ga ss
      let ms := (ss.zip (ds.zip bs)).map fun p => (⟨p.1, p.2.1, p.2.2, r⟩ : Move)
      (s, .ok (match e with
        | none => ms
        | some (k, _, _) => ms.take k, e))

/-- The rows, in order, as far as the first failure (R338). -/
def State.copyRows (s : State) (o : CopyOp) (ctx job : Nat) (ga : Gather) (h : Shape) : Nat → Nat → State × Rows
  | 0, _ => (s, ⟨[], [], none, false⟩)
  | n + 1, r =>
    match s.copyRow o ctx job ga h r with
    | (s, .error .wait) => ((s.copyRows o ctx job ga h n (r + 1)).1, ⟨[], [], none, true⟩)
    | (s, .error (.bad x va)) => (s, ⟨[], [], some (x, va), false⟩)
    | (s, .error _) => (s, ⟨[], [], none, false⟩)
    | (s, .ok (ms, some (_, x, va))) => (s, ⟨[], ms, some (x, va), false⟩)
    | (s, .ok (ms, none)) =>
      let (s, rest) := s.copyRows o ctx job ga h n (r + 1)
      (s, { rest with moves := ms ++ rest.moves })

/-- Some of the bytes, each of them or not (R338), those of an aligned dword of the destination together (R149, R336); `last` is the
dword of the byte before, and what became of it. -/
def State.someOf (s : State) (last : Option (Nat × Bool)) : List Move → State × List Move
  | [] => (s, [])
  | x :: r =>
    let k := x.dst.key / 8
    let (s, b) := match last with
      | some (j, b) => if j = k then (s, b) else s.takeBit
      | none => s.takeBit
    let (s, r) := s.someOf (some (k, b)) r
    (s, if b then x :: r else r)

/-- The value of each moved byte where the ranges overlap (R336): the source as it stood, or as the copy has written it. -/
def State.overlapped (s : State) : KV Byte → List Move → State × List (Spot × Byte)
  | _, [] => (s, [])
  | wr, m :: r =>
    let (s, v) := match kvGet m.src.key wr with
      | some x => if x = m.old then (s, m.old) else (let (s, b) := s.takeBit; (s, if b then x else m.old))
      | none => (s, m.old)
    let (s, r) := s.overlapped (kvSet m.dst.key v wr) r
    (s, (m.dst, v) :: r)

/-- Bytes written where a copy moves them to. The core's own dirty bytes of the lines go first (R80), so that no later writeback
carries an older value over the copy's; clean bytes that it holds may be stale (R341). -/
def State.spotWrite (s : State) (o : CopyOp) (set : Nat) (ws : List (Spot × Byte)) : State :=
  let die := dieOf o.f
  let s := s.flushLines o.core (ws.filterMap fun w => match w.1 with
    | .mem pa _ => some pa
    | _ => none)
  let s := s.postWrite set die (some o.core) (ws.filterMap fun w => match w.1 with
    | .mem pa false => some (pa, w.2)
    | _ => none) none (some o.id)
  let s := s.postWrite set die (some o.core) (ws.filterMap fun w => match w.1 with
    | .mem pa true => some (pa, w.2)
    | _ => none) none (some o.id) true
  let s := s.scratchWrite o.g (ws.filterMap fun w => match w.1 with
    | .scratch off => some (off, w.2)
    | _ => none)
  let s := s.outsideWrite (ws.filterMap fun w => w.1.outside?.map fun a => (a, w.2)) (some o.id)
  s.chipWrite (ws.filterMap fun w => match w.1 with
    | .chip off => some (off, w.2)
    | _ => none)

/-- What a write to some lines of memory needs beforehand is done, line by line as the circuits let it (R97): the core's own dirty bytes
are written back (R80), and the lines homed on the die drained, where their pages are bounded (R178), and owned there (R91). -/
def State.clearWay (s : State) (core : Nat) (own : Option WinLine) (ls : List (Nat × Bool)) : State :=
  let die := dieOfCore core
  ls.foldl (fun s l =>
    (s.writebackSome core (· == l.1)).attempt fun s =>
      if homeOf s (l.1 * 128) = die && !s.ms.poison.contains l.1 then (if l.2 then s.drainLine l.1 else s).own die l.1 own else s) s
/-- The lines of memory that places lie in, each with whether it is bounded. -/
def spotLines (xs : List Spot) : List (Nat × Bool) := (xs.filterMap fun x => match x with
  | .mem pa b => some (lineOf pa, b)
  | _ => none).eraseDups

/-- The values of a slot destination go to its producers (R335), to arrive (R215). -/
def State.giveSlots (s : State) (p : Nat) : List Dword → State
  | [] => s
  | x :: r => (s.modProd p fun pr => { pr with value := some x }).giveSlots (p + 1) r

/-- A place lies in a gather's own scratchpad: a byte of its allocation, or the on-chip address of one (R31, R128). -/
def State.inPad (s : State) (ga : Gather) : Spot → Bool
  | .scratch _ => true
  | .chip off => (match chipOf s off with
    | .scratch core x => core == ga.core && decide (ga.spBase ≤ x) && decide (x < ga.spBase + ga.spSize)
    | _ => false)
  | _ => false

/-- The whole destination of a copy lies in its gather's scratchpad: it is of kind 1, or its pages lead there through the on-chip
map. -/
def State.intoPad (s : State) (ga : Gather) (h : Shape) : Bool :=
  h.dkind == 1 ||
  (h.dkind == 0 && h.dpeer.all s.ownPeer && (upto h.rows).all fun r => (upto h.inner).all fun k =>
    let va := ((h.dst + BitVec.ofNat 64 r * h.dstep).toNat + k) % 2 ^ 64
    match s.walk ga.ctx va with
    | .leaf l _ => (match placeOf s (l.pa va) with
      | .onchip off => s.inPad ga (.chip off)
      | _ => false)
    | .absent => false)

/-- The source words of a copy within one scratchpad are filled, all of them before any byte is written (R128): the first failure
of a fill, or a wait for one; what else fails a source byte ends the pass, and its row. -/
def State.fillSources (s : State) (o : CopyOp) (ctx job : Nat) (ga : Gather) (h : Shape) : Nat → Nat → State × Option Found
  | 0, _ => (s, none)
  | n + 1, r => match s.rowSource o ctx job ga h r with
    | (s, .error e) => (s, some e)
    | (s, .ok a) => match s.spots (fun s a => s.spotScratch o a false) h.inner a with
      | (s, _, none) => s.fillSources o ctx job ga h n (r + 1)
      | (s, _, e) => (s, e)

/-- A copy is carried out: none while a translation of the host is awaited or a circuit holds up one of its lines, each of which has
then come as far as it could (R70, R97); otherwise its failure, if it has one. -/
def State.runCopy (s : State) (o : CopyOp) (h : Shape) : State × Option (Option (Nat × Nat)) :=
  match s.gather? o.g with
  | none => (s, some none)
  | some ga =>
    let job := s.jobOf o.f
    match if h.skind = 1 && s.intoPad ga h then s.fillSources o ga.ctx job ga h h.rows 0 else (s, none) with
    | (s, some .wait) => (s, none)
    | (s, some (.unfilled r va)) => (s, some (some (r, va)))
    | (s, _) =>
      let (s, rows) := s.copyRows o ga.ctx job ga h h.rows 0
      if rows.wait then (s, none)
      else
        let rows := s.cutPoison h rows
        let (s, some_) := s.someOf none rows.part
        let ms := rows.moves ++ some_
        let inside := ms.all fun m => s.inPad ga m.src && s.inPad ga m.dst
        let (s, back) := if rows.fail.isNone && !inside then s.takeBit else (s, false)
        let (s, ws) := if inside then (s, ms.map fun m => (m.dst, m.old)) else s.overlapped [] (if back then ms.reverse else ms)
        let s := s.clearWay o.core none (spotLines (ws.map (·.1)))
        let t := s.spotWrite o (s.setOf job) ws
        if t.ms.hold then (s, none) else
        let s := t
        let s := if h.dkind = 2 && rows.fail.isNone then
            (match o.prod with
             | some p => s.giveSlots p (dwordsOf (ms.map (·.old)))
             | none => s)
          else s
        (s, some rows.fail)

/-! ## Writebacks (R118 to R122) -/

/-- Who writes window words back: its agent number, the gather, the circuit set, the copy-engine operation if it is one. -/
structure Backer where
  agent : Nat
  g : Nat
  set : Nat
  op : Option Nat
  deriving DecidableEq, Repr

/-- The global address of a word of a window (R110). -/
def Window.wordVa (w : Window) (k : Nat) : Nat := (w.va + (4 * k - w.off)) % 2 ^ 64
/-- The written bytes of a word (R111). -/
def Gather.dirtyBytes (ga : Gather) (w : Nat) : List Nat := (upto 4).filter fun b => (ga.word w).bm.getLsbD b
/-- A page's region lets the written bytes of a word be written (R54). -/
def Gather.wordOk (ga : Gather) (win : Window) (l : Leaf) (w : Nat) : Bool :=
  l.permits ((ga.dirtyBytes w).map fun b => win.wordVa w + b)
/-- The written bytes of words of one line, at the addresses that follow a word's base. -/
def State.dirtyCells (s : State) (ga : Gather) (base w0 : Nat) (ws : List Nat) : List (Nat × Byte) :=
  ws.flatMap fun w => (ga.dirtyBytes w).map fun b => (base + 4 * (w - w0) + b, s.scratchByte ga (4 * w + b))
/-- Words that have been written back are clean (R118 step 4). -/
def State.cleanWords (s : State) (g : Nat) (ws : List Nat) : State :=
  s.modGather g fun ga => ws.foldl (fun ga w => ga.setWord w { ga.word w with bm := 0 }) ga

/-- The aperture address of a place outside the part. -/
def Resolved.outside? : Resolved → Option Nat
  | .host a _ => some (2 ^ 51 + a)
  | .peer p a _ => some (2 ^ 50 + p * 2 ^ 40 + a)
  | _ => none

/-- Words of one line written to a line of the part's memory (R118 step 3), at its home where it is bounded (R178), after the
core's own dirty bytes of the line (R80); its first-level cache keeps none of the bytes, so that no later load returns an older
write than a read of the window (R147). A poisoned line takes them only as a whole: otherwise the words lose what was written, and
the writeback fails (R103). -/
def State.backMem (s : State) (b : Backer) (ga : Gather) (win : Window) (bounded : Bool) (pa w0 : Nat) (ws : List Nat) :
    State × Option (Nat × Nat) :=
  let cs := s.dirtyCells ga pa w0 ws
  let line := lineOf pa
  let own : Option WinLine := some ⟨b.g, w0 / 32, win.id⟩
  let die := dieOfCore ga.core
  if s.ms.poison.contains line && !wholeLine cs line then (s.cleanWords b.g ws, some (0x0D, win.wordVa w0))
  else
    let s := s.flushLines ga.core [pa]
    ((((s.postWrite b.set die (some ga.core) cs own b.op bounded).l1Drop ga.core (cs.map (·.1)))).cleanWords b.g ws, none)

/-- The dirty words of a line of a window: translated for W through the core's translation cache (R62), then written where the page
puts them. None while the host's translation is awaited; otherwise the first failure, which leaves its words as they were (R118). -/
def State.lineBack (s : State) (b : Backer) (ga : Gather) (win : Window) (words : List Nat) :
    State × Option (Option (Nat × Nat)) :=
  let unit := ga.core
  match words.filter fun w => (ga.word w).bm != 0 with
  | [] => (s, some none)
  | w0 :: rest =>
    let ws := w0 :: rest
    let va := win.wordVa w0
    match s.xlate unit ga.ctx va needW fun l => ws.all (ga.wordOk win l) && s.lineFits (l.pa va) with
    | (s, .error e) => (s, some (some (e.cause, va)))
    | (s, .ok l) =>
      let refused := (ws.find? fun w => !ga.wordOk win l w).map fun w => (0x09, win.wordVa w)
      match ws.filter (ga.wordOk win l) with
      | [] => (s, some refused)
      | w1 :: good =>
        let pa := l.pa (win.wordVa w1)
        if (placeOf s pa).isMem then
          let (s, e) := s.backMem b ga win (l.bound s va).isSome pa w1 (w1 :: good)
          (s, some (firstOf e refused))
        else match s.outsidePlace b.agent unit ga.ctx (win.wordVa w1) pa l.rgx needW with
          | (s, .wait) => (s, none)
          | (s, .bad e) => (s, some (some (e.cause, e.tval)))
          | (s, r) =>
            let cs := s.dirtyCells ga (r.outside?.getD 0) w1 (w1 :: good)
            ((s.outsideWrite cs b.op).cleanWords b.g (w1 :: good), some refused)
where
  /-- The first of two failures. -/
  firstOf (a b : Option (Nat × Nat)) : Option (Nat × Nat) := match a with
    | some x => some x
    | none => b

/-- The words of each line of a run of bytes of the allocation. -/
def lineWords (off len : Nat) : List (List Nat) :=
  if len = 0 then []
  else (addrs (off / 128) ((off + len - 1) / 128 - off / 128 + 1)).map fun l =>
    (addrs (32 * l) 32).filter fun w => decide (off ≤ 4 * w) && decide (4 * w < off + len)

/-- Lines written back, each on its own; the first failure. -/
def State.linesBack (s : State) (b : Backer) (win : Window) : List (List Nat) → State × Option (Option (Nat × Nat))
  | [] => (s, some none)
  | ws :: r =>
    match s.gather? b.g with
    | none => (s, some none)
    | some ga =>
      let (s, x) := s.lineBack b ga win ws
      let (s, y) := s.linesBack b win r
      (s, match x, y with
        | none, _ => none
        | _, none => none
        | some (some e), _ => some (some e)
        | some none, y => y)

/-- What a line of a window needs before its dirty words are written back is done, as far as the circuits let it (R97). -/
def State.wayBack (s : State) (b : Backer) (win : Window) (words : List Nat) : State :=
  s.attempt fun s => match s.gather? b.g with
    | none => s
    | some ga => match words.filter fun w => (ga.word w).bm != 0 with
      | [] => s
      | w0 :: _ =>
        let va := win.wordVa w0
        match s.xlate ga.core ga.ctx va needW fun l => s.lineFits (l.pa va) with
        | (s, .error _) => s
        | (s, .ok l) => if (placeOf s (l.pa va)).isMem then
            s.clearWay ga.core (some ⟨b.g, w0 / 32, win.id⟩) [(lineOf (l.pa va), (l.bound s va).isSome)] else s

/-- The dirty words of a run of bytes of a window written back (R118): none, and nothing written, while a translation of the
host is awaited (R70) or a circuit holds a line up, each line having then come as far as it could (R97); otherwise the first
failure. -/
def State.rangeBack (s : State) (b : Backer) (win : Window) (off len : Nat) : State × Option (Option (Nat × Nat)) :=
  let ls := lineWords off len
  let s := ls.foldl (fun s l => s.wayBack b win l) s
  let (t, r) := s.linesBack b win ls
  if t.ms.hold || r.isNone then ({ s with ms := { s.ms with ats := t.ms.ats } }, none) else (t.clearFresh b.agent, r)

/-- A window's dirty words are written back, and its words hold nothing more (R121 steps 2 and 4); the first failure. -/
def State.endWin (s : State) (b : Backer) (k : Nat) : State × Option (Option (Nat × Nat)) :=
  match s.gather? b.g with
  | none => (s, some none)
  | some ga => match kvGet k ga.wins with
    | none => (s, some none)
    | some w =>
      match s.rangeBack b w w.off w.len with
      | (s, none) => (s, none)
      | (s, some e) => (s.modGather b.g fun ga => ga.voidWords w.off w.len, some e)

/-- A retired window's entry is freed. -/
def Gather.dropWin (ga : Gather) (off : Nat) : Gather :=
  { ga with wins := kvFilter (fun _ w => !(w.retiring && w.off == off)) ga.wins }

/-! ## SPFILL (R127) -/

/-- Lines of the allocation filled; the first failure names its first invalid word. None while a line waits for the host. -/
def State.fillLines (s : State) (agent unit g : Nat) : List Nat → State × Option (Option (Nat × Nat))
  | [] => (s, some none)
  | l :: r =>
    match s.gather? g with
    | none => (s, some none)
    | some ga =>
      match (addrs (32 * l) 32).find? fun w => (ga.winAt (4 * w)).isSome && !(ga.word w).v with
      | none => s.fillLines agent unit g r
      | some w =>
        let (s, x) := s.orWait (some none) (s.fillNow agent unit g l 7)
        let (s, y) := s.fillLines agent unit g r
        (s, match x, y with
          | some none, _ => none
          | _, none => none
          | some (some b), _ => some (some (b.cause, (ga.backing (4 * w)).getD 0))
          | none, y => y)

/-- The allocation lines of an SPFILL, none where its range is no longer mapped (R331). -/
def fillLinesOf (c : Ctx) (ga : Gather) (o : CopyOp) : List Nat :=
  let rows := fillRows o.a o.b o.c
  if rows.any fun r => (uncoveredByte c ga r.1 r.2).isSome then []
  else (rows.flatMap fun r =>
    if r.2 = 0 then [] else
      let a := r.1 - c.sb
      addrs (a / 128) ((a + r.2 - 1) / 128 - a / 128 + 1)).eraseDups

/-! ## Completion (R126, R338, R339) -/

/-- The window that holds the range of an SPWB: mapped, or retired by an SPUNMAP that is not before it on the engine (R331). -/
def State.backWin (s : State) (o : CopyOp) (ga : Gather) (off len : Nat) : Option Window :=
  let past (w : Window) : Bool := w.retiring && (s.copiesOf o.core).any fun u =>
    u.kind == .spunmap && u.g == o.g && decide (u.id < o.id) && (u.a - BitVec.ofNat 64 (ctxOf s ga.ctx).sb).toNat == w.off
  (ga.wins.map (·.2)).find? fun w => decide (w.off ≤ off) && decide (off + len ≤ w.off + w.len) && decide (off < w.off + w.len) && !past w

/-- What a copy-engine operation does; none while it must wait. -/
def State.perform (s : State) (o : CopyOp) : State × Option (Option (Nat × Nat)) :=
  match s.gather? o.g with
  | none => (s, some none)
  | some ga =>
    let c := ctxOf s ga.ctx
    let set := s.setOf (s.jobOf o.f)
    match o.kind with
    | .spwb =>
      (match s.backWin o ga (o.a.toNat - c.sb) o.b.toNat with
       | none => (s, some none)
       | some w =>
         s.rangeBack ⟨o.agent, o.g, set, some o.id⟩ w (o.a.toNat - c.sb) o.b.toNat)
    | .spunmap =>
      (match ga.wins.find? fun w => w.2.retiring && w.2.off == (o.a - BitVec.ofNat 64 c.sb).toNat with
       | none => (s, some none)
       | some (k, _) => s.endWin ⟨o.agent, o.g, set, some o.id⟩ k)
    | .spfill => s.fillLines o.agent o.core o.g (fillLinesOf c ga o)
    | .spcpy => s.runCopy o (shapeOf .spcpy [] o.a o.b o.c)
    | k =>
      match copyOffence k o.desc o.a o.b o.c with
      | some r => (s, some (some (r, o.a.toNat)))
      | none => s.runCopy o (shapeOf k o.desc o.a o.b o.c)

/-- The error record of a failure (R339). -/
def errRecord (e : Nat × Nat) : Dword := BitVec.ofNat 64 (e.1 * 2 ^ 58 + e.2 % 2 ^ 58)

/-- A tag's operation has completed (R124, R339). -/
def Tag.complete (t : Tag) (e : Option (Nat × Nat)) : Tag :=
  match e with
  | none => { t with count := t.count - 1 }
  | some x => { count := t.count - 1, err := true, record := if t.err then t.record else errRecord x }

/-- The first error of a launch's copies and writebacks is kept for its completion (R403). -/
def State.noteError (s : State) (lid : Nat) (e : Option (Nat × Nat)) : State :=
  match e with
  | none => s
  | some x => s.modLaunch lid fun l => { l with copyErr := some (l.copyErr.getD (errRecord x)) }

/-- No copy of a line names a window of a gather any more, by the lines of the allocation that it stood for (R116). -/
def State.leaveWin (s : State) (g off len : Nat) : State :=
  { s with ms := { s.ms with l2 := kvMap (fun _ c => { c with
      win := c.win.filter fun w => !(w.1 == g && decide (off / 128 ≤ w.2) && decide (w.2 < (off + len) / 128)) }) s.ms.l2 } }
/-- The window that an SPUNMAP has retired is gone: its entry is freed, and no copy names it (R110, R116, R121 step 4). -/
def State.freeWindow (s : State) (g off : Nat) : State :=
  match s.gather? g with
  | none => s
  | some ga =>
    let s := (ga.wins.filter fun w => w.2.retiring && w.2.off == off).foldl (fun s w => s.leaveWin g w.2.off w.2.len) s
    s.modGather g fun ga => ga.dropWin off

/-- The producers of a copy into slots. -/
def CopyOp.prods (o : CopyOp) : List Nat := match o.prod with
  | some k => addrs k (bits (o.desc.getD 4 0).toNat 31 0 / 8)
  | none => []

/-- An operation leaves its engine, its tag's count falls, and nothing waits for its host translations any more; with an SPUNMAP's
tag its window is gone. The slots of a failed copy stay empty until they are written again: nothing will arrive for them (R338). -/
def State.endCopy (s : State) (core i : Nat) (o : CopyOp) (e : Option (Nat × Nat)) : State :=
  let s := (s.clearFresh o.agent).dropProds (if e.isSome then o.prods else [])
  let s := s.setCopies core (dropAt i (s.copiesOf core))
  let s := match s.gather? o.g with
    | some ga => s.noteError ga.lid e
    | none => s
  let s := match o.kind, s.gather? o.g with
    | .spunmap, some ga => s.freeWindow o.g (o.a - BitVec.ofNat 64 (ctxOf s ga.ctx).sb).toNat
    | _, _ => s
  s.modGather o.g fun g => g.setTag o.tag ((g.tag o.tag).complete e)

/-- A posted write of a copy-engine operation has still to be accepted at its home (R126). -/
def Posted.ofCopy (id : Nat) (p : Posted) : Bool :=
  match p.what with
  | .write _ _ (some n) => n == id
  | .bounded _ _ (some n) => n == id
  | _ => false
def State.copyPosted (s : State) (id : Nat) : Bool := s.ms.posted.any (Posted.ofCopy id)

/-- A copy-engine operation that has moved its bytes ends once every one is performed at its destination (R126). -/
def State.settleCopy (s : State) (core i : Nat) (o : CopyOp) (e : Option (Nat × Nat)) : State :=
  if s.copyPosted o.id then s.setCopies core (modAt (fun o => { o with ended := some e }) i (s.copiesOf core))
  else s.endCopy core i o e

/-- COPY_OPERATION_COMPLETE (R126): operation i of a core's copy engine is carried out, and its tag's count falls once the
homes have accepted all that it writes. -/
def execCopyOperationComplete (core i : Nat) (s : State) : Result :=
  match (s.copiesOf core)[i]? with
  | none => .next s
  | some o =>
    match o.ended with
    | some e => .next (s.settleCopy core i o e)
    | none =>
      match ({ s with cur := .gather o.g } : State).perform o with
      | (s, none) => .next s
      | (s, some e) => .next (s.settleCopy core i o e)

/-! ## Tags (R341) -/

/-- A tag instruction performed when its node fires, on the done bitmap. -/
def tagNode (s : State) (l : List Operand) (d : Dest) (fn : Dword → List Dword → Dword) : Result :=
  withCopyNode s l [d] fun f e i g xs => .next (s.setInst f (i.fire e d (fn (s.doneMap (gatherOf f) g) xs)))

/-- FFR's result. -/
def ffrOf (m : Dword) : Dword := BitVec.ofNat 64 (((upto 64).find? fun k => m.getLsbD k).getD 64)

/-- FFR. -/
def execFfr (d : Dest) (a : Operand) (s : State) : Result :=
  tagNode s [a] d fun m xs => ffrOf (m &&& xs.getD 0 0)
/-- TAGS. -/
def execTags (d : Dest) (s : State) : Result := tagNode s [] d fun m _ => m

/-- A tag instruction performed after commit: it waits for a value; WANY and WALL, which are ordered (R132), also until every
earlier addition of the fibre has reached its holder or gone on to its home. -/
def tagPost (s : State) (l : List Operand) (d : Dest) (op : Instr) (fn : Dword → Gather → Dword → Option Dword)
    (upd : Gather → Dword → Gather) : Result :=
  atHead s (fun f _ p s => match s.gather? (gatherOf f) with
      | none => .fault .noAgent
      | some g =>
        if holdsAdmission op && s.offering (agentNode f 127) then .next s
        else match fn (s.waitMap f g) g p.a with
        | none => .next s
        | some x => .next ((s.setGather (gatherOf f) (upd g p.a)).donePost f p x)) <|
    withCopyNode s l [d] fun f e i _ xs => .next (s.addPost f e i (some d) op xs [] none)

/-- WANY. -/
def execWany (d : Dest) (a : Operand) (s : State) : Result :=
  tagPost s [a] d (.wany d a) (fun m _ a => if a = 0 then some 0 else if m &&& a = 0 then none else some (m &&& a))
    fun g _ => g
/-- WALL. -/
def execWall (d : Dest) (a : Operand) (s : State) : Result :=
  tagPost s [a] d (.wall d a) (fun m g a => if m &&& a = a then some (g.errMap &&& a) else none) fun g _ => g

/-- The record that TAGCLR returns. -/
def Gather.firstRecord (g : Gather) (a : Dword) : Dword :=
  match (upto 64).find? fun k => a.getLsbD k && (g.tag k).err with
  | some k => (g.tag k).record
  | none => 0
/-- Flags and records cleared. -/
def Gather.clearTags (g : Gather) (a : Dword) : Gather :=
  (upto 64).foldl (fun g k => if a.getLsbD k then g.setTag k { g.tag k with err := false, record := 0 } else g) g

/-- TAGCLR. -/
def execTagclr (d : Dest) (a : Operand) (s : State) : Result :=
  tagPost s [a] d (.tagclr d a) (fun _ g a => some (g.firstRecord a)) Gather.clearTags

/-- The reservations of a committing instance become those of its operations (R330). -/
def State.commitReserved (s : State) (f : Nat) : State :=
  let up {α : Type} (l : List (Nat × α)) : List (Nat × α) := l.map fun r => if r.1 / 128 == f then (r.1 + 2 ^ 40, r.2) else r
  s.modGather (gatherOf f) fun g => { g with reserved := up g.reserved, unmaps := up g.unmaps }

end Sys2Proof.Machine
end

