-- ==== Sys2Proof/Machine/Virt.lean ====
section
/-! DEFINITION. Accesses to a context's memory below every first-level cache by agents that do not wait: dispatch, the
matrix engines' images, firmware (R57, R92, R103, R177, R368, R402). -/
namespace Sys2Proof.Machine

/-- The agent number of one who does not wait, by the unit whose translation cache it uses: where it needs a translation of
the host, its move is held back until LD0 has the answer (R70; log entry 61). -/
def agentVirt (unit : Nat) : Nat := 4 * 10 ^ 12 + unit

/-- The pieces of a range by 4 KiB page, the smallest that is translated (R70): first address and length. -/
def pieces (va n : Nat) : List (Nat × Nat) :=
  (upto ((va % 2 ^ 12 + n + (2 ^ 12 - 1)) / 2 ^ 12)).map fun i =>
    if i = 0 then (va, min n (2 ^ 12 - va % 2 ^ 12))
    else ((va / 2 ^ 12 + i) * 2 ^ 12 % 2 ^ 64, min (2 ^ 12) (va % 2 ^ 12 + n - i * 2 ^ 12))

/-- A piece of a range that its page allows: first address and length, its place, and whether its page is bounded. -/
structure Piece where
  va : Nat
  n : Nat
  place : Resolved
  bounded : Bool
  deriving DecidableEq, Repr

/-- The address of a piece's first byte: physical, or of an aperture. -/
def Piece.base (p : Piece) : Nat := match p.place with
  | .mem pas _ => pas.headD 0
  | r => r.outside?.getD 0
/-- A piece of the part's own memory. -/
def Piece.inside (p : Piece) : Bool := match p.place with
  | .mem _ _ => true
  | _ => false
def Piece.addrs (p : Piece) : List Nat := Sys2Proof.Machine.addrs p.base p.n

/-- The lowest address of a run that its page's region forbids (R54). -/
def Leaf.forbids (l : Leaf) (va n : Nat) : Option Nat :=
  if !l.valid then none
  else if va < l.base || l.endv ≤ va then some va
  else if l.endv < va + n then some l.endv
  else none

/-- The first byte of a run of the part's memory that poison fails (R103): a read of any poisoned line, a write of one that it
does not cover whole. -/
def State.poisonIn (s : State) (pa n : Nat) (wr : Bool) : Option Nat :=
  (upto n).find? fun k =>
    let line := lineOf (pa + k)
    s.ms.poison.contains line && !(wr && decide (pa ≤ line * 128) && decide (line * 128 + 128 ≤ pa + n))

/-- A piece is checked: the aperture, translation and permission, region, place, poison. Lines to be read are drained first
(R177: q = 0). A launch record or range table in the scratchpad aperture fails here too, so that the launch has status 4: R23 names
no resolution for it (log entry 95). -/
def State.checkPiece (s : State) (unit ctx : Nat) (need : Need) (p : Nat × Nat) : State × Except Bad Piece :=
  let (va, n) := p
  if (ctxOf s ctx).inAperture va then (s, .error ⟨0x09, va⟩)
  else match s.xlate unit ctx va need fun l => (l.forbids va n).isNone && s.lineFits (l.pa va) with
    | (s, .error b) => (s, .error b)
    | (s, .ok l) =>
      let pa := l.pa va
      match l.forbids va n with
      | some a => (s, .error ⟨0x09, a⟩)
      | none =>
        if (placeOf s pa).isMem then
          let s := if need.w then s else (((addrs pa n).map lineOf).eraseDups).foldl (fun s l => s.drainLine l) s
          (s, match s.poisonIn pa n need.w with
            | some k => .error ⟨0x0D, va + k⟩
            | none => .ok ⟨va, n, .mem [pa] l, (l.bound s va).isSome⟩)
        else match s.outsidePlace (agentVirt unit) unit ctx va pa l.rgx need with
          | (s, .wait) => (s.holdBack, .error ⟨0x09, va⟩)
          | (s, .bad b) => (s, .error b)
          | (s, r) => (s, .ok ⟨va, n, r, false⟩)

/-- Every piece is decided on its own (R50), in ascending order; the lowest failing address is the range's (R368). -/
def State.checkPieces (s : State) (unit ctx : Nat) (need : Need) : List (Nat × Nat) → State × Except Bad (List Piece)
  | [] => (s, .ok [])
  | p :: r =>
    let (s, x) := s.checkPiece unit ctx need p
    let (s, y) := s.checkPieces unit ctx need r
    (s, match x, y with
      | .error b, _ => .error b
      | .ok _, .error b => .error b
      | .ok x, .ok xs => .ok (x :: xs))

/-- A range checked whole before any byte moves (R368). -/
def State.range (s : State) (unit ctx : Nat) (need : Need) (va n : Nat) : State × Except Bad (List Piece) :=
  let (s, r) := s.checkPieces unit ctx need (pieces va n)
  (if s.ms.hold then s else s.clearFresh (agentVirt unit), r)

/-- The bytes of pieces: those of the part's memory at a die's second-level cache. -/
def State.readPieces (s : State) (die : Nat) : List Piece → State × Except Bad (List Byte)
  | [] => (s, .ok [])
  | p :: r =>
    let (s, x) := if p.inside then
        let (s, bs) := s.readAt die p.addrs
        (s, some bs)
      else s.outsideRead p.place p.n
    match x with
    | none => (s, .error ⟨0x0D, p.va⟩)
    | some bs => match s.readPieces die r with
      | (s, .error b) => (s, .error b)
      | (s, .ok r) => (s, .ok (bs ++ r))

/-- Bytes read exactly, at a die's second-level cache. -/
def State.readVirt (s : State) (unit die ctx va n : Nat) : State × Except Bad (List Byte) :=
  match s.range unit ctx needR va n with
  | (s, .error b) => (s, .error b)
  | (s, .ok ps) => s.readPieces die ps

/-- A piece written: at a die's second-level cache, at the home where it is bounded, or outside the part. -/
def State.writePiece (s : State) (die : Nat) (p : Piece) (bs : List Byte) : State :=
  let cs := p.addrs.zip bs
  if !p.inside then s.outsideWrite cs
  else if p.bounded then ((linesOf cs).foldl (fun s l => s.visit die l) s).boundedWrite cs none
  else s.writeAt die cs true none
def State.writePieces (s : State) (die : Nat) : List Piece → List Byte → State
  | [], _ => s
  | p :: r, bs => (s.writePiece die p (bs.take p.n)).writePieces die r (bs.drop p.n)

/-- Bytes written: every page is checked before any byte moves. The answer is the failure. -/
def State.writeVirt (s : State) (unit die ctx va : Nat) (bs : List Byte) : State × Option Bad :=
  match s.range unit ctx needW va bs.length with
  | (s, .error b) => (s, some b)
  | (s, .ok ps) => (s.writePieces die ps bs, none)

/-- Physical bytes read by firmware or dispatch: none where a byte is not of the part's memory, or poisoned. -/
def State.readPhys (s : State) (pa n : Nat) : State × Option (List Byte) :=
  let pas := addrs pa n
  if pas.all fun p => (placeOf s p).isMem then
    let s := ((pas.map lineOf).eraseDups).foldl (fun s l => s.drainLine l) s
    if (s.poisoned pas).isSome then (s, none) else let (s, bs) := s.readAt (homeOf s pa) pas; (s, some bs)
  else (s, none)

/-- A transfer that the on-chip map takes: 8, 16, 32 or 64 bytes, naturally aligned, and so within one window (R33). -/
def mapTransfer (off n : Nat) : Bool := [8, 16, 32, 64].contains n && off % n == 0 && decide (off < 2 ^ 34)

/-- How an access of the management core ends: with a bus error, or without (R29, R33). -/
def State.busEnd (s : State) (err : Bool) : State := { s with mg := { s.mg with busErr := err } }

/-- A read by the management core: a bus error, and all ones in every dword, where a byte is absent or the transfer breaks R33
(R29); a poisoned line ends so too (log entry 50). -/
def State.mgmtRead (s : State) (pa n : Nat) : State × List Byte :=
  let got : State × Option (List Byte) := match placeOf s pa with
    | .onchip off => (s, if mapTransfer off n then (addrs off n).mapM s.chipByte else none)
    | _ => s.readPhys pa n
  match got with
  | (s, some bs) => (s.busEnd false, bs)
  | (s, none) => (s.busEnd true, List.replicate n 0xFF)

/-- A write by the management core through the on-chip map (R29, R33, R34). -/
def State.mgmtMapWrite (s : State) (off : Nat) (bs : List Byte) : State :=
  if !mapTransfer off bs.length || ((addrs off bs.length).any fun a => chipOf s a == .absent) then s.busEnd true
  else (s.chipWrite (cellsAt off bs)).busEnd false

/-- Physical bytes written by firmware or dispatch. -/
def State.writePhys (s : State) (pa : Nat) (bs : List Byte) : State :=
  s.boundedWrite ((cellsAt pa bs).filter fun c => (placeOf s c.1).isMem) none

end Sys2Proof.Machine
end

