-- ==== Sys2Proof/Machine/Launch.lean ====
section
/-! DEFINITION. Launch records and what becomes of launches, graphs, phases and jobs (R389 to R394, R398 to R405). -/
namespace Sys2Proof.Machine

/-! ## Launch records (R389, R390, R399) -/

def recNgath (r : List Dword) : Nat := bits (r.getD 1 0).toNat 31 0
def recInstr (r : List Dword) : Bool := bit (r.getD 1 0).toNat 39
def recGlast (r : List Dword) : Bool := bit (r.getD 1 0).toNat 38
def recPlast (r : List Dword) : Bool := bit (r.getD 1 0).toNat 37
def recRanges (r : List Dword) : Dword := r.getD 5 0
def recCrec (r : List Dword) : Dword := r.getD 6 0
def recGraph (r : List Dword) : Nat := bits (r.getD 4 0).toNat 63 32
def recPhase (r : List Dword) : Nat := bits (r.getD 4 0).toNat 31 16

/-- A pointer field of a record is misaligned or not canonical. -/
def badPtr (x : Dword) (n : Nat) : Bool := x.toNat % n != 0 || !canonical x.toNat

/-- A malformed launch record (R390). -/
def recBad (r : List Dword) : Bool :=
  bits (r.getD 1 0).toNat 47 40 != 0 || bits (r.getD 1 0).toNat 36 32 != 0 || r.getD 7 0 != 0 || recNgath r == 0 ||
  decide (2 ^ 24 < recNgath r) || (recPlast r && !recGlast r) || badPtr (r.getD 3 0) 32 || badPtr (recRanges r) 128 ||
  badPtr (recCrec r) 32

/-- The ranges of a range table, reads and writes as first and last granule; none where it is malformed (R399, R400), as it also is with
a START that is not canonical by itself (log entry 44). -/
def rangesOf (ws : List Dword) : Option (List (Nat × Nat) × List (Nat × Nat)) :=
  let es := (upto 8).map fun k => (k, (ws.getD (2 * k) 0).toNat, (ws.getD (2 * k + 1) 0).toNat)
  let used := es.filter fun e => e.2.2 != 0
  if used.isEmpty || used.any (fun e => decide (2 ^ 64 < e.2.1 + e.2.2) || !canonical e.2.1 || !canonical (e.2.1 + e.2.2 - 1)) then none
  else
    let gran (l : List (Nat × Nat × Nat)) := l.map fun e => (e.2.1 / 256, (e.2.1 + e.2.2 - 1) / 256)
    some (gran (used.filter fun e => e.1 < 4), gran (used.filter fun e => 4 ≤ e.1))

/-- What the declared ranges of a launch are; none declares all memory. -/
abbrev Ranges := Option (List (Nat × Nat) × List (Nat × Nat))

/-- The range table of a record is read: the ranges, or the status of LAUNCH that refuses it (R275). -/
def State.readRanges (s : State) (unit die ctx : Nat) (r : List Dword) : State × Except Nat Ranges :=
  if recRanges r = 0 then (s, .ok none)
  else match s.readVirt unit die ctx (recRanges r).toNat 128 with
    | (s, .error _) => (s, .error 4)
    | (s, .ok bs) => (s, match rangesOf (dwordsOf bs) with
      | none => .error 3
      | some x => .ok (some x))

/-- Two granule ranges meet. -/
def granMeet (a b : Nat × Nat) : Bool := decide (a.1 ≤ b.2) && decide (b.1 ≤ a.2)
def granAny (a b : List (Nat × Nat)) : Bool := a.any fun x => b.any fun y => granMeet x y

/-- Two launches conflict (R400). -/
def Launch.conflicts (a b : Launch) : Bool :=
  match a.reads, a.writes, b.reads, b.writes with
  | some ar, some aw, some br, some bw => granAny aw (br ++ bw) || granAny bw (ar ++ aw)
  | _, _, _, _ => true

/-! ## Completion (R401 to R403) -/

/-- A completion record is written, if it can be (R402). -/
def State.writeRecord (s : State) (ctx : Nat) (crec : Dword) (off : Nat) (info : Dword) (id kind status : Nat)
    (cause : BitVec 8) (tval : Dword) : State :=
  if crec = 0 then s
  else
    let d1 := id * 2 ^ 32 + kind * 2 ^ 24 + status * 2 ^ 16 + cause.toNat * 2 ^ 8 + 1
    (s.writeVirt 3000 0 ctx ((crec.toNat + off) % 2 ^ 64)
      (leBytes 8 info.toNat ++ leBytes 8 d1 ++ leBytes 8 tval.toNat ++ leBytes 8 0)).1

/-- The launches of a test. -/
def State.launchesWhere (s : State) (p : Launch → Bool) : List (Nat × Launch) := s.disp.launches.filter fun l => p l.2

/-- The status of a graph or a phase out of those of its launches (R403), with the launch that gives it. -/
def groupStatus (ls : List Launch) : Nat × Option Launch :=
  match ls.find? fun l => l.status == 2 with
  | some l => (2, some l)
  | none => match minBy (·.status) (ls.filter fun l => 2 < l.status) with
    | some l => (l.status, some l)
    | none => (0, none)

def State.setGroup (s : State) (k : Nat) (g : Group) : State := { s with disp := { s.disp with groups := kvSet k g s.disp.groups } }

/-- A graph or a phase completes: its record is written. -/
def State.endGroup (s : State) (k : Nat) (g : Group) : State :=
  let s := s.setGroup k { g with done := true, open_ := false }
  let ls := (s.launchesWhere fun l => if g.isPhase then l.phaseId == k else l.graphId == k).map (·.2)
  let (st, w) := groupStatus ls
  let info := match w with
    | some l => l.info
    | none => 0
  let cause := match w with
    | some l => l.cause
    | none => 0
  let tval := match w with
    | some l => l.tval
    | none => 0
  s.writeRecord g.ctx g.crec (if g.isPhase then 64 else 32) info g.number (if g.isPhase then 3 else 2) st cause tval

/-- The condition of R398 for a graph or a phase: a phase's counter holds every graph that it took before it was closed (R401). -/
def State.groupOver (s : State) (k : Nat) (g : Group) : Bool :=
  !g.done && !g.open_ &&
  (if g.isPhase then
    (match kvGet g.closer s.disp.groups with
     | some c => c.done && (s.disp.groups.all fun x => x.2.isPhase || x.2.phaseId != k || x.2.done)
     | none => false)
   else (s.launchesWhere fun l => l.graphId == k && l.st != .complete).isEmpty)

/-- A graph or a phase completes if it is over. -/
def State.checkGroup (s : State) (k : Nat) : State :=
  match kvGet k s.disp.groups with
  | some g => if s.groupOver k g then s.endGroup k g else s
  | none => s

/-- A job completes (R401). -/
def State.checkJob (s : State) (job : Nat) : State :=
  match kvGet job s.disp.jobs with
  | some j =>
    if j.closing && (s.launchesWhere fun l => l.job == job && l.st != .complete).isEmpty then
      { s with disp := { s.disp with jobs := kvSet job { j with done := true } s.disp.jobs } }
    else s
  | none => s

/-- A launch completes (R401 to R403). -/
def State.finishLaunch (s : State) (lid : Nat) : State :=
  match s.launch? lid with
  | none => s
  | some l =>
    if l.st == .complete then s
    else
      let l := if l.status = 0 then (match l.copyErr with
          | some e => { l with status := 1, info := e }
          | none => l) else l
      let s := s.modLaunch lid fun _ => { l with st := .complete, left := 0 }
      let s := { s with disp := { s.disp with saved := kvDel lid s.disp.saved } }
      let s := s.endTiles lid
      let s := s.writeRecord l.ctx l.crec 0 l.info lid 1 l.status l.cause l.tval
      let s := s.checkGroup l.graphId
      ((s.disp.groups.map (·.1)).foldl (fun s k => s.checkGroup k) s).checkJob l.job

/-- A launch completes with a status before anything of it runs (R393, R396, R398). -/
def State.failLaunch (s : State) (lid st : Nat) (info : Dword) : State :=
  (s.modLaunch lid fun l => { l with status := st, info := info }).finishLaunch lid

/-! ## The states of a launch (R392, R393, R395, R398, R400) -/

/-- The banks that a kernel needs fit a core at all (R396). -/
def Kernel.fits (k : Kernel) : Bool := decide ((k.gather * k.window + 8191) / 8192 + (k.scratch + 65535) / 65536 ≤ 29)

/-- An object is to be loaded; libraries whose load has failed before are tried again with it. -/
def State.wantObj (s : State) (h : Nat) : State :=
  match kvGet h s.disp.objs with
  | none => s
  | some o =>
    if o.st == .absent || o.st == .failed then
      { s with disp := { s.disp with objs := kvSet h { o with st := .wanted, err := 0, tried := [] } s.disp.objs } }
    else s

/-- A launch whose object is resident leaves LOADING (R393, R441); a load is asked for where none is under way. -/
def State.loadingStep (s : State) (lid : Nat) : State :=
  match s.launch? lid with
  | none => s
  | some l =>
    if l.st != .loading then s
    else match kvGet l.code.toNat s.disp.objs with
      | none => s.failLaunch lid 5 0
      | some o =>
        if o.st != .resident then s.wantObj l.code.toNat
        else match o.kernels[l.kidx]? with
          | none => s.failLaunch lid 5 0
          | some k => if k.fits then s.modLaunch lid fun l => { l with kern := some k, st := .ordered } else s.failLaunch lid 5 0

/-- An earlier launch that a launch waits for. -/
def Launch.waitsFor (l e : Launch) : Bool :=
  e.st != .complete && decide (e.order < l.order) &&
  ((e.job == l.job && decide (e.phase < l.phase)) || (e.graphId == l.graphId && l.conflicts e))

def State.orderedStep (s : State) (lid : Nat) : State :=
  match s.launch? lid with
  | none => s
  | some l =>
    if l.st == .ordered && (s.launchesWhere l.waitsFor).isEmpty then s.modLaunch lid fun l => { l with st := .unbound } else s

/-- The in-force bind records of a launch, by die·256 + index (R395). -/
def State.bindsOf (s : State) (lid : Nat) : List (Nat × Bind) :=
  s.disp.slottab.filter fun b => b.2.d0.getLsbD 0 && bits b.2.d0.toNat 63 32 == lid

def State.boundStep (s : State) (lid : Nat) : State :=
  match s.launch? lid with
  | none => s
  | some l =>
    if l.st == .unbound && !(s.bindsOf lid).isEmpty then s.modLaunch lid fun l => { l with st := .running } else s

/-- A launch goes as far as it can. -/
def State.progressOne (s : State) (lid : Nat) : State := ((s.loadingStep lid).orderedStep lid).boundStep lid

/-- Every launch goes as far as it can, in the order of acceptance. -/
def State.progress (s : State) : State :=
  ((sortBy (fun a b => decide (a.2.order ≤ b.2.order)) s.disp.launches).map (·.1)).foldl (fun s l => s.progressOne l) s

/-! ## Acceptance (R391, R398) -/

/-- The open graph or phase of a number in a job. -/
def State.openGroup (s : State) (job number : Nat) (isPhase : Bool) : Option Nat :=
  (s.disp.groups.find? fun g => g.2.job == job && g.2.number == number && g.2.isPhase == isPhase && g.2.open_ && !g.2.done).map (·.1)

/-- A launch joins the open graph or phase of its number, or begins one. -/
def State.joinGroup (s : State) (job number : Nat) (isPhase : Bool) (ctx phaseId : Nat) : State × Nat :=
  match s.openGroup job number isPhase with
  | some k => (s, k)
  | none =>
    let (s, k) := s.takeSerial
    (s.setGroup k { job := job, number := number, isPhase := isPhase, open_ := true, closer := 0, cancelled := false,
                    info := 0, done := false, crec := 0, ctx := ctx, phaseId := phaseId, order := s.disp.nextOrder }, k)

/-- A group is closed by a launch. -/
def State.closeGroup (s : State) (k closer : Nat) (crec : Dword) (ctx : Nat) : State :=
  { s with disp := { s.disp with groups := kvMod k (fun g => { g with open_ := false, closer := closer, crec := crec, ctx := ctx }) s.disp.groups } }

/-- The LID after one (R391). -/
def nextLidOf (lid : Nat) : Nat := if lid = 0xFFFFFFFF then 1 else lid + 1

/-- The first LID from one on that no incomplete launch has (R391), among so many. -/
def State.freeLid (s : State) : Nat → Nat → Nat
  | 0, lid => lid
  | n + 1, lid => match s.launch? lid with
    | some l => if l.st == .complete then lid else s.freeLid n (nextLidOf lid)
    | none => lid

/-- A cancelled graph or phase: INFO of the launches that it cancels. -/
def State.groupCancel (s : State) (k : Nat) : Option Nat := match kvGet k s.disp.groups with
  | some g => if g.cancelled && !g.done then some g.info else none
  | none => none

/-- A launch as accepted. -/
def newLaunch (r : List Dword) (rng : Ranges) (q : Nat) (qu : Queue) (ctx gr ph order : Nat) (byHost : Bool) : Launch where
  st := .loading
  job := bits qu.d1.toNat 63 48
  ctx := ctx
  queue := q
  code := r.getD 0 0
  kidx := bits (r.getD 1 0).toNat 63 48
  kern := none
  instr := recInstr r && bit qu.d1.toNat 1
  glast := recGlast r
  plast := recPlast r
  ngath := recNgath r
  karg := r.getD 2 0
  fspBase := r.getD 3 0
  fspStep := bits (r.getD 4 0).toNat 15 0
  prio := bits qu.d1.toNat 47 32
  graph := recGraph r
  phase := recPhase r
  graphId := gr
  phaseId := ph
  reads := rng.map (·.1)
  writes := rng.map (·.2)
  crec := recCrec r
  byHost := byHost
  order := order
  placed := 0
  left := recNgath r
  ended := 0
  status := 0
  info := 0
  cause := 0
  tval := 0
  copyErr := none
  cancelled := false
  killed := false
  draining := false
  checkpoint := false
  slice := false

/-- The context of a job. -/
def State.ctxOfJob (s : State) (job : Nat) : Nat := match kvGet job s.disp.jobs with
  | some j => j.ctx
  | none => 0

/-- The code object of a launch may be used: registered in its job and not withdrawn (R440, R444). -/
def State.mayName (s : State) (job : Nat) (code : Dword) : Bool := match kvGet code.toNat s.disp.objs with
  | some o => o.registered && o.job == job
  | none => false

/-- A record that is not refused is accepted (R391). The order of the tests is the model's choice (log entry 87): a cancelled graph or
phase (R404) comes before a second queue (R398), and of a graph and a phase cancelled by different launches the graph's canceller
gives INFO (R403). -/
def State.accept (s : State) (q : Nat) (qu : Queue) (r : List Dword) (rng : Ranges) (byHost : Bool) : State :=
  let job := bits qu.d1.toNat 63 48
  let ctx := s.ctxOfJob job
  let lid := s.freeLid s.disp.launches.length s.disp.nextLid
  let (s, ph) := s.joinGroup job (recPhase r) true ctx 0
  let (s, gr) := s.joinGroup job (recGraph r) false ctx ph
  let other := (s.launchesWhere fun l => l.graphId == gr && l.st != .complete && l.queue != q).head?
  let l := newLaunch r rng q qu ctx gr ph s.disp.nextOrder byHost
  let s := { s with disp := { s.disp with
    nextLid := nextLidOf lid, nextOrder := s.disp.nextOrder + 1, launches := kvSet lid l s.disp.launches } }
  let s := if l.glast then s.closeGroup gr lid l.crec ctx else s
  let s := if l.plast then s.closeGroup ph gr l.crec ctx else s
  let s := match s.groupCancel gr, s.groupCancel ph, other with
    | some i, _, _ => s.failLaunch lid 2 (BitVec.ofNat 64 i)
    | none, some i, _ => s.failLaunch lid 2 (BitVec.ofNat 64 i)
    | none, none, some o => s.failLaunch lid 6 (BitVec.ofNat 64 o.2.queue)
    | none, none, none => if s.mayName job l.code then s else s.failLaunch lid 5 0
  s.progress

/-! ## Cancellation (R404, R405) -/

/-- A launch is cancelled; one that has not been placed, or is SAVED, completes at once (R404 step 1). -/
def State.cancelNow (s : State) (lid : Nat) (info : Dword) : State :=
  match s.launch? lid with
  | none => s
  | some l =>
    if s.spent lid l then s
    else
    let s := s.cancelLaunch lid info
    if l.checkpoint then s
    else if l.st != .running || (l.placed == 0 && (s.gathersOf lid).isEmpty) then s.finishLaunch lid else s

/-- Every incomplete launch of a test is cancelled. -/
def State.cancelWhere (s : State) (p : Launch → Bool) (info : Dword) : State :=
  (s.launchesWhere fun l => p l && l.st != .complete).foldl (fun s l => s.cancelNow l.1 info) s

/-- Graphs or phases that a CANCEL reaches: where two incomplete ones share the number, both of them. DESIGN CHOICE (log entry
48): R278 and R398 do not say which is meant. -/
def State.groupsNamed (s : State) (job number : Nat) (isPhase : Bool) : List Nat :=
  (s.disp.groups.filter fun g => g.2.job == job && g.2.number == number && g.2.isPhase == isPhase && !g.2.done).map (·.1)

/-- A closed graph or phase has nothing left to run: its incomplete launches are spent, so that a CANCEL finds it complete
(R405). -/
def State.groupSpent (s : State) (k : Nat) (g : Group) : Bool :=
  let over_ (j : Nat) : Bool := (s.launchesWhere fun l => l.graphId == j && l.st != .complete).all fun l => s.spent l.1 l.2
  !g.open_ && (if g.isPhase then
    s.disp.groups.all fun x => x.2.isPhase || x.2.phaseId != k || x.2.done || (!x.2.open_ && over_ x.1)
  else over_ k)

/-- Whether a CANCEL of a graph or a phase finds something to cancel. -/
def State.groupLeft (s : State) (job number : Nat) (isPhase : Bool) : Bool :=
  (s.groupsNamed job number isPhase).any fun k => match kvGet k s.disp.groups with
    | some g => !s.groupSpent k g
    | none => false

/-- What a CANCEL of level `lvl` by a fibre of a job reports (R278, R404, R405). -/
def State.cancelStatus (s : State) (job lvl : Nat) (a : Dword) : Nat :=
  match lvl with
  | 0 => (match s.launch? (a.toNat % 2 ^ 32) with
    | none => 1
    | some l => if l.st == .complete || s.spent (a.toNat % 2 ^ 32) l then 1 else if l.job == job then 0 else 2)
  | 1 => if s.groupLeft job (a.toNat % 2 ^ 32) false then 0 else 1
  | 2 => if s.groupLeft job (a.toNat % 2 ^ 16) true then 0 else 1
  | _ => if a.toNat % 2 ^ 16 = job then 0 else 2

/-- A graph or a phase is marked so that it cancels what is accepted for it later. -/
def State.markGroups (s : State) (ks : List Nat) (info : Nat) : State :=
  ks.foldl (fun s k => { s with disp := { s.disp with groups := kvMod k (fun g => { g with cancelled := true, info := info }) s.disp.groups } }) s

/-- Every queue of a job is disabled. -/
def State.stopQueues (s : State) (job : Nat) : State :=
  { s with disp := { s.disp with queues := kvMap (fun _ q => if bits q.d1.toNat 63 48 == job then { q with d1 := q.d1 &&& ~~~1#64 } else q) s.disp.queues } }

/-- A unit is cancelled in one step (R404); `info` is the LID of the launch whose fibre asks, or 0. -/
def State.cancelUnit (s : State) (job lvl : Nat) (a : Dword) (info : Nat) : State :=
  let i := BitVec.ofNat 64 info
  match lvl with
  | 0 => s.cancelNow (a.toNat % 2 ^ 32) i
  | 1 =>
    let ks := s.groupsNamed job (a.toNat % 2 ^ 32) false
    (s.markGroups ks info).cancelWhere (fun l => ks.contains l.graphId) i
  | 2 =>
    let ks := s.groupsNamed job (a.toNat % 2 ^ 16) true
    (s.markGroups ks info).cancelWhere (fun l => ks.contains l.phaseId) i
  | _ => (s.stopQueues job).cancelWhere (fun l => l.job == job) i

/-- CANCEL (R278): the status is given before the unit's fibres, its own among them, end (R405). -/
def execCancel (d : Dest) (a : Operand) (lvl : BitVec 7) (s : State) : Result :=
  afterCommit s (.cancel d a lvl) [a] (some d) true fun f _ p s =>
    let job := s.jobOf f
    let lid := match s.gather? (gatherOf f) with
      | some g => g.lid
      | none => 0
    let st := s.cancelStatus job lvl.toNat p.a
    let s := s.donePost f p (BitVec.ofNat 64 st)
    .next (if st = 0 then (s.cancelUnit job lvl.toNat p.a lid).progress else s)

/-! ## Work queues (R386 to R388, R451) -/

def State.queue (s : State) (q : Nat) : Queue := kvGetD q ⟨0, 0, 0, 0, 0⟩ s.disp.queues
def State.setQueue (s : State) (q : Nat) (x : Queue) : State :=
  { s with disp := { s.disp with queues := kvSetD q ⟨0, 0, 0, 0, 0⟩ x s.disp.queues } }
def Queue.en (q : Queue) : Bool := bit q.d1.toNat 0
def Queue.job (q : Queue) : Nat := bits q.d1.toNat 63 48
def Queue.func (q : Queue) : Nat := bits q.d1.toNat 31 24
def Queue.size (q : Queue) : Nat := 2 ^ (bits q.d0.toNat 3 0 + 4)
/-- The physical address of record k of the ring. -/
def Queue.slotAt (q : Queue) (k : Nat) : Nat := bits q.d0.toNat 51 12 * 2 ^ 12 + 64 * (k % q.size)
def Queue.drop (q : Queue) : Queue := { q with drops := min 255 (q.drops + 1) }

/-- A write of QCFG (R386). -/
def Queue.config (q : Queue) (dw : Bool) (v : Dword) : Queue :=
  if dw then
    let v := v &&& 0xFFFFFFFFFF000003#64
    if bit v.toNat 0 && q.en then { q with d1 := (q.d1 &&& ~~~0x0000FFFF00000000#64) ||| (v &&& 0x0000FFFF00000000#64) }
    else { q with d1 := v, drops := if bit v.toNat 0 then 0 else q.drops }
  else
    let v := v &&& 0x000FFFFFFFFFF00F#64
    if 8 < bits v.toNat 3 0 || v == q.d0 then q else { q with d0 := v, head := 0, count := 0 }

/-- QCFG_WRITE: dw false writes dword 0, true dword 1. -/
def execQcfgWrite (q : Nat) (dw : Bool) (v : BitVec 64) (s : State) : Result :=
  .next (if q < 2048 then s.setQueue q ((s.queue q).config dw v) else s)

/-- QSTAT (R388). -/
def State.qstat (s : State) (q : Nat) : Dword :=
  let x := s.queue q
  let pend := min 0xFFFF (s.launchesWhere fun l => l.queue == q && l.st != .complete).length
  BitVec.ofNat 64 ((if x.en || x.count != 0 || x.d0 != 0 then x.size - x.count else 0) * 2 ^ 32 + pend * 2 ^ 16 + x.drops * 2 ^ 8 + ofBool x.en)

/-- What a function reads at an offset of its queue aperture (R388, R451). -/
def State.ingressRead (s : State) (func off : Nat) : Dword :=
  if s.mg.firmware && off % 64 = 0 && (s.queue (off / 64)).func == func then s.qstat (off / 64) else 0

/-- INGRESS_PORT_WRITE (R387, R451): a function writes bytes at an offset of its queue aperture, which answers while valid
firmware runs (R463). -/
def execIngressPortWrite (func off : Nat) (bytes : List (BitVec 8)) (s : State) : Result :=
  let q := off / 64
  let x := s.queue q
  if 2048 ≤ q || x.func != func || !s.mg.firmware then .next s
  else if off % 64 != 0 || bytes.length != 64 || !x.en || decide (x.size ≤ x.count) then .next (s.setQueue q x.drop)
  else .next ((s.writePhys (x.slotAt (x.head + x.count)) bytes).setQueue q { x with count := x.count + 1 })

/-- The record at the head of a ring is taken: accepted, or refused and counted (R388, R390). -/
def State.takeRecord (s : State) (q : Nat) : State :=
  let x := s.queue q
  if x.count = 0 || !x.en then s
  else
    let y := { x with head := (x.head + 1) % x.size, count := x.count - 1 }
    let s := s.setQueue q y
    match s.readPhys (x.slotAt x.head) 64 with
    | (s, none) => s.setQueue q y.drop
    | (s, some bs) =>
      let r := dwordsOf bs
      if recBad r then s.setQueue q y.drop
      else match s.readRanges 3000 0 (s.ctxOfJob y.job) r with
        | (s, .error _) => s.setQueue q y.drop
        | (s, .ok rng) => s.accept q y r rng true

/-- LAUNCH_ACCEPTANCE (R391). -/
def execLaunchAcceptance (q : Nat) (s : State) : Result := .next (s.takeRecord q)

/-! ## LAUNCH (R275, R159) -/

/-- The tests of R275 and the acceptance: the status. -/
def State.submit (s : State) (f : Nat) (a b : Dword) : State × Nat :=
  let x := s.queue b.toNat
  let job := s.jobOf f
  let ctx := s.ctxOfFibre f
  if a.toNat % 64 ≠ 0 then (s, 3)
  else if 2048 ≤ b.toNat || x.job != job || !x.en then (s, 2)
  else match s.readVirt (coreOf f) (dieOf f) ctx a.toNat 64 with
    | (s, .error _) => (s, 4)
    | (s, .ok bs) =>
      let r := dwordsOf bs
      if recBad r then (s, 3)
      else match s.readRanges (coreOf f) (dieOf f) ctx r with
        | (s, .error st) => (s, st)
        | (s, .ok rng) =>
          if x.size ≤ x.count then (s, 1)
          else
            let s := (upto x.count).foldl (fun s _ => s.takeRecord b.toNat) s
            (s.accept b.toNat (s.queue b.toNat) r rng false, 0)

/-- LAUNCH at the head of the queue: the device-scope release first, then the record. -/
def launchPost (f : Nat) (x : Fibre) (p : PostOp) (s : State) : Result :=
  match x.stage with
  | 0 =>
    let s := (s.performLoads f).drainSome (coreOf f) []
    if !s.atHeadOf f p || s.undrained (coreOf f) [] then .next s
    else .next ((s.sendTokens (agentNode f 127) (s.setOf (s.jobOf f)) (dieOf f)).setStage f 1)
  | 2 =>
    let (s, st) := s.submit f p.a p.b
    .next (s.donePost f p (BitVec.ofNat 64 st))
  | _ => .next s

/-- LAUNCH (R275). -/
def execLaunch (d : Dest) (a b : Operand) (s : State) : Result :=
  afterCommit s (.launch d a b) [a, b] (some d) true launchPost

end Sys2Proof.Machine
end

