-- ==== Sys2Proof/Machine/Place.lean ====
section
/-! DEFINITION. The core store's partition (R71 to R78), placement and exit of gathers (R122, R160, R205, R394 to R396),
the completion of launches and the closing of jobs (R401). -/
namespace Sys2Proof.Machine

/-! ## Partition registers (R72 to R78) -/

def State.setPart (s : State) (core : Nat) (p : CoreStore) : State :=
  { s with ms := { s.ms with stores := kvSet core p s.ms.stores } }

/-- CSPART as it reads. -/
def CoreStore.cspart (p : CoreStore) : Word :=
  BitVec.ofNat 32 (p.target.lv * 2 ^ 24 + p.target.sp * 2 ^ 18 + p.target.tm * 2 ^ 12 + p.target.l1 * 2 ^ 6)
/-- CSPSTAT. -/
def CoreStore.cspstat (p : CoreStore) : Word := BitVec.ofNat 32 (p.pend * 2 ^ 8 + ofBool p.err * 2 + ofBool (p.pend != 0))

/-- The fields of a value written to CSPART. -/
def partWord (v : Word) : Part := ⟨bits v.toNat 29 24, bits v.toNat 23 18, bits v.toNat 17 12, bits v.toNat 11 6⟩

/-- Banks whose role changes. -/
def bankMoves (a b : Part) : Nat := (a.lv - b.lv) + (a.sp - b.sp) + (a.tm - b.tm) + (a.l1 - b.l1)

/-- A partition that R74 allows. -/
def Part.legal (p : Part) : Bool :=
  p.lv + p.sp + p.tm + p.l1 == 32 && decide (1 ≤ p.lv) && decide (1 ≤ p.tm) && decide (2 ≤ p.l1)

/-- The whole first-level cache is written back and emptied (R78), as far as its lines' circuits let it (R97); dirty bytes stay. -/
def State.flushL1 (s : State) (core : Nat) : State := (s.writebackSome core fun _ => true).dropClean core fun _ => true

/-- CSPART_WRITE (R74). A flush that an earlier write started goes on (R78). -/
def execCspartWrite (core : Nat) (v : BitVec 32) (s : State) : Result :=
  let p := partOf s core
  let t := partWord v
  if 640 ≤ core then .next s
  else if p.pend != 0 || !t.legal then .next (s.setPart core { p with err := true })
  else if t = p.now then .next s
  else
    let s := if t.l1 = p.now.l1 then s else s.flushL1 core
    .next (s.setPart core { p with target := t, pend := bankMoves p.now t, flush := p.flush || t.l1 != p.now.l1 })

/-- L1_FLUSH_COMPLETE (R78): the flush of a core's first-level cache is over, once no line is left. -/
def execL1FlushComplete (core : Nat) (s : State) : Result :=
  .next (if (partOf s core).flush then
    let s := s.flushL1 core
    if (s.l1Bytes core).isEmpty then s.setPart core { partOf s core with flush := false } else s
  else s)

/-- Banks of so many units from one on that ranges touch. -/
def busyBanks (unit first : Nat) (rs : List (Nat × Nat)) : Nat :=
  ((upto 32).filter fun b => decide (first ≤ b) && rs.any fun r => r.2 != 0 && decide (r.1 < (b + 1) * unit) && decide (b * unit < r.1 + r.2)).length

/-- The resident gathers of a core. -/
def State.residents (s : State) (core : Nat) : List (Nat × Gather) := s.fab.gathers.filter fun g => g.2.core == core
/-- What their allocations take: first unit and length. -/
def State.lvUsed (s : State) (core : Nat) : List (Nat × Nat) := (s.residents core).map fun g => (g.2.lvBase, g.2.size * g.2.wsize)
def State.spUsed (s : State) (core : Nat) : List (Nat × Nat) := (s.residents core).map fun g => (g.2.spBase, g.2.spSize)
/-- Tag-matching entries in use (R76): those of barriers. The partial operand sets of join nodes are given no place in these banks, so
that they keep none (log entry 55). -/
def State.tmUsed (s : State) (core : Nat) : List (Nat × Nat) :=
  (s.ms.tm.filter fun t => t.1 / 2 ^ 21 == core && t.1 % 16 == 0 && t.2.getLsbD 0).map fun t => (t.1 % 2 ^ 21, 16)

/-- A bank of a shrinking role is empty and leaves it (R76): the partition without it. Which of several shrinking roles gives its
bank first, the specification leaves open: the model asks live-value, scratchpad, tag-matching and first-level in that order
(DESIGN CHOICE, log entry 70). -/
def State.bankLeaves (s : State) (core : Nat) (p : CoreStore) : Option Part :=
  let n := p.now
  let t := p.target
  if busyBanks 8192 t.lv (s.lvUsed core) < n.lv - t.lv then some { n with lv := n.lv - 1 }
  else if busyBanks 65536 t.sp (s.spUsed core) < n.sp - t.sp then some { n with sp := n.sp - 1 }
  else if busyBanks 65536 t.tm (s.tmUsed core) < n.tm - t.tm then some { n with tm := n.tm - 1 }
  else if t.l1 < n.l1 && !p.flush then some { n with l1 := n.l1 - 1 }
  else none

/-- The bank joins a role that still grows (R75); which of several, the specification leaves open: the model takes them in the
same order (DESIGN CHOICE, log entry 70). -/
def bankJoins (n t : Part) : Part :=
  if n.lv < t.lv then { n with lv := n.lv + 1 }
  else if n.sp < t.sp then { n with sp := n.sp + 1 }
  else if n.tm < t.tm then { n with tm := n.tm + 1 }
  else { n with l1 := n.l1 + 1 }

/-- REPARTITION_BANK_EMPTY (R76). -/
def execRepartitionBankEmpty (core : Nat) (s : State) : Result :=
  let p := partOf s core
  .next (match s.bankLeaves core p with
    | none => s
    | some n => if p.pend = 0 then s else s.setPart core { p with now := bankJoins n p.target, pend := p.pend - 1 })

/-! ## Placement (R108, R394, R396) -/

/-- The lowest place, a multiple of one unit, where a length fits below a limit beside ranges in use (log entry 10). -/
def lowestFit (limit need : Nat) (used : List (Nat × Nat)) : Option Nat :=
  let cands := sortBy (fun a b => decide (a ≤ b)) (0 :: used.map fun u => u.1 + u.2)
  cands.find? fun a => decide (a + need ≤ limit) && used.all fun u => u.2 == 0 || need == 0 || decide (a + need ≤ u.1) || decide (u.1 + u.2 ≤ a)

/-- Where a gather of a kernel may stand on a core: its slot, its live-value base, its scratchpad base. -/
def State.roomOn (s : State) (core maxg lid : Nat) (k : Kernel) : Option (Nat × Nat × Nat) :=
  let rs := s.residents core
  let p := partOf s core
  if 32 ≤ rs.length || 8192 < (rs.foldl (fun n g => n + g.2.size) 0) + k.gather ||
      (maxg != 0 && decide (maxg ≤ (rs.filter fun g => g.2.lid == lid).length)) then none
  else match lowestFit (shownBanks p.now.lv p.target.lv * 8192) (k.gather * k.window) (s.lvUsed core),
      lowestFit (shownBanks p.now.sp p.target.sp * 65536) k.scratch (s.spUsed core),
      (upto 32).find? fun n => (kvGet (core * 32 + n) s.fab.gathers).isNone with
    | some lv, some sp, some n => some (n, lv, sp)
    | _, _, _ => none

/-- Bit c of a bind record's mask. -/
def Bind.has (b : Bind) (c : Nat) : Bool := if c < 64 then b.d1.getLsbD c else bit b.d2.toNat (c - 64)
/-- MAXG. -/
def Bind.maxg (b : Bind) : Nat := bits b.d2.toNat 31 16

/-- The cores that a launch's in-force records name, in order, each with its limit. A core that several of them name takes a gather
where one of its limits leaves room (log entry 44). -/
def State.coresOf (s : State) (lid : Nat) : List (Nat × Nat) :=
  let bs := s.bindsOf lid
  ((upto 8).filter fun d => s.mg.dies.getLsbD d).flatMap fun d =>
    (upto 80).flatMap fun c => ((bs.filter fun b => b.1 / 256 == d && b.2.has c).map fun b => (80 * d + c, b.2.maxg))

/-- The first core with room for a launch's gather: the core and the place there. -/
def State.findRoom (s : State) (lid : Nat) (k : Kernel) : Option (Nat × Nat × Nat × Nat) :=
  (s.coresOf lid).findSome? fun c => (s.roomOn c.1 c.2 lid k).map fun r => (c.1, r)

/-- A new gather at its place: nothing in its allocation (R108, R206). -/
def newGather (l : Launch) (k : Kernel) (lid gi gid core lv sp : Nat) : Gather where
  core := core
  lid := lid
  gi := gi
  gid := gid
  ctx := l.ctx
  size := k.gather
  wsize := k.window
  lvBase := lv
  spBase := sp
  spSize := k.scratch
  gs := []
  bars := []
  wins := []
  words := []
  reserved := []
  unmaps := []
  tags := []
  offered := false
  meets := []

/-- The slots and the scratchpad bytes of an allocation are emptied. -/
def State.clearAlloc (s : State) (ga : Gather) : State :=
  let lo := slotKey ga.core ga.lvBase
  let a := spKey ga.core ga.spBase
  { s with
    fab := { s.fab with slots := kvFilter (fun k _ => k < lo || lo + ga.size * ga.wsize ≤ k) s.fab.slots }
    ms := { s.ms with sp := kvFilter (fun k _ => k < a || a + ga.spSize ≤ k) s.ms.sp } }

/-- The fibres of a launch's new gather, and their w0 (R394). -/
def State.startFibres (s : State) (g : Nat) (l : Launch) (k : Kernel) (gi : Nat) : State :=
  (upto k.gather).foldl (fun s fi =>
    let f := g * 1024 + fi
    let s := s.setFibre f (newFibre k.entry (fspOf l k gi fi) k.handler s.clock)
    (s.fillSlot f 0 (BitVec.ofNat 64 (gi * k.gather + fi))).joinSet f) s

/-- A drain of a launch is not over: a gather that was resident is left, or sections that were saved wait (R370, R419). -/
def State.drainHolds (s : State) (lid : Nat) : Bool := 1 < (s.gathersOf lid).length || (kvGet lid s.disp.saved).isSome

/-- The programs of a launch that had been stopped go on. -/
def State.goOn (s : State) (lid : Nat) : State :=
  { s with mat := { s.mat with seqs := kvMap (fun _ q => if q.run && q.lid == lid then { q with stop := false } else q) s.mat.seqs } }

/-- A number that a resident or saved gather has. -/
def State.gidUsed (s : State) (gid : Nat) : Bool :=
  (s.fab.gathers.any fun g => g.2.gid == gid) || s.disp.saved.any fun v => v.2.gids.contains gid
/-- The first number from one on that no gather has (R373), among so many. -/
def State.freeGid (s : State) : Nat → Nat → Nat
  | 0, gid => gid
  | n + 1, gid => if s.gidUsed gid then s.freeGid n (nextLidOf gid) else gid

/-- A gather becomes resident; it begins with an acquire of its core's cache (R159, R394). -/
def State.placeGather (s : State) (lid : Nat) (l : Launch) (k : Kernel) (core n lv sp : Nat) : State :=
  let g := core * 32 + n
  let gid := s.freeGid (s.fab.gathers.length + (s.disp.saved.flatMap fun v => v.2.gids).length) s.disp.nextGid
  let ga := newGather l k lid l.placed gid core lv sp
  let s := { s with disp := { s.disp with nextGid := nextLidOf gid } }
  let s := (s.clearAlloc ga).setGather g ga
  let s := (s.acquireDrops core ((upto k.gather).map fun fi => g * 1024 + fi) []).startFibres g l k l.placed
  let drained := l.draining && !s.drainHolds lid
  let s := if drained then s.goOn lid else s
  s.modLaunch lid fun l => { l with placed := l.placed + 1, draining := l.draining && !drained }

/-- A launch has a gather to place. -/
def Launch.wantsRoom (l : Launch) : Bool :=
  l.st == .running && decide (l.placed < l.ngath) && !l.cancelled && !l.killed && !l.checkpoint && !l.slice

/-- A launch waits for room, and its context may run (R43). -/
def State.mayPlace (s : State) (l : Launch) : Bool := l.wantsRoom && (ctxOf s l.ctx).en

/-- The launches that wait for room, most priority tokens first, then the lowest LID (R396). -/
def State.waitingLaunches (s : State) : List (Nat × Launch) :=
  sortBy (fun a b => decide (a.2.prio > b.2.prio) || (a.2.prio == b.2.prio && decide (a.1 ≤ b.1))) (s.launchesWhere s.mayPlace)

/-- The next placement: the launch, its kernel and the place. -/
def State.nextPlacement (s : State) : Option (Nat × Launch × Kernel × Nat × Nat × Nat × Nat) :=
  s.waitingLaunches.findSome? fun l => match l.2.kern with
    | none => none
    | some k => (s.findRoom l.1 k).map fun r => (l.1, l.2, k, r)

/-- GATHER_PLACEMENT (R396). -/
def execGatherPlacement (s : State) : Result :=
  .next (match s.nextPlacement with
    | none => s
    | some (lid, l, k, core, n, lv, sp) => s.placeGather lid l k core n lv sp)

/-- BIND_RECORD_WRITE (R395). -/
def execBindRecordWrite (die idx dw : Nat) (v : BitVec 64) (s : State) : Result :=
  if 8 ≤ die || 256 ≤ idx then .next s
  else
    let k := die * 256 + idx
    let b := kvGetD k ⟨0, 0, 0⟩ s.disp.slottab
    let b := match dw with
      | 0 => { b with d0 := v &&& 0xFFFFFFFF00000001#64 }
      | 1 => { b with d1 := v }
      | 2 => { b with d2 := v &&& 0x00000000FFFFFFFF#64 }
      | _ => b
    .next { s with disp := { s.disp with slottab := kvSetD k ⟨0, 0, 0⟩ b s.disp.slottab } }.progress

/-! ## Exit (R122, R160, R205) -/

/-- An issued MAT instruction uses bytes of a gather's allocation (R350). -/
def State.matUses (s : State) (ga : Gather) : Bool :=
  s.mat.seqs.any fun q => q.2.mats.any fun m => (m.reads ++ m.writes).any fun r =>
    r.1 == ga.core && decide (r.2.1 < ga.spBase + ga.spSize) && decide (ga.spBase < r.2.1 + r.2.2)

/-- Nothing of a gather is left to run: its fibres, its copies, the matrix instructions on its bytes. -/
def State.gatherIdle (s : State) (g : Nat) (ga : Gather) : Bool :=
  !(s.fab.fibres.any fun f => gatherOf f.1 == g) && !(s.ms.offers.any fun o => gatherOf (o.agent / 128) == g) &&
  !((s.copiesOf ga.core).any fun o => o.g == g) && !s.matUses ga

/-- The agent number of what the part does with the windows of a gather that leaves its core. -/
def agentGather (g : Nat) : Nat := 5 * 10 ^ 12 + g

/-- Every window of a gather is retired and written back (R122), the launch keeping the first failure; and whether one of them still
has to wait. -/
def State.endWins (s : State) (lid g set : Nat) : State × Bool :=
  (upto 8).foldl (fun (p : State × Bool) k =>
    match p.1.endWin ⟨agentGather g, g, set, none⟩ k with
    | (s, none) => (s, true)
    | (s, some e) => (s.noteError lid e, p.2)) (s, false)

/-- The bindings that name a gather become none (R349). -/
def State.unbind (s : State) (gid : Nat) : State :=
  { s with mat := { s.mat with seqs := kvMap (fun _ q => { q with binds := kvFilter (fun _ x => x != gid) q.binds }) s.mat.seqs } }

/-- A gather's slots, bytes, outstanding producers, fills and entries go. -/
def State.removeGather (s : State) (g : Nat) (ga : Gather) : State :=
  let s := (s.clearAlloc ga).unbind ga.gid
  let s := { s with
    fab := { s.fab with gathers := kvDel g s.fab.gathers, prods := kvFilter (fun _ p => gatherOf p.f != g) s.fab.prods }
    ms := { s.ms with
      fills := s.ms.fills.filter fun f => f.g != g
      l2 := kvMap (fun _ c => { c with win := c.win.filter fun w => w.1 != g }) s.ms.l2 } }
  s.trimSets ga.core

/-- A gather's exit drains its die's holders (R181): it has made bounded additions, and its launch is drained. -/
def State.exitDrains (s : State) (ga : Gather) : Bool := ga.offered && (match s.launch? ga.lid with
  | some l => l.draining
  | none => false)

/-- A gather exits: its windows are written back, its stores drained, its banks freed, its launch's counter falls. It waits for the
host (R70) and for the lines that their circuits hold back (R97). -/
def State.exitGather (s : State) (g : Nat) : State :=
  match s.gather? g with
  | none => s
  | some ga =>
    let set := match s.launch? ga.lid with
      | some l => s.setOf l.job
      | none => 0
    let s := { s with cur := .gather g }
    let (s, waits) := s.endWins ga.lid g set
    let s := s.drainSome ga.core []
    if waits || s.undrained ga.core [] then s
    else (s.removeGather g ga).modLaunch ga.lid fun l => { l with left := l.left - 1 }

/-- GATHER_EXIT (R122): the holders drain first, as their circuits let them (R97). -/
def execGatherExit (g : Nat) (s : State) : Result :=
  .next (match s.gather? g with
    | none => s
    | some ga =>
      if !s.gatherIdle g ga then s
      else if s.exitDrains ga then
        let s := State.drainDie { s with cur := .gather g } (dieOfCore ga.core)
        if s.drainedDie (dieOfCore ga.core) then s.exitGather g else s
      else s.exitGather g)

/-! ## Launch and job completion (R401) -/

/-- A launch is over. -/
def State.launchOver (s : State) (lid : Nat) (l : Launch) : Bool :=
  if l.st == .running then
    l.left == 0 && (s.gathersOf lid).isEmpty && s.programsOver lid && !l.checkpoint && !l.killed && (kvGet lid s.disp.saved).isNone &&
      !(s.ms.posted.any fun p => p.set == s.setOf l.job) && !(s.ms.offers.any fun o => o.set == s.setOf l.job)
  else l.status != 0 && l.st != .complete && !l.checkpoint

/-- LAUNCH_COMPLETION (R401): the release at system scope has nothing left to write, and the records are written. -/
def execLaunchCompletion (lid : Nat) (s : State) : Result :=
  .next (match s.launch? lid with
    | none => s
    | some l => if s.launchOver lid l then (s.finishLaunch lid).progress else s)

/-- JOB_CLOSE (R401): firmware closes a job. -/
def execJobClose (job : Nat) (s : State) : Result :=
  .next (match kvGet job s.disp.jobs with
    | none => s
    | some j => { s with disp := { s.disp with jobs := kvSet job { j with closing := true } s.disp.jobs } }.checkJob job)

end Sys2Proof.Machine
end

