-- ==== Sys2Proof/Machine/Rendezvous.lean ====
section
/-! DEFINITION. EFORK, the two forms of RDV, and the start of a sequencer's program (R157, R158, R276, R277, R342, R349,
R473). -/
namespace Sys2Proof.Machine

/-- A sequencer that has run nothing. -/
def newSeq : Seq where
  run := false
  halted := false
  pc := 0
  regs := []
  stack := []
  lid := 0
  job := 0
  ctx := 0
  binds := []
  held := []
  startq := []
  mats := []
  rdv := []
  stage := 0
  met := []
  stop := false
  stall := 0

/-- A cluster's sequencer. -/
def State.seqOf (s : State) (cl : Nat) : Seq := (s.seq? cl).getD newSeq

/-- The resident gather with a GID, on a core of a cluster. -/
def State.gatherByGid (s : State) (cl gid : Nat) : Option (Nat × Gather) :=
  s.fab.gathers.find? fun g => g.2.gid == gid && clOfCore g.2.core == cl

/-- A fibre's launch starts no program any more: it is cancelled or killed (R404 step 3, R419). -/
def State.startsOver (s : State) (f : Nat) : Bool := (s.launchOf f).any fun l => (l.cancelled && !l.checkpoint) || l.killed

/-- EFORK at the head of the queue: the release of R158 attaches to a queued request only. The failure of a load that the release
follows may have cancelled the launch. -/
def eforkPost (f : Nat) (_ : Fibre) (p : PostOp) (s : State) : Result :=
  let cl := clOfCore (coreOf f)
  if 8 ≤ (s.seqOf cl).startq.length || s.startsOver f then .next (s.donePost f p 1)
  else match s.gather? (gatherOf f) with
    | none => .fault .noAgent
    | some g =>
      let s := (s.performLoads f).drainSome (coreOf f) []
      if !s.atHeadOf f p || s.undrained (coreOf f) [] then .next s
      else if s.startsOver f then .next (s.donePost f p 1)
      else
        let q := s.seqOf cl
        let r : StartReq := ⟨p.a, p.b, g.lid, s.jobOf f, g.ctx, coreOf f % 4, g.gid⟩
        .next ((s.setSeq cl { q with startq := q.startq ++ [r] }).donePost f p 0)

/-- EFORK (R276). -/
def execEfork (d : Dest) (a b : Operand) (s : State) : Result :=
  afterCommit s (.efork d a b) [a, b] (some d) true eforkPost

/-- A program as it starts (R342). -/
def Seq.start (q : Seq) (r : StartReq) (bound : Bool) : Seq :=
  { q with
    run := true, halted := false, pc := r.addr, regs := [(64, r.arg)], stack := [], lid := r.lid, job := r.job, ctx := r.ctx
    binds := if bound then [(r.core, r.gid)] else [], held := [], startq := q.startq.tail, stage := 0, met := [], stop := false, stall := 0 }

/-- The programs of a launch are to be saved (R370): it is being checkpointed (R420), or its last gather has left it in a drain
(R419). -/
def State.saving (s : State) (lid : Nat) : Bool := match s.launch? lid with
  | some l => l.checkpoint || l.slice || (l.draining && (s.gathersOf lid).isEmpty)
  | none => false

/-- SEQUENCER_PROGRAM_START (R342): the oldest request begins once no program runs, in a context that is enabled (R43). -/
def execSequencerProgramStart (cl : Nat) (s : State) : Result :=
  .next (match s.seq? cl with
    | none => s
    | some q => match q.startq with
      | [] => s
      | r :: _ => if q.run || !q.mats.isEmpty || s.saving r.lid || !(ctxOf s r.ctx).en then s
        else s.setSeq cl (q.start r (s.gatherByGid cl r.gid).isSome))

/-- A fibre's RDV: its release, then its place in the queue; it is taken by the sequencer (R277). -/
def rdvPost (n : Nat) (f : Nat) (x : Fibre) (p : PostOp) (s : State) : Result :=
  let cl := clOfCore (coreOf f)
  if x.stage ≠ 0 || 1024 ≤ (kvGetD n [] (s.seqOf cl).rdv).length then .next s
  else
    let s := (s.performLoads f).drainSome (coreOf f) []
    if !s.atHeadOf f p || s.undrained (coreOf f) [] then .next s
    else
    let q := s.seqOf cl
    let l := kvGetD n [] q.rdv
    .next ((s.setSeq cl { q with rdv := kvSet n (l ++ [f]) q.rdv }).setStage f 5)

/-- RDV of a fibre (R277). -/
def execRdv (n : BitVec 7) (s : State) : Result :=
  afterCommit s (.rdv n) [] none true (rdvPost n.toNat)

/-- A taken fibre goes on: its acquire, and the end of its RDV. -/
def State.releaseRdv (s : State) (f : Nat) : State := (s.acquireDrop f []).popPost f

/-- The binding that each core takes from the fibres taken: the gather of the oldest one (R349). -/
def State.bindTaken (s : State) (q : Seq) (fs : List Nat) : Seq :=
  { q with binds := (upto 4).foldl (fun b c => match fs.find? fun f => coreOf f % 4 == c with
    | some f => (match s.gather? (gatherOf f) with
      | some g => kvSet c g.gid b
      | none => b)
    | none => b) q.binds }

/-- RDV of a sequencer (R277, R357): it waits for its issued instructions and for enough fibres of its launch, which its cycles
are counted for (R379). -/
def execSequencerRdv (a : Operand) (n : BitVec 7) (s : State) : Result :=
  match s.cur with
  | .seq cl => (match s.seq? cl with
    | none => .fault .noAgent
    | some q =>
      let c := (q.read a).toNat
      if 1024 < c then illegalSeq s cl
      else if !q.mats.isEmpty || s.offering (agentSeq cl) then .next (s.setSeq cl { q with stall := 3 })
      else
        let l := kvGetD n.toNat [] q.rdv
        let mine := (l.filter fun f => match s.gather? (gatherOf f) with
          | some g => g.lid == q.lid
          | none => false).take c
        if mine.length < c then .next (s.setSeq cl { q with stall := 3 })
        else
          let q := { s.bindTaken q mine with rdv := kvSet n.toNat (l.filter fun f => !mine.contains f) q.rdv }
          let s := s.setSeq cl (q.past (1 + litCount [a]))
          .next (mine.foldl (fun s f => s.releaseRdv f) s))
  | _ => .fault .noAgent

end Sys2Proof.Machine
end

