-- ==== Sys2Proof/Machine/Engine.lean ====
section
/-! DEFINITION. What a matrix engine computes (R200 to R202, R351 to R353, R361 to R366) and the image of a tile (R369). -/
namespace Sys2Proof.Machine

/-! ## Operands (R189, R190, R191, R352, R353) -/

/-- Formats that may be operands of an MMA. -/
def matFmtOk (fmt : Nat) : Bool := decide (2 ≤ fmt) && decide (fmt ≤ 14)
/-- The integer group. -/
def matInt (fmt : Nat) : Bool := fmt == 6 || fmt == 7
/-- K of a format. -/
def matK (fmt : Nat) : Nat := if fmt = 2 ∨ fmt = 3 then 128 else if fmt = 7 ∨ fmt = 12 then 512 else 256
/-- Bits of an element that is not of LC2. -/
def matBits (fmt : Nat) : Nat :=
  if fmt = 2 ∨ fmt = 3 then 16 else if fmt = 7 ∨ fmt = 12 then 4 else if fmt = 10 ∨ fmt = 11 then 6 else 8
/-- Stored rows and the elements of each. -/
def matRows (fmt : Nat) (along : Bool) : Nat := if along then 128 else matK fmt
def matElems (fmt : Nat) (along : Bool) : Nat := if along then matK fmt else 128
/-- Bytes of a stored row. -/
def matRowBytes (fmt : Nat) (along : Bool) : Nat :=
  if fmt = 14 then matElems fmt along / 64 * 17 else matElems fmt along * matBits fmt / 8
/-- Scale rows and the bytes of each (R353). -/
def scaleRows (fmt : Nat) (along : Bool) : Nat := if isScaled fmt then (if along then 128 else matK fmt / 32) else 0
def scaleRowBytes (fmt : Nat) (along : Bool) : Nat := if along then matK fmt / 32 else 128

/-- The codes of n elements of w bits (R189). -/
def codesOf (w n : Nat) (bs : List Byte) : List Nat :=
  let x := leNat bs
  (upto n).map fun k => x / 2 ^ (w * k) % 2 ^ w

/-- The value of an element's code, scales apart. -/
def codeValue (fmt c : Nat) : FV :=
  if fmt = 13 then (FV.ofInt (toSigned 8 c)).mul (.fin false 1 (-6)) else (pageFmt fmt).decode c

/-- The weights of LC2 blocks (R191). -/
def lc2Row : Nat → List Byte → List FV
  | 0, _ => []
  | n + 1, bs =>
    let y := (bs.getD 16 0).toNat
    (upto 64).map (fun k => lc2Weight y (leNat [bs.getD (k / 8 * 2) 0, bs.getD (k / 8 * 2 + 1) 0]) (k % 8)) ++ lc2Row n (bs.drop 17)

/-- The values of a stored row. -/
def rowValues (fmt : Nat) (along : Bool) (bs : List Byte) : List FV :=
  if fmt = 14 then lc2Row (matElems fmt along / 64) bs
  else (codesOf (matBits fmt) (matElems fmt along) bs).map (codeValue fmt)

/-- Columns of rows. -/
def columns {α : Type} (d : α) (n : Nat) (rows : List (List α)) : List (List α) := (upto n).map fun j => rows.map fun r => r.getD j d

/-- The vectors along k of an operand: one for each row of A, or each column of B, with their block scales. -/
def MatData.vectors (m : MatData) : List (List FV) :=
  let rs := m.rows.map (rowValues m.fmt m.along)
  let vs := if m.along then rs else columns FV.nan 128 rs
  if isScaled m.fmt then
    let sc := if m.along then m.scales else columns (0 : Byte) 128 m.scales
    (vs.zip sc).map fun p => (p.1.zipIdx).map fun x => (e8m0 (p.2.getD (x.2 / 32) 0).toNat).mul x.1
  else vs

/-- The same of an integer operand (R202). -/
def MatData.ints (m : MatData) : List (List Int) :=
  let rs := m.rows.map fun b => (codesOf (matBits m.fmt) (matElems m.fmt m.along) b).map (toSigned (matBits m.fmt))
  if m.along then rs else columns 0 128 rs

/-! ## Dot products (R200, R202) -/

/-- A number cut toward zero to units of 2^q. -/
def cutAt (q : Int) : FV → Int
  | .fin neg m e =>
    let n : Nat := if q ≤ e then m * 2 ^ (e - q).toNat else m / 2 ^ (q - e).toNat
    if neg then -(n : Int) else n
  | _ => 0

/-- The largest exponent of the numbers that are not zero. -/
def topExp (ps : List FV) : Option Int :=
  ps.foldl (fun a p => match p with
    | .fin _ 0 _ => a
    | .fin _ m e => (match a with
      | none => some (ilog m e)
      | some x => some (max x (ilog m e)))
    | _ => a) none

/-- The sum of one group of products, rounded to FP32. -/
def groupSum (ps : List FV) : FV :=
  if ps.any FV.isNan || (ps.any (· == .inf true) && ps.any (· == .inf false)) then .nan
  else if ps.any (· == .inf true) then .inf true
  else if ps.any (· == .inf false) then .inf false
  else match topExp ps with
    | none => .fin (ps.all fun p => p.negative) 0 0
    | some e =>
      let q := e - 26
      f32 (toF32 (FV.ofDy ⟨(ps.map (cutAt q)).foldl (· + ·) 0, q⟩ false))

/-- An element of an MMA: groups of sixteen products added to the accumulator in order. -/
def dotFloat (acc : Word) (a b : List FV) : Word :=
  let ps := (a.zip b).map fun p => p.1.mul p.2
  (upto (ps.length / 16)).foldl (fun acc g => toF32 ((f32 acc).add (groupSum ((ps.drop (16 * g)).take 16)))) acc

/-- An element of an integer MMA. -/
def dotInt (acc : Word) (a b : List Int) : Word :=
  acc + BitVec.ofInt 32 ((a.zip b).foldl (fun x p => x + p.1 * p.2) 0)

/-- An MMA on the rows of a tile. -/
def mmaTile (int : Bool) (old : List (List Word)) (a b : MatData) : List (List Word) :=
  if int then
    let bs := b.ints
    (old.zip a.ints).map fun r => (r.1.zip bs).map fun c => dotInt c.1 r.2 c.2
  else
    let bs := b.vectors
    (old.zip a.vectors).map fun r => (r.1.zip bs).map fun c => dotFloat c.1 r.2 c.2

/-! ## MDELTA and MSCAN (R362 to R365) -/

/-- FP32 values of BF16 elements. -/
def bf16Row (n : Nat) (bs : List Byte) : List Word := (codesOf 16 n bs).map fun c => toF32 (Sys2Proof.Machine.bf16.decode c)
def f32Row (n : Nat) (bs : List Byte) : List Word := (codesOf 32 n bs).map (BitVec.ofNat 32)

/-- S·x. -/
def tileTimes (s : List (List Word)) (x : List Word) : List Word :=
  let xs := x.map f32
  s.map fun r => dotFloat 0 (r.map f32) xs

/-- One token of MDELTA: the state after it and its readout. -/
def deltaToken (ro : Bool) (st : List (List Word)) (rec : List Byte) : List (List Word) × List Word :=
  let k := bf16Row 128 rec
  let v := bf16Row 128 (rec.drop 256)
  let q := bf16Row 128 (rec.drop 512)
  let al := f32 (BitVec.ofNat 32 (leNat ((rec.drop 768).take 4)))
  let be := f32 (BitVec.ofNat 32 (leNat ((rec.drop 772).take 4)))
  let u := tileTimes st k
  let o := tileTimes st q
  let st2 := (st.zip (v.zip u)).map fun r =>
    let e := f32 (toF32 (be.mul (f32 (toF32 ((f32 r.2.1).sub (f32 (toF32 (al.mul (f32 r.2.2)))))))))
    (r.1.zip k).map fun c => toF32 ((al.mul (f32 c.1)).add (e.mul (f32 c.2)))
  (st2, if ro then tileTimes st2 q else o)

/-- MSCAN over its rows: the tile's rows, from the first. -/
def scanRun : List (List Byte) → List Word → List (List Word) → List (List Word)
  | [], _, rows => rows
  | _, _, [] => []
  | x :: xs, h, r :: rs =>
    let h := (h.zip ((bf16Row 128 x).zip r)).map fun c => toF32 (((f32 c.2.1).mul (f32 c.1)).add (f32 c.2.2))
    h :: scanRun xs h rs

/-! ## MOUT and MLDA (R366) -/

/-- Bytes of a stored element. -/
def xfmtBytes (x : Nat) : Nat := if x ≤ 1 then 4 else if x ≤ 3 then 2 else 1

/-- A value rounded to INT8, saturating; a NaN gives 0. -/
def toInt8 : FV → Nat
  | .nan => 0
  | .inf n => wrap 8 (if n then -128 else 127)
  | .fin n m e =>
    let x := roundInt .rne n m e
    wrap 8 (clamp (-128) 127 (if n then -(x : Int) else x))

/-- What MOUT stores for an element. -/
def moutCode (int : Bool) (x : Nat) (w : Word) : Nat :=
  let v : FV := if int then FV.ofInt w.toInt else f32 w
  match x with
  | 0 => w.toNat
  | 1 => if int then (toF32 v).toNat else w.toNat
  | 2 => Sys2Proof.Machine.fp16.round .rne v
  | 3 => Sys2Proof.Machine.bf16.round .rne v
  | 4 => e4m3.round .rne v
  | 5 => e5m2.round .rne v
  | _ => if int then wrap 8 (clamp (-128) 127 w.toInt) else toInt8 v

/-- The rows that MOUT stores. -/
def moutRows (int tr : Bool) (x : Nat) (tile : List (List Word)) : List (List Byte) :=
  (if tr then columns 0 128 tile else tile).map fun r => r.flatMap fun w => leBytes (xfmtBytes x) (moutCode int x w)

/-- The tile that MLDA forms. -/
def mldaTile (tr : Bool) (x : Nat) (rows : List (List Byte)) : List (List Word) :=
  let t := rows.map fun b => (codesOf (8 * xfmtBytes x) 128 b).map fun c => match x with
    | 2 => toF32 (Sys2Proof.Machine.fp16.decode c)
    | 3 => toF32 (Sys2Proof.Machine.bf16.decode c)
    | _ => BitVec.ofNat 32 c
  if tr then columns 0 128 t else t

/-! ## Tiles -/

/-- The rows of a tile. -/
def State.tileRows (s : State) (cl id : Nat) : List (List Word) :=
  let base := (32 * cl + id) * 16384
  let mine := s.mat.tiles.filter fun e => e.1 / 16384 == 32 * cl + id
  (upto 128).map fun i =>
    let row := mine.filter fun e => (e.1 - base) / 128 == i
    (upto 128).map fun j => kvGetD (base + 128 * i + j) 0 row

/-- A whole tile written. -/
def State.putTile (s : State) (cl id : Nat) (rows : List (List Word)) : State :=
  let base := (32 * cl + id) * 16384
  let new : KV Word := (rows.flatten.zipIdx.map fun w => (base + w.2, w.1)).filter fun e => e.2 != 0
  { s with mat := { s.mat with tiles :=
      (s.mat.tiles.filter fun e => e.1 < base) ++ new ++ s.mat.tiles.filter fun e => base + 16384 ≤ e.1 } }

/-- A tile of +0 or integer 0. -/
def zeroTile : List (List Word) := List.replicate 128 (List.replicate 128 0)

/-! ## CRC-32C and the spill image (R369) -/

/-- One bit of CRC-32C, reflected. -/
def crcBit (c : Word) : Word := if c.getLsbD 0 then (c >>> 1) ^^^ 0x82F63B78#32 else c >>> 1
def crcByte (c : Word) (b : Byte) : Word :=
  let c := c ^^^ b.zeroExtend 32
  crcBit (crcBit (crcBit (crcBit (crcBit (crcBit (crcBit (crcBit c)))))))
/-- CRC-32C. -/
def crc32c (bs : List Byte) : Word := ~~~(bs.foldl crcByte 0xFFFFFFFF#32)

/-- The first 60 bytes of an image's header. -/
def imageHead (int : Bool) (kind job : Nat) (tokens : Dword) : List Byte :=
  leBytes 8 (0x4A33A11C + kind * 2 ^ 32 + (if int then 0 else 1) * 2 ^ 40) ++ leBytes 8 (128 + 128 * 2 ^ 16 + job * 2 ^ 32) ++
  leBytes 8 tokens.toNat ++ leBytes 32 0 ++ leBytes 4 0

/-- The image of a tile. -/
def imageBytes (int : Bool) (kind job : Nat) (tokens : Dword) (rows : List (List Word)) : List Byte :=
  let head := imageHead int kind job tokens
  let data := rows.flatMap fun r => r.flatMap fun w => leBytes 4 w.toNat
  head ++ leBytes 4 (crc32c (head ++ data)).toNat ++ data

/-- An image as read: its element type, its TOKENS and its rows; otherwise the cause of its failure. -/
def readImage (job : Nat) (bs : List Byte) : Except Nat (Bool × Dword × List (List Word)) :=
  let d (k : Nat) : Nat := leNat ((bs.drop (8 * k)).take 8)
  let data := bs.drop 64
  if bits (d 0) 31 0 != 0x4A33A11C || !(bits (d 0) 39 32 == 1 || bits (d 0) 39 32 == 2) || 1 < bits (d 0) 47 40 ||
      bits (d 0) 63 48 != 0 || bits (d 1) 15 0 != 128 || bits (d 1) 31 16 != 128 || bits (d 1) 63 48 != 0 || d 3 != 0 || d 4 != 0 ||
      d 5 != 0 || d 6 != 0 || bits (d 7) 31 0 != 0 || bits (d 7) 63 32 != (crc32c (bs.take 60 ++ data)).toNat then .error 0x0D
  else if bits (d 1) 47 32 != job then .error 0x09
  else
    let ws := (wordsOfBytes data)
    .ok (bits (d 0) 47 40 == 0, BitVec.ofNat 64 (d 2), (upto 128).map fun i => (ws.drop (128 * i)).take 128)

end Sys2Proof.Machine
end

