-- ==== Sys2Proof/Machine/Matrix.lean ====
section
/-! DEFINITION. The MAT instructions of sequencer code (R348 to R372, R473, R476). -/
namespace Sys2Proof.Machine

/-! ## Locators (R348, R473) -/

/-- Bytes that a locator names, as core and partition offset. -/
def State.locate (s : State) (cl : Nat) (q : Seq) (loc : Dword) (off n : Nat) : Except Bad (Nat × Nat) :=
  let x := loc.toNat
  let bad : Except Bad (Nat × Nat) := .error ⟨0x09, x⟩
  let o := x % 2 ^ 21 + off
  let c := bits x 22 21
  if x / 2 ^ 24 ≠ 0 then bad
  else if bit x 23 then
    match (kvGet c q.binds).bind (s.gatherByGid cl) with
    | some (_, g) => if o + n ≤ g.spSize && g.ctx == q.ctx then .ok (g.core, g.spBase + o) else bad
    | none => bad
  else
    let core := 4 * cl + c
    let units := addrs (o / 1024) ((o + n + 1023) / 1024 - o / 1024)
    if units.all fun u => (s.residents core).any fun g => g.2.ctx == q.ctx && decide (g.2.spBase ≤ u * 1024) && decide (u * 1024 < g.2.spBase + g.2.spSize)
    then .ok (core, o) else bad

/-- A range of scratchpad bytes: core, first byte, length. -/
abbrev Span := Nat × Nat × Nat

/-- Rows of bytes from a locator on. -/
def State.locRows (s : State) (cl : Nat) (q : Seq) (loc : Dword) (pitch len : Nat) : List Nat → Except Bad (List Span)
  | [] => .ok []
  | i :: r => match s.locate cl q loc (i * pitch) len, s.locRows cl q loc pitch len r with
    | .error b, _ => .error b
    | _, .error b => .error b
    | .ok (c, o), .ok xs => .ok ((c, o, len) :: xs)

/-- The bytes of a span. -/
def State.spanBytes (s : State) (p : Span) : List Byte := (addrs p.2.1 p.2.2).map (s.spByte p.1)

/-! ## Window words of spans (R350, R476) -/

/-- The words of a span, as gather and allocation word. -/
def State.spanWords (s : State) (p : Span) : List (Nat × Nat) :=
  if p.2.2 = 0 then []
  else (addrs (p.2.1 / 4) ((p.2.1 + p.2.2 + 3) / 4 - p.2.1 / 4)).filterMap fun w => match s.gatherAt p.1 (4 * w) with
    | some (g, ga) => some (g, w - ga.spBase / 4)
    | none => none

/-- The invalid window words of spans are filled, with q = 7; the first failure names the global address. While a fill waits for
the host the move is held back (R70). -/
def State.fillWords (s : State) (unit : Nat) : List (Nat × Nat) → State × Option Bad
  | [] => (s, none)
  | (g, w) :: r =>
    match s.gather? g with
    | none => s.fillWords unit r
    | some ga =>
      if (ga.winAt (4 * w)).isNone || (ga.word w).v then s.fillWords unit r
      else match s.fillNow (agentVirt unit) unit g (w / 32) 7 with
        | (s, some none) => (s.holdBack, none)
        | (s, some (some b)) => (s, some ⟨b.cause, (ga.backing (4 * w)).getD 0⟩)
        | (s, none) => s.fillWords unit r
def State.fillSpans (s : State) (unit : Nat) (ps : List Span) : State × Option Bad := s.fillWords unit (ps.flatMap s.spanWords)

/-- The backing address of the first byte that a span writes in each window word. -/
def State.spanBacking (s : State) (p : Span) : List Nat :=
  if p.2.2 = 0 then []
  else (addrs (p.2.1 / 4) ((p.2.1 + p.2.2 + 3) / 4 - p.2.1 / 4)).filterMap fun w =>
    let x := max (4 * w) p.2.1
    (s.gatherAt p.1 x).bind fun g => g.2.backing (x - g.2.spBase)
/-- The first of some rising addresses in each page, in falling order. -/
def pageFirsts (vas : List Nat) : List Nat :=
  vas.foldl (fun l va => match l with
    | x :: _ => if x / 2 ^ 14 = va / 2 ^ 14 then l else va :: l
    | [] => [va]) []

/-- The pages that back window words of a result are translated for W; the lowest failing address (R476). -/
def State.checkResult (s : State) (unit ctx : Nat) (ps : List Span) : State × Option Bad :=
  let vas := (pageFirsts (sortBy (fun a b => decide (a ≤ b)) (ps.flatMap s.spanBacking))).reverse
  vas.foldl (fun (p : State × Option Bad) va =>
    match p.2 with
    | some _ => p
    | none => match p.1.xlate unit ctx va needW (Leaf.permits [va]) with
      | (s, .error b) => (s, some ⟨b.cause, va⟩)
      | (s, .ok l) => (s, if l.permits [va] then none else some ⟨0x09, va⟩)) (s, none)

/-- A result's bytes are written: each gather's as one write of its allocation (R350). -/
def State.writeSpan (s : State) (p : Span) (bs : List Byte) : State :=
  let cs := (addrs p.2.1 p.2.2).zip bs
  let gs := (cs.filterMap fun c => (s.gatherAt p.1 c.1).map (·.1)).eraseDups
  gs.foldl (fun s g => match s.gather? g with
    | some ga => s.scratchWrite g ((cs.filter fun c => decide (ga.spBase ≤ c.1) && decide (c.1 < ga.spBase + ga.spSize)).map fun c => (c.1 - ga.spBase, c.2))
    | none => s) s

/-! ## Issue (R357) -/

/-- Two spans share a 128-byte unit. -/
def spanMeet (a b : Span) : Bool :=
  a.1 == b.1 && a.2.2 != 0 && b.2.2 != 0 && decide (a.2.1 / 128 ≤ (b.2.1 + b.2.2 - 1) / 128) && decide (b.2.1 / 128 ≤ (a.2.1 + a.2.2 - 1) / 128)
def spansMeet (a b : List Span) : Bool := a.any fun x => b.any fun y => spanMeet x y

/-- The ranges of an instruction must wait for those of an earlier one. -/
def MatOp.hazard (m : MatOp) (reads writes : List Span) : Bool :=
  spansMeet writes (m.reads ++ m.writes) || spansMeet reads m.writes

/-- Instructions that an engine has queued. -/
def Seq.queued (q : Seq) (e : Nat) : Nat := (q.mats.filter fun m => m.engines.contains e).length

/-- The engine of a tile. -/
def engineOf (id : Nat) : Nat := id / 16

/-- The tile may be used by the program (R356). -/
def State.tileMine (s : State) (cl id lid : Nat) : Bool :=
  let o := s.own? cl id
  (o.st == .active || o.st == .pinned) && o.launch == lid

/-- A MAT instruction is met only in sequencer code. -/
def onSeq (s : State) (k : Nat → Seq → Result) : Result :=
  match s.cur with
  | .seq cl => (match s.seq? cl with
    | some q => k cl q
    | none => .fault .noAgent)
  | _ => .fault .noAgent

/-- Words of a MAT instruction: its first, and its literals. -/
def matWords (xs : List Operand) : Nat := 1 + litCount xs

/-- A value whose reserved bits are set (R359). -/
def failVal (s : State) (cl : Nat) (x : Dword) : Result := failSeq s cl ⟨0x01, x.toNat⟩

/-- An instruction whose checks have passed is issued: it waits for room on its engines and for the ranges of earlier
instructions; its window words are filled, and its operands read. -/
def issueMat (s : State) (cl : Nat) (q : Seq) (words : Nat) (op : Instr) (ctl : Dword) (engines tiles : List Nat)
    (reads writes : List Span) (data : State → List MatData) (after : List MatData → State → Seq → State × Seq) : Result :=
  if engines.any fun e => decide (8 ≤ q.queued e) then .next (s.setSeq cl { q with stall := 2 })
  else if q.mats.any fun m => m.hazard reads writes then .next s
  else match s.checkResult (2000 + cl) q.ctx writes with
    | (s, some b) => failSeq s cl b
    | (s, none) => match s.fillSpans (2000 + cl) reads with
      | (s, some b) => failSeq s cl b
      | (s, none) =>
        let ds := data s
        let int32 := (s.own? cl (tiles.headD 0)).int32
        let (s, q) := after ds s q
        let int32 := match op with
          | .mma _ _ _ => (s.own? cl (tiles.headD 0)).int32
          | _ => int32
        let m : MatOp := ⟨op, ctl, int32, engines, tiles, ds, reads, writes⟩
        .next ((s.count (1000 + cl) q.ctx 1).seqDone cl { q with mats := q.mats ++ [m] } words)

/-! ## MMA (R351 to R353, R360, R361) -/

/-- A tile descriptor, read at a locator. -/
structure TileDesc where
  loc : Dword
  data : Dword
  pitch : Nat
  fmt : Nat
  scale : Dword
  spitch : Nat
  deriving DecidableEq, Repr

/-- A descriptor is read; the checks of R351 that do not need its format. -/
def State.readTileDesc (s : State) (cl : Nat) (q : Seq) (loc : Dword) (fov : Option Nat) : State × Except Bad (TileDesc × Span) :=
  if loc.toNat % 2 ^ 21 % 32 ≠ 0 then (s, .error ⟨0x0B, loc.toNat⟩)
  else match s.locate cl q loc 0 32 with
    | .error b => (s, .error b)
    | .ok (c, o) =>
      match s.fillSpans (2000 + cl) [(c, o, 32)] with
      | (s, some b) => (s, .error b)
      | (s, none) =>
        let bs := s.spanBytes (c, o, 32)
        let d (k : Nat) : Nat := leNat ((bs.drop (8 * k)).take 8)
        if bits (d 0) 63 24 != 0 || bits (d 1) 63 52 != 0 || bits (d 1) 27 0 != 0 || bits (d 2) 63 24 != 0 || bits (d 3) 63 52 != 0 ||
            bits (d 3) 31 0 != 0 then (s, .error ⟨0x01, loc.toNat⟩)
        else (s, .ok (⟨loc, BitVec.ofNat 64 (d 0), bits (d 1) 51 32, fov.getD (bits (d 1) 31 28), BitVec.ofNat 64 (d 2), bits (d 3) 51 32⟩, (c, o, 32)))

/-- A descriptor's remaining checks and the spans of its rows and scales; none where its format is no operand's. -/
def State.operandSpans (s : State) (cl : Nat) (q : Seq) (d : TileDesc) (along : Bool) : Except (Option Bad) (List Span × List Span) :=
  if !matFmtOk d.fmt || (d.fmt == 14 && !along) then .error none
  else
    let n := matRowBytes d.fmt along
    if d.pitch < n || d.pitch % 16 ≠ 0 then .error (some ⟨0x01, d.loc.toNat⟩)
    else if d.data.toNat % 2 ^ 21 % 16 ≠ 0 then .error (some ⟨0x0B, d.loc.toNat⟩)
    else match s.locRows cl q d.data d.pitch n (upto (matRows d.fmt along)),
        s.locRows cl q d.scale d.spitch (scaleRowBytes d.fmt along) (upto (scaleRows d.fmt along)) with
      | .error b, _ => .error (some b)
      | _, .error b => .error (some b)
      | .ok r, .ok sc => .ok (r, sc)

/-- An operand of an MMA as planned: its format, its layout, its spans and its descriptor's. -/
structure Planned where
  fmt : Nat
  along : Bool
  rows : List Span
  scales : List Span
  desc : Span
  deriving DecidableEq, Repr

/-- The operand at a descriptor's locator. -/
def State.planOperand (s : State) (cl : Nat) (q : Seq) (loc : Dword) (fov : Option Nat) (along : Bool) : State × Except (Option Bad) Planned :=
  match s.readTileDesc cl q loc fov with
  | (s, .error b) => (s, .error (some b))
  | (s, .ok (d, p)) => (s, match s.operandSpans cl q d along with
    | .error e => .error e
    | .ok (r, sc) => .ok ⟨d.fmt, along, r, sc, p⟩)

/-- An operand as the engine reads it. -/
def Planned.read (p : Planned) (s : State) : MatData := ⟨p.fmt, p.along, p.rows.map s.spanBytes, p.scales.map s.spanBytes⟩
/-- The spans that it reads. -/
def Planned.spans (p : Planned) : List Span := p.desc :: p.rows ++ p.scales

/-- Where B comes from: a held copy, or an operand. -/
inductive BFrom where
  | held (m : MatData)
  | new (p : Planned)
  deriving DecidableEq, Repr
def BFrom.fmt : BFrom → Nat
  | .held m => m.fmt
  | .new p => p.fmt
def BFrom.spans : BFrom → List Span
  | .held _ => []
  | .new p => p.spans
def BFrom.read (s : State) : BFrom → MatData
  | .held m => m
  | .new p => p.read s

/-- Several operands A, one per engine, from consecutive descriptors. -/
def State.planAs (s : State) (cl : Nat) (q : Seq) (loc : Dword) (fov : Option Nat) (along : Bool) : Nat → State × Except (Option Bad) (List Planned)
  | 0 => (s, .ok [])
  | n + 1 => match s.planOperand cl q loc fov along with
    | (s, .error e) => (s, .error e)
    | (s, .ok p) => match s.planAs cl q (loc + 32) fov along n with
      | (s, .error e) => (s, .error e)
      | (s, .ok ps) => (s, .ok (p :: ps))

/-- The B operand (R361): held, held before a restore and read again, or named. One held before a restore is read at its
descriptor's locator at every REUSE, in the format and layout that the REUSE itself names (log entry 88). -/
def State.planB (s : State) (cl : Nat) (q : Seq) (c : Nat) (e : Nat) (b : Dword) : State × Except (Option Bad) BFrom :=
  let fov := if bit c 11 then some (bits c 19 16) else none
  let fresh (s : State) (loc : Dword) : State × Except (Option Bad) BFrom := match s.planOperand cl q loc fov (bit c 9) with
    | (s, .error x) => (s, .error x)
    | (s, .ok p) => (s, .ok (.new p))
  if bit c 7 then
    match kvGet e q.held with
    | none => (s, .error none)
    | some h => match h.data with
      | some m => (s, .ok (.held m))
      | none => fresh s h.loc
  else fresh s b

/-- The two halves agree: one group, equal K. -/
def fmtsAgree (a b : Nat) : Bool := matInt a == matInt b && matK a == matK b

/-- A fault that names the instruction's first word, or its own. -/
def failMat (s : State) (cl : Nat) : Option Bad → Result
  | none => illegalSeq s cl
  | some b => failSeq s cl b

/-- What issue of an MMA leaves: the element type of a tile that it begins (Z), and the held copy (HOLD). -/
def mmaAfter (c : Nat) (tiles engines : List Nat) (loc : Dword) (int : Bool) (cl : Nat) (ds : List MatData) (s : State) (q : Seq) : State × Seq :=
  let s := if bit c 5 then tiles.foldl (fun s t => s.setOwn cl t { s.own? cl t with int32 := int }) s else s
  let q := if bit c 6 then { q with held := engines.foldl (fun h e => kvSet e ⟨loc, ds.getLast?⟩ h) q.held } else q
  (s, q)

/-- The descriptors that an MMA reads: an operand A for each engine, and B where no copy of it is held. -/
def State.mmaDescs (s : State) (cl : Nat) (q : Seq) (c n e : Nat) (a b : Dword) : List Span :=
  let as := (upto n).map fun k => a + BitVec.ofNat 64 (32 * k)
  let bs := if bit c 7 then (match kvGet e q.held with
      | some h => if h.data.isNone then [h.loc] else []
      | none => []) else [b]
  (as ++ bs).filterMap fun loc => match s.locate cl q loc 0 32 with
    | .ok (core, o) => some (core, o, 32)
    | .error _ => none

/-- MMA's control value (R360): the tiles that it names. -/
def mmaTiles (c : Nat) : List Nat := if bit c 10 then [c % 16, 16 + c % 16] else [c % 32]

/-- MMA. MC = 1 with ID[4] = 1, which R361 forbids and for which it names no cause, is an illegal instruction, with TVAL its first
word (log entry 89). -/
def execMma (ctl a b : Operand) (s : State) : Result :=
  onSeq s fun cl q =>
    let cv := q.read ctl
    let c := cv.toNat
    let tiles := mmaTiles c
    let engines := tiles.map engineOf
    if 2 ^ 20 ≤ c then failVal s cl cv
    else if bit c 10 && bit c 4 then illegalSeq s cl
    else match tiles.find? fun t => !s.tileMine cl t q.lid with
      | some t => failSeq s cl ⟨0x14, t⟩
      | none =>
        if q.mats.any fun m => spansMeet (s.mmaDescs cl q c tiles.length (engines.headD 0) (q.read a) (q.read b)) m.writes then .next s
        else match s.planAs cl q (q.read a) (if bit c 11 then some (bits c 15 12) else none) (!bit c 8) tiles.length with
        | (s, .error e) => failMat s cl e
        | (s, .ok as) => match s.planB cl q c (engines.headD 0) (q.read b) with
          | (s, .error e) => failMat s cl e
          | (s, .ok bf) =>
            let int := matInt bf.fmt
            if (as.any fun p => !fmtsAgree p.fmt bf.fmt) || (!bit c 5 && tiles.any fun t => (s.own? cl t).int32 != int) then illegalSeq s cl
            else
              let loc := if bit c 7 then ((kvGet (engines.headD 0) q.held).map (·.loc)).getD 0 else q.read b
              issueMat s cl q (matWords [a, b]) (.mma ctl a b) cv engines tiles (as.flatMap Planned.spans ++ bf.spans) []
                (fun s => as.map (fun p => p.read s) ++ [bf.read s]) (mmaAfter c tiles engines loc int cl)

/-! ## MDELTA and MSCAN (R362 to R365) -/

/-- Contiguous records from a locator. -/
def State.locRun (s : State) (cl : Nat) (q : Seq) (loc : Dword) (len n : Nat) : Except Bad (List Span) :=
  s.locRows cl q loc len len (upto n)

/-- Operand bytes as rows of no element format. -/
def rawData (ps : List Span) (s : State) : MatData := ⟨0, true, ps.map s.spanBytes, []⟩

/-- Nothing beside the issue. -/
def noAfter (_ : List MatData) (s : State) (q : Seq) : State × Seq := (s, q)

/-- MDELTA. -/
def execMdelta (ctl a b : Operand) (s : State) : Result :=
  onSeq s fun cl q =>
    let cv := q.read ctl
    let c := cv.toNat
    let t := bits c 15 8
    let id := c % 32
    if 2 ^ 16 ≤ c then failVal s cl cv
    else if t = 0 || 64 < t then illegalSeq s cl
    else if !s.tileMine cl id q.lid then failSeq s cl ⟨0x14, id⟩
    else if (s.own? cl id).int32 then illegalSeq s cl
    else match s.locRun cl q (q.read a) 784 t, if bit c 7 then .ok [] else s.locRun cl q (q.read b) (if bit c 6 then 256 else 512) t with
      | .error e, _ => failSeq s cl e
      | _, .error e => failSeq s cl e
      | .ok r, .ok w => issueMat s cl q (matWords [a, b]) (.mdelta ctl a b) cv [engineOf id] [id] r w (fun _ => []) noAfter

/-- MSCAN. A tile whose ETYPE is not 0, for which R365 names no cause, makes the instruction illegal, with TVAL its first word (log
entry 89). -/
def execMscan (ctl a b : Operand) (s : State) : Result :=
  onSeq s fun cl q =>
    let cv := q.read ctl
    let c := cv.toNat
    let t := bits c 15 8
    let id := c % 32
    if 2 ^ 16 ≤ c || bits c 7 6 != 0 then failVal s cl cv
    else if t = 0 || 128 < t then illegalSeq s cl
    else if !s.tileMine cl id q.lid then failSeq s cl ⟨0x14, id⟩
    else if (s.own? cl id).int32 then illegalSeq s cl
    else match s.locRun cl q (q.read a) 256 t, if bit c 5 then .ok [] else s.locRun cl q (q.read b) 512 1 with
      | .error e, _ => failSeq s cl e
      | _, .error e => failSeq s cl e
      | .ok r, .ok h => issueMat s cl q (matWords [a, b]) (.mscan ctl a b) cv [engineOf id] [id] (r ++ h) []
          (fun s => [rawData r s, rawData h s]) noAfter

/-! ## MOUT, MLDA and MZERO (R366) -/

/-- The checks of a MOUT or MLDA control value: its tile's id, or the failure. -/
def xferCheck (s : State) (cl : Nat) (q : Seq) (cv loc : Dword) (legal : Nat → Bool) : Except Result Nat :=
  let c := cv.toNat
  let x := bits c 8 5
  if 2 ^ 52 ≤ c || bits c 31 10 != 0 then .error (failVal s cl cv)
  else if !legal x then .error (illegalSeq s cl)
  else if bits c 51 32 % 16 ≠ 0 || bits c 51 32 < 128 * xfmtBytes x then .error (failVal s cl cv)
  else if loc.toNat % 2 ^ 21 % 16 ≠ 0 then .error (failSeq s cl ⟨0x0B, loc.toNat⟩)
  else if !s.tileMine cl (c % 32) q.lid then .error (failSeq s cl ⟨0x14, c % 32⟩)
  else .ok (c % 32)

/-- MOUT. -/
def execMout (ctl a : Operand) (s : State) : Result :=
  onSeq s fun cl q =>
    let cv := q.read ctl
    let x := bits cv.toNat 8 5
    match xferCheck s cl q cv (q.read a) (fun x => decide (x ≤ 6)) with
    | .error r => r
    | .ok id => match s.locRows cl q (q.read a) (bits cv.toNat 51 32) (128 * xfmtBytes x) (upto 128) with
      | .error e => failSeq s cl e
      | .ok w => issueMat s cl q (matWords [a]) (.mout ctl a) cv [engineOf id] [id] [] w (fun _ => []) noAfter

/-- MLDA. -/
def execMlda (ctl a : Operand) (s : State) : Result :=
  onSeq s fun cl q =>
    let cv := q.read ctl
    let x := bits cv.toNat 8 5
    match xferCheck s cl q cv (q.read a) (fun x => decide (x ≤ 3)) with
    | .error r => r
    | .ok id => match s.locRows cl q (q.read a) (bits cv.toNat 51 32) (128 * xfmtBytes x) (upto 128) with
      | .error e => failSeq s cl e
      | .ok r => issueMat s cl q (matWords [a]) (.mlda ctl a) cv [engineOf id] [id] r [] (fun s => [rawData r s])
          fun _ s q => (s.setOwn cl id { s.own? cl id with int32 := x == 0 }, q)

/-- A tile id value (R359): its id, or the failure of its reserved bits. -/
def tileId (s : State) (cl : Nat) (x : Dword) (k : Nat → Result) : Result :=
  if 32 ≤ x.toNat then failVal s cl x else k x.toNat

/-- MZERO. -/
def execMzero (a : Operand) (ty : BitVec 7) (s : State) : Result :=
  onSeq s fun cl q => tileId s cl (q.read a) fun id =>
    if !s.tileMine cl id q.lid then failSeq s cl ⟨0x14, id⟩
    else issueMat s cl q (matWords [a]) (.mzero a ty) 0 [engineOf id] [id] [] [] (fun _ => [])
      fun _ s q => (s.setOwn cl id { s.own? cl id with int32 := ty != 0 }, q)

/-! ## What the engines do (MAT_COMPLETE) -/

/-- Tokens and DIRTY of a tile after an update. -/
def State.touchTile (s : State) (cl id : Nat) (fn : Own → Own) : State := s.setOwn cl id { fn (s.own? cl id) with dirty := true }

/-- MDELTA over its records (R364): each is read once the readout of the one before it is written. -/
def State.deltaRun (s : State) (ro bf : Bool) : List Span → List Span → List (List Word) → State × List (List Word)
  | [], _, st => (s, st)
  | r :: rs, ws, st =>
    let (st, o) := deltaToken ro st (s.spanBytes r)
    let out := o.flatMap fun w => if bf then leBytes 2 (Sys2Proof.Machine.bf16.round .rne (f32 w)) else leBytes 4 w.toNat
    let s := match ws with
      | w :: _ => s.writeSpan w out
      | [] => s
    s.deltaRun ro bf rs ws.tail st

/-- The engine's part of an issued instruction. -/
def State.runMat (s : State) (cl : Nat) (m : MatOp) : State :=
  let c := m.ctl.toNat
  let id := m.tiles.headD 0
  match m.op with
  | .mma _ _ _ =>
    let b := m.data.getLastD ⟨0, true, [], []⟩
    (m.tiles.zip m.data).foldl (fun s p =>
      let old := if bit c 5 then zeroTile else s.tileRows cl p.1
      (s.putTile cl p.1 (mmaTile m.int32 old p.2 b)).touchTile cl p.1 id_) s
  | .mdelta _ _ _ =>
    let (s, st) := s.deltaRun (bit c 5) (bit c 6) m.reads m.writes (s.tileRows cl id)
    (s.putTile cl id st).touchTile cl id fun o => { o with tokens := o.tokens + BitVec.ofNat 64 (bits c 15 8) }
  | .mscan _ _ _ =>
    let h := match (m.data.getD 1 ⟨0, true, [], []⟩).rows with
      | r :: _ => f32Row 128 r
      | [] => List.replicate 128 0
    (s.putTile cl id (scanRun (m.data.getD 0 ⟨0, true, [], []⟩).rows h (s.tileRows cl id))).touchTile cl id
      fun o => { o with tokens := o.tokens + BitVec.ofNat 64 (bits c 15 8) }
  | .mout _ _ =>
    (m.writes.zip (moutRows m.int32 (bit c 9) (bits c 8 5) (s.tileRows cl id))).foldl (fun s p => s.writeSpan p.1 p.2) s
  | .mlda _ _ =>
    (s.putTile cl id (mldaTile (bit c 9) (bits c 8 5) (m.data.getD 0 ⟨0, true, [], []⟩).rows)).touchTile cl id
      fun o => { o with tokens := 0 }
  | .mzero _ _ => (s.putTile cl id zeroTile).touchTile cl id fun o => { o with tokens := 0 }
  | _ => s
where
  id_ (o : Own) : Own := o

/-- MDELTA and MSCAN run together on distinct tiles (R364). -/
def MatOp.shares (m : MatOp) : Bool := match m.op with
  | .mdelta _ _ _ => true
  | .mscan _ _ _ => true
  | _ => false

/-- An instruction may complete: nothing before it shares its tile, nor its engine unless both may run together. -/
def matReady (before : List MatOp) (m : MatOp) : Bool :=
  before.all fun x => !(x.tiles.any m.tiles.contains) && (!(x.engines.any m.engines.contains) || (x.shares && m.shares))

/-- The last issued instruction of a launch that is cancelled or killed is complete: its tiles change (R404 step 3, R371). -/
def State.lateTiles (s : State) (lid : Nat) : State :=
  if (s.launch? lid).any fun l => (l.cancelled && !l.checkpoint) || l.killed then s.endTiles lid else s

/-- MAT_COMPLETE (R350, R357): issued instruction i of a cluster's sequencer takes effect; what it causes travels on the circuits of
the sequencer's job (R94). -/
def execMatComplete (cl i : Nat) (s : State) : Result :=
  .next (match s.seq? cl with
    | none => s
    | some q => match q.mats[i]? with
      | none => s
      | some m =>
        if matReady (q.mats.take i) m then
          (s.setSeq cl { q with mats := dropAt i q.mats }).asAgent (.seq cl) fun s => (s.runMat cl m).lateTiles q.lid
        else s)

/-! ## Images and handles (R355, R367 to R369) -/

/-- The image of a tile is written (R368, R369). -/
def State.spillTile (s : State) (cl id ctx job : Nat) (va : Dword) (kind : Nat) : State × Option Bad :=
  let o := s.own? cl id
  s.writeVirt (2000 + cl) (dieOfCl cl) ctx va.toNat (imageBytes o.int32 kind job o.tokens (s.tileRows cl id))

/-- The image at an address, into a tile: its failure, or the tile with its element type and TOKENS. -/
def State.fillTile (s : State) (cl id ctx job : Nat) (va : Dword) : State × Option Bad :=
  match s.readVirt (2000 + cl) (dieOfCl cl) ctx va.toNat 65600 with
  | (s, .error b) => (s, some b)
  | (s, .ok bs) => match readImage job bs with
    | .error c => (s, some ⟨c, va.toNat⟩)
    | .ok (int, tokens, rows) =>
      ((s.putTile cl id rows).setOwn cl id { s.own? cl id with int32 := int, tokens := tokens, dirty := false }, none)

/-- The tile of a cluster that holds a handle for a job. -/
def State.holderOf (s : State) (cl job : Nat) (h : Dword) : Option Nat :=
  (upto 32).find? fun id => let o := s.own? cl id; (o.st == .pinned || o.st == .home) && o.handle == h && o.job == job

/-- No issued instruction is left on a tile. -/
def Seq.tileIdle (q : Seq) (id : Nat) : Bool := q.mats.all fun m => !m.tiles.contains id

/-- A tile that MPIN or MFILL takes: FREE, or ACTIVE and the program's own. -/
def State.tileTakable (s : State) (cl id lid : Nat) : Bool :=
  let o := s.own? cl id
  o.st == .free || (o.st == .active && o.launch == lid)

/-- MPIN of a handle that no tile holds (R367). -/
def State.pinNew (s : State) (cl : Nat) (q : Seq) (pref : Nat) (h : Dword) : State × Option Bad :=
  match s.readVirt (2000 + cl) (dieOfCl cl) q.ctx h.toNat 64 with
  | (s, .error b) => (s, some b)
  | (s, .ok bs) =>
    let (s, e) := if leNat (bs.take 4) = 0 then
        ((s.putTile cl pref zeroTile).setOwn cl pref { s.own? cl pref with int32 := false, tokens := 0, dirty := true }, none)
      else s.fillTile cl pref q.ctx q.job h
    match e with
    | some b => (s, some b)
    | none => (s.setOwn cl pref { s.own? cl pref with st := .pinned, handle := h, job := q.job, launch := q.lid }, none)

/-- MPIN. -/
def execMpin (d : Dest) (a b : Operand) (s : State) : Result :=
  onSeq s fun cl q => tileId s cl (q.read a) fun pref =>
    let h := q.read b
    let fin (s : State) (id : Nat) : Result := .next (s.seqDone cl (q.put d (BitVec.ofNat 64 id)) (matWords [a, b]))
    if h.toNat % 64 ≠ 0 then failSeq s cl ⟨0x0B, h.toNat⟩
    else if !canonical h.toNat then failSeq s cl ⟨0x09, h.toNat⟩
    else match s.holderOf cl q.job h with
      | some x =>
        if !q.tileIdle x then .next s
        else
          let o := s.own? cl x
          if o.st == .pinned && o.launch != q.lid then failSeq s cl ⟨0x14, h.toNat⟩
          else fin (s.setOwn cl x { o with st := .pinned, launch := q.lid }) x
      | none =>
        if !q.tileIdle pref then .next s
        else if !s.tileTakable cl pref q.lid then failSeq s cl ⟨0x14, pref⟩
        else match s.pinNew cl q pref h with
          | (s, some b) => failSeq s cl b
          | (s, none) => fin s pref

/-- MUNPIN (R368). -/
def execMunpin (a : Operand) (s : State) : Result :=
  onSeq s fun cl q => tileId s cl (q.read a) fun id =>
    let o := s.own? cl id
    if !q.tileIdle id then .next s
    else if !(o.st == .pinned && o.launch == q.lid) then failSeq s cl ⟨0x14, id⟩
    else
      let (s, e) := if o.dirty then s.spillTile cl id q.ctx q.job o.handle 1 else (s, none)
      match e with
      | some b => failSeq s cl b
      | none => .next ((s.setOwn cl id { o with st := .active, handle := 0, dirty := false }).seqDone cl q (matWords [a]))

/-- MSPILL (R368). -/
def execMspill (a b : Operand) (s : State) : Result :=
  onSeq s fun cl q => tileId s cl (q.read a) fun id =>
    let o := s.own? cl id
    let va := q.read b
    if !q.tileIdle id then .next s
    else if va = 0 then
      if !(o.st == .pinned && o.launch == q.lid) then failSeq s cl ⟨0x14, id⟩
      else match s.spillTile cl id q.ctx q.job o.handle 1 with
        | (s, some b) => failSeq s cl b
        | (s, none) => .next ((s.setOwn cl id { o with dirty := false }).seqDone cl q (matWords [a, b]))
    else if !s.tileMine cl id q.lid then failSeq s cl ⟨0x14, id⟩
    else if va.toNat % 64 ≠ 0 then failSeq s cl ⟨0x0B, va.toNat⟩
    else match s.spillTile cl id q.ctx q.job va (if o.st == .pinned && o.handle == va then 1 else 2) with
      | (s, some b) => failSeq s cl b
      | (s, none) => .next (s.seqDone cl q (matWords [a, b]))

/-- MFILL (R368): a dirty tile that holds the image as its handle is spilled first. -/
def execMfill (a b : Operand) (s : State) : Result :=
  onSeq s fun cl q => tileId s cl (q.read a) fun id =>
    let va := q.read b
    let hold := s.holderOf cl q.job va
    if !q.tileIdle id || (match hold with
        | some x => !q.tileIdle x
        | none => false) then .next s
    else if !s.tileTakable cl id q.lid then failSeq s cl ⟨0x14, id⟩
    else
      let (s, e) := match hold with
        | some x =>
          if (s.own? cl x).dirty then
            (match s.spillTile cl x q.ctx q.job va 1 with
             | (s, some b) => (s, some b)
             | (s, none) => (s.setOwn cl x { s.own? cl x with dirty := false }, none))
          else (s, none)
        | none => (s, none)
      match e with
      | some b => failSeq s cl b
      | none => match s.fillTile cl id q.ctx q.job va with
        | (s, some b) => failSeq s cl b
        | (s, none) =>
          .next ((s.setOwn cl id { s.own? cl id with st := .active, handle := 0, job := q.job, launch := q.lid }).seqDone cl q (matWords [a, b]))

/-- MWAIT (R372). -/
def execMwait (a : Operand) (s : State) : Result :=
  onSeq s fun cl q =>
    let m := q.read a
    if 4 ≤ m.toNat then failVal s cl m
    else if (upto 2).any fun e => bit m.toNat e && q.queued e != 0 then .next s
    else .next (s.seqDone cl q (matWords [a]))

/-- MOWN (R368). -/
def execMown (d : Dest) (a : Operand) (s : State) : Result :=
  onSeq s fun cl q => tileId s cl (q.read a) fun id =>
    let o := s.own? cl id
    if !q.tileIdle id then .next s
    else if o.st == .free then
      .next ((s.setOwn cl id { o with st := .active, job := q.job, launch := q.lid }).seqDone cl (q.put d 0) (matWords [a]))
    else .next (s.seqDone cl (q.put d (if s.tileMine cl id q.lid then 1 else 2)) (matWords [a]))

/-- HOME_TILE_EVICTION (R355): firmware frees a HOME tile, after a spill to its handle when it is DIRTY; it stays HOME
where that spill fails. -/
def execHomeTileEviction (cl id : Nat) (s : State) : Result :=
  let o := s.own? cl id
  let idle := match s.seq? cl with
    | some q => q.tileIdle id
    | none => true
  .next (if o.st != .home || !idle then s
    else if o.dirty then
      (match s.spillTile cl id (s.ctxOfJob o.job) o.job o.handle 1 with
       | (s, some _) => s
       | (s, none) => s.freeTile cl id)
    else s.freeTile cl id)

end Sys2Proof.Machine
end

