-- ==== Sys2Proof/Machine/Commit.lean ====
section
/-! DEFINITION. Admission, commit and the faults of block instances (R207, R213 to R220, R226, R242 to R244, R259 to R266,
R374, R382, R383, R409 to R413). -/
namespace Sys2Proof.Machine

/-! ## Ready fibres (R136, R213, R223) -/

/-- The fibre stands at a header and nothing keeps it from entering but its slots and the fabric: no operation holds its
admission, and the emulation that it enters has no meeting to wait for (R385). -/
def State.mayEnter (s : State) (f : Nat) (x : Fibre) : Bool :=
  !x.ended && !x.halt && !x.parked && x.delay.all (fun t => decide (t ≤ s.clock)) && !x.stop && !x.cancelled && x.report.isNone &&
  !x.tpend && (s.inst? f).isNone && !x.awaits && !s.meetOpen f

/-- The fibre has waited more than 4096 cycles (R223). -/
def State.isAged (s : State) (x : Fibre) : Bool := x.aged || decide (x.since + 4096 < s.clock)

/-- The trap-masked live-in slots that are empty, as operand numbers. -/
def State.trapSlots (s : State) (f : Nat) (x : Fibre) (ws : List Word) : List Nat :=
  (upto 48).filter fun k => trapIn ws k && !(s.fibreSlot f (x.eff.woff + k)).full

/-- Ready under a header's masks (R213). -/
def State.readyUnder (s : State) (f : Nat) (x : Fibre) (ws : List Word) : Bool :=
  !(s.trapSlots f x ws).isEmpty ||
  (upto 48).all fun k => !liveIn ws k || (s.fibreSlot f (x.eff.woff + k)).full

/-- The fibres of a core that stand at a header of a context and may enter. -/
def State.standing (s : State) (core ctx : Nat) (hdr : Dword) : List (Nat × Fibre) :=
  s.fab.fibres.filter fun p => coreOf p.1 == core && p.2.pc == hdr && s.ctxOfFibre p.1 == ctx && s.mayEnter p.1 p.2

/-- The ready fibres of a set: all, where its header words cannot be read; none, where word 0 is no header (R213, R220). -/
def State.readyIn (s : State) (core : Nat) (w : WSet) : List (Nat × Fibre) :=
  match w.words with
  | none => if goodTarget w.hdr.toNat then s.standing core w.ctx w.hdr else []
  | some ws => if hdrIsHeader (ws.getD 0 0) then (s.standing core w.ctx w.hdr).filter fun p => s.readyUnder p.1 p.2 ws else []

/-! ## Admission -/

/-- A fault at admission (R220, R409): a failed admission to a trap handler is no handler at all, and keeps the record
(R410). -/
def State.admFault (s : State) (f : Nat) (x : Fibre) (cause eidx : Nat) (tval : Dword) : State :=
  let s := s.count (coreOf f) (s.ctxOfFibre f) 0
  if x.way = .trap ∧ x.hm = true ∧ (cause = 0x0C ∨ cause = 0x0E) then s.noHandler f
  else s.takeTrap f x.pc ⟨eidx, BitVec.ofNat 8 cause, tval, 0, 0, 0⟩ false

/-- The header has the flag that a way of entering needs (R244). -/
def flagOk (w : Entry) (h : Word) : Bool :=
  match w with
  | .entry => hdrEntry h
  | .call => hdrCallee h
  | .ret => hdrCtail h
  | .trap => hdrTraph h
  | .emul => hdrEmul h
  | .plain => true

/-- What an emulation's instance may not hold fails as it begins, with the instruction's word (R413). -/
def barredFaults (body : List Word) : List NodeFault :=
  ((nodesOf body).filter fun q => isBarred q.2).map fun q => ⟨q.1, 0x01, (body.getD q.1 0).zeroExtend 64, 0, 0, 0⟩

/-- The block instance that a fibre enters (R207, R213): what it reads at admission, and every node still to fire. -/
def State.newInst (s : State) (f : Nat) (x : Fibre) (ga : Gather) (c : Config) : Inst :=
  let ws := c.words.take 4
  let body := c.words.drop 4
  let v := x.eff
  { hdr := x.pc, n := hdrN (ws.getD 0 0), body := body, cfg := c.id
    fi := BitVec.ofNat 64 (fiOf f), gi := BitVec.ofNat 64 ga.gi
    ka := (match s.launch? ga.lid with
      | some l => l.karg
      | none => 0)
    sb := BitVec.ofNat 64 (ctxOf s ga.ctx).sb, wb := BitVec.ofNat 64 (storeIdx ga f v.woff), pw := v.pw
    gs := (match x.shadow with
      | some h => h.gs ++ ga.gs.filter fun p => (kvGet p.1 h.gs).isNone
      | none => ga.gs)
    live := ((upto 48).filter (liveIn ws)).map fun k => (k, (s.fibreSlot f (v.woff + k)).val)
    toks := [], todo := ((nodesOf body).filter fun q => !(x.shadow.isSome && isBarred q.2)).map (·.1), subst := x.subst, slotW := [], gW := [], pwW := none, winb := none
    fspW := none, thndW := none, stores := [], forks := [], xfer := none, post := [], bars := []
    faults := if x.shadow.isSome then barredFaults body else [], used := [] }

/-- The fibre enters. -/
def State.enter (s : State) (f : Nat) (x : Fibre) (ga : Gather) (c : Config) : State :=
  let i := s.newInst f x ga c
  (((s.count (coreOf f) ga.ctx 0).setFibre f { x with
    way := .plain, bponce := false, subst := none, notes := x.notes.filter fun n => n.1 == x.pc }).setInst f i)

/-- The nodes of a block with their kinds, as its configuration puts them on the freed units: the entry nodes, which no other
node feeds, first, each group in index order (log entry 30). -/
def Config.nodes (c : Config) : List (Nat × NodeKind) :=
  let body := c.words.drop 4
  let ns := nodesOf body
  let l := ns.map fun q => (q.1, kindOf (body.getD q.1 0), (feeders ns q.2).isEmpty)
  ((l.filter (·.2.2)) ++ l.filter fun q => !q.2.2).map fun q => (q.1, q.2.1)

/-- A configuration shares a region with one that was placed before it, whose nodes it waits for (R222). -/
def Config.shares (c o : Config) : Bool := decide (o.id < c.id) && decide (o.reg < c.reg + c.regs) && decide (c.reg < o.reg + o.regs)

/-- The nodes of a kind that teardowns have freed, of those that a configuration may take (R222). -/
def Fabric.freed (fb : Fabric) (c : Config) (k : NodeKind) : Nat :=
  c.regs * capacity k - (((fb.cfgs.filter c.shares).flatMap fun o => o.left.filter fun e => kindOf ((o.words.drop 4).getD e 0) == k).length)

/-- A node of a configuration is placed: the nodes of its kind before it have left one free for it (R222). -/
def Fabric.nodePlaced (fb : Fabric) (c : Config) (e : Nat) : Bool :=
  !(fb.cfgs.any c.shares) ||
  (match c.nodes.find? fun q => q.1 == e with
   | none => true
   | some (_, k) => decide (((c.nodes.takeWhile fun q => q.1 != e).filter fun q => q.2 == k).length < fb.freed c k))

/-- The entry nodes of a configuration are placed. -/
def Fabric.entryPlaced (fb : Fabric) (c : Config) : Bool :=
  !(fb.cfgs.any c.shares) ||
  (let ns := nodesOf (c.words.drop 4)
   (ns.filter fun q => (feeders ns q.2).isEmpty).all fun q => fb.nodePlaced c q.1)

/-- The configured block that admits at a header: its time has come, it is not retiring, and its entry nodes are freed (R221,
R222). -/
def State.admitter (s : State) (core ctx : Nat) (hdr : Dword) : Option Config :=
  let fb := s.fabric core
  fb.cfgs.find? fun c => c.ctx == ctx && c.hdr == hdr && !c.retiring && c.ready.any (fun t => decide (t ≤ s.clock)) && fb.entryPlaced c

/-- A node of an instance stands under its own configuration; a token that reaches it before waits at its input (R221). -/
def State.nodeThere (s : State) (f e : Nat) (i : Inst) : Bool :=
  let fb := s.fabric (coreOf f)
  match fb.cfgs.find? fun c => c.id == i.cfg with
  | some c => fb.nodePlaced c e
  | none => true

/-- A configured block admits aged fibres first, each group in ascending order (R226). -/
def State.firstReady (s : State) (l : List (Nat × Fibre)) : Option Nat :=
  match l.find? fun p => s.isAged p.2 with
  | some p => some p.1
  | none => (l.head?).map (·.1)

/-- A breakpoint of a debugger marks the block at a fibre's PC (R416). -/
def State.breakpointAt (s : State) (f : Nat) (x : Fibre) : Option DbgSlot :=
  (s.attached (s.jobOf f)).filter fun d => d.bps.any fun b => b.2.getLsbD 0 && (b.2 &&& ~~~3#64) == x.pc

/-- The fibre halts there (R418). -/
def State.marked (s : State) (f : Nat) (x : Fibre) : Option DbgSlot := if x.bponce then none else s.breakpointAt f x

/-- A failed build reaches a fibre (R209, R470). -/
def State.takeBuildFault (s : State) (f : Nat) (x : Fibre) (core : Nat) (w : WSet) (e : Nat × Nat × Dword) : State :=
  let fb := s.fabric core
  let rest := w.failing.filter fun k => k != f
  let w' : WSet := { w with failing := rest, fail := if rest.isEmpty then none else w.fail }
  (s.setFabric core { fb with sets := fb.sets.map fun y => if y.ctx == w.ctx && y.hdr == w.hdr then w' else y }).admFault
    f x e.1 e.2.1 e.2.2

/-- A ready fibre is admitted by its block's configuration, with the checks of R244 and R213; at a breakpoint it halts where it would
be admitted (R418). -/
def State.admitBy (s : State) (f : Nat) (x : Fibre) (ga : Gather) (c : Config) : State :=
  let ws := c.words.take 4
  let ready := (s.standing (coreOf f) ga.ctx x.pc).filter fun p => s.readyUnder p.1 p.2 ws
  if s.firstReady ready != some f then s
  else if !flagOk x.way (ws.getD 0 0) then s.admFault f x 0x0E 0x7F x.prev
  else match s.trapSlots f x ws with
    | k :: _ => s.admFault f x 0x04 0x7F (BitVec.ofNat 64 k)
    | [] => match s.marked f x with
      | some d => s.haltFibre f false (some d)
      | none => s.enter f x ga c

/-- One fibre at its header: a target that is no header, a failed build, or admission. -/
def State.atHeader (s : State) (f : Nat) (x : Fibre) (ga : Gather) : State :=
  let core := coreOf f
  if !goodTarget x.pc.toNat then s.admFault f x 0x0E 0x7F x.prev
  else match (s.fabric core).sets.find? fun w => w.ctx == ga.ctx && w.hdr == x.pc with
    | none => s.joinSet f
    | some w =>
      let noHeader := match w.words with
        | some ws => !hdrIsHeader (ws.getD 0 0)
        | none => false
      match w.fail, w.failing.contains f, noHeader with
      | some e, true, _ => s.takeBuildFault f x core w e
      | _, _, true => s.admFault f x 0x0E 0x7F x.prev
      | _, _, false => match s.admitter core ga.ctx x.pc with
        | none => s
        | some c => s.admitBy f x ga c

/-- BLOCK_ADMISSION (R213, R220, R226, R244). -/
def execBlockAdmission (f : Nat) (s : State) : Result :=
  .next (match s.fibre? f, s.gather? (gatherOf f) with
    | some x, some ga => if s.mayEnter f x then s.atHeader f x ga else s
    | _, _ => s)

/-! ## Commit (R218) -/

/-- The value of a producer arrives for its slot (R215): it fills the slot if no later write has taken it. A write through the
on-chip map that has filled the slot (R34) counts as a later write: the model's choice, which the spec leaves open (log entry 78). -/
def State.arrive (s : State) (p : Nat) (pr : Producer) (v : Dword) : State :=
  let latest := !(s.fab.prods.any fun q => decide (p < q.1) && q.2.f == pr.f && q.2.slot == pr.slot)
  let s := s.dropProd p
  match s.fibre? pr.f, s.gather? (gatherOf pr.f) with
  | some x, some ga =>
    let real := s.slot (coreOf pr.f) (storeIdx ga pr.f pr.slot)
    if x.ended then s
    else match x.shadow with
      | some h =>
        if h.empties.contains pr.slot && latest then s.fillSlot pr.f pr.slot v
        else if real.prod == some p && !real.full then s.setSlot (coreOf pr.f) (storeIdx ga pr.f pr.slot) ⟨v, true, none⟩
        else s
      | none => if real.prod == some p && !real.full then s.fillSlot pr.f pr.slot v else s
  | _, _ => s

/-- The slot writes of an instance (R214), relative to the window at admission. -/
def State.commitSlots (s : State) (f woff : Nat) (l : KV SlotW) : State :=
  l.foldl (fun s w => match w.2 with
    | .full v => s.fillSlot f (woff + w.1) v
    | .wait p =>
      let s := s.clearSlot f (woff + w.1) p
      match kvGet p s.fab.prods with
      | some pr => (match pr.value with
        | some v => (s.dropProd p).fillSlot f (woff + w.1) v
        | none => s)
      | none => s) s

/-- Gather-shared registers (R207), or the emulation's shadow of them. -/
def State.commitGs (s : State) (f : Nat) (l : KV Dword) : State :=
  match s.fibre? f with
  | none => s
  | some x => match x.shadow with
    | some h => s.setFibre f { x with shadow := some { h with gs := l.foldl (fun m w => kvSet w.1 w.2 m) h.gs } }
    | none => s.modGather (gatherOf f) fun g => { g with gs := l.foldl (fun m w => kvSet w.1 w.2 m) g.gs }

/-- The stores of an instance; an emulation's spills stay in its shadow (R413). -/
def State.commitStores (s : State) (f last : Nat) (os : List StoreOp) : State :=
  match s.fibre? f with
  | none => s
  | some x => match x.shadow with
    | some h =>
      let s := s.performStores f (os.filter fun o => o.eidx != last)
      s.setFibre f { x with shadow := some { h with spills := h.spills ++ os.filter fun o => o.eidx == last } }
    | none => s.performStores f os

/-- The destination of the FORK at an index. -/
def forkDest (body : List Word) (e : Nat) : Dest :=
  match (nodesOf body).find? fun q => q.1 == e with
  | some q => (match q.2 with
    | .whole (.fork d _ _) => d
    | _ => .zero)
  | none => .zero

/-- A fibre created at an index (R204, R205, R266): every slot of its allocation empty. What the fibre that had the index before
has still to carry out stays at the head of the queue. -/
def State.bornAt (s : State) (c : Nat) (ga : Gather) (x : Fibre) : State :=
  let lo := slotKey (coreOf c) (storeIdx ga c 0)
  let s := { s with fab := { s.fab with slots := kvFilter (fun k _ => k < lo || lo + ga.wsize ≤ k) s.fab.slots } }
  s.setFibre c (match s.fibre? c with
    | some o => { x with
        post := o.post, stage := o.stage, met := o.met, orphans := o.post.length
        orel := if o.orphans < o.post.length then o.orel ++ [(o.post.length - o.orphans, o.rel)] else o.orel }
    | none => x)

/-- A child begins as its parent stands to its launch: stopped where a checkpoint stops the parent (R420), at its end where the
launch is cancelled or killed (R404, R419). -/
def State.joinChild (s : State) (c : Nat) (parent : Option Fibre) : State :=
  match parent with
  | some x =>
    if x.cancelled then s.leaveGather c (match s.fibre? c with
      | some y => withoutRdv y.post
      | none => [])
    else (s.modFibre c fun y => { y with stop := x.stop }).joinSet c
  | none => s.joinSet c

/-- One FORK (R205, R266): the child at the lowest free index, or none. An index of `busy` is in use, though its fibre ended
earlier in this cycle (R267). -/
def State.forkOne (s : State) (busy : List Nat) (f woff : Nat) (i : Inst) (w : Nat × Dword × Dword) : State :=
  match s.gather? (gatherOf f), s.launchOf f with
  | some ga, some l =>
    let g := gatherOf f
    let free := if ga.size ≤ (s.liveFibres g).length then none
      else (upto ga.size).find? fun k => !(s.indexUsed (g * 1024 + k) || busy.contains (g * 1024 + k))
    let s := match free, l.kern with
      | some k, some kn =>
        let c := g * 1024 + k
        let s := s.bornAt c ga (newFibre w.2.1 (fspOf l kn ga.gi k) kn.handler s.clock)
        ((s.fillSlot c 0 w.2.2).fillSlot c 1 (BitVec.ofNat 64 (fiOf f))).joinChild c (s.fibre? f)
      | _, _ => s
    (match slotOf (forkDest i.body w.1) with
     | some d => s.fillSlot f (woff + d) (match free with
       | some k => BitVec.ofNat 64 k
       | none => 0xFFFFFFFFFFFFFFFF)
     | none => s)
  | _, _ => s

/-- The FORKs of an instance, in index order. -/
def State.commitForks (s : State) (busy : List Nat) (f woff : Nat) (i : Inst) : State :=
  (sortBy (fun a b => decide (a.1 ≤ b.1)) i.forks).foldl (fun s w => s.forkOne busy f woff i w) s

/-- Where a fibre's view of itself goes at a transfer (R231 to R233, R259, R263): window, call stack, FSP; the way and the
PC. -/
def moveView (v : Fibre) (i : Inst) : Fibre × Dword × Entry :=
  let woff := (i.woffWith v.woff).toNat
  let fsp := i.fspW.getD v.fsp
  let v := { v with woff := woff, fsp := fsp, thnd := i.thndW.getD v.thnd, pw := i.pwW.getD v.pw }
  match i.xfer with
  | some (.goto pc w) => (v, pc, w)
  | some (.call pc adv) =>
    let full := decide (4 ≤ v.stack.length)
    ({ v with
        stack := ⟨i.next, woff⟩ :: (if full then v.stack.take 2 else v.stack)
        spilled := if full then (v.spilled + 1) % 2 ^ 32 else v.spilled
        fsp := if full then fsp - 32 else fsp
        woff := woff + adv }, pc, .call)
  | some (.ret none) => (match v.stack with
    | c :: r => ({ v with stack := r, woff := c.woff }, c.ret, .ret)
    | [] => (v, i.next, .plain))
  | some (.ret (some (c, o))) =>
    ({ v with stack := [o], spilled := v.spilled - 1, fsp := fsp + 32, woff := c.woff }, c.ret, .ret)
  | _ => (v, i.next, .plain)

/-- The terminator ends handler mode (R410): a call, an indirect transfer, RET or TRAMP. -/
def leavesHandler (i : Inst) : Bool :=
  match (nodesOf i.body).getLast? with
  | some q => i.xfer.isSome && (match q.2 with
    | .whole (.call _ _) => true
    | .whole (.calli _ _) => true
    | .whole (.bri _) => true
    | .whole .ret => true
    | .whole (.tramp _) => true
    | .whole (.trampLink _ _) => true
    | _ => false)
  | none => false

/-- The last instruction's index. -/
def lastIdx (i : Inst) : Nat := ((nodesOf i.body).getLast?.map (·.1)).getD 0

/-- The held operation, or the slot load, that a POST trap names is given A (R411): its slot is full, and it is dropped. -/
def State.skipHeld (s : State) (f : Nat) (x : Fibre) (a : Dword) : State :=
  let names (h : Dword) (e : Nat) : Bool := h == x.trap.epc && BitVec.ofNat 64 e == x.trap.eidx
  let give (s : State) (p : Nat) : State := match kvGet p s.fab.prods with
    | some pr => s.arrive p pr a
    | none => s
  match x.held with
  | p :: r => if names p.hdr p.eidx then
      let s := s.modFibre f fun x => { x with held := r }
      (match p.prod with
       | some k => give s k
       | none => s)
    else s
  | [] => match x.heldLoads.find? fun k => match kvGet k s.fab.prods with
      | some pr => (match pr.load with
        | some j => names (j.aux.getD 0 0) (j.aux.getD 1 0).toNat
        | none => false)
      | none => false with
    | some k => give (s.modFibre f fun x => { x with heldLoads := x.heldLoads.erase k }) k
    | none => s

/-- The operations held for a handler are to be performed again, after the handler's own, and before those of later instances,
which stand behind them (R411, R313; log entry 40). -/
def State.retryHeld (s : State) (f : Nat) : State :=
  s.modFibre f fun x => { x with post := x.post ++ x.held, held := [], heldLoads := [] }

/-- The trap of the record was reported after commit, and not inside an emulation (R411, R413). -/
def postTrap (x : Fibre) : Bool := x.trap.cause.getLsbD 16 && x.trap.cause.toNat % 256 != 0x13

/-- What a fibre goes on with when a handler's RESUME commits (R382, R411). -/
def State.commitResume (s : State) (f : Nat) (skip : Option Dword) : State :=
  match s.fibre? f with
  | none => s
  | some x =>
    if postTrap x then
      let s := match skip with
        | some a => s.skipHeld f x a
        | none => s
      (s.retryHeld f).modFibre f fun x => { leaveHandler x with pc := x.resume, way := .plain }
    else
      let s := if skip.isSome && x.trap.cause.toNat % 256 == 0x13 then s.leaveMeet f else s
      s.modFibre f fun x => { leaveHandler x with
        pc := x.trap.epc, way := .plain
        subst := match skip with
          | some a => if x.trap.eidx = 0x7F then none else some (x.trap.eidx.toNat, a)
          | none => none }

/-- The shadow of an emulation takes effect (R413): slots, gather-shared registers, spills, and the fibre's own state. -/
def State.applyShadow (s : State) (f : Nat) (x : Fibre) (h : Shadow) : State :=
  let s := s.setFibre f { x with
    shadow := none, pw := h.pw, woff := h.woff, stack := h.stack, spilled := h.spilled, fsp := h.fsp, thnd := h.thnd }
  let s := h.empties.foldl (fun s k => match s.gather? (gatherOf f) with
    | some ga =>
      let p := ((s.fab.prods.filter fun q => q.2.f == f && q.2.slot == k).map (·.1)).getLast?
      s.setSlot (coreOf f) (storeIdx ga f k) ⟨(s.slot (coreOf f) (storeIdx ga f k)).val, false, p⟩
    | none => s) s
  let s := h.slots.foldl (fun s w => s.fillSlot f w.1 w.2) s
  h.spills.foldl (fun s o => s.performStore f o) (s.commitGs f h.gs)

/-- EMULRET's commit (R383, R413): the cullet's block is entered again with A for the cullet; a meeting has its answer (R385). -/
def State.commitEmulret (s : State) (f : Nat) (a : Dword) : State :=
  let s := s.leaveMeet f
  match s.fibre? f with
  | none => s
  | some x =>
    let s := match x.shadow with
      | some h => s.applyShadow f x h
      | none => s
    s.modFibre f fun x => { x with
      emul := x.emul &&& ~~~1#64, pc := x.trap.epc, way := .plain, subst := some (x.trap.eidx.toNat, a) }

/-- The fibre after its instance's writes: its view, PC and PREV, its handler mode and its delay. -/
def State.commitMove (s : State) (f : Nat) (i : Inst) : State :=
  match s.fibre? f with
  | none => s
  | some x =>
    let (v, pc, w) := moveView x.eff i
    let x := x.keep v
    let d := match i.xfer with
      | some (.yield d) => d
      | _ => 0
    let x := { x with
      pc := pc, prev := i.hdr, way := w, notes := x.notes.filter fun n => n.1 != i.hdr
      since := s.clock + d, aged := false, delay := if d = 0 then none else some (s.clock + d) }
    let drop := x.hm && leavesHandler i
    let s := s.setFibre f { x with hm := x.hm && !drop }
    let s := if drop then s.dropHeld f else s
    let s := if drop then s.quitMeet f else s
    match i.xfer with
    | some (.resume skip) => s.commitResume f skip
    | some (.emulret a) => s.commitEmulret f a
    | _ => s

/-- The operations that follow the commit, in index order; SPINV has been performed. -/
def Inst.posts (i : Inst) : List PostOp :=
  sortBy (fun a b => decide (a.eidx ≤ b.eidx)) (i.post.filter fun p => match p.op with
    | .spinv _ _ => false
    | _ => true)

/-- The commit of a fibre's instance: every effect in one step (R218); the barriers of its gather are still to be checked (R268).
Under a cancel every operation that is queued is still performed, but for RDV (R404; log entry 48). -/
def State.commit (s : State) (busy : List Nat) (f : Nat) (x : Fibre) (i : Inst) : State :=
  let woff := x.eff.woff
  let s := s.commitSlots f woff i.slotW
  let s := s.commitGs f i.gW
  let s := s.commitStores f (lastIdx i) i.stores
  let s := ((s.commitForks busy f woff i).commitSpinv f i.post).commitUnmaps f i.post
  let (s, n) := s.takeSerial
  let (s, ps) := s.commitCopies f i.posts
  let s := (s.commitReserved f).modFibre f fun x => { x with post := x.post ++ ps.map fun p => { p with inst := n } }
  let s := ((s.commitMove f i).count (coreOf f) (s.ctxOfFibre f) 1).delInst f
  match s.fibre? f with
  | none => s
  | some x =>
    if x.cancelled then s.leaveGather f (withoutRdv x.post)
    else if i.xfer = some .exit then
      let s := s.dropHeld f
      s.leaveGather f (((s.fibre? f).map (·.post)).getD [])
    else s.joinSet f

/-- Every node has fired or been absorbed, and nothing has failed. -/
def Inst.complete (i : Inst) : Bool := i.todo.isEmpty && i.faults.isEmpty

/-- A store of the instance waits for an earlier write of the fibre on its bytes (log entry 56). -/
def State.storesWait (s : State) (f : Nat) (i : Inst) : Bool :=
  i.stores.any fun o => s.ownAhead f o.goal.space (o.cells.map (·.1))

/-- An instance commits once every node has fired or been absorbed and nothing has failed; one with a FORK, which is a release,
after the operations of the fibre's earlier instances (R267). -/
def State.commitReady (s : State) (f : Nat) (x : Fibre) (i : Inst) : Bool :=
  i.complete && x.report.isNone && !s.storesWait f i && (i.forks.isEmpty || !s.memPending f)

/-- A fibre's instance commits, if it is ready to; with a FORK, after the fibre's loads, whose failure it does not outlive. -/
def State.commitIf (s : State) (busy : List Nat) (f : Nat) : State :=
  match s.fibre? f, s.inst? f with
  | some x, some i =>
    if !s.commitReady f x i then s
    else if i.forks.isEmpty then s.commit busy f x i
    else
      let s := s.performLoads f
      match s.fibre? f, s.inst? f with
      | some x, some i => if s.commitReady f x i then s.commit busy f x i else s
      | _, _ => s
  | _, _ => s

/-- The stores through the on-chip map that an instance's commit performs. -/
def mapStores (x : Fibre) (i : Inst) : List StoreOp :=
  ((i.stores.filter fun o => !(x.shadow.isSome && o.eidx == lastIdx i)) ++ (match i.xfer, x.shadow with
    | some (.emulret _), some h => h.spills
    | _, _ => [])).filter fun o => o.goal == .onchip

/-- The stores through the on-chip map of the instances that a cycle has committed stand over what its commits wrote in the same
places (R35): they are applied last, instance by instance. -/
def State.mapLast (s : State) (ms : List (Nat × List StoreOp)) : State :=
  ms.foldl (fun s m => if m.2.isEmpty || (s.inst? m.1).isSome then s
    else s.attempt fun s => s.asAgent (.gather (gatherOf m.1)) fun s => s.performStores m.1 m.2) s

/-- The stores through the on-chip map that the commits of fibres will perform. -/
def State.mapsOf (s : State) (fs : List Nat) : List (Nat × List StoreOp) := fs.filterMap fun f =>
  match s.fibre? f, s.inst? f with
  | some x, some i => some (f, mapStores x i)
  | _, _ => none

/-- COMMIT (R218, R219): of one instance, as a cycle in which only it commits; its stores through the on-chip map stand over what
else its commit writes (R35). -/
def execCommit (f : Nat) (s : State) : Result :=
  .next (((s.commitIf [] f).mapLast (s.mapsOf [f])).checkBars (gatherOf f))

/-- The instances of a core that commit in one cycle, in ascending gather slot and then ascending fibre index: so their stores,
their gather-shared registers and their FORKs take effect (R150, R207, R218, R267), and those stores that go through the on-chip map last (R35); then the barriers are checked (R268). The
requests of an instance's stores travel on its own job's circuits, and one whose circuit holds them back commits later (R94, R97). -/
def State.commitAll (s : State) (core : Nat) : State :=
  let fs := ((sortBy (fun a b => decide (a.1 ≤ b.1)) s.fab.insts).filter fun p => coreOf p.1 == core && (match s.fibre? p.1 with
    | some x => s.commitReady p.1 x p.2
    | none => false)).map (·.1)
  let busy := (s.fab.fibres.filter fun p => !p.2.ended && coreOf p.1 == core).map (·.1)
  let s := (fs.foldl (fun s f => s.attempt fun s => State.commitIf { s with cur := .gather (gatherOf f) } busy f) s).mapLast (s.mapsOf fs)
  let s := ((fs.map gatherOf).eraseDups).foldl (fun s g => s.checkBars g) s
  { s with cur := .none }

/-! ## Faults -/

/-- INSTANCE_FAULT (R220, R409); a report that has still to be delivered comes first (R411, R414). -/
def execInstanceFault (f : Nat) (s : State) : Result :=
  .next (match s.inst? f with
    | some i => (match i.faultReady, (s.fibre? f).any (·.report.isSome) with
      | some n, false => s.takeTrap f i.hdr n false
      | _, _ => s)
    | none => s)

/-- POST_COMMIT_TRAP_DELIVERY (R411): an instance in flight is discarded and records nothing. -/
def execPostCommitTrapDelivery (f : Nat) (s : State) : Result :=
  .next (match s.fibre? f with
    | some x => (match x.report with
      | some n => (s.setFibre f { x with report := none }).takeTrap f x.reportHdr n true
      | none => s)
    | none => s)

/-- A slot load is performed on its own job's circuits (R94). -/
def State.asLoad (s : State) (p : Nat) : State := match kvGet p s.fab.prods with
  | some pr => { s with cur := .gather (gatherOf pr.f) }
  | none => s

/-- LOAD_RESULT_ARRIVAL (R132, R215): a load whose value is not fixed yet is performed now; before the commit of its
instance the value waits. -/
def execLoadResultArrival (p : Nat) (s : State) : Result :=
  let s := s.asLoad p |>.performLoad p
  .next (match kvGet p s.fab.prods with
    | some pr => (match pr.value with
      | some v => if s.inFlight pr.f p then s else s.arrive p pr v
      | none => s)
    | none => s)

/-- FIBRE_AGEING (R223). -/
def execFibreAgeing (f : Nat) (s : State) : Result :=
  .next (match s.fibre? f with
    | some x => if !x.ended && !x.awaits && (s.inst? f).isNone && decide (x.since + 4096 < s.clock) then s.setFibre f { x with aged := true } else s
    | none => s)

/-- YIELD_DELAY_EXPIRY (R265). -/
def execYieldDelayExpiry (f : Nat) (s : State) : Result :=
  .next (match s.fibre? f with
    | some x => if x.delay.any fun t => decide (t ≤ s.clock) then s.setFibre f { x with delay := none } else s
    | none => s)

end Sys2Proof.Machine
end

