-- ==== Sys2Proof/Machine/Special.lean ====
section
/-! DEFINITION. The special functions (R199). Where R199 fixes a value, that value; elsewhere a free value of Config
that is taken when it lies within R199's accuracy of the exact result. The exact result stands between two bounds, computed
in fixed point with 320 fraction bits: a value is taken only if it is near enough to both (log entry 13). An FP32 operand has
at most 149 fraction bits, so it is exact in that form. -/
namespace Sys2Proof.Machine

/-- Fraction bits of a fixed-point number. -/
def fixBits : Nat := 320
/-- One as fixed point. -/
def fixOne : Nat := 2 ^ fixBits
/-- π as fixed point. -/
def fixPi : Nat := 6710401180212168915155840974220003240804194089427148950727106424351713218671805380099500388914039
/-- ln 2 as fixed point. -/
def fixLn2 : Nat := 1480553391661173448385607439722553250922680800745876974795605978609098082859138712941075737848984
/-- 1 / ln 2 as fixed point. -/
def fixLog2e : Nat := 3081577904126213121686167198097690134163479766071396094403848907535455306605342191083616308484524

/-- Product of two fixed-point numbers. -/
def fixMul (a b : Nat) : Nat := a * b / fixOne

/-- A non-negative number as fixed point, cut below. -/
def fixOf (d : Dy) : Nat :=
  let k := d.ex + fixBits
  if 0 ≤ k then d.num.natAbs * 2 ^ k.toNat else d.num.natAbs / 2 ^ (-k).toNat

/-- 1 + t/k·(1 + t/(k+1)·(…)), n terms: e^t from k = 1. -/
def expSeries (t : Nat) : Nat → Nat → Nat
  | 0, _ => fixOne
  | n + 1, k => fixOne + fixMul t (expSeries t n (k + 1)) / k

/-- 2^x as m × 2^e. -/
def exp2Dy (x : Dy) : Dy :=
  let fl : Int := if 0 ≤ x.ex then x.num * (2 ^ x.ex.toNat : Nat) else x.num.fdiv (2 ^ (-x.ex).toNat : Nat)
  let f := fixOf (x.sub (Dy.ofInt fl))
  ⟨expSeries (fixMul f fixLn2) 64 1, fl - fixBits⟩

/-- Bits of log2 of z in [1, 2), n of them, each worth half the last. -/
def log2Bits (z : Nat) : Nat → Nat → Nat
  | 0, acc => acc
  | n + 1, acc =>
    let y := fixMul z z
    if 2 * fixOne ≤ y then log2Bits (y / 2) n (2 * acc + 1) else log2Bits y n (2 * acc)

/-- log2 of m × 2^e, m above 0, to 200 fraction bits. -/
def log2Dy (m : Nat) (e : Int) : Dy :=
  let l := ilog m e
  let z := fixOf ⟨m, e - l⟩
  (Dy.ofInt l).add ⟨log2Bits z 200 0, -200⟩

/-- 1 − t²/(k(k+1))·(1 − t²/((k+2)(k+3))·(…)), n terms: sin t / t from k = 2. -/
def sinSeries (t2 : Nat) : Nat → Nat → Int
  | 0, _ => fixOne
  | n + 1, k => (fixOne : Int) - (t2 : Int) * sinSeries t2 n (k + 2) / ((k * (k + 1) : Nat) : Int) / (fixOne : Int)

/-- sin(π x) for x ≥ 0 below 2. -/
def sinPiPos (x : Nat) : Int :=
  let half := x % fixOne
  let y := if fixOne < 2 * half then fixOne - half else half
  let t := fixMul y fixPi
  let s := (t : Int) * sinSeries (fixMul t t) 48 2 / (fixOne : Int)
  if x / fixOne % 2 = 0 then s else -s

/-- sin(π x). -/
def sinPiDy (x : Dy) : Dy :=
  let two : Int := 2
  let q : Int := if 0 ≤ x.ex then 0 else x.num.fdiv (2 ^ (1 - x.ex).toNat : Nat)
  let r := x.sub (Dy.ofInt (two * q))
  if 0 ≤ x.ex then Dy.zero else ⟨sinPiPos (fixOf r), -(fixBits : Int)⟩

/-- e^(−|x|). -/
def expNegDy (x : Dy) : Dy :=
  let a := x.abs
  if (Dy.ofInt 200).lt a then Dy.zero
  else exp2Dy ⟨-((fixMul (fixOf a) fixLog2e : Nat) : Int), -(fixBits : Int)⟩

/-- A quotient of two fixed-point numbers. -/
def fixDiv (a b : Nat) : Nat := a * fixOne / b

/-- tanh x. -/
def tanhDy (x : Dy) : Dy :=
  let t := fixOf (expNegDy (x.scale 1))
  let r : Int := fixDiv (fixOne - t) (fixOne + t)
  ⟨if x.num < 0 then -r else r, -(fixBits : Int)⟩

/-- 1/(1 + e^(−x)). -/
def sigmDy (x : Dy) : Dy :=
  let t := fixOf (expNegDy x)
  ⟨if x.num < 0 then (fixDiv t (fixOne + t) : Nat) else (fixDiv fixOne (fixOne + t) : Nat), -(fixBits : Int)⟩

/-- A real number by two bounds: it is both of them where they are equal, and else lies between them. -/
structure Near where
  lo : Dy
  hi : Dy
  deriving DecidableEq, Repr

/-- A number known to an error below 2^-k. -/
def Near.around (y : Dy) (k : Int) : Near := ⟨y.sub ⟨1, -k⟩, y.add ⟨1, -k⟩⟩
/-- A number known to an error below 2^-k of itself. -/
def Near.within (y : Dy) (k : Int) : Near := ⟨y.sub (y.abs.scale (-k)), y.add (y.abs.scale (-k))⟩
/-- Of a number that is not below 0. -/
def Near.notBelowZero (y : Near) : Near := { y with lo := if y.lo.num < 0 then Dy.zero else y.lo }
/-- A quotient or a square root, whose last bit says whether anything was cut off. -/
def Near.ofSticky : FV → Near
  | .fin neg m e =>
    let d (n : Nat) : Dy := (FV.fin neg n e).dy
    if m % 2 = 0 then ⟨d m, d m⟩ else if neg then ⟨d (m + 1), d (m - 1)⟩ else ⟨d (m - 1), d (m + 1)⟩
  | _ => ⟨Dy.zero, Dy.zero⟩

/-- 1 / √(m × 2^e), m above 0: the root of a whole quotient of 2^(2k). -/
def rsqNear (m : Nat) (e : Int) : Near :=
  let k : Nat := if e % 2 = 0 then 2 * fixBits else 2 * fixBits + 1
  let x := 2 ^ k / m
  let r := isqrt (Nat.log2 x / 2 + 1) x
  let g := -(((k : Int) + e) / 2)
  ⟨⟨r, g⟩, ⟨if r * r * m = 2 ^ k then r else r + 1, g⟩⟩

/-- ulp of R199: 2^(max(floor(log2 |y|), −126) − 23). -/
def ulpOf (y : Dy) : Dy := ⟨1, max (if y.num = 0 then -126 else ilog y.num.natAbs y.ex) (-126) - 23⟩

/-- How near a special function comes: so many ulp, or 2^−k. -/
inductive Acc where
  | ulps (n : Nat)
  | abs (k : Nat)
  deriving DecidableEq, Repr

/-- The greatest error allowed at y. -/
def Acc.tol (a : Acc) (y : Dy) : Dy :=
  match a with
  | .ulps n => (Dy.ofInt n).mul (ulpOf y)
  | .abs k => ⟨1, -(k : Int)⟩

/-- Does an FP32 value lie within the accuracy of a number? It does if it lies within that of both bounds. -/
def Acc.admits (a : Acc) (y : Near) (c : Word) : Bool :=
  match f32 c with
  | .fin neg m e =>
    let near (b : Dy) : Bool := ((FV.fin neg m e).dy.sub b).abs.le (a.tol b)
    near y.lo && near y.hi
  | _ => false

/-- Subnormals to zero of the same sign (R199). -/
def flushSub (x : Word) : Word := if x.toNat / 2 ^ 23 % 256 = 0 then x &&& 0x80000000#32 else x

/-- The result of special function k at x where R199 gives y and an accuracy. Whether the flush of a result below 2^-126 looks
at the exact result or at the approximated one R199 leaves open; the model flushes the approximated one, with its sign (log
entry 74). -/
def sfuSettle (k : Nat) (x : Word) (a : Acc) (y : Near) : Word :=
  let c := Config.sfuValue k x
  flushSub (if a.admits y c then c else toF32 (FV.ofDy y.lo false))

/-- FP32 constants. -/
def f32Nan : Word := 0x7FC00000
def f32Inf (neg : Bool) : Word := if neg then 0xFF800000 else 0x7F800000
def f32Zero (neg : Bool) : Word := if neg then 0x80000000 else 0
def f32One (neg : Bool) : Word := if neg then 0xBF800000 else 0x3F800000

/-- RCP (R199). -/
def sfuRcp (x : Word) : Word :=
  match f32 (flushSub x) with
  | .nan => f32Nan
  | .inf n => f32Zero n
  | .fin n m e => if m = 0 then f32Inf n else sfuSettle 0 x (.ulps 1) (.ofSticky (FV.div (.fin false 1 0) (.fin n m e)))

/-- RSQ (R199). -/
def sfuRsq (x : Word) : Word :=
  match f32 (flushSub x) with
  | .nan => f32Nan
  | .inf n => if n then f32Nan else f32Zero false
  | .fin n m e =>
    if m = 0 then f32Inf n else if n then f32Nan
    else sfuSettle 1 x (.ulps 1) (rsqNear m e)

/-- SQRTA (R199). -/
def sfuSqrta (x : Word) : Word :=
  match f32 (flushSub x) with
  | .nan => f32Nan
  | .inf n => if n then f32Nan else f32Inf false
  | .fin n m e =>
    if m = 0 then f32Zero n else if n then f32Nan else sfuSettle 2 x (.ulps 1) (.ofSticky (FV.sqrt (.fin n m e)))

/-- A whole number that an exact value is, if it is one. -/
def wholeOf (d : Dy) : Option Int :=
  if 0 ≤ d.ex then some (d.num * (2 ^ d.ex.toNat : Nat))
  else if d.num % ((2 ^ (-d.ex).toNat : Nat) : Int) = 0 then some (d.num / ((2 ^ (-d.ex).toNat : Nat) : Int)) else none

/-- EXP2 (R199); a result above FP32's range overflows (R193). -/
def sfuExp2 (x : Word) : Word :=
  match f32 (flushSub x) with
  | .nan => f32Nan
  | .inf n => if n then f32Zero false else f32Inf false
  | .fin n m e =>
    let d := (FV.fin n m e).dy
    if (Dy.ofInt 128).le d then f32Inf false
    else if d.lt (Dy.ofInt (-150)) then f32Zero false
    else match wholeOf d with
      | some k => if -126 ≤ k then toF32 (.fin false 1 k) else f32Zero false
      | none => sfuSettle 3 x (.ulps 2) (.within (exp2Dy d) 290)

/-- LOG2 (R199). -/
def sfuLog2 (x : Word) : Word :=
  match f32 (flushSub x) with
  | .nan => f32Nan
  | .inf n => if n then f32Nan else f32Inf false
  | .fin n m e =>
    if m = 0 then f32Inf true
    else if n then f32Nan
    else if (FV.fin n m e).dy.sub (Dy.ofInt 1) |>.isZero then f32Zero false
    else
      let d := (FV.fin n m e).dy
      let a := if d.lt ⟨1, -1⟩ || (Dy.ofInt 2).lt d then Acc.ulps 2 else Acc.abs 22
      let y := log2Dy m e
      sfuSettle 4 x a (if Nat.log2 m = 0 || m % 2 ^ Nat.log2 m = 0 then ⟨y, y⟩ else .around y 190)

/-- sin(π x) for x that is not whole: exact where x is a half more than a whole number. -/
def sinPiNear (x : Dy) : Near :=
  match wholeOf (x.add ⟨1, -1⟩) with
  | some k => let y := Dy.ofInt (if k % 2 = 0 then -1 else 1); ⟨y, y⟩
  | none => .around (sinPiDy x) 290

/-- SINPI (R199). -/
def sfuSinpi (x : Word) : Word :=
  match f32 (flushSub x) with
  | .nan => f32Nan
  | .inf _ => f32Nan
  | .fin n m e =>
    if m = 0 then f32Zero n
    else match wholeOf (FV.fin n m e).dy with
      | some _ => f32Zero false
      | none => sfuSettle 5 x (.abs 22) (sinPiNear (FV.fin n m e).dy)

/-- COSPI (R199): cos(πx) = sin(π(x + 1/2)). -/
def sfuCospi (x : Word) : Word :=
  match f32 (flushSub x) with
  | .nan => f32Nan
  | .inf _ => f32Nan
  | .fin n m e =>
    let d := (FV.fin n m e).dy
    match wholeOf d with
    | some k => f32One (k % 2 != 0)
    | none =>
      let d2 := d.add ⟨1, -1⟩
      match wholeOf d2 with
      | some _ => f32Zero false
      | none => sfuSettle 6 x (.abs 22) (sinPiNear d2)

/-- TANH (R199). -/
def sfuTanh (x : Word) : Word :=
  match f32 (flushSub x) with
  | .nan => f32Nan
  | .inf n => f32One n
  | .fin n m e => if m = 0 then f32Zero n else sfuSettle 7 x (.abs 21) (.around (tanhDy (FV.fin n m e).dy) 280)

/-- SIGM (R199). -/
def sfuSigm (x : Word) : Word :=
  match f32 (flushSub x) with
  | .nan => f32Nan
  | .inf n => if n then f32Zero false else f32One false
  | .fin n m e => if m = 0 then 0x3F000000 else sfuSettle 8 x (.abs 21) (Near.around (sigmDy (FV.fin n m e).dy) 280).notBelowZero

end Sys2Proof.Machine
end

