-- ==== Sys2Proof/Machine/Convert.lean ====
section
/-! DEFINITION. FCVT and SFU (R304 to R311), but for the cullet. -/
namespace Sys2Proof.Machine

/-- R306. -/
def packPair (f : Fmt) (a b : Dword) : Dword :=
  BitVec.ofNat 64 (packElems 16 [f.round .rne (f32 (lo32 a)), f.round .rne (f32 (lo32 b))])
/-- R306. -/
def unpackPair (f : Fmt) (a : Dword) : Dword :=
  BitVec.ofNat 64 (packElems 32 ((upto 2).map fun i => fp32.round .rne (f.decode (elem 16 i a.toNat))))
/-- R307: four BF16 elements to elements of w bits. -/
def packFour (f : Fmt) (w : Nat) (a : Dword) : Dword :=
  BitVec.ofNat 64 (packElems w ((upto 4).map fun i => f.round .rne (bf16.decode (elem 16 i a.toNat))))
/-- R307: elements k to k + 3 of w bits to BF16. -/
def unpackFour (f : Fmt) (w k : Nat) (a : Dword) : Dword :=
  BitVec.ofNat 64 (packElems 16 ((upto 4).map fun i => bf16.round .rne (f.decode (elem w (i + k) a.toNat))))
/-- The eight source elements of PK4. -/
def eightOf (a b : Dword) : List Nat := (upto 4).map (fun i => elem 16 i a.toNat) ++ (upto 4).map fun i => elem 16 i b.toNat
/-- R307. -/
def packEight (a b : Dword) : Dword := BitVec.ofNat 64 (packElems 4 ((eightOf a b).map fun x => e2m1.round .rne (bf16.decode x)))
/-- R308: n signed integers of w bits saturated to v bits. -/
def packInts (n w v : Nat) (a : Dword) : Dword :=
  BitVec.ofNat 64 (packElems v ((upto n).map fun i => wrap v (clamp (minOf v) (maxOf v) (toSigned w (elem w i a.toNat)))))
/-- R308: n signed integers of w bits extended to v bits. -/
def unpackInts (n w v : Nat) (a : Dword) : Dword :=
  BitVec.ofNat 64 (packElems v ((upto n).map fun i => wrap v (toSigned w (elem w i a.toNat))))
/-- R195: the random bits of element i of n. -/
def srBits (n i : Nat) (c : Dword) : Nat := ((lo32 c).rotateLeft (32 / n * i)).toNat
/-- R309. -/
def packPairSr (f : Fmt) (a b c : Dword) : Dword :=
  BitVec.ofNat 64 (packElems 16 [f.roundSR (srBits 2 0 c) (f32 (lo32 a)), f.roundSR (srBits 2 1 c) (f32 (lo32 b))])
/-- R309. -/
def packFourSr (f : Fmt) (w : Nat) (a c : Dword) : Dword :=
  BitVec.ofNat 64 (packElems w ((upto 4).map fun i => f.roundSR (srBits 4 i c) (bf16.decode (elem 16 i a.toNat))))
/-- R309. -/
def packEightSr (a b c : Dword) : Dword :=
  BitVec.ofNat 64 (packElems 4 ((upto 8).map fun i => e2m1.roundSR (srBits 8 i c) (bf16.decode ((eightOf a b).getD i 0))))
/-- R310: SCALE. -/
def applyScale (a b : Dword) : Dword := extZ (toF32 ((f32 (lo32 a)).mul (e8m0 (b.toNat % 256))))
/-- R310: the largest exponent of an element format. -/
def escaleMax : Nat → Int
  | 0 => 8
  | 1 => 15
  | 2 => 4
  | 3 => 2
  | 4 => 2
  | _ => 0
/-- R310: ESCALE. -/
def deriveScale (f : Nat) (a : Dword) : Dword :=
  match f32 (lo32 a) with
  | .fin _ m e => if m = 0 then 0 else BitVec.ofInt 64 (clamp 0 254 (ilog m e - escaleMax f + 127))
  | _ => 0xFF
/-- R310: CBDEC. -/
def decodeLc2 (h : Nat) (a : Dword) : Dword :=
  BitVec.ofNat 64 (packElems 16 ((upto 4).map fun i =>
    bf16.round .rne (lc2Weight (elem 8 2 a.toNat) (elem 16 0 a.toNat) (4 * h + i))))

/-- R305: FP32 to i32, toward zero, saturating. -/
def execFtoi (d : Dest) (a : Operand) (s : State) : Result := compute1 d a (fun x => BitVec.ofInt 64 ((f32 (lo32 x)).toInt (minOf 32) (maxOf 32))) s
/-- R305: FP32 to n32, toward zero, saturating. -/
def execFton (d : Dest) (a : Operand) (s : State) : Result := compute1 d a (fun x => BitVec.ofInt 64 ((f32 (lo32 x)).toInt 0 (2 ^ 32 - 1))) s
/-- R305: FP32 to i64, toward zero, saturating. -/
def execFtoi64 (d : Dest) (a : Operand) (s : State) : Result := compute1 d a (fun x => BitVec.ofInt 64 ((f32 (lo32 x)).toInt (minOf 64) (maxOf 64))) s
/-- R305: FP32 to n64, toward zero, saturating. -/
def execFton64 (d : Dest) (a : Operand) (s : State) : Result := compute1 d a (fun x => BitVec.ofInt 64 ((f32 (lo32 x)).toInt 0 (2 ^ 64 - 1))) s
/-- R305. -/
def execItof (d : Dest) (a : Operand) (s : State) : Result := compute1 d a (fun x => extZ (toF32 (FV.ofInt (lo32 x).toInt))) s
/-- R305. -/
def execNtof (d : Dest) (a : Operand) (s : State) : Result := compute1 d a (fun x => extZ (toF32 (FV.ofInt (lo32 x).toNat))) s
/-- R305. -/
def execItof64 (d : Dest) (a : Operand) (s : State) : Result := compute1 d a (fun x => extZ (toF32 (FV.ofInt x.toInt))) s
/-- R305. -/
def execNtof64 (d : Dest) (a : Operand) (s : State) : Result := compute1 d a (fun x => extZ (toF32 (FV.ofInt x.toNat))) s
/-- R306: two FP32 to FP16. -/
def execPkh (d : Dest) (a b : Operand) (s : State) : Result := compute2 d a b (packPair fp16) s
/-- R306: two FP32 to BF16. -/
def execPkb (d : Dest) (a b : Operand) (s : State) : Result := compute2 d a b (packPair bf16) s
/-- R306: two FP16 to FP32. -/
def execUph (d : Dest) (a : Operand) (s : State) : Result := compute1 d a (unpackPair fp16) s
/-- R306: two BF16 to FP32. -/
def execUpb (d : Dest) (a : Operand) (s : State) : Result := compute1 d a (unpackPair bf16) s
/-- R307: four BF16 packed. -/
def execPk8e4 (d : Dest) (a : Operand) (s : State) : Result := compute1 d a (packFour e4m3 8) s
/-- R307: four elements to BF16. -/
def execUp8e4 (d : Dest) (a : Operand) (s : State) : Result := compute1 d a (unpackFour e4m3 8 0) s
/-- R307: four BF16 packed. -/
def execPk8e5 (d : Dest) (a : Operand) (s : State) : Result := compute1 d a (packFour e5m2 8) s
/-- R307: four elements to BF16. -/
def execUp8e5 (d : Dest) (a : Operand) (s : State) : Result := compute1 d a (unpackFour e5m2 8 0) s
/-- R307: four BF16 packed. -/
def execPk6e3 (d : Dest) (a : Operand) (s : State) : Result := compute1 d a (packFour e3m2 6) s
/-- R307: four elements to BF16. -/
def execUp6e3 (d : Dest) (a : Operand) (s : State) : Result := compute1 d a (unpackFour e3m2 6 0) s
/-- R307: four BF16 packed. -/
def execPk6e2 (d : Dest) (a : Operand) (s : State) : Result := compute1 d a (packFour e2m3 6) s
/-- R307: four elements to BF16. -/
def execUp6e2 (d : Dest) (a : Operand) (s : State) : Result := compute1 d a (unpackFour e2m3 6 0) s
/-- R307: eight BF16 to E2M1. -/
def execPk4 (d : Dest) (a b : Operand) (s : State) : Result := compute2 d a b (packEight) s
/-- R307: E2M1 elements 0 to 3. -/
def execUp4l (d : Dest) (a : Operand) (s : State) : Result := compute1 d a (unpackFour e2m1 4 0) s
/-- R307: E2M1 elements 4 to 7. -/
def execUp4h (d : Dest) (a : Operand) (s : State) : Result := compute1 d a (unpackFour e2m1 4 4) s
/-- R308. -/
def execPki8 (d : Dest) (a : Operand) (s : State) : Result := compute1 d a (packInts 4 16 8) s
/-- R308. -/
def execUpi8 (d : Dest) (a : Operand) (s : State) : Result := compute1 d a (unpackInts 4 8 16) s
/-- R308. -/
def execPki4 (d : Dest) (a : Operand) (s : State) : Result := compute1 d a (packInts 8 8 4) s
/-- R308. -/
def execUpi4 (d : Dest) (a : Operand) (s : State) : Result := compute1 d a (unpackInts 8 4 8) s
/-- R310. -/
def execScale (d : Dest) (a b : Operand) (s : State) : Result := compute2 d a b (applyScale) s
/-- R310. -/
def execEscale (d : Dest) (a : Operand) (k : BitVec 7) (s : State) : Result := compute1 d a (deriveScale k.toNat) s
/-- R310. -/
def execCbdec (d : Dest) (a : Operand) (k : BitVec 7) (s : State) : Result := compute1 d a (decodeLc2 k.toNat) s
/-- R309. -/
def execPkhSr (d : Dest) (a b c : Operand) (s : State) : Result := compute3 d a b c (fun x y z => packPairSr fp16 x y z) s
/-- R309. -/
def execPkbSr (d : Dest) (a b c : Operand) (s : State) : Result := compute3 d a b c (fun x y z => packPairSr bf16 x y z) s
/-- R309. -/
def execPk8e4Sr (d : Dest) (a c : Operand) (s : State) : Result := compute2x d a c (packFourSr e4m3 8) s
/-- R309. -/
def execPk8e5Sr (d : Dest) (a c : Operand) (s : State) : Result := compute2x d a c (packFourSr e5m2 8) s
/-- R309. -/
def execPk6e3Sr (d : Dest) (a c : Operand) (s : State) : Result := compute2x d a c (packFourSr e3m2 6) s
/-- R309. -/
def execPk6e2Sr (d : Dest) (a c : Operand) (s : State) : Result := compute2x d a c (packFourSr e2m3 6) s
/-- R309. -/
def execPk4Sr (d : Dest) (a b c : Operand) (s : State) : Result := compute3 d a b c (packEightSr) s

/-! ## Special functions (R311) -/

/-- R199, R311. -/
def execRcp (d : Dest) (a : Operand) (s : State) : Result := compute1 d a (unZ sfuRcp) s
/-- R199, R311. -/
def execRsq (d : Dest) (a : Operand) (s : State) : Result := compute1 d a (unZ sfuRsq) s
/-- R199, R311. -/
def execSqrta (d : Dest) (a : Operand) (s : State) : Result := compute1 d a (unZ sfuSqrta) s
/-- R199, R311. -/
def execExp2 (d : Dest) (a : Operand) (s : State) : Result := compute1 d a (unZ sfuExp2) s
/-- R199, R311. -/
def execLog2 (d : Dest) (a : Operand) (s : State) : Result := compute1 d a (unZ sfuLog2) s
/-- R199, R311. -/
def execSinpi (d : Dest) (a : Operand) (s : State) : Result := compute1 d a (unZ sfuSinpi) s
/-- R199, R311. -/
def execCospi (d : Dest) (a : Operand) (s : State) : Result := compute1 d a (unZ sfuCospi) s
/-- R199, R311. -/
def execTanh (d : Dest) (a : Operand) (s : State) : Result := compute1 d a (unZ sfuTanh) s
/-- R199, R311. -/
def execSigm (d : Dest) (a : Operand) (s : State) : Result := compute1 d a (unZ sfuSigm) s

end Sys2Proof.Machine
end

