-- ==== Sys2Proof/Machine/Digest.lean ====
section
/-! DEFINITION. SHA-256 (FIPS 180-4), which names a code object's contents (R430). -/
namespace Sys2Proof.Machine

/-- The round constants. -/
def shaK : List Word :=
  [0x428A2F98, 0x71374491, 0xB5C0FBCF, 0xE9B5DBA5, 0x3956C25B, 0x59F111F1, 0x923F82A4, 0xAB1C5ED5] ++
  [0xD807AA98, 0x12835B01, 0x243185BE, 0x550C7DC3, 0x72BE5D74, 0x80DEB1FE, 0x9BDC06A7, 0xC19BF174] ++
  [0xE49B69C1, 0xEFBE4786, 0x0FC19DC6, 0x240CA1CC, 0x2DE92C6F, 0x4A7484AA, 0x5CB0A9DC, 0x76F988DA] ++
  [0x983E5152, 0xA831C66D, 0xB00327C8, 0xBF597FC7, 0xC6E00BF3, 0xD5A79147, 0x06CA6351, 0x14292967] ++
  [0x27B70A85, 0x2E1B2138, 0x4D2C6DFC, 0x53380D13, 0x650A7354, 0x766A0ABB, 0x81C2C92E, 0x92722C85] ++
  [0xA2BFE8A1, 0xA81A664B, 0xC24B8B70, 0xC76C51A3, 0xD192E819, 0xD6990624, 0xF40E3585, 0x106AA070] ++
  [0x19A4C116, 0x1E376C08, 0x2748774C, 0x34B0BCB5, 0x391C0CB3, 0x4ED8AA4A, 0x5B9CCA4F, 0x682E6FF3] ++
  [0x748F82EE, 0x78A5636F, 0x84C87814, 0x8CC70208, 0x90BEFFFA, 0xA4506CEB, 0xBEF9A3F7, 0xC67178F2]

/-- The first hash value. -/
def shaH : List Word :=
  [0x6A09E667, 0xBB67AE85, 0x3C6EF372, 0xA54FF53A, 0x510E527F, 0x9B05688C, 0x1F83D9AB, 0x5BE0CD19]

def rotr (x : Word) (n : Nat) : Word := x.rotateRight n

/-- The message schedule, newest word first: so many words more. -/
def shaExpand : Nat → List Word → List Word
  | 0, w => w
  | n + 1, w =>
    let a := w.getD 14 0
    let b := w.getD 1 0
    let s0 := rotr a 7 ^^^ rotr a 18 ^^^ (a >>> 3)
    let s1 := rotr b 17 ^^^ rotr b 19 ^^^ (b >>> 10)
    shaExpand n ((w.getD 15 0 + s0 + w.getD 6 0 + s1) :: w)

/-- One round over the eight working variables. -/
def shaRound (v : List Word) (kw : Word × Word) : List Word :=
  let a := v.getD 0 0
  let e := v.getD 4 0
  let t1 := v.getD 7 0 + (rotr e 6 ^^^ rotr e 11 ^^^ rotr e 25) + ((e &&& v.getD 5 0) ^^^ (~~~e &&& v.getD 6 0)) + kw.1 + kw.2
  let t2 := (rotr a 2 ^^^ rotr a 13 ^^^ rotr a 22) + ((a &&& v.getD 1 0) ^^^ (a &&& v.getD 2 0) ^^^ (v.getD 1 0 &&& v.getD 2 0))
  [t1 + t2, a, v.getD 1 0, v.getD 2 0, v.getD 3 0 + t1, e, v.getD 5 0, v.getD 6 0]

/-- One block of sixteen words. -/
def shaBlock (h : List Word) (m : List Word) : List Word :=
  let w := (shaExpand 48 m.reverse).reverse
  let v := (shaK.zip w).foldl shaRound h
  (h.zip v).map fun p => p.1 + p.2

/-- Words of bytes, the first byte highest. -/
def beWords : List Byte → List Word
  | a :: b :: c :: d :: r => BitVec.ofNat 32 (leNat [d, c, b, a]) :: beWords r
  | _ => []

/-- Blocks of sixteen words, one after another. -/
def shaBlocks : Nat → List Word → List Word → List Word
  | 0, h, _ => h
  | n + 1, h, ws => shaBlocks n (shaBlock h (ws.take 16)) (ws.drop 16)

/-- SHA-256 of bytes. -/
def sha256 (m : List Byte) : List Word :=
  let z := (119 - m.length % 64) % 64
  let all := m ++ [0x80] ++ List.replicate z 0 ++ (leBytes 8 (8 * m.length)).reverse
  shaBlocks (all.length / 64) shaH (beWords all)

end Sys2Proof.Machine
end

