-- ==== Sys2Proof/Machine/Sched.lean ====
section
/-! DEFINITION. The block scheduler and configuration (R209 to R212, R221 to R226, R466, R469 to R471). -/
namespace Sys2Proof.Machine

/-! ## Ranking (R223, R224) -/

/-- The words of a block's body, for the barriers that its BAR and ARRIVE nodes name: those of its configuration or of its
configuration image, and otherwise those that a fetch gives (log entry 39). -/
def State.peekBody (s : State) (core : Nat) (w : WSet) : List Word :=
  let fb := s.fabric core
  match fb.cfgs.find? fun c => c.ctx == w.ctx && c.hdr == w.hdr && !c.retiring with
  | some c => c.words.drop 4
  | none => match fb.images.find? fun im => im.ctx == w.ctx && im.hdr == w.hdr with
    | some im => im.words.drop 4
    | none => match w.words with
      | none => []
      | some ws => match (s.fetchWords core w.ctx (w.hdr.toNat + 16) (hdrN (ws.getD 0 0))).2 with
        | .ok body => body
        | .error _ => []

/-- The ready fibres of one gather, all admitted, would complete a barrier (R224). -/
def State.wouldComplete (s : State) (fs : List Nat) (b g : Nat) : Bool :=
  match s.gather? g with
  | none => false
  | some ga =>
    let x := ga.bar b
    let more := ((fs.filter fun f => gatherOf f == g).map fiOf).filter fun k => !x.arr.contains k
    decide ((s.liveFibres g).length ≤ more.eraseDups.length + x.na)

/-- Class 1: the block has JOINB, and its ready fibres would complete one of its barriers. -/
def State.wouldJoin (s : State) (core : Nat) (w : WSet) (ready : List (Nat × Fibre)) : Bool :=
  match w.words with
  | none => false
  | some ws => hdrJoinb (ws.getD 0 0) &&
    (let fs := ready.map (·.1)
     let gs := (fs.map gatherOf).eraseDups
     (barriersOf (s.peekBody core w)).any fun b => gs.any fun g => s.wouldComplete fs b g)

/-- The ready fibres of a set that its failed build is not still to reach. -/
def State.rankReady (s : State) (core : Nat) (w : WSet) : List (Nat × Fibre) :=
  (s.readyIn core w).filter fun p => !w.failing.contains p.1

/-- The class of a set with ready fibres (R224). -/
def State.classOf (s : State) (core : Nat) (w : WSet) (ready : List (Nat × Fibre)) : Nat :=
  if s.wouldJoin core w ready then 1 else if ready.any fun p => s.isAged p.2 then 2 else 3

/-- The oldest start of waiting among ready fibres. -/
def oldest (ready : List (Nat × Fibre)) : Nat := ((minBy (·.2.since) ready).map (·.2.since)).getD 0

/-- The block of a set is configured, and not retiring. -/
def Fabric.configured (fb : Fabric) (ctx : Nat) (hdr : Dword) : Bool :=
  fb.cfgs.any fun c => c.ctx == ctx && c.hdr == hdr && !c.retiring

/-- What a set is ranked by, the first in lexicographic order (R224). -/
def State.rank (s : State) (core : Nat) (w : WSet) : List Nat :=
  let ready := s.rankReady core w
  let c := s.classOf core w ready
  [c, (if c = 3 then 1024 * 32 - ready.length else 0), oldest ready, w.hdr.toNat, w.ctx]

/-- Lexicographic order. -/
def lexLt : List Nat → List Nat → Bool
  | [], _ => false
  | _ :: _, [] => false
  | a :: r, b :: t => decide (a < b) || (a == b && lexLt r t)

/-- The first of the sets by rank. -/
def firstOf : List (List Nat × WSet) → Option (List Nat × WSet)
  | [] => none
  | x :: r => match firstOf r with
    | none => some x
    | some y => if lexLt y.1 x.1 then some y else some x

/-- The unconfigured sets of a core with a waiting count above 0. -/
def State.candidates (s : State) (core : Nat) : List WSet :=
  let fb := s.fabric core
  fb.sets.filter fun w => !fb.configured w.ctx w.hdr && !(s.rankReady core w).isEmpty

/-! ## Regions (R210, R225, R466) -/

/-- The places where so many regions may stand. -/
def places (n : Nat) : List Nat := if n = 1 then [0, 1, 2, 3] else if n = 2 then [0, 2] else [0]

/-- A configured block takes one of the regions. -/
def Config.meets (c : Config) (reg n : Nat) : Bool := decide (c.reg < reg + n) && decide (reg < c.reg + c.regs)

/-- The first place that only retiring blocks take, if any does. -/
def freePlace (cfgs : List Config) (n : Nat) : Option Nat :=
  (places n).find? fun r => !(cfgs.any fun c => !c.retiring && c.meets r n)

/-- The waiting set of a configured block, as its ready fibres and class; no set means nobody waits. -/
def State.waiting (s : State) (core : Nat) (c : Config) : List (Nat × Fibre) × Nat :=
  let w : WSet := ⟨c.ctx, c.hdr, some (c.words.take 4), none, []⟩
  let ready := s.readyIn core w
  (ready, if ready.isEmpty then 3 else s.classOf core w ready)

/-- An instance of the block stands at a BAR that has not been released (R225). -/
def State.atBarrier (s : State) (c : Config) : Bool :=
  s.fab.insts.any fun i => i.2.cfg == c.id && i.2.bars.any fun b => i.2.todo.contains b.1

/-- The configured blocks that may be retired, in the order of R225 and R466: as waiting count, and when configured. -/
def State.retirable (s : State) (core : Nat) : List Config :=
  let l := ((s.fabric core).cfgs.filter fun c => !c.retiring && !s.atBarrier c).map fun c => (c, s.waiting core c)
  let l := l.filter fun x => x.2.2 == 3
  (sortBy (fun x y => decide (x.2.1.length < y.2.1.length) || (x.2.1.length == y.2.1.length && decide (x.1.at_ ≤ y.1.at_))) l).map (·.1)

/-- Blocks retired one after another until so many regions can be had. -/
def retireUntil (n : Nat) : List Config → List Config → List Config
  | [], cfgs => cfgs
  | c :: r, cfgs =>
    if (freePlace cfgs n).isSome then cfgs
    else retireUntil n r (cfgs.map fun x => if x.id == c.id then x.retire else x)

/-- Room is made for a chosen set of class 1 or 2 (R225). -/
def State.makeRoom (s : State) (core : Nat) (w : WSet) (im : Image) : State :=
  if s.classOf core w (s.rankReady core w) = 3 then s
  else
    let fb := s.fabric core
    s.setFabric core { fb with cfgs := retireUntil (regionsFor (im.words.drop 4)) (s.retirable core) fb.cfgs }

/-! ## Builds (R211, R469, R470) -/

def Fabric.image? (fb : Fabric) (ctx : Nat) (hdr : Dword) : Option Image := fb.images.find? fun im => im.ctx == ctx && im.hdr == hdr
def Fabric.set? (fb : Fabric) (ctx : Nat) (hdr : Dword) : Option WSet := fb.sets.find? fun w => w.ctx == ctx && w.hdr == hdr
def Fabric.modSet (fb : Fabric) (ctx : Nat) (hdr : Dword) (fn : WSet → WSet) : Fabric :=
  { fb with sets := fb.sets.map fun w => if w.ctx == ctx && w.hdr == hdr then fn w else w }

/-- The lines of a block that a build reads, as far as its header words are known. -/
def buildLines (hdr : Dword) (ws : Option (List Word)) : List Nat :=
  codeLines hdr.toNat (4 + match ws with
    | some ws => if hdrIsHeader (ws.getD 0 0) then hdrN (ws.getD 0 0) else 0
    | none => 0)

/-- The reads of a build: lines that are absent are asked for (R469). -/
def State.askLines (s : State) (core ctx : Nat) (ls : List Nat) : State :=
  s.setFabric core (ls.foldl (fun fb l => fb.askLine ctx true l) (s.fabric core))

/-- The lines among these that the instruction cache does not hold. -/
def Fabric.absent (fb : Fabric) (ctx : Nat) (ls : List Nat) : List Nat := ls.filter fun l => (fb.line? ctx l).isNone

/-- The present lines among these have been read (R469: least recently used). -/
def Fabric.touchLines (fb : Fabric) (ctx clock : Nat) (ls : List Nat) : Fabric :=
  { fb with ilines := fb.ilines.map fun l => if l.ctx == ctx && ls.contains l.line then { l with used := clock } else l }
def State.touchLines (s : State) (core ctx : Nat) (ls : List Nat) : State :=
  s.setFabric core ((s.fabric core).touchLines ctx s.clock ls)

/-- A build reads lines, all at once (R469): those that are present now, the others as their fills end. -/
def State.readLines (s : State) (core : Nat) (b : Build) (ls : List Nat) : State × Build :=
  let fb := s.fabric core
  let lost := fb.absent b.ctx ls
  let here := ls.filterMap fun l => (fb.line? b.ctx l).map fun x => (l, x.bytes)
  ((s.touchLines core b.ctx ls).askLines core b.ctx lost,
    { b with lines := b.lines ++ lost, read := here.foldl (fun m x => kvSet x.1 x.2 m) b.read })

/-- A build starts (R469); it counts as a configuration-cache miss. -/
def State.startBuild (s : State) (core : Nat) (w : WSet) : State :=
  let (s, b) := (s.count core w.ctx 4).readLines core ⟨w.ctx, w.hdr, [], [], []⟩ (buildLines w.hdr w.words)
  let fb := s.fabric core
  s.setFabric core { fb with builds := fb.builds ++ [b] }

/-- The chosen set goes on: with its image, room is made; without, its build starts. -/
def State.pursue (s : State) (core : Nat) (w : WSet) : State :=
  let fb := s.fabric core
  match fb.image? w.ctx w.hdr with
  | some im =>
    let s := s.setFabric core ({ fb with images := fb.images.map fun x => if x == im then { x with used := s.clock } else x }.modSet
      w.ctx w.hdr fun w => { w with words := some (im.words.take 4) })
    s.makeRoom core w im
  | none => if fb.builds.any fun b => b.ctx == w.ctx && b.hdr == w.hdr then s else s.startBuild core w

/-- One more cycle for the contexts in which some ready fibre of a core waits unconfigured (R379, k = 9). -/
def State.countWaiting (s : State) (core : Nat) : State :=
  (((s.candidates core).map (·.ctx)).eraseDups).foldl (fun s c => s.count core c 9) s

/-- The set chosen earlier, if it still waits. -/
def State.chosenSet (s : State) (core : Nat) : Option WSet :=
  match (s.fabric core).chosen with
  | none => none
  | some (c, h) => (s.candidates core).find? fun w => w.ctx == c && w.hdr == h

/-- SCHEDULER_CHOICE (R224, R225): the set chosen keeps its turn until it is configured, fails or no longer waits. -/
def execSchedulerChoice (core : Nat) (s : State) : Result :=
  .next (match s.chosenSet core with
    | some w => s.pursue core w
    | none => match firstOf ((s.candidates core).map fun w => (s.rank core w, w)) with
      | some (_, w) => (s.setFabric core { s.fabric core with chosen := some (w.ctx, w.hdr) }).pursue core w
      | none => s.setFabric core { s.fabric core with chosen := none })

/-! ## Line fills (R469 to R471) -/

/-- INSTRUCTION_LINE_FILL: the fill outstanding ends; a line that is present is left as it is (R471). -/
def execInstructionLineFill (core ctx line : Nat) (s : State) : Result :=
  let fb := s.fabric core
  match fb.ifills.find? fun x => x.ctx == ctx && x.line == line with
  | none => .next s
  | some x =>
    .next (match fb.line? ctx line with
      | some l => s.setFabric core { fb with ifills := fb.ifills.erase x, builds := fb.builds.map (Build.got ctx line (some l.bytes)) }
      | none => (s.finishFill core x).1)

/-- A build fails (R209, R470): its set's ready fibres take the fault, one by one. -/
def State.failBuild (s : State) (core : Nat) (b : Build) (e : Nat × Nat × Dword) : State :=
  let fb := s.fabric core
  let fb := { fb with builds := fb.builds.erase b, chosen := if fb.chosen = some (b.ctx, b.hdr) then none else fb.chosen }
  let fs := match fb.set? b.ctx b.hdr with
    | some w => (s.readyIn core w).map (·.1)
    | none => []
  s.setFabric core (fb.modSet b.ctx b.hdr fun w => { w with fail := if fs.isEmpty then none else some e, failing := fs })

/-- The lowest word of a block that lies in a failing line: its number in the block (R470). -/
def failingWord (hdr : Dword) (n : Nat) (failed : List Nat) : Nat :=
  ((upto (4 + n)).find? fun i => failed.contains ((hdr.toNat + 4 * i) % 2 ^ 64 / 128)).getD 0

/-- EIDX of a word of a block. -/
def eidxOf (i : Nat) : Nat := if i < 4 then 0x7F else i - 4

/-- An image put into the cache of 64, the least recently used making room (R211). -/
def Fabric.putImage (fb : Fabric) (im : Image) : Fabric :=
  let rest := if 64 ≤ fb.images.length then
      (match minBy (·.used) fb.images with
       | some x => fb.images.erase x
       | none => fb.images)
    else fb.images
  { fb with images := im :: rest }

/-- The image of a block whose every word has been read, or the offence that it commits (R209, R211). A word 0 that is no
header makes none: its fibres fault on admission (R220). -/
def State.finishBuild (s : State) (core : Nat) (b : Build) (ws : List Word) : State :=
  let fb := s.fabric core
  let s := s.setFabric core (fb.modSet b.ctx b.hdr fun w => { w with words := some (ws.take 4) })
  let fb := s.fabric core
  if !hdrIsHeader (ws.getD 0 0) then
    s.setFabric core { fb with builds := fb.builds.erase b, chosen := if fb.chosen = some (b.ctx, b.hdr) then none else fb.chosen }
  else match blockOffence (ws.take 4) (ws.drop 4) with
    | some e => s.failBuild core b (0x01, e, (ws.getD (if e = 0x7F then 0 else 4 + e) 0).zeroExtend 64)
    | none => s.setFabric core ({ fb with builds := fb.builds.erase b }.putImage ⟨b.ctx, b.hdr, ws, s.clock⟩)

/-- The words of a block that a build has read, where it has read every line of theirs. -/
def Build.words (b : Build) (n : Nat) : Option (List Word) :=
  if (codeLines b.hdr.toNat n).all fun l => (kvGet l b.read).isSome then some (wordsFrom b.hdr.toNat n b.read) else none

/-- CONFIG_BUILD_COMPLETE (R211, R469, R470): every line that was asked for has come or has failed. A build that first had to learn
its block's length, or that starts again, reads what it lacks. -/
def execConfigBuildComplete (core ctx hdr : Nat) (s : State) : Result :=
  let fb := s.fabric core
  match fb.builds.find? fun b => b.ctx == ctx && b.hdr.toNat == hdr with
  | none => .next s
  | some b =>
    if !b.lines.isEmpty then .next s
    else
      let known := (fb.set? b.ctx b.hdr).bind (·.words)
      let head := ((b.words 4).orElse fun _ => known).getD []
      let n := if hdrIsHeader (head.getD 0 0) then hdrN (head.getD 0 0) else 0
      if !b.failed.isEmpty then
        let i := failingWord b.hdr n b.failed
        .next (s.failBuild core b (0x0C, eidxOf i, b.hdr + BitVec.ofNat 64 (4 * i)))
      else match b.words (4 + n) with
        | some ws => .next (s.finishBuild core b ws)
        | none =>
          let (s, b') := s.readLines core b ((codeLines hdr (4 + n)).filter fun l => (kvGet l b.read).isNone)
          let fb := s.fabric core
          .next (s.setFabric core { fb with builds := fb.builds.map fun x => if x == b then b' else x })

/-! ## Placement and teardown (R221, R222, R466) -/

/-- The generation bit of regions flips when a configuration is placed on them. -/
def flipGens (reg n : Nat) (gens : KV Bool) : KV Bool :=
  (upto n).foldl (fun g k => kvSetD (reg + k) false (!(kvGetD (reg + k) false g)) g) gens

/-- CONFIG_PLACEMENT (R222): the chosen set's image goes on its regions; its first fibre is admitted 16 cycles per region
later at the earliest. -/
def execConfigPlacement (core ctx hdr : Nat) (s : State) : Result :=
  let fb := s.fabric core
  match fb.chosen, fb.images.find? fun im => im.ctx == ctx && im.hdr.toNat == hdr with
  | some (c, h), some im =>
    if c = ctx ∧ h.toNat = hdr ∧ fb.configured ctx im.hdr = false then
      let n := regionsFor (im.words.drop 4)
      match freePlace fb.cfgs n with
      | none => .next s
      | some r =>
        let (s, id) := s.takeSerial
        let gens := flipGens r n fb.gens
        let cfg : Config := ⟨id, ctx, im.hdr, im.words, r, n, kvGetD r false gens, false, [], some (s.clock + 16 * n), s.clock⟩
        .next ((s.setFabric core { fb with
          cfgs := fb.cfgs ++ [cfg], gens := gens, chosen := none
          images := fb.images.map fun x => if x == im then { x with used := s.clock } else x }).count core ctx 3)
    else .next s
  | _, _ => .next s

/-- A node of a retiring block holds no token of its generation, and the teardown has reached its inputs (R222). -/
def State.nodeClear (s : State) (c : Config) (e : Nat) : Bool :=
  let ns := nodesOf (c.words.drop 4)
  !(s.fab.insts.any fun i => i.2.cfg == c.id && i.2.todo.contains e) &&
  (match ns.find? fun q => q.1 == e with
   | some q => (feeders ns q.2).all fun x => !c.left.contains x
   | none => true)

/-- NODE_TEARDOWN (R222): the node returns to the free pool; with the last one the block is gone, though an instance
that it admitted may have still to commit. -/
def execNodeTeardown (core cfg node : Nat) (s : State) : Result :=
  let fb := s.fabric core
  match fb.cfgs.find? fun c => c.id == cfg with
  | none => .next s
  | some c =>
    if c.retiring && c.left.contains node && s.nodeClear c node then
      let left := c.left.erase node
      .next (s.setFabric core { fb with
        cfgs := if left.isEmpty then fb.cfgs.erase c else fb.cfgs.map fun x => if x == c then { c with left := left } else x })
    else .next s

end Sys2Proof.Machine
end

