-- ==== Sys2Proof/Machine/MemEvents.lean ====
section
/-! DEFINITION. The events of the memory system: window fills (R113 to R115), posted writes and drains arriving (R93, R173),
the ageing sweep (R82), coherence, evictions and recovery (R86, R91, R92, R104, R105, R116, R182), holders and homes
(R169 to R184), send allowances (R97), the end of a walk (R49, R63). -/
namespace Sys2Proof.Machine

/-! ## Window fills -/

/-- Words that an invalidation reached while their fill was outstanding stay invalid (R115). -/
def Gather.unset (g before : Gather) (ws : List Nat) : Gather :=
  ws.foldl (fun g w => if (before.word w).v then g else g.setWord w { g.word w with v := false }) g

/-- The agent number of a window fill, for the host's translation that it may wait for (R70). -/
def agentFill (g line : Nat) : Nat := 3 * 10 ^ 12 + g * 16384 + line

/-- WINDOW_FILL_COMPLETE (R113, R114): the fill serves every agent that waits for it, or fails them all; while it waits for
the host's translation it stays outstanding. -/
def execWindowFillComplete (g line : Nat) (s : State) : Result :=
  match s.ms.fills.find? fun f => f.g == g && f.line == line, s.gather? g with
  | some fl, some ga =>
    let t : State := { s with ms := { s.ms with fills := s.ms.fills.erase fl }, cur := .gather g }
    .next (match t.fillNow (agentFill g line) ga.core g line fl.q with
      | (t, none) => t.modGather g fun x => x.unset ga (fl.stale.map fun k => line * 32 + k)
      | (t, some none) => { s with ms := { s.ms with ats := t.ms.ats, hold := true } }
      | (t, some (some b)) => fl.agents.foldl (fun s a => s.addFresh a (.fail (BitVec.ofNat 8 b.cause) (BitVec.ofNat 64 b.tval)))
          (t.clearFresh (agentFill g line)))
  | _, _ => .next s

/-! ## Posted writes (R93, R95) -/

/-- A token that is first on its circuit and has left its sender. -/
def State.arrived (s : State) (i : Nat) : Option Posted :=
  match s.ms.posted[i]? with
  | none => none
  | some p => if p.sent && !((s.ms.posted.take i).any fun x => x.circ == p.circ) then some p else none

/-- A posted write, RED or addition as its home performs it; what goes to a link die leaves the part. -/
def State.performPosted (s : State) (p : Posted) : State :=
  match p.what with
  | .write cs own _ => if 8 ≤ p.dst then s else (linesOf cs).foldl (fun s l => s.writeLine (homeOf s (l * 128)) l cs true own) s
  | .bounded cs own _ => (linesOf cs).foldl (fun s l => (s.drainLine l).writeLine (homeOf s (l * 128)) l cs true own) s
  | .red fn w64 pa x rel =>
    s.redAt (homeOf s pa) ⟨fn, w64, 0, 0, true⟩ (addrs pa (if w64 then 8 else 4)) (x.toNat % 2 ^ atomBits w64) rel
  | .add line e k x => s.addAtHome line e k x
  | _ => s

/-- The token numbered i leaves its circuit; what it causes travels on its circuit set (R94). -/
def State.takeToken (s : State) (i : Nat) (p : Posted) : State :=
  { s with ms := { s.ms with posted := dropAt i s.ms.posted }, cur := .token p.set }

/-- HOME_WRITE (R93, R95): the token numbered i on the circuits, if nothing precedes it on its own. A token of an incarnation
that is over is discarded (R105). -/
def execHomeWrite (i : Nat) (s : State) : Result :=
  .next (match s.arrived i with
    | none => s
    | some p => match p.what with
      | .fence _ => s
      | .drain _ _ _ _ _ => s
      | _ => if s.outdated p then s.takeToken i p else (s.takeToken i p).performPosted p)

/-- DRAIN_APPLIED (R172, R173); a drain of an incarnation that is over is discarded (R105). -/
def execDrainApplied (i : Nat) (s : State) : Result :=
  .next (match s.arrived i with
    | none => s
    | some p => match p.what with
      | .drain d l k sums back =>
        if s.outdated p then s.takeToken i p
        else
          let s := (s.takeToken i p).applySums l k sums
          (match back with
           | some x => s.giveBack d l x
           | none => s)
      | _ => s)

/-- The first token of a circuit that its sender holds. -/
def heldAt (circ : Nat) : List Posted → Option Nat
  | [] => none
  | p :: r => if p.circ == circ && !p.sent then some 0 else (heldAt circ r).map (· + 1)

/-- Held tokens of a circuit leave, in order, while every hop has an allowance (R97). -/
def releaseHeld : Nat → State → Nat → State
  | 0, s, _ => s
  | n + 1, s, circ =>
    match heldAt circ s.ms.posted with
    | none => s
    | some i => match s.ms.posted[i]? with
      | none => s
      | some p =>
        let hops := s.hopsBetween p.src p.dst
        if s.allowed circ hops then
          let s := s.spend circ hops
          releaseHeld n { s with ms := { s.ms with posted := modAt (fun p => { p with sent := true }) i s.ms.posted } } circ
        else s

/-- SEND_ALLOWANCE_GRANT (R97). -/
def execSendAllowanceGrant (circ hop flits : Nat) (s : State) : Result :=
  .next (releaseHeld s.ms.posted.length (s.setAllowance circ hop (s.allowance circ hop + flits)) circ)

/-! ## First-level caches (R82) -/

/-- A byte has been in a first-level cache for so many cycles. -/
def State.oldByte (s : State) (age : Nat) (b : L1Byte) : Bool := decide (b.at_ + age ≤ s.clock)
/-- The age at which a sweep takes a line: half of what R82 allows (log entry 61). -/
def sweepAge : Nat := 2 ^ 15
/-- The cores whose first-level cache holds a byte of an age. -/
def State.oldCores (s : State) (age : Nat) : List Nat :=
  ((s.ms.l1.filter fun b => s.oldByte age b.2).map (·.1 / 2 ^ 52)).eraseDups

/-- One line leaves a core's first-level cache as far as its circuits let it: its clean bytes always, and its dirty ones where
their writeback does not have to wait (R82, R97). -/
def State.sweepLine (s : State) (core line : Nat) : State :=
  (s.writebackSome core (· == line)).dropClean core (· == line)

/-- An ageing sweep of a core's first-level cache takes the lines that hold an old byte. -/
def State.sweep (s : State) (core : Nat) : State :=
  let old := (((s.l1Bytes core).filter fun p => s.oldByte sweepAge p.2).map fun p => lineOf p.1).eraseDups
  old.foldl (fun s l => s.sweepLine core l) s

/-- L1_AGEING_SWEEP (R82). -/
def execL1AgeingSweep (core : Nat) (s : State) : Result := .next (s.sweep core)

/-- The ways of a first-level set, and the sets of a cache of so many banks: 64 KiB are 512 lines (R79). -/
def l1Ways : Nat := 8
def l1Sets (banks : Nat) : Nat := 64 * banks

/-- The lines of one first-level cache, with their keep hints. -/
def State.l1Lines (s : State) (core : Nat) : List (Nat × Bool) :=
  (s.ms.l1tag.filter fun p => p.1 / 2 ^ 45 == core).map fun p => (p.1 % 2 ^ 45, p.2.keep)

/-- One element of a list, by a free number. -/
def pick {α : Type} (n : Nat) (l : List α) : Option α := l[n % l.length]?

/-- A line that leaves a full set: a free choice, first among those without the keep hint (R80; log entry 62). -/
def victimOf (n : Nat) (l : List (Nat × Bool)) : Option Nat :=
  let soft := l.filter fun x => !x.2
  (pick n (if soft.isEmpty then l else soft)).map (·.1)

/-- Sets of more than eight lines lose lines (R79); one whose circuit holds it back leaves later, and keeps no other traffic
(R97). -/
def State.trimL1Core : Nat → State → Nat → State
  | 0, s, _ => s
  | n + 1, s, core =>
    let ls := s.l1Lines core
    if ls.length ≤ l1Ways then s
    else
      let sets := l1Sets (partOf s core).now.l1
      let setOf (l : Nat) : Nat := Config.l1Set sets l % sets
      match ls.findSome? fun x => let m := ls.filter fun y => setOf y.1 == setOf x.1
          if l1Ways < m.length then some m else none with
      | none => s
      | some m =>
        let (s, x) := s.takeFree
        match victimOf x.toNat m with
        | none => s
        | some l => (s.sweepLine core l).trimL1Core n core
def State.trimL1 (s : State) : State :=
  if s.ms.l1tag.length ≤ l1Ways then s
  else ((s.ms.l1tag.map (·.1 / 2 ^ 45)).eraseDups).foldl (fun s c => s.trimL1Core s.ms.l1tag.length c) s

/-! ## Coherence (R91, R92) -/

/-- A line is poisoned, which is logged (R460). -/
def State.poisonLine (s : State) (line : Nat) : State :=
  State.logLine { s with ms := { s.ms with poison := line :: s.ms.poison.filter (· != line) } } 2 line

/-- What the read of a line shows of errors is logged (R460); where memory itself is read, because no die holds the line, an
uncorrectable error or a CXL.mem poison indication poisons it (R89, R100, R101). -/
def State.readError (s : State) (line : Nat) : Ecc → State
  | .clean => s
  | .corrected => s.logLine 1 line
  | .uncorrectable => if (s.sharers line).isEmpty then s.poisonLine line else s

/-- COHERENCE_REQUEST: a die asks the home for a copy, or for ownership. -/
def execCoherenceRequest (die line : Nat) (r : LineRequest) (s : State) : Result :=
  .next (if 8 ≤ die then s
    else if r.own then (s.readError line r.ecc).own die line none
    else (s.readError line r.ecc).share die line)

/-- Clean valid words of an allocation line become invalid (R116). -/
def Gather.cleanStale (g : Gather) (aline : Nat) : Gather :=
  (upto 32).foldl (fun g k =>
    let x := g.word (aline * 32 + k)
    if x.v && x.bm == 0 then g.setWord (aline * 32 + k) { x with v := false } else g) g

/-- A window line still has valid words. -/
def State.hasValid (s : State) (w : Nat × Nat) : Bool := match s.gather? w.1 with
  | some g => (upto 32).any fun k => (g.word (w.2 * 32 + k)).v
  | none => false

/-- The clean window words of a line about to leave a slice go (R116). -/
def State.cleanWins (s : State) (die line : Nat) : State :=
  (s.copyOf die line).win.foldl (fun s w => s.modGather w.1 fun g => g.cleanStale w.2) s

/-- A copy is dirty: when it goes, memory takes the line. -/
def L2Line.dirty (c : L2Line) : Bool := c.st == .m || c.st == .o

/-- A line leaves a die's slice (R86, R116, R172), on the writeback class: a home slice first drains what the records name, and keeps
the line while a circuit holds such a drain up (log entry 61); another carries them home. A dirty line is written to memory, to its port where it is of the second tier. The die stays a sharer for the windows that still hold valid words. -/
def State.evict (s : State) (die line : Nat) : State :=
  let home := homeOf s (line * 128)
  let s := if (s.heldLines die).contains line then s.forceDrain die line else s
  if (s.copyOf die line).st == .i then (if home = die then s.drainRecs die line else s)
  else
    let s := if home = die then s.drainRecs die line else s.send die home 3
    if home = die && !(s.copyOf die line).recs.isEmpty then s
    else
      let s := s.cleanWins die line
      let s := if (s.copyOf die line).dirty then s.sendTierBack line else s
      let c := s.copyOf die line
      let win := c.win.filter s.hasValid
      let s := s.setCopy die line (if win.isEmpty then ⟨.i, [], []⟩ else ⟨.s, [], win⟩)
      c.recs.foldl (fun s r => s.attach home line r) s

/-- LINE_EVICTION. -/
def execLineEviction (die line : Nat) (s : State) : Result := .next (s.evict die line)

/-- The slices of a die's second-level cache, the ways of a set, and the sets of a slice of 1 MiB (R89). -/
def l2Slices : Nat := 96
def l2Ways : Nat := 16
def l2Sets : Nat := 512

/-- A copy takes a place in a die's second-level cache: one that stands only for windows does not (R116). -/
def L2Line.placed (c : L2Line) : Bool := !(c.st == .s && c.recs.isEmpty && !c.win.isEmpty)
/-- The lines in a die's second-level cache. -/
def State.l2Lines (s : State) (die : Nat) : List Nat :=
  (s.ms.l2.filter fun p => p.1 / 2 ^ 45 == die && p.2.placed).map fun p => p.1 % 2 ^ 45
/-- Where a line stands in its die's cache, as one number. -/
def l2Place (line : Nat) : Nat := Config.l2Slice line % l2Slices * l2Sets + Config.l2Set line % l2Sets

/-- Sets of more than sixteen lines lose lines, a free choice (R89; log entry 62). -/
def State.trimL2Die : Nat → State → Nat → State
  | 0, s, _ => s
  | n + 1, s, die =>
    let ls := s.l2Lines die
    if ls.length ≤ l2Ways then s
    else match ls.findSome? fun x => let m := ls.filter fun y => l2Place y == l2Place x
        if l2Ways < m.length then some m else none with
    | none => s
    | some m =>
      let (s, x) := s.takeFree
      match pick x.toNat m with
      | none => s
      | some l => (s.attempt fun s => s.evict die l).trimL2Die n die
def State.trimL2 (s : State) : State :=
  if s.ms.l2.length ≤ l2Ways then s else (upto 8).foldl (fun s d => s.trimL2Die s.ms.l2.length d) s

/-- A copy of more than four records loses the oldest, whose core drains (R86); it stays while a circuit holds that drain up. -/
def State.trimRec (s : State) (die line : Nat) : State :=
  match (s.copyOf die line).recs with
  | o :: rest => if 4 ≤ rest.length then s.drainRec die line o else s
  | [] => s
/-- The same for every copy, as long as a drain brings records together on another (R86). -/
def State.trimRecs : Nat → State → State
  | 0, s => s
  | n + 1, s =>
    match (s.ms.l2.filter fun p => decide (4 < p.2.recs.length)).map (·.1) with
    | [] => s
    | ks =>
      let t := ks.foldl (fun s k => s.trimRec (k / 2 ^ 45) (k % 2 ^ 45)) s
      if t.ms.l2 == s.ms.l2 then t else t.trimRecs n

/-- The caches and copies hold no more than they can. -/
def State.trim (s : State) : State := (s.trimL1.trimRecs 1000).trimL2

/-- A line is recalled from some dies (R92): window words go, and its records, merged, stay at the home slice (R86). -/
def State.recallAll (s : State) (line : Nat) (ds : List Nat) : State :=
  let home := homeOf s (line * 128)
  let recs := s.recsAt line (home :: ds)
  let s := if ds.any fun d => (s.copyOf d line).dirty then s.sendTierBack line else s
  let s := ds.foldl (fun s d =>
    (((s.send home d 1).send d home 2).staleWins (s.copyOf d line).win (fun _ => true) none).setCopy d line ⟨.i, [], []⟩) s
  s.setCopy home line ⟨.i, recs, []⟩

/-- DIRECTORY_ENTRY_EVICTION (R92): the line is recalled from every die that the entry names. -/
def execDirectoryEntryEviction (line : Nat) (s : State) : Result := .next (s.recallAll line (s.sharers line))

/-- DIRECTORY_ERROR (R104): every die is asked; more than one dirty reply poisons the line; the records that come with the
replies are merged. -/
def execDirectoryError (line : Nat) (s : State) : Result :=
  let dirty := (s.sharers line).filter fun d => (s.copyOf d line).dirty
  let s := s.recallAll line (upto 8)
  .next (if 1 < dirty.length then s.poisonLine line else s)

/-- The lines of which a die holds a copy. -/
def State.linesHeld (s : State) (die : Nat) : List Nat :=
  (s.ms.l2.filter fun p => p.1 / 2 ^ 45 == die).map fun p => p.1 % 2 ^ 45

/-- The lines that a die's holder keeps something for. -/
def State.holderLines (s : State) (die : Nat) : List Nat :=
  (s.ms.holders.filter fun p => p.1 / 2 ^ 45 == die).map fun p => p.1 % 2 ^ 45

/-- A fence waits no more for tokens that are discarded. -/
def FenceWait.without (gone : List Posted) (w : FenceWait) : FenceWait :=
  { w with left := w.left - (gone.filter fun p => p.what == .fence w.agent).length }

/-- The fences of an agent that is recovered wait no more for its tokens, which are discarded as they arrive (R105). -/
def State.loseFences (s : State) (p : Posted → Bool) : State :=
  { s with ms := { s.ms with fences := s.ms.fences.map (FenceWait.without (s.ms.posted.filter p)) } }

/-- What a die's second-level cache held is gone (R105, R182): the lines that it owned, and those on which it held a share,
are poisoned; its shares return to the unallocated ones. -/
def State.clearDie (s : State) (die : Nat) : State :=
  let s := (s.linesHeld die).foldl (fun s l =>
    let c := s.copyOf die l
    let s := if c.st == .s || c.st == .i then s else s.poisonLine l
    (s.staleWins c.win (fun _ => true) none).setCopy die l ⟨.i, [], []⟩) s
  let s := s.loseFences fun p => p.src == die && !s.outdated p
  (s.holderLines die).foldl (fun s l =>
    let h := s.holder die l
    let s := if h.share.isZero then s else s.poisonLine l
    (s.dropHolder die l).giveBack die l h.share) s

/-- A core's first-level cache is gone. -/
def State.clearL1 (s : State) (core : Nat) : State :=
  let s := s.setL1 (kvFilter (fun k _ => k / 2 ^ 52 != core) s.ms.l1)
  { s with ms := { s.ms with
    l1tag := kvFilter (fun k _ => k / 2 ^ 45 != core) s.ms.l1tag, misses := s.ms.misses.filter fun m => m.core != core } }

/-- A die is taken into coherence. -/
def State.readmitted (s : State) (die : Nat) : State := { s with ms := { s.ms with out := s.ms.out.filter (· != die) } }

/-- An incarnation grows by one, from 255 to 0 (R105). -/
def State.nextInc (s : State) (k : Nat) : State :=
  { s with ms := { s.ms with inc := kvSetD k 0 ((kvGetD k 0 s.ms.inc + 1) % 256) s.ms.inc } }

/-- AGENT_REJOIN (R105, R106, R182, R460): a die's second-level cache, or a core, has been recovered; the tokens that it sent
before are discarded as they arrive. -/
def execAgentRejoin (isDie : Bool) (unit : Nat) (s : State) : Result :=
  if isDie then
    if 8 ≤ unit then .next s
    else
      let s := (s.clearDie unit).nextInc unit
      .next ((s.readmitted unit).logEvent 8 unit 0 (s.dieInc unit))
  else if 640 ≤ unit then .next s
  else
    let s := ((s.loseFences fun p => p.core == some unit && !s.outdated p).clearL1 unit).nextInc (8 + unit)
    .next (s.logEvent 8 (dieOfCore unit) (unit % 80) (s.coreInc unit))

/-! ## Holders and homes -/

/-- HOLDER_OFFER (R171): the offer numbered i goes on. -/
def execHolderOffer (i : Nat) (s : State) : Result :=
  .next (match s.ms.offers[i]? with
    | some o => s.holderStep i o
    | none => s)

/-- The first offer that asks for a grant of a line for a holder. -/
def askerOf (die line : Nat) : List Offer → Option (Nat × Offer)
  | [] => none
  | o :: r => if asksGrant die line o then some (0, o) else (askerOf die line r).map fun x => (x.1 + 1, x.2)

/-- GRANT_REQUEST (R169, R170). -/
def execGrantRequest (die line : Nat) (s : State) : Result :=
  .next (match askerOf die line s.ms.offers with
    | some (i, o) => (s.grantTo o.set die line o.lim).setOffer i { o with stage := o.stage + 1 }
    | none => s)

/-- BVDRAIN's drain is over: no named die's holder keeps an addition or a share (R184). -/
def State.bvDone (s : State) : Bool :=
  (upto 8).all fun d => !s.mg.bvDies.getLsbD d || (s.heldLines d).isEmpty
def State.bvCheck (s : State) : State :=
  if s.mg.bvBusy && s.bvDone then { s with mg := { s.mg with bvBusy := false } } else s

/-- FORCED_DRAIN (R172, R179). -/
def execForcedDrain (die line : Nat) (s : State) : Result := .next ((s.forceDrain die line).bvCheck)

/-- BVDRAIN_WRITE (R184). -/
def execBvdrainWrite (v : BitVec 32) (s : State) : Result :=
  if s.mg.bvBusy then .next { s with mg := { s.mg with bvErr := true } }
  else
    let s := { s with mg := { s.mg with bvErr := s.mg.bvErr && !v.getLsbD 9 } }
    if v.truncate 8 = (0 : BitVec 8) then .next s
    else .next ({ s with mg := { s.mg with bvDies := v.truncate 8, bvBusy := true } }.bvCheck)

/-- BVDRAIN as it reads. -/
def State.bvdrain (s : State) : Word :=
  BitVec.ofNat 32 (ofBool s.mg.bvErr * 2 ^ 9 + ofBool s.mg.bvBusy * 2 ^ 8 + s.mg.bvDies.toNat)

/-- The lines that a bounded read reads. -/
def BRead.lines (b : BRead) : List Nat := ((addrs b.pa b.len).map lineOf).eraseDups

/-- The die of an agent that waits. -/
def agentDie (agent : Nat) : Nat := if 10 ^ 12 ≤ agent then dieOfCl (agent - 10 ^ 12) else dieOf (agent / 128)

/-- BOUNDED_READ (R174 to R176): the reads of one line are served in arrival order; every line that the element lies in is
brought within the tolerance. -/
def execBoundedRead (i : Nat) (s : State) : Result :=
  match s.ms.breads[i]? with
  | none => .next s
  | some b =>
    if (s.ms.breads.take i).any fun x => x.lines.any b.lines.contains then .next s
    else
      let s : State := { s with ms := { s.ms with breads := dropAt i s.ms.breads }, cur := agentCur b.agent }
      let s := b.lines.foldl (fun s l => (s.visit (agentDie b.agent) l).drainTo l b.q b.lim) s
      let pas := addrs b.pa b.len
      .next (if (s.poisoned pas).isSome then s.addFresh b.agent (.fail 0x0D (BitVec.ofNat 64 b.va))
        else
          let (s, bs) := s.readAt (homeOf s b.pa) pas
          s.addFresh b.agent (.bytes b.pa bs))

/-- GRANT_RECORD_EVICTION (R169, R172). -/
def execGrantRecordEviction (line : Nat) (s : State) : Result :=
  let s := s.drainLine line
  .next { s with ms := { s.ms with grants := kvDel line s.ms.grants } }

/-! ## Walks -/

/-- PAGE_WALK_COMPLETE (R49, R62, R63): a walk that one of the die's walkers makes. -/
def execPageWalkComplete (i : Nat) (s : State) : Result :=
  .next (match s.ms.walks[i]? with
    | some w => if s.hasWalker i then ({ s with cur := w.cur } : State).endWalk w else s
    | none => s)

end Sys2Proof.Machine
end

