-- ==== Sys2Proof/Machine/Invalidate.lean ====
section
/-! DEFINITION. Translation invalidation (R65 to R69) and the host's translation of its aperture (R70). -/
namespace Sys2Proof.Machine

/-! ## What a command covers (R66, R68, R69) -/

def cmdKind (v : Word) : Nat := bits v.toNat 2 0
def cmdSpan (v : Word) : Nat := 2 ^ bits v.toNat 7 3
def cmdCtx (v : Word) : Nat := bits v.toNat 23 8
def cmdRgx (v : Word) : Nat := bits v.toNat 29 24

/-- The invalidation that a command starts, in pages of 16 KiB. -/
def invalOf (va : Dword) (v : Word) : Inval := ⟨cmdKind v, cmdCtx v, vpage va.toNat, cmdSpan v, cmdRgx v, []⟩

/-- Pages first and n meet the command's range. -/
def Inval.meets (c : Inval) (first n : Nat) : Bool := decide (first < c.page + c.pages) && decide (c.page < first + n)

/-- The command covers an access of a context to a page through a leaf with an RGX. -/
def Inval.covers (c : Inval) (ctx page rgx : Nat) : Bool :=
  match c.kind with
  | 1 => c.ctx == ctx && c.meets page 1
  | 2 => c.ctx == ctx
  | 3 => c.ctx == ctx && c.rgx == rgx
  | 4 => c.ctx == ctx && c.meets page 1
  | _ => true

/-- The command removes an entry of a context that stands for pages read at a level. -/
def Inval.overlaps (c : Inval) (ctx lvl page : Nat) : Bool := c.ctx == ctx && c.meets page (2 ^ (pageBits lvl - 14))

/-- The command removes a cached entry: a leaf, or a table entry above the range (R68). -/
def Inval.takes (c : Inval) : Cached → Bool
  | .leaf l => if c.kind = 1 ∨ c.kind = 4 then c.overlaps l.ctx l.lvl l.page else c.covers l.ctx l.page l.rgx
  | .table ctx lvl page _ =>
    if c.kind = 1 ∨ c.kind = 4 then c.overlaps ctx lvl page else if c.kind = 2 then c.ctx == ctx else c.kind != 3

/-- The command covers bytes of a context's code. -/
def Inval.meetsCode (c : Inval) (ctx a n : Nat) : Bool :=
  c.ctx == ctx && c.meets (vpage a) (vpage (a + n - 1) - vpage a + 1)

/-! ## The accesses that BUSY waits for (R69) -/

/-- The pages that an instance has passed its check for: those of its loads, of its stores and of its ATOMs and REDs. -/
def Inst.pages (i : Inst) : List (Nat × Nat) :=
  i.used ++ i.stores.flatMap StoreOp.pages ++ i.post.flatMap fun p => (p.place.map StoreOp.pages).getD []

/-- An instance in flight that the command waits for; for KIND 4, also one of a block of the range. -/
def State.instWaits (s : State) (c : Inval) (f : Nat) (i : Inst) : Bool :=
  let ctx := s.ctxOfFibre f
  (i.pages.any fun p => c.covers ctx p.1 p.2) || (c.kind == 4 && c.meetsCode ctx i.hdr.toNat (16 + 4 * i.n))

/-- The instances in flight, by fibre, that a command must see ended. -/
def State.waitsOf (s : State) (c : Inval) : List Nat := (s.fab.insts.filter fun i => s.instWaits c i.1 i.2).map (·.1)

/-- A copy-engine operation has moved its bytes, and its writes are on their way. -/
def CopyOp.moved (o : CopyOp) : Bool := o.ended.isSome

/-- A token carries a write or an addition that has still to be performed. -/
def Posted.carriesData (p : Posted) : Bool := match p.what with
  | .write _ _ _ => true
  | .bounded _ _ _ => true
  | .red _ _ _ _ _ => true
  | .add _ _ _ _ => true
  | _ => false

/-- The context for which an agent acts: a sequencer's, else a fibre's. -/
def State.ctxOfAgent (s : State) (agent : Nat) : Nat :=
  if 10 ^ 12 ≤ agent then ((s.seq? (agent - 10 ^ 12)).map (·.ctx)).getD 0 else s.ctxOfFibre (agent / 128)

/-- Writes and additions of a command's contexts are on their way: offered to a holder, or on a circuit of the set of the job that
owns the context (log entry 42). -/
def State.dataUnderWay (s : State) (c : Inval) : Bool :=
  (s.ms.offers.any fun o => c.kind == 5 || c.ctx == s.ctxOfAgent o.agent) ||
  (s.ms.posted.any fun p => p.carriesData && (c.kind == 5 || p.set == s.setOf (ctxOf s c.ctx).job))

/-- A committed operation that the command covers has still to be performed: an ATOM or RED, a slot load, a copy, an issued
matrix instruction, a write or an addition on its way. -/
def State.latePending (s : State) (c : Inval) : Bool :=
  (s.fab.fibres.any fun x => x.2.post.any fun p => match p.place with
    | some o => o.pages.any fun q => c.covers (s.ctxOfFibre x.1) q.1 q.2
    | none => false) ||
  (s.fab.prods.any fun p => match p.2.load with
    | some j => c.covers (s.ctxOfFibre p.2.f) (vpage j.va.toNat) j.rgx
    | none => false) ||
  (s.ms.copies.any fun q => q.2.any fun o => o.moved && (c.ctx == s.ctxOfFibre o.f || c.kind == 5)) ||
  (s.mat.seqs.any fun q => !q.2.mats.isEmpty && (c.ctx == q.2.ctx || c.kind == 5)) ||
  s.dataUnderWay c

/-! ## The command -/

/-- Cached entries, and answers not yet used, that a command removes, failures among them, and the bounded reads asked for its
contexts: what has not passed its check translates afresh (R69). -/
def State.dropLeaves (s : State) (c : Inval) : State :=
  { s with ms := { s.ms with
    breads := s.ms.breads.filter fun b => !(c.kind == 5 || c.ctx == s.ctxOfAgent b.agent)
    tlb := s.ms.tlb.filter fun t => !c.takes t.what
    fresh := s.ms.fresh.filter fun x => match x.2 with
      | .leaf l _ => !c.takes (.leaf l)
      | .fail _ _ => false
      | .refused _ _ _ _ _ => false
      | .bytes _ _ => true
      | .old _ _ => true } }

/-- A translation of a line of code for a core, its own or its die's, is among entries. -/
def mapsLine (ts : List TlbEntry) (core ctx line : Nat) : Bool :=
  ts.any fun t => (t.unit == core || t.unit == 3000 + dieOfCore core) && t.leaf?.any fun l => l.covers ctx (line * 128 % 2 ^ 64)

/-- The code of a range goes from one core (R68 KIND 4, R155, R469): lines, images, configured blocks; builds that read a line of it,
or one whose translation is among the entries that the command has removed, start again. -/
def State.dropCode (s : State) (c : Inval) (gone : List TlbEntry) (core : Nat) : State :=
  let fb := s.fabric core
  let hits (ctx : Nat) (hdr : Dword) (n : Nat) : Bool := c.meetsCode ctx hdr.toNat (4 * n)
  let lines := fb.ilines.filter fun l => !c.meetsCode l.ctx (l.line * 128) 128
  let meets (b : Build) : Bool := (b.lines ++ b.failed ++ b.read.map (·.1)).any fun l =>
    c.meetsCode b.ctx (l * 128) 128 || mapsLine gone core b.ctx l
  let s := s.setFabric core { fb with
    ilines := lines
    images := fb.images.filter fun im => !hits im.ctx im.hdr im.words.length
    cfgs := fb.cfgs.map fun x => if hits x.ctx x.hdr x.words.length then x.retire else x
    builds := fb.builds.map fun b => if meets b then b.again else b }
  s.rereadSets core fun w => w.ctx == c.ctx && c.meetsCode w.ctx w.hdr.toNat 16

/-- The bits of XLAT_CMD that a write reaches: [31:30] are reserved (R6, R66). -/
def cmdMask : Word := 0x3FFFFFFF

/-- Every walk in flight starts again from level 0 (R69). -/
def State.restartWalks (s : State) : State :=
  { s with ms := { s.ms with walks := s.ms.walks.map fun w => { w with restart := true } } }

/-- The command starts (R68). -/
def State.startInval (s : State) (v : Word) : State :=
  let c := invalOf s.mg.xlatVa v
  let gone := s.ms.tlb.filter fun t => c.takes t.what
  let s := (s.dropLeaves c).restartWalks
  let s := { s with mg := { s.mg with xlatCmd := v &&& cmdMask, inval := some { c with waits := s.waitsOf c } } }
  if c.kind = 4 then (s.fab.cores.map (·.1)).foldl (fun s k => s.dropCode c gone k) s else s

/-- A write of XLAT_CMD is refused (R68). -/
def State.invalRefused (s : State) (v : Word) : Bool :=
  s.mg.inval.isSome || decide (6 ≤ cmdKind v) ||
  ((cmdKind v == 1 || cmdKind v == 4) && s.mg.xlatVa.toNat / 2 ^ 14 % cmdSpan v != 0)

/-- A write of XLAT_CMD (R66, R68); one with KIND 0 does nothing, and a refused one sets ERR and nothing else. -/
def State.xlatCmd (s : State) (v : Word) : State :=
  if s.invalRefused v then { s with mg := { s.mg with xlatErr := true } }
  else if cmdKind v = 0 then s
  else s.startInval v

/-- A write of XLAT_CMD whose KIND is the event's, or one that R68 refuses or ignores. -/
def xlatWrite (kind : Nat) (v : Word) (s : State) : Result :=
  .next (if cmdKind v = kind || cmdKind v = 0 || decide (6 ≤ cmdKind v) then s.xlatCmd v else s)

/-- XLAT_INV_PAGE_RANGE (R68). -/
def execXlatInvPageRange (v : BitVec 32) (s : State) : Result := xlatWrite 1 v s
/-- XLAT_INV_CONTEXT (R68). -/
def execXlatInvContext (v : BitVec 32) (s : State) : Result := xlatWrite 2 v s
/-- XLAT_INV_REGION (R68). -/
def execXlatInvRegion (v : BitVec 32) (s : State) : Result := xlatWrite 3 v s
/-- XLAT_INV_CODE_RANGE (R68). -/
def execXlatInvCodeRange (v : BitVec 32) (s : State) : Result := xlatWrite 4 v s
/-- XLAT_INV_ALL (R68). -/
def execXlatInvAll (v : BitVec 32) (s : State) : Result := xlatWrite 5 v s

/-- A command of whole contexts clears CTXIDs for new contexts (R44). -/
def Inval.clears (c : Inval) (ctx : Nat) : Bool := c.kind == 5 || (c.kind == 2 && c.ctx == ctx)

/-- XLAT_INVALIDATION_DONE (R69): BUSY falls once nothing is waited for. -/
def execXlatInvalidationDone (s : State) : Result :=
  .next (match s.mg.inval with
    | some c => if c.waits.isEmpty && !s.latePending c then
        { s with mg := { s.mg with inval := none, ctxUsed := s.mg.ctxUsed.filter fun k => !c.clears k } }
      else s
    | none => s)

/-- XLAT_STAT as it reads (R67). -/
def State.xlatStat (s : State) : Word := BitVec.ofNat 32 (ofBool s.mg.xlatErr * 2 + ofBool s.mg.inval.isSome)

/-! ## The host aperture (R70) -/

/-- Waiting accesses fail. -/
def State.failWaiters (s : State) (ws : List Waiter) (cause : Nat) : State :=
  ws.foldl (fun s w => s.addFresh w.agent (.fail (BitVec.ofNat 8 cause) (BitVec.ofNat 64 w.va))) s

/-- The host refuses a request to waiting accesses. -/
def State.refuse (s : State) (a : AtsReq) (ws : List Waiter) (cause : Nat) : State :=
  ws.foldl (fun s w => s.addFresh w.agent (.refused a.func a.page a.usePri w.need.w (BitVec.ofNat 8 cause))) s

/-- The ATS requests of a function for a page that pass a test: one for contexts with the PRI bit, one for those without. -/
def AtsReq.isFor (func page : Nat) (a : AtsReq) : Bool := a.func == func && a.page == page
def State.atsWhere (s : State) (p : AtsReq → Bool) : List AtsReq := s.ms.ats.filter p
/-- Requests end, and the accesses that wait on them fail. -/
def State.dropAts (s : State) (p : AtsReq → Bool) : State := { s with ms := { s.ms with ats := s.ms.ats.filter fun a => !p a } }
def State.failAts (s : State) (p : AtsReq → Bool) (cause : Nat) : State :=
  (s.atsWhere p).foldl (fun s a => s.refuse a a.waiters cause) (s.dropAts p)
/-- Requests change. -/
def State.modAts (s : State) (p : AtsReq → Bool) (fn : AtsReq → AtsReq) : State :=
  { s with ms := { s.ms with ats := s.ms.ats.map fun a => if p a then fn a else a } }

/-- A translation put into the cache of 1024 on LD0 (R70); from a full one the oldest goes (DESIGN CHOICE, log entry 18). -/
def State.putAtc (s : State) (e : AtsEntry) : State :=
  { s with ms := { s.ms with atc := (e :: s.ms.atc.filter fun a => !(a.func == e.func && a.page == e.page)).take 1024 } }

/-- ATS_TRANSLATION_COMPLETION: what the host answers to the requests of a function for a page. Refused for lack of a page, those
without PRI fail at once, and for the others a page request is sent. -/
def execAtsTranslationCompletion (func page : Nat) (res : AtsResult) (s : State) : Result :=
  let mine := AtsReq.isFor func page
  .next (if (s.atsWhere mine).isEmpty then s
    else match res with
      | .granted pa w =>
        let asked := s.atsWhere mine
        let s := (s.dropAts mine).putAtc ⟨func, page, pa, w⟩
        if w then s else asked.foldl (fun s a => s.refuse a (a.waiters.filter fun x => x.need.w) 0x09) s
      | .denied => s.failAts mine 0x09
      | .noPage => (s.failAts (fun a => mine a && !a.usePri) 0x08).modAts (fun a => mine a && a.pri.isNone) fun a => { a with pri := some s.clock })

/-- PRI_RESPONSE: after a success the translation is asked for again; without one the access waits on. -/
def execPriResponse (func page : Nat) (ok : Bool) (s : State) : Result :=
  .next (if ok then s.modAts (AtsReq.isFor func page) fun a => { a with pri := none } else s)

/-- PRI_TIMEOUT: 2^24 cycles without a success. -/
def execPriTimeout (func page : Nat) (s : State) : Result :=
  .next (s.failAts (fun a => a.isFor func page && a.pri.any fun t => decide (t + 2 ^ 24 ≤ s.clock)) 0x08)

/-- Accesses of a fibre may be outstanding: those of an instance in flight, and those that come after commit. -/
def State.accessing (s : State) (f : Nat) : Bool := (s.inst? f).isSome || (match s.fibre? f with
  | some x => !x.post.isEmpty
  | none => false)

/-- Translations of the host that only completed accesses have used are forgotten. -/
def State.trimAts (s : State) : State :=
  if s.ms.atsUsed.isEmpty then s
  else { s with ms := { s.ms with atsUsed := s.ms.atsUsed.filter fun x => s.accessing x.1 } }

/-- A 4 KiB page of a function meets a range. -/
def atsMeets (func base span g page : Nat) : Bool := g == func && decide (page * 4096 < base + span) && decide (base < page * 4096 + 4096)

/-- A write to the host is on its way (R95): its address may be any translation's. -/
def Posted.toHost (p : Posted) : Bool := match p.what with
  | .write cells _ _ => cells.any fun c => decide (2 ^ 51 ≤ c.1)
  | _ => false

/-- ATS_INVALIDATION: it completes only after every access that used a matching entry, one that has left the cache since among
them, and the writes to the host that are on their way (log entry 42). What a sequencer, a copy or a fill does at a host address it
does in the move that translates it, but for such a write. -/
def execAtsInvalidation (func base span : Nat) (s : State) : Result :=
  if (s.ms.atsUsed.any fun x => s.accessing x.1 && atsMeets func base span x.2.1 x.2.2) || s.ms.posted.any Posted.toHost then .next s
  else .next { s with ms := { s.ms with atc := s.ms.atc.filter fun a => !atsMeets func base span a.func a.page } }

end Sys2Proof.Machine
end

