-- ==== Sys2Proof/Machine/Object.lean ====
section
/-! DEFINITION. Wilys objects as byte images (R427 to R438): their checks, in the order of R441 step 1, the digest, symbol
and import addresses, and relocation. -/
namespace Sys2Proof.Machine

/-! ## The container (R427 to R430) -/

/-- A little-endian number of an image. -/
def fileNum (img : List Byte) (off n : Nat) : Nat := leNat ((img.drop off).take n)

/-- A section table entry. -/
structure Section where
  kind : Nat
  align : Nat
  off : Nat
  size : Nat
  addr : Nat
  deriving DecidableEq, Repr

def objNsec (img : List Byte) : Nat := fileNum img 0 1
def objTarget (img : List Byte) : Nat := fileNum img 3 1
def objPref (img : List Byte) : Nat := fileNum img 8 8
def objSpan (img : List Byte) : Nat := fileNum img 16 8
def objSectab (img : List Byte) : Nat := fileNum img 24 8
def objFlen (img : List Byte) : Nat := fileNum img 32 8

/-- The section table. -/
def sectionsOf (img : List Byte) : List Section :=
  (upto (objNsec img)).map fun i =>
    let o := objSectab img + 32 * i
    ⟨fileNum img (o + 7) 1, fileNum img (o + 6) 1, fileNum img (o + 8) 8, fileNum img (o + 16) 8, fileNum img (o + 24) 8⟩

/-- Kinds that are loaded, that are writable, and that are copied for each context (R430). -/
def Section.loaded (x : Section) : Bool := decide (1 ≤ x.kind) && decide (x.kind ≤ 6)
def Section.priv (x : Section) : Bool := x.kind == 4 || x.kind == 5
def Section.exec (x : Section) : Bool := x.kind == 1 || x.kind == 2
/-- Bytes that the section takes in the file. -/
def Section.fileSize (x : Section) : Nat := if x.kind = 5 then 0 else x.size
/-- The contents of a section. -/
def Section.bytes (x : Section) (img : List Byte) : List Byte := (img.drop x.off).take x.fileSize
/-- The section of a kind. -/
def ofKind (ss : List Section) (k : Nat) : Option Section := ss.find? fun x => x.kind == k

/-- An error of R442: its code, the index reported, and P for an overflow. -/
structure LoadErr where
  code : Nat
  idx : Nat
  p : Dword
  deriving DecidableEq, Repr
def loadErr (code idx : Nat) : LoadErr := ⟨code, idx, 0⟩

/-- The header (R428): code 1, or 11 for the target. -/
def headerErr (img : List Byte) : Option LoadErr :=
  if img.length < 64 || fileNum img 4 4 != 0x57594C53 || fileNum img 2 1 != 1 || objNsec img == 0 || decide (16 < objNsec img) ||
    objSpan img % 2 ^ 14 != 0 || objSpan img == 0 || decide (2 ^ 30 < objSpan img) || objPref img % 2 ^ 14 != 0 ||
    !canonical (objPref img) || objSectab img % 32 != 0 || objFlen img != img.length ||
    decide (img.length < objSectab img + 32 * objNsec img) then some (loadErr 1 0)
  else if objTarget img = 0 || decide (3 < objTarget img) then some (loadErr 11 0)
  else none

/-- Two loaded sections overlap, or share a page though they differ in permissions or in copy kind (R430). One of SIZE 0 strictly
inside another overlaps it (log entry 43). -/
def clash (x y : Section) : Bool :=
  x.loaded && y.loaded &&
  ((decide (x.addr < y.addr + y.size) && decide (y.addr < x.addr + x.size)) ||
   ((x.priv != y.priv || x.exec != y.exec) && decide (0 < x.size) && decide (0 < y.size) &&
    decide (x.addr / 2 ^ 14 ≤ (y.addr + y.size - 1) / 2 ^ 14) && decide (y.addr / 2 ^ 14 ≤ (x.addr + x.size - 1) / 2 ^ 14)))

/-- One section by itself is as R429 and R430 want it. -/
def sectionOk (flen span : Nat) (x : Section) : Bool :=
  decide (1 ≤ x.kind) && decide (x.kind ≤ 12) && decide (2 ≤ x.align) && decide (x.align ≤ 14) &&
  (x.kind != 5 || x.off == 0) && decide (x.off + x.fileSize ≤ flen) &&
  (if x.loaded then x.addr % 2 ^ x.align == 0 && decide (x.addr + x.size ≤ span) else x.addr == 0)

/-- The first section that offends, by itself or against an earlier one. -/
def sectionsBad (flen span : Nat) : List Section → List Section → Nat → Option Nat
  | _, [], _ => none
  | seen, x :: r, i =>
    if !sectionOk flen span x || seen.any (fun y => y.kind == x.kind || clash x y) then some i
    else sectionsBad flen span (seen ++ [x]) r (i + 1)

/-- The section table (code 2); .text and .meta must be there. -/
def tableErr (img : List Byte) (ss : List Section) : Option LoadErr :=
  match sectionsBad (objFlen img) (objSpan img) [] ss 0 with
  | some i => some (loadErr 2 i)
  | none => if (ofKind ss 1).isNone || (ofKind ss 10).isNone then some (loadErr 2 ss.length) else none

/-! ## Kernel descriptors (R431, R432) -/

/-- A word of .text at an offset from the base. -/
def textWord (img : List Byte) (ss : List Section) (off : Nat) : Option Word :=
  match ofKind ss 1 with
  | none => none
  | some t => if t.addr ≤ off ∧ off + 4 ≤ t.addr + t.size ∧ off % 4 = 0 then
      some (BitVec.ofNat 32 (fileNum img (t.off + (off - t.addr)) 4)) else none

def noHandlerOff : Nat := 2 ^ 64 - 1

/-- A descriptor is valid (R432). NAME is below the size of .str, and 0 where the object has none (log entry 43). -/
def kernelOk (img : List Byte) (ss : List Section) (o : Nat) : Bool :=
  let d (k : Nat) := fileNum img (o + 8 * k) 8
  let g := bits (d 2) 63 48
  let w := bits (d 2) 47 32
  let x := bits (d 2) 31 0
  let nameOk := match ofKind ss 9 with
    | some t => decide (bits (d 4) 63 32 < t.size)
    | none => bits (d 4) 63 32 == 0
  decide (1 ≤ g) && decide (g ≤ 1024) && decide (48 ≤ w) && decide (w ≤ 256) && w % 16 == 0 && x % 1024 == 0 && decide (x ≤ 1835008) &&
  nameOk && bits (d 4) 31 1 == 0 && d 5 == 0 && d 6 == 0 && d 7 == 0 &&
  (match textWord img ss (d 0) with
   | some h => hdrIsHeader h && hdrEntry h
   | none => false) &&
  (d 1 == noHandlerOff || (match textWord img ss (d 1) with
   | some h => hdrIsHeader h && hdrTraph h
   | none => false))

/-- The kernel descriptors (code 3). A .meta of a SIZE that R431 does not allow has that code too, with the index SIZE / 64
(log entry 43). -/
def metaErr (img : List Byte) (ss : List Section) : Option LoadErr :=
  match ofKind ss 10 with
  | none => none
  | some m =>
    if m.size % 64 ≠ 0 || m.size = 0 || decide (4096 < m.size / 64) then some (loadErr 3 (m.size / 64))
    else ((upto (m.size / 64)).find? fun k => !kernelOk img ss (m.off + 64 * k)).map (loadErr 3)

/-- The kernels of an object at a base. -/
def kernelsAt (img : List Byte) (ss : List Section) (base : Nat) : List Kernel :=
  match ofKind ss 10 with
  | none => []
  | some m => (upto (m.size / 64)).map fun k =>
    let d (j : Nat) := fileNum img (m.off + 64 * k + 8 * j) 8
    { entry := BitVec.ofNat 64 (base + d 0)
      handler := if d 1 = noHandlerOff then 0 else BitVec.ofNat 64 (base + d 1)
      gather := bits (d 2) 63 48, window := bits (d 2) 47 32, scratch := bits (d 2) 31 0, estimate := d 3, idem := bit (d 4) 0 }

/-! ## Symbols (R433, R434) -/

/-- A symbol record. -/
structure Sym where
  name : Nat
  kind : Nat
  sec : Nat
  global : Bool
  rsv : Nat
  value : Nat
  size : Nat
  deriving DecidableEq, Repr

def symsOf (img : List Byte) (ss : List Section) : List Sym :=
  match ofKind ss 8 with
  | none => []
  | some t => (upto (t.size / 24)).map fun i =>
    let d0 := fileNum img (t.off + 24 * i) 8
    ⟨bits d0 63 32, bits d0 31 24, bits d0 23 16, bit d0 0, bits d0 15 1, fileNum img (t.off + 24 * i + 8) 8,
      fileNum img (t.off + 24 * i + 16) 8⟩

/-- The bytes of a name, up to its NUL; none where .str does not hold one. -/
def nameAt (img : List Byte) (ss : List Section) (off : Nat) : Option (List Byte) :=
  match ofKind ss 9 with
  | none => none
  | some t =>
    let b := (t.bytes img).drop off
    if b.contains 0 then some (b.takeWhile (· != 0)) else none

/-- A symbol record is good; the first is the null symbol. A reserved bit that is not 0 makes it bad, and so does KIND 0 in another one
(log entry 43). -/
def symOk (img : List Byte) (ss : List Section) (i : Nat) (y : Sym) : Bool :=
  if i = 0 then y == ⟨0, 0, 0xFF, false, 0, 0, 0⟩ || y == ⟨0, 0, 0, false, 0, 0, 0⟩
  else
    decide (1 ≤ y.kind) && decide (y.kind ≤ 4) && y.rsv == 0 && (nameAt img ss y.name).isSome &&
    (if y.kind = 4 then y.sec == 0xFF && y.value == 0
     else match ss[y.sec]? with
      | some x => x.loaded && decide (y.value ≤ x.size)
      | none => false)

/-- The symbols (code 4). A .sym of a SIZE that is no multiple of 24 has that code too, with the index of the record that it
cuts short; one of SIZE 0, which has no null symbol either, is good (log entry 43). -/
def symErr (img : List Byte) (ss : List Section) : Option LoadErr :=
  match ofKind ss 8 with
  | none => none
  | some t =>
    let ys := symsOf img ss
    if t.size % 24 ≠ 0 then some (loadErr 4 (t.size / 24))
    else ((upto ys.length).find? fun i => !symOk img ss i (ys.getD i ⟨0, 9, 0, false, 0, 0, 0⟩)).map (loadErr 4)

/-- The address of a defined symbol, at a base. -/
def symAddr (ss : List Section) (base : Nat) (y : Sym) : Int :=
  if y.kind = 0 then (base : Int) else (base : Int) + (((ss.getD y.sec ⟨0, 0, 0, 0, 0⟩).addr + y.value : Nat) : Int)

/-- The exported symbol of a name in a library at its base. -/
def exported (img : List Byte) (base : Nat) (name : List Byte) : Option Nat :=
  let ss := sectionsOf img
  ((symsOf img ss).find? fun y => y.global && decide (1 ≤ y.kind) && decide (y.kind ≤ 3) && nameAt img ss y.name == some name).map
    fun y => (symAddr ss base y).toNat

/-! ## Relocations (R435 to R437) -/

/-- A relocation record. -/
structure Rel where
  type : Nat
  sec : Nat
  rsv : Nat
  sym : Nat
  off : Nat
  add : Int
  deriving DecidableEq, Repr

def relsOf (img : List Byte) (ss : List Section) : List Rel :=
  match ofKind ss 7 with
  | none => []
  | some t => (upto (t.size / 24)).map fun i =>
    let d0 := fileNum img (t.off + 24 * i) 8
    ⟨bits d0 63 56, bits d0 55 48, bits d0 47 24, bits d0 23 0, fileNum img (t.off + 24 * i + 8) 8,
      toSigned 64 (fileNum img (t.off + 24 * i + 16) 8)⟩

/-- Bytes of the field's word or dword. -/
def Rel.width (r : Rel) : Nat := if r.type = 1 || r.type = 11 then 8 else 4

/-- The majors that a type's word may have, and whether it needs m = 1 (R436). -/
def relMajors (t : Nat) : List Nat :=
  match t with
  | 2 => [0x11]
  | 3 => [0x0C]
  | 4 => [0x10]
  | 5 => [0x0C]
  | 6 => [0x11]
  | 7 => [0x0C]
  | 8 => [0x02, 0x03, 0x04]
  | 9 => [0x05]
  | 10 => [0x06]
  | _ => []
def relLow (t : Nat) : Bool := t == 3 || t == 5 || t == 7

/-- The record whose field stands at the label that a low part names (R436). -/
def partnerOf (rs : List Rel) (ys : List Sym) (r : Rel) : Option Rel :=
  match ys[r.sym]? with
  | none => none
  | some y => rs.find? fun p => p.type == (if r.type = 3 then 2 else 6) && decide (1 ≤ y.kind) && decide (y.kind ≤ 3) &&
      p.sec == y.sec && p.off == y.value

/-- The record that fills the GOT slot of a symbol. -/
def slotRel (rs : List Rel) (sym : Nat) : Option Rel := rs.find? fun p => p.type == 11 && p.sym == sym && p.add == 0

/-- A record is well formed. -/
def relOk (img : List Byte) (ss : List Section) (rs : List Rel) (ys : List Sym) (r : Rel) : Bool :=
  decide (1 ≤ r.type) && decide (r.type ≤ 11) && r.rsv == 0 && decide (r.sym < ys.length) &&
  (match ss[r.sec]? with
   | none => false
   | some x =>
     x.loaded && x.kind != 5 && (r.type == 11) == (x.kind == 6) && decide (r.off + r.width ≤ x.size) && (x.addr + r.off) % r.width == 0 &&
     (let w := fileNum img (x.off + r.off) 4
      r.width == 8 || ((relMajors r.type).contains (w / 2 ^ 27) && (!relLow r.type || bit w 12)))) &&
  (!(r.type == 3 || r.type == 7) || ((partnerOf rs ys r).isSome && r.add == 0)) &&
  (r.type != 6 || (slotRel rs r.sym).isSome)

/-- The relocations (code 6). A .rel of a SIZE that is no multiple of 24 has that code too, with the index of the record that it
cuts short (log entry 43). -/
def relErr (img : List Byte) (ss : List Section) : Option LoadErr :=
  match ofKind ss 7 with
  | none => none
  | some t =>
    let rs := relsOf img ss
    let ys := symsOf img ss
    if t.size % 24 ≠ 0 then some (loadErr 6 (t.size / 24))
    else ((upto rs.length).find? fun i => match rs[i]? with
      | some r => !relOk img ss rs ys r
      | none => false).map (loadErr 6)

/-- P of a record. -/
def Rel.at_ (ss : List Section) (base : Nat) (r : Rel) : Int := ((base + (ss.getD r.sec ⟨0, 0, 0, 0, 0⟩).addr + r.off : Nat) : Int)

/-- X of a record, or G for a GOTHI20; `symAt` gives S by symbol index. -/
def Rel.target (ss : List Section) (rs : List Rel) (base : Nat) (symAt : Nat → Int) (r : Rel) : Int :=
  if r.type = 6 then (match slotRel rs r.sym with
    | some p => p.at_ ss base
    | none => 0)
  else symAt r.sym + r.add

/-- A record's field: its width in bits, its value; none where it overflows (R436). -/
def Rel.value (ss : List Section) (rs : List Rel) (ys : List Sym) (base : Nat) (symAt : Nat → Int) (r : Rel) : Option (Nat × Nat) :=
  let x := r.target ss rs base symAt
  let hi (d : Int) : Option (Nat × Nat) :=
    if -(2 ^ 31) - 0x800 ≤ d ∧ d ≤ 2 ^ 31 - 0x801 then some (20, wrap 20 ((d + 0x800) / 0x1000)) else none
  match r.type with
  | 1 => some (64, wrap 64 x)
  | 2 => hi (x - r.at_ ss base)
  | 3 => (match partnerOf rs ys r with
    | some p => some (12, wrap 12 (p.target ss rs base symAt - p.at_ ss base))
    | none => none)
  | 4 => hi x
  | 5 => some (12, wrap 12 x)
  | 6 => hi (x - r.at_ ss base)
  | 7 => (match partnerOf rs ys r with
    | some p => some (12, wrap 12 (p.target ss rs base symAt - p.at_ ss base))
    | none => none)
  | 11 => some (64, wrap 64 x)
  | _ =>
    let d := x - r.at_ ss base
    if d % 4 = 0 ∧ -(2 ^ 19) ≤ d / 4 ∧ d / 4 ≤ 2 ^ 19 - 1 then some (20, wrap 20 (d / 4)) else none

/-- The low so many bits of a word or dword replaced. -/
def setLow (w n x : Nat) : Nat := w / 2 ^ n * 2 ^ n + x

/-- Bytes of a section with a field written. -/
def patch (bs : List Byte) (off width n x : Nat) : List Byte :=
  bs.take off ++ leBytes width (setLow (leNat ((bs.drop off).take width)) n x) ++ bs.drop (off + width)

/-- The loaded sections' contents with every record applied, by section index; the record that overflows stops it. -/
def relocate (ss : List Section) (rs : List Rel) (ys : List Sym) (base : Nat) (symAt : Nat → Int) :
    List Rel → Nat → List (List Byte) → Except LoadErr (List (List Byte))
  | [], _, bs => .ok bs
  | r :: rest, i, bs =>
    match r.value ss rs ys base symAt with
    | none => .error ⟨7, i, BitVec.ofInt 64 (r.at_ ss base)⟩
    | some (n, x) => relocate ss rs ys base symAt rest (i + 1) (modAt (fun b => patch b r.off r.width n x) r.sec bs)

/-- Every section's contents at a base: .bss is zeros, and so is .got before its slots are filled, whatever the file holds
(R436). -/
def loadedBytes (img : List Byte) (ss : List Section) (base : Nat) (symAt : Nat → Int) : Except LoadErr (List (List Byte)) :=
  relocate ss (relsOf img ss) (symsOf img ss) base symAt (relsOf img ss) 0
    (ss.map fun x => if x.kind = 5 ∨ x.kind = 6 then List.replicate x.size 0 else if x.loaded then x.bytes img else [])

/-! ## Digest (R430) -/

/-- The bytes that the digest covers. -/
def digestInput (img : List Byte) (ss : List Section) : List Byte :=
  leBytes 8 (objPref img) ++ leBytes 8 (objSpan img) ++
  (upto 11).flatMap fun k => match ofKind ss k with
    | none => []
    | some x =>
      leBytes 8 x.kind ++ leBytes 8 x.size ++ (if x.loaded then leBytes 8 x.addr else []) ++
      (if x.kind = 5 ∨ x.kind = 6 then [] else x.bytes img)

/-- The checks of an object by itself, in order (R441 step 1). -/
def objectErr (img : List Byte) : Option LoadErr :=
  match headerErr img with
  | some e => some e
  | none =>
    let ss := sectionsOf img
    ((((tableErr img ss).orElse fun _ => metaErr img ss).orElse fun _ => symErr img ss).orElse fun _ => relErr img ss)

end Sys2Proof.Machine
end

