-- ==== Sys2Proof/Machine/Load.lean ====
section
/-! DEFINITION. The loader (R439 to R446): loading, sharing, unloading and eviction of code objects. Frames for a load come
from a place that firmware names with the event (log entry 7). -/
namespace Sys2Proof.Machine

def State.obj? (s : State) (h : Nat) : Option CodeObj := kvGet h s.disp.objs
def State.setObj (s : State) (h : Nat) (o : CodeObj) : State := { s with disp := { s.disp with objs := kvSet h o s.disp.objs } }

/-- An object counts in the references of what it imports from: it is resident, about to be, or has not left yet (R444, R445
step 4); a load that has failed takes none (R437). -/
def CodeObj.holdsLibs (o : CodeObj) : Bool := o.st == .resident || o.st == .evicting || (o.st == .loading && o.err == 0)

/-- The reference count of a context's copy (R444). -/
def State.refs (s : State) (o : CodeObj) : Nat :=
  (s.launchesWhere fun l => l.code == o.handle && l.st != .complete).length +
  (s.disp.objs.filter fun x => x.2.uses.contains o.handle && x.2.holdsLibs).length +
  ofBool o.registered

/-! ## Where an object may stand (R441 step 2) -/

/-- A page of a context is taken: mapped, in the scratchpad aperture, or in the range of another object. -/
def State.pageTaken (s : State) (ctx : Nat) (o : CodeObj) (va : Nat) : Bool :=
  !canonical va || (ctxOf s ctx).inAperture va ||
  (match s.walk ctx va with
   | .absent => false
   | .leaf _ _ => true) ||
  s.disp.objs.any fun x => x.2.handle != o.handle && x.2.job == o.job && (x.2.reserved || !x.2.pages.isEmpty) &&
    decide (x.2.base ≤ va) && decide (va < x.2.base + x.2.span)

/-- The last taken page of a range, as its number in the range. -/
def State.lastTaken (s : State) (ctx : Nat) (o : CodeObj) (base pages : Nat) : Option Nat :=
  ((upto pages).filter fun k => s.pageTaken ctx o (base + k * 2 ^ 14)).getLast?

/-- A range is free. -/
def State.rangeFree (s : State) (ctx : Nat) (o : CodeObj) (base span : Nat) : Bool :=
  decide (base + span ≤ 2 ^ 64) && (s.lastTaken ctx o base (span / 2 ^ 14)).isNone

/-- The lowest base from one on whose range is free and canonical; so many attempts, each past a page that is taken. -/
def State.freeBase (s : State) (ctx : Nat) (o : CodeObj) (span : Nat) : Nat → Nat → Option Nat
  | 0, _ => none
  | n + 1, base =>
    let base := if 2 ^ 57 < base + span && decide (base < 2 ^ 64 - 2 ^ 57) then 2 ^ 64 - 2 ^ 57 else base
    if 2 ^ 64 < base + span then none
    else match s.lastTaken ctx o base (span / 2 ^ 14) with
      | none => some base
      | some k => s.freeBase ctx o span n (base + (k + 1) * 2 ^ 14)

/-- A resident copy with the same digest and imports, whose range is free here (R441 step 2.1, R443). -/
def State.sharedCopy (s : State) (ctx : Nat) (o : CodeObj) (dig : List Word) (imps : List Nat) : Option CodeObj :=
  (s.disp.objs.find? fun x => x.2.handle != o.handle && x.2.st == .resident && x.2.digest == dig && x.2.imports == imps &&
    (if o.reserved then x.2.base == o.base else s.rangeFree ctx o x.2.base x.2.span)).map (·.2)

/-- The base of a load. An evicted object's range is still its own (R445). -/
def State.baseFor (s : State) (ctx : Nat) (o : CodeObj) (share : Option CodeObj) : Option Nat :=
  if o.reserved then some o.base
  else match share with
    | some c => some c.base
    | none =>
      let pref := objPref o.image
      let span := objSpan o.image
      if s.rangeFree ctx o pref span then some pref else s.freeBase ctx o span (2 ^ 44) (pref + 2 ^ 14)

/-! ## Frames and entries (R441 steps 3 and 4) -/

/-- A frame of 16 KiB that lies in the part's memory and that the loader has not given out: no object's pages take it, and no
page table (R445). -/
def State.frameOk (s : State) (pa : Nat) : Bool :=
  pa % 2 ^ 14 == 0 && (placeOf s pa).isMem && (placeOf s (pa + 2 ^ 14 - 1)).isMem && !s.disp.tables.contains pa &&
  !(s.disp.objs.any fun o => o.2.pages.any fun p => p.frames.contains pa)

/-- The entry of level 3 for an address: tables that are absent on the way take frames from the pool. The answer is the
next frame and the entry's address. -/
def State.descend : Nat → State → Nat → Nat → Nat → State × Nat × Option Nat
  | 0, s, pool, _, _ => (s, pool, none)
  | n + 1, s, pool, t, va =>
    let a := t + 8 * (va % 2 ^ 58 / 2 ^ pageBits (3 - n) % 2048)
    if n = 0 then (s, pool, some a)
    else match s.walkRead a with
      | none => (s, pool, none)
      | some e =>
        if bit e 0 then (if bit e 1 then (s, pool, none) else State.descend n s pool (bits e 51 14 * 2 ^ 14) va)
        else if s.frameOk pool then
          let s := (s.writePhys pool (List.replicate (2 ^ 14) 0)).writePhys a (leBytes 8 (pool + 1))
          let s := { s with disp := { s.disp with tables := pool :: s.disp.tables } }
          State.descend n s (pool + 2 ^ 14) pool va
        else (s, pool, none)

/-- One page mapped. -/
def State.mapPage (s : State) (pool ctx va frame perm : Nat) : State × Nat × Bool :=
  match State.descend 4 s pool ((ctxOf s ctx).root * 2 ^ 14) va with
  | (s, pool, some a) => (s.writePhys a (leBytes 8 (frame + perm)), pool, true)
  | (s, pool, none) => (s, pool, false)

/-- A page of an object: its number from the base, whether it is shared, the permission bits of its leaf. -/
structure ObjPage where
  num : Nat
  shared : Bool
  perm : Nat
  deriving DecidableEq, Repr

/-- The pages of the loaded sections, with V, L, R, W and X as R430 gives them. -/
def objPages (ss : List Section) : List ObjPage :=
  ((ss.filter fun x => x.loaded && decide (0 < x.size)).flatMap fun x =>
    (addrs (x.addr / 2 ^ 14) ((x.addr + x.size - 1) / 2 ^ 14 - x.addr / 2 ^ 14 + 1)).map fun k =>
      (⟨k, !x.priv, 0x13 + (if x.priv then 0x20 else 0) + (if x.exec then 0x40 else 0)⟩ : ObjPage)).eraseDups

/-- The bytes of a page. -/
def pageBytes (ss : List Section) (bs : List (List Byte)) (num : Nat) : List Byte :=
  let parts := ss.zip bs
  (upto (2 ^ 14)).map fun i =>
    let o := num * 2 ^ 14 + i
    match parts.find? fun p => p.1.loaded && decide (p.1.addr ≤ o) && decide (o < p.1.addr + p.1.size) with
    | some p => p.2.getD (o - p.1.addr) 0
    | none => 0

/-- The pages of a load placed one after another: a shared frame taken over, or a fresh one filled. -/
def State.placePages (ctx base : Nat) (ss : List Section) (bs : List (List Byte)) (share : Option CodeObj) :
    List ObjPage → State → Nat → State × Nat × Option (List ObjPages)
  | [], s, pool => (s, pool, some [])
  | p :: r, s, pool =>
    let va := base + p.num * 2 ^ 14
    let old := if p.shared then (match share with
        | some c => (c.pages.find? fun x => x.page == va && x.shared).bind (·.frames.head?)
        | none => none) else none
    let (s, frame, pool, ok) := match old with
      | some f => (s, f, pool, true)
      | none => if s.frameOk pool then (s.writePhys pool (pageBytes ss bs p.num), pool, pool + 2 ^ 14, true) else (s, 0, pool, false)
    if !ok then (s, pool, none)
    else match s.mapPage pool ctx va frame p.perm with
      | (s, pool, false) => (s, pool, none)
      | (s, pool, true) => match State.placePages ctx base ss bs share r s pool with
        | (s, pool, some l) => (s, pool, some (⟨va, [frame], p.shared⟩ :: l))
        | x => x

/-! ## Imports (R434) -/

/-- The libraries of an object: the first that is not ready decides; the answer is an error, or to wait. A library that failed
before this load has asked for it is asked for again. A handle that names no object any more is an error with 0 as the library's own
code (log entry 43). -/
def State.libsReady (s : State) (tried : List Dword) : List Dword → Nat → Option (Option LoadErr)
  | [], _ => none
  | h :: r, k => match s.obj? h.toNat with
    | none => some (some (loadErr 10 k))
    | some o =>
      if o.st == .failed && tried.contains h then some (some ⟨10, k, BitVec.ofNat 64 o.err⟩)
      else if o.st != .resident then some none
      else s.libsReady tried r (k + 1)

/-- The first import of a name among the libraries, in order: its address, and the library. -/
def State.findImport (s : State) (name : List Byte) : List Dword → Option (Nat × Dword)
  | [] => none
  | h :: r => match s.obj? h.toNat with
    | none => s.findImport name r
    | some o => match exported o.image o.base name with
      | some a => some (a, h)
      | none => s.findImport name r

/-- Import addresses and their libraries by symbol index, or the first that cannot be resolved. -/
def State.imports (s : State) (o : CodeObj) (ss : List Section) : List Sym → Nat → Except LoadErr (List (Nat × Nat × Dword))
  | [], _ => .ok []
  | y :: r, i =>
    if y.kind ≠ 4 then s.imports o ss r (i + 1)
    else match (nameAt o.image ss y.name).bind fun nm => s.findImport nm o.libs with
      | none => .error (loadErr 5 i)
      | some a => match s.imports o ss r (i + 1) with
        | .ok l => .ok ((i, a) :: l)
        | .error e => .error e

/-! ## The load (R441) -/

/-- A range of a context's code is invalidated: KIND 4, by the loader itself (R441 step 4, R445). -/
def State.invalCode (s : State) (ctx base span : Nat) : State :=
  let c : Inval := ⟨4, ctx, vpage base, span / 2 ^ 14, 0, []⟩
  let gone := s.ms.tlb.filter fun t => c.takes t.what
  let s := (s.dropLeaves c).restartWalks
  let s := { s with mg := { s.mg with inval := some { c with waits := s.waitsOf c } } }
  (s.fab.cores.map (·.1)).foldl (fun s k => s.dropCode c gone k) s

/-- Steps 1 to 4 once the libraries are resident; nothing is written where a step fails (R437). -/
def State.loadObj (s : State) (o : CodeObj) (pool : Nat) : Except LoadErr State :=
  let ctx := s.ctxOfJob o.job
  let ss := sectionsOf o.image
  let ys := symsOf o.image ss
  match s.imports o ss ys 0 with
  | .error e => .error e
  | .ok imps =>
    let dig := sha256 (digestInput o.image ss)
    let addrs := imps.map (·.2.1)
    let share := s.sharedCopy ctx o dig addrs
    match s.baseFor ctx o share with
    | none => .error (loadErr 8 0)
    | some base =>
      let symAt (i : Nat) : Int := match kvGet i imps, ys[i]? with
        | some a, _ => (a.1 : Int)
        | none, some y => symAddr ss base y
        | none, none => 0
      match loadedBytes o.image ss base symAt with
      | .error e => .error e
      | .ok bs =>
        match State.placePages ctx base ss bs share (objPages ss) s pool with
        | (_, _, none) => .error (loadErr 9 0)
        | (s, _, some pages) =>
          let span := objSpan o.image
          .ok ((s.setObj o.handle.toNat { o with
            st := .loading, base := base, span := span, reserved := true, digest := dig, imports := addrs, uses := (imps.map (·.2.2)).eraseDups
            kernels := kernelsAt o.image ss base, pages := pages, err := 0, errIdx := 0, errP := 0 }).invalCode ctx base span)

/-- A load has failed; its end reports it. -/
def CodeObj.fail (o : CodeObj) (e : LoadErr) : CodeObj :=
  { o with st := .loading, err := e.code, errIdx := e.idx, errP := e.p, pages := [], uses := [] }

/-- The libraries of an object that are not resident are asked for. -/
def State.wantLibs (s : State) (o : CodeObj) : State :=
  let away := o.libs.filter fun h => (s.obj? h.toNat).any fun x => x.st != .resident
  away.foldl (fun s h => if o.tried.contains h && (s.obj? h.toNat).any (fun x => x.st == .failed) then s else s.wantObj h.toNat)
    (s.setObj o.handle.toNat { o with tried := (o.tried ++ away).eraseDups })

/-- CODE_LOAD (R441): a load that has been asked for, while no other invalidation is in progress; `pool` is where firmware
takes frames from. -/
def execCodeLoad (handle : BitVec 64) (pool : Nat) (s : State) : Result :=
  .next (match s.obj? handle.toNat with
    | none => s
    | some o =>
      if o.st != .wanted || s.mg.inval.isSome then s
      else match objectErr o.image with
        | some e => s.setObj handle.toNat (o.fail e)
        | none => match s.libsReady o.tried o.libs 0 with
          | some (some e) => s.setObj handle.toNat (o.fail e)
          | some none => s.wantLibs o
          | none => match s.loadObj o pool with
            | .ok s => s
            | .error e => s.setObj handle.toNat (o.fail e))

/-- A registration's reply still waits for the object (R440). -/
def State.replyWaits (s : State) (o : CodeObj) : Bool :=
  (kvGet o.func s.mg.mail).any fun m => m.go && m.run == 1 && bit (kvGetD 1 0 m.taken).toNat 0 &&
    (m.pending.any fun p => p.1 == 0 && p.2.head? == some o.handle)

/-- The failure of a load that no reply carries is reported by itself (R442; log entry 90). -/
def State.reportLoad (s : State) (o : CodeObj) : State :=
  if s.replyWaits o then s
  else { s with disp := { s.disp with reports := s.disp.reports ++ [⟨o.func, o.handle, o.err, o.errIdx, o.errP⟩] } }

/-- CODE_LOAD_COMPLETE (R441 step 5, R442): the object is resident once BUSY is 0, and its launches go on; a failure is reported
to the registrant, and they complete with status 5. -/
def execCodeLoadComplete (handle : BitVec 64) (s : State) : Result :=
  .next (match s.obj? handle.toNat with
    | none => s
    | some o =>
      if o.st != .loading then s
      else if o.err ≠ 0 then
        let s := (s.setObj handle.toNat { o with st := .failed }).reportLoad o
        ((s.launchesWhere fun l => l.code == handle && l.st == .loading).foldl (fun s l => s.failLaunch l.1 5 0) s).progress
      else if s.mg.inval.isSome then s
      else (s.setObj handle.toNat { o with st := .resident }).progress)

/-! ## Unload and eviction (R445) -/

/-- V cleared in the entry of every page of an object. -/
def State.unmapPages (s : State) (ctx : Nat) (o : CodeObj) : State :=
  o.pages.foldl (fun s p => match s.walk ctx p.page with
    | .leaf l a => s.writePhys a (leBytes 8 (l.pte &&& ~~~1#64).toNat)
    | .absent => s) s

/-- A resident object begins to leave. -/
def State.beginLeave (s : State) (o : CodeObj) : State :=
  let ctx := s.ctxOfJob o.job
  ((s.unmapPages ctx o).setObj o.handle.toNat { o with st := .evicting }).invalCode ctx o.base o.span

/-- CODE_UNLOAD: a withdrawn object without references leaves its context; when its invalidation is over, it is gone. -/
def execCodeUnload (handle : BitVec 64) (s : State) : Result :=
  .next (match s.obj? handle.toNat with
    | none => s
    | some o =>
      if o.registered || s.refs o != 0 || s.mg.inval.isSome then s
      else if o.st == .resident then s.beginLeave o
      else if o.st == .loading then s
      else ({ s with disp := { s.disp with objs := kvDel handle.toNat s.disp.objs } }).progress)

/-- CODE_EVICTION: a registered object that nothing else needs leaves for memory; its range stays its own, and launches
that have come meanwhile have it loaded again, though it has been withdrawn since. -/
def execCodeEviction (handle : BitVec 64) (s : State) : Result :=
  .next (match s.obj? handle.toNat with
    | none => s
    | some o =>
      if s.mg.inval.isSome || (!o.registered && s.refs o == 0) then s
      else if o.registered && o.st == .resident && s.refs o == 1 then s.beginLeave o
      else if o.st == .evicting then (s.setObj handle.toNat { o with st := .absent, pages := [], uses := [] }).progress
      else s)

end Sys2Proof.Machine
end

