-- ==== Sys2Proof/Machine/Lehr.lean ====
section
/-! DEFINITION. The lehr and the launch section, to the byte: writing them and reading them back (R123, R421 to R425). -/
namespace Sys2Proof.Machine

/-! ## Writing -/

/-- Bytes filled with zero, or cut, to a length. -/
def fitBytes (n : Nat) (l : List Byte) : List Byte := (l ++ List.replicate (n - l.length) 0).take n

/-- The header of R422 and its bytes with a CRC. -/
def lehrHead (magic nfib lid gid gi wsize spk crc spoff : Nat) : List Byte :=
  dwBytes [dn (magic * 2 ^ 32 + 3 * 2 ^ 16 + nfib), dn (lid * 2 ^ 32 + gid), dn (gi * 2 ^ 32 + wsize * 2 ^ 16 + spk), dn (crc * 2 ^ 32),
           dn spoff, 0, 0, 0]
/-- A lehr's header put before its body, with the CRC of the whole (R422). -/
def withHead (head : Nat → List Byte) (body : List Byte) : List Byte := head (crc32c (head 0 ++ body)).toNat ++ body

/-- A window entry (R123). -/
def winEntry (w : Option Window) : List Byte := match w with
  | some w => dwBytes [dn (w.va / 128 * 128 + 1), dn (w.len / 128 * 2 ^ 28 + w.off / 128 * 2 ^ 14)]
  | none => dwBytes [0, 0]

/-- The state dword of a fibre record (R423). -/
def fibreStateWord (fi : Nat) (x : Fibre) : Dword :=
  dn (fi * 2 ^ 48 + x.woff * 2 ^ 32 + x.pw.toNat * 2 ^ 16 + ofBool x.hm * 2 ^ 10 + ofBool x.tpend * 2 ^ 9 + ofBool x.halt * 2 ^ 8 +
    ofBool x.bponce * 2 ^ 7 + x.stack.length * 2 ^ 4 + 1)

/-- The barrier dword: the barriers at which the fibre has arrived, and those that hold an arrival of it. -/
def barWord (ga : Gather) (fi : Nat) : Dword :=
  dn ((upto 16).foldl (fun n b => n + ofBool ((ga.bar b).arr.contains fi) * 2 ^ (16 + b) + ofBool ((ga.bar b).held.contains fi) * 2 ^ b) 0)

/-- The retry note: the first of a fibre's notes. -/
def noteWord (notes : List (Dword × Nat × Bool)) : Dword := match notes with
  | n :: _ => dn (ofBool n.2.2 * 2 ^ 8 + 2 ^ 7 + n.2.1 % 2 ^ 7)
  | [] => 0
/-- A fibre's notes as a record's retry note leaves them, at the block where the fibre stands (R270); the others have no place in a
record (log entry 47). -/
def notesFrom (notes : List (Dword × Nat × Bool)) (pc : Dword) (w : Nat) : List (Dword × Nat × Bool) :=
  if noteWord notes = dn w then notes else (if bit w 7 then [(pc, w % 2 ^ 7, bit w 8)] else []) ++ notes.tail

/-- Entries of the call stack, oldest first. -/
def stackWords (l : List CallEntry) : List Dword := (upto 4).flatMap fun i => match l.reverse[i]? with
  | some c => [c.ret, dn c.woff]
  | none => [0, 0]

/-- The entries that the tail of a record has at most (R423). -/
def maxTail : Nat := 80
/-- The tail of a fibre: index and operand values of its held loads and operations, as many as a record holds (log entry 47). -/
def State.tailOf (s : State) (x : Fibre) : List (Nat × Dword × Dword × Dword) :=
  ((x.heldLoads.filterMap fun p => match kvGet p s.fab.prods with
    | some pr => pr.load.map fun j => ((j.aux.getD 1 0).toNat, j.aux.getD 2 0, (0 : Dword), (0 : Dword))
    | none => none) ++
  (x.held ++ x.tail).map fun p => (p.eidx, p.a, p.b, p.c)).take maxTail

/-- A fibre record (R423). -/
def State.fibreRecord (s : State) (f : Nat) (ga : Gather) (x : Fibre) : List Byte :=
  let slots := (upto ga.wsize).map fun k => s.slot (coreOf f) (storeIdx ga f k)
  let fulls := (slots.zipIdx).foldl (fun n p => n + ofBool p.1.full * 2 ^ p.2) 0
  let tail := s.tailOf x
  let r := x.trap
  dwBytes ([x.pc, x.prev, x.fsp, fibreStateWord (fiOf f) x, dn (x.spilled % 2 ^ 32 * 2 ^ 32 + x.spw.toNat * 2 ^ 16 + x.swoff)] ++ stackWords x.stack ++
    [r.cause, r.epc, r.eidx, r.tval, r.topa, r.topb, r.topc, x.thnd, x.emul, barWord ga (fiOf f), noteWord x.notes]) ++
  leBytes 32 fulls ++ dwBytes ([x.resume, dn tail.length, 0, 0] ++ tail.flatMap fun t => [dn t.1, t.2.1, t.2.2.1, t.2.2.2]) ++
  dwBytes (slots.map (·.val))

/-- The multiple of 128 at or above a number. -/
def up128 (n : Nat) : Nat := (n + 127) / 128 * 128

/-- A scratchpad allocation's image: window bytes are written 0. -/
def State.spImage (s : State) (ga : Gather) : List Byte :=
  (upto ga.spSize).map fun o => if (ga.winAt o).isSome then 0 else s.spByte ga.core (ga.spBase + o)

/-- The lehr of a gather (R421). -/
def State.lehrOf (s : State) (g : Nat) (ga : Gather) : List Byte :=
  let fs := s.fab.fibres.filter fun p => gatherOf p.1 == g && !p.2.ended
  let recs := fs.flatMap fun p => s.fibreRecord p.1 ga p.2
  let spoff := up128 (1024 + recs.length)
  let body := dwBytes ((upto 4).map (fun k => kvGetD k 0 ga.gs) ++ [ga.errMap, 0, 0, 0]) ++
    ((upto 8).flatMap fun k => winEntry (kvGet k ga.wins)) ++ ((upto 16).flatMap (barEntry ga)) ++
    dwBytes ((upto 64).map fun t => (ga.tag t).record) ++ fitBytes (spoff - 1024) recs ++ s.spImage ga
  withHead (fun crc => lehrHead 0x4C454852 fs.length ga.lid ga.gid ga.gi ga.wsize (ga.spSize / 1024) crc spoff) body

/-- An ownership entry (R354). -/
def ownEntry (o : Own) : List Dword :=
  [if o.st = .pinned ∨ o.st = .home then o.handle else 0,
   dn (o.job * 2 ^ 48 + o.launch * 2 ^ 16 + ofBool o.int32 * 2 ^ 4 + ofBool o.dirty * 2 ^ 3 + (match o.st with
    | .free => 0
    | .active => 1
    | .pinned => 2
    | .home => 3)), o.tokens, 0]

/-- The data of a tile, as R32 lays it out. -/
def State.tileBytes (s : State) (cl id : Nat) : List Byte := (s.tileRows cl id).flatMap fun r => r.flatMap fun w => leBytes 4 w.toNat

/-- The launch section of a cluster (R425). -/
def State.sectionOf (s : State) (lid cl : Nat) (q : Seq) : List Byte :=
  let mine := q.run && q.lid == lid
  let reqs := q.startq.filter fun r => r.lid == lid
  let own (id : Nat) : Own := let o := s.own? cl id; if o.launch = lid ∧ (o.st = .active ∨ o.st = .pinned) then o else noOwn
  let z (x : Dword) : Dword := if mine then x else 0
  let body := dwBytes ([z q.pc, dn (reqs.length * 2 ^ 16 + (if mine then 2 ^ 8 + q.stack.length else 0))] ++
      (upto 4).map (fun c => match kvGet c q.binds with
        | some gid => z (dn (2 ^ 63 + gid))
        | none => 0) ++
      (upto 2).map (fun e => match kvGet e q.held with
        | some h => z (dn (2 ^ 63 + h.loc.toNat % 2 ^ 24))
        | none => 0)) ++
    fitBytes 128 (dwBytes (reqs.flatMap fun r => [r.addr, r.arg])) ++
    dwBytes ((upto 112).map fun k => z (kvGetD k 0 q.regs)) ++
    fitBytes 128 (dwBytes (if mine then q.stack.reverse else [])) ++
    dwBytes ((upto 32).flatMap fun id => ownEntry (own id)) ++ List.replicate 1792 0 ++
    ((upto 32).filter fun id => (own id).st == .active).flatMap fun id => s.tileBytes cl id
  withHead (fun crc => lehrHead 0x4C454853 0 lid (cl % 20) 0 0 0 crc 0) body

/-! ## Reading -/

/-- Dword at an offset of bytes. -/
def dwAt (bs : List Byte) (off : Nat) : Nat := leNat ((bs.drop off).take 8)

/-- A fibre as its record gives it, its retry note and tail entries, its slots' values and full bits, and the record's length. -/
structure FibreRec where
  fi : Nat
  fib : Fibre
  note : Nat
  tail : List (Nat × Dword × Dword × Dword)
  arr : Nat
  slots : List Dword
  fulls : Nat
  len : Nat
  ok : Bool
  deriving DecidableEq, Repr

/-- The length of the fibre record at the head of bytes. -/
def recLen (wsize : Nat) (bs : List Byte) : Nat := 256 + 32 * (dwAt bs 232 % 128) + 8 * wsize

/-- The reserved bits of a fibre record are zero, those of its CAUSE and EMUL among them (R375, R408), and V is 1. -/
def recOk (bs : List Byte) : Bool :=
  let st := dwAt bs 24
  let n := dwAt bs 232
  bits st 63 58 == 0 && bits st 15 11 == 0 && bits st 3 0 == 1 && decide (bits st 6 4 ≤ 4) && bits (dwAt bs 176) 63 32 == 0 &&
  bits (dwAt bs 104) 63 17 == 0 && bits (dwAt bs 168) 31 1 == 0 && bits (dwAt bs 184) 63 9 == 0 && decide (n ≤ maxTail) && dwAt bs 240 == 0 && dwAt bs 248 == 0 &&
  ((upto 4).all fun i => bits (dwAt bs (48 + 16 * i)) 63 16 == 0) && (upto n).all fun t => bits (dwAt bs (256 + 32 * t)) 63 7 == 0

/-- The fibre of a record. -/
def recFibre (bs : List Byte) (clock : Nat) : Fibre :=
  let d (o : Nat) : Dword := dn (dwAt bs o)
  let st := dwAt bs 24
  let sv := dwAt bs 32
  let x := newFibre (d 0) (d 16) (d 160) clock
  { x with
    prev := d 8, way := .plain, pw := BitVec.ofNat 16 (bits st 31 16), woff := bits st 47 32
    stack := ((upto (bits st 6 4)).map fun i => ⟨d (40 + 16 * i), dwAt bs (48 + 16 * i) % 2 ^ 16⟩).reverse
    spilled := bits sv 63 32, trap := ⟨d 104, d 112, d 120, d 128, d 136, d 144, d 152⟩, emul := d 168
    hm := bit st 10, spw := BitVec.ofNat 16 (bits sv 31 16), swoff := bits sv 15 0, tpend := bit st 9, halt := bit st 8, bponce := bit st 7
    resume := d 224 }

/-- The fibre record at the head of bytes. -/
def readRec (wsize clock : Nat) (bs : List Byte) : FibreRec :=
  let n := dwAt bs 232 % 128
  { fi := bits (dwAt bs 24) 57 48, fib := recFibre bs clock, note := dwAt bs 184, arr := dwAt bs 176
    tail := (upto n).map fun t => let v (j : Nat) := dwAt bs (256 + 32 * t + 8 * j); (v 0, dn (v 1), dn (v 2), dn (v 3))
    slots := (upto wsize).map fun k => dn (dwAt bs (256 + 32 * n + 8 * k)), fulls := leNat ((bs.drop 192).take 32)
    len := recLen wsize bs, ok := recOk bs }

/-- Operations as tail entries from number k on give them: each with the operand values of its entry. One whose entry is not there is
gone, but for those that stand beyond what a record holds (R423; log entry 47). -/
def fromTail (es : List (Nat × Dword × Dword × Dword)) (k : Nat) (ops : List PostOp) : List PostOp :=
  ops.zipIdx.filterMap fun p =>
    if maxTail ≤ k + p.2 then some p.1
    else match es[k + p.2]? with
      | some e => if e.1 = p.1.eidx then some { p.1 with a := e.2.1, b := e.2.2.1, c := e.2.2.2 } else none
      | none => none

/-- So many fibre records. -/
def readRecs (wsize clock : Nat) : Nat → List Byte → List FibreRec
  | 0, _ => []
  | n + 1, bs => let r := readRec wsize clock bs; r :: readRecs wsize clock n (bs.drop r.len)

/-- A lehr as read. -/
structure LehrIn where
  lid : Nat
  gid : Nat
  gi : Nat
  wsize : Nat
  spSize : Nat
  spoff : Nat
  recs : List FibreRec
  bytes : List Byte
  deriving DecidableEq, Repr

def readLehr (clock : Nat) (bs : List Byte) : LehrIn :=
  let w := bits (dwAt bs 16) 31 16
  { lid := bits (dwAt bs 8) 63 32, gid := bits (dwAt bs 8) 31 0, gi := bits (dwAt bs 16) 63 32, wsize := w
    spSize := bits (dwAt bs 16) 15 0 * 1024, spoff := dwAt bs 32, recs := readRecs w clock (bits (dwAt bs 0) 15 0) (bs.drop 1024), bytes := bs }

/-- The header of a lehr or launch section: MAGIC, FORM, reserved bits, CRC. -/
def headOk (magic : Nat) (bs : List Byte) : Bool :=
  bits (dwAt bs 0) 63 32 == magic && bits (dwAt bs 0) 31 16 == 3 && bits (dwAt bs 24) 31 0 == 0 && dwAt bs 40 == 0 && dwAt bs 48 == 0 &&
  dwAt bs 56 == 0 && bits (dwAt bs 24) 63 32 == (crc32c (bs.take 28 ++ List.replicate 4 0 ++ bs.drop 32)).toNat

/-- The window of an entry: none unused; an entry with reserved bits set is bad. -/
def readWin (bs : List Byte) (k : Nat) : Except Unit (Option Window) :=
  let a := dwAt bs (128 + 16 * k)
  let b := dwAt bs (136 + 16 * k)
  if bits a 6 1 != 0 || bits b 63 42 != 0 || bits b 13 0 != 0 then .error ()
  else if bit a 0 then .ok (some ⟨0, a / 128 * 128, bits b 27 14 * 128, bits b 41 28 * 128, false⟩)
  else .ok none

/-- The windows of a lehr, each against those before it (R110); none where an entry breaks a limit. -/
def readWins (c : Ctx) (bs : List Byte) : List Nat → Gather → Option Gather
  | [], ga => some ga
  | k :: r, ga => match readWin bs k with
    | .error _ => none
    | .ok none => readWins c bs r ga
    | .ok (some w) =>
      if (winLimits c ga w.off w.va w.len).isSome then none else readWins c bs r { ga with wins := kvSet k w ga.wins }

/-- A barrier entry's reserved bits. -/
def barOk (bs : List Byte) (b : Nat) : Bool := bits (dwAt bs (256 + 16 * b)) 4 1 == 0 && dwAt bs (264 + 16 * b) == 0

/-- A barrier as saved: its phase and counts, and the fibres whose records say that they have arrived. -/
def readBar (l : LehrIn) (b : Nat) : Barrier :=
  { phase := bit (dwAt l.bytes (256 + 16 * b)) 27
    na := bits (dwAt l.bytes (256 + 16 * b)) 26 16
    nh := bits (dwAt l.bytes (256 + 16 * b)) 15 5
    arr := (l.recs.filter fun r => bit r.arr (16 + b)).map (·.fi)
    held := (l.recs.filter fun r => bit r.arr b).map (·.fi) }

/-- A gather as a lehr gives it, at a place. -/
def lehrGather (c : Ctx) (ctx size core lv sp : Nat) (l : LehrIn) : Option Gather :=
  let ga : Gather :=
    { core := core, lid := l.lid, gi := l.gi, gid := l.gid, ctx := ctx, size := size, wsize := l.wsize, lvBase := lv
      spBase := sp, spSize := l.spSize, gs := [], bars := [], wins := [], words := [], reserved := [], unmaps := [], tags := [], offered := false, meets := [] }
  let ga := { ga with gs := (upto 4).foldl (fun m k => kvSet k (dn (dwAt l.bytes (64 + 8 * k))) m) [] }
  let ga := (upto 16).foldl (fun g b => if bit (dwAt l.bytes (256 + 16 * b)) 0 then g.setBar b (readBar l b) else g) ga
  let ga := (upto 64).foldl (fun g t => g.setTag t ⟨0, bit (dwAt l.bytes 96) t, dn (dwAt l.bytes (512 + 8 * t))⟩) ga
  readWins c l.bytes (upto 8) ga

/-- The checks of R426 step 1 on a lehr. -/
def lehrOk (c : Ctx) (clock : Nat) (bs : List Byte) : Bool :=
  let l := readLehr clock bs
  headOk 0x4C454852 bs && decide (1 ≤ l.recs.length) && decide (l.recs.length ≤ 1024) && (l.recs.all fun r => r.ok) &&
  dwAt bs 104 == 0 && dwAt bs 112 == 0 && dwAt bs 120 == 0 && ((upto 16).all (barOk bs)) && l.spoff % 128 == 0 &&
  (lehrGather c 0 1 0 0 0 l).isSome

/-- An ownership entry as read: its reserved bits stay 0 (R354). -/
def readOwn (bs : List Byte) (off : Nat) : Own :=
  let d1 := dwAt bs (off + 8)
  { handle := dn (dwAt bs off / 64 * 64), job := bits d1 63 48, launch := bits d1 47 16, int32 := bit d1 4, dirty := bit d1 3
    st := (match d1 % 4 with
      | 0 => .free
      | 1 => .active
      | 2 => .pinned
      | _ => .home)
    tokens := dn (dwAt bs (off + 16)) }

/-- The tiles of a launch section: id and entry, in ascending id. -/
def sectionTiles (bs : List Byte) : List (Nat × Own) :=
  ((upto 32).map fun id => (id, readOwn bs (1280 + 32 * id))).filter fun p => p.2.st == .active || p.2.st == .pinned

/-- The rows of tile data. -/
def rowsOfBytes (bs : List Byte) : List (List Word) :=
  let ws := wordsOfBytes bs
  (upto 128).map fun i => (ws.drop (128 * i)).take 128

end Sys2Proof.Machine
end

