-- ==== Sys2Proof/Machine/Preempt.lean ====
section
/-! DEFINITION. The choice of a pre-emption (R406), KILL and DRAIN (R419, R371), CHECKPOINT (R420, R370) and restore (R426,
R370, R473, R474). -/
namespace Sys2Proof.Machine

/-! ## The choice (R406) -/

inductive Mechanism where
  | drain | kill | checkpoint
  deriving DecidableEq, Repr

/-- V's remaining time; none when it is unknown. -/
def Launch.remaining (l : Launch) : Option Nat := match l.kern with
  | some k => if k.estimate = 0 then none else some (k.estimate * (l.ngath * k.gather - l.ended))
  | none => none

/-- N's wait budget for a difference of priority tokens. -/
def waitBudget (delta : Nat) : Nat := 2 ^ (24 - min delta 16)

/-- The mechanism for a victim. -/
def chooseMech (v : Launch) (prio : Nat) : Mechanism :=
  if v.remaining.any fun r => decide (r ≤ waitBudget (prio - v.prio)) then .drain
  else if v.kern.any (·.idem) then .kill
  else .checkpoint

/-- A launch holds something on a core or cluster that another's in-force bind records name. -/
def State.holdsFor (s : State) (v n : Nat) : Bool :=
  let cores := (s.coresOf n).map (·.1)
  let cls := cores.map clOfCore
  ((s.gathersOf v).any fun g => cores.contains (coreOfGather g)) || ((s.coresOf v).any fun c => cores.contains c.1) ||
  (s.mat.seqs.any fun q => cls.contains q.1 && q.2.run && q.2.lid == v) ||
  (s.tilesOf v).any fun t => cls.contains t.1

/-- Candidate victims for a newcomer. -/
def State.victims (s : State) (n : Nat) (prio : Nat) : List (Nat × Launch) :=
  (s.launchesWhere fun l => l.st == .running && decide (l.prio < prio)).filter fun l => s.holdsFor l.1 n

/-- One victim comes before another: fewest tokens, then the largest remaining time, unknown the largest, then the highest
LID. -/
def victimBefore (a b : Nat × Launch) : Bool :=
  if a.2.prio ≠ b.2.prio then decide (a.2.prio < b.2.prio)
  else match a.2.remaining, b.2.remaining with
    | none, some _ => true
    | some _, none => false
    | some x, some y => if x = y then decide (b.1 < a.1) else decide (y < x)
    | none, none => decide (b.1 < a.1)

/-- The victim and the mechanism that firmware chooses for a newcomer. -/
def State.choosePreempt (s : State) (n : Nat) : Option (Nat × Mechanism) :=
  match s.launch? n with
  | none => none
  | some l => match sortBy victimBefore (s.victims n l.prio) with
    | v :: _ => some (v.1, chooseMech v.2 l.prio)
    | [] => none

/-- A launch is being pre-empted already. -/
def Launch.leaving (l : Launch) : Bool := l.draining || l.killed || l.checkpoint || l.slice || l.cancelled

/-- What firmware does for the launches that cannot be placed: of each, the victim chosen, unless it is leaving already. -/
def State.preemptDue (s : State) : List Instr :=
  if !s.mg.firmware || s.nextPlacement.isSome then []
  else s.waitingLaunches.flatMap fun n => match s.choosePreempt n.1 with
    | none => []
    | some (v, m) => if (s.launch? v).any (·.leaving) then [] else match m with
      | .drain => [.drain v]
      | .kill => [.kill v]
      | .checkpoint => [.checkpoint v]

/-! ## KILL and DRAIN (R419) -/

/-- Nothing of a killed launch is left on the part. -/
def State.killedOver (s : State) (lid : Nat) : Bool := (s.gathersOf lid).isEmpty && s.programsOver lid

/-- A killed launch returns to ORDERED, unless it has been cancelled meanwhile. -/
def State.endKill (s : State) (lid : Nat) : State :=
  let s := s.endTiles lid
  let s := { s with disp := { s.disp with saved := kvDel lid s.disp.saved } }
  (s.modLaunch lid fun l =>
    if l.cancelled then { l with killed := false }
    else { l with killed := false, placed := 0, left := l.ngath, ended := 0, copyErr := none, st := .ordered, draining := false }).progress

/-- KILL (R419, R371), and, once its gathers have exited and its program has ended, the return to ORDERED. -/
def execKill (lid : Nat) (s : State) : Result :=
  .next (match s.launch? lid with
    | none => s
    | some l =>
      if l.killed then (if s.killedOver lid then s.endKill lid else s)
      else if l.st != .running || l.cancelled || l.checkpoint || l.slice || !(l.kern.any (·.idem)) then s
      else
        let s := s.modLaunch lid fun l => { l with killed := true, draining := false, left := (s.gathersOf lid).length }
        (s.cancelFibres (s.fibresOf lid)).endPrograms lid)

/-- A program of a launch has still to be stopped. -/
def State.programRuns (s : State) (lid : Nat) : Bool := s.mat.seqs.any fun q => q.2.run && q.2.lid == lid && !q.2.stop
/-- The programs of a launch stop after their present instruction (R370 step 1). -/
def State.stopPrograms (s : State) (lid : Nat) : State :=
  { s with mat := { s.mat with seqs := kvMap (fun _ q => if q.run && q.lid == lid then { q with stop := true } else q) s.mat.seqs } }

/-- A drain of a launch has come to its program: its resident gathers have exited. -/
def State.drainPrograms (s : State) (lid : Nat) (l : Launch) : Bool :=
  l.draining && l.st == .running && !l.killed && !l.cancelled && (s.gathersOf lid).isEmpty && s.programRuns lid

/-- DRAIN (R419, R370): the launch's bind records are cleared and its resident gathers run on to their exits; then its program
stops, to be saved. -/
def execDrain (lid : Nat) (s : State) : Result :=
  .next (match s.launch? lid with
    | none => s
    | some l =>
      if l.st != .running then s
      else if s.drainPrograms lid l then s.stopPrograms lid
      else
        let tab := kvMap (fun _ b => if bits b.d0.toNat 63 32 == lid then { b with d0 := b.d0 &&& ~~~1#64 } else b) s.disp.slottab
        { s with disp := { s.disp with slottab := tab } }.modLaunch lid fun l => { l with draining := true })

/-! ## The stop of a checkpoint (R420 step 1) -/

/-- The operations that a checkpoint withdraws, those from the head on, when the head waits for a phase or at a rendezvous
point. Those of a fibre that has ended are no fibre's tail. -/
def State.withdraw (s : State) (f : Nat) : State :=
  match s.fibre? f with
  | none => s
  | some x => match x.post with
    | [] => s
    | p :: _ =>
      let waits := match p.op with
        | .await n => s.awaitWaits f n.toNat
        | .rdv _ => x.stage == 5
        | _ => false
      if !waits then s
      else if x.ended then (s.keepPosts f x []).reap f
      else if 0 < x.orphans then s.keepPosts f { x.passed x.orphans with stage := 0 } (x.post.drop x.orphans)
      else (s.leaveRdv f).setFibre f { x with tail := x.tail ++ x.post, post := [], stage := 0 }

/-- An emulation at a boundary is given up: the cullet traps again (R420). -/
def State.dropEmulation (s : State) (f : Nat) : State :=
  match s.fibre? f with
  | none => s
  | some x =>
    if x.shadow.isNone || (s.inst? f).isSome || x.report.isSome then s
    else ((s.setFibre f { x with shadow := none, emul := x.emul &&& ~~~1#64, pc := x.trap.epc, way := .plain, subst := none }).dropHeld f).joinSet f

/-- A fibre is stopped. -/
def State.stopFibre (s : State) (f : Nat) : State :=
  let s := s.modFibre f fun x => { x with stop := true }
  let s := match s.inst? f with
    | some i => if i.atBar && i.faults.isEmpty then s.discard f else s
    | none => s
  (s.withdraw f).dropEmulation f

/-- The fibres and the programs of a launch are stopped as far as they have come. -/
def State.stopLaunch (s : State) (lid : Nat) : State :=
  ((s.fibresOf lid).foldl (fun s f => s.stopFibre f) s).stopPrograms lid

/-- A launch that can be stopped. -/
def Launch.stoppable (l : Launch) : Bool := l.st == .running && !l.killed && !l.cancelled

/-- TIME_SLICE_EXPIRY (R414): the launch stops at its block boundaries; firmware's checkpoint follows. -/
def execTimeSliceExpiry (lid : Nat) (s : State) : Result :=
  .next (match s.launch? lid with
    | none => s
    | some l => if l.stoppable then (s.modLaunch lid fun l => { l with slice := true }).stopLaunch lid else s)

/-- CHECKPOINT (R420): the request, and the stop's progress while it lasts. -/
def execCheckpoint (lid : Nat) (s : State) : Result :=
  .next (match s.launch? lid with
    | none => s
    | some l => if l.stoppable || l.checkpoint then (s.modLaunch lid fun l => { l with checkpoint := true }).stopLaunch lid else s)

/-! ## Settling (R420 steps 1 to 5) -/

/-- A fibre is at a boundary with nothing outstanding but what is held for it. -/
def State.fibreStill (s : State) (f : Nat) (x : Fibre) : Bool :=
  let mine := x.heldLoads ++ (x.held ++ x.tail).flatMap (·.prods)
  !x.ended && (s.inst? f).isNone && x.post.isEmpty && x.report.isNone && x.shadow.isNone &&
  s.fab.prods.all fun p => p.2.f != f || mine.contains p.1

/-- A cluster's sequencer is between instructions, and the launch's issued instructions are complete. -/
def seqStill (lid : Nat) (q : Seq) : Bool :=
  !(q.lid == lid && (q.run || !q.mats.isEmpty)) || (q.mats.isEmpty && q.stage == 0)

/-- Steps 1 to 3 of R420 are over; no matrix instruction of any launch works on the bytes of the gathers (R350). -/
def State.settled (s : State) (lid : Nat) : Bool :=
  ((s.fibresOf lid).all fun f => match s.fibre? f with
    | some x => s.fibreStill f x
    | none => true) &&
  ((s.gathersOf lid).all fun g => !(s.liveFibres g).isEmpty && !((s.copiesOf (coreOfGather g)).any fun o => o.g == g) &&
    (match s.gather? g with
     | some ga => !s.matUses ga
     | none => true)) &&
  (s.mat.seqs.all fun q => seqStill lid q.2) &&
  !(s.ms.offers.any fun o => o.agent < 10 ^ 12 && (s.gathersOf lid).contains (gatherOf (o.agent / 128)))

/-- A failure of one of several spills: the tile and the cause. -/
abbrev SpillBad := Nat × Nat × Bad

/-- The dirty PINNED tiles of a launch are spilled to their handles; the first failure ends it. -/
def State.spillPinned (s : State) (l : Launch) : List (Nat × Nat) → State × Option SpillBad
  | [] => (s, none)
  | (cl, id) :: r =>
    let o := s.own? cl id
    if o.st == .pinned && o.dirty then
      match s.spillTile cl id l.ctx l.job o.handle 1 with
      | (s, some b) => (s, some (cl, id, b))
      | (s, none) => (s.setOwn cl id { o with dirty := false }).spillPinned l r
    else s.spillPinned l r

/-- The windows of a gather are written back, and stay mapped (R122), and whether one of them still has to wait. -/
def State.backWins (s : State) (lid set g : Nat) : State × Bool :=
  match s.gather? g with
  | none => (s, false)
  | some ga => ga.wins.foldl (fun (p : State × Bool) w =>
      match p.1.rangeBack ⟨agentGather g, g, set, none⟩ w.2 w.2.off w.2.len with
      | (s, none) => (s, true)
      | (s, some e) => (s.noteError lid e, p.2)) ({ s with cur := .gather g }, false)

/-- The holders of the gathers that have made bounded additions drain, as their circuits let them (R97, R181, R420 step 4). A drain
that is over leaves the gather's bounded-addition flag clear, and a restored gather's flag is clear: R421 to R423 give it no place
(DESIGN CHOICE, log entry 72). -/
def State.drainOffered (s : State) (lid : Nat) : State :=
  (s.gathersOf lid).foldl (fun s g => match s.gather? g with
    | some ga => if ga.offered then
        let s := State.drainDie { s with cur := .gather g } (dieOfCore ga.core)
        if s.drainedDie (dieOfCore ga.core) then s.setGather g { ga with offered := false } else s
      else s
    | none => s) s
/-- Holders of a launch's gathers have still to drain. -/
def State.offersLeft (s : State) (lid : Nat) : Bool := (s.gathersOf lid).any fun g => (s.gather? g).any (·.offered)

/-- A first-level cache of a launch's gathers has still lines to write back (R97). -/
def State.memoryLeft (s : State) (lid : Nat) : Bool := (s.gathersOf lid).any fun g => s.undrained (coreOfGather g) []
/-- Windows and first-level caches of a launch's gathers (R420 step 5), and whether something of them has still to wait (R70, R97). -/
def State.settleMemory (s : State) (lid set : Nat) : State × Bool :=
  let gs := s.gathersOf lid
  let (s, waits) := gs.foldl (fun (p : State × Bool) g => let (s, w) := p.1.backWins lid set g; (s, p.2 || w)) (s, false)
  let s := ((gs.map coreOfGather).eraseDups).foldl (fun s c => s.drainSome c []) s
  (s, waits || s.memoryLeft lid)

/-! ## Writing and release (R420 steps 6 and 7) -/

/-- The clusters that get a launch section. -/
def State.sectionClusters (s : State) (lid : Nat) : List Nat :=
  (upto 160).filter fun cl => (match s.seq? cl with
    | some q => (q.run && q.lid == lid) || q.startq.any fun r => r.lid == lid
    | none => false) || (s.tilesOf lid).any fun t => t.1 == cl

/-- What of a fibre its record has no place for. -/
def State.keptOf (s : State) (f : Nat) (ga : Gather) (x : Fibre) : Kept :=
  let mine := x.heldLoads ++ (x.held ++ x.tail).flatMap (·.prods)
  let own {α : Type} (l : List (Nat × α)) : List (Nat × α) :=
    (l.filter fun r => decide (2 ^ 40 ≤ r.1) && (r.1 - 2 ^ 40) / 128 == f).map fun r => ((r.1 - 2 ^ 40) % 128, r.2)
  { way := x.way, subst := x.subst, notes := x.notes, met := x.met, tail := x.tail, held := x.held, heldLoads := x.heldLoads
    prods := s.fab.prods.filter fun p => mine.contains p.1, reserved := own ga.reserved, unmaps := own ga.unmaps, culls := x.culls }

/-- Byte lists at rising multiples of 128 from an address: address and bytes. -/
def layOut : Nat → List (List Byte) → List (Nat × List Byte)
  | _, [] => []
  | a, b :: r => (a, b) :: layOut (a + up128 b.length) r

/-- A gather of a saved launch leaves its core. -/
def State.takeOff (s : State) (g : Nat) : State :=
  match s.gather? g with
  | none => s
  | some ga =>
    let s := s.removeGather g ga
    { s with fab := { s.fab with fibres := kvFilter (fun f _ => gatherOf f != g) s.fab.fibres } }.trimSets ga.core

/-- A cluster's sequencer without a saved launch. -/
def Seq.without (lid : Nat) (q : Seq) : Seq :=
  let q := { q with startq := q.startq.filter fun r => r.lid != lid }
  if q.run && q.lid == lid then { q with run := false, halted := false, stage := 0, binds := [], held := [], met := [], stop := false, stall := 0 } else q

/-- The lehrs and launch sections are written from an address of the pool on, and the launch is SAVED; one that is only drained
stays RUNNING (R419), what an earlier drain has saved staying with it. -/
def State.saveLaunch (s : State) (lid pool : Nat) : State :=
  let gs := sortBy (fun a b => decide (a.2.gi ≤ b.2.gi)) (s.fab.gathers.filter fun g => g.2.lid == lid)
  let cls := s.sectionClusters lid
  let lehrs := gs.map fun g => s.lehrOf g.1 g.2
  let secs := cls.map fun cl => s.sectionOf lid cl ((s.seq? cl).getD newSeq)
  let at_ := layOut pool (lehrs ++ secs)
  if !((at_.flatMap fun p => [p.1, p.1 + p.2.length - 1]).all fun a => (placeOf s a).isMem) then s
  else
    let kept : KV Kept := gs.foldl (fun m g =>
      (s.fab.fibres.filter fun p => gatherOf p.1 == g.1).foldl (fun m p => kvSet (g.2.gi * 1024 + fiOf p.1) (s.keptOf p.1 g.2 p.2) m) m) []
    let reqs : KV (List StartReq) := cls.map fun cl => (cl, (((s.seq? cl).getD newSeq).startq).filter fun r => r.lid == lid)
    let place := at_.map fun p => (p.1, p.2.length)
    let old := (kvGet lid s.disp.saved).getD ⟨[], [], [], [], [], []⟩
    let sv : Saved :=
      { lehrs := place.take lehrs.length
        sections := old.sections ++ ((place.drop lehrs.length).zip cls |>.map fun p => (p.1.1, p.1.2, p.2))
        kept := kept
        reqs := old.reqs.foldl (fun m r => kvSet r.1 (r.2 ++ (kvGet r.1 m).getD []) m) reqs
        meets := gs.foldl (fun m g => if g.2.meets.isEmpty then m else kvSet g.2.gi g.2.meets m) []
        gids := gs.map (·.2.gid) }
    let s := at_.foldl (fun s p => s.writePhys p.1 p.2) s
    let s := (s.tilesOf lid).foldl (fun s t => s.freeTile t.1 t.2) s
    let s := gs.foldl (fun s g => s.takeOff g.1) s
    let s := { s with
      mat := { s.mat with seqs := kvMap (fun _ q => q.without lid) s.mat.seqs }
      disp := { s.disp with saved := kvSet lid sv s.disp.saved } }
    let s := s.modLaunch lid fun l => { l with st := if l.checkpoint then .saved else l.st, checkpoint := false, slice := false }
    match s.launch? lid with
    | some l => if l.cancelled && l.st == .saved then (s.finishLaunch lid).progress else s.progress
    | none => s

/-- A checkpoint whose spill has failed (R370). -/
def State.abandon (s : State) (lid : Nat) (e : SpillBad) : State :=
  let s := (s.freeTile e.1 e.2.1).modLaunch lid fun l => { l with checkpoint := false, slice := false }
  (s.launchEvent lid 4 0 e.2.2.cause (BitVec.ofNat 64 e.2.2.tval)).progress

/-- A drained launch's program is saved (R370, R419), once its gathers have exited and its issued instructions are complete. -/
def State.saveDrained (s : State) (lid pool : Nat) (l : Launch) : State :=
  if !l.draining || l.st != .running || l.killed || l.cancelled || !(s.gathersOf lid).isEmpty || s.programsOver lid then s
  else
  let s := s.stopPrograms lid
  if !(s.mat.seqs.all fun q => seqStill lid q.2) then s
  else match s.spillPinned l (s.tilesOf lid) with
    | (s, some e) => s.abandon lid e
    | (s, none) => s.saveLaunch lid pool

/-- CHECKPOINT_SAVED (R420): steps 3 to 7, once the launch has settled; `pool` is where firmware's lehr memory is free. Of a
launch that is drained it is the end of R370's steps. -/
def execCheckpointSaved (lid pool : Nat) (s : State) : Result :=
  .next (match s.launch? lid with
    | none => s
    | some l =>
      if !l.checkpoint then s.saveDrained lid pool l
      else
        let s := s.stopLaunch lid
        if !s.settled lid then s
        else if (s.gathersOf lid).isEmpty && l.placed == l.ngath && s.programsOver lid then
          (s.modLaunch lid fun l => { l with checkpoint := false, slice := false }).progress
        else match s.spillPinned l (s.tilesOf lid) with
          | (s, some e) => s.abandon lid e
          | (s, none) =>
            let s := s.drainOffered lid
            if s.offersLeft lid then s
            else
            let (s, waits) := s.settleMemory lid (s.setOf l.job)
            if waits || (s.ms.posted.any fun p => p.set == s.setOf l.job) then s else s.saveLaunch lid pool)

/-! ## Restore (R426) -/

/-- The bytes of a saved area; an unreadable byte is a failed check. -/
def State.savedBytes (s : State) (a n : Nat) : State × List Byte :=
  let (s, bs) := s.mgmtRead a n
  (s, if s.mg.busErr then [] else bs)

/-- Every saved area with its bytes; the first whose checks fail, by address. -/
def State.readSaved (s : State) (ok : List Byte → Bool) : List (Nat × Nat) → State × Except Nat (List (List Byte))
  | [] => (s, .ok [])
  | (a, n) :: r =>
    let (s, bs) := s.savedBytes a n
    if !ok bs then (s, .error a)
    else match s.readSaved ok r with
      | (s, .error e) => (s, .error e)
      | (s, .ok l) => (s, .ok (bs :: l))

/-- A restore fails: the launch completes with status 4, once the gathers that it has on the part, if it is a drained one, have been
cancelled and have exited (R370, R404). -/
def State.failRestore (s : State) (lid cause : Nat) (tval : Dword) : State :=
  let s := s.modLaunch lid fun l => { l with
    status := if l.status == 0 then 4 else l.status, info := 0, cause := BitVec.ofNat 8 cause, tval := tval }
  (if (s.gathersOf lid).isEmpty && s.programsOver lid then s.finishLaunch lid else s.cancelLaunch lid 0).progress

/-- A HOME tile is evicted: spilled where it has changed, and FREE; it stays where its spill fails (R355). -/
def State.evictHome (s : State) (cl id : Nat) : State :=
  let o := s.own? cl id
  if o.st != .home then s
  else if o.dirty then
    match s.spillTile cl id (s.ctxOfJob o.job) o.job o.handle 1 with
    | (s, none) => s.freeTile cl id
    | (s, some _) => s
  else s.freeTile cl id

/-- The target cluster can take a launch section (R474, R370). -/
def State.sectionFits (s : State) (cl : Nat) (reqs : Nat) (bs : List Byte) : Bool :=
  let q := (s.seq? cl).getD newSeq
  !q.run && q.mats.isEmpty && decide (q.startq.length + reqs ≤ 8) &&
  (sectionTiles bs).all fun t => let o := s.own? cl t.1; o.st == .free || o.st == .home

/-- The ids that a section takes become FREE: whether they all are. -/
def State.clearIds (s : State) (cl : Nat) (ids : List Nat) : State × Bool :=
  let s := ids.foldl (fun s id => s.evictHome cl id) s
  (s, ids.all fun id => (s.own? cl id).st == .free)

/-- Tiles from a launch section: ACTIVE from its data, PINNED from their handles; the first failure. -/
def State.restoreTiles (s : State) (l : Launch) (cl : Nat) : List (Nat × Own) → List Byte → State × Option (Nat × Bad)
  | [], _ => (s, none)
  | (id, o) :: r, data =>
    if o.st == .active then
      ((s.putTile cl id (rowsOfBytes (data.take 65536))).setOwn cl id o).restoreTiles l cl r (data.drop 65536)
    else
      match s.fillTile cl id l.ctx l.job o.handle with
      | (s, some b) => (s.freeTile cl id, some (id, b))
      | (s, none) =>
        let p := s.own? cl id
        (s.setOwn cl id { o with int32 := p.int32, tokens := p.tokens, dirty := false }).restoreTiles l cl r data

/-- The start queue of a launch section; which gather's fibre forked a request R425 gives no place for (log entry 47). -/
def sectionReqs (l : Launch) (lid : Nat) (kept : List StartReq) (bs : List Byte) : List StartReq :=
  (upto (min 8 (bits (dwAt bs 72) 19 16))).map fun k =>
    let o := kept[k]?
    ⟨dn (dwAt bs (128 + 16 * k)), dn (dwAt bs (136 + 16 * k)), lid, l.job, l.ctx, (o.map (·.core)).getD 0, (o.map (·.gid)).getD 0⟩

/-- The sequencer of a launch section. -/
def restoreSeq (l : Launch) (lid : Nat) (kept : List StartReq) (bs : List Byte) (q : Seq) : Seq :=
  let q := { q with startq := q.startq ++ sectionReqs l lid kept bs }
  let info := dwAt bs 72
  let some? (off w : Nat) : Option Nat := if bit (dwAt bs off) 63 then some (dwAt bs off % 2 ^ w) else none
  let table {α : Type} (n off w : Nat) (mk : Nat → α) : KV α := (upto n).filterMap fun k => (some? (off + 8 * k) w).map fun x => (k, mk x)
  if bit info 8 then
    { q with
      run := true, halted := false, pc := dn (dwAt bs 64), regs := (upto 112).map fun k => (k, dn (dwAt bs (256 + 8 * k)))
      stack := ((upto (info % 32)).map fun k => dn (dwAt bs (1152 + 8 * k))).reverse
      lid := lid, job := l.job, ctx := l.ctx, binds := table 4 80 32 id, held := table 2 112 24 fun x => ⟨dn x, none⟩
      stage := 0, met := [], stop := false, stall := 0 }
  else q

/-- A fibre of a restored gather: from its record, and from what a record has no place for (log entry 47). -/
def State.restoreFibre (s : State) (g : Nat) (ga : Gather) (sv : Saved) (r : FibreRec) : State :=
  let f := g * 1024 + r.fi
  let k := (kvGet (ga.gi * 1024 + r.fi) sv.kept).getD ⟨.plain, none, [], [], [], [], [], [], [], [], []⟩
  let loads := k.heldLoads.length
  let held := fromTail r.tail loads k.held
  let post := fromTail r.tail (loads + k.held.length) k.tail
  let mine := k.heldLoads ++ (held ++ post).flatMap (·.prods)
  let x := { r.fib with
    way := k.way, subst := k.subst, notes := notesFrom k.notes r.fib.pc r.note, met := k.met, post := post, held := held
    heldLoads := k.heldLoads, culls := k.culls }
  let s := s.setFibre f x
  let s := (r.slots.zipIdx).foldl (fun s v => s.setSlot ga.core (storeIdx ga f v.2) ⟨v.1, bit r.fulls v.2, none⟩) s
  let s := (k.prods.filter fun p => mine.contains p.1).foldl (fun s p =>
    let s := { s with fab := { s.fab with prods := kvSet p.1 { p.2 with f := f } s.fab.prods } }
    let o := s.slot ga.core (storeIdx ga f p.2.slot)
    if o.full then s else s.setSlot ga.core (storeIdx ga f p.2.slot) { o with prod := some p.1 }) s
  let s := s.modGather g fun ga => { ga with
    reserved := ga.reserved ++ k.reserved.map fun p => (heldKey f p.1, p.2)
    unmaps := ga.unmaps ++ k.unmaps.map fun p => (heldKey f p.1, p.2) }
  s.joinSet f

/-- The windows of a saved gather that an SPUNMAP has retired which its fibres have committed and not yet issued (R121): they map
no more, and their entries are freed with the operations' tags. -/
def retiredBy (c : Ctx) (gi : Nat) (sv : Saved) : List Nat :=
  (sv.kept.filter fun k => k.1 / 1024 == gi).flatMap fun k => (k.2.tail ++ k.2.held).filterMap fun p => match p.op with
    | .spunmap _ _ => some (p.a - BitVec.ofNat 64 c.sb).toNat
    | _ => none

/-- A gather's restored state at its place (R426 steps 3 and 4). -/
def State.restoreGather (s : State) (n : Nat) (ga : Gather) (sv : Saved) (l : LehrIn) : State :=
  let g := ga.core * 32 + n
  let gone := retiredBy (ctxOf s ga.ctx) ga.gi sv
  let ga := { ga with
    wins := ga.wins.zipIdx.map fun w => (w.1.1, { w.1.2 with id := s.serial + w.2, retiring := gone.contains w.1.2.off })
    meets := (kvGet ga.gi sv.meets).getD [] }
  let s := ({ s with serial := s.serial + 8 }.clearAlloc ga).setGather g ga
  let s := s.setSp ga.core (cellsAt ga.spBase ((l.bytes.drop l.spoff).take l.spSize))
  let s := l.recs.foldl (fun s r => s.restoreFibre g ga sv r) s
  s.acquireDrops ga.core (l.recs.map fun r => g * 1024 + r.fi) []

/-- The clusters that may take a restored gather (R473, R474): those whose section binds it, or else those with a section; none
where there is no section, and any cluster may. -/
def sectionHomes (secs : List (Nat × List Byte)) (gid : Nat) : List Nat :=
  let mine := secs.filter fun x => (upto 4).any fun c => bit (dwAt x.2 (80 + 8 * c)) 63 && bits (dwAt x.2 (80 + 8 * c)) 31 0 == gid
  (if mine.isEmpty then secs else mine).map (·.1)

/-- The restored gathers take their places in ascending GI (R426 step 2); none where one has no room. -/
def State.placeSaved (s : State) (lid : Nat) (l : Launch) (k : Kernel) (sv : Saved) (secs : List (Nat × List Byte)) :
    List LehrIn → Option State
  | [] => some s
  | h :: r =>
    let cls := sectionHomes secs h.gid
    let cores := (s.coresOf lid).filter fun c => cls.isEmpty || cls.contains (clOfCore c.1)
    match cores.findSome? fun c => (s.roomOn c.1 c.2 lid k).map fun p => (c.1, p) with
    | none => none
    | some (core, n, lv, sp) => match lehrGather (ctxOf s l.ctx) l.ctx k.gather core lv sp h with
      | none => none
      | some ga => (s.restoreGather n ga sv h).placeSaved lid l k sv secs r

/-- Launch sections are restored one after another; a failing tile fails the restore. -/
def State.restoreSections (s : State) (lid : Nat) (l : Launch) (sv : Saved) : List (Nat × List Byte) → State × Option Bad
  | [] => (s, none)
  | (cl, bs) :: r =>
    match s.restoreTiles l cl (sectionTiles bs) (bs.drop 4096) with
    | (s, some (_, b)) => (s, some b)
    | (s, none) =>
      let q := (s.seq? cl).getD newSeq
      (s.setSeq cl (restoreSeq l lid ((kvGet cl sv.reqs).getD []) bs q)).restoreSections lid l sv r

/-- The clusters are clear for the sections: the state, or none. -/
def State.readySections (s : State) (sv : Saved) : List (Nat × List Byte) → Option State
  | [] => some s
  | (cl, bs) :: r =>
    if !s.sectionFits cl (min 8 (bits (dwAt bs 72) 19 16)) bs then none
    else match s.clearIds cl ((sectionTiles bs).map (·.1)) with
      | (s, true) => s.readySections sv r
      | (_, false) => none

/-- A validated launch is restored, where it fits. -/
def State.restoreLaunch (s : State) (lid : Nat) (l : Launch) (k : Kernel) (sv : Saved) (hs : List LehrIn) (secs : List (Nat × List Byte)) : State :=
  match s.readySections sv secs with
  | none => s
  | some s1 => match s1.placeSaved lid l k sv secs hs with
    | none => s
    | some s2 =>
      match s1.restoreSections lid l sv secs with
      | (s3, some b) => (s3.endPrograms lid).failRestore lid b.cause (BitVec.ofNat 64 b.tval)
      | (_, none) =>
        let (s4, _) := s2.restoreSections lid l sv secs
        let s4 := { s4 with disp := { s4.disp with saved := kvDel lid s4.disp.saved } }
        (s4.modLaunch lid fun l => { l with st := .running, draining := false }).progress

/-- The clusters of a launch's saved sections can take them (R474): a restore that finds one that cannot waits, and its checks are
those of the restore that begins. -/
def State.sectionsFit (s : State) (sv : Saved) : Bool :=
  sv.sections.all fun x =>
    let q := (s.seq? x.2.2).getD newSeq
    !q.run && q.mats.isEmpty && decide (q.startq.length + ((kvGet x.2.2 sv.reqs).getD []).length ≤ 8)

/-- RESTORE (R426): of a SAVED launch, or of the program of one that a drain has saved (R370). A launch section whose header fails its
checks fails it as a lehr does (log entry 45). -/
def execRestore (lid : Nat) (s : State) : Result :=
  .next (match s.launch? lid, kvGet lid s.disp.saved with
    | some l, some sv =>
      (match l.kern with
       | none => s
       | some k =>
         if (l.st != .saved && l.st != .running) || l.checkpoint || l.killed || (s.bindsOf lid).isEmpty || !(ctxOf s l.ctx).en ||
             !s.sectionsFit sv then s
         else match s.readSaved (lehrOk (ctxOf s l.ctx) s.clock) sv.lehrs with
           | (s, .error a) => s.failRestore lid 0x0D (BitVec.ofNat 64 a)
           | (s, .ok hs) => match s.readSaved (headOk 0x4C454853) (sv.sections.map fun x => (x.1, x.2.1)) with
             | (s, .error a) => s.failRestore lid 0x0D (BitVec.ofNat 64 a)
             | (s, .ok bs) =>
               s.restoreLaunch lid l k sv (hs.map (readLehr s.clock)) ((sv.sections.map (·.2.2)).zip bs))
    | _, _ => s)

end Sys2Proof.Machine
end

