-- ==== Sys2Proof/Machine/Debug.lean ====
section
/-! DEFINITION. The debug slots: halting and continuing fibres (R414 to R418). -/
namespace Sys2Proof.Machine

/-- A debug slot that has an effect: attached, and the lowest of those that name its job (R415). -/
def State.dbgSlot (s : State) (n : Nat) : Option DbgSlot :=
  match kvGet n s.mg.dbg with
  | some d => if n < 8 && d.att && ((upto n).all fun k => match kvGet k s.mg.dbg with
      | some e => !(e.att && e.job == d.job)
      | none => true) then some d else none
  | none => none

/-- The fibres of a job that have not ended. -/
def State.jobFibres (s : State) (job : Nat) : List Nat :=
  (s.fab.fibres.filter fun p => !p.2.ended && s.jobOf p.1 == job).map (·.1)

/-- A slot whose registers have never been written. -/
def noDbg : DbgSlot := ⟨0, false, false, [], false, []⟩
def State.setDbg (s : State) (n : Nat) (d : DbgSlot) : State :=
  { s with mg := { s.mg with dbg := kvSetD n noDbg d s.mg.dbg } }

/-- A fibre that a halt request has named has still to halt: it is inside an instance. -/
def State.stillHalting (s : State) (f : Nat) : Bool := (s.inst? f).isSome && (s.fibre? f).any fun x => x.halt && !x.ended

/-- HALTREQ still reads 1 (R415): some fibre that the request halts has not halted yet. -/
def State.haltPending (s : State) (d : DbgSlot) : Bool := d.halting.any s.stillHalting

/-- The fibres that have halted are struck off the requests. -/
def State.dropHalted (s : State) : State :=
  if s.mg.dbg.all fun d => d.2.halting.isEmpty then s
  else { s with mg := { s.mg with dbg := kvMap (fun _ d => { d with halting := d.halting.filter s.stillHalting }) s.mg.dbg } }

/-- DBG_HALTREQ (R415): every fibre of the job halts at its next block boundary. -/
def execDbgHaltreq (slot : Nat) (s : State) : Result :=
  .next (match s.dbgSlot slot with
    | none => s
    | some d =>
      let fs := s.jobFibres d.job
      let s := fs.foldl (fun s f => s.modFibre f fun x => { x with halt := true }) s
      s.setDbg slot { d with halting := (d.halting ++ fs).filter s.stillHalting |>.eraseDups })

/-- A halted fibre continues (R418), one that is to halt and is still in an instance not: BKPT's trap is left as by RESUME with
skip and 0; another pending trap is taken now; a fibre that stands at a breakpoint may pass it once. What halted it is not kept
(R423): it stands at a breakpoint where its PC is marked (log entry 46). -/
def State.continueFibre (s : State) (f : Nat) : State :=
  match s.fibre? f with
  | none => s
  | some x =>
    if !x.halt || x.ended || (s.inst? f).isSome then s
    else if x.tpend then
      if x.trap.cause.toNat % 256 = 0x11 then
        (s.setFibre f { x with halt := false, tpend := false, pc := x.trap.epc, way := .plain, since := s.clock, aged := false
                               subst := some (x.trap.eidx.toNat, 0) }).joinSet f
      else (s.setFibre f { x with halt := false, tpend := false }).deliver f
    else s.setFibre f { x with halt := false, bponce := (s.breakpointAt f x).isSome }

/-- The arrivals of a fibre at a barrier as its record's barrier dword gives them (R423). -/
def Barrier.withRecord (b : Barrier) (fi : Nat) (arr held : Bool) : Barrier :=
  let put (on : Bool) (l : List Nat) : List Nat := if on then (if l.contains fi then l else l ++ [fi]) else l.filter (· != fi)
  { b with arr := put arr b.arr, held := put held b.held }

/-- A halted fibre as a record written by the debug service makes it (R417): what the record holds is taken from it, the rest of
the fibre stays. Held slot loads keep their values, and a barrier its counts (log entry 46). -/
def Fibre.withRecord (x : Fibre) (r : FibreRec) : Fibre :=
  let y := r.fib
  let k := x.heldLoads.length
  { x with
    pc := y.pc, prev := y.prev, way := if y.pc = x.pc then x.way else .plain, pw := y.pw, woff := y.woff, stack := y.stack
    spilled := y.spilled, fsp := y.fsp, thnd := y.thnd, trap := y.trap, emul := y.emul
    shadow := if y.emul.getLsbD 0 then x.shadow else none
    hm := y.hm, spw := y.spw, swoff := y.swoff, tpend := y.tpend, halt := y.halt, bponce := y.bponce, resume := y.resume
    notes := notesFrom x.notes y.pc r.note, held := fromTail r.tail k x.held, tail := fromTail r.tail (k + x.held.length) x.tail }

/-- A halted fibre's record is written; none where the bytes are no record of it. -/
def State.putRecord (s : State) (f : Nat) (ga : Gather) (x : Fibre) (bs : List Byte) : Option State :=
  let r := readRec ga.wsize s.clock bs
  if !r.ok || r.fi != fiOf f || r.len != bs.length || bs.length != (s.fibreRecord f ga x).length then none
  else
    let y := x.withRecord r
    let kept := (y.held ++ y.tail).flatMap (·.prods)
    let s := (s.setFibre f y).dropProds (((x.held ++ x.tail).flatMap (·.prods)).filter fun p => !kept.contains p)
    let s := (r.slots.zipIdx).foldl (fun s v =>
      let i := storeIdx ga f v.2
      let full := bit r.fulls v.2
      s.setSlot ga.core i ⟨v.1, full, if full then none else (s.slot ga.core i).prod⟩) s
    let s := s.modGather (gatherOf f) fun ga => (upto 16).foldl (fun ga b =>
      ga.setBar b ((ga.bar b).withRecord (fiOf f) (bit r.arr (16 + b)) (bit r.arr b))) ga
    some (s.joinSet f)

/-- DBGCMD's fields (R417). -/
def cmdGid (v : Dword) : Nat := bits v.toNat 63 32
def cmdFi (v : Dword) : Nat := bits v.toNat 31 22

/-- The fibres of a slot's job in the gather with a GID. -/
def State.gidFibres (s : State) (d : DbgSlot) (gid : Nat) : List Nat :=
  (s.jobFibres d.job).filter fun f => match s.gather? (gatherOf f) with
    | some g => g.gid == gid
    | none => false

/-- The halted fibre of a slot's job that a gather and an index name. -/
def State.haltedFibre (s : State) (d : DbgSlot) (v : Dword) : Option (Nat × Fibre × Gather) :=
  match (s.gidFibres d (cmdGid v)).find? fun f => fiOf f == cmdFi v with
  | none => none
  | some f => match s.fibre? f, s.gather? (gatherOf f) with
    | some x, some ga => if x.halt && (s.inst? f).isNone then some (f, x, ga) else none
    | _, _ => none

/-- Fibres of an attached slot's job continue. -/
def State.continueSome (s : State) (slot : Nat) (sel : DbgSlot → List Nat) : State :=
  match s.dbgSlot slot with
  | none => s
  | some d => (sel d).foldl (fun s f => s.continueFibre f) s

/-- DBGCMD_FIBRE (R417, R418). -/
def execDbgcmdFibre (slot : Nat) (v : BitVec 64) (s : State) : Result :=
  .next (s.continueSome slot fun d => (s.gidFibres d (cmdGid v)).filter fun f => fiOf f == cmdFi v)

/-- DBGCMD_GATHER. -/
def execDbgcmdGather (slot : Nat) (v : BitVec 64) (s : State) : Result :=
  .next (s.continueSome slot fun d => s.gidFibres d (cmdGid v))

/-- A sequencer that a BKPT has halted goes on past it. -/
def Seq.goOn (q : Seq) : Seq := { (q.past 1) with halted := false }
/-- The sequencers of a job that a BKPT has halted go on, and each has executed it (R379). -/
def State.goOnSeqs (s : State) (job : Nat) : State :=
  (s.mat.seqs.filter fun q => q.2.run && q.2.halted && q.2.job == job).foldl (fun s q =>
    (s.count (1000 + q.1) q.2.ctx 0).setSeq q.1 q.2.goOn) s

/-- DBGCMD_JOB: the job's halted fibres, and its programs halted at a BKPT. -/
def execDbgcmdJob (slot : Nat) (_v : BitVec 64) (s : State) : Result :=
  .next (match s.dbgSlot slot with
    | none => s
    | some d =>
      (s.continueSome slot fun d => s.jobFibres d.job).goOnSeqs d.job)

end Sys2Proof.Machine
end

