-- ==== Sys2Proof/Machine/Float.lean ====
section
/-! DEFINITION. FALU and HALU (R299 to R303), but for the cullet. -/
namespace Sys2Proof.Machine

/-- An FP32 operation on the low words, rounded to nearest even, the upper word 0 (R299). -/
def opF (fn : FV → FV → FV) (a b : Dword) : Dword := extZ (toF32 (fn (f32 (lo32 a)) (f32 (lo32 b))))
/-- An operation on FP32 encodings. -/
def opBits (fn : Nat → Nat → Nat) (a b : Dword) : Dword := extZ (BitVec.ofNat 32 (fn (lo32 a).toNat (lo32 b).toNat))
/-- An FP32 comparison (R299). -/
def cmpF (fn : FV → FV → Bool) (a b : Dword) : Dword := ofPred (fn (f32 (lo32 a)) (f32 (lo32 b)))

/-- R300: rne(a + b). -/
def execFadd (d : Dest) (a b : Operand) (s : State) : Result := compute2 d a b (opF FV.add) s
/-- R300: rne(a − b). -/
def execFsub (d : Dest) (a b : Operand) (s : State) : Result := compute2 d a b (opF FV.sub) s
/-- R300: rne(a × b). -/
def execFmul (d : Dest) (a b : Operand) (s : State) : Result := compute2 d a b (opF FV.mul) s
/-- R300: rne(a × b + c), one rounding. -/
def execFma (d : Dest) (a b c : Operand) (s : State) : Result := compute3 d a b c (fun x y z => extZ (toF32 ((f32 (lo32 x)).fma (f32 (lo32 y)) (f32 (lo32 z))))) s
/-- R197. -/
def execFmin (d : Dest) (a b : Operand) (s : State) : Result := compute2 d a b (opBits (minF fp32)) s
/-- R197. -/
def execFmax (d : Dest) (a b : Operand) (s : State) : Result := compute2 d a b (opBits (maxF fp32)) s
/-- R301. -/
def execFabs (d : Dest) (a : Operand) (s : State) : Result := compute1 d a (fun x => extZ (lo32 x &&& 0x7FFFFFFF#32)) s
/-- R301. -/
def execFneg (d : Dest) (a : Operand) (s : State) : Result := compute1 d a (fun x => extZ (lo32 x ^^^ 0x80000000#32)) s
/-- R300. -/
def execFeq (d : Dest) (a b : Operand) (s : State) : Result := compute2 d a b (cmpF FV.eq) s
/-- R300: true when unordered. -/
def execFne (d : Dest) (a b : Operand) (s : State) : Result := compute2 d a b (cmpF fun x y => !x.eq y) s
/-- R300. -/
def execFlt (d : Dest) (a b : Operand) (s : State) : Result := compute2 d a b (cmpF FV.lt) s
/-- R300. -/
def execFle (d : Dest) (a b : Operand) (s : State) : Result := compute2 d a b (cmpF fun x y => x.lt y || x.eq y) s
/-- R300. -/
def execFunord (d : Dest) (a b : Operand) (s : State) : Result := compute2 d a b (cmpF fun x y => x.isNan || y.isNan) s
/-- R301. -/
def execFrndn (d : Dest) (a : Operand) (s : State) : Result := compute1 d a (unZ (roundToInt .rne)) s
/-- R301. -/
def execFrndz (d : Dest) (a : Operand) (s : State) : Result := compute1 d a (unZ (roundToInt .rz)) s
/-- R301. -/
def execFrndu (d : Dest) (a : Operand) (s : State) : Result := compute1 d a (unZ (roundToInt .ru)) s
/-- R301. -/
def execFrndd (d : Dest) (a : Operand) (s : State) : Result := compute1 d a (unZ (roundToInt .rd)) s
/-- R301: clamped to [+0, 1]. -/
def execFsat (d : Dest) (a : Operand) (s : State) : Result := compute1 d a (unZ satUnit) s
/-- R301: the sign of B on A. -/
def execFcsgn (d : Dest) (a b : Operand) (s : State) : Result := compute2 d a b (opZ fun x y => (x &&& 0x7FFFFFFF#32) ||| (y &&& 0x80000000#32)) s
/-- R300: correctly rounded. -/
def execFdiv (d : Dest) (a b : Operand) (s : State) : Result := compute2 d a b (opF FV.div) s
/-- R300: correctly rounded. -/
def execFsqrt (d : Dest) (a : Operand) (s : State) : Result := compute1 d a (fun x => extZ (toF32 (f32 (lo32 x)).sqrt)) s

/-! ## Packed half precision (R302, R303) -/

/-- The element format. -/
def halfFmt (bf : Bool) : Fmt := if bf then bf16 else fp16
/-- Elements 0 and 1 of an operation on encodings; the upper word is 0. -/
def halves (fn : Nat → Nat → Nat → Nat) (a b c : Dword) : Dword :=
  BitVec.ofNat 64 (packElems 16 ((upto 2).map fun i => fn (elem 16 i a.toNat) (elem 16 i b.toNat) (elem 16 i c.toNat)))
/-- A rounded binary operation on each half. -/
def halfOp (bf : Bool) (fn : FV → FV → FV) (a b : Dword) : Dword :=
  let f := halfFmt bf
  halves (fun x y _ => f.round .rne (fn (f.decode x) (f.decode y))) a b 0

/-- R302. -/
def execHadd (bf : Bool) (d : Dest) (a b : Operand) (s : State) : Result := compute2 d a b (halfOp bf FV.add) s
/-- R302. -/
def execHsub (bf : Bool) (d : Dest) (a b : Operand) (s : State) : Result := compute2 d a b (halfOp bf FV.sub) s
/-- R302. -/
def execHmul (bf : Bool) (d : Dest) (a b : Operand) (s : State) : Result := compute2 d a b (halfOp bf FV.mul) s
/-- R302: one rounding. -/
def execHfma (bf : Bool) (d : Dest) (a b c : Operand) (s : State) : Result :=
  let f := halfFmt bf
  compute3 d a b c (halves fun x y z => f.round .rne ((f.decode x).fma (f.decode y) (f.decode z))) s
/-- R197, R302. -/
def execHmin (bf : Bool) (d : Dest) (a b : Operand) (s : State) : Result :=
  compute2 d a b (fun x y => halves (fun u v _ => minF (halfFmt bf) u v) x y 0) s
/-- R197, R302. -/
def execHmax (bf : Bool) (d : Dest) (a b : Operand) (s : State) : Result :=
  compute2 d a b (fun x y => halves (fun u v _ => maxF (halfFmt bf) u v) x y 0) s
/-- R302: each half's sign inverted, in either format. -/
def execHneg (_bf : Bool) (d : Dest) (a : Operand) (s : State) : Result :=
  compute1 d a (fun x => halves (fun u _ _ => (u + 0x8000) % 0x10000) x 0 0) s
/-- R302: each half's sign cleared, in either format. -/
def execHabs (_bf : Bool) (d : Dest) (a : Operand) (s : State) : Result :=
  compute1 d a (fun x => halves (fun u _ _ => u % 0x8000) x 0 0) s
/-- R303: both products and the FP32 addend, rounded once. -/
def dot2 (bf : Bool) (a b c : Dword) : Dword :=
  let f := halfFmt bf
  let p (i : Nat) := (f.decode (elem 16 i a.toNat)).mul (f.decode (elem 16 i b.toNat))
  extZ (toF32 (FV.sum [p 0, p 1, f32 (lo32 c)]))
/-- R303. -/
def execHdot2 (bf : Bool) (d : Dest) (a b c : Operand) (s : State) : Result := compute3 d a b c (dot2 bf) s

end Sys2Proof.Machine
end

