-- ==== Sys2Proof/Machine/Imisc.lean ====
section
/-! DEFINITION. ICMP, IMISC, and the immediate and upper-immediate forms (R291 to R298). -/
namespace Sys2Proof.Machine

/-- R291: A condition B, by type, as 0 or 1. -/
def execIcmp (ty : BitVec 2) (cond : BitVec 4) (d : Dest) (a b : Operand) (s : State) : Result :=
  compute2 d a b (fun x y => ofPred (icmpHolds ty.toNat cond.toNat x y)) s

/-- R296: a sign-extended 12-bit immediate with an operation of 32 or 64 bits. -/
def immOp (w64 : Bool) (imm : BitVec 12) (f32 : Word → Word → Word) (f64 : Dword → Dword → Dword) (x : Dword) : Dword :=
  if w64 then f64 x (imm.signExtend 64) else extS (f32 (lo32 x) (imm.signExtend 32))

/-- R296. -/
def execAddi (w64 : Bool) (d : Dest) (a : Operand) (imm : BitVec 12) (s : State) : Result :=
  compute1 d a (immOp w64 imm (· + ·) (· + ·)) s
/-- R296. -/
def execAndi (w64 : Bool) (d : Dest) (a : Operand) (imm : BitVec 12) (s : State) : Result :=
  compute1 d a (immOp w64 imm (· &&& ·) (· &&& ·)) s
/-- R296. -/
def execOri (w64 : Bool) (d : Dest) (a : Operand) (imm : BitVec 12) (s : State) : Result :=
  compute1 d a (immOp w64 imm (· ||| ·) (· ||| ·)) s
/-- R297. -/
def execShli (d : Dest) (a : Operand) (n : BitVec 6) (s : State) : Result := compute1 d a (· <<< n.toNat) s
/-- R297. -/
def execShri (d : Dest) (a : Operand) (n : BitVec 6) (s : State) : Result := compute1 d a (· >>> n.toNat) s
/-- R297. -/
def execSari (d : Dest) (a : Operand) (n : BitVec 6) (s : State) : Result := compute1 d a (fun x => x.sshiftRight n.toNat) s
/-- R297. -/
def execRotli (d : Dest) (a : Operand) (n : BitVec 6) (s : State) : Result := compute1 d a (fun x => x.rotateLeft n.toNat) s

/-- R298: imm20 above twelve zero bits, sign-extended. -/
def upperImm (imm : BitVec 20) : Dword := (imm ++ (0 : BitVec 12)).signExtend 64
/-- R298. -/
def execLhi (d : Dest) (imm : BitVec 20) (s : State) : Result := compute0 d (upperImm imm) s

/-- The address of the present instruction's first word: in its block's body, or the sequencer's PC (R208, R298). -/
def wordAddr (s : State) : Dword :=
  match s.cur with
  | .node f e => match s.inst? f with
    | some i => i.hdr + BitVec.ofNat 64 (16 + 4 * e)
    | none => 0
  | .seq cl => match s.seq? cl with
    | some q => q.pc
    | none => 0
  | _ => 0

/-- R298: relative to the PCHI word's own address. -/
def execPchi (d : Dest) (imm : BitVec 20) (s : State) : Result := compute0 d (wordAddr s + upperImm imm) s

/-- R293: signed bit field. -/
def execBfx (d : Dest) (a b : Operand) (s : State) : Result := compute2 d a b (fieldS) s
/-- R293: unsigned bit field. -/
def execBfxn (d : Dest) (a b : Operand) (s : State) : Result := compute2 d a b (fieldU) s
/-- R293: bit field insert. -/
def execBfi (d : Dest) (a b c : Operand) (s : State) : Result := compute3 d a b c (fieldIns) s
/-- R292: A + 1 × B. -/
def execLea1 (d : Dest) (a b : Operand) (s : State) : Result := compute2 d a b (fun x y => x + 1 * y) s
/-- R292: A + 2 × B. -/
def execLea2 (d : Dest) (a b : Operand) (s : State) : Result := compute2 d a b (fun x y => x + 2 * y) s
/-- R292: A + 4 × B. -/
def execLea4 (d : Dest) (a b : Operand) (s : State) : Result := compute2 d a b (fun x y => x + 4 * y) s
/-- R292: A + 8 × B. -/
def execLea8 (d : Dest) (a b : Operand) (s : State) : Result := compute2 d a b (fun x y => x + 8 * y) s
/-- R292: A + 16 × B. -/
def execLea16 (d : Dest) (a b : Operand) (s : State) : Result := compute2 d a b (fun x y => x + 16 * y) s
/-- R294: byte permutation. -/
def execPerm (d : Dest) (a b c : Operand) (s : State) : Result := compute3 d a b c (permute) s
/-- R292: 32-bit multiply-add, sign-extended. -/
def execMad (d : Dest) (a b c : Operand) (s : State) : Result := compute3 d a b c (fun x y z => extS (lo32 x * lo32 y + lo32 z)) s
/-- R292: 64-bit multiply-add. -/
def execMad64 (d : Dest) (a b c : Operand) (s : State) : Result := compute3 d a b c (fun x y z => x * y + z) s
/-- R295. -/
def execPand (d : Dest) (a b : Operand) (s : State) : Result := compute2 d a b (fun x y => ofPred (isTrue x && isTrue y)) s
/-- R295. -/
def execPor (d : Dest) (a b : Operand) (s : State) : Result := compute2 d a b (fun x y => ofPred (isTrue x || isTrue y)) s
/-- R295. -/
def execPxor (d : Dest) (a b : Operand) (s : State) : Result := compute2 d a b (fun x y => ofPred (isTrue x != isTrue y)) s
/-- R295. -/
def execPnot (d : Dest) (a : Operand) (s : State) : Result := compute1 d a (fun x => ofPred (!isTrue x)) s
/-- R295. -/
def execPandn (d : Dest) (a b : Operand) (s : State) : Result := compute2 d a b (fun x y => ofPred (isTrue x && !isTrue y)) s
/-- R295: a mask from a predicate. -/
def execP2i (d : Dest) (a : Operand) (s : State) : Result := compute1 d a (fun x => if isTrue x then BitVec.allOnes 64 else 0) s
/-- R295: whether any bit is set. -/
def execI2p (d : Dest) (a : Operand) (s : State) : Result := compute1 d a (fun x => ofPred (x != 0)) s

end Sys2Proof.Machine
end

