-- ==== Sys2Proof/Machine/Int.lean ====
section
/-! DEFINITION. IALU and IALU64 (R284 to R290), but for the cullet. -/
namespace Sys2Proof.Machine

/-- R287: A + B, 32 bits, extended by sign. -/
def execAdd (d : Dest) (a b : Operand) (s : State) : Result := compute2 d a b (opS (· + ·)) s
/-- R287: A − B, 32 bits, extended by sign. -/
def execSub (d : Dest) (a b : Operand) (s : State) : Result := compute2 d a b (opS (· - ·)) s
/-- R287: Low half of A × B, 32 bits, extended by sign. -/
def execMul (d : Dest) (a b : Operand) (s : State) : Result := compute2 d a b (opS (· * ·)) s
/-- R287: High half of the signed product, 32 bits, extended by sign. -/
def execMulh (d : Dest) (a b : Operand) (s : State) : Result := compute2 d a b (opS mulHigh) s
/-- R287: High half of the unsigned product, 32 bits, extended by zero. -/
def execMulhn (d : Dest) (a b : Operand) (s : State) : Result := compute2 d a b (opZ mulHighU) s
/-- R287: Signed minimum, 32 bits, extended by sign. -/
def execMin (d : Dest) (a b : Operand) (s : State) : Result := compute2 d a b (opS minS) s
/-- R287: Signed maximum, 32 bits, extended by sign. -/
def execMax (d : Dest) (a b : Operand) (s : State) : Result := compute2 d a b (opS maxS) s
/-- R287: Unsigned minimum, 32 bits, extended by zero. -/
def execMinn (d : Dest) (a b : Operand) (s : State) : Result := compute2 d a b (opZ minU) s
/-- R287: Unsigned maximum, 32 bits, extended by zero. -/
def execMaxn (d : Dest) (a b : Operand) (s : State) : Result := compute2 d a b (opZ maxU) s
/-- R287: A and B, 32 bits, extended by sign. -/
def execAnd (d : Dest) (a b : Operand) (s : State) : Result := compute2 d a b (opS (· &&& ·)) s
/-- R287: A or B, 32 bits, extended by sign. -/
def execOr (d : Dest) (a b : Operand) (s : State) : Result := compute2 d a b (opS (· ||| ·)) s
/-- R287: A xor B, 32 bits, extended by sign. -/
def execXor (d : Dest) (a b : Operand) (s : State) : Result := compute2 d a b (opS (· ^^^ ·)) s
/-- R287: A and not B, 32 bits, extended by sign. -/
def execAndn (d : Dest) (a b : Operand) (s : State) : Result := compute2 d a b (opS andNot) s
/-- R287: Left shift by B mod w, 32 bits, extended by sign. -/
def execShl (d : Dest) (a b : Operand) (s : State) : Result := compute2 d a b (opS shlMod) s
/-- R287: Logical right shift by B mod w, 32 bits, extended by zero. -/
def execShr (d : Dest) (a b : Operand) (s : State) : Result := compute2 d a b (opZ shrMod) s
/-- R287: Arithmetic right shift by B mod w, 32 bits, extended by sign. -/
def execSar (d : Dest) (a b : Operand) (s : State) : Result := compute2 d a b (opS sarMod) s
/-- R287: Left rotation by B mod w, 32 bits, extended by sign. -/
def execRotl (d : Dest) (a b : Operand) (s : State) : Result := compute2 d a b (opS rotlMod) s
/-- R287: Leading zero bits, 32 bits, extended by zero. -/
def execClz (d : Dest) (a : Operand) (s : State) : Result := compute1 d a (unZ leadZeros) s
/-- R287: Trailing zero bits, 32 bits, extended by zero. -/
def execCtz (d : Dest) (a : Operand) (s : State) : Result := compute1 d a (unZ trailZeros) s
/-- R287: One bits, 32 bits, extended by zero. -/
def execPopc (d : Dest) (a : Operand) (s : State) : Result := compute1 d a (unZ popCount) s
/-- R287: Bits reversed, 32 bits, extended by sign. -/
def execBrev (d : Dest) (a : Operand) (s : State) : Result := compute1 d a (unS bitReverse) s
/-- R287: Absolute value, wrapping, 32 bits, extended by sign. -/
def execAbs (d : Dest) (a : Operand) (s : State) : Result := compute1 d a (unS absWrap) s
/-- R287: 0 − A, 32 bits, extended by sign. -/
def execNeg (d : Dest) (a : Operand) (s : State) : Result := compute1 d a (unS (- ·)) s
/-- R287: Complement, 32 bits, extended by sign. -/
def execNot (d : Dest) (a : Operand) (s : State) : Result := compute1 d a (unS (~~~ ·)) s
/-- R287: A + B saturated, 32 bits, extended by sign. -/
def execAdds (d : Dest) (a b : Operand) (s : State) : Result := compute2 d a b (opS addSat) s
/-- R287: A − B saturated, 32 bits, extended by sign. -/
def execSubs (d : Dest) (a b : Operand) (s : State) : Result := compute2 d a b (opS subSat) s
/-- R287: Signed quotient, 32 bits, extended by sign. -/
def execDiv (d : Dest) (a b : Operand) (s : State) : Result := compute2 d a b (opS divS) s
/-- R287: Unsigned quotient, 32 bits, extended by zero. -/
def execDivn (d : Dest) (a b : Operand) (s : State) : Result := compute2 d a b (opZ divU) s
/-- R287: Signed remainder, 32 bits, extended by sign. -/
def execRem (d : Dest) (a b : Operand) (s : State) : Result := compute2 d a b (opS remS) s
/-- R287: Unsigned remainder, 32 bits, extended by zero. -/
def execRemn (d : Dest) (a b : Operand) (s : State) : Result := compute2 d a b (opZ remU) s
/-- R287: the low word of A, sign-extended. -/
def execMov (d : Dest) (a : Operand) (s : State) : Result := compute1 d a (unS id) s
/-- R288: part of A extended by the raw code. -/
def execXtnd (d : Dest) (a : Operand) (k : BitVec 7) (s : State) : Result := compute1 d a (extendCode k.toNat) s
/-- R287: A + B, 64 bits. -/
def execAdd64 (d : Dest) (a b : Operand) (s : State) : Result := compute2 d a b (· + ·) s
/-- R287: A − B, 64 bits. -/
def execSub64 (d : Dest) (a b : Operand) (s : State) : Result := compute2 d a b (· - ·) s
/-- R287: Low half of A × B, 64 bits. -/
def execMul64 (d : Dest) (a b : Operand) (s : State) : Result := compute2 d a b (· * ·) s
/-- R287: High half of the signed product, 64 bits. -/
def execMulh64 (d : Dest) (a b : Operand) (s : State) : Result := compute2 d a b (mulHigh) s
/-- R287: High half of the unsigned product, 64 bits. -/
def execMulhn64 (d : Dest) (a b : Operand) (s : State) : Result := compute2 d a b (mulHighU) s
/-- R287: Signed minimum, 64 bits. -/
def execMin64 (d : Dest) (a b : Operand) (s : State) : Result := compute2 d a b (minS) s
/-- R287: Signed maximum, 64 bits. -/
def execMax64 (d : Dest) (a b : Operand) (s : State) : Result := compute2 d a b (maxS) s
/-- R287: Unsigned minimum, 64 bits. -/
def execMinn64 (d : Dest) (a b : Operand) (s : State) : Result := compute2 d a b (minU) s
/-- R287: Unsigned maximum, 64 bits. -/
def execMaxn64 (d : Dest) (a b : Operand) (s : State) : Result := compute2 d a b (maxU) s
/-- R287: A and B, 64 bits. -/
def execAnd64 (d : Dest) (a b : Operand) (s : State) : Result := compute2 d a b (· &&& ·) s
/-- R287: A or B, 64 bits. -/
def execOr64 (d : Dest) (a b : Operand) (s : State) : Result := compute2 d a b (· ||| ·) s
/-- R287: A xor B, 64 bits. -/
def execXor64 (d : Dest) (a b : Operand) (s : State) : Result := compute2 d a b (· ^^^ ·) s
/-- R287: A and not B, 64 bits. -/
def execAndn64 (d : Dest) (a b : Operand) (s : State) : Result := compute2 d a b (andNot) s
/-- R287: Left shift by B mod w, 64 bits. -/
def execShl64 (d : Dest) (a b : Operand) (s : State) : Result := compute2 d a b (shlMod) s
/-- R287: Logical right shift by B mod w, 64 bits. -/
def execShr64 (d : Dest) (a b : Operand) (s : State) : Result := compute2 d a b (shrMod) s
/-- R287: Arithmetic right shift by B mod w, 64 bits. -/
def execSar64 (d : Dest) (a b : Operand) (s : State) : Result := compute2 d a b (sarMod) s
/-- R287: Left rotation by B mod w, 64 bits. -/
def execRotl64 (d : Dest) (a b : Operand) (s : State) : Result := compute2 d a b (rotlMod) s
/-- R287: Leading zero bits, 64 bits. -/
def execClz64 (d : Dest) (a : Operand) (s : State) : Result := compute1 d a (leadZeros) s
/-- R287: Trailing zero bits, 64 bits. -/
def execCtz64 (d : Dest) (a : Operand) (s : State) : Result := compute1 d a (trailZeros) s
/-- R287: One bits, 64 bits. -/
def execPopc64 (d : Dest) (a : Operand) (s : State) : Result := compute1 d a (popCount) s
/-- R287: Bits reversed, 64 bits. -/
def execBrev64 (d : Dest) (a : Operand) (s : State) : Result := compute1 d a (bitReverse) s
/-- R287: Absolute value, wrapping, 64 bits. -/
def execAbs64 (d : Dest) (a : Operand) (s : State) : Result := compute1 d a (absWrap) s
/-- R287: 0 − A, 64 bits. -/
def execNeg64 (d : Dest) (a : Operand) (s : State) : Result := compute1 d a (- ·) s
/-- R287: Complement, 64 bits. -/
def execNot64 (d : Dest) (a : Operand) (s : State) : Result := compute1 d a (~~~ ·) s
/-- R287: A + B saturated, 64 bits. -/
def execAdds64 (d : Dest) (a b : Operand) (s : State) : Result := compute2 d a b (addSat) s
/-- R287: A − B saturated, 64 bits. -/
def execSubs64 (d : Dest) (a b : Operand) (s : State) : Result := compute2 d a b (subSat) s
/-- R287: Signed quotient, 64 bits. -/
def execDiv64 (d : Dest) (a b : Operand) (s : State) : Result := compute2 d a b (divS) s
/-- R287: Unsigned quotient, 64 bits. -/
def execDivn64 (d : Dest) (a b : Operand) (s : State) : Result := compute2 d a b (divU) s
/-- R287: Signed remainder, 64 bits. -/
def execRem64 (d : Dest) (a b : Operand) (s : State) : Result := compute2 d a b (remS) s
/-- R287: Unsigned remainder, 64 bits. -/
def execRemn64 (d : Dest) (a b : Operand) (s : State) : Result := compute2 d a b (remU) s
/-- R287: all of A. -/
def execMov64 (d : Dest) (a : Operand) (s : State) : Result := compute1 d a (id) s
/-- R288: as XTND. -/
def execXtnd64 (d : Dest) (a : Operand) (k : BitVec 7) (s : State) : Result := compute1 d a (extendCode k.toNat) s
/-- R290: signed 32 by 32 to 64 bits. -/
def execMulw (d : Dest) (a b : Operand) (s : State) : Result := compute2 d a b (fun x y => extS (lo32 x) * extS (lo32 y)) s
/-- R290: unsigned 32 by 32 to 64 bits. -/
def execMulwn (d : Dest) (a b : Operand) (s : State) : Result := compute2 d a b (fun x y => extZ (lo32 x) * extZ (lo32 y)) s

end Sys2Proof.Machine
end

