-- ==== Sys2Proof/Machine/Service.lean ====
section
/-! DEFINITION. The registers of the management core (R5, R6, R65 to R67, R73, R99, R106, R354, R412, R415 to R417, R450), the
mailbox and the firmware services (R440, R444, R452 to R454, R460, R463, R464). Where the spec gives a service no layout of
its request, log entry 50 does. -/
namespace Sys2Proof.Machine

/-! ## Mailboxes (R452) -/

def noMail : Mailbox := ⟨[], [], [], 0, 0, 0, false, false, none, 0⟩
def State.mailbox (s : State) (func : Nat) : Mailbox := kvGetD func noMail s.mg.mail
def State.setMailbox (s : State) (func : Nat) (m : Mailbox) : State :=
  { s with mg := { s.mg with mail := kvSetD func noMail m s.mg.mail } }
def Mailbox.arg (m : Mailbox) (k : Nat) : Nat := (kvGetD k 0 m.taken).toNat

/-- A write of MBCTL (R452): one with GO = 1 while GO reads 1 is ignored; otherwise CODE is taken, DONE falls where 1 is
written, and GO = 1 starts the service. While no valid firmware runs, a service that it has left cannot hold back the one that
reloads it (R463; log entry 54). -/
def Mailbox.control (m : Mailbox) (firmware : Bool) (v : Dword) : Mailbox :=
  let code := bits v.toNat 31 24
  if v.getLsbD 0 && m.go && (firmware || code != 8 || m.run == 8) then m
  else
    let m := { m with code := code, done := m.done && !v.getLsbD 1 }
    if v.getLsbD 0 then { m with go := true, run := code, taken := m.req, pending := none } else m

/-- MBCTL as it reads. -/
def Mailbox.ctl (m : Mailbox) : Dword := BitVec.ofNat 64 (m.code * 2 ^ 24 + m.status * 2 ^ 16 + ofBool m.done * 2 + ofBool m.go)

/-- A service has its reply, to be given. -/
def State.answer (s : State) (func st : Nat) (rep : List Dword) : State :=
  s.setMailbox func { s.mailbox func with pending := some (st, rep) }

/-- A service that runs for a function; `vf` says whether a virtual function may call it. -/
def service (code : Nat) (vf : Bool) (func : Nat) (run : Mailbox → State → State) (s : State) : Result :=
  let m := s.mailbox func
  .next (if 64 ≤ func || !m.go || m.run != code || m.pending.isSome || !s.mg.firmware then s
    else if func != 0 && !vf then s.answer func 2 []
    else run m s)

/-- A function may name a job: function 0 any, a virtual function its own (R453). -/
def State.mayUse (s : State) (func job : Nat) : Bool := func == 0 || (match kvGet job s.disp.jobs with
  | some j => j.func == func
  | none => false)

/-! ## Code objects (R440, R444) -/

/-- The image of a request: local HBM or the host range. -/
def State.readImageAt (s : State) (pa n : Nat) : State × Option (List Byte) :=
  match placeOf s pa with
  | .hbm _ =>
    let (s, bs) := s.mgmtRead pa n
    (s, if s.mg.busErr then none else some bs)
  | .host => s.outsideRead (.host (pa - 2 ^ 51) 0) n
  | _ => (s, none)

/-- An object as it is registered. -/
def newObj (h : Dword) (job func : Nat) (img : List Byte) (libs : List Dword) (eager : Bool) : CodeObj where
  handle := h
  job := job
  func := func
  image := img
  libs := libs
  tried := []
  uses := []
  registered := true
  st := if eager then .wanted else .absent
  base := 0
  span := 0
  reserved := false
  digest := []
  imports := []
  kernels := []
  pages := []
  err := 0
  errIdx := 0
  errP := 0

/-- SERVICE_REGISTER (R439, R440): the image is copied; the handle is the job's next. A request whose reserved bits are not 0 is
malformed (log entry 50). -/
def execServiceRegister (func : Nat) (s : State) : Result :=
  service 1 true func (fun m s =>
    let d1 := m.arg 1
    let job := bits d1 31 16
    let n := m.arg 2
    let libs := (upto n).map fun k => dn (m.arg (3 + k))
    if !s.mayUse func job then s.answer func 2 []
    else if bits d1 15 1 != 0 || m.arg 7 != 0 || 4 < n || (kvGet job s.disp.jobs).isNone || !(libs.all fun h => s.mayName job h) then
      s.answer func 3 []
    else match s.readImageAt (m.arg 0) (bits d1 63 32) with
      | (s, none) => s.answer func 4 [0, 12]
      | (s, some img) =>
        let serial := kvGetD job 1 s.disp.serials
        let h := dn (job * 2 ^ 48 + serial * 2 ^ 16)
        let s := s.setObj h.toNat (newObj h job func img libs (bit d1 0))
        let s := { s with disp := { s.disp with serials := kvSet job (serial + 1) s.disp.serials } }
        s.answer func 0 [h, 0]) s

/-- SERVICE_WITHDRAW (R444): the registration's reference goes; request dword 0 is the handle. -/
def execServiceWithdraw (func : Nat) (s : State) : Result :=
  service 2 true func (fun m s =>
    match s.obj? (m.arg 0) with
    | none => s.answer func 3 []
    | some o =>
      if !s.mayUse func o.job then s.answer func 2 []
      else if !o.registered then s.answer func 3 []
      else (s.setObj (m.arg 0) { o with registered := false }).answer func 0 []) s

/-! ## Invalidation, power, the log (R453, R460, R464) -/

/-- SERVICE_INVALIDATE: as the writes of XLAT_VA and XLAT_CMD, once no other invalidation is in progress. -/
def execServiceInvalidate (func : Nat) (s : State) : Result :=
  service 3 false func (fun m s =>
    if s.mg.inval.isSome then s
    else
      let s := { s with mg := { s.mg with xlatVa := dn (m.arg 0) &&& ~~~0x3FFF#64 } }
      let err := s.mg.xlatErr
      let s := ({ s with mg := { s.mg with xlatErr := false } }).xlatCmd (BitVec.ofNat 32 (m.arg 1))
      let bad := s.mg.xlatErr
      let s := { s with mg := { s.mg with xlatErr := err || bad } }
      s.answer func (if bad then 3 else 0) []) s

/-- SERVICE_POWER_MODE (R464): the change joins those that are still to be applied (log entry 77). -/
def execServicePowerMode (func : Nat) (s : State) : Result :=
  service 4 false func (fun m s =>
    let mode := bits (m.arg 0) 2 0
    let cap := bits (m.arg 0) 19 8
    if 3 < mode || cap < 1600 || 3200 < cap then s.answer func 3 []
    else
      let s := { s with mg := { s.mg with power := { s.mg.power with req := s.mg.power.req ++ [(mode, cap)] } } }
      s.answer func 0 []) s

/-- A log entry's two dwords (R460). -/
def LogEntry.words (e : LogEntry) : List Dword :=
  [dn (e.kind * 2 ^ 56 + e.die * 2 ^ 48 + e.unit * 2 ^ 40 + e.inc * 2 ^ 32 + e.count), dn e.clock]

/-- An entry is of the unit that a core is, or is part of: UNIT numbers a core for an incarnation, the first core of its cluster
for a substitution, and nothing for a die (R460). An HBM stack, a bridge and a port are no job's own (log entry 50). -/
def LogEntry.ofCore (e : LogEntry) (core : Nat) : Bool :=
  dieOfCore core == e.die && (match e.kind with
    | 4 => core % 80 / 4 == e.unit / 4
    | 5 => true
    | 8 => core % 80 == e.unit
    | _ => false)

/-- A virtual function sees the entries of units that hold a gather of one of its jobs. -/
def State.logSeen (s : State) (func : Nat) (e : LogEntry) : Bool :=
  func == 0 || s.fab.gathers.any fun g => e.ofCore g.2.core && (s.launch? g.2.lid).any fun l => s.mayUse func l.job

/-- SERVICE_READ_LOG: four entries from the one that request dword 0 numbers; those that are not there read 0. -/
def execServiceReadLog (func : Nat) (s : State) : Result :=
  service 5 true func (fun m s =>
    let es := ((s.mg.log.filter (s.logSeen func)).drop (m.arg 0)).take 4
    s.answer func 0 (es.flatMap LogEntry.words)) s

/-! ## Registers -/

/-- DBGCTL as it reads (R415). -/
def State.dbgctl (s : State) (n : Nat) : Dword :=
  let d := kvGetD n noDbg s.mg.dbg
  dn (d.job * 2 ^ 48 + ofBool d.haltTrap * 8 + ofBool d.hGather * 4 + ofBool (s.haltPending d) * 2 + ofBool d.att)

/-- A write of DBGCTL; HALTREQ acts with the fields as written. -/
def State.writeDbgctl (s : State) (n : Nat) (v : Dword) : State :=
  let d := kvGetD n noDbg s.mg.dbg
  let s := s.setDbg n { d with
    job := bits v.toNat 63 48, haltTrap := v.getLsbD 3, hGather := v.getLsbD 2, att := v.getLsbD 0 }
  if v.getLsbD 1 then (match execDbgHaltreq n s with
    | .next s => s
    | _ => s) else s

/-- A write of DBGCMD (R417). -/
def State.writeDbgcmd (s : State) (n : Nat) (v : Dword) : State :=
  match (match bits v.toNat 21 20 with
    | 0 => execDbgcmdFibre n v s
    | 1 => execDbgcmdGather n v s
    | 2 => execDbgcmdJob n v s
    | _ => .next s) with
  | .next s => s
  | _ => s

/-- An address register's writable bits: [63:2] and EN. -/
def addrReg (v : Dword) : Dword := v &&& ~~~2#64

/-- A write of a dword of an ownership entry (R354). -/
def Own.write (o : Own) (dw : Nat) (v : Dword) : Own :=
  match dw with
  | 0 => { o with handle := v &&& ~~~0x3F#64 }
  | 1 => { o with
      job := bits v.toNat 63 48, launch := bits v.toNat 47 16, int32 := v.getLsbD 4, dirty := v.getLsbD 3
      st := match v.toNat % 4 with
        | 0 => .free
        | 1 => .active
        | 2 => .pinned
        | _ => .home }
  | 2 => { o with tokens := v }
  | _ => o

/-- A write of a dword of a tile's ownership entry. A tile that becomes FREE is +0 in every element, with ETYPE, TOKENS, DIRTY and
HANDLE 0 (R354, R355). -/
def State.writeOwn (s : State) (cl id dw : Nat) (v : Dword) : State :=
  let o := s.own? cl id
  let n := o.write dw v
  if o.st != .free && n.st == .free then
    (s.clearTile cl id).setOwn cl id { n with handle := 0, int32 := false, dirty := false, tokens := 0 }
  else s.setOwn cl id n

/-- FSTAT (R450). -/
def State.fstat (s : State) (func : Nat) : Dword :=
  dn (ofBool s.mg.peer.isSome * 2 ^ 58 + (s.mg.peer.getD 0) * 2 ^ 48 + s.mg.dies.toNat * 2 ^ 40 + ofBool s.mg.degraded * 2 ^ 32 + func * 2 ^ 24)

/-- INCARN (R106). -/
def State.incarn (s : State) (die : Nat) : Word := BitVec.ofNat 32 (s.dieInc die * 2 ^ 24 + ofBool (!s.ms.out.contains die))

def freshBridge : Bridge := ⟨0, 0, 0, false, true, 0, 2⟩
def State.bridge (s : State) (br : Nat) : Bridge := kvGetD br freshBridge s.mg.bridges
def State.setBridge (s : State) (br : Nat) (b : Bridge) : State :=
  { s with mg := { s.mg with bridges := kvSetD br freshBridge b s.mg.bridges } }
/-- BRSTAT (R99). -/
def Bridge.stat (b : Bridge) : Word :=
  BitVec.ofNat 32 (b.retry * 2 ^ 16 + b.spare * 2 ^ 12 + b.retrain * 2 ^ 8 + ofBool b.down * 2 + ofBool b.up)

/-- The state that a register's write comes to. -/
def written (s : State) : Result → State
  | .next t => t
  | _ => s

/-- A register's write (R5): read-only fields and registers keep their values. -/
def State.writeReg (s : State) (r : MReg) (v : Dword) : State :=
  match r with
  | .xlatVa => { s with mg := { s.mg with xlatVa := v &&& ~~~0x3FFF#64 } }
  | .xlatCmd => s.xlatCmd (v.truncate 32)
  | .cspart core => written s (execCspartWrite core (v.truncate 32) s)
  | .bvdrain => written s (execBvdrainWrite (v.truncate 32) s)
  | .qcfg q dw => written s (execQcfgWrite q dw v s)
  | .xlatStat => { s with mg := { s.mg with xlatErr := s.mg.xlatErr && !v.getLsbD 1 } }
  | .cspstat core => if core < 640 then s.setPart core { partOf s core with err := (partOf s core).err && !v.getLsbD 1 } else s
  | .ement => { s with mg := { s.mg with ement := addrReg v } }
  | .dbgctl n => if n < 8 then s.writeDbgctl n v else s
  | .dbgbp n i =>
    if n < 8 && i < 16 then
      let d := kvGetD n noDbg s.mg.dbg
      s.setDbg n { d with bps := kvSetD i 0 (addrReg v) d.bps }
    else s
  | .owntab cl id dw => if cl < 160 && id < 32 then s.writeOwn cl id dw v else s
  | .incarn _ => s
  | .brstat _ => s
  | .fstat _ => s
  | .mbreq func k =>
    if func < 64 && k < 8 then
      let m := s.mailbox func
      s.setMailbox func { m with req := kvSetD k 0 v m.req }
    else s
  | .mbctl func => if func < 64 then s.setMailbox func ((s.mailbox func).control s.mg.firmware v) else s

/-- What a register reads. -/
def State.readReg (s : State) : MReg → Dword
  | .xlatVa => s.mg.xlatVa
  | .xlatCmd => s.mg.xlatCmd.zeroExtend 64
  | .xlatStat => (s.xlatStat).zeroExtend 64
  | .cspart core => (partOf s core).cspart.zeroExtend 64
  | .bvdrain => s.bvdrain.zeroExtend 64
  | .qcfg q dw => if dw then (s.queue q).d1 else (s.queue q).d0
  | .cspstat core => (partOf s core).cspstat.zeroExtend 64
  | .ement => s.mg.ement
  | .dbgctl n => s.dbgctl n
  | .dbgbp n i => kvGetD i 0 (kvGetD n noDbg s.mg.dbg).bps
  | .owntab cl id dw => (ownEntry (s.own? cl id)).getD dw 0
  | .incarn d => (s.incarn d).zeroExtend 64
  | .brstat br => (s.bridge br).stat.zeroExtend 64
  | .fstat func => s.fstat func
  | .mbreq func k => kvGetD k 0 (s.mailbox func).req
  | .mbctl func => (s.mailbox func).ctl

/-- REGISTER_WRITE (R5). -/
def execRegisterWrite (r : MReg) (v : BitVec 64) (s : State) : Result := .next (s.writeReg r v)

/-! ## Debug slots and job configuration (R453) -/

/-- A halted fibre's record read or written (R417): dword 1 names the fibre as DBGCMD does, dword 2 a dword of the record. A read
answers with it and the seven after it; a write puts dword 3 there. -/
def State.debugRecord (s : State) (func n : Nat) (m : Mailbox) (wr : Bool) : State :=
  let o := 8 * m.arg 2
  match (s.dbgSlot n).bind fun d => s.haltedFibre d (dn (m.arg 1)) with
  | none => s.answer func 3 []
  | some (f, x, ga) =>
    let bs := s.fibreRecord f ga x
    if bs.length ≤ o then s.answer func 3 []
    else if wr then
      match s.putRecord f ga x (bs.take o ++ leBytes 8 (m.arg 3) ++ bs.drop (o + 8)) with
      | some s => s.answer func 0 []
      | none => s.answer func 3 []
    else s.answer func 0 ((upto 8).map fun k => dn (dwAt bs (o + 8 * k)))

/-- The register that a debug request names: request dword 0 [7:0] the slot, [15:8] the register: 0 DBGCTL, 1 to 16 DBGBP 0
to 15, 17 DBGCMD, 18 the record of a halted fibre; [16] a write. -/
def execServiceDebugSlot (func : Nat) (s : State) : Result :=
  service 6 false func (fun m s =>
    let a := m.arg 0
    let n := bits a 7 0
    let r := bits a 15 8
    let v := dn (m.arg 1)
    if 8 ≤ n || 18 < r then s.answer func 3 []
    else if r = 18 then s.debugRecord func n m (bit a 16)
    else if r = 17 then (if bit a 16 then s.writeDbgcmd n v else s).answer func 0 [0]
    else
      let g : MReg := if r = 0 then .dbgctl n else .dbgbp n (r - 1)
      let s := if bit a 16 then s.writeReg g v else s
      s.answer func 0 [s.readReg g]) s

/-- The enabled contexts but one. -/
def State.enabledBut (s : State) (ctx : Nat) : List Nat := (s.disp.ctxs.filter fun c => c.1 != ctx && c.2.en).map (·.1)

/-- Firmware may give a CTXID this record (R21, R43, R44): a whole-context invalidation has completed since the CTXID's last
record; no more than 1024 contexts are enabled; the aperture lies in the upper canonical half, and does not move while the
context lives, from its enabling to its disabling. A table with a valid descriptor 0 is not looked at here: how firmware keeps it
invalid R430 does not say (log entry 73). -/
def State.ctxAllowed (s : State) (c : Ctx) : Bool :=
  !s.mg.ctxUsed.contains c.ctxid &&
  (!c.en || decide ((s.enabledBut c.ctxid).length < 1024)) &&
  decide (2 ^ 64 - 2 ^ 57 ≤ c.sb) &&
  (let o := ctxOf s c.ctxid
   !o.en || !c.en || o.sb == c.sb)

/-- A record takes effect under its CTXID. A reserved bit of it has no effect, 0 or not: R43 states none (log entry 73). The
counts of the CTXID go on (R379 does not say; log entry 21). -/
def State.putCtx (s : State) (c : Ctx) : State :=
  { s with
    disp := { s.disp with ctxs := kvSet c.ctxid c s.disp.ctxs }
    mg := { s.mg with ctxUsed := c.ctxid :: s.mg.ctxUsed } }

/-- One item of a job's configuration, as request dword 0 [3:0] names it: none where it is malformed, or breaks what firmware
must keep to. 0 a context record: dword 0 [63:48] its job, dwords 1 to 4 the record. 1 a queue: dword 0 [26:16] its number,
dwords 1 and 2 QCFG. 2 a job: dword 0 [63:48] its JID, dword 1 [3:0] its circuit set, [15:8] its function, [31:16] its
context. 3 this module's peer number: dword 1 [9:0], valid with [63]. 4 a route: dword 0 [25:16] the peer, dword 1 [23:0]
its ports. 5 a host window: dword 0 [21:16] the function, dword 1 HWBASE. -/
def State.configure (s : State) (m : Mailbox) : Option State :=
  let a := m.arg 0
  let d (k : Nat) : Dword := dn (m.arg k)
  match bits a 3 0 with
  | 0 =>
    let c : Ctx := ⟨d 1, d 2, d 3, d 4, bits a 63 48⟩
    if s.ctxAllowed c then some (s.putCtx c) else none
  | 1 =>
    let q := bits a 26 16
    some (s.setQueue q (((s.queue q).config false (d 1)).config true (d 2)))
  | 2 =>
    let job := bits a 63 48
    let x := m.arg 1
    let j : Job := ⟨bits x 3 0, bits x 31 16, bits x 15 8, false, false⟩
    (match kvGet job s.disp.jobs with
     | some o => if !o.done && o.set != j.set then none
       else some { s with disp := { s.disp with jobs := kvSet job { j with closing := o.closing && !o.done } s.disp.jobs } }
     | none => some { s with disp := { s.disp with jobs := kvSet job j s.disp.jobs } })
  | 3 => some { s with mg := { s.mg with peer := if (d 1).getLsbD 63 then some (m.arg 1 % 1024) else none } }
  | 4 => some { s with mg := { s.mg with routes := kvSet (bits a 25 16) ((upto 24).filter fun p => (d 1).getLsbD p) s.mg.routes } }
  | 5 => if m.arg 1 % 2 ^ 14 != 0 then none
    else some { s with mg := { s.mg with hwBase := kvSetD (bits a 21 16) 0 (m.arg 1) s.mg.hwBase } }
  | _ => none

/-- SERVICE_JOB_CONFIG (R453). -/
def execServiceJobConfig (func : Nat) (s : State) : Result :=
  service 7 false func (fun m s =>
    match s.configure m with
    | some s => s.answer func 0 []
    | none => s.answer func 3 []) s

/-! ## Firmware and reset (R463) -/

/-- The part after a reset. The model's own count of free values goes on, so that no value is used twice; what is still on
the agenda comes from outside and stays. -/
def State.restart (s : State) : State := { State.reset with free := s.free, agenda := s.agenda }

/-- RESET. -/
def execReset (s : State) : Result := .next s.restart

/-- MANAGEMENT_CORE_FAILURE. -/
def execManagementCoreFailure (s : State) : Result := .next { s with mg := { s.mg with firmware := false } }

/-- SERVICE_LOAD_FIRMWARE: whether the image's signature verifies is not for the model to say; a valid image resets the part,
another gives a service error. It is answered without firmware too. -/
def execServiceLoadFirmware (func : Nat) (s : State) : Result :=
  let m := s.mailbox func
  .next (if func != 0 then
      (if 64 ≤ func || !m.go || m.run != 8 || m.pending.isSome then s else s.answer func 2 [])
    else if !m.go || m.run != 8 || m.pending.isSome then s
    else
      let (s, ok) := s.takeBit
      if ok then s.restart else s.answer 0 4 [])

/-! ## Replies (R452) -/

/-- The reply of a registration waits for an eager load, and carries its error (R442). -/
def State.settleReply (s : State) (m : Mailbox) (st : Nat) (rep : List Dword) : Option (Nat × List Dword) :=
  if m.run = 1 && st = 0 && bit (m.arg 1) 0 then
    match s.obj? (rep.getD 0 0).toNat with
    | some o =>
      if o.st == .wanted || o.st == .loading then none
      else if o.st == .failed then some (4, [rep.getD 0 0, dn o.err, dn o.errIdx, o.errP])
      else some (st, rep)
    | none => some (st, rep)
  else if m.run = 3 && s.mg.inval.isSome then none
  else some (st, rep)

/-- MAILBOX_REPLY: DONE is set, GO falls, and MSI-X vector 0 signals it (R449). A code that is no service gives STATUS 1. Without
valid firmware only service 8 answers (R463). -/
def execMailboxReply (func : Nat) (s : State) : Result :=
  let m := s.mailbox func
  let give (st : Nat) (rep : List Dword) : State :=
    s.setMailbox func { m with
      rep := (rep.zipIdx).map fun p => (p.2, p.1), status := st, done := true, go := false, pending := none, signals := m.signals + 1 }
  .next (if !m.go || (!s.mg.firmware && m.run != 8) then s
    else match m.pending with
      | some (st, rep) => (match s.settleReply m st rep with
        | some (st, rep) => give st rep
        | none => s)
      | none => if m.run = 0 || 8 < m.run then give 1 [] else s)

end Sys2Proof.Machine
end

