-- ==== Sys2Proof/Machine/Links.lean ====
section
/-! DEFINITION. What comes from outside and what fails: the host window and peers (R40, R161, R454), map writes of the
management core (R33, R34), second-tier timeouts (R101), bridges and ports (R98, R456, R457, R462), spares and dies that
leave (R459 to R461), power (R16 to R18, R464, R465). -/
namespace Sys2Proof.Machine

/-! ## The on-chip map (R33 to R35) -/

/-- ONCHIP_MAP_WRITE: a transfer that breaks R33, or reaches an absent byte, is a bus error and writes nothing. -/
def execOnchipMapWrite (off : Nat) (bytes : List (BitVec 8)) (s : State) : Result := .next (s.mgmtMapWrite off bytes)

/-! ## Host and peers -/

/-- A request of an agent outside for a line travels from LD0 to its home (R95; log entry 82). -/
def State.sendIn (s : State) (line : Nat) : State := s.send 8 (homeOf s (line * 128)) 0
/-- The home's data go back. -/
def State.sendBack (s : State) (line : Nat) : State := s.send (homeOf s (line * 128)) 8 2

/-- Bytes written at their homes, after the holders have drained (R178). `clears` says that a whole line clears its poison. -/
def State.homeWrite (s : State) (clears : Bool) (cs : List (Nat × Byte)) : State :=
  (linesOf cs).foldl (fun s l => ((s.sendIn l).drainLine l).writeLine (homeOf s (l * 128)) l cs clears none) s

/-- Bytes read exactly at their home for an agent outside; the value leaves the part. -/
def State.homeRead (s : State) (pa n : Nat) : State :=
  let ls := ((addrs pa n).map lineOf).eraseDups
  let s := ls.foldl State.sendIn s
  ls.foldl State.sendBack (s.readPhys pa n).1

/-- HOST_WINDOW_ACCESS (R161, R177, R178, R454): outside the part's memory it is an unsupported request; without valid firmware
the window does not answer (R463). -/
def execHostWindowAccess (func off len : Nat) (wr : Option (List (BitVec 8))) (s : State) : Result :=
  let pa := kvGetD func 0 s.mg.hwBase + off
  let n := match wr with
    | some bs => bs.length
    | none => len
  .next (if 64 ≤ func || !s.mg.firmware || 2 ^ 36 < off + n || !((addrs pa n).all fun a => (placeOf s a).isMem) then s
    else match wr with
      | some bs => s.homeWrite false (cellsAt pa bs)
      | none => s.homeRead pa n)

/-- PEER_REQUEST (R40, R177, R178): performed at the home; the operands of an ATOM or RED are the bytes, B before C. A poisoned line
fails an ATOM, and discards a RED, which is logged (R103). -/
def execPeerRequest (op : PeerOp) (addr len : Nat) (bytes : List (BitVec 8)) (s : State) : Result :=
  let ok (n : Nat) : Bool := decide (addr + n ≤ 2 ^ 40) && (addrs addr n).all fun a => (placeOf s a).isMem
  .next (match op with
    | .read => if ok len then s.homeRead addr len else s
    | .write => if ok bytes.length then s.homeWrite true (cellsAt addr bytes) else s
    | .atomic fn w64 red =>
      let n := if w64 then 8 else 4
      if !ok n || addr % n != 0 || (!red && s.ms.poison.contains (lineOf addr)) then s
      else ((((s.sendIn (lineOf addr)).drainLine (lineOf addr)).rmwAt (homeOf s addr) ⟨fn, w64, 5, 0, red⟩ (addrs addr n)
        (leNat (bytes.take n)) (leNat ((bytes.drop n).take n)) none).1.sendBack (lineOf addr)))

/-! ## Accesses whose answer never comes (R101, R462)

`Lost` says of a core and a physical address that what the core asks there is not answered. -/

abbrev Lost := Nat → Nat → Bool

/-- The device of a port is asked for an address: no die's second-level cache holds its line. -/
def State.behind (s : State) (port pa : Nat) : Bool := placeOf s pa == .tier port && (s.sharers (lineOf pa)).isEmpty

/-- A walk from the table at t, so many levels left, reads what is lost (R49). -/
def State.walkLost (s : State) (lost : Nat → Bool) (c : Ctx) (va : Nat) : Nat → Nat → Bool
  | 0, _ => false
  | n + 1, t =>
    let a := t + 8 * (va % 2 ^ 58 / 2 ^ pageBits (3 - n) % 2048)
    lost a || (match s.walkRead a with
      | none => false
      | some e =>
        if !bit e 0 || malformed s e (3 - n) then false
        else if bit e 1 then lost (c.rdt + 32 * bits e 59 54)
        else s.walkLost lost c va n (bits e 51 14 * 2 ^ 14))

/-- Page walks that wait for it fail, and their requests with them. -/
def State.failWalks (s : State) (lost : Lost) : State :=
  let bad := s.ms.walks.filter fun w => let c := ctxOf s w.ctx
    (placeOf s (c.root * 2 ^ 14)).isMem && s.walkLost (lost (80 * w.die)) c (w.page * 2 ^ 14) 4 (c.root * 2 ^ 14)
  let s := { s with ms := { s.ms with walks := s.ms.walks.filter fun w => !bad.contains w } }
  bad.foldl (fun s w => s.failWaiters w.waiters 0x0D) s

/-- The address of a read of memory, by its instruction and the value of its address operand: a load's, an element's block for LD.FMT,
the descriptor of a copy. -/
def loadAddr : Parsed → Option (Dword → Nat)
  | .whole (.ld _ sz _ _ off) => some fun a => effAddr a off (sizeOf7 sz)
  | .whole (.ldFmt _ _ _ _) => some fun a => a.toNat
  | .whole (.cpy _ _ _ _) => some fun a => a.toNat
  | .whole (.cpyr _ _ _) => some fun a => a.toNat
  | .whole (.cpyp _ _ _) => some fun a => a.toNat
  | .whole (.cpyg _ _ _) => some fun a => a.toNat
  | _ => none

/-- A virtual address leads to what is lost. -/
def State.vaLost (s : State) (lost : Nat → Bool) (ctx va : Nat) : Bool :=
  !(ctxOf s ctx).inAperture va && (match s.walk ctx va with
    | .leaf l _ => lost (l.pa va)
    | .absent => false)

/-- A fibre's core asks for a virtual address what is lost: its first-level cache does not hold it. -/
def State.coreLost (s : State) (lost : Lost) (f va : Nat) : Bool :=
  s.vaLost (lost (coreOf f)) (s.ctxOfFibre f) va && (match s.walk (s.ctxOfFibre f) va with
    | .leaf l _ => (s.l1At (coreOf f) (l.pa va)).isNone
    | .absent => true)

/-- The dwords of the spill record that a RET reads, where the fibre has no entry left in its call stack (R233). -/
def State.refillAsks (s : State) (f : Nat) (i : Inst) : List Nat :=
  match s.fibre? f with
  | none => []
  | some x =>
    let v := x.eff
    if !v.stack.isEmpty || v.spilled == 0 || i.fspPending then []
    else [0, 8, 16, 24].map fun k => ((i.fspW.getD v.fsp).toNat + k) % 2 ^ 64

/-- The virtual addresses that a node reads as it fires, by its operands. -/
def State.nodeAsks (s : State) (f : Nat) (i : Inst) (p : Parsed) (xs : List Dword) : List Nat :=
  if p == .whole .ret then s.refillAsks f i
  else match loadAddr p, xs with
    | some addr, a :: _ => [addr a]
    | _, _ => []

/-- The nodes of an instance that wait for it, with the address and the operands: loads, copies whose descriptors are read, and a RET
that reads a spill record. No store stands before them (R134). -/
def State.stalledLoads (s : State) (lost : Lost) (f : Nat) (i : Inst) : List (Nat × Nat × List Dword) :=
  (nodesOf i.body).filterMap fun q =>
    if !i.todo.contains q.1 || i.awaitsStore q.1 then none
    else match i.reads (srcsOf q.2) with
      | .vals xs => ((s.nodeAsks f i q.2 xs).find? (s.coreLost lost f)).map fun va => (q.1, va, xs)
      | _ => none

/-- Nodes of instances in flight that wait for it fault. -/
def State.failNodes (s : State) (lost : Lost) : State :=
  s.fab.insts.foldl (fun s x => (s.stalledLoads lost x.1 x.2).foldl (fun s n =>
    s.nodeFault x.1 n.1 0x0D (BitVec.ofNat 64 n.2.1) (n.2.2.getD 0 0) (n.2.2.getD 1 0) (n.2.2.getD 2 0)) s) s

/-- Addresses of the window words of spans that have to be filled first. -/
def State.spanFills (s : State) (ps : List Span) : List Nat :=
  (ps.flatMap s.spanWords).filterMap fun p => (s.gather? p.1).bind fun ga =>
    if (ga.winAt (4 * p.2)).isNone || (ga.word p.2).v then none else ga.backing (4 * p.2)

/-- The bytes of an image by their lines (R369). -/
def imageLines (h : Dword) : List Nat := (upto 513).map fun k => h.toNat + 128 * k

/-- What locating spans has found. -/
def foundSpans : Except Bad (List Span) → List Span
  | .ok ps => ps
  | .error _ => []

/-- The virtual addresses that a sequencer's instruction asks for: those of a load, store or atomic operation, of the image of MPIN or
MFILL, and of the window words of a matrix operand. -/
def State.seqAsks (s : State) (cl : Nat) (q : Seq) : Parsed → List Nat
  | .whole (.st _ sz _ a off) => [effAddr (q.read a) off (sizeOf7 sz)]
  | .whole (.stFmt _ _ a _) => [(q.read a).toNat]
  | .whole (.mpin _ _ b) => if (s.holderOf cl q.job (q.read b)).isSome then [] else imageLines (q.read b)
  | .whole (.mfill _ b) => imageLines (q.read b)
  | .whole (.mma ctl a b) =>
    let c := (q.read ctl).toNat
    let tiles := mmaTiles c
    let as := match (s.planAs cl q (q.read a) (if bit c 11 then some (bits c 15 12) else none) (!bit c 8) tiles.length).2 with
      | .ok ps => ps.flatMap Planned.spans
      | .error _ => []
    let bs := match (s.planB cl q c ((tiles.map engineOf).headD 0) (q.read b)).2 with
      | .ok p => p.spans
      | .error _ => []
    s.spanFills (s.mmaDescs cl q c tiles.length ((tiles.map engineOf).headD 0) (q.read a) (q.read b) ++ as ++ bs)
  | .whole (.mdelta ctl a _) => s.spanFills (foundSpans (s.locRun cl q (q.read a) 784 (bits (q.read ctl).toNat 15 8)))
  | .whole (.mscan ctl a b) =>
    let c := (q.read ctl).toNat
    s.spanFills (foundSpans (s.locRun cl q (q.read a) 256 (bits c 15 8)) ++
      if bit c 5 then [] else foundSpans (s.locRun cl q (q.read b) 512 1))
  | .whole (.mlda ctl a) =>
    let c := (q.read ctl).toNat
    s.spanFills (foundSpans (s.locRows cl q (q.read a) (bits c 51 32) (128 * xfmtBytes (bits c 8 5)) (upto 128)))
  | i => match loadAddr i, srcsOf i with
    | some addr, a :: _ => [addr (q.read a)]
    | none, a :: _ => if isMemNode i then [(q.read a).toNat] else []
    | _, [] => []

/-- A sequencer whose present instruction waits for it faults; one whose code does, as for an instruction that cannot be read
(R342). -/
def State.failSeqs (s : State) (lost : Lost) : State :=
  s.mat.seqs.foldl (fun s p =>
    let q := p.2
    if !q.run || q.halted then s
    else if s.vaLost (lost (4 * p.1)) q.ctx q.pc.toNat then s.seqFault p.1 0x0C q.pc
    else match parseOk true (s.seqFetch p.1 q.ctx q.pc.toNat 5).2.1 with
      | .ok (i, _) => (match (s.seqAsks p.1 q i).find? (s.vaLost (lost (4 * p.1)) q.ctx) with
        | some va => s.seqFault p.1 0x0D (BitVec.ofNat 64 va)
        | none => s)
      | .error _ => s) s

/-- The line of memory that a window fill asks for, by its virtual and its physical address, and whether it is bounded. -/
def State.fillLine (s : State) (fl : Fill) : Option (Nat × Nat × Bool) :=
  match s.gather? fl.g with
  | none => none
  | some ga => match ga.backing (fl.line * 128) with
    | none => none
    | some va => match s.walk ga.ctx va with
      | .leaf l _ => some (va, l.pa va, (l.bound s va).isSome)
      | .absent => none

/-- Window fills and bounded reads that wait for it fail; `home` says the same of what is read at the home. -/
def State.failFills (s : State) (lost home : Lost) : State :=
  let bad := s.ms.fills.filter fun fl => (s.fillLine fl).any fun p =>
    if p.2.2 then home (coreOfGather fl.g) p.2.1 else lost (coreOfGather fl.g) p.2.1
  let worse := s.ms.breads.filter fun b => home (80 * agentDie b.agent) b.pa
  let s := { s with ms := { s.ms with
    fills := s.ms.fills.filter fun fl => !bad.contains fl, breads := s.ms.breads.filter fun b => !worse.contains b } }
  let s := bad.foldl (fun s fl => fl.agents.foldl (fun s a =>
    s.addFresh a (.fail 0x0D (BitVec.ofNat 64 (((s.fillLine fl).map (·.1)).getD 0)))) s) s
  worse.foldl (fun s b => s.addFresh b.agent (.fail 0x0D (BitVec.ofNat 64 b.va))) s

/-- Instruction line fills that wait for it fail, and their builds with them (R470); a fill that a build has started was one (R469,
R379). -/
def State.failIFills (s : State) (lost : Lost) : State :=
  s.fab.cores.foldl (fun s c => (c.2.ifills.filter fun x => s.vaLost (lost c.1) x.ctx (x.line * 128)).foldl (fun s x =>
    let s := if x.counted && s.fetchStarts c.1 x.ctx x.line then s.count c.1 x.ctx 5 else s
    let fb := s.fabric c.1
    s.setFabric c.1 { fb with ifills := fb.ifills.erase x, builds := fb.builds.map (Build.got x.ctx x.line none) }) s) s

/-- Slot loads that wait for it fail: those of bytes that the core's first-level cache does not hold. -/
def State.failLoads (s : State) (lost : Lost) : State :=
  (s.fab.prods.filter fun p => p.2.load.any fun j => j.pas.any fun a =>
    (s.l1At (coreOf p.2.f) a).isNone && lost (coreOf p.2.f) a).foldl (fun s p => match p.2.load with
    | some j => if s.loadHeld p.2.f p.1 then s else s.poisonLoad p.1 p.2 j
    | none => s) s

/-- A RED, which waits for no answer. -/
def isRed : Instr → Bool
  | .redAdd _ _ _ _ _ => true
  | .redAnd _ _ _ _ _ => true
  | .redOr _ _ _ _ _ => true
  | .redXor _ _ _ _ _ => true
  | .redMin _ _ _ _ _ => true
  | .redMax _ _ _ _ _ => true
  | .redMinn _ _ _ _ _ => true
  | .redMaxn _ _ _ _ _ => true
  | .redFadd _ _ _ _ _ => true
  | .redHadd2F16 _ _ _ _ _ => true
  | .redHadd2Bf16 _ _ _ _ _ => true
  | _ => false

/-- ATOMs at the head of a queue that wait for it fail. -/
def State.failAtoms (s : State) (lost : Lost) : State :=
  s.fab.fibres.foldl (fun s p => match p.2.post with
    | o :: _ => (match o.place with
      | some pl => if (match pl.goal with
          | .global _ _ _ => true
          | _ => false) && !isRed o.op && p.2.report.isNone && pl.cells.any fun c => lost (coreOf p.1) c.1 then s.postFault p.1 0x0D pl.va else s
      | none => s)
    | [] => s) s

/-- A LAUNCH at the head of a queue reads its record, or its range table, from what is lost (R275). -/
def State.recordLost (s : State) (lost : Lost) (f : Nat) (p : PostOp) : Bool :=
  let ctx := s.ctxOfFibre f
  let x := s.queue p.b.toNat
  p.a.toNat % 64 == 0 && decide (p.b.toNat < 2048) && x.job == s.jobOf f && x.en &&
  (s.vaLost (lost (coreOf f)) ctx p.a.toNat || (match (s.readVirt (coreOf f) (dieOf f) ctx p.a.toNat 64).2 with
    | .ok bs => !recBad (dwordsOf bs) && recRanges (dwordsOf bs) != 0 && s.vaLost (lost (coreOf f)) ctx (recRanges (dwordsOf bs)).toNat
    | .error _ => false))

/-- LAUNCHes that wait for it have status 4, as for a record that cannot be read (R275). -/
def State.failLaunches (s : State) (lost : Lost) : State :=
  s.fab.fibres.foldl (fun s x => match x.2.post with
    | p :: _ => (match p.op with
      | .launch _ _ _ => if x.2.stage == 2 && s.recordLost lost x.1 p then s.donePost x.1 p 4 else s
      | _ => s)
    | [] => s) s

/-- The lines behind a port that a copy asks the device for: those that it has brought into a second-level cache from memory. -/
def State.copyAsks (s : State) (port : Nat) (o : CopyOp) : List Nat :=
  let t := (s.perform o).1
  ((((t.ms.l2.filter fun c => c.2.st != .i).map fun c => c.1 % 2 ^ 45).eraseDups).filter fun l => s.behind port (l * 128)).filter fun l =>
    !s.ms.poison.contains l

/-- The words of a gather's windows that stand for some lines, as they were before a writeback. -/
def State.keepWords (s before : State) (g : Nat) (ls : List Nat) : State :=
  match before.gather? g with
  | some ga => s.modGather g fun x => (ga.words.filter fun w => (before.backLine ga (4 * w.1)).any ls.contains).foldl
      (fun x w => x.setWord w.1 w.2) x
  | none => s

/-- What a copy comes to while the device does not answer: it ends as at a poisoned line (R103), if it asks the device for one; what
fails is none of the words that it would have written back, which stay as they were (R118). -/
def State.copyWithout (s : State) (port : Nat) (o : CopyOp) : Option (State × Nat × Nat) :=
  let s : State := { s with cur := .gather o.g }
  match s.copyAsks port o with
  | [] => none
  | ls => match ({ s with ms := { s.ms with poison := ls ++ s.ms.poison } }).perform o with
    | (t, some (some (x, va))) =>
      if (s.perform o).2 = some (some (x, va)) then none
      else
        let t := { t with ms := { t.ms with poison := t.ms.poison.filter fun l => !ls.contains l } }
        some (if o.kind = .spwb then t.keepWords s o.g ls else t, 0x0D, va)
    | _ => none

/-- The queued copies of a core that wait for it complete with error status. -/
def State.failCopies (s : State) (port core : Nat) : Nat → State
  | 0 => s
  | n + 1 => match (s.copiesOf core)[n]? with
    | none => s.failCopies port core n
    | some o => if o.moved then s.failCopies port core n else match s.copyWithout port o with
      | some (t, e) => (t.endCopy core n o (some e)).failCopies port core n
      | none => s.failCopies port core n

/-- SECOND_TIER_TIMEOUT: what is reported after commit comes before the faults of instances (R414). -/
def execSecondTierTimeout (port : Nat) (s : State) : Result :=
  let lost : Lost := fun _ pa => s.behind port pa
  let s := ((((s.failWalks lost).failFills lost lost).failIFills lost).failLoads lost).failAtoms lost
  let s := ((s.failLaunches lost).failNodes lost).failSeqs lost
  .next ((s.ms.copies.map (·.1)).foldl (fun s c => s.failCopies port c 128) s)

/-! ## Units that are lost (R105, R459, R461) -/

/-- A gather of a failed core is gone, its fibres with it. -/
def State.loseGather (s : State) (g : Nat) (ga : Gather) : State :=
  let fs := (s.fab.fibres.filter fun p => gatherOf p.1 == g).map (·.1)
  let s := fs.foldl (fun s f => (((s.clearWaits f).leaveRdv f).delInst f).clearFresh (agentNode f 127)) s
  let s := { s with
    fab := { s.fab with fibres := kvFilter (fun f _ => gatherOf f != g) s.fab.fibres }
    ms := { s.ms with
      fences := s.ms.fences.filter fun w => !(fs.any fun f => w.agent == agentNode f 127)
      drains := s.ms.drains.filter fun d => !(fs.any fun f => d.agent == agentNode f 127)
      offers := s.ms.offers.filter fun o => !(fs.any fun f => o.agent / 128 == f) || !o.atom } }
  (s.removeGather g ga).modLaunch ga.lid fun l => { l with left := l.left - 1 }

/-- A core is lost: its gathers, its copies, its store, its caches. CSPART, CSPSTAT and the performance counts of its number stay
as they are, also for the hot spare that takes the number (R459 does not say; log entry 94). -/
def State.loseCore (s : State) (core : Nat) : State :=
  let s := (s.residents core).foldl (fun s g => s.loseGather g.1 g.2) s
  let s := (s.setCopies core []).clearL1 core
  { s with
    fab := { s.fab with
      slots := kvFilter (fun k _ => k / 2 ^ 18 != core) s.fab.slots, cores := kvDel core s.fab.cores }
    ms := { s.ms with
      sp := kvFilter (fun k _ => k / 2 ^ 21 != core) s.ms.sp, tm := kvFilter (fun k _ => k / 2 ^ 21 != core) s.ms.tm
      tlb := s.ms.tlb.filter fun t => t.unit != core && t.unit != 1000 + core } }

/-- A cluster is lost: its cores, its sequencer, its tiles. -/
def State.loseCluster (s : State) (cl : Nat) : State :=
  let s := (upto 4).foldl (fun s k => s.loseCore (4 * cl + k)) s
  let s := (upto 32).foldl (fun s id => s.freeTile cl id) s
  { s with
    mat := { s.mat with seqs := kvDel cl s.mat.seqs }
    ms := { s.ms with
      fresh := s.ms.fresh.filter fun p => p.1 != agentSeq cl, fences := s.ms.fences.filter fun w => w.agent != agentSeq cl
      drains := s.ms.drains.filter fun d => d.agent != agentSeq cl
      tlb := s.ms.tlb.filter fun t => t.unit != 2000 + cl } }

/-- A launch has a gather, a bind record, a tile or a program on one of some clusters. -/
def State.onClusters (s : State) (lid : Nat) (p : Nat → Bool) : Bool :=
  ((s.gathersOf lid).any fun g => p (clOfCore (coreOfGather g))) ||
  ((s.bindsOf lid).any fun b => (upto 80).any fun c => b.2.has c && p (clOfCore (80 * (b.1 / 256) + c))) ||
  ((s.mat.own.any fun o => o.2.launch == lid && o.2.st != .free && p (o.1 / 32))) ||
  s.mat.seqs.any fun q => p q.1 && ((q.2.run && q.2.lid == lid) || q.2.startq.any fun r => r.lid == lid)

/-- The launches on some clusters are cancelled (R459 step 1). -/
def State.cancelOn (s : State) (p : Nat → Bool) : State :=
  ((s.launchesWhere fun l => l.st != .complete).filter fun l => s.onClusters l.1 p).foldl (fun s l =>
    (s.modLaunch l.1 fun l => { l with checkpoint := false, slice := false }).cancelNow l.1 0) s

/-- Accesses that wait for a home that is gone fail. -/
def State.failReads (s : State) : State :=
  let bad := s.ms.breads.filter fun b => !(placeOf s b.pa).isMem
  let s := { s with ms := { s.ms with breads := s.ms.breads.filter fun b => !bad.contains b } }
  bad.foldl (fun s b => s.addFresh b.agent (.fail 0x0D (BitVec.ofNat 64 b.va))) s

/-- Tokens are lost (R462, R457): their fences wait for them no more, and the copies that they write for end with an error, whose
address the spec does not state (log entry 75). -/
def State.loseTokens (s : State) (reason : Nat) (p : Posted → Bool) : State :=
  let gone := s.ms.posted.filter p
  let ids := gone.filterMap fun x => match x.what with
    | .write _ _ op => op
    | .bounded _ _ op => op
    | _ => none
  let (s, x) := s.takeFree
  let hit (o : CopyOp) : CopyOp := if ids.contains o.id ∧ o.ended = some none then { o with ended := some (some (reason, x.toNat)) } else o
  { s with ms := { s.ms with
    posted := s.ms.posted.filter fun x => !p x
    fences := s.ms.fences.map (FenceWait.without gone)
    copies := s.ms.copies.map fun c => (c.1, c.2.map hit) } }

/-- Routes have changed: every circuit set is bound anew, with new allowances, and what its senders hold leaves (R462; log entry
81). -/
def State.rebind (s : State) : State :=
  let s := { s with ms := { s.ms with allow := [] } }
  ((s.ms.posted.map Posted.circ).eraseDups).foldl (fun s c => releaseHeld s.ms.posted.length s c) s

/-- A die leaves service (R461). -/
def State.dieOut (s : State) (die : Nat) : State :=
  if 8 ≤ die || !s.mg.dies.getLsbD die then s
  else
    let mine (cl : Nat) : Bool := dieOfCl cl == die
    let s := s.cancelOn mine
    let s := (upto 20).foldl (fun s k => s.loseCluster (20 * die + k)) s
    let s := (s.loseTokens 0x0D fun p => p.src == die || p.dst == die).clearDie die
    let s := { s with
      ms := { s.ms with
        offers := s.ms.offers.filter fun o => o.die != die, walks := s.ms.walks.filter fun w => w.die != die
        tlb := s.ms.tlb.filter fun t => t.unit != 3000 + die, out := die :: s.ms.out.filter (· != die) }
      mg := { s.mg with dies := s.mg.dies &&& ~~~(1#8 <<< die), degraded := true } }
    ((s.failReads.rebind).logEvent 5 die 0 (s.dieInc die)).progress

/-- DIE_OUT_OF_SERVICE. -/
def execDieOutOfService (die : Nat) (s : State) : Result := .next (s.dieOut die)

/-- CLUSTER_FAILURE (R459): the hot spare takes the cluster's number; a die's second failure takes the die out. -/
def execClusterFailure (cl : Nat) (s : State) : Result :=
  let die := dieOfCl cl
  .next (if 160 ≤ cl || !s.mg.dies.getLsbD die then s
    else if s.mg.spareUsed.contains die then s.dieOut die
    else
      let s := (s.cancelOn (· == cl)).loseCluster cl
      let s := { s with mg := { s.mg with spareUsed := die :: s.mg.spareUsed } }
      let s := (upto 4).foldl (fun s k => s.nextInc (8 + 4 * cl + k)) s
      let s := s.logEvent 4 die (4 * (cl % 20)) (s.coreInc (4 * cl))
      ((upto 4).foldl (fun s k => s.logEvent 8 die (4 * (cl % 20) + k) (s.coreInc (4 * cl + k))) s).progress)

/-- ROW_SPARING (R460): seen in the log only. -/
def execRowSparing (die stack : Nat) (s : State) : Result :=
  .next (if 8 ≤ die then s else s.logEvent 3 die stack 0)

/-! ## Bridges (R98, R99, R462) -/

/-- The die that a link's failure takes out, by link; bridges 2·l and 2·l + 1 are the ends of link l (log entry 51). -/
def linkFar (l : Nat) : Nat := [1, 2, 3, 5, 6, 7, 4, 5, 6, 7, 0, 4, 3, 7].getD l 0
/-- A bridge's die, as the log numbers it. -/
def bridgeDie (br : Nat) : Nat :=
  [0, 1, 1, 2, 2, 3, 4, 5, 5, 6, 6, 7, 0, 4, 1, 5, 2, 6, 3, 7, 8, 0, 8, 4, 9, 3, 9, 7].getD br 0

/-- FLIT_REPLAY: a flit is replayed, with success or without; eight failed replays of one flit call for a retraining, which is
owed until it has been made. -/
def execFlitReplay (r : Replay) (s : State) : Result :=
  let b := s.bridge r.bridge
  .next (if 28 ≤ r.bridge || b.down then s
    else s.setBridge r.bridge { b with retry := min 0xFFFF (b.retry + 1), fails := if b.fails == 8 then 8 else if r.ok then 0 else b.fails + 1 })

/-- LINK_RETRAIN: a failed retraining takes a spare lane; with none left the link waits to be declared down. -/
def execLinkRetrain (br : Nat) (ok : Bool) (s : State) : Result :=
  let b := s.bridge br
  let b' := { b with retrain := min 0xF (b.retrain + 1) }
  .next (if 28 ≤ br || b.down || b.fails < 8 then s
    else if ok then s.setBridge br { b' with fails := 0, up := true }
    else if 0 < b.spares then
      (s.setBridge br { b' with fails := 0, up := true, spares := b.spares - 1, spare := b.spare + 1 }).logEvent 6 (bridgeDie br) br 0
    else s.setBridge br { b' with up := false })

/-- The retraining of a bridge has failed, and no spare lane remains (R98). -/
def Bridge.failed (b : Bridge) : Bool := b.fails == 8 && b.spares == 0 && !b.up && !b.down

/-- The route between two dies uses the link between two others. -/
def State.crosses (s : State) (x y src dst : Nat) : Bool :=
  let r := s.routeOf src dst
  (r.zip (r.drop 1)).any fun h => h == (x, y) || h == (y, x)

/-- A fence whose token is lost fails, with TVAL 0 (log entry 68). A LAUNCH never faults (R275): its release cannot complete, so its
record is not read, and it has status 4 (log entry 97). -/
def State.failFence (s : State) (agent : Nat) : State :=
  let s := { s with ms := { s.ms with fences := s.ms.fences.filter fun w => w.agent != agent } }
  if 10 ^ 12 ≤ agent then s.seqFault (agent - 10 ^ 12) 0x0D 0
  else match (s.fibre? (agent / 128)).bind fun x => x.post.head? with
    | some p => (match p.op with
      | .launch _ _ _ => s.donePost (agent / 128) p 4
      | _ => s.postFault (agent / 128) 0x0D 0)
    | none => s

/-- The fences whose tokens pass a test. -/
def State.fencesOf (s : State) (p : Posted → Bool) : List Nat :=
  (s.ms.posted.filterMap fun x => match x.what with
    | .fence agent => if p x then some agent else none
    | _ => none).eraseDups

/-- ATOMs whose request for a share is not answered fail (R171). -/
def State.failOffers (s : State) (lost : Lost) : State :=
  let bad := s.ms.offers.filter fun o => o.atom && (o.stage == 1 || o.stage == 3) && lost (80 * o.die) (o.line * 128)
  let s := { s with ms := { s.ms with offers := s.ms.offers.filter fun o => !bad.contains o } }
  bad.foldl (fun s o => if 10 ^ 12 ≤ o.agent then s.seqFault (o.agent - 10 ^ 12) 0x0D (BitVec.ofNat 64 o.pa)
    else s.postFault (o.agent / 128) 0x0D (s.acquireVa o.agent)) s

/-- The agents whose acquire waits for a drain that a test names by the dies of agent and core (R87, R94). -/
def State.drainsOver (s : State) (p : Nat → Nat → Bool) : List Nat :=
  ((s.ms.drains.filter fun d => p (agentDie d.agent) (dieOfCore d.record.core)).map (·.agent)).eraseDups

/-- A request of a die to another, or its answer, passes over a link. -/
def State.between (s : State) (x y a b : Nat) : Bool := s.crosses x y a b || s.crosses x y b a

/-- The tokens with which a die obtains a line pass over a link (R91, R94): its request and the home's data, or the forward to the
owner and the owner's data, or the home's read of the second tier. A line that its own second-level cache holds takes none. -/
def State.missOver (s : State) (x y die line : Nat) : Bool :=
  let home := homeOf s (line * 128)
  let owner := (s.sharers line).filter fun d => (s.copyOf d line).st != .s
  (s.copyOf die line).st == .i &&
  (s.crosses x y die home || (if owner.isEmpty then
      s.crosses x y home die || (decide (2 ^ 44 ≤ line * 128) && s.between x y home (8 + (line * 128 - 2 ^ 44) / 2 ^ 43))
    else owner.any fun d => s.crosses x y home d || s.crosses x y d die))

/-- The lines of which a drain on its way is lost: the home's reads of them wait for it (R176). -/
def State.drainsLost (s : State) (p : Posted → Bool) : List Nat :=
  s.ms.posted.filterMap fun x => match x.what with
    | .drain _ line _ _ _ => if p x then some line else none
    | _ => none

/-- What is outstanding over a link that is lost fails (R462): the walks, fills, loads that wait for a miss, bounded reads and requests
for shares whose tokens it carries, the fences of its tokens, the bounded reads that wait for a lost drain, and the acquires whose
drains it carries. What is reported after commit comes before the faults of instances (R414). -/
def State.failLink (s : State) (x y : Nat) : State :=
  let t := s
  let over_ (p : Posted) : Bool := p.sent && t.crosses x y p.src p.dst
  let lost : Lost := fun core pa => t.missOver x y (dieOfCore core) (lineOf pa)
  let asked : Lost := fun core pa => t.between x y (dieOfCore core) (homeOf t pa)
  let drains := s.drainsLost over_
  let home : Lost := fun core pa => asked core pa || t.missOver x y (homeOf t pa) (lineOf pa) || drains.contains (lineOf pa)
  let miss : Lost := fun core pa => lost core pa && t.ms.misses.any fun m => m.core == core && m.line == lineOf pa
  let fences := s.fencesOf over_
  let s := s.loseTokens 0x0D over_
  let s := ((((s.failWalks lost).failFills lost home).failIFills lost).failLoads miss).failOffers asked
  let s := (s.drainsOver (t.between x y)).foldl State.cutAcquire s
  (fences.foldl State.failFence s).failNodes miss

/-- LINK_DOWN: what travels over the link is lost. -/
def execLinkDown (br : Nat) (s : State) : Result :=
  let l := br / 2
  .next (if 28 ≤ br || !(s.bridge br).failed then s
    else
      let s := s.failLink (bridgeDie (2 * l)) (bridgeDie (2 * l + 1))
      let fall (s : State) (b : Nat) : State := s.setBridge b { s.bridge b with down := true, up := false }
      let s := (fall (fall s (2 * l)) (2 * l + 1)).logEvent 7 (bridgeDie br) br 0
      { s with mg := { s.mg with degraded := true } }.dieOut (linkFar l))

/-! ## Scale-up ports (R456, R457) -/

def State.port (s : State) (p : Nat) : Port := kvGetD p ⟨4, true⟩ s.mg.ports
def State.setPort (s : State) (p : Nat) (x : Port) : State := { s with mg := { s.mg with ports := kvSetD p ⟨4, true⟩ x s.mg.ports } }

/-- PORT_LANE_FAILURE: two lanes at half the rate. -/
def execPortLaneFailure (port : Nat) (s : State) : Result :=
  .next (if 24 ≤ port then s else s.setPort port { s.port port with lanes := min 2 (s.port port).lanes })

/-- Bytes of the peer aperture that stand at a peer which no port reaches. -/
def State.cutOff (s : State) (cs : List (Nat × Byte)) : Bool := cs.any fun c => decide (c.1 < 2 ^ 51) && !s.ownCell c.1 && !s.reachable (c.1 / 2 ^ 40 % 1024)

/-- A write on its way to a peer that no port reaches any more. -/
def State.toNowhere (s : State) (p : Posted) : Bool := match p.what with
  | .write cs _ _ => decide (8 ≤ p.dst) && s.cutOff cs
  | _ => false

/-- The stores of instances in flight to peers that no port reaches any more fault (R457). -/
def State.failStores (s : State) : State :=
  s.fab.insts.foldl (fun s x => (x.2.stores.filter fun o => o.goal == .outside && s.cutOff o.cells).foldl (fun s o =>
    let xs := match ((nodesOf x.2.body).find? fun q => q.1 == o.eidx).map fun q => x.2.reads (srcsOf q.2) with
      | some (.vals xs) => xs
      | _ => []
    s.nodeFault x.1 o.eidx 0x09 o.va (xs.getD 0 0) (xs.getD 1 0) (xs.getD 2 0)) s) s

/-- PORT_DOWN: the port's circuits move; a peer without a port is unreachable from now on, and what is on its way there fails. -/
def execPortDown (port : Nat) (s : State) : Result :=
  .next (if 24 ≤ port || !(s.port port).up then s
    else
      let s := (s.setPort port { s.port port with up := false }).logEvent 7 (if port < 12 then 8 else 9) port 0
      let s := { s with mg := { s.mg with degraded := true } }
      ((s.loseTokens 0x09 s.toNowhere).failStores))

/-! ## Power (R16 to R18, R464, R465) -/

/-- An instance has read PWRM and not committed: what it read must be what is in force when it commits (R18). -/
def Inst.holdsPower (i : Inst) : Bool :=
  (nodesOf i.body).any fun q => !i.todo.contains q.1 && (match q.2 with
    | .whole (.rdsr _ n) => n == 18
    | _ => false)

/-- The power state once the oldest change that is asked for is in force (log entry 77). Between a change from MATRIX to VECTOR, or back, and the next arbiter
interval FTHR stays as it was: R16 and R465 do not say (log entry 76). -/
def Power.apply (p : Power) : Power :=
  let (mode, budget) := match p.req with
    | (m, cap) :: _ => (if m = 0 ∧ cap < 3200 then 4 else m, cap)
    | [] => (p.mode, p.budget)
  { p with mode := mode, budget := budget, req := p.req.tail, thr := p.nextThr
           fthr := if mode = 1 ∨ mode = 2 then p.nextFthr else 0, nextFthr := if mode = 1 ∨ mode = 2 then p.nextFthr else 0 }

/-- POWER_CHANGE_APPLY (R18): for the whole part in one step. -/
def execPowerChangeApply (s : State) : Result :=
  .next (if s.fab.insts.any fun i => i.2.holdsPower then s else { s with mg := { s.mg with power := s.mg.power.apply } })

/-- One interval's change, at most 4. -/
def stepTo (old new : Nat) : Nat := if old + 4 < new then old + 4 else if new + 4 < old then old - 4 else new

/-- The smallest value from a first to 12 whose estimate meets a budget; 12 where none does. -/
def meets (est : List Nat) (budget first : Nat) : Nat :=
  ((addrs first (13 - first)).find? fun k => decide (est.getD k 0 ≤ budget)).getD 12

/-- ARBITER_INTERVAL (R465): `est` k is the estimate in watts with THR = k, `estF` k that with THR = 12 and FTHR = k. -/
def execArbiterInterval (est estF : List Nat) (s : State) : Result :=
  let p := s.mg.power
  if s.clock < p.last + 2 ^ 16 then .next s
  else
    let t := meets est p.budget 0
    let favours := p.mode = 1 ∨ p.mode = 2
    let f := if favours ∧ t = 12 ∧ p.budget < est.getD 12 0 then meets estF p.budget 1 else 0
    .next { s with mg := { s.mg with power := { p with
      nextThr := stepTo p.thr t, nextFthr := if favours then stepTo p.fthr f else 0, last := s.clock } } }

/-- The mode and cap that the last change asked for will leave, or those in force. -/
def Power.asked (p : Power) : Nat × Nat := p.req.getLast?.getD (if p.mode = 4 then 0 else p.mode, p.budget)

/-- COOLANT_LIMIT (R464): BUDGET is asked to fall, never below 1,600 W, and the change is logged with KIND 0, DIE 8, UNIT 0, INC 0 (log
entry 52). It comes after the
changes that are still pending, keeps the mode of the last, and is none where its cap is as low (log entry 77). -/
def execCoolantLimit (watts : Nat) (s : State) : Result :=
  let p := s.mg.power
  let w := max 1600 watts
  let (m, cap) := p.asked
  .next (if cap ≤ w then s
    else
      { s with mg := { s.mg with power := { p with req := p.req ++ [(m, w)] } } }.logEvent 0 8 0 0)

end Sys2Proof.Machine
end

