-- ==== Sys2Proof/Machine/Dispatch.lean ====
section
/-! DEFINITION. Which meaning each instruction and each device event has. -/
namespace Sys2Proof.Machine

/-- One arm for each constructor of `Instr`. -/
def exec (i : Instr) (s : State) : Host.Outcome State Fault Refusal :=
  match i with
  | .blockAdmission f => Sys2Proof.Machine.execBlockAdmission f s
  | .commit f => Sys2Proof.Machine.execCommit f s
  | .instanceFault f => Sys2Proof.Machine.execInstanceFault f s
  | .postCommitTrapDelivery f => Sys2Proof.Machine.execPostCommitTrapDelivery f s
  | .loadResultArrival p => Sys2Proof.Machine.execLoadResultArrival p s
  | .schedulerChoice core => Sys2Proof.Machine.execSchedulerChoice core s
  | .instructionLineFill core ctx line => Sys2Proof.Machine.execInstructionLineFill core ctx line s
  | .configBuildComplete core ctx hdr => Sys2Proof.Machine.execConfigBuildComplete core ctx hdr s
  | .configPlacement core ctx hdr => Sys2Proof.Machine.execConfigPlacement core ctx hdr s
  | .nodeTeardown core cfg node => Sys2Proof.Machine.execNodeTeardown core cfg node s
  | .fibreAgeing f => Sys2Proof.Machine.execFibreAgeing f s
  | .yieldDelayExpiry f => Sys2Proof.Machine.execYieldDelayExpiry f s
  | .windowFillComplete g line => Sys2Proof.Machine.execWindowFillComplete g line s
  | .homeWrite j => Sys2Proof.Machine.execHomeWrite j s
  | .copyOperationComplete core j => Sys2Proof.Machine.execCopyOperationComplete core j s
  | .drainRequest j => Sys2Proof.Machine.execDrainRequest j s
  | .acquireComplete f => Sys2Proof.Machine.execAcquireComplete f s
  | .fenceTokenArrival j => Sys2Proof.Machine.execFenceTokenArrival j s
  | .fenceComplete f => Sys2Proof.Machine.execFenceComplete f s
  | .l1AgeingSweep core => Sys2Proof.Machine.execL1AgeingSweep core s
  | .coherenceRequest die line excl => Sys2Proof.Machine.execCoherenceRequest die line excl s
  | .lineEviction die line => Sys2Proof.Machine.execLineEviction die line s
  | .directoryEntryEviction line => Sys2Proof.Machine.execDirectoryEntryEviction line s
  | .directoryError line => Sys2Proof.Machine.execDirectoryError line s
  | .agentRejoin isDie unit => Sys2Proof.Machine.execAgentRejoin isDie unit s
  | .holderOffer j => Sys2Proof.Machine.execHolderOffer j s
  | .grantRequest die line => Sys2Proof.Machine.execGrantRequest die line s
  | .forcedDrain die line => Sys2Proof.Machine.execForcedDrain die line s
  | .drainApplied j => Sys2Proof.Machine.execDrainApplied j s
  | .boundedRead j => Sys2Proof.Machine.execBoundedRead j s
  | .repartitionBankEmpty core => Sys2Proof.Machine.execRepartitionBankEmpty core s
  | .l1FlushComplete core => Sys2Proof.Machine.execL1FlushComplete core s
  | .xlatInvPageRange v => Sys2Proof.Machine.execXlatInvPageRange v s
  | .xlatInvContext v => Sys2Proof.Machine.execXlatInvContext v s
  | .xlatInvRegion v => Sys2Proof.Machine.execXlatInvRegion v s
  | .xlatInvCodeRange v => Sys2Proof.Machine.execXlatInvCodeRange v s
  | .xlatInvAll v => Sys2Proof.Machine.execXlatInvAll v s
  | .xlatInvalidationDone => Sys2Proof.Machine.execXlatInvalidationDone s
  | .cspartWrite core v => Sys2Proof.Machine.execCspartWrite core v s
  | .bvdrainWrite v => Sys2Proof.Machine.execBvdrainWrite v s
  | .qcfgWrite q dw v => Sys2Proof.Machine.execQcfgWrite q dw v s
  | .ingressPortWrite func off bytes => Sys2Proof.Machine.execIngressPortWrite func off bytes s
  | .launchAcceptance q => Sys2Proof.Machine.execLaunchAcceptance q s
  | .bindRecordWrite die idx dw v => Sys2Proof.Machine.execBindRecordWrite die idx dw v s
  | .gatherPlacement => Sys2Proof.Machine.execGatherPlacement s
  | .gatherExit g => Sys2Proof.Machine.execGatherExit g s
  | .launchCompletion lid => Sys2Proof.Machine.execLaunchCompletion lid s
  | .codeLoad handle pool => Sys2Proof.Machine.execCodeLoad handle pool s
  | .codeLoadComplete handle => Sys2Proof.Machine.execCodeLoadComplete handle s
  | .codeUnload handle => Sys2Proof.Machine.execCodeUnload handle s
  | .codeEviction handle => Sys2Proof.Machine.execCodeEviction handle s
  | .kill lid => Sys2Proof.Machine.execKill lid s
  | .drain lid => Sys2Proof.Machine.execDrain lid s
  | .checkpoint lid => Sys2Proof.Machine.execCheckpoint lid s
  | .checkpointSaved lid pool => Sys2Proof.Machine.execCheckpointSaved lid pool s
  | .restore lid => Sys2Proof.Machine.execRestore lid s
  | .timeSliceExpiry lid => Sys2Proof.Machine.execTimeSliceExpiry lid s
  | .sequencerProgramStart cl => Sys2Proof.Machine.execSequencerProgramStart cl s
  | .matComplete cl j => Sys2Proof.Machine.execMatComplete cl j s
  | .dbgHaltreq slot => Sys2Proof.Machine.execDbgHaltreq slot s
  | .dbgcmdFibre slot v => Sys2Proof.Machine.execDbgcmdFibre slot v s
  | .dbgcmdGather slot v => Sys2Proof.Machine.execDbgcmdGather slot v s
  | .dbgcmdJob slot v => Sys2Proof.Machine.execDbgcmdJob slot v s
  | .serviceRegister func => Sys2Proof.Machine.execServiceRegister func s
  | .serviceWithdraw func => Sys2Proof.Machine.execServiceWithdraw func s
  | .serviceInvalidate func => Sys2Proof.Machine.execServiceInvalidate func s
  | .servicePowerMode func => Sys2Proof.Machine.execServicePowerMode func s
  | .serviceReadLog func => Sys2Proof.Machine.execServiceReadLog func s
  | .serviceDebugSlot func => Sys2Proof.Machine.execServiceDebugSlot func s
  | .serviceJobConfig func => Sys2Proof.Machine.execServiceJobConfig func s
  | .serviceLoadFirmware func => Sys2Proof.Machine.execServiceLoadFirmware func s
  | .mailboxReply func => Sys2Proof.Machine.execMailboxReply func s
  | .onchipMapWrite off bytes => Sys2Proof.Machine.execOnchipMapWrite off bytes s
  | .registerWrite r v => Sys2Proof.Machine.execRegisterWrite r v s
  | .hostWindowAccess func off len wr => Sys2Proof.Machine.execHostWindowAccess func off len wr s
  | .peerRequest op addr len bytes => Sys2Proof.Machine.execPeerRequest op addr len bytes s
  | .atsInvalidation func base span => Sys2Proof.Machine.execAtsInvalidation func base span s
  | .priResponse func page ok => Sys2Proof.Machine.execPriResponse func page ok s
  | .priTimeout func page => Sys2Proof.Machine.execPriTimeout func page s
  | .secondTierTimeout port => Sys2Proof.Machine.execSecondTierTimeout port s
  | .flitReplay br => Sys2Proof.Machine.execFlitReplay br s
  | .linkRetrain br ok => Sys2Proof.Machine.execLinkRetrain br ok s
  | .linkDown br => Sys2Proof.Machine.execLinkDown br s
  | .portLaneFailure port => Sys2Proof.Machine.execPortLaneFailure port s
  | .portDown port => Sys2Proof.Machine.execPortDown port s
  | .clusterFailure cl => Sys2Proof.Machine.execClusterFailure cl s
  | .dieOutOfService die => Sys2Proof.Machine.execDieOutOfService die s
  | .rowSparing die stack => Sys2Proof.Machine.execRowSparing die stack s
  | .powerChangeApply => Sys2Proof.Machine.execPowerChangeApply s
  | .arbiterInterval est estF => Sys2Proof.Machine.execArbiterInterval est estF s
  | .coolantLimit watts => Sys2Proof.Machine.execCoolantLimit watts s
  | .reset => Sys2Proof.Machine.execReset s
  | .pageWalkComplete j => Sys2Proof.Machine.execPageWalkComplete j s
  | .grantRecordEviction line => Sys2Proof.Machine.execGrantRecordEviction line s
  | .homeTileEviction cl id => Sys2Proof.Machine.execHomeTileEviction cl id s
  | .sendAllowanceGrant circ hop flits => Sys2Proof.Machine.execSendAllowanceGrant circ hop flits s
  | .atsTranslationCompletion func page res => Sys2Proof.Machine.execAtsTranslationCompletion func page res s
  | .jobClose job => Sys2Proof.Machine.execJobClose job s
  | .managementCoreFailure => Sys2Proof.Machine.execManagementCoreFailure s
  | .jmp off => Sys2Proof.Machine.execJmp off s
  | .brt p off => Sys2Proof.Machine.execBrt p off s
  | .brf p off => Sys2Proof.Machine.execBrf p off s
  | .call k off => Sys2Proof.Machine.execCall k off s
  | .tramp off => Sys2Proof.Machine.execTramp off s
  | .trampLink k off => Sys2Proof.Machine.execTrampLink k off s
  | .bri a => Sys2Proof.Machine.execBri a s
  | .calli a k => Sys2Proof.Machine.execCalli a k s
  | .ret => Sys2Proof.Machine.execRet s
  | .exit => Sys2Proof.Machine.execExit s
  | .fork d a b => Sys2Proof.Machine.execFork d a b s
  | .bar n => Sys2Proof.Machine.execBar n s
  | .arrive n => Sys2Proof.Machine.execArrive n s
  | .await n => Sys2Proof.Machine.execAwait n s
  | .winb a => Sys2Proof.Machine.execWinb a s
  | .steer d a p => Sys2Proof.Machine.execSteer d a p s
  | .merge d a b p => Sys2Proof.Machine.execMerge d a b p s
  | .sel d a b p => Sys2Proof.Machine.execSel d a b p s
  | .pget d n => Sys2Proof.Machine.execPget d n s
  | .pset a n => Sys2Proof.Machine.execPset a n s
  | .yield a => Sys2Proof.Machine.execYield a s
  | .launch d a b => Sys2Proof.Machine.execLaunch d a b s
  | .efork d a b => Sys2Proof.Machine.execEfork d a b s
  | .rdv n => Sys2Proof.Machine.execRdv n s
  | .sequencerRdv a n => Sys2Proof.Machine.execSequencerRdv a n s
  | .cancel d a lvl => Sys2Proof.Machine.execCancel d a lvl s
  | .shfl d a b => Sys2Proof.Machine.execShfl d a b s
  | .vote d a mode => Sys2Proof.Machine.execVote d a mode s
  | .icmp ty cond d a b => Sys2Proof.Machine.execIcmp ty cond d a b s
  | .addi w64 d a imm => Sys2Proof.Machine.execAddi w64 d a imm s
  | .andi w64 d a imm => Sys2Proof.Machine.execAndi w64 d a imm s
  | .ori w64 d a imm => Sys2Proof.Machine.execOri w64 d a imm s
  | .shli d a n => Sys2Proof.Machine.execShli d a n s
  | .shri d a n => Sys2Proof.Machine.execShri d a n s
  | .sari d a n => Sys2Proof.Machine.execSari d a n s
  | .rotli d a n => Sys2Proof.Machine.execRotli d a n s
  | .lhi d imm => Sys2Proof.Machine.execLhi d imm s
  | .pchi d imm => Sys2Proof.Machine.execPchi d imm s
  | .hadd bf d a b => Sys2Proof.Machine.execHadd bf d a b s
  | .hsub bf d a b => Sys2Proof.Machine.execHsub bf d a b s
  | .hmul bf d a b => Sys2Proof.Machine.execHmul bf d a b s
  | .hfma bf d a b c => Sys2Proof.Machine.execHfma bf d a b c s
  | .hmin bf d a b => Sys2Proof.Machine.execHmin bf d a b s
  | .hmax bf d a b => Sys2Proof.Machine.execHmax bf d a b s
  | .hneg bf d a => Sys2Proof.Machine.execHneg bf d a s
  | .habs bf d a => Sys2Proof.Machine.execHabs bf d a s
  | .hdot2 bf d a b c => Sys2Proof.Machine.execHdot2 bf d a b c s
  | .ld q sz d a off => Sys2Proof.Machine.execLd q sz d a off s
  | .ldFmt q d a e => Sys2Proof.Machine.execLdFmt q d a e s
  | .st q sz x a off => Sys2Proof.Machine.execSt q sz x a off s
  | .stFmt q x a e => Sys2Proof.Machine.execStFmt q x a e s
  | .atomLoad w64 scope order d a => Sys2Proof.Machine.execAtomLoad w64 scope order d a s
  | .atomStore w64 scope order a b => Sys2Proof.Machine.execAtomStore w64 scope order a b s
  | .atomAdd w64 scope order d a b => Sys2Proof.Machine.execAtomAdd w64 scope order d a b s
  | .atomSub w64 scope order d a b => Sys2Proof.Machine.execAtomSub w64 scope order d a b s
  | .atomAnd w64 scope order d a b => Sys2Proof.Machine.execAtomAnd w64 scope order d a b s
  | .atomOr w64 scope order d a b => Sys2Proof.Machine.execAtomOr w64 scope order d a b s
  | .atomXor w64 scope order d a b => Sys2Proof.Machine.execAtomXor w64 scope order d a b s
  | .atomMin w64 scope order d a b => Sys2Proof.Machine.execAtomMin w64 scope order d a b s
  | .atomMax w64 scope order d a b => Sys2Proof.Machine.execAtomMax w64 scope order d a b s
  | .atomMinn w64 scope order d a b => Sys2Proof.Machine.execAtomMinn w64 scope order d a b s
  | .atomMaxn w64 scope order d a b => Sys2Proof.Machine.execAtomMaxn w64 scope order d a b s
  | .atomSwap w64 scope order d a b => Sys2Proof.Machine.execAtomSwap w64 scope order d a b s
  | .atomCas w64 scope order d a b c => Sys2Proof.Machine.execAtomCas w64 scope order d a b c s
  | .atomInc w64 scope order d a b => Sys2Proof.Machine.execAtomInc w64 scope order d a b s
  | .atomDec w64 scope order d a b => Sys2Proof.Machine.execAtomDec w64 scope order d a b s
  | .atomFadd w64 scope order d a b => Sys2Proof.Machine.execAtomFadd w64 scope order d a b s
  | .atomFmin w64 scope order d a b => Sys2Proof.Machine.execAtomFmin w64 scope order d a b s
  | .atomFmax w64 scope order d a b => Sys2Proof.Machine.execAtomFmax w64 scope order d a b s
  | .atomHadd2F16 w64 scope order d a b => Sys2Proof.Machine.execAtomHadd2F16 w64 scope order d a b s
  | .atomHadd2Bf16 w64 scope order d a b => Sys2Proof.Machine.execAtomHadd2Bf16 w64 scope order d a b s
  | .redAdd w64 scope order a b => Sys2Proof.Machine.execRedAdd w64 scope order a b s
  | .redAnd w64 scope order a b => Sys2Proof.Machine.execRedAnd w64 scope order a b s
  | .redOr w64 scope order a b => Sys2Proof.Machine.execRedOr w64 scope order a b s
  | .redXor w64 scope order a b => Sys2Proof.Machine.execRedXor w64 scope order a b s
  | .redMin w64 scope order a b => Sys2Proof.Machine.execRedMin w64 scope order a b s
  | .redMax w64 scope order a b => Sys2Proof.Machine.execRedMax w64 scope order a b s
  | .redMinn w64 scope order a b => Sys2Proof.Machine.execRedMinn w64 scope order a b s
  | .redMaxn w64 scope order a b => Sys2Proof.Machine.execRedMaxn w64 scope order a b s
  | .redFadd w64 scope order a b => Sys2Proof.Machine.execRedFadd w64 scope order a b s
  | .redHadd2F16 w64 scope order a b => Sys2Proof.Machine.execRedHadd2F16 w64 scope order a b s
  | .redHadd2Bf16 w64 scope order a b => Sys2Proof.Machine.execRedHadd2Bf16 w64 scope order a b s
  | .fence scope mask kind => Sys2Proof.Machine.execFence scope mask kind s
  | .fencex scope => Sys2Proof.Machine.execFencex scope s
  | .relb scope mask n n2 => Sys2Proof.Machine.execRelb scope mask n n2 s
  | .acqb scope mask n => Sys2Proof.Machine.execAcqb scope mask n s
  | .spmap a b c => Sys2Proof.Machine.execSpmap a b c s
  | .spunmap t a => Sys2Proof.Machine.execSpunmap t a s
  | .spwb t a b => Sys2Proof.Machine.execSpwb t a b s
  | .spinv a b => Sys2Proof.Machine.execSpinv a b s
  | .spcpy t a b c => Sys2Proof.Machine.execSpcpy t a b c s
  | .spfill t a b c => Sys2Proof.Machine.execSpfill t a b c s
  | .pref a k => Sys2Proof.Machine.execPref a k s
  | .ipref a k => Sys2Proof.Machine.execIpref a k s
  | .cpy t a b c => Sys2Proof.Machine.execCpy t a b c s
  | .cpyr t a b => Sys2Proof.Machine.execCpyr t a b s
  | .cpyp t a b => Sys2Proof.Machine.execCpyp t a b s
  | .cpyg t a b => Sys2Proof.Machine.execCpyg t a b s
  | .wany d a => Sys2Proof.Machine.execWany d a s
  | .wall d a => Sys2Proof.Machine.execWall d a s
  | .ffr d a => Sys2Proof.Machine.execFfr d a s
  | .tags d => Sys2Proof.Machine.execTags d s
  | .tagclr d a => Sys2Proof.Machine.execTagclr d a s
  | .mma ctl a b => Sys2Proof.Machine.execMma ctl a b s
  | .mdelta ctl a b => Sys2Proof.Machine.execMdelta ctl a b s
  | .mscan ctl a b => Sys2Proof.Machine.execMscan ctl a b s
  | .mout ctl a => Sys2Proof.Machine.execMout ctl a s
  | .mlda ctl a => Sys2Proof.Machine.execMlda ctl a s
  | .mzero a ty => Sys2Proof.Machine.execMzero a ty s
  | .mpin d a b => Sys2Proof.Machine.execMpin d a b s
  | .munpin a => Sys2Proof.Machine.execMunpin a s
  | .mspill a b => Sys2Proof.Machine.execMspill a b s
  | .mfill a b => Sys2Proof.Machine.execMfill a b s
  | .mwait a => Sys2Proof.Machine.execMwait a s
  | .mown d a => Sys2Proof.Machine.execMown d a s
  | .rdsr d n => Sys2Proof.Machine.execRdsr d n s
  | .wrsr n a => Sys2Proof.Machine.execWrsr n a s
  | .clock d a => Sys2Proof.Machine.execClock d a s
  | .trap a => Sys2Proof.Machine.execTrap a s
  | .resumeRetry => Sys2Proof.Machine.execResumeRetry s
  | .resumeSkip a => Sys2Proof.Machine.execResumeSkip a s
  | .bkpt k => Sys2Proof.Machine.execBkpt k s
  | .emulret a => Sys2Proof.Machine.execEmulret a s
  | .nop => Sys2Proof.Machine.execNop s
  | .perfc d k => Sys2Proof.Machine.execPerfc d k s
  | .laneid d => Sys2Proof.Machine.execLaneid d s
  | .add d a b => Sys2Proof.Machine.execAdd d a b s
  | .sub d a b => Sys2Proof.Machine.execSub d a b s
  | .mul d a b => Sys2Proof.Machine.execMul d a b s
  | .mulh d a b => Sys2Proof.Machine.execMulh d a b s
  | .mulhn d a b => Sys2Proof.Machine.execMulhn d a b s
  | .min d a b => Sys2Proof.Machine.execMin d a b s
  | .max d a b => Sys2Proof.Machine.execMax d a b s
  | .minn d a b => Sys2Proof.Machine.execMinn d a b s
  | .maxn d a b => Sys2Proof.Machine.execMaxn d a b s
  | .and d a b => Sys2Proof.Machine.execAnd d a b s
  | .or d a b => Sys2Proof.Machine.execOr d a b s
  | .xor d a b => Sys2Proof.Machine.execXor d a b s
  | .andn d a b => Sys2Proof.Machine.execAndn d a b s
  | .shl d a b => Sys2Proof.Machine.execShl d a b s
  | .shr d a b => Sys2Proof.Machine.execShr d a b s
  | .sar d a b => Sys2Proof.Machine.execSar d a b s
  | .rotl d a b => Sys2Proof.Machine.execRotl d a b s
  | .clz d a => Sys2Proof.Machine.execClz d a s
  | .ctz d a => Sys2Proof.Machine.execCtz d a s
  | .popc d a => Sys2Proof.Machine.execPopc d a s
  | .brev d a => Sys2Proof.Machine.execBrev d a s
  | .abs d a => Sys2Proof.Machine.execAbs d a s
  | .neg d a => Sys2Proof.Machine.execNeg d a s
  | .not d a => Sys2Proof.Machine.execNot d a s
  | .adds d a b => Sys2Proof.Machine.execAdds d a b s
  | .subs d a b => Sys2Proof.Machine.execSubs d a b s
  | .div d a b => Sys2Proof.Machine.execDiv d a b s
  | .divn d a b => Sys2Proof.Machine.execDivn d a b s
  | .rem d a b => Sys2Proof.Machine.execRem d a b s
  | .remn d a b => Sys2Proof.Machine.execRemn d a b s
  | .mov d a => Sys2Proof.Machine.execMov d a s
  | .xtnd d a code => Sys2Proof.Machine.execXtnd d a code s
  | .mul24 d a b => Sys2Proof.Machine.execMul24 d a b s
  | .add64 d a b => Sys2Proof.Machine.execAdd64 d a b s
  | .sub64 d a b => Sys2Proof.Machine.execSub64 d a b s
  | .mul64 d a b => Sys2Proof.Machine.execMul64 d a b s
  | .mulh64 d a b => Sys2Proof.Machine.execMulh64 d a b s
  | .mulhn64 d a b => Sys2Proof.Machine.execMulhn64 d a b s
  | .min64 d a b => Sys2Proof.Machine.execMin64 d a b s
  | .max64 d a b => Sys2Proof.Machine.execMax64 d a b s
  | .minn64 d a b => Sys2Proof.Machine.execMinn64 d a b s
  | .maxn64 d a b => Sys2Proof.Machine.execMaxn64 d a b s
  | .and64 d a b => Sys2Proof.Machine.execAnd64 d a b s
  | .or64 d a b => Sys2Proof.Machine.execOr64 d a b s
  | .xor64 d a b => Sys2Proof.Machine.execXor64 d a b s
  | .andn64 d a b => Sys2Proof.Machine.execAndn64 d a b s
  | .shl64 d a b => Sys2Proof.Machine.execShl64 d a b s
  | .shr64 d a b => Sys2Proof.Machine.execShr64 d a b s
  | .sar64 d a b => Sys2Proof.Machine.execSar64 d a b s
  | .rotl64 d a b => Sys2Proof.Machine.execRotl64 d a b s
  | .clz64 d a => Sys2Proof.Machine.execClz64 d a s
  | .ctz64 d a => Sys2Proof.Machine.execCtz64 d a s
  | .popc64 d a => Sys2Proof.Machine.execPopc64 d a s
  | .brev64 d a => Sys2Proof.Machine.execBrev64 d a s
  | .abs64 d a => Sys2Proof.Machine.execAbs64 d a s
  | .neg64 d a => Sys2Proof.Machine.execNeg64 d a s
  | .not64 d a => Sys2Proof.Machine.execNot64 d a s
  | .adds64 d a b => Sys2Proof.Machine.execAdds64 d a b s
  | .subs64 d a b => Sys2Proof.Machine.execSubs64 d a b s
  | .div64 d a b => Sys2Proof.Machine.execDiv64 d a b s
  | .divn64 d a b => Sys2Proof.Machine.execDivn64 d a b s
  | .rem64 d a b => Sys2Proof.Machine.execRem64 d a b s
  | .remn64 d a b => Sys2Proof.Machine.execRemn64 d a b s
  | .mov64 d a => Sys2Proof.Machine.execMov64 d a s
  | .xtnd64 d a code => Sys2Proof.Machine.execXtnd64 d a code s
  | .mulw d a b => Sys2Proof.Machine.execMulw d a b s
  | .mulwn d a b => Sys2Proof.Machine.execMulwn d a b s
  | .bfx d a b => Sys2Proof.Machine.execBfx d a b s
  | .bfxn d a b => Sys2Proof.Machine.execBfxn d a b s
  | .bfi d a b c => Sys2Proof.Machine.execBfi d a b c s
  | .lea1 d a b => Sys2Proof.Machine.execLea1 d a b s
  | .lea2 d a b => Sys2Proof.Machine.execLea2 d a b s
  | .lea4 d a b => Sys2Proof.Machine.execLea4 d a b s
  | .lea8 d a b => Sys2Proof.Machine.execLea8 d a b s
  | .lea16 d a b => Sys2Proof.Machine.execLea16 d a b s
  | .perm d a b c => Sys2Proof.Machine.execPerm d a b c s
  | .mad d a b c => Sys2Proof.Machine.execMad d a b c s
  | .mad64 d a b c => Sys2Proof.Machine.execMad64 d a b c s
  | .pand d a b => Sys2Proof.Machine.execPand d a b s
  | .por d a b => Sys2Proof.Machine.execPor d a b s
  | .pxor d a b => Sys2Proof.Machine.execPxor d a b s
  | .pnot d a => Sys2Proof.Machine.execPnot d a s
  | .pandn d a b => Sys2Proof.Machine.execPandn d a b s
  | .p2i d a => Sys2Proof.Machine.execP2i d a s
  | .i2p d a => Sys2Proof.Machine.execI2p d a s
  | .fadd d a b => Sys2Proof.Machine.execFadd d a b s
  | .fsub d a b => Sys2Proof.Machine.execFsub d a b s
  | .fmul d a b => Sys2Proof.Machine.execFmul d a b s
  | .fma d a b c => Sys2Proof.Machine.execFma d a b c s
  | .fmin d a b => Sys2Proof.Machine.execFmin d a b s
  | .fmax d a b => Sys2Proof.Machine.execFmax d a b s
  | .fabs d a => Sys2Proof.Machine.execFabs d a s
  | .fneg d a => Sys2Proof.Machine.execFneg d a s
  | .feq d a b => Sys2Proof.Machine.execFeq d a b s
  | .fne d a b => Sys2Proof.Machine.execFne d a b s
  | .flt d a b => Sys2Proof.Machine.execFlt d a b s
  | .fle d a b => Sys2Proof.Machine.execFle d a b s
  | .funord d a b => Sys2Proof.Machine.execFunord d a b s
  | .frndn d a => Sys2Proof.Machine.execFrndn d a s
  | .frndz d a => Sys2Proof.Machine.execFrndz d a s
  | .frndu d a => Sys2Proof.Machine.execFrndu d a s
  | .frndd d a => Sys2Proof.Machine.execFrndd d a s
  | .fsat d a => Sys2Proof.Machine.execFsat d a s
  | .fcsgn d a b => Sys2Proof.Machine.execFcsgn d a b s
  | .fdiv d a b => Sys2Proof.Machine.execFdiv d a b s
  | .fsqrt d a => Sys2Proof.Machine.execFsqrt d a s
  | .fmadsat d a b => Sys2Proof.Machine.execFmadsat d a b s
  | .ftoi d a => Sys2Proof.Machine.execFtoi d a s
  | .fton d a => Sys2Proof.Machine.execFton d a s
  | .ftoi64 d a => Sys2Proof.Machine.execFtoi64 d a s
  | .fton64 d a => Sys2Proof.Machine.execFton64 d a s
  | .itof d a => Sys2Proof.Machine.execItof d a s
  | .ntof d a => Sys2Proof.Machine.execNtof d a s
  | .itof64 d a => Sys2Proof.Machine.execItof64 d a s
  | .ntof64 d a => Sys2Proof.Machine.execNtof64 d a s
  | .pkh d a b => Sys2Proof.Machine.execPkh d a b s
  | .pkb d a b => Sys2Proof.Machine.execPkb d a b s
  | .uph d a => Sys2Proof.Machine.execUph d a s
  | .upb d a => Sys2Proof.Machine.execUpb d a s
  | .pk8e4 d a => Sys2Proof.Machine.execPk8e4 d a s
  | .pk8e5 d a => Sys2Proof.Machine.execPk8e5 d a s
  | .up8e4 d a => Sys2Proof.Machine.execUp8e4 d a s
  | .up8e5 d a => Sys2Proof.Machine.execUp8e5 d a s
  | .pk4 d a b => Sys2Proof.Machine.execPk4 d a b s
  | .up4l d a => Sys2Proof.Machine.execUp4l d a s
  | .up4h d a => Sys2Proof.Machine.execUp4h d a s
  | .pki8 d a => Sys2Proof.Machine.execPki8 d a s
  | .upi8 d a => Sys2Proof.Machine.execUpi8 d a s
  | .pki4 d a => Sys2Proof.Machine.execPki4 d a s
  | .upi4 d a => Sys2Proof.Machine.execUpi4 d a s
  | .scale d a b => Sys2Proof.Machine.execScale d a b s
  | .escale d a f => Sys2Proof.Machine.execEscale d a f s
  | .cbdec d a h => Sys2Proof.Machine.execCbdec d a h s
  | .pk6e3 d a => Sys2Proof.Machine.execPk6e3 d a s
  | .up6e3 d a => Sys2Proof.Machine.execUp6e3 d a s
  | .pk6e2 d a => Sys2Proof.Machine.execPk6e2 d a s
  | .up6e2 d a => Sys2Proof.Machine.execUp6e2 d a s
  | .pkhSr d a b c => Sys2Proof.Machine.execPkhSr d a b c s
  | .pkbSr d a b c => Sys2Proof.Machine.execPkbSr d a b c s
  | .pk8e4Sr d a c => Sys2Proof.Machine.execPk8e4Sr d a c s
  | .pk8e5Sr d a c => Sys2Proof.Machine.execPk8e5Sr d a c s
  | .pk4Sr d a b c => Sys2Proof.Machine.execPk4Sr d a b c s
  | .pk6e3Sr d a c => Sys2Proof.Machine.execPk6e3Sr d a c s
  | .pk6e2Sr d a c => Sys2Proof.Machine.execPk6e2Sr d a c s
  | .cvt16z d a => Sys2Proof.Machine.execCvt16z d a s
  | .rcp d a => Sys2Proof.Machine.execRcp d a s
  | .rsq d a => Sys2Proof.Machine.execRsq d a s
  | .sqrta d a => Sys2Proof.Machine.execSqrta d a s
  | .exp2 d a => Sys2Proof.Machine.execExp2 d a s
  | .log2 d a => Sys2Proof.Machine.execLog2 d a s
  | .sinpi d a => Sys2Proof.Machine.execSinpi d a s
  | .cospi d a => Sys2Proof.Machine.execCospi d a s
  | .tanh d a => Sys2Proof.Machine.execTanh d a s
  | .sigm d a => Sys2Proof.Machine.execSigm d a s

end Sys2Proof.Machine
end

