-- ==== Sys2Proof/Machine/Run.lean ====
section
/-! DEFINITION. An instruction as the decoder finds it, executed: the meaning of the instruction that it is. The second
definition names that meaning directly for the computing instructions, and is proved to be the same function. -/
namespace Sys2Proof.Machine

/-- The meaning of a decoded instruction. -/
noncomputable def runParsed (p : Parsed) (s : State) : Host.Outcome State Fault Refusal := exec p.instr s

/-- The same, without building the instruction. -/
def execParsed (p : Parsed) (s : State) : Host.Outcome State Fault Refusal :=
  match p with
  | .whole i => exec i s
  | .op2 .add d a b => execAdd d a b s
  | .op2 .sub d a b => execSub d a b s
  | .op2 .mul d a b => execMul d a b s
  | .op2 .mulh d a b => execMulh d a b s
  | .op2 .mulhn d a b => execMulhn d a b s
  | .op2 .min d a b => execMin d a b s
  | .op2 .max d a b => execMax d a b s
  | .op2 .minn d a b => execMinn d a b s
  | .op2 .maxn d a b => execMaxn d a b s
  | .op2 .and d a b => execAnd d a b s
  | .op2 .or d a b => execOr d a b s
  | .op2 .xor d a b => execXor d a b s
  | .op2 .andn d a b => execAndn d a b s
  | .op2 .shl d a b => execShl d a b s
  | .op2 .shr d a b => execShr d a b s
  | .op2 .sar d a b => execSar d a b s
  | .op2 .rotl d a b => execRotl d a b s
  | .op2 .adds d a b => execAdds d a b s
  | .op2 .subs d a b => execSubs d a b s
  | .op2 .div d a b => execDiv d a b s
  | .op2 .divn d a b => execDivn d a b s
  | .op2 .rem d a b => execRem d a b s
  | .op2 .remn d a b => execRemn d a b s
  | .op2 .mul24 d a b => execMul24 d a b s
  | .op2 .add64 d a b => execAdd64 d a b s
  | .op2 .sub64 d a b => execSub64 d a b s
  | .op2 .mul64 d a b => execMul64 d a b s
  | .op2 .mulh64 d a b => execMulh64 d a b s
  | .op2 .mulhn64 d a b => execMulhn64 d a b s
  | .op2 .min64 d a b => execMin64 d a b s
  | .op2 .max64 d a b => execMax64 d a b s
  | .op2 .minn64 d a b => execMinn64 d a b s
  | .op2 .maxn64 d a b => execMaxn64 d a b s
  | .op2 .and64 d a b => execAnd64 d a b s
  | .op2 .or64 d a b => execOr64 d a b s
  | .op2 .xor64 d a b => execXor64 d a b s
  | .op2 .andn64 d a b => execAndn64 d a b s
  | .op2 .shl64 d a b => execShl64 d a b s
  | .op2 .shr64 d a b => execShr64 d a b s
  | .op2 .sar64 d a b => execSar64 d a b s
  | .op2 .rotl64 d a b => execRotl64 d a b s
  | .op2 .adds64 d a b => execAdds64 d a b s
  | .op2 .subs64 d a b => execSubs64 d a b s
  | .op2 .div64 d a b => execDiv64 d a b s
  | .op2 .divn64 d a b => execDivn64 d a b s
  | .op2 .rem64 d a b => execRem64 d a b s
  | .op2 .remn64 d a b => execRemn64 d a b s
  | .op2 .mulw d a b => execMulw d a b s
  | .op2 .mulwn d a b => execMulwn d a b s
  | .op2 .bfx d a b => execBfx d a b s
  | .op2 .bfxn d a b => execBfxn d a b s
  | .op2 .lea1 d a b => execLea1 d a b s
  | .op2 .lea2 d a b => execLea2 d a b s
  | .op2 .lea4 d a b => execLea4 d a b s
  | .op2 .lea8 d a b => execLea8 d a b s
  | .op2 .lea16 d a b => execLea16 d a b s
  | .op2 .pand d a b => execPand d a b s
  | .op2 .por d a b => execPor d a b s
  | .op2 .pxor d a b => execPxor d a b s
  | .op2 .pandn d a b => execPandn d a b s
  | .op2 .fadd d a b => execFadd d a b s
  | .op2 .fsub d a b => execFsub d a b s
  | .op2 .fmul d a b => execFmul d a b s
  | .op2 .fmin d a b => execFmin d a b s
  | .op2 .fmax d a b => execFmax d a b s
  | .op2 .feq d a b => execFeq d a b s
  | .op2 .fne d a b => execFne d a b s
  | .op2 .flt d a b => execFlt d a b s
  | .op2 .fle d a b => execFle d a b s
  | .op2 .funord d a b => execFunord d a b s
  | .op2 .fcsgn d a b => execFcsgn d a b s
  | .op2 .fdiv d a b => execFdiv d a b s
  | .op2 .fmadsat d a b => execFmadsat d a b s
  | .op2 .pkh d a b => execPkh d a b s
  | .op2 .pkb d a b => execPkb d a b s
  | .op2 .pk4 d a b => execPk4 d a b s
  | .op2 .scale d a b => execScale d a b s
  | .op1 .clz d a => execClz d a s
  | .op1 .ctz d a => execCtz d a s
  | .op1 .popc d a => execPopc d a s
  | .op1 .brev d a => execBrev d a s
  | .op1 .abs d a => execAbs d a s
  | .op1 .neg d a => execNeg d a s
  | .op1 .not d a => execNot d a s
  | .op1 .mov d a => execMov d a s
  | .op1 .clz64 d a => execClz64 d a s
  | .op1 .ctz64 d a => execCtz64 d a s
  | .op1 .popc64 d a => execPopc64 d a s
  | .op1 .brev64 d a => execBrev64 d a s
  | .op1 .abs64 d a => execAbs64 d a s
  | .op1 .neg64 d a => execNeg64 d a s
  | .op1 .not64 d a => execNot64 d a s
  | .op1 .mov64 d a => execMov64 d a s
  | .op1 .pnot d a => execPnot d a s
  | .op1 .p2i d a => execP2i d a s
  | .op1 .i2p d a => execI2p d a s
  | .op1 .fabs d a => execFabs d a s
  | .op1 .fneg d a => execFneg d a s
  | .op1 .frndn d a => execFrndn d a s
  | .op1 .frndz d a => execFrndz d a s
  | .op1 .frndu d a => execFrndu d a s
  | .op1 .frndd d a => execFrndd d a s
  | .op1 .fsat d a => execFsat d a s
  | .op1 .fsqrt d a => execFsqrt d a s
  | .op1 .ftoi d a => execFtoi d a s
  | .op1 .fton d a => execFton d a s
  | .op1 .ftoi64 d a => execFtoi64 d a s
  | .op1 .fton64 d a => execFton64 d a s
  | .op1 .itof d a => execItof d a s
  | .op1 .ntof d a => execNtof d a s
  | .op1 .itof64 d a => execItof64 d a s
  | .op1 .ntof64 d a => execNtof64 d a s
  | .op1 .uph d a => execUph d a s
  | .op1 .upb d a => execUpb d a s
  | .op1 .pk8e4 d a => execPk8e4 d a s
  | .op1 .pk8e5 d a => execPk8e5 d a s
  | .op1 .up8e4 d a => execUp8e4 d a s
  | .op1 .up8e5 d a => execUp8e5 d a s
  | .op1 .up4l d a => execUp4l d a s
  | .op1 .up4h d a => execUp4h d a s
  | .op1 .pki8 d a => execPki8 d a s
  | .op1 .upi8 d a => execUpi8 d a s
  | .op1 .pki4 d a => execPki4 d a s
  | .op1 .upi4 d a => execUpi4 d a s
  | .op1 .pk6e3 d a => execPk6e3 d a s
  | .op1 .up6e3 d a => execUp6e3 d a s
  | .op1 .pk6e2 d a => execPk6e2 d a s
  | .op1 .up6e2 d a => execUp6e2 d a s
  | .op1 .cvt16z d a => execCvt16z d a s
  | .op1 .rcp d a => execRcp d a s
  | .op1 .rsq d a => execRsq d a s
  | .op1 .sqrta d a => execSqrta d a s
  | .op1 .exp2 d a => execExp2 d a s
  | .op1 .log2 d a => execLog2 d a s
  | .op1 .sinpi d a => execSinpi d a s
  | .op1 .cospi d a => execCospi d a s
  | .op1 .tanh d a => execTanh d a s
  | .op1 .sigm d a => execSigm d a s
  | .op3 .bfi d a b c => execBfi d a b c s
  | .op3 .perm d a b c => execPerm d a b c s
  | .op3 .mad d a b c => execMad d a b c s
  | .op3 .mad64 d a b c => execMad64 d a b c s
  | .op3 .fma d a b c => execFma d a b c s
  | .op3 .pkhSr d a b c => execPkhSr d a b c s
  | .op3 .pkbSr d a b c => execPkbSr d a b c s
  | .op3 .pk4Sr d a b c => execPk4Sr d a b c s
  | .op2c .pk8e4Sr d a c => execPk8e4Sr d a c s
  | .op2c .pk8e5Sr d a c => execPk8e5Sr d a c s
  | .op2c .pk6e3Sr d a c => execPk6e3Sr d a c s
  | .op2c .pk6e2Sr d a c => execPk6e2Sr d a c s
  | .opK .xtnd d a k => execXtnd d a k s
  | .opK .xtnd64 d a k => execXtnd64 d a k s
  | .opK .escale d a k => execEscale d a k s
  | .opK .cbdec d a k => execCbdec d a k s

/-- They agree, so a run may use the second. -/
@[csimp] theorem runParsed_eq_execParsed : @runParsed = @execParsed := by
  funext p s
  cases p with
  | whole i => rfl
  | op2 o d a b => cases o <;> rfl
  | op1 o d a => cases o <;> rfl
  | op3 o d a b c => cases o <;> rfl
  | op2c o d a c => cases o <;> rfl
  | opK o d a k => cases o <;> rfl

end Sys2Proof.Machine
end

