-- ==== Sys2Proof/Machine/Turn.lean ====
section
/-! DEFINITION. What moves next when the agenda is empty: the device events that need nothing from outside the part, and the
moves of the agents (log entry 9); and how an agent's next instruction is found and executed. -/
namespace Sys2Proof.Machine

/-! ## Events that are due -/

/-- The positions of a list whose elements pass a test, as events. -/
def eventsAt {α : Type} (p : α → Bool) (mk : Nat → Instr) (l : List α) : List Instr :=
  (l.zipIdx.filter fun x => p x.1).map fun x => mk x.2

/-- The token at a position of the circuits arrives: a fence's, a drain's, or another (R93, R96, R173). -/
def State.tokenDue (s : State) (i : Nat) : List Instr :=
  match s.arrived i with
  | none => []
  | some p => match p.what with
    | .fence _ => [.fenceTokenArrival i]
    | .drain _ _ _ _ _ => [.drainApplied i]
    | _ => [.homeWrite i]

/-- A circuit whose allowance at a hop is half used is granted a full one there (R97). -/
def State.allowanceDue (s : State) : List Instr :=
  (s.ms.allow.filter fun a => decide (2 * a.2 ≤ fullAllowance)).map fun a => .sendAllowanceGrant (a.1 / 16) (a.1 % 16) fullAllowance

/-- The first offered addition of a holder's line goes to the holder, or its grant request to the home (R170, R171). -/
def State.offerDue (s : State) (x : Offer × Nat) : List Instr :=
  if !s.offerFirst x.2 x.1 then []
  else if asksGrant x.1.die x.1.line x.1 then [.grantRequest x.1.die x.1.line] else [.holderOffer x.2]

/-- The agents whose acquire has no drain outstanding (R87). -/
def State.acquireDue (s : State) : List Instr :=
  ((s.fab.fibres.filter fun p => p.2.stage == 3 && s.drained (agentNode p.1 127)).map fun p => .acquireComplete p.1) ++
  ((s.mat.seqs.filter fun p => p.2.stage == 3 && s.drained (agentSeq p.1)).map fun p => .acquireComplete (agentSeq p.1))

/-- The agents whose fence has every acknowledgement (R96). -/
def fenceDue (w : FenceWait) : List Instr :=
  if w.left ≠ 0 then [] else [.fenceComplete (if 10 ^ 12 ≤ w.agent then w.agent else w.agent / 128)]

/-- A drain that BVDRAIN has asked for goes on (R184). -/
def State.bvDue (s : State) : List Instr :=
  if !s.mg.bvBusy then []
  else match (upto 8).findSome? fun d => if s.mg.bvDies.getLsbD d then (s.heldLines d).head?.map fun l => (d, l) else none with
    | some (d, l) => [.forcedDrain d l]
    | none => [.forcedDrain 8 0]

/-- The memory system's own events. -/
def State.memDue (s : State) : List Instr :=
  ((upto s.ms.walks.length).filter s.hasWalker).map .pageWalkComplete ++
  s.ms.fills.map (fun x => .windowFillComplete x.g x.line) ++
  (upto s.ms.posted.length).flatMap s.tokenDue ++
  s.allowanceDue ++
  s.ms.offers.zipIdx.flatMap s.offerDue ++
  eventsAt (fun _ => true) .drainRequest s.ms.drains ++
  s.acquireDue ++
  s.ms.fences.flatMap fenceDue ++
  eventsAt (fun _ => true) .boundedRead s.ms.breads ++
  s.ms.copies.flatMap (fun c => eventsAt (fun _ => true) (.copyOperationComplete c.1) c.2) ++
  (s.oldCores sweepAge).map .l1AgeingSweep ++
  s.bvDue ++
  (s.ms.stores.flatMap fun c => (if c.2.flush then [.l1FlushComplete c.1] else []) ++
    (if c.2.pend ≠ 0 && (s.bankLeaves c.1 c.2).isSome then [.repartitionBankEmpty c.1] else [])) ++
  (match s.mg.inval with
   | some c => if c.waits.isEmpty && !s.latePending c then [.xlatInvalidationDone] else []
   | none => []) ++
  ((s.ms.ats.filter fun a => a.pri.any fun t => decide (t + 2 ^ 24 ≤ s.clock)).map fun a => .priTimeout a.func a.page)

/-- The events of one core's fabric. -/
def State.coreDue (s : State) (core : Nat) (fb : Fabric) : List Instr :=
  fb.ifills.map (fun x => .instructionLineFill core x.ctx x.line) ++
  ((fb.builds.filter fun b => b.lines.isEmpty).map fun b => .configBuildComplete core b.ctx b.hdr.toNat) ++
  (match s.chosenSet core with
   | some w => (match fb.image? w.ctx w.hdr with
     | some im => if (freePlace fb.cfgs (regionsFor (im.words.drop 4))).isSome then [.configPlacement core w.ctx w.hdr.toNat]
       else [.schedulerChoice core]
     | none => if fb.builds.any fun b => b.ctx == w.ctx && b.hdr == w.hdr then [] else [.schedulerChoice core])
   | none => if (s.candidates core).isEmpty then [] else [.schedulerChoice core]) ++
  (fb.cfgs.flatMap fun c => if c.retiring then (c.left.filter (s.nodeClear c)).map fun e => .nodeTeardown core c.id e else [])

/-- The load or the value of a slot can arrive (R215). -/
def State.loadDue (s : State) (p : Nat × Producer) : Bool :=
  match p.2.value with
  | some _ => !s.inFlight p.2.f p.1
  | none => p.2.load.isSome && !s.loadHeld p.2.f p.1

/-- The fabric's own events. -/
def State.fabDue (s : State) : List Instr :=
  s.fab.cores.flatMap (fun c => s.coreDue c.1 c.2) ++
  ((s.fab.prods.filter s.loadDue).map fun p => .loadResultArrival p.1) ++
  ((s.fab.fibres.filter fun p => !p.2.ended && !p.2.aged && !p.2.awaits && (s.inst? p.1).isNone && decide (p.2.since + 4096 < s.clock)).map
    fun p => .fibreAgeing p.1) ++
  ((s.fab.fibres.filter fun p => p.2.delay.any fun t => decide (t ≤ s.clock)).map fun p => .yieldDelayExpiry p.1)

/-- The events of one launch. -/
def State.launchDue (s : State) (p : Nat × Launch) : List Instr :=
  (if s.launchOver p.1 p.2 then [.launchCompletion p.1] else []) ++
  (if p.2.killed && s.killedOver p.1 then [.kill p.1] else []) ++
  (if s.drainPrograms p.1 p.2 then [.drain p.1] else []) ++
  (if (p.2.checkpoint && !s.settled p.1) || (p.2.slice && !p.2.checkpoint) then [.checkpoint p.1] else [])

/-- The events of one code object (R441, R445). -/
def State.objDue (s : State) (o : CodeObj) : List Instr :=
  if o.st == .loading then (if o.err ≠ 0 || s.mg.inval.isNone then [.codeLoadComplete o.handle] else [])
  else if s.mg.inval.isSome then []
  else if !o.registered && s.refs o == 0 then [.codeUnload o.handle]
  else if o.st == .evicting then [.codeEviction o.handle] else []

/-- The service that a mailbox asks for (R453). -/
def serviceOf (func code : Nat) : List Instr :=
  match code with
  | 1 => [.serviceRegister func]
  | 2 => [.serviceWithdraw func]
  | 3 => [.serviceInvalidate func]
  | 4 => [.servicePowerMode func]
  | 5 => [.serviceReadLog func]
  | 6 => [.serviceDebugSlot func]
  | 7 => [.serviceJobConfig func]
  | 8 => [.serviceLoadFirmware func]
  | _ => [.mailboxReply func]

/-- The events of one mailbox. -/
def mailDue (p : Nat × Mailbox) : List Instr :=
  if !p.2.go then [] else if p.2.pending.isSome then [.mailboxReply p.1] else serviceOf p.1 p.2.run

/-- Dispatch's, firmware's and the sequencers' events. -/
def State.dispDue (s : State) : List Instr :=
  ((s.disp.queues.filter fun q => q.2.count != 0 && q.2.en).map fun q => .launchAcceptance q.1) ++
  (if s.nextPlacement.isSome then [.gatherPlacement] else []) ++ s.preemptDue ++
  ((s.fab.gathers.filter fun g => s.gatherIdle g.1 g.2).map fun g => .gatherExit g.1) ++
  s.disp.launches.flatMap s.launchDue ++
  s.disp.objs.flatMap (fun o => s.objDue o.2) ++
  ((s.mat.seqs.filter fun q => !q.2.startq.isEmpty && !q.2.run && q.2.mats.isEmpty).map fun q => .sequencerProgramStart q.1) ++
  (s.mat.seqs.flatMap fun q => ((q.2.mats.zipIdx.filter fun m => matReady (q.2.mats.take m.2) m.1).map fun m => .matComplete q.1 m.2)) ++
  s.mg.mail.flatMap mailDue ++
  ((s.mg.bridges.filter fun b => b.2.failed).map fun b => .linkDown b.1) ++
  (if s.mg.power.apply != s.mg.power then [.powerChangeApply] else [])

/-- Every event that is due. -/
def State.due (s : State) : List Instr := s.memDue ++ s.fabDue ++ s.dispDue

/-! ## The moves of the agents -/

/-- One thing that can be next. -/
inductive Moving where
  | event (i : Instr)
  /-- A node of a fibre's instance. -/
  | node (f e : Nat)
  /-- The head of a fibre's post-commit operations. -/
  | post (f : Nat)
  /-- A sequencer's next instruction. -/
  | seq (cl : Nat)
  deriving DecidableEq, Repr

/-- A node can fire or be absorbed: its operands have arrived; a MERGE may go on with less (R216, R272). -/
def Inst.ready (i : Inst) (e : Nat) (p : Parsed) : Bool :=
  i.todo.contains e && !(i.bars.any fun b => b.1 == e) &&
  (match p with
   | .whole (.merge _ _ _ _) => true
   | p => i.reads (srcsOf p) != .wait)

/-- The moves of a fibre in an instance. A token waits at a node that is not yet under its configuration (R221). -/
def State.instMoves (s : State) (f : Nat) (x : Fibre) (i : Inst) : List Moving :=
  if x.report.isSome then [.event (.postCommitTrapDelivery f)]
  else if i.faultReady.isSome then [.event (.instanceFault f)]
  else if i.complete then [.event (.commit f)]
  else
    let ns := nodesOf i.body
    (i.todo.filter fun e => s.nodeThere f e i && (match ns.find? fun q => q.1 == e with
      | some q => i.ready e q.2
      | none => true)).map fun e => .node f e

/-- The moves of a fibre at a block boundary. -/
def State.boundaryMoves (s : State) (f : Nat) (x : Fibre) : List Moving :=
  if x.report.isSome then [.event (.postCommitTrapDelivery f)]
  else if s.mayEnter f x then [.event (.blockAdmission f)] else []

/-- The head of the operations is to be carried out, and waits for no event; not while a report has still to be delivered (R411). -/
def Fibre.postReady (x : Fibre) : Bool := !x.post.isEmpty && x.report.isNone && x.stage != 1 && x.stage != 3 && x.stage != 5

/-- The moves of a fibre. -/
def State.fibreMoves (s : State) (f : Nat) : List Moving :=
  match s.fibre? f with
  | none => []
  | some x =>
    (match s.inst? f with
     | some i => s.instMoves f x i
     | none => s.boundaryMoves f x) ++ (if x.postReady then [.post f] else [])

/-- A sequencer can go on. -/
def Seq.canRun (q : Seq) : Bool := q.run && !q.halted && q.stage != 1 && q.stage != 3 && !(q.stop && q.stage == 0)

/-- The moves of a sequencer. -/
def State.seqMoves (s : State) (cl : Nat) : List Moving :=
  match s.seq? cl with
  | some q => if q.canRun then [.seq cl] else []
  | none => []

/-- The moves of the agents that may move. -/
def State.agentMoves (s : State) : List Moving :=
  match s.focus with
  | .fibre f => s.fibreMoves f
  | .seq cl => s.seqMoves cl
  | .none => (s.fab.fibres.map (·.1)).flatMap s.fibreMoves ++ (s.mat.seqs.map (·.1)).flatMap s.seqMoves

/-- One of a list, in turn. -/
def inTurn (n : Nat) (l : List Moving) : Option Moving := if l.isEmpty then none else l[n % l.length]?

/-- What moves: agents at odd cycles and events at even ones, the others where there are none. -/
def State.nextMove (s : State) : Option Moving :=
  if s.clock % 2 = 1 then
    match inTurn (s.clock / 2) s.agentMoves with
    | some m => some m
    | none => inTurn (s.clock / 2) (s.due.map .event)
  else
    match inTurn (s.clock / 2) (s.due.map .event) with
    | some m => some m
    | none => inTurn (s.clock / 2) s.agentMoves

/-! ## Executing -/

/-- The instruction of a node. -/
def Inst.nodeAt (i : Inst) (e : Nat) : Option Parsed := ((nodesOf i.body).find? fun q => q.1 == e).map (·.2)

/-- The node that a RESUME skip or an EMULRET substitutes gives A to its destinations (R382, R383). -/
def Inst.given (i : Inst) (e : Nat) (p : Parsed) (x : Dword) : Inst := (destsOf p).foldl (fun i d => i.put d x) (i.done e)

/-- A node of a fibre's instance moves. A word that is no instruction has cause 0x01 (R209). -/
def State.runNode (s : State) (f e : Nat) : Result :=
  match s.inst? f with
  | none => .fault .noAgent
  | some i => match i.nodeAt e with
    | none => .next (s.nodeFault f e 0x01 ((s.firstWord f e).zeroExtend 64) 0 0 0)
    | some p => match i.subst with
      | some (k, x) => if k = e then .next (s.setInst f (i.given e p x)) else execParsed p { s with cur := .node f e }
      | none => execParsed p { s with cur := .node f e }

/-- The head of a fibre's post-commit operations is carried out. -/
def State.runPost (s : State) (f : Nat) : Result :=
  match s.fibre? f with
  | none => .fault .noAgent
  | some x => match x.post with
    | [] => .fault .noAgent
    | p :: _ => exec p.op { s with cur := .post f }

/-- The words ended before the instruction did. -/
def cutShort (e : DecodeError) : Bool := e == .missing || e == .noExtension || e == .noLiteral

/-- An instruction of sequencer code was executed: it counts (R379). -/
def State.countSeq (cl : Nat) (before : Seq) (p : Parsed) (s : State) : State :=
  match s.seq? cl with
  | none => s
  | some q =>
    if (if p == .whole .exit then !q.run else q.run && (q.pc != before.pc || isTransfer p)) then s.count (1000 + cl) before.ctx 0 else s

/-- What counts after a step of a sequencer. -/
def seqCounted (cl : Nat) (before : Seq) (p : Parsed) : Result → Result
  | .next s => .next (s.countSeq cl before p)
  | .fault r => .fault r
  | .refused r => .refused r

/-- A sequencer's next instruction: fetched, decoded, judged and executed (R342 to R347). -/
def State.runSeq (s : State) (cl : Nat) : Result :=
  match s.seq? cl with
  | none => .fault .noAgent
  | some q =>
    let s := s.setSeq cl { q with stall := 0 }
    if !goodTarget q.pc.toNat then .next (s.seqFault cl 0x0E q.pc)
    else
      match s.seqFetch cl q.ctx q.pc.toNat 5 with
      | (s, ws, bad) =>
        match bad, ws with
        | some a, [] => .next (s.seqFault cl 0x0C (BitVec.ofNat 64 a))
        | _, _ => match parseOk true ws with
          | .ok (p, _) =>
            if p.seqOk then seqCounted cl q p (execParsed p { s with cur := .seq cl })
            else .next (s.seqFault cl 0x01 ((ws.headD 0).zeroExtend 64))
          | .error e => match bad with
            | some a => if cutShort e then .next (s.seqFault cl 0x0C (BitVec.ofNat 64 a))
              else .next (s.seqFault cl 0x01 ((ws.headD 0).zeroExtend 64))
            | none => .next (s.seqFault cl 0x01 ((ws.headD 0).zeroExtend 64))

/-! ## One instruction placed where the next step finds it (log entry 16) -/

/-- Where the placed instruction stands: the first address above the aperture of a context that has not been set up. -/
def placedAt : Dword := 0x1000000000

/-- A gather of one fibre in slot 0 of core 0. -/
def placedGather : Gather where
  core := 0
  lid := 0
  gi := 0
  gid := 0
  ctx := 0
  size := 1
  wsize := 48
  lvBase := 0
  spBase := 0
  spSize := 0
  gs := []
  bars := []
  wins := []
  words := []
  reserved := []
  unmaps := []
  tags := []
  offered := false
  meets := []

/-- An instance whose only node still to fire is the instruction at index 0, every v value being 0. -/
def placedInst (ws : List Word) : Inst where
  hdr := placedAt
  n := ws.length
  body := ws
  cfg := 0
  fi := 0
  gi := 0
  ka := 0
  sb := 0
  wb := 0
  pw := 0
  gs := []
  live := []
  toks := (upto 64).map fun k => (k, .val 0)
  todo := [0]
  subst := none
  slotW := []
  gW := []
  pwW := none
  winb := none
  fspW := none
  thndW := none
  stores := []
  forks := []
  xfer := none
  post := []
  bars := []
  faults := []
  used := []

/-- Fibre 0 of the placed gather is in that instance, and moves next. -/
def State.placeNode (s : State) (ws : List Word) : State :=
  { s with
    fab := { s.fab with
      gathers := kvSet 0 placedGather s.fab.gathers
      fibres := kvSet 0 { newFibre placedAt 0 0 s.clock with way := .plain } s.fab.fibres
      insts := kvSet 0 (placedInst ws) s.fab.insts }
    focus := .fibre 0
    cur := .none
    agenda := [] }

/-- A sequencer that runs a program at that address, every register 0. -/
def placedSeq : Seq := { newSeq with run := true, pc := placedAt }

/-- The words stand in memory at address 0, to which the sequencer's translation cache maps the address for R, W and X;
the sequencer of cluster 0 moves next. -/
def State.placeSeq (s : State) (ws : List Word) : State :=
  let l : Leaf := ⟨0, 3, placedAt.toNat / 2 ^ 14, 0x673, [0, 0, 0, 0]⟩
  { s with
    ms := { s.ms with
      mem := memPuts s.ms.mem (cellsAt 0 (ws.flatMap bytesOfWord))
      tlb := ⟨2000, .leaf l⟩ :: s.ms.tlb }
    mat := { s.mat with seqs := kvSet 0 placedSeq s.mat.seqs }
    focus := .seq 0
    cur := .none
    agenda := [] }

/-- The words of one instruction placed for the agent that may execute it; the next cycle is an agent's. -/
def State.placeWords (s : State) (ws : List Word) : State :=
  let s := { s with clock := s.clock + s.clock % 2 }
  if seqWord (ws.headD 0) then s.placeSeq ws else s.placeNode ws

/-- A move is made. A fibre's commit is the cycle in which its core commits: every instance that is ready goes with it, in the
order of R150 (log entry 59). -/
def State.make (s : State) : Moving → Result
  | .event (.commit f) => .next (({ s with cur := .none } : State).commitAll (coreOf f))
  | .event i => exec i { s with cur := .none }
  | .node f e => s.runNode f e
  | .post f => s.runPost f
  | .seq cl => s.runSeq cl

/-- What is kept of a move that is not made: its requests for the host's translations (R70; log entry 61). -/
def State.unmade (s t : State) : State := { s with ms := { s.ms with ats := t.ms.ats } }

/-- What comes of a move beside its own effect: caches that hold too much let go. -/
def settledMove : Result → Result
  | .next t => .next (t.trim.trimAts)
  | r => r

/-- The state after a move, or, where what it needs has to wait, after a cycle without it (log entry 61). -/
def State.after (s : State) (r : Result) : Result :=
  match settledMove r with
  | .next t => .next (if t.ms.hold then s.unmade t else t)
  | r => r

/-- A posted write of a host function or of the peers, by its source; peers are numbered 64 (R161; log entry 82). -/
def postedBy : Instr → Option Nat
  | .hostWindowAccess func _ _ (some _) => some func
  | .ingressPortWrite func _ _ => some func
  | .registerWrite (.mbreq func _) _ => some func
  | .registerWrite (.mbctl func) _ => some func
  | .peerRequest .write _ _ _ => some 64
  | .peerRequest (.atomic _ _ _) _ _ _ => some 64
  | _ => none

/-- The source of an access from outside the part. -/
def sourceOf : Instr → Option Nat
  | .hostWindowAccess func _ _ none => some func
  | .peerRequest .read _ _ _ => some 64
  | i => postedBy i

/-- An access from outside does not pass an earlier write of its source (R161). -/
def behindWrite (before : List Instr) (i : Instr) : Bool := (sourceOf i).any fun k => before.any fun b => postedBy b == some k

/-- The events of the agenda in turn: the first that does not have to wait happens, and leaves the agenda. -/
def State.runAgenda (s : State) (before : List Instr) : List Instr → State × Option Result
  | [] => (s, none)
  | i :: r =>
    if behindWrite before i then s.runAgenda (before ++ [i]) r
    else match settledMove (exec i { s with agenda := before ++ r, cur := .none }) with
    | .next t => if t.ms.hold then (s.unmade t).runAgenda (before ++ [i]) r else (s, some (.next t))
    | x => (s, some x)

/-- One cycle passes: the counts of R379 that go by cycles, and the sweeps that R82 lets wait no longer. -/
def State.tick (s : State) : State :=
  let s := { s with clock := s.clock + 1 }
  let s := (s.fab.cores.map (·.1)).foldl State.countWaiting s
  let s := s.mat.seqs.foldl (fun s q => if q.2.run && q.2.stall != 0 then s.count (1000 + q.1) q.2.ctx q.2.stall else s) s
  ((s.oldCores (2 ^ 16)).foldl State.sweep s).dropHalted

/-- The barriers, by gather, number and phase, whose counted arrivals are complete as a cycle begins: those of fibres that were held for
the phase (R227). -/
def State.ripeBars (s : State) : List (Nat × Nat × Bool) := s.fab.gathers.flatMap fun g =>
  (g.2.bars.filter fun b => b.2.na != 0 && decide ((s.liveFibres g.1).length ≤ b.2.na)).map fun b => (g.1, b.1, b.2.phase)

/-- A cycle's end: a barrier that its beginning found complete, and its move has not, is checked after what the move has changed
(R268). -/
def State.atEnd (s : State) : Result → Result
  | .next t => .next (s.ripeBars.foldl (fun t b =>
      if (t.gather? b.1).any fun ga => (ga.bar b.2.1).phase == b.2.2 then t.checkBar b.1 b.2.1 else t) t)
  | r => r

/-- What a cycle does: the first event of the agenda that is not held back, or what moves next; nothing, where nothing can. -/
def State.cycle (s : State) : Result :=
  match s.runAgenda [] s.agenda with
  | (_, some r) => r
  | (s, none) => match s.nextMove with
    | some m => s.after (s.make m)
    | none => .next s

/-- One cycle. -/
def State.turn (s : State) : Result := s.tick.atEnd s.tick.cycle

end Sys2Proof.Machine
end

