-- ==== Sys2Proof/Machine/Step.lean ====
section
/-! DEFINITION. One step of the part, and the placing of one instruction where the next step finds it. -/
namespace Sys2Proof.Machine

/-- One step. -/
def step (s : State) : Host.Outcome State Fault Refusal := s.turn

/-- The state with the instruction whose bits are w, as the opcode table numbers them, placed where step finds its next
instruction: in a block instance of a fibre, or, for a word of sequencer code, at a sequencer's PC. -/
def State.withFetchWord (s : State) (nbits w : Nat) : State := s.placeWords (tableWords nbits w)

end Sys2Proof.Machine
end

