-- ==== Sys2Proof/Safety.lean ====
section
/-! DEFINITION. What a claim may ask of a state and of a step: memory in its canonical form, and a step that goes on. -/
namespace Sys2Proof.Safety
open Sys2Proof.Machine

/-- Physical memory is in its canonical form: addresses strictly rising, no zero byte listed. -/
def MemoryCanonical (s : State) : Prop := Memory.wf s.ms.mem = true

/-- The next step answers a next state. -/
def GoesOn (s : State) : Prop := ∃ t, step s = .next t

/-- So many steps, all of which answer a next state. -/
def GoesOnFor : Nat → State → Prop
  | 0, _ => True
  | n + 1, s => ∃ t, step s = .next t ∧ GoesOnFor n t

end Sys2Proof.Safety
end

