-- ==== Sys2Proof/Certificates/Slice0/Obligations.lean ====
section
/-! DEFINITION. The statements for the provers, and the few words in which they are made: what it is for an instruction to
compute a value, to fault, to complete, and what an instruction leaves as it was. -/
namespace Sys2Proof.Claims
open Sys2Proof Sys2Proof.Machine

/-! ## The words of the statements -/

/-- The instruction reads its sources and writes one value to D (R284). In a fibre's block it waits until each source has
arrived, it is absorbed when one of them was (R217), and otherwise it fires with the value y of the sources. In sequencer
code it writes y of its registers and goes past its own words (R342, R284). Nothing else in the state changes. -/
def Computes (i : Instr) (srcs : List Operand) (d : Dest) (y : List Dword → Dword) : Prop :=
  ∀ s : State,
    (∀ f e n, s.cur = .node f e → s.inst? f = some n →
      (∀ xs, n.reads srcs = .vals xs → exec i s = .next (s.setInst f (n.fire e d (y xs)))) ∧
      (n.reads srcs = .gone → exec i s = .next (s.setInst f (n.absorb e d))) ∧
      (n.reads srcs = .wait → exec i s = .next s)) ∧
    (∀ c q, s.cur = .seq c → s.seq? c = some q →
      exec i s = .next (s.setSeq c ((q.put d (y (srcs.map q.read))).past (encode i).length)))

/-- One source. -/
def Yields1 (mk : Dest → Operand → Instr) (y : Dword → Dword) : Prop :=
  ∀ d a, Computes (mk d a) [a] d fun xs => y (xs.getD 0 0)
/-- Two sources. -/
def Yields2 (mk : Dest → Operand → Operand → Instr) (y : Dword → Dword → Dword) : Prop :=
  ∀ d a b, Computes (mk d a b) [a, b] d fun xs => y (xs.getD 0 0) (xs.getD 1 0)
/-- Three sources. -/
def Yields3 (mk : Dest → Operand → Operand → Operand → Instr) (y : Dword → Dword → Dword → Dword) : Prop :=
  ∀ d a b c, Computes (mk d a b c) [a, b, c] d fun xs => y (xs.getD 0 0) (xs.getD 1 0) (xs.getD 2 0)

/-- The low word of a token. -/
def low (x : Dword) : Word := x.extractLsb' 0 32
/-- A 32-bit result extended by sign. -/
def signed (y : Word) : Dword := y.signExtend 64
/-- A 32-bit result extended by zero. -/
def unsigned (y : Word) : Dword := y.zeroExtend 64
/-- Saturation of an exact result at w bits (R289). -/
def saturated (w : Nat) (x : Int) : BitVec w :=
  BitVec.ofInt w (max (-2 ^ (w - 1)) (min (2 ^ (w - 1) - 1) x))


/-- A row of R287 with two sources: IALU on the low words with its extension, IALU64 on the dwords. -/
def IaluRow2 (m32 : Dest → Operand → Operand → Instr) (byZero : Bool) (m64 : Dest → Operand → Operand → Instr)
    (y : (w : Nat) → BitVec w → BitVec w → BitVec w) : Prop :=
  Yields2 m32 (fun a b => (if byZero then unsigned else signed) (y 32 (low a) (low b))) ∧ Yields2 m64 (y 64)

/-- A row of R287 with one source. -/
def IaluRow1 (m32 : Dest → Operand → Instr) (byZero : Bool) (m64 : Dest → Operand → Instr)
    (y : (w : Nat) → BitVec w → BitVec w) : Prop :=
  Yields1 m32 (fun a => (if byZero then unsigned else signed) (y 32 (low a))) ∧ Yields1 m64 (y 64)

end Sys2Proof.Claims

open Sys2Proof Sys2Proof.Machine Sys2Proof.Claims

/-! ## Integer arithmetic (spec/12) -/

/-- R287, the rows of addition, multiplication, selection and logic: IALU extends its 32-bit result as column Ext says, IALU64
takes and gives 64 bits. -/
def Obligations.IaluArithmeticResults : Prop :=
  IaluRow2 .add false .add64 (fun _ a b => a + b) ∧
  IaluRow2 .sub false .sub64 (fun _ a b => a - b) ∧
  IaluRow2 .mul false .mul64 (fun _ a b => a * b) ∧
  IaluRow2 .mulh false .mulh64 (fun w a b => (a.signExtend (2 * w) * b.signExtend (2 * w)).extractLsb' w w) ∧
  IaluRow2 .mulhn true .mulhn64 (fun w a b => (a.zeroExtend (2 * w) * b.zeroExtend (2 * w)).extractLsb' w w) ∧
  IaluRow2 .min false .min64 (fun _ a b => if a.toInt < b.toInt then a else b) ∧
  IaluRow2 .max false .max64 (fun _ a b => if b.toInt < a.toInt then a else b) ∧
  IaluRow2 .minn true .minn64 (fun _ a b => if a.toNat < b.toNat then a else b) ∧
  IaluRow2 .maxn true .maxn64 (fun _ a b => if b.toNat < a.toNat then a else b) ∧
  IaluRow2 .and false .and64 (fun _ a b => a &&& b) ∧
  IaluRow2 .or false .or64 (fun _ a b => a ||| b) ∧
  IaluRow2 .xor false .xor64 (fun _ a b => a ^^^ b) ∧
  IaluRow2 .andn false .andn64 (fun _ a b => a &&& ~~~b) ∧
  IaluRow1 .abs false .abs64 (fun _ a => if a.toInt < 0 then -a else a) ∧
  IaluRow1 .neg false .neg64 (fun _ a => 0 - a) ∧
  IaluRow1 .not false .not64 (fun w a => a ^^^ BitVec.allOnes w) ∧
  IaluRow1 .mov false .mov64 (fun _ a => a) ∧
  Yields2 .mulw (fun a b => (low a).signExtend 64 * (low b).signExtend 64) ∧
  Yields2 .mulwn (fun a b => (low a).zeroExtend 64 * (low b).zeroExtend 64)

/-- R287, the rows of shifts, rotation and bit counts: amounts are taken modulo the width, CLZ and CTZ of 0 are the width, BREV
moves bit i to bit w − 1 − i. -/
def Obligations.IaluShiftAndCountResults : Prop :=
  IaluRow2 .shl false .shl64 (fun w a b => a <<< (b.toNat % w)) ∧
  IaluRow2 .shr true .shr64 (fun w a b => a >>> (b.toNat % w)) ∧
  IaluRow2 .sar false .sar64 (fun w a b => a.sshiftRight (b.toNat % w)) ∧
  IaluRow2 .rotl false .rotl64 (fun w a b => (a <<< (b.toNat % w)) ||| (a >>> (w - b.toNat % w))) ∧
  IaluRow1 .clz true .clz64 (fun _ a => a.clz) ∧
  IaluRow1 .ctz true .ctz64 (fun _ a => a.ctz) ∧
  IaluRow1 .popc true .popc64 (fun _ a => a.cpop) ∧
  IaluRow1 .brev false .brev64 (fun _ a => a.reverse)

/-- R287 and R289: saturating addition and subtraction, division and remainder with their edge cases; none traps. -/
def Obligations.IaluSaturationAndDivision : Prop :=
  IaluRow2 .adds false .adds64 (fun w a b => saturated w (a.toInt + b.toInt)) ∧
  IaluRow2 .subs false .subs64 (fun w a b => saturated w (a.toInt - b.toInt)) ∧
  IaluRow2 .div false .div64 (fun w a b => if b = 0 then BitVec.allOnes w else a.sdiv b) ∧
  IaluRow2 .divn true .divn64 (fun w a b => if b = 0 then BitVec.allOnes w else a / b) ∧
  IaluRow2 .rem false .rem64 (fun w a b => if b = 0 then BitVec.allOnes w else a - b * a.sdiv b) ∧
  IaluRow2 .remn true .remn64 (fun w a b => if b = 0 then BitVec.allOnes w else a - b * (a / b))

/-- R288: XTND's code chooses which low bits of A are extended and how, in both majors; a word with any other B is no
instruction, and a block that holds it cannot be configured (R247). -/
def Obligations.XtndExtendsByCode : Prop :=
  (∀ (w : Word) r, (w.extractLsb' 27 5 = 8 ∨ w.extractLsb' 27 5 = 9) → w.extractLsb' 0 6 = 0x1F → 6 ≤ (w.extractLsb' 6 7).toNat →
    (∀ sq, ∃ e, decode sq (w :: r) = .error e) ∧ ∀ hdr, blockOffence hdr (w :: r) = some 0x7F ∨ blockOffence hdr (w :: r) = some 0) ∧
  ∀ mk, (mk = Instr.xtnd ∨ mk = Instr.xtnd64) →
    Yields1 (fun d a => mk d a 0) (fun a => (a.extractLsb' 0 8).signExtend 64) ∧
    Yields1 (fun d a => mk d a 1) (fun a => (a.extractLsb' 0 8).zeroExtend 64) ∧
    Yields1 (fun d a => mk d a 2) (fun a => (a.extractLsb' 0 16).signExtend 64) ∧
    Yields1 (fun d a => mk d a 3) (fun a => (a.extractLsb' 0 16).zeroExtend 64) ∧
    Yields1 (fun d a => mk d a 4) (fun a => (a.extractLsb' 0 32).signExtend 64) ∧
    Yields1 (fun d a => mk d a 5) (fun a => (a.extractLsb' 0 32).zeroExtend 64)

/-- R291: ICMP's types 0 to 3 and conditions 0 to 5; D is 1 when the condition holds and 0 otherwise, in all 64 bits. -/
def Obligations.IcmpComparesByTypeAndCondition : Prop :=
  ∀ (ty : BitVec 2) (cond : BitVec 4), cond.toNat < 6 →
    Yields2 (Instr.icmp ty cond) fun a b =>
      let x : Int := [(low a).toInt, (low a).toNat, a.toInt, a.toNat].getD ty.toNat 0
      let y : Int := [(low b).toInt, (low b).toNat, b.toInt, b.toNat].getD ty.toNat 0
      if [x == y, x != y, decide (x < y), decide (x ≤ y), decide (y < x), decide (y ≤ x)].getD cond.toNat false then 1 else 0

/-- R292 to R295: the LEA forms, MAD, PERM, the bit fields and the predicate operations. -/
def Obligations.ImiscResults : Prop :=
  Yields2 .lea1 (fun a b => a + b) ∧ Yields2 .lea2 (fun a b => a + 2 * b) ∧ Yields2 .lea4 (fun a b => a + 4 * b) ∧
  Yields2 .lea8 (fun a b => a + 8 * b) ∧ Yields2 .lea16 (fun a b => a + 16 * b) ∧
  Yields3 .mad (fun a b c => signed (low a * low b + low c)) ∧
  Yields3 .mad64 (fun a b c => a * b + c) ∧
  Yields3 .perm (fun a b c => BitVec.ofNat 64 (((List.range 8).map fun i =>
    ((b ++ a).extractLsb' (8 * (c.extractLsb' (4 * i) 4).toNat) 8).toNat * 2 ^ (8 * i)).sum)) ∧
  Yields2 .bfx (fun a c =>
    let pos := (c.extractLsb' 0 6).toNat
    let len := min (c.extractLsb' 8 7).toNat 64
    ((a.sshiftRight pos).extractLsb' 0 len).signExtend 64) ∧
  Yields2 .bfxn (fun a c =>
    let pos := (c.extractLsb' 0 6).toNat
    let len := min (c.extractLsb' 8 7).toNat 64
    ((a >>> pos).extractLsb' 0 len).zeroExtend 64) ∧
  Yields3 .bfi (fun a b c =>
    let pos := (c.extractLsb' 0 6).toNat
    let len := min (c.extractLsb' 8 7).toNat 64
    let mask : Dword := ((BitVec.allOnes len).zeroExtend 64) <<< pos
    (a &&& ~~~mask) ||| ((b <<< pos) &&& mask)) ∧
  Yields2 .pand (fun a b => if a.getLsbD 0 && b.getLsbD 0 then 1 else 0) ∧
  Yields2 .por (fun a b => if a.getLsbD 0 || b.getLsbD 0 then 1 else 0) ∧
  Yields2 .pxor (fun a b => if a.getLsbD 0 != b.getLsbD 0 then 1 else 0) ∧
  Yields1 .pnot (fun a => if a.getLsbD 0 then 0 else 1) ∧
  Yields2 .pandn (fun a b => if a.getLsbD 0 && !b.getLsbD 0 then 1 else 0) ∧
  Yields1 .p2i (fun a => if a.getLsbD 0 then 0xFFFFFFFFFFFFFFFF else 0) ∧
  Yields1 .i2p (fun a => if a = 0 then 0 else 1)

/-- R296, R297: the immediate forms in both widths, and the 64-bit shifts by an amount. -/
def Obligations.ImmediateFormResults : Prop :=
  (∀ k : BitVec 12,
    Yields1 (fun d a => .addi true d a k) (fun a => a + k.signExtend 64) ∧
    Yields1 (fun d a => .andi true d a k) (fun a => a &&& k.signExtend 64) ∧
    Yields1 (fun d a => .ori true d a k) (fun a => a ||| k.signExtend 64) ∧
    Yields1 (fun d a => .addi false d a k) (fun a => signed (low a + k.signExtend 32)) ∧
    Yields1 (fun d a => .andi false d a k) (fun a => signed (low a &&& k.signExtend 32)) ∧
    Yields1 (fun d a => .ori false d a k) (fun a => signed (low a ||| k.signExtend 32))) ∧
  (∀ n : BitVec 6,
    Yields1 (fun d a => .shli d a n) (fun a => a <<< n.toNat) ∧
    Yields1 (fun d a => .shri d a n) (fun a => a >>> n.toNat) ∧
    Yields1 (fun d a => .sari d a n) (fun a => a.sshiftRight n.toNat) ∧
    Yields1 (fun d a => .rotli d a n) (fun a => (a <<< n.toNat) ||| (a >>> (64 - n.toNat))))

/-- R298: LHI gives its immediate in bits 31..12, sign-extended; PCHI adds that to the address of its own word, in a block and
in sequencer code. Both are U format. -/
def Obligations.UpperImmediateResults : Prop :=
  (∀ sq (c : BitVec 7) (k : BitVec 20) r d, takeDest c.toNat = .ok d →
    decode sq ((0x10#5 ++ c ++ k) :: r) = .ok (.lhi d k, r) ∧ decode sq ((0x11#5 ++ c ++ k) :: r) = .ok (.pchi d k, r)) ∧
  ∀ (d : Dest) (k : BitVec 20),
    Computes (.lhi d k) [] d (fun _ => ((k ++ 0#12).signExtend 64)) ∧
    ∀ s : State,
      (∀ f e n, s.cur = .node f e → s.inst? f = some n →
        exec (.pchi d k) s = .next (s.setInst f (n.fire e d (n.hdr + 16 + 4 * BitVec.ofNat 64 e + (k ++ 0#12).signExtend 64)))) ∧
      (∀ c q, s.cur = .seq c → s.seq? c = some q →
        exec (.pchi d k) s = .next (s.setSeq c ((q.put d (q.pc + (k ++ 0#12).signExtend 64)).past 1)))

namespace Sys2Proof.Claims

/-- The real number of an exact dyadic number. -/
def real (d : Dy) : Rat := d.num * (2 : Rat) ^ d.ex
/-- The magnitude m × 2^e. -/
def magnitude (m : Nat) (e : Int) : Rat := m * (2 : Rat) ^ e

/-- a < b as R197 compares: false when one is a NaN. -/
def less : FV → FV → Bool
  | .nan, _ => false
  | _, .nan => false
  | .inf s, .inf t => s && !t
  | .inf s, .fin _ _ _ => s
  | .fin _ _ _, .inf t => !t
  | x, y => decide (real x.dy < real y.dy)
/-- a = b as R197 compares: +0 and −0 are equal. -/
def same : FV → FV → Bool
  | .nan, _ => false
  | _, .nan => false
  | .inf s, .inf t => s == t
  | .inf _, .fin _ _ _ => false
  | .fin _ _ _, .inf _ => false
  | x, y => decide (real x.dy = real y.dy)
/-- R197's order for FMIN and FMAX: −0 is less than +0. -/
def lessOrNegZero (x y : FV) : Bool := less x y || (same x y && x.negative && !y.negative)
/-- FMIN and HMIN on encodings of one format (R197). -/
def minCode (f : Fmt) (a b : Nat) : Nat :=
  if (f.decode a).isNan && (f.decode b).isNan then f.nanCode
  else if (f.decode a).isNan then b
  else if (f.decode b).isNan then a
  else if lessOrNegZero (f.decode b) (f.decode a) then b else a
/-- FMAX and HMAX on encodings of one format (R197). -/
def maxCode (f : Fmt) (a b : Nat) : Nat :=
  if (f.decode a).isNan && (f.decode b).isNan then f.nanCode
  else if (f.decode a).isNan then b
  else if (f.decode b).isNan then a
  else if lessOrNegZero (f.decode a) (f.decode b) then b else a

/-- A magnitude as a whole number, rounded in a direction (R192). -/
def wholeRounded (d : Dir) (neg : Bool) (q : Rat) : Nat :=
  let n := q.floor.toNat
  if q = n then n else match d with
    | .rz => n
    | .ru => if neg then n else n + 1
    | .rd => if neg then n + 1 else n
    | .rne => if q - n < 1 / 2 then n else if 1 / 2 < q - n then n + 1 else n + n % 2
/-- FRNDN, FRNDZ, FRNDU and FRNDD (R301). -/
def wholeFp32 (d : Dir) (x : Word) : Word := match f32 x with
  | .nan => 0x7FC00000
  | .inf _ => x
  | .fin neg m e => toF32 (.fin neg (wholeRounded d neg (magnitude m e)) 0)
/-- FTOI and its kin: truncation toward zero, saturated to lo..hi; a NaN gives 0 (R305, R193, R194). -/
def toInteger (lo hi : Int) (x : Word) : Int := match f32 x with
  | .nan => 0
  | .inf neg => if neg then lo else hi
  | .fin neg m e =>
    let n : Int := (magnitude m e).floor
    max lo (min hi (if neg then -n else n))
/-- The largest finite number of a format. -/
def top (f : Fmt) : Rat := real (f.decode f.maxCode).dy
/-- The distance of the largest finite number from the one below it. -/
def topStep (f : Fmt) : Rat := top f - real (f.decode (f.maxCode - 1)).dy
/-- The infinity of FP32, FP16 and BF16, and the largest finite number of the formats that saturate (R193). -/
def beyond (f : Fmt) : Nat := if f ∈ [fp32, fp16, bf16] then f.maxCode + 1 else f.maxCode
/-- What RNE makes of a magnitude q with a sign (R192, R193): up to the largest finite number the nearest encoding, and of two
equally near the one with an even last bit; half a step or more above the largest finite number an overflow. -/
def RoundsToNearest (f : Fmt) (neg : Bool) (q : ℝ) (x : Nat) : Prop :=
  let off (c : Nat) : ℝ := |((real (f.decode c).dy : Rat) : ℝ) - q|
  ∃ r, x = f.signCode neg + r ∧
    (q ≤ (top f : ℝ) → ∀ c ≤ f.maxCode, r ≤ f.maxCode ∧ off r ≤ off c ∧ (off r = off c → c ≠ r → r % 2 = 0)) ∧
    ((top f : ℝ) < q → q < ((top f + topStep f / 2 : Rat) : ℝ) → r = f.maxCode) ∧
    (((top f + topStep f / 2 : Rat) : ℝ) ≤ q → r = beyond f)
/-- The eight formats of R185. -/
def formats : List Fmt := [fp32, fp16, bf16, e5m2, e4m3, e3m2, e2m3, e2m1]

/-- An FP32 result in D [31:0], D [63:32] zero (R299). -/
def fp (v : FV) : Dword := unsigned (toF32 v)

/-- The formats of HALU: FP16 or BF16 (R302). -/
def half (isBf : Bool) : Fmt := if isBf then bf16 else fp16
/-- Two 16-bit elements in D [31:0]. -/
def pair (e0 e1 : Nat) : Dword := 0#32 ++ BitVec.ofNat 16 e1 ++ BitVec.ofNat 16 e0
/-- Element i of a token in 16-bit elements. -/
def el16 (x : Dword) (i : Nat) : Nat := (x.extractLsb' (16 * i) 16).toNat
/-- A packed operation of two halves, each rounded in its own format (R302). -/
def Packed2 (mk : Bool → Dest → Operand → Operand → Instr) (op : FV → FV → FV) : Prop :=
  ∀ bf, Yields2 (mk bf) fun a b =>
    let r (i : Nat) := (half bf).round .rne (op ((half bf).decode (el16 a i)) ((half bf).decode (el16 b i)))
    pair (r 0) (r 1)

end Sys2Proof.Claims

/-! ## Floating point (spec/08, spec/12) -/

/-- R196 over the reals: on finite operands the number that FADD, FSUB, FMUL and FMA round is the exact one; the invalid
operations give a NaN; a zero sum of opposite signs is +0, and of two negative zeros −0 (R192). The same of a sum of any number
of terms, as HDOT2 rounds it (R303). -/
def Obligations.FloatSumsAndProductsAreExact : Prop :=
  (∀ s m e t n g, ∃ u k h, FV.add (.fin s m e) (.fin t n g) = .fin u k h ∧
    real (FV.fin u k h).dy = real (FV.fin s m e).dy + real (FV.fin t n g).dy ∧
    (k = 0 → (u = true ↔ (s = true ∧ m = 0 ∧ t = true ∧ n = 0)))) ∧
  (∀ l : List FV, (∀ x ∈ l, ∃ s m e, x = .fin s m e) → ∃ u k h, FV.sum l = .fin u k h ∧
    real (FV.fin u k h).dy = (l.map fun x => real x.dy).sum ∧
    (k = 0 → (u = true ↔ ∀ x ∈ l, ∃ e, x = .fin true 0 e))) ∧
  (∀ l : List FV, (.nan ∈ l ∨ (.inf false ∈ l ∧ .inf true ∈ l) → FV.sum l = .nan) ∧
    ∀ s, .inf s ∈ l → .nan ∉ l → .inf (!s) ∉ l → FV.sum l = .inf s) ∧
  (∀ a b, FV.sub a b = FV.add a b.neg) ∧
  (∀ s m e t n g, FV.mul (.fin s m e) (.fin t n g) = .fin (s != t) (m * n) (e + g) ∧
    real (FV.mul (.fin s m e) (.fin t n g)).dy = real (FV.fin s m e).dy * real (FV.fin t n g).dy) ∧
  (∀ s m e t n g u k h, FV.fma (.fin s m e) (.fin t n g) (.fin u k h) = FV.add (FV.mul (.fin s m e) (.fin t n g)) (.fin u k h)) ∧
  (∀ s t, FV.add (.inf s) (.inf t) = if s = t then .inf s else .nan) ∧
  (∀ s t e, FV.mul (.inf s) (.fin t 0 e) = .nan ∧ FV.mul (.fin t 0 e) (.inf s) = .nan ∧
    ∀ c, FV.fma (.inf s) (.fin t 0 e) c = .nan ∧ FV.fma (.fin t 0 e) (.inf s) c = .nan) ∧
  (∀ s t e g, FV.div (.fin s 0 e) (.fin t 0 g) = .nan ∧ FV.div (.inf s) (.inf t) = .nan) ∧
  (∀ s t m e g, (0 < m → FV.div (.fin s m e) (.fin t 0 g) = .inf (s != t)) ∧ FV.div (.inf s) (.fin t m e) = .inf (s != t) ∧
    FV.div (.fin s m e) (.inf t) = .fin (s != t) 0 0) ∧
  (∀ m e, 0 < m → FV.sqrt (.fin true m e) = .nan) ∧ (∀ e, FV.sqrt (.fin true 0 e) = .fin true 0 0) ∧
  FV.sqrt (.inf false) = .inf false ∧ FV.sqrt (.inf true) = .nan ∧ FV.sqrt .nan = .nan ∧
  (∀ a, FV.add .nan a = .nan ∧ FV.add a .nan = .nan ∧ FV.mul .nan a = .nan ∧ FV.mul a .nan = .nan ∧
    FV.div .nan a = .nan ∧ FV.div a .nan = .nan)

/-- R192, R193 and R195 for the eight formats of R185. RNE takes a finite value to the nearest encoding of its own sign, of two
equally near the even one, and overflows from half a step above the largest finite number on. RZ, RU and RD of a magnitude above
the largest finite number give that number or, away from zero in FP32, FP16 and BF16, the infinity. SR truncates the magnitude
to an encoding c and goes to the next one when the first 32 bits cut off and the random bits carry. -/
def Obligations.RoundingIsToNearestEven : Prop :=
  ∀ f ∈ formats, ∀ (neg : Bool) (m : Nat) (e : Int),
    let q := magnitude m e
    RoundsToNearest f neg (q : ℝ) (f.round .rne (.fin neg m e)) ∧
    (top f < q →
      f.round .rz (.fin neg m e) = f.signCode neg + f.maxCode ∧
      f.round .ru (.fin neg m e) = f.signCode neg + (if neg then f.maxCode else beyond f) ∧
      f.round .rd (.fin neg m e) = f.signCode neg + (if neg then beyond f else f.maxCode)) ∧
    (∀ rb < 2 ^ 32,
      (∀ c < f.maxCode, real (f.decode c).dy ≤ q → q < real (f.decode (c + 1)).dy →
        let first : Nat := ((q - real (f.decode c).dy) / (real (f.decode (c + 1)).dy - real (f.decode c).dy) * 2 ^ 32).floor.toNat
        f.roundSR rb (.fin neg m e) = f.signCode neg + (if 2 ^ 32 ≤ first + rb then c + 1 else c)) ∧
      (top f ≤ q → q < top f + topStep f →
        let first : Nat := ((q - top f) / topStep f * 2 ^ 32).floor.toNat
        f.roundSR rb (.fin neg m e) = f.signCode neg + (if 2 ^ 32 ≤ first + rb then beyond f else f.maxCode)) ∧
      (top f + topStep f ≤ q → f.roundSR rb (.fin neg m e) = f.signCode neg + beyond f))

/-- R185, R194 and R195: every encoding of every format that is not a NaN is its own rounding, in every direction and under all
random bits; a NaN and an infinity of any source become what R194's table gives for the target. -/
def Obligations.EncodingsRoundToThemselves : Prop :=
  (∀ f ∈ formats, ∀ (d : Dir) (x : Nat), x < 2 ^ f.width →
    (f.decode x).isNan = false → f.round d (f.decode x) = x ∧ ∀ rb < 2 ^ 32, f.roundSR rb (f.decode x) = x) ∧
  (∀ r ∈ [(fp32, 0x7F800000, 0x7FC00000), (fp16, 0x7C00, 0x7E00), (bf16, 0x7F80, 0x7FC0), (e5m2, 0x7C, 0x7E), (e4m3, 0x7E, 0x7F),
      (e3m2, 0x1F, 0), (e2m3, 0x1F, 0), (e2m1, 0x7, 0)], ∀ (d : Dir) (rb : Nat) (neg : Bool),
    r.1.round d .nan = r.2.2 ∧ r.1.roundSR rb .nan = r.2.2 ∧
    r.1.round d (.inf neg) = r.1.signCode neg + r.2.1 ∧ r.1.roundSR rb (.inf neg) = r.1.signCode neg + r.2.1)

/-- R196, R299, R300, R302, R303: what the arithmetic of FALU and HALU writes: one rounding of the exact result, each packed
element in its own format, HDOT2 to FP32; FDIV and FSQRT of finite operands are the quotient and the root rounded to nearest. -/
def Obligations.FloatArithmeticResults : Prop :=
  (∀ s m e t n g, 0 < n →
    RoundsToNearest fp32 (s != t) ((magnitude m e / magnitude n g : Rat) : ℝ) (toF32 (FV.div (.fin s m e) (.fin t n g))).toNat) ∧
  (∀ m e, 0 < m → RoundsToNearest fp32 false (Real.sqrt (magnitude m e : ℝ)) (toF32 (FV.sqrt (.fin false m e))).toNat) ∧
  Yields2 .fadd (fun a b => fp ((f32 (low a)).add (f32 (low b)))) ∧
  Yields2 .fsub (fun a b => fp ((f32 (low a)).sub (f32 (low b)))) ∧
  Yields2 .fmul (fun a b => fp ((f32 (low a)).mul (f32 (low b)))) ∧
  Yields3 .fma (fun a b c => fp ((f32 (low a)).fma (f32 (low b)) (f32 (low c)))) ∧
  Yields2 .fdiv (fun a b => fp ((f32 (low a)).div (f32 (low b)))) ∧
  Yields1 .fsqrt (fun a => fp (f32 (low a)).sqrt) ∧
  Packed2 .hadd FV.add ∧ Packed2 .hsub FV.sub ∧ Packed2 .hmul FV.mul ∧
  (∀ bf, Yields3 (Instr.hfma bf) fun a b c =>
    let r (i : Nat) := (half bf).round .rne (((half bf).decode (el16 a i)).fma ((half bf).decode (el16 b i)) ((half bf).decode (el16 c i)))
    pair (r 0) (r 1)) ∧
  (∀ bf, Yields3 (Instr.hdot2 bf) fun a b c =>
    let p (i : Nat) := ((half bf).decode (el16 a i)).mul ((half bf).decode (el16 b i))
    fp (FV.sum [p 0, p 1, f32 (low c)]))

/-- R197, R300 to R302: comparisons, selections, sign operations and rounding to whole numbers; comparisons write 0 or 1 in all 64
bits, a NaN is unordered, −0 is below +0 for the selections only. -/
def Obligations.FloatComparisonAndSignResults : Prop :=
  Yields2 .feq (fun a b => if same (f32 (low a)) (f32 (low b)) then 1 else 0) ∧
  Yields2 .fne (fun a b => if same (f32 (low a)) (f32 (low b)) then 0 else 1) ∧
  Yields2 .flt (fun a b => if less (f32 (low a)) (f32 (low b)) then 1 else 0) ∧
  Yields2 .fle (fun a b => if less (f32 (low a)) (f32 (low b)) || same (f32 (low a)) (f32 (low b)) then 1 else 0) ∧
  Yields2 .funord (fun a b => if (f32 (low a)).isNan || (f32 (low b)).isNan then 1 else 0) ∧
  Yields2 .fmin (fun a b => unsigned (BitVec.ofNat 32 (minCode fp32 (low a).toNat (low b).toNat))) ∧
  Yields2 .fmax (fun a b => unsigned (BitVec.ofNat 32 (maxCode fp32 (low a).toNat (low b).toNat))) ∧
  Yields1 .fabs (fun a => 0#33 ++ a.extractLsb' 0 31) ∧
  Yields1 .fneg (fun a => 0#32 ++ ~~~(a.extractLsb' 31 1) ++ a.extractLsb' 0 31) ∧
  Yields2 .fcsgn (fun a b => 0#32 ++ b.extractLsb' 31 1 ++ a.extractLsb' 0 31) ∧
  Yields1 .frndn (fun a => unsigned (wholeFp32 .rne (low a))) ∧
  Yields1 .frndz (fun a => unsigned (wholeFp32 .rz (low a))) ∧
  Yields1 .frndu (fun a => unsigned (wholeFp32 .ru (low a))) ∧
  Yields1 .frndd (fun a => unsigned (wholeFp32 .rd (low a))) ∧
  Yields1 .fsat (fun a =>
    if (f32 (low a)).isNan || !less (.fin false 0 0) (f32 (low a)) then 0
    else if less (.fin false 1 0) (f32 (low a)) then 0x3F800000 else unsigned (low a)) ∧
  (∀ bf, Yields2 (Instr.hmin bf) fun a b => pair (minCode (half bf) (el16 a 0) (el16 b 0)) (minCode (half bf) (el16 a 1) (el16 b 1))) ∧
  (∀ bf, Yields2 (Instr.hmax bf) fun a b => pair (maxCode (half bf) (el16 a 0) (el16 b 0)) (maxCode (half bf) (el16 a 1) (el16 b 1))) ∧
  (∀ bf, Yields1 (Instr.hneg bf) fun a => unsigned (low a ^^^ 0x80008000)) ∧
  (∀ bf, Yields1 (Instr.habs bf) fun a => unsigned (low a &&& 0x7FFF7FFF))

namespace Sys2Proof.Claims

/-- Fields of w bits from bit 0 upwards, n of them. -/
def fields (w n : Nat) (g : Nat → Nat) : Dword := BitVec.ofNat 64 (((List.range n).map fun i => g i % 2 ^ w * 2 ^ (w * i)).sum)
/-- Field i of w bits of a token. -/
def field (w : Nat) (x : Dword) (i : Nat) : Nat := (x.extractLsb' (w * i) w).toNat
/-- A pack of four BF16 elements of A into fields of a narrow format (R307). -/
def Packs4 (mk : Dest → Operand → Instr) (f : Fmt) : Prop :=
  Yields1 mk fun a => fields f.width 4 fun i => f.round .rne (bf16.decode (field 16 a i))
/-- The same with stochastic rounding by C (R309). -/
def Packs4Sr (mk : Dest → Operand → Operand → Instr) (f : Fmt) : Prop :=
  ∀ d a c, Computes (mk d a c) [a, c] d fun xs => fields f.width 4 fun i =>
    f.roundSR ((low (xs.getD 1 0)).rotateLeft (8 * i)).toNat (bf16.decode (field 16 (xs.getD 0 0) i))
/-- An unpack of four fields, from field k on, to BF16 elements (R307). -/
def Unpacks4 (mk : Dest → Operand → Instr) (f : Fmt) (k : Nat) : Prop :=
  Yields1 mk fun a => fields 16 4 fun i => bf16.round .rne (f.decode (field f.width a (k + i)))
/-- The eight BF16 elements of PK4: four of A, then four of B. -/
def eight (a b : Dword) (i : Nat) : FV := bf16.decode (if i < 4 then field 16 a i else field 16 b (i - 4))
/-- The exponent field of an FP32 encoding. -/
def exponent (x : Word) : Nat := (x.extractLsb' 23 8).toNat
/-- The FP32 encoding of a whole number. -/
def whole (k : Int) : Word := toF32 (.ofInt k)
/-- A finite FP32 value within one ulp of a real number other than 0 (R199). -/
def WithinUlp (c : Word) (y : ℝ) : Prop :=
  ∃ s m e, f32 c = .fin s m e ∧ ∀ k : Int, (2 : ℝ) ^ k ≤ |y| → |y| < (2 : ℝ) ^ (k + 1) →
    |((real (FV.fin s m e).dy : Rat) : ℝ) - y| ≤ (2 : ℝ) ^ (max k (-126) - 23)
/-- A finite FP32 value no further than t from each of two numbers. -/
def NearBoth (c : Word) (y : Near) (t : Dy → Rat) : Prop :=
  ∃ s m e, f32 c = .fin s m e ∧ ∀ b ∈ [y.lo, y.hi], |real (FV.fin s m e).dy - real b| ≤ t b
/-- Two ulp at a number (R199). -/
def twoUlp (b : Dy) : Rat := 2 * (2 : Rat) ^ (max (if b.num = 0 then -126 else Int.log 2 |real b|) (-126) - 23)

end Sys2Proof.Claims

/-- R305, R306: conversions between FP32, integers and the 16-bit formats. -/
def Obligations.ScalarConversionResults : Prop :=
  Yields1 .ftoi (fun a => (BitVec.ofInt 32 (toInteger (-2 ^ 31) (2 ^ 31 - 1) (low a))).signExtend 64) ∧
  Yields1 .fton (fun a => (BitVec.ofInt 32 (toInteger 0 (2 ^ 32 - 1) (low a))).zeroExtend 64) ∧
  Yields1 .ftoi64 (fun a => BitVec.ofInt 64 (toInteger (-2 ^ 63) (2 ^ 63 - 1) (low a))) ∧
  Yields1 .fton64 (fun a => BitVec.ofInt 64 (toInteger 0 (2 ^ 64 - 1) (low a))) ∧
  Yields1 .itof (fun a => fp (.ofInt (low a).toInt)) ∧ Yields1 .ntof (fun a => fp (.ofInt (low a).toNat)) ∧
  Yields1 .itof64 (fun a => fp (.ofInt a.toInt)) ∧ Yields1 .ntof64 (fun a => fp (.ofInt a.toNat)) ∧
  Yields2 .pkh (fun a b => pair (fp16.round .rne (f32 (low a))) (fp16.round .rne (f32 (low b)))) ∧
  Yields2 .pkb (fun a b => pair (bf16.round .rne (f32 (low a))) (bf16.round .rne (f32 (low b)))) ∧
  Yields1 .uph (fun a => toF32 (fp16.decode (el16 a 1)) ++ toF32 (fp16.decode (el16 a 0))) ∧
  Yields1 .upb (fun a => toF32 (bf16.decode (el16 a 1)) ++ toF32 (bf16.decode (el16 a 0)))

/-- R307 to R310: the narrow packs and unpacks, the stochastic packs, the integer packs, scales and codewords. -/
def Obligations.PackAndScaleResults : Prop :=
  Packs4 .pk8e4 e4m3 ∧ Packs4 .pk8e5 e5m2 ∧ Packs4 .pk6e3 e3m2 ∧ Packs4 .pk6e2 e2m3 ∧
  Unpacks4 .up8e4 e4m3 0 ∧ Unpacks4 .up8e5 e5m2 0 ∧ Unpacks4 .up6e3 e3m2 0 ∧ Unpacks4 .up6e2 e2m3 0 ∧
  Unpacks4 .up4l e2m1 0 ∧ Unpacks4 .up4h e2m1 4 ∧
  Yields2 .pk4 (fun a b => fields 4 8 fun i => e2m1.round .rne (eight a b i)) ∧
  Yields3 .pkhSr (fun a b c => pair (fp16.roundSR (low c).toNat (f32 (low a))) (fp16.roundSR ((low c).rotateLeft 16).toNat (f32 (low b)))) ∧
  Yields3 .pkbSr (fun a b c => pair (bf16.roundSR (low c).toNat (f32 (low a))) (bf16.roundSR ((low c).rotateLeft 16).toNat (f32 (low b)))) ∧
  Packs4Sr .pk8e4Sr e4m3 ∧ Packs4Sr .pk8e5Sr e5m2 ∧ Packs4Sr .pk6e3Sr e3m2 ∧ Packs4Sr .pk6e2Sr e2m3 ∧
  Yields3 .pk4Sr (fun a b c => fields 4 8 fun i => e2m1.roundSR ((low c).rotateLeft (4 * i)).toNat (eight a b i)) ∧
  Yields1 .pki8 (fun a => fields 8 4 fun i => (saturated 8 (a.extractLsb' (16 * i) 16).toInt).toNat) ∧
  Yields1 .upi8 (fun a => fields 16 4 fun i => ((a.extractLsb' (8 * i) 8).signExtend 16).toNat) ∧
  Yields1 .pki4 (fun a => fields 4 8 fun i => (saturated 4 (a.extractLsb' (8 * i) 8).toInt).toNat) ∧
  Yields1 .upi4 (fun a => fields 8 8 fun i => ((a.extractLsb' (4 * i) 4).signExtend 8).toNat) ∧
  Yields2 .scale (fun a b =>
    if (b.extractLsb' 0 8) = 0xFF then 0x7FC00000
    else fp ((f32 (low a)).mul (.fin false 1 ((b.extractLsb' 0 8).toNat - 127)))) ∧
  (∀ k : BitVec 7, k.toNat < 6 → Yields1 (fun d a => .escale d a k) fun a =>
    match f32 (low a) with
    | .nan => 0xFF
    | .inf _ => 0xFF
    | .fin _ m e => if m = 0 then 0 else
      BitVec.ofInt 64 (min (max ((Nat.log2 m : Int) + e - [8, 15, 4, 2, 2, 0].getD k.toNat 0 + 127) 0) 254)) ∧
  (∀ h : BitVec 7, h.toNat < 2 → Yields1 (fun d a => .cbdec d a h) fun a => fields 16 4 fun i =>
    bf16.round .rne (lc2Weight (a.extractLsb' 16 8).toNat (el16 a 0) (4 * h.toNat + i)))

/-- R311, R199: each special function's result stands in D [31:0] under zeros; the special values are exact, a subnormal operand
counts as a zero of its sign, and no result is subnormal. Elsewhere the result is the free value of log entry 13, with its
accuracy: RCP, RSQ and SQRTA come within one ulp of the exact result before a result below 2^-126 goes to zero; the other six
come within R199's bound of both ends of the enclosure the model computes for the exact result (that the exact one lies in it is
log entry 13's). -/
def Obligations.SpecialFunctionResults : Prop :=
  (∀ (x : Word) s m e, 0 < exponent x → f32 x = .fin s m e →
    (∃ c, sfuRcp x = flushSub c ∧ WithinUlp c (1 / ((real (FV.fin s m e).dy : Rat) : ℝ))) ∧
    (s = false → (∃ c, sfuRsq x = flushSub c ∧ WithinUlp c (1 / Real.sqrt (magnitude m e : ℝ))) ∧
      ∃ c, sfuSqrta x = flushSub c ∧ WithinUlp c (Real.sqrt (magnitude m e : ℝ))) ∧
    (let d := (FV.fin s m e).dy
     (wholeOf d = none → -150 ≤ real d → real d < 128 → ∃ c, sfuExp2 x = flushSub c ∧ NearBoth c (.within (exp2Dy d) 290) twoUlp) ∧
     (s = false → real d ≠ 1 → ∃ c y, sfuLog2 x = flushSub c ∧ (y = ⟨log2Dy m e, log2Dy m e⟩ ∨ y = .around (log2Dy m e) 190) ∧
       (if 1 / 2 ≤ real d ∧ real d ≤ 2 then NearBoth c y fun _ => 1 / 2 ^ 22 else NearBoth c y twoUlp)) ∧
     (wholeOf d = none → ∃ c, sfuSinpi x = flushSub c ∧ NearBoth c (sinPiNear d) fun _ => 1 / 2 ^ 22) ∧
     (wholeOf d = none → wholeOf (d.add ⟨1, -1⟩) = none →
       ∃ c, sfuCospi x = flushSub c ∧ NearBoth c (sinPiNear (d.add ⟨1, -1⟩)) fun _ => 1 / 2 ^ 22) ∧
     (∃ c, sfuTanh x = flushSub c ∧ NearBoth c (.around (tanhDy d) 280) fun _ => 1 / 2 ^ 21) ∧
     (∃ c, sfuSigm x = flushSub c ∧ NearBoth c (Near.around (sigmDy d) 280).notBelowZero fun _ => 1 / 2 ^ 21))) ∧
  Yields1 .rcp (fun a => unsigned (sfuRcp (low a))) ∧ Yields1 .rsq (fun a => unsigned (sfuRsq (low a))) ∧
  Yields1 .sqrta (fun a => unsigned (sfuSqrta (low a))) ∧ Yields1 .exp2 (fun a => unsigned (sfuExp2 (low a))) ∧
  Yields1 .log2 (fun a => unsigned (sfuLog2 (low a))) ∧ Yields1 .sinpi (fun a => unsigned (sfuSinpi (low a))) ∧
  Yields1 .cospi (fun a => unsigned (sfuCospi (low a))) ∧ Yields1 .tanh (fun a => unsigned (sfuTanh (low a))) ∧
  Yields1 .sigm (fun a => unsigned (sfuSigm (low a))) ∧
  (∀ f ∈ [sfuRcp, sfuRsq, sfuSqrta, sfuExp2, sfuLog2, sfuSinpi, sfuCospi, sfuTanh, sfuSigm], ∀ x : Word,
    ((f32 x).isNan = true → f x = 0x7FC00000) ∧
    (exponent x = 0 → f x = f (x &&& 0x80000000)) ∧
    (exponent (f x) = 0 → f x = 0 ∨ f x = 0x80000000)) ∧
  sfuRcp 0 = 0x7F800000 ∧ sfuRcp 0x80000000 = 0xFF800000 ∧ sfuRcp 0x7F800000 = 0 ∧ sfuRcp 0xFF800000 = 0x80000000 ∧
  sfuRsq 0 = 0x7F800000 ∧ sfuRsq 0x80000000 = 0xFF800000 ∧ sfuRsq 0x7F800000 = 0 ∧
  sfuSqrta 0 = 0 ∧ sfuSqrta 0x80000000 = 0x80000000 ∧ sfuSqrta 0x7F800000 = 0x7F800000 ∧
  sfuExp2 0xFF800000 = 0 ∧ sfuExp2 0x7F800000 = 0x7F800000 ∧
  (∀ k : Int, -126 ≤ k → k ≤ 127 → sfuExp2 (whole k) = toF32 (.fin false 1 k)) ∧
  sfuLog2 0 = 0xFF800000 ∧ sfuLog2 0x80000000 = 0xFF800000 ∧ sfuLog2 0x3F800000 = 0 ∧ sfuLog2 0x7F800000 = 0x7F800000 ∧
  (∀ x : Word, 0x80800000 ≤ x → x ≤ 0xFF800000 → sfuRsq x = 0x7FC00000 ∧ sfuSqrta x = 0x7FC00000 ∧ sfuLog2 x = 0x7FC00000) ∧
  (∀ s, sfuSinpi (f32Inf s) = 0x7FC00000 ∧ sfuCospi (f32Inf s) = 0x7FC00000) ∧
  sfuSinpi 0 = 0 ∧ sfuSinpi 0x80000000 = 0x80000000 ∧
  (∀ k : Int, k ≠ 0 → |k| ≤ 2 ^ 24 → sfuSinpi (whole k) = 0) ∧
  (∀ k : Int, |k| ≤ 2 ^ 24 → sfuCospi (whole k) = if k % 2 = 0 then 0x3F800000 else 0xBF800000) ∧
  (∀ k : Int, |k| < 2 ^ 22 → sfuCospi (toF32 (.fin (decide (k < 0)) (2 * k + 1).natAbs (-1))) = 0) ∧
  sfuTanh 0 = 0 ∧ sfuTanh 0x80000000 = 0x80000000 ∧ sfuTanh 0x7F800000 = 0x3F800000 ∧ sfuTanh 0xFF800000 = 0xBF800000 ∧
  sfuSigm 0x7F800000 = 0x3F800000 ∧ sfuSigm 0xFF800000 = 0 ∧ sfuSigm 0 = 0x3F000000 ∧ sfuSigm 0x80000000 = 0x3F000000

namespace Sys2Proof.Claims

/-- The instruction as a node of a fibre's block: once all its sources have arrived with values xs, and `ok` holds, the next
state is t. -/
def Fires (i : Instr) (srcs : List Operand) (ok : State → Nat → Nat → Inst → List Dword → Prop)
    (t : State → Nat → Nat → Inst → List Dword → State) : Prop :=
  ∀ s f e n xs, s.cur = .node f e → s.inst? f = some n → n.reads srcs = .vals xs → ok s f e n xs →
    exec i s = .next (t s f e n xs)
/-- The same without a condition. -/
def FiresAlways (i : Instr) (srcs : List Operand) (t : State → Nat → Nat → Inst → List Dword → State) : Prop :=
  Fires i srcs (fun _ _ _ _ _ => True) t
/-- The node waits while a source has not arrived, and is absorbed with its destinations once one was (R216, R217). -/
def AwaitsSources (i : Instr) (srcs : List Operand) (ds : List Dest) : Prop :=
  ∀ s f e n, s.cur = .node f e → s.inst? f = some n →
    (n.reads srcs = .wait → exec i s = .next s) ∧
    (n.reads srcs = .gone → exec i s = .next (s.setInst f (ds.foldl (fun m d => m.absorbed d) (n.done e))))
/-- The instruction as sequencer code executes it. -/
def InSeq (i : Instr) (ok : State → Nat → Seq → Prop) (t : State → Nat → Seq → State) : Prop :=
  ∀ s c q, s.cur = .seq c → s.seq? c = some q → ok s c q → exec i s = .next (t s c q)
/-- The same without a condition. -/
def InSeqAlways (i : Instr) (t : State → Nat → Seq → State) : Prop := InSeq i (fun _ _ _ => True) t
/-- R345: sequencer code may not hold the instruction: cause 0x01 with its first word as TVAL. -/
def IllegalInSeq (i : Instr) : Prop :=
  InSeqAlways i fun s c _ => s.seqFault c 0x01 ((s.seqWordAt c).zeroExtend 64)

/-- The address of word e of an instance's block. -/
def wordAt (n : Inst) (e : Nat) : Dword := n.hdr + 16 + 4 * BitVec.ofNat 64 e
/-- The target of a B-format word at a (R258). -/
def target (a : Dword) (off : BitVec 20) : Dword := a + 4 * off.signExtend 64
/-- The header after an instance's block. -/
def following (n : Inst) : Dword := n.hdr + 16 + 4 * BitVec.ofNat 64 n.n
/-- The node faults, with what it was told of a walk or a fill forgotten (R409). -/
def traps (s : State) (f e cause : Nat) (tval : Dword) (xs : List Dword) : State :=
  (s.clearFresh (agentNode f e)).nodeFault f e cause tval (xs.getD 0 0) (xs.getD 1 0) (xs.getD 2 0)
/-- The node has fired and left the instance's transfer. -/
def left (s : State) (f e : Nat) (n : Inst) (x : Transfer) : State := s.setInst f { n.done e with xfer := some x }
/-- A sequencer goes on at pc. -/
def goesTo (s : State) (c : Nat) (q : Seq) (pc : Dword) : State := s.setSeq c { q with pc := pc }
/-- A sequencer's call: the return address above its stack. -/
def calls (s : State) (c : Nat) (q : Seq) (pc ret : Dword) : State := s.setSeq c { q with stack := ret :: q.stack, pc := pc }
/-- No WINB of the instance is still to fire. -/
def noWinb (n : Inst) : Prop := n.winbPending = false
/-- WOFF after the instance's WINB and a further advance (R263). -/
def movedWindow (x : Fibre) (n : Inst) (k : Int) : Int := (x.eff.woff : Int) + (n.winb.getD 0).toInt + k
/-- R230: a window that begins at w lies within WSIZE slots. -/
def fits (wsize : Nat) (w : Int) : Prop := 0 ≤ w ∧ w ≤ (wsize : Int) - 48
/-- A call of a fibre that needs no spill: no WINB pending, the new window within the allocation, at most three entries held. -/
def mayCall (k : Nat) (s : State) (f : Nat) (n : Inst) : Prop :=
  ∃ x g, s.fibre? f = some x ∧ s.gather? (gatherOf f) = some g ∧ noWinb n ∧
    fits g.wsize (movedWindow x n k) ∧ x.eff.stack.length < 4

end Sys2Proof.Claims

/-! ## Control flow (spec/11) -/

/-- R258, R262, R344: the targets of JMP, BRT, BRF and BRI, in a block, where the header after it follows a branch not taken, and in
sequencer code. -/
def Obligations.JumpTargets : Prop :=
  (∀ off, FiresAlways (.jmp off) [] (fun s f e n _ => left s f e n (.goto (target (wordAt n e) off) .plain)) ∧
    InSeqAlways (.jmp off) (fun s c q => goesTo s c q (target q.pc off))) ∧
  (∀ p off,
    FiresAlways (.brt p off) [p] (fun s f e n xs =>
      left s f e n (.goto (if (xs.getD 0 0).getLsbD 0 then target (wordAt n e) off else following n) .plain)) ∧
    FiresAlways (.brf p off) [p] (fun s f e n xs =>
      left s f e n (.goto (if (xs.getD 0 0).getLsbD 0 then following n else target (wordAt n e) off) .plain)) ∧
    AwaitsSources (.brt p off) [p] [] ∧ AwaitsSources (.brf p off) [p] [] ∧
    InSeqAlways (.brt p off) (fun s c q => goesTo s c q (if (q.read p).getLsbD 0 then target q.pc off else q.pc + 4)) ∧
    InSeqAlways (.brf p off) (fun s c q => goesTo s c q (if (q.read p).getLsbD 0 then q.pc + 4 else target q.pc off))) ∧
  (∀ a, FiresAlways (.bri a) [a] (fun s f e n xs => left s f e n (.goto (xs.getD 0 0) .plain)) ∧ AwaitsSources (.bri a) [a] [] ∧
    InSeqAlways (.bri a) (fun s c q => goesTo s c q (q.read a)))

/-- R259, R262, R263, R230, R344: a call that needs no spill leaves its target and its advance; a window outside the allocation
is cause 0x05 with the new WOFF as TVAL; a sequencer's call pushes its return address, and the seventeenth entry is cause 0x05. -/
def Obligations.CallsAdvanceTheWindow : Prop :=
  (∀ (k : BitVec 7) off,
    Fires (.call k off) [] (fun s f _ n _ => mayCall k.toNat s f n)
      (fun s f e n _ => left s f e n (.call (target (wordAt n e) off) k.toNat)) ∧
    InSeq (.call k off) (fun _ _ q => q.stack.length < 16) (fun s c q => calls s c q (target q.pc off) (q.pc + 4)) ∧
    InSeq (.call k off) (fun _ _ q => 16 ≤ q.stack.length) (fun s c _ => s.seqFault c 0x05 16)) ∧
  (∀ a (k : BitVec 7),
    Fires (.calli a k) [a] (fun s f _ n _ => mayCall k.toNat s f n)
      (fun s f e n xs => left s f e n (.call (xs.getD 0 0) k.toNat)) ∧ AwaitsSources (.calli a k) [a] [] ∧
    InSeq (.calli a k) (fun _ _ q => q.stack.length < 16)
      (fun s c q => calls s c q (q.read a) (q.pc + 4 * BitVec.ofNat 64 (encode (.calli a k)).length))) ∧
  (∀ (k : BitVec 7) off s f e n x g, s.cur = .node f e → s.inst? f = some n → s.fibre? f = some x →
    s.gather? (gatherOf f) = some g → noWinb n → ¬ fits g.wsize (movedWindow x n k.toNat) →
    exec (.call k off) s = .next (traps s f e 0x05 (BitVec.ofInt 64 (movedWindow x n k.toNat)) []))

/-- R260: TRAMP and TRAMP.LINK act as JMP and CALL in a launch with instrumentation enabled, and trap with cause 0x03 and their
own word as TVAL in any other. -/
def Obligations.TrampolinesNeedInstrumentation : Prop :=
  ∀ (off : BitVec 20) (k : BitVec 6),
    (∀ s f e n g l, s.cur = .node f e → s.inst? f = some n → s.gather? (gatherOf f) = some g → s.launch? g.lid = some l →
      (l.instr = true → exec (.tramp off) s = .next (left s f e n (.goto (target (wordAt n e) off) .plain)) ∧
        (mayCall k.toNat s f n → exec (.trampLink k off) s = .next (left s f e n (.call (target (wordAt n e) off) k.toNat)))) ∧
      (l.instr = false → ∀ i ∈ [Instr.tramp off, .trampLink k off],
        exec i s = .next (s.nodeFault f e 0x03 ((n.body.getD e 0).zeroExtend 64) 0 0 0))) ∧
    (∀ s c q l, s.cur = .seq c → s.seq? c = some q → s.launch? q.lid = some l →
      (l.instr = true → exec (.tramp off) s = .next (goesTo s c q (target q.pc off)) ∧
        (q.stack.length < 16 → exec (.trampLink k off) s = .next (calls s c q (target q.pc off) (q.pc + 4)))) ∧
      (l.instr = false → ∀ i ∈ [Instr.tramp off, .trampLink k off],
        exec i s = .next (s.seqFault c 0x03 ((s.seqWordAt c).zeroExtend 64))))

/-- R262, R230, R231, R344, R264, R265: RET with an entry in the fibre's stack, whose window must lie within WSIZE slots, and with none anywhere, in a block and in sequencer code; EXIT;
YIELD's count, saturated at 65,535. -/
def Obligations.ReturnsExitsAndYields : Prop :=
  (∀ s f e n x g c r, s.cur = .node f e → s.inst? f = some n → s.fibre? f = some x → s.gather? (gatherOf f) = some g →
    x.eff.stack = c :: r →
    (fits g.wsize c.woff → exec .ret s = .next (left s f e n (.ret none))) ∧
    (¬ fits g.wsize c.woff → exec .ret s = .next (traps s f e 0x05 (BitVec.ofNat 64 c.woff) []))) ∧
  Fires .ret [] (fun s f _ _ _ => ∃ x, s.fibre? f = some x ∧ x.eff.stack = [] ∧ x.eff.spilled = 0)
    (fun s f e _ _ => traps s f e 0x0E 0 []) ∧
  (∀ s c q a r, s.cur = .seq c → s.seq? c = some q → q.stack = a :: r →
    exec .ret s = .next (s.setSeq c { q with stack := r, pc := a })) ∧
  InSeq .ret (fun _ _ q => q.stack = []) (fun s c _ => s.seqFault c 0x0E 0) ∧
  FiresAlways .exit [] (fun s f e n _ => left s f e n .exit) ∧
  InSeq .exit (fun _ _ q => q.mats = []) (fun s c _ => s.endProgram c false) ∧
  InSeq .exit (fun _ _ q => q.mats ≠ []) (fun s _ _ => s) ∧
  (∀ a, FiresAlways (.yield a) [a] (fun s f e n xs => left s f e n (.yield (min (xs.getD 0 0).toNat 65535))) ∧
    AwaitsSources (.yield a) [a] [] ∧ IllegalInSeq (.yield a))

/-- R263, R266, R374, R274: what WINB, FORK, WRSR and PSET leave for the commit, and the values PGET and PSET take and give. -/
def Obligations.EffectsHeldUntilCommit : Prop :=
  (∀ a, Fires (.winb a) [a]
      (fun s f _ _ xs => ∃ x g, s.fibre? f = some x ∧ x.shadow = none ∧ s.gather? (gatherOf f) = some g ∧
        fits g.wsize (x.woff + (xs.getD 0 0).toInt))
      (fun s f e n xs => s.setInst f { n.done e with winb := some (xs.getD 0 0) }) ∧
    (∀ s f e n xs x g, s.cur = .node f e → s.inst? f = some n → n.reads [a] = .vals xs → s.fibre? f = some x → x.shadow = none →
      s.gather? (gatherOf f) = some g → ¬ fits g.wsize (x.woff + (xs.getD 0 0).toInt) →
      exec (.winb a) s = .next (traps s f e 0x05 (BitVec.ofInt 64 (x.woff + (xs.getD 0 0).toInt)) xs)) ∧
    AwaitsSources (.winb a) [a] [] ∧ IllegalInSeq (.winb a)) ∧
  (∀ d a b, Fires (.fork d a b) [a, b] (fun s f _ _ _ => ∃ x, s.fibre? f = some x ∧ x.shadow = none)
      (fun s f e n xs => s.setInst f { n.done e with forks := n.forks ++ [(e, xs.getD 0 0, xs.getD 1 0)] }) ∧
    AwaitsSources (.fork d a b) [a, b] [d] ∧ IllegalInSeq (.fork d a b)) ∧
  (∀ a, FiresAlways (.wrsr 1 a) [a] (fun s f e n xs => s.setInst f { n.done e with fspW := some (xs.getD 0 0) }) ∧
    FiresAlways (.wrsr 10 a) [a] (fun s f e n xs => s.setInst f { n.done e with thndW := some (xs.getD 0 0) }) ∧
    AwaitsSources (.wrsr 1 a) [a] [] ∧ AwaitsSources (.wrsr 10 a) [a] []) ∧
  (∀ d (b : BitVec 7), b.toNat < 16 → FiresAlways (.pget d b) []
    (fun s f e n _ => s.setInst f (n.fire e d (if n.pw.getLsbD b.toNat then 1 else 0)))) ∧
  (∀ a (b : BitVec 7), b.toNat < 16 → AwaitsSources (.pset a b) [a] [.pw] ∧
    ∀ s f e n xs, s.cur = .node f e → s.inst? f = some n → n.reads [a] = .vals xs →
      ∃ w : Half, exec (.pset a b) s = .next (s.setInst f { n.done e with pwW := some w }) ∧
        ∀ j < 16, w.getLsbD j = if j = b.toNat then (xs.getD 0 0).getLsbD 0 else n.pw.getLsbD j)

/-- R271 to R273, R345: STEER forwards its value or absorbs its destination, and is illegal in sequencer code; MERGE forwards the
one branch that was not absorbed, or chooses by its predicate between two; SEL chooses. -/
def Obligations.SteerMergeAndSelect : Prop :=
  (∀ d a p, FiresAlways (.steer d a p) [a, p]
      (fun s f e n xs => s.setInst f (if (xs.getD 1 0).getLsbD 0 then n.fire e d (xs.getD 0 0) else n.absorb e d)) ∧
    AwaitsSources (.steer d a p) [a, p] [d] ∧ IllegalInSeq (.steer d a p)) ∧
  (∀ d a b p, FiresAlways (.sel d a b p) [a, b, p]
      (fun s f e n xs => s.setInst f (n.fire e d (if (xs.getD 2 0).getLsbD 0 then xs.getD 0 0 else xs.getD 1 0))) ∧
    AwaitsSources (.sel d a b p) [a, b, p] [d]) ∧
  (∀ d a b p s f e n, s.cur = .node f e → s.inst? f = some n →
    (∀ x, n.read a = .val x → n.read b = .gone → exec (.merge d a b p) s = .next (s.setInst f (n.fire e d x))) ∧
    (∀ y, n.read a = .gone → n.read b = .val y → exec (.merge d a b p) s = .next (s.setInst f (n.fire e d y))) ∧
    (n.read a = .gone → n.read b = .gone → exec (.merge d a b p) s = .next (s.setInst f (n.absorb e d))) ∧
    (∀ x y c, n.read a = .val x → n.read b = .val y → n.read p = .val c →
      exec (.merge d a b p) s = .next (s.setInst f (n.fire e d (if c.getLsbD 0 then x else y)))) ∧
    (∀ x y, n.read a = .val x → n.read b = .val y → n.read p = .gone → exec (.merge d a b p) s = .next (s.setInst f (n.fire e d y))) ∧
    (n.read a = .wait ∨ n.read b = .wait → exec (.merge d a b p) s = .next s) ∧
    (∀ x y, n.read a = .val x → n.read b = .val y → n.read p = .wait → exec (.merge d a b p) s = .next s))

namespace Sys2Proof.Claims

/-- WOFF at commit, with the instance's WINB (R263). -/
def committedWindow (x : Fibre) (n : Inst) : Nat := ((x.woff : Int) + (n.winb.getD 0).toInt).toNat
/-- PC, way of entering, WOFF, call stack, spilled pairs and FSP after a commit: a call of a full stack spills its two oldest
entries, a RET of an empty one goes by a refilled pair (R219, R231 to R233, R259). -/
def arrival (x : Fibre) (n : Inst) : Dword × Entry × Nat × List CallEntry × Nat × Dword :=
  let w := committedWindow x n
  let fsp := n.fspW.getD x.fsp
  match n.xfer, x.stack with
  | some (.goto pc way), st => (pc, way, w, st, x.spilled, fsp)
  | some (.call pc adv), st =>
    if st.length < 4 then (pc, .call, w + adv, ⟨following n, w⟩ :: st, x.spilled, fsp)
    else (pc, .call, w + adv, ⟨following n, w⟩ :: st.take 2, (x.spilled + 1) % 2 ^ 32, fsp - 32)
  | some (.ret none), c :: st => (c.ret, .ret, c.woff, st, x.spilled, fsp)
  | some (.ret (some (newest, older))), _ => (newest.ret, .ret, newest.woff, [older], x.spilled - 1, fsp + 32)
  | _, st => (following n, .plain, w, st, x.spilled, fsp)
/-- A transfer that neither ends the fibre nor returns from a handler or an emulation. -/
def staysOrdinary (n : Inst) : Prop :=
  match n.xfer with
  | some .exit => False
  | some (.resume _) => False
  | some (.emulret _) => False
  | _ => True
/-- The stores of an instance: none of them through the on-chip map, and none behind an earlier write of the fibre. -/
def storesReady (s : State) (f : Nat) (n : Inst) : Prop :=
  ∀ o ∈ n.stores, o.goal ≠ .onchip ∧ s.ownAhead f o.goal.space (o.cells.map (·.1)) = false
/-- What a slot holds after a write of it that commits (R214, R215): the value; or, empty, the producer that it waits for. -/
def slotAfter (s : State) (old : Slot) : SlotW → Slot
  | .full v => ⟨v, true, none⟩
  | .wait p => match (kvGet p s.fab.prods).bind (·.value) with
    | some v => ⟨v, true, none⟩
    | none => ⟨old.val, false, some p⟩
/-- The slot writes of an instance: one for a slot, and one for a producer. -/
def slotWritesReady (n : Inst) : Prop :=
  kvSorted n.slotW = true ∧ ∀ a ∈ n.slotW, ∀ b ∈ n.slotW, ∀ p, a.2 = .wait p → b.2 = .wait p → b = a
/-- The post-commit operations of an instance in index order: neither an SPINV, which its commit carries out, nor a copy into
slots, which empties them. -/
def postsQueue (n : Inst) : Prop :=
  n.post.Pairwise (fun a b => a.eidx ≤ b.eidx) ∧
  ∀ p ∈ n.post, (∀ a b, p.op ≠ .spinv a b) ∧ ∀ k, copyKindOf p.op = some k → (shapeOf k p.desc p.a p.b p.c).dkind ≠ 2
/-- Those operations as they stand in the queue, with the number of their instance. -/
def queued (s : State) (x : Fibre) (n : Inst) : List PostOp := x.post ++ n.post.map fun p => { p with inst := s.serial }
/-- Cycles of a YIELD (R265). -/
def yieldOf (n : Inst) : Nat := match n.xfer with
  | some (.yield d) => d
  | _ => 0
/-- An ordinary fibre: not in a handler, no emulation, nothing reported, not cancelled. -/
def ordinary (x : Fibre) : Prop := x.hm = false ∧ x.shadow = none ∧ x.report = none ∧ x.cancelled = false
/-- The register part of a fibre that a trap handler finds unchanged. -/
def keptRegisters (x y : Fibre) : Prop :=
  y.pw = x.pw ∧ y.woff = x.woff ∧ y.stack = x.stack ∧ y.spilled = x.spilled ∧ y.fsp = x.fsp ∧ y.thnd = x.thnd ∧
  y.spw = x.spw ∧ y.swoff = x.swoff ∧ y.prev = x.prev ∧ y.post = x.post
/-- The header at pc is read without a walk: no fibre of the core is parked, and the instruction cache, of eight ways, holds its
lines (R213, R469). A walk would set accessed bits in table entries (R60). -/
def headerHeld (s : State) (f : Nat) (pc : Dword) : Prop :=
  s.parkedOn (coreOf f) = [] ∧ (∀ k, ((s.fabric (coreOf f)).ilines.filter fun l => l.set == k).length ≤ 8) ∧
  ∀ l ∈ codeLines pc.toNat 4, ((s.fabric (coreOf f)).line? (s.ctxOfFibre f) l).isSome = true
/-- The source position of a SHFL by a participant at position p (R385). -/
def sourcePosition (p : Nat) (b : Dword) : Nat :=
  let k := (b.extractLsb' 0 4).toNat
  match (b.extractLsb' 4 2).toNat with
  | 0 => k
  | 1 => (p + k) % 16
  | 2 => p ^^^ k
  | _ => 15 - p
/-- A node that can fire no more: it has failed, or it waits for one that cannot; a MERGE only when all that it waits for
cannot (R209, R272). -/
inductive CannotFire (n : Inst) : Nat → Prop where
  | failed (v : NodeFault) : v ∈ n.faults → CannotFire n v.eidx
  | waits (e k : Nat) : e ∈ n.todo → (∀ d a b p, n.nodeAt e ≠ some (.whole (.merge d a b p))) → k ∈ n.awaited e → CannotFire n k →
      CannotFire n e
  | merge (e : Nat) (d : Dest) (a b p : Operand) : e ∈ n.todo → n.nodeAt e = some (.whole (.merge d a b p)) → n.awaited e ≠ [] →
      (∀ k ∈ n.awaited e, CannotFire n k) → CannotFire n e
/-- No debugger is attached to the fibre's job. -/
def noDebugger (s : State) (f : Nat) : Prop := s.attached (s.jobOf f) = none

end Sys2Proof.Claims

/-! ## Commit, admission and exceptions (spec/09, spec/17) -/

/-- R218, R207, R214, R219, R231 to R233, R265: a complete instance commits in one step: its slot and gather-register writes take
effect, FSP, THND and pw take its writes, PC, PREV, WOFF and the call stack become what its transfer says, with a spill or a
refill, its post-commit operations stand in the queue, the instance is over, and no other slot of the fibre changes; no byte of
memory changes where it stores nothing and the next header is read without a walk. R132: what it stores is performed. R266:
its FORK makes the child at the lowest free index, or none. R205, R264: at EXIT the fibre's slots are empty, its arrivals are
withdrawn, and it is gone once nothing is queued. -/
def Obligations.CommitWritesAndMoves : Prop :=
  ∀ (s : State) (f : Nat) (x : Fibre) (n : Inst) (g : Gather), s.fibre? f = some x → s.inst? f = some n →
    s.gather? (gatherOf f) = some g → ordinary x → n.todo = [] → n.faults = [] → storesReady s f n →
    (n.forks = [] → staysOrdinary n → slotWritesReady n → kvSorted n.gW = true → postsQueue n →
      ∃ t y h, exec (.commit f) s = .next t ∧ t.fibre? f = some y ∧ t.gather? (gatherOf f) = some h ∧ t.inst? f = none ∧
        (y.pc, y.way, y.woff, y.stack, y.spilled, y.fsp) = arrival x n ∧ y.prev = n.hdr ∧
        y.pw = n.pwW.getD x.pw ∧ y.thnd = n.thndW.getD x.thnd ∧
        y.delay = (if yieldOf n = 0 then none else some (s.clock + yieldOf n)) ∧ y.since = s.clock + yieldOf n ∧
        y.trap = x.trap ∧ y.emul = x.emul ∧ y.hm = false ∧ y.post = queued s x n ∧
        (∀ k w, kvGet k n.slotW = some w → t.fibreSlot f (x.woff + k) = slotAfter s (s.fibreSlot f (x.woff + k)) w) ∧
        (∀ j, (∀ p ∈ n.slotW, x.woff + p.1 ≠ j) → t.fibreSlot f j = s.fibreSlot f j) ∧
        (∀ k, kvGet k h.gs = ((kvGet k n.gW).or (kvGet k g.gs))) ∧
        (headerHeld s f (arrival x n).1 → n.stores = [] → ∀ a, t.byte a = s.byte a)) ∧
    (n.forks = [] → staysOrdinary n → n.slotW = [] → n.gW = [] → n.post = [] → headerHeld s f (arrival x n).1 →
      kvSorted s.fab.gathers = true →
      ∃ t, exec (.commit f) s = .next t ∧ t.ms = (s.performStores f n.stores).ms) ∧
    (∀ l kn e a b d, n.forks = [(e, a, b)] → staysOrdinary n → n.stores = [] → n.slotW = [] → n.gW = [] → n.post = [] →
      s.memPending f = false → s.loadsOf f = [] → s.launchOf f = some l → l.kern = some kn → g.size ≤ 1024 →
      slotOf (forkDest n.body e) = some d → d < 48 → x.woff + 48 ≤ g.wsize →
      let index (k : Nat) : Nat := gatherOf f * 1024 + k
      let full := g.size ≤ (s.liveFibres (gatherOf f)).length
      (∀ k, ¬ full → k < g.size → s.indexUsed (index k) = false → (∀ j < k, s.indexUsed (index j) = true) → s.fibre? (index k) = none →
        ∃ t z, exec (.commit f) s = .next t ∧ t.fibre? (index k) = some z ∧ z.pc = a ∧ z.way = .entry ∧ z.prev = 0 ∧ z.pw = 0 ∧
          z.woff = 0 ∧ z.stack = [] ∧ z.spilled = 0 ∧ z.fsp = fspOf l kn g.gi k ∧ z.thnd = kn.handler ∧ z.since = s.clock ∧
          z.ended = false ∧ t.fibreSlot (index k) 0 = ⟨b, true, none⟩ ∧
          t.fibreSlot (index k) 1 = ⟨BitVec.ofNat 64 (fiOf f), true, none⟩ ∧
          (∀ j < g.wsize, 2 ≤ j → (t.fibreSlot (index k) j).full = false) ∧
          t.fibreSlot f (x.woff + d) = ⟨BitVec.ofNat 64 k, true, none⟩) ∧
      (full ∨ (∀ k < g.size, s.indexUsed (index k) = true) →
        ∃ t, exec (.commit f) s = .next t ∧ t.fibreSlot f (x.woff + d) = ⟨BitVec.allOnes 64, true, none⟩ ∧
          ∀ c, (t.fibre? c).isSome = (s.fibre? c).isSome)) ∧
    (∀ l, n.forks = [] → n.xfer = some .exit → postsQueue n → x.held = [] → s.launch? g.lid = some l →
      ∃ t h m, exec (.commit f) s = .next t ∧ t.inst? f = none ∧ t.gather? (gatherOf f) = some h ∧
        t.launch? g.lid = some m ∧ m.ended = l.ended + 1 ∧
        (∀ j < g.wsize, t.slot (coreOf f) (storeIdx g f j) = noSlot) ∧
        (∀ b, fiOf f ∉ (h.bar b).arr ∧ fiOf f ∉ (h.bar b).held) ∧
        (queued s x n = [] → t.fibre? f = none) ∧
        (queued s x n ≠ [] → ∃ y, t.fibre? f = some y ∧ y.ended = true ∧ y.post = queued s x n ∧ y.stack = [] ∧ y.spilled = 0))

/-- R218, R268, R270: COMMIT does nothing while a node has still to fire, while a fault stands, or while an earlier report waits; only
the barriers of the gather are looked at. -/
def Obligations.CommitNeedsACompleteInstance : Prop :=
  ∀ (s : State) (f : Nat) (x : Fibre) (n : Inst), s.fibre? f = some x → s.inst? f = some n → (n.todo ≠ [] ∨ n.faults ≠ [] ∨ x.report ≠ none) →
    exec (.commit f) s = .next (s.checkBars (gatherOf f))

/-- R220, R407, R408, R409: a trap with a handler: the record holds cause, block, index, TVAL and the operands; pw and WOFF
go to the trap save, HM is set and PC becomes THND; the fibre's other registers stay, and memory too where the handler's header is read without a walk; the instance is gone. RESUME's
address is kept for a trap found after commit (R411). -/
def Obligations.TrapEntersTheHandler : Prop :=
  ∀ (s : State) (f : Nat) (x : Fibre) (g : Gather) (hdr : Dword) (n : NodeFault) (post : Bool), s.fibre? f = some x → s.gather? (gatherOf f) = some g → ordinary x → x.halt = false → x.thnd ≠ 0 →
    n.cause ≠ 0x02 → n.cause ≠ 0x11 →
    ∃ y, (s.takeTrap f hdr n post).fibre? f = some y ∧ (s.takeTrap f hdr n post).inst? f = none ∧
      y.trap = ⟨BitVec.ofNat 64 (n.cause.toNat + if post then 0x10000 else 0), hdr, BitVec.ofNat 64 n.eidx, n.tval, n.a, n.b, n.c⟩ ∧
      y.pc = x.thnd ∧ y.way = .trap ∧ y.hm = true ∧ y.spw = x.pw ∧ y.swoff = x.woff ∧
      keptRegisters { x with spw := x.pw, swoff := x.woff } y ∧ y.resume = (if post then x.pc else 0) ∧
      (headerHeld s f x.thnd → ∀ a, (s.takeTrap f hdr n post).byte a = s.byte a)

/-- R412, R413, R385: a cullet's trap with emulation enabled: EMUL holds the word and its busy bit, PC becomes the emulation entry, a
shadow begins as the fibre's own state, and the fibre is not in handler mode. SHFL and VOTE: the fibre joins the meeting of its
occurrence at the cullet's address as its emulation begins; its emulation does not go on while a live member of its group has still
to trap there; then each participant has its result; EMULRET ends the occurrence. That the emulation's begin joins, and that a
member's occurrences are counted by those its emulations have answered, is log entry 57. -/
def Obligations.CulletEntersTheEmulation : Prop :=
  (∀ (s : State) (f : Nat) (x : Fibre) (g : Gather) (hdr : Dword) (n : NodeFault), s.fibre? f = some x → s.gather? (gatherOf f) = some g →
    ordinary x → x.halt = false → n.cause = 0x02 → s.mg.ement.getLsbD 0 = true →
    ∃ y, (s.takeTrap f hdr n false).fibre? f = some y ∧ y.pc = (s.mg.ement &&& ~~~3#64) ∧ y.way = .emul ∧ y.hm = false ∧
      y.emul = (n.tval <<< 32 ||| 1) ∧ y.trap.epc = hdr ∧ y.trap.cause = 0x02 ∧ y.trap.tval = n.tval ∧
      keptRegisters x y ∧ y.shadow = some ⟨s.serial, [], [], [], x.pw, x.woff, x.stack, x.spilled, x.fsp, x.thnd, []⟩) ∧
  (∀ (s : State) (f : Nat) (x : Fibre) (g : Gather), s.fibre? f = some x → s.gather? (gatherOf f) = some g → x.emul.getLsbD 0 = true →
    let w := x.emul.toNat / 2 ^ 32
    isExchange w = true →
    let p := fiOf f % 16
    let live := s.groupLive (gatherOf f) (fiOf f / 16)
    let n := kvGetD x.trap.at_ 0 x.culls
    let u := s.enterMeet f
    ((∀ m ∈ g.meets, m.addr ≠ x.trap.at_) →
      ((∃ h ∈ live, fiOf h % 16 ≠ p) → u.meetOpen f = true ∧ u.exchangeResult f = none) ∧
      (f ∈ live → (∀ h ∈ live, h = f) → w % 64 = 0x3E → u.exchangeResult f = some x.trap.topa)) ∧
    (∀ m, g.meets = [m] → m.addr = x.trap.at_ → m.group = fiOf f / 16 → m.n = n → f ∈ live →
      (∀ h ∈ live, fiOf h % 16 = p ∨ (kvGet (fiOf h % 16) m.vals).isSome) →
      u.exchangeResult f = some ({ m with vals := kvSet p (x.trap.topa, x.trap.topb) m.vals }.result w p)) ∧
    (∀ a, ∃ y, (s.commitEmulret f a).fibre? f = some y ∧ kvGetD x.trap.at_ 0 y.culls = n + 1 ∧ y.shadow = none)) ∧
  (∀ (s : State) f x, s.meetOpen f = true → s.mayEnter f x = false) ∧
  (∀ (m : Meet) w p (a b : Dword), kvGet p m.vals = some (a, b) →
    let yes := m.vals.filter fun v => v.2.1.getLsbD 0
    (w % 64 = 0x3E → m.result w p = ((kvGet (sourcePosition p b) m.vals).map (·.1)).getD a) ∧
    (w % 64 = 0x3F → (w / 64 % 128 = 0 → m.result w p = if yes.length = m.vals.length then 1 else 0) ∧
      (w / 64 % 128 = 1 → m.result w p = if yes = [] then 0 else 1) ∧
      (w / 64 % 128 = 2 → m.result w p = BitVec.ofNat 64 yes.length) ∧
      (w / 64 % 128 = 3 → m.result w p = BitVec.ofNat 64 ((yes.map fun v => 2 ^ (v.1 % 16)).sum))))

/-- R410, R403: a trap without handler, or inside one, ends the launch: status 4, INFO the block, the cause and TVAL; an earlier
event keeps its status. -/
def Obligations.TrapWithoutHandlerEndsTheLaunch : Prop :=
  ∀ (s : State) (f : Nat) (x : Fibre) (g : Gather) (l : Launch) (hdr : Dword) (n : NodeFault) (post : Bool), s.fibre? f = some x → s.gather? (gatherOf f) = some g → s.launch? g.lid = some l →
    x.shadow = none → x.cancelled = false → x.halt = false → (x.thnd = 0 ∨ x.hm = true) → n.cause ≠ 0x02 → n.cause ≠ 0x11 →
    noDebugger s f → l.st = .running → l.checkpoint = false →
    ∃ m, (s.takeTrap f hdr n post).launch? g.lid = some m ∧ m.cancelled = true ∧
      (l.status = 0 → m.status = 4 ∧ m.info = hdr ∧ m.cause = n.cause ∧ m.tval = n.tval) ∧
      (l.status ≠ 0 → m.status = l.status ∧ m.info = l.info)

/-- R409, R59, R209: INSTANCE_FAULT and a node's own fault report the lowest-indexed fault, with the instance's header, once no node
before it can still fire: a node that waits for one that has failed cannot. The fault of a node with an earlier one outstanding is
only noted. R411, R414: POST_COMMIT_TRAP_DELIVERY takes the report of a post-commit operation, which sets bit 16 of the cause,
and an instance's fault waits for it. -/
def Obligations.FaultsAreReportedInOrder : Prop :=
  (∀ (s : State) (f : Nat) (n : Inst) (x : Fibre) v, s.inst? f = some n → s.fibre? f = some x → x.report = none → v ∈ n.faults →
    (∀ w ∈ n.faults, v.eidx ≤ w.eidx ∧ (w.eidx = v.eidx → w = v)) →
    (∀ e ∈ n.todo, e < v.eidx → (∃ b ∈ n.bars, b.1 = e) ∨ CannotFire n e) →
    exec (.instanceFault f) s = .next (s.takeTrap f n.hdr v false)) ∧
  (∀ (s : State) (f : Nat) (n : Inst), s.inst? f = some n →
    (n.faults = [] ∨ ∃ e ∈ n.todo, (∀ v ∈ n.faults, e < v.eidx) ∧ (∀ b ∈ n.bars, b.1 ≠ e) ∧ ¬ CannotFire n e) →
    exec (.instanceFault f) s = .next s) ∧
  (∀ (s : State) (f : Nat) (x : Fibre), s.fibre? f = some x → x.report ≠ none → exec (.instanceFault f) s = .next s) ∧
  (∀ (s : State) (f : Nat) (n : Inst) (x : Fibre) (e : Nat) cause tval a b (c : Dword), s.inst? f = some n → s.fibre? f = some x →
    x.report = none → n.faults = [] → (∀ k ∈ n.todo, e ≤ k) →
    s.nodeFault f e cause tval a b c =
      (s.setInst f { n.done e with faults := [⟨e, BitVec.ofNat 8 cause, tval, a, b, c⟩] }).takeTrap f n.hdr
        ⟨e, BitVec.ofNat 8 cause, tval, a, b, c⟩ false) ∧
  (∀ (s : State) (f : Nat) (x : Fibre) v, s.fibre? f = some x → x.report = some v →
    exec (.postCommitTrapDelivery f) s = .next ((s.setFibre f { x with report := none }).takeTrap f x.reportHdr v true))

/-- R248, R312, R381, R382, R383: the cullets trap with cause 0x02 and their word; TRAP with cause 0x10 and A; BKPT with cause
0x11 and its number under a debugger and as a NOP otherwise; RESUME leaves the handler for a cause that it may end; EMULRET
ends an emulation; in any other place those two are illegal. -/
def Obligations.TrapInstructions : Prop :=
  (∀ d a b k, ∀ p ∈ ([(.mul24 d a b, [a, b]), (.fmadsat d a b, [a, b]), (.shfl d a b, [a, b]), (.cvt16z d a, [a]), (.vote d a k, [a]),
      (.laneid d, [])] : List (Instr × List Operand)),
    FiresAlways p.1 p.2 (fun s f e n xs =>
      s.nodeFault f e 0x02 ((n.body.getD e 0).zeroExtend 64) (xs.getD 0 0) (xs.getD 1 0) (xs.getD 2 0)) ∧
    AwaitsSources p.1 p.2 [d] ∧ IllegalInSeq p.1) ∧
  (∀ a, FiresAlways (.trap a) [a] (fun s f e _ xs => s.nodeFault f e 0x10 (xs.getD 0 0) (xs.getD 0 0) 0 0) ∧
    AwaitsSources (.trap a) [a] [] ∧ InSeqAlways (.trap a) (fun s c q => s.seqFault c 0x10 (q.read a))) ∧
  (∀ k : BitVec 7,
    Fires (.bkpt k) [] (fun s f _ _ _ => noDebugger s f) (fun s f e n _ => s.setInst f (n.done e)) ∧
    Fires (.bkpt k) [] (fun s f _ _ _ => ¬ noDebugger s f) (fun s f e _ _ => s.nodeFault f e 0x11 (k.zeroExtend 64) 0 0 0) ∧
    InSeq (.bkpt k) (fun s _ q => s.attached q.job = none) (fun s c q => s.setSeq c (q.past 1)) ∧
    InSeq (.bkpt k) (fun s _ q => s.attached q.job ≠ none) (fun s c q => s.setSeq c { q with halted := true })) ∧
  (∀ a, (∀ (s : State) (f : Nat) (e : Nat) (n : Inst) (x : Fibre), s.cur = .node f e → s.inst? f = some n → s.fibre? f = some x →
      let c := x.trap.cause.toNat % 256
      let may := x.hm = true ∧ ((4 ≤ c ∧ c ≤ 0x11) ∨ (0x13 ≤ c ∧ c ≤ 0x15))
      (may → exec .resumeRetry s = .next (left s f e n (.resume none))) ∧
      (¬ may → exec .resumeRetry s = .next (s.nodeFault f e 0x01 ((n.body.getD e 0).zeroExtend 64) 0 0 0)) ∧
      (∀ v, may → n.read a = .val v → exec (.resumeSkip a) s = .next (left s f e n (.resume (some v)))) ∧
      (∀ v, ¬ may → n.read a = .val v → exec (.resumeSkip a) s = .next (s.nodeFault f e 0x01 ((n.body.getD e 0).zeroExtend 64) v 0 0)) ∧
      (∀ v h, x.shadow = some h → n.read a = .val v → exec (.emulret a) s = .next (left s f e n (.emulret v))) ∧
      (∀ v, x.shadow = none → n.read a = .val v →
        exec (.emulret a) s = .next (s.nodeFault f e 0x01 ((n.body.getD e 0).zeroExtend 64) v 0 0))) ∧
    AwaitsSources (.resumeSkip a) [a] [] ∧ AwaitsSources (.emulret a) [a] [] ∧
    IllegalInSeq .resumeRetry ∧ IllegalInSeq (.resumeSkip a) ∧ IllegalInSeq (.emulret a))

/-- R382, R383, R410: a handler's RESUME, as it commits, restores pw and WOFF from the trap save, ends handler mode and goes back to the
block of the record, with the faulting node's value when it skips. R411: the RESUME of a trap found after commit goes on where
the fibre stood, and the operations held for the handler follow its own; a skip drops the one that failed and gives its slot the
value. R413: an EMULRET enters the cullet's block again with the cullet's value, and what the emulation has done takes effect:
pw, WOFF, call stack, FSP and THND, slots, gather registers and spills. -/
def Obligations.ReturnsFromTraps : Prop :=
  (∀ (s : State) (f : Nat) (x : Fibre) (skip : Option Dword), s.fibre? f = some x → x.trap.cause.getLsbD 16 = false →
    ∃ y, (s.commitResume f skip).fibre? f = some y ∧ y.hm = false ∧ y.pw = x.spw ∧ y.woff = x.swoff ∧ y.pc = x.trap.epc ∧
      y.way = .plain ∧ y.stack = x.stack ∧ y.fsp = x.fsp ∧ y.thnd = x.thnd ∧
      y.subst = (match skip with
        | some a => if x.trap.eidx = 0x7F then none else some (x.trap.eidx.toNat, a)
        | none => none) ∧
      ∀ a, (s.commitResume f skip).byte a = s.byte a) ∧
  (∀ (s : State) (f : Nat) (x : Fibre), s.fibre? f = some x → x.trap.cause.getLsbD 16 = true → x.trap.cause.toNat % 256 ≠ 0x13 →
    let back (y : Fibre) : Prop := y.hm = false ∧ y.pw = x.spw ∧ y.woff = x.swoff ∧ y.pc = x.resume ∧ y.way = .plain ∧
      y.stack = x.stack ∧ y.fsp = x.fsp ∧ y.thnd = x.thnd ∧ y.held = []
    (∃ y, (s.commitResume f none).fibre? f = some y ∧ back y ∧ y.post = x.post ++ x.held ∧
      ∀ b, (s.commitResume f none).byte b = s.byte b) ∧
    (∀ p r a, x.held = p :: r → p.hdr = x.trap.epc → BitVec.ofNat 64 p.eidx = x.trap.eidx →
      (∃ y, (s.commitResume f (some a)).fibre? f = some y ∧ back y ∧ y.post = x.post ++ r ∧
        ∀ b, (s.commitResume f (some a)).byte b = s.byte b) ∧
      (∀ k pr, p.prod = some k → kvGet k s.fab.prods = some pr → pr.f = f → x.shadow = none → x.ended = false →
        (s.gather? (gatherOf f)).isSome = true → (s.fibreSlot f pr.slot).prod = some k → (s.fibreSlot f pr.slot).full = false →
        (s.commitResume f (some a)).fibreSlot f pr.slot = ⟨a, true, none⟩))) ∧
  (∀ (s : State) (f : Nat) (x : Fibre) a, s.fibre? f = some x →
    ∃ y, (s.commitEmulret f a).fibre? f = some y ∧ y.pc = x.trap.epc ∧ y.way = .plain ∧ y.emul = x.emul &&& ~~~1#64 ∧
      y.subst = some (x.trap.eidx.toNat, a) ∧ y.shadow = none ∧
      (x.shadow = none → y.pw = x.pw ∧ y.woff = x.woff) ∧
      ∀ h, x.shadow = some h → y.pw = h.pw ∧ y.woff = h.woff ∧ y.stack = h.stack ∧ y.spilled = h.spilled ∧ y.fsp = h.fsp ∧
        y.thnd = h.thnd) ∧
  (∀ (s : State) (f : Nat) (x : Fibre) (n : Inst) (g : Gather), s.fibre? f = some x → s.inst? f = some n → s.gather? (gatherOf f) = some g →
    x.report = none → x.cancelled = false → leavesHandler n = false → n.todo = [] → n.faults = [] → n.stores = [] → n.forks = [] →
    n.post = [] → n.slotW = [] → n.gW = [] →
    (∀ skip, n.xfer = some (.resume skip) → x.shadow = none → x.hm = true → x.trap.cause.getLsbD 16 = false →
      ∃ t y, exec (.commit f) s = .next t ∧ t.fibre? f = some y ∧ t.inst? f = none ∧ y.hm = false ∧ y.pw = x.spw ∧ y.woff = x.swoff ∧
        y.pc = x.trap.epc ∧ y.way = .plain ∧ y.stack = x.stack ∧ y.fsp = n.fspW.getD x.fsp ∧ y.thnd = n.thndW.getD x.thnd) ∧
    (∀ h a, n.xfer = some (.emulret a) → x.shadow = some h → x.hm = false → kvSorted h.slots = true → kvSorted h.gs = true →
      (∀ o ∈ h.spills, o.goal ≠ .onchip) →
      ∃ t y k, exec (.commit f) s = .next t ∧ t.fibre? f = some y ∧ t.gather? (gatherOf f) = some k ∧ t.inst? f = none ∧
        y.pc = x.trap.epc ∧ y.way = .plain ∧ y.emul = x.emul &&& ~~~1#64 ∧ y.subst = some (x.trap.eidx.toNat, a) ∧ y.shadow = none ∧
        y.pw = n.pwW.getD h.pw ∧ y.woff = ((h.woff : Int) + (n.winb.getD 0).toInt).toNat ∧ y.stack = h.stack ∧
        y.spilled = h.spilled ∧ y.fsp = n.fspW.getD h.fsp ∧ y.thnd = n.thndW.getD h.thnd ∧
        (∀ j v, kvGet j h.slots = some v → t.fibreSlot f j = ⟨v, true, none⟩) ∧
        (∀ j, kvGet j h.slots = none → j ∈ h.empties → (t.fibreSlot f j).full = false) ∧
        (∀ j, kvGet j h.slots = none → j ∉ h.empties → t.fibreSlot f j = s.slot (coreOf f) (storeIdx g f j)) ∧
        (∀ j, kvGet j k.gs = ((kvGet j h.gs).or (kvGet j g.gs))) ∧
        (headerHeld s f x.trap.epc → ∃ u : State, u.ms = s.ms ∧ (u.fibre? f).map (·.rel) = some x.rel ∧
          t.ms = (h.spills.foldl (fun v o => v.performStore f o) u).ms)))

/-- R207, R213, R244: a ready fibre enters its configured block: the instance holds the window's live-in slots, the gather
registers, FI, GI and pw as they stand at admission, every node is still to fire, and the configuration's admission is counted.
An empty slot under the trap mask is cause 0x04 with its number, a header that does not allow the way of entering is cause
0x0E with PREV. That the way of entering is looked at before the trap mask is the model's choice (log entry 30). -/
def Obligations.AdmissionCapturesTheInputs : Prop :=
  ∀ (s : State) (f : Nat) (x : Fibre) (g : Gather) (w : WSet) (c : Config), s.fibre? f = some x → s.gather? (gatherOf f) = some g → s.mayEnter f x = true → s.marked f x = none →
    goodTarget x.pc.toNat = true → x.shadow = none →
    (s.fabric (coreOf f)).sets.find? (fun w => w.ctx == g.ctx && w.hdr == x.pc) = some w → w.fail = none →
    (∀ ws, w.words = some ws → hdrIsHeader (ws.getD 0 0) = true) →
    s.admitter (coreOf f) g.ctx x.pc = some c →
    s.firstReady ((s.standing (coreOf f) g.ctx x.pc).filter fun p => s.readyUnder p.1 p.2 (c.words.take 4)) = some f →
    (flagOk x.way (c.words.getD 0 0) = false →
      exec (.blockAdmission f) s = .next (s.admFault f x 0x0E 0x7F x.prev)) ∧
    (∀ k r, flagOk x.way (c.words.getD 0 0) = true → s.trapSlots f x (c.words.take 4) = k :: r →
      exec (.blockAdmission f) s = .next (s.admFault f x 0x04 0x7F (BitVec.ofNat 64 k))) ∧
    (flagOk x.way (c.words.getD 0 0) = true → s.trapSlots f x (c.words.take 4) = [] →
      ∃ t n y, exec (.blockAdmission f) s = .next t ∧ t.inst? f = some n ∧ t.fibre? f = some y ∧ n.hdr = x.pc ∧ n.cfg = c.id ∧
        n.body = c.words.drop 4 ∧ n.todo = (nodesOf (c.words.drop 4)).map (·.1) ∧ n.toks = [] ∧ n.pw = x.pw ∧ n.gs = g.gs ∧
        n.fi = BitVec.ofNat 64 (fiOf f) ∧ n.gi = BitVec.ofNat 64 g.gi ∧
        (∀ k, k < 48 → liveIn (c.words.take 4) k = true → kvGet k n.live = some (s.fibreSlot f (x.woff + k)).val) ∧
        y.pc = x.pc ∧ y.pw = x.pw ∧ y.woff = x.woff ∧ (∀ a, t.byte a = s.byte a) ∧ ∀ j, t.fibreSlot f j = s.fibreSlot f j)

/-- R223, R219, R265, R132, R215: ageing marks a fibre that has waited more than 4,096 cycles, and only such a one, and none
that an operation of its own still keeps from its waiting set; a delay is over when its cycle has come; a value that has been fixed arrives in its slot. -/
def Obligations.WaitingFibresAgeAndWake : Prop :=
  (∀ (s : State) (f : Nat) (x : Fibre), s.fibre? f = some x → x.ended = false → s.inst? f = none →
    exec (.fibreAgeing f) s = .next (if x.awaits = false ∧ x.since + 4096 < s.clock then s.setFibre f { x with aged := true } else s)) ∧
  (∀ (s : State) (f : Nat) (x : Fibre) d, s.fibre? f = some x → x.delay = some d →
    exec (.yieldDelayExpiry f) s = .next (if d ≤ s.clock then s.setFibre f { x with delay := none } else s)) ∧
  (∀ (s : State) p (f : Nat) (x : Fibre) (g : Gather) k v, kvGet p s.fab.prods = some ⟨f, k, none, some v⟩ → s.fibre? f = some x → s.gather? (gatherOf f) = some g →
    x.ended = false → x.shadow = none → s.inst? f = none → s.fibreSlot f k = ⟨0, false, some p⟩ →
    ∃ t, exec (.loadResultArrival p) s = .next t ∧ t.fibreSlot f k = ⟨v, true, none⟩ ∧
      (∀ j, j ≠ k → t.fibreSlot f j = s.fibreSlot f j) ∧ ∀ a, t.byte a = s.byte a)

namespace Sys2Proof.Claims

/-- Bytes of an access (R314). -/
def accessBytes (sz : BitVec 3) : Nat := [1, 1, 2, 2, 4, 8, 16].getD sz.toNat 16
/-- The effective address: A plus the offset in units of the access size, modulo 2^64 (R314). -/
def effective (a : Dword) (off : BitVec 7) (n : Nat) : Nat := (((a.toNat : Int) + off.toInt * (n : Int)) % 2 ^ 64).toNat
/-- The number in little-endian bytes (R4). -/
def little (bs : List Byte) : Nat := bs.foldr (fun b r => b.toNat + 256 * r) 0
/-- What a load of one value writes to D (R315). -/
def loaded (sz : BitVec 3) (bs : List Byte) : Dword :=
  if sz = 1 then (BitVec.ofNat 8 (little bs)).signExtend 64
  else if sz = 3 then (BitVec.ofNat 16 (little bs)).signExtend 64
  else BitVec.ofNat 64 (little bs)
/-- The bytes that a store of X, and of the dword after it, writes (R315, R316). -/
def stored (sz : BitVec 3) (x y : Dword) : List Byte :=
  (List.range (accessBytes sz)).map fun k => if k < 8 then x.extractLsb' (8 * k) 8 else y.extractLsb' (8 * (k - 8)) 8
/-- The node has loaded: D takes the value, two v values the two dwords of a 16-byte load. -/
def took (n : Inst) (e : Nat) (d : Dest) (sz : BitVec 3) (bs : List Byte) : Inst :=
  if sz = 6 then ((n.done e).put d (BitVec.ofNat 64 (little (bs.take 8)))).put (nextD d) (BitVec.ofNat 64 (little (bs.drop 8)))
  else n.fire e d (loaded sz bs)
/-- The pages that an instance has used, for an invalidation to wait for (R69). -/
def usesPage (n : Inst) (ea rgx : Nat) : Inst := { n with used := n.used ++ [(vpage ea, rgx)] }
/-- A core's first-level cache holds the bytes bs of these addresses, and is not being flushed. -/
def holdsBytes (s : State) (core : Nat) (pas : List Nat) (bs : List Byte) : Prop :=
  pas.map (fun p => (s.l1At core p).map (·.val)) = bs.map some ∧ (partOf s core).flush = false
/-- The node's waits and answers are over, and its instance is m. -/
def nodeDone (s : State) (f e : Nat) (m : Inst) : State := (s.clearFresh (agentNode f e)).setInst f m
/-- The node waits for no miss-status entry any more (R83). -/
def unqueued (s : State) (f e : Nat) : State :=
  { s with ms := { s.ms with missq := s.ms.missq.filter (· != (coreOf f, agentNode f e)) } }
/-- The core's first-level cache is not being flushed, and no line that it must fetch for these bytes is poisoned; it has room for
the misses (R78, R83, R103). -/
def mayFetch (s : State) (f e : Nat) (pas : List Nat) : Prop :=
  (partOf s (coreOf f)).flush = false ∧ (∀ l ∈ s.missing (coreOf f) pas, s.ms.poison.contains l = false) ∧
  (s.missRoom f (agentNode f e) pas).2 = true
/-- No miss-status entry that the fetch joins was there before an acquire of the core (R84). -/
def joinsFresh (s : State) (f : Nat) (pas : List Nat) : Prop :=
  ∀ l ∈ s.missing (coreOf f) pas, ∀ m, s.joinable f l = some m → m.acq = []
/-- A byte as the first-level cache gives it, after the lines that it misses have been filled: dirty bytes stay (R79, R84). -/
def filledByte (s : State) (core : Nat) (pas : List Nat) (pa : Nat) : Byte :=
  match s.l1At core pa with
  | some b => if b.dirty || !(s.missing core pas).contains (lineOf pa) then b.val else s.byte pa
  | none => s.byte pa
/-- A byte that is read past the first level: the die's copy, but for the core's own dirty byte (R84, R149). -/
def pastByte (s : State) (core pa : Nat) : Byte :=
  match s.l1At core pa with
  | some b => if b.dirty then b.val else s.byte pa
  | none => s.byte pa
/-- No earlier load, store, ATOM or RED of the fibre has still to be performed on these bytes. -/
def nothingAhead (s : State) (f : Nat) (pas : List Nat) : Prop :=
  s.ownAhead f 0 pas = false ∧ s.earlierLoads f s.serial pas = []
/-- The sources of LD and ST. -/
def ldDests (sz : BitVec 3) (d : Dest) : List Dest := if sz = 6 then [d, nextD d] else [d]
def stSrcs (sz : BitVec 3) (x a : Operand) : List Operand := if sz = 6 then [a, x, nextV x] else [a, x]

/-- Coordinate j of an LC2 codeword, in quarters (R191). -/
def coordinate (w j : Nat) : Int :=
  let mag : Int := if w.testBit (8 + j) then 6 else 2
  let odd := decide (((List.range 15).filter fun i => w.testBit (i + 1)).length % 2 = 1)
  (if (if j < 7 then w.testBit (1 + j) else odd) then -mag else mag) + (if w.testBit 0 then 1 else -1)
/-- The FP32 of a weight of an LC2 block with scale byte y (R191). -/
def weight (y : Byte) (w j : Nat) : Word :=
  toF32 ((e4m3.decode y.toNat).mul (.fin (decide (coordinate w j < 0)) (coordinate w j).natAbs (-2)))
/-- The value of an element of a stored format (R319): `x` are the element's bits, y its scale's byte; an LC2 element is two weights
of its codeword, behind which the block's scale byte stands. -/
def elementValue (fmt el y : Nat) (bs : List Byte) : Dword :=
  let x := little bs
  let float (f : Fmt) (w : Nat) (k : Nat) : Dword := ((toF32 (f.decode (x / 2 ^ k % 2 ^ w))).zeroExtend 64)
  let scaled (f : Fmt) (w : Nat) (k : Nat) : Dword := ((toF32 ((e8m0 y).mul (f.decode (x / 2 ^ k % 2 ^ w)))).zeroExtend 64)
  match fmt with
  | 1 => float Sys2Proof.Machine.fp32 32 0
  | 2 => float Sys2Proof.Machine.fp16 16 0
  | 3 => float Sys2Proof.Machine.bf16 16 0
  | 4 => float e4m3 8 0
  | 5 => float e5m2 8 0
  | 6 => (BitVec.ofNat 8 x).signExtend 64
  | 7 => (BitVec.ofNat 4 (x / 16 ^ (el % 2))).signExtend 64
  | 8 => scaled e4m3 8 0
  | 9 => scaled e5m2 8 0
  | 10 => scaled e3m2 6 (6 * el % 8)
  | 11 => scaled e2m3 6 (6 * el % 8)
  | 12 => scaled e2m1 4 (4 * (el % 2))
  | 13 => ((toF32 ((e8m0 y).mul (.fin (decide ((BitVec.ofNat 8 x).toInt < 0)) (BitVec.ofNat 8 x).toInt.natAbs (-6)))).zeroExtend 64)
  | _ => weight (bs.getD 2 0) (x % 2 ^ 16) (2 * (el % 4) + 1) ++ weight (bs.getD 2 0) (x % 2 ^ 16) (2 * (el % 4))

end Sys2Proof.Claims

/-! ## LD, ST and the format accesses (spec/13) -/

/-- R314, R315, R132, R79: a fibre's LD whose bytes are in its core's first-level cache, and one of its own allocation,
fires with the bytes' value; it waits for its operand. One that misses fills the lines and fires with their bytes; it reads past
the cache where it joins an entry from before an acquire (R84), which leaves none of its bytes clean in the cache (R147), and faults on a poisoned line (R103); without a miss-status entry
it waits (R83). A bounded one asks the home and fires with its answer (R174, R175). One of a window word that is not valid asks
for its fill and faults where that has failed (R112, R113). A window slot takes a load's value later: the node fires, a producer
stands for the slot, and memory is untouched. -/
def Obligations.LoadsTakeTheirBytes : Prop :=
  ∀ q sz d a off, AwaitsSources (.ld q sz d a off) [a] (ldDests sz d) ∧
  ∀ (s u : State) (f e : Nat) (n : Inst) (x : Dword) r, s.cur = .node f e → s.inst? f = some n → n.reads [a] = .vals [x] →
    n.awaitsStore e = false → n.stores = [] →
    let N := accessBytes sz
    let ea := effective x off N
    s.resolve (s.whoNode f e) ea N N needR = (u, r) →
    (∀ pas l bs, r = .mem pas l → slotOf d = none → nothingAhead u f pas → l.bound u ea = none → holdsBytes u (coreOf f) pas bs →
      exec (.ld q sz d a off) s = .next (nodeDone (unqueued u f e) f e (took (usesPage n ea l.rgx) e d sz bs))) ∧
    (∀ pas l, r = .mem pas l → slotOf d = none → nothingAhead u f pas → l.bound u ea = none → mayFetch u f e pas →
      (joinsFresh u f pas → ∃ t, exec (.ld q sz d a off) s = .next t ∧
        t.inst? f = some (took (usesPage n ea l.rgx) e d sz (pas.map (filledByte u (coreOf f) pas))) ∧ t.ms.mem = u.ms.mem) ∧
      (¬ joinsFresh u f pas → ∃ t, exec (.ld q sz d a off) s = .next t ∧
        t.inst? f = some (took (usesPage n ea l.rgx) e d sz (pas.map (pastByte u (coreOf f)))) ∧ t.ms.mem = u.ms.mem ∧
        (∀ p, p ∉ pas ∨ ((u.l1At (coreOf f) p).any (·.dirty)) = true → t.l1At (coreOf f) p = u.l1At (coreOf f) p) ∧
        ∀ p ∈ pas, (u.l1At (coreOf f) p).any (·.dirty) = false → t.l1At (coreOf f) p = none)) ∧
    (∀ pas l b, r = .mem pas l → slotOf d = none → nothingAhead u f pas → l.bound u ea = none → b ∈ u.missing (coreOf f) pas →
      u.ms.poison.contains b = true → (u.missRoom f (agentNode f e) pas).2 = true →
      exec (.ld q sz d a off) s = .next (traps (unqueued u f e) f e 0x0D (BitVec.ofNat 64 ea) [x])) ∧
    (∀ pas l (v : State), r = .mem pas l → slotOf d = none → nothingAhead u f pas → l.bound u ea = none →
      u.missRoom f (agentNode f e) pas = (v, false) → exec (.ld q sz d a off) s = .next v) ∧
    (∀ pas l lim, r = .mem pas l → nothingAhead u f pas → l.bound u ea = some lim →
      let home := freshBytes (u.freshOf (agentNode f e)) (pas.headD 0) pas.length
      let failed := freshFail (u.freshOf (agentNode f e)) ea
      (∀ bs, home = some bs → exec (.ld q sz d a off) s = .next (nodeDone u f e (took (usesPage n ea l.rgx) e d sz bs))) ∧
      (∀ b, home = none → failed = some b → exec (.ld q sz d a off) s = .next (traps u f e b.cause (BitVec.ofNat 64 ea) [x])) ∧
      (home = none → failed = none →
        let ask : BRead := ⟨pas.headD 0, pas.length, q.toNat, lim, agentNode f e, ea⟩
        ∃ t, exec (.ld q sz d a off) s = .next t ∧ t.inst? f = u.inst? f ∧ t.ms.mem = u.ms.mem ∧
          t.ms.breads = if u.ms.breads.contains ask then u.ms.breads else u.ms.breads ++ [ask])) ∧
    (∀ offs g, r = .scratch offs → s.gather? (gatherOf f) = some g → u.ownAhead f 1 offs = false → g.invalid offs = [] →
      exec (.ld q sz d a off) s = .next (nodeDone u f e (took (usesPage n ea 64) e d sz (offs.map (u.scratchByte g))))) ∧
    (∀ offs g, r = .scratch offs → s.gather? (gatherOf f) = some g → u.ownAhead f 1 offs = false → g.invalid offs ≠ [] →
      let failed (w : Nat) : Option (Nat × Bad) := (g.backing (4 * w)).bind fun va => (freshFail (u.freshOf (agentNode f e)) va).map fun b => (va, b)
      (∀ w r va b, g.invalid offs = w :: r → failed w = some (va, b) →
        exec (.ld q sz d a off) s = .next (traps u f e b.cause (BitVec.ofNat 64 va) [x])) ∧
      ((∀ w ∈ g.invalid offs, failed w = none) →
        ∃ t, exec (.ld q sz d a off) s = .next t ∧ t.inst? f = u.inst? f ∧ t.ms.mem = u.ms.mem ∧
          ∀ w ∈ g.invalid offs, ∃ x ∈ t.ms.fills, x.g = gatherOf f ∧ x.line = w / 32 ∧ agentNode f e ∈ x.agents)) ∧
    (∀ pas l k (y : Fibre), r = .mem pas l → slotOf d = some k → u.fibre? f = some y → y.shadow = none → u.ownAhead f 0 pas = false →
      l.bound u ea = none → (u.missRoom f (agentNode f e) pas).2 = true →
      ∃ t m pr j, exec (.ld q sz d a off) s = .next t ∧ t.inst? f = some m ∧ m.todo = n.todo.erase e ∧
        kvGet k m.slotW = some (.wait u.serial) ∧ kvGet u.serial t.fab.prods = some pr ∧ pr.f = f ∧ pr.slot = y.woff + k ∧
        pr.value = none ∧ pr.load = some j ∧ j.pas = pas ∧ j.form = sz.toNat ∧ t.serial = u.serial + 1 ∧ t.ms.mem = u.ms.mem ∧
        t.ms.l1 = u.ms.l1 ∧ t.fab.fibres = u.fab.fibres) ∧
    (∀ pas l k (v : State), r = .mem pas l → slotOf d = some k → s.emulating f = false → u.ownAhead f 0 pas = false → l.bound u ea = none →
      u.missRoom f (agentNode f e) pas = (v, false) → exec (.ld q sz d a off) s = .next v)

/-- R59, R314, R22, R36: an access that does not resolve is the node's fault, with its cause and address: cause 0x09 where it is
not canonical, in the aperture where there is no allocation, or in it with a byte outside the gather's own SPSIZE bytes, 0x0B where it
is not aligned, in the allocation too; LD and ST then write nothing. An LD or ST of fewer than 8 bytes faults with 0x09 in the on-chip
map, and so does an ST to one of its windows that takes none. That the canonical check comes before the aperture and alignment checks
is log entry 25. -/
def Obligations.AccessesThatFailTheirChecks : Prop :=
  (∀ (s : State) w ea n al need, (vaBytes ea n).any (fun a => !canonical a) = true →
    s.resolve w ea n al need = (s, .bad ⟨0x09, ea⟩)) ∧
  (∀ (s : State) (w : Who) ea n al need, (vaBytes ea n).any (fun a => !canonical a) = false →
    (vaBytes ea n).any (ctxOf s w.ctx).inAperture = true → w.ga = none → s.resolve w ea n al need = (s, .bad ⟨0x09, ea⟩)) ∧
  (∀ (s : State) (w : Who) ea n al need, (vaBytes ea n).any (fun a => !canonical a) = false →
    (vaBytes ea n).any (ctxOf s w.ctx).inAperture = false → ea % al ≠ 0 → s.resolve w ea n al need = (s, .bad ⟨0x0B, ea⟩)) ∧
  (∀ (s : State) (w : Who) ea n al need g, (vaBytes ea n).any (fun a => !canonical a) = false → w.ga = some g →
    let c := ctxOf s w.ctx
    let own (a : Nat) : Prop := c.inAperture a = true ∧ a - c.sb < g.spSize
    (vaBytes ea n).any c.inAperture = true →
    ((∃ a ∈ vaBytes ea n, ¬ own a) → s.resolve w ea n al need = (s, .bad ⟨0x09, ea⟩)) ∧
    ((∀ a ∈ vaBytes ea n, own a) → ea % al ≠ 0 → s.resolve w ea n al need = (s, .bad ⟨0x0B, ea⟩)) ∧
    ((∀ a ∈ vaBytes ea n, own a) → ea % al = 0 → s.resolve w ea n al need = (s, .scratch ((vaBytes ea n).map (· - c.sb))))) ∧
  (∀ q sz d a x off (s u : State) (f e : Nat) (n : Inst) (v y z : Dword) b, s.cur = .node f e → s.inst? f = some n →
    let N := accessBytes sz
    let ea := effective v off N
    (n.reads [a] = .vals [v] → n.awaitsStore e = false → s.resolve (s.whoNode f e) ea N N needR = (u, .bad b) →
      exec (.ld q sz d a off) s = .next (traps u f e b.cause (BitVec.ofNat 64 b.tval) [v])) ∧
    (n.reads (stSrcs sz x a) = .vals (v :: y :: if sz = 6 then [z] else []) →
      s.resolve (s.whoNode f e) ea N N needW = (u, .bad b) →
      exec (.st q sz x a off) s = .next (traps u f e b.cause (BitVec.ofNat 64 b.tval) [v]))) ∧
  (∀ q sz d a x off (s u : State) (f e : Nat) (n : Inst) (v y z : Dword) o rgx, s.cur = .node f e → s.inst? f = some n →
    let N := accessBytes sz
    let ea := effective v off N
    (n.reads [a] = .vals [v] → n.awaitsStore e = false → s.resolve (s.whoNode f e) ea N N needR = (u, .onchip o rgx) → N < 8 →
      exec (.ld q sz d a off) s = .next (traps u f e 0x09 (BitVec.ofNat 64 ea) [v])) ∧
    (n.reads (stSrcs sz x a) = .vals (v :: y :: if sz = 6 then [z] else []) →
      s.resolve (s.whoNode f e) ea N N needW = (u, .onchip o rgx) → (N < 8 ∨ u.chipStoreBad o (s.jobOf f) = true) →
      exec (.st q sz x a off) s = .next (traps u f e 0x09 (BitVec.ofNat 64 ea) [v])))

/-- R132, R314 to R316: a fibre's ST is checked as its node fires and kept with its bytes until commit; an access of the gather's own
allocation is kept as such. -/
def Obligations.StoresAreKeptUntilCommit : Prop :=
  ∀ q sz x a off, AwaitsSources (.st q sz x a off) (stSrcs sz x a) [] ∧
  ∀ (s u : State) (f e : Nat) (n : Inst) (v y z : Dword) r, s.cur = .node f e → s.inst? f = some n →
    n.reads (stSrcs sz x a) = .vals (v :: y :: if sz = 6 then [z] else []) →
    let N := accessBytes sz
    let ea := effective v off N
    s.resolve (s.whoNode f e) ea N N needW = (u, r) →
    (∀ pas l, r = .mem pas l →
      exec (.st q sz x a off) s = .next (nodeDone u f e { n.done e with
        stores := n.stores ++ [⟨e, BitVec.ofNat 64 ea, .global l.rgx q.toNat (q == 1), pas.zip (stored sz y z), none, (l.bound u ea).getD 0,
          [(vpage ea, l.rgx)]⟩] })) ∧
    (∀ offs g, r = .scratch offs → s.gather? (gatherOf f) = some g → offs.filterMap g.backing = [] →
      exec (.st q sz x a off) s = .next (nodeDone u f e { n.done e with
        stores := n.stores ++ [⟨e, BitVec.ofNat 64 ea, .scratch, offs.zip (stored sz y z), none, 0, []⟩] }))

/-- R79, R80, R103, R112: a store performed in the first-level cache makes its bytes dirty there and leaves memory; one
performed at the die's copy changes those bytes of memory and no other, but nothing in a poisoned line; one of the allocation changes those bytes
of the scratchpad. -/
def Obligations.StoresReachTheirPlace : Prop :=
  (∀ (s : State) (f : Nat) (o : StoreOp) rgx hint, o.goal = .global rgx hint false → o.lim.toNat % 2 ^ 31 = 0 → s.relRec f = none →
    (partOf s (coreOf f)).flush = false → (o.cells.map (·.1)).Nodup →
    (∀ c ∈ o.cells, ∃ b, (s.performStore f o).l1At (coreOf f) c.1 = some b ∧ b.val = c.2 ∧ b.dirty = true) ∧
    (∀ pa ∉ o.cells.map (·.1), (s.performStore f o).l1At (coreOf f) pa = s.l1At (coreOf f) pa) ∧
    (s.performStore f o).ms.mem = s.ms.mem) ∧
  (∀ (s : State) die cs clears but, (cs.map (·.1)).Nodup →
    (∀ c ∈ cs, s.ms.poison.contains (lineOf c.1) = false → (s.writeAt die cs clears but).byte c.1 = c.2) ∧
    (∀ c ∈ cs, clears = false → s.ms.poison.contains (lineOf c.1) = true → (s.writeAt die cs clears but).byte c.1 = s.byte c.1) ∧
    (∀ pa ∉ cs.map (·.1), (s.writeAt die cs clears but).byte pa = s.byte pa)) ∧
  (∀ (s : State) (g : Nat) (ga : Gather) cs, s.gather? g = some ga → (cs.map (·.1)).Nodup →
    (∀ c ∈ cs, (s.scratchWrite g cs).spByte ga.core (ga.spBase + c.1) = c.2) ∧
    (∀ k ∉ cs.map (·.1), (s.scratchWrite g cs).spByte ga.core (ga.spBase + k) = s.spByte ga.core (ga.spBase + k)) ∧
    (s.scratchWrite g cs).ms.mem = s.ms.mem)

/-- R346, R314, R315, R347: sequencer code's LD reads memory at its die and its ST writes it there, at once; it has no allocation of its
own: an access of the aperture faults with cause 0x09 and its address. One that does not resolve (its form, its alignment, its
translation) faults with the cause and address of that, and of fewer than 8 bytes in the on-chip map with 0x09; an LD of a poisoned line
faults with 0x0D (R103). -/
def Obligations.SequencerAccesses : Prop :=
  (∀ q sz (d : Dest) (x a : Operand) off (s : State) (c : Nat) (p : Seq), s.cur = .seq c → s.seq? c = some p →
    let N := accessBytes sz
    let ea := effective (p.read a) off N
    ((vaBytes ea N).any (ctxOf s p.ctx).inAperture = true →
      exec (.ld q sz d a off) s = .next (s.seqFault c 0x09 (BitVec.ofNat 64 ea)) ∧
      exec (.st q sz x a off) s = .next (s.seqFault c 0x09 (BitVec.ofNat 64 ea))) ∧
    (∀ (u : State) b,
      (s.resolve (s.whoSeq c p) ea N N needR = (u, .bad b) →
        exec (.ld q sz d a off) s = .next (u.seqFault c b.cause (BitVec.ofNat 64 b.tval))) ∧
      (s.resolve (s.whoSeq c p) ea N N needW = (u, .bad b) →
        exec (.st q sz x a off) s = .next (u.seqFault c b.cause (BitVec.ofNat 64 b.tval)))) ∧
    (∀ (u : State) o rgx, N < 8 →
      (s.resolve (s.whoSeq c p) ea N N needR = (u, .onchip o rgx) →
        exec (.ld q sz d a off) s = .next (u.seqFault c 0x09 (BitVec.ofNat 64 ea))) ∧
      (s.resolve (s.whoSeq c p) ea N N needW = (u, .onchip o rgx) →
        exec (.st q sz x a off) s = .next (u.seqFault c 0x09 (BitVec.ofNat 64 ea)))) ∧
    (∀ (u : State) pas l, s.resolve (s.whoSeq c p) ea N N needR = (u, .mem pas l) →
      u.underWay (dieOfCl c) (agentSeq c) (pas.map lineOf) = false → l.bound u ea = none → (u.poisoned pas).isSome = true →
      exec (.ld q sz d a off) s = .next (u.seqFault c 0x0D (BitVec.ofNat 64 ea)))) ∧
  ∀ q sz (d : Dest) (x a : Operand) off (s u : State) (c : Nat) (p : Seq) pas l, s.cur = .seq c → s.seq? c = some p →
    let N := accessBytes sz
    let ea := effective (p.read a) off N
    u.underWay (dieOfCl c) (agentSeq c) (pas.map lineOf) = false → l.bound u ea = none → u.poisoned pas = none →
    (s.resolve (s.whoSeq c p) ea N N needR = (u, .mem pas l) →
      ∃ t, exec (.ld q sz d a off) s = .next t ∧ t.ms.mem = u.ms.mem ∧
        t.seq? c = some ((if sz = 6 then (p.put d (BitVec.ofNat 64 (little ((pas.map u.byte).take 8)))).put (nextD d)
            (BitVec.ofNat 64 (little ((pas.map u.byte).drop 8))) else p.put d (loaded sz (pas.map u.byte))).past (1 + litCount [a]))) ∧
    (s.resolve (s.whoSeq c p) ea N N needW = (u, .mem pas l) → pas.Nodup → pas.length = N →
      ∃ t, exec (.st q sz x a off) s = .next t ∧ t.seq? c = some (p.past (1 + litCount [a])) ∧
        (∀ k (h : k < pas.length), t.byte pas[k] = (stored sz (p.read x) (p.read (nextV x))).getD k 0) ∧
        ∀ b ∉ pas, t.byte b = u.byte b)

/-- R318, R319: a format load gives the element's value by the format of its page, from bytes that the core's first-level cache
holds, with the scale's byte where the format has one. -/
def Obligations.FormatLoadsDecode : Prop :=
  ∀ q d a (el : BitVec 5), AwaitsSources (.ldFmt q d a el) [a] [d] ∧
  ∀ (s u v : State) (f e : Nat) (n : Inst) (x : Dword) (p : FmtPlan) pas l y page bs, s.cur = .node f e → s.inst? f = some n →
    n.reads [a] = .vals [x] → n.awaitsStore e = false → n.stores = [] →
    s.fmtPlan (s.whoNode f e) x.toNat el.toNat false = (u, some (.ok p)) → 1 ≤ p.fmt → p.fmt ≤ 14 → p.at_ = .mem pas l →
    u.ownAhead f 0 pas = false → u.scaleFibre f e n (s.whoNode f e) p = (v, .bytes [y], page) →
    v.earlierLoads f v.serial pas = [] → p.leaf.bound v p.va = none → l.bound v x.toNat = none → holdsBytes v (coreOf f) pas bs →
    exec (.ldFmt q d a el) s =
      .next (nodeDone (unqueued v f e) f e ({ n with used := n.used ++ p.pages ++ page }.fire e d (elementValue p.fmt el.toNat y.toNat bs)))

/-- R318, R320: a format store is kept with the element's bytes: a float rounded to the page's format, a saturated INT8; an
INT4 store keeps its nibble and is performed at the die. -/
def Obligations.FormatStoresEncode : Prop :=
  ∀ (q : BitVec 3) (x a : Operand) (el : BitVec 5), AwaitsSources (.stFmt q x a el) [a, x] [] ∧
  ∀ (s u : State) (f e : Nat) (n : Inst) (v y : Dword) (p : FmtPlan) pas l, s.cur = .node f e → s.inst? f = some n →
    n.reads [a, x] = .vals [v, y] → s.fmtPlan (s.whoNode f e) v.toNat el.toNat true = (u, some (.ok p)) → p.at_ = .mem pas l →
    let float (f : Fmt) (w : Nat) : List Byte :=
      (List.range (w / 8)).map fun k => BitVec.ofNat 8 (f.round .rne (f32 (low y)) / 256 ^ k)
    let kept (bs : List Byte) (nib : Option Bool) : Prop := exec (.stFmt q x a el) s = .next (nodeDone u f e
      { n.done e with
        stores := n.stores ++ [⟨e, v, .global l.rgx (if nib.isSome then 0 else q.toNat) (nib.isSome || q == 1), pas.zip bs, nib, (p.leaf.bound u p.va).getD 0,
          p.pages⟩] })
    (p.fmt = 1 → kept ((List.range 4).map fun k => y.extractLsb' (8 * k) 8) none) ∧ (p.fmt = 2 → kept (float Sys2Proof.Machine.fp16 16) none) ∧
    (p.fmt = 3 → kept (float Sys2Proof.Machine.bf16 16) none) ∧ (p.fmt = 4 → kept (float e4m3 8) none) ∧
    (p.fmt = 5 → kept (float e5m2 8) none) ∧
    (p.fmt = 6 → kept [BitVec.ofInt 8 (max (-128) (min 127 y.toInt))] none) ∧
    (p.fmt = 7 → kept [(BitVec.ofInt 4 (max (-8) (min 7 y.toInt))).zeroExtend 8] (some (el.toNat % 2 == 1)))

namespace Sys2Proof.Claims

/-- What an operation writes of the old value and of b and c, if it writes (R322). -/
abbrev AtomFn := (w : Nat) → BitVec w → BitVec w → BitVec w → Option (BitVec w)
/-- A lane-wise operation on lanes of k bits. -/
def laneWise (k : Nat) (g : Nat → Nat → Nat) : AtomFn := fun w o b _ =>
  some (BitVec.ofNat w ((List.range (w / k)).foldl (fun acc i =>
    acc + g (o.extractLsb' (k * i) k).toNat (b.extractLsb' (k * i) k).toNat % 2 ^ k * 2 ^ (k * i)) 0))
/-- A sum rounded once in a format. -/
def sumIn (f : Fmt) (x y : Nat) : Nat := f.round .rne ((f.decode x).add (f.decode y))
/-- A row of R322 or R325: its number in R245, the instruction, whether C is a source, whether it is a RED, and what it writes. -/
structure AtomRow where
  code : Nat
  make : Bool → BitVec 3 → BitVec 2 → Dest → Operand → Operand → Operand → Instr
  srcs : Operand → Operand → Operand → List Operand
  dest : Dest → Dest
  red : Bool
  new : AtomFn
  /-- The host accepts it (R39). -/
  host : Bool
def atomRow (code : Nat) (mk : Bool → BitVec 3 → BitVec 2 → Dest → Operand → Operand → Instr) (new : AtomFn) (host : Bool := false) : AtomRow :=
  ⟨code, fun w sc o d a b _ => mk w sc o d a b, fun a b _ => [a, b], id, false, new, host⟩
def redRow (code : Nat) (mk : Bool → BitVec 3 → BitVec 2 → Operand → Operand → Instr) (new : AtomFn) (host : Bool := false) : AtomRow :=
  ⟨code, fun w sc o _ a b _ => mk w sc o a b, fun a b _ => [a, b], fun _ => .zero, true, new, host⟩
def fnAdd : AtomFn := fun _ o b _ => some (o + b)
def fnAnd : AtomFn := fun _ o b _ => some (o &&& b)
def fnOr : AtomFn := fun _ o b _ => some (o ||| b)
def fnXor : AtomFn := fun _ o b _ => some (o ^^^ b)
def fnMin : AtomFn := fun _ o b _ => some (if o.toInt ≤ b.toInt then o else b)
def fnMax : AtomFn := fun _ o b _ => some (if o.toInt ≤ b.toInt then b else o)
def fnMinn : AtomFn := fun _ o b _ => some (if o.toNat ≤ b.toNat then o else b)
def fnMaxn : AtomFn := fun _ o b _ => some (if o.toNat ≤ b.toNat then b else o)
/-- The operations of ATOM (R245, R322). -/
def atomRows : List AtomRow := [
  ⟨0, fun w sc o d a _ _ => .atomLoad w sc o d a, fun a _ _ => [a], id, false, fun _ _ _ _ => none, false⟩,
  ⟨1, fun w sc o _ a b _ => .atomStore w sc o a b, fun a b _ => [a, b], fun _ => .zero, false, fun _ _ b _ => some b, false⟩,
  atomRow 2 .atomAdd fnAdd true, atomRow 3 .atomSub (fun _ o b _ => some (o - b)), atomRow 4 .atomAnd fnAnd, atomRow 5 .atomOr fnOr,
  atomRow 6 .atomXor fnXor, atomRow 7 .atomMin fnMin, atomRow 8 .atomMax fnMax, atomRow 9 .atomMinn fnMinn, atomRow 10 .atomMaxn fnMaxn,
  atomRow 11 .atomSwap (fun _ _ b _ => some b) true,
  ⟨12, .atomCas, fun a b c => [a, b, c], id, false, fun _ o b c => if o = c then some b else none, true⟩,
  atomRow 13 .atomInc (fun _ o b _ => some (if b.toNat ≤ o.toNat then 0 else o + 1)),
  atomRow 14 .atomDec (fun _ o b _ => some (if o = 0 ∨ b.toNat < o.toNat then b else o - 1)),
  atomRow 15 .atomFadd (laneWise 32 (sumIn Sys2Proof.Machine.fp32)), atomRow 16 .atomFmin (laneWise 32 (minCode Sys2Proof.Machine.fp32)),
  atomRow 17 .atomFmax (laneWise 32 (maxCode Sys2Proof.Machine.fp32)), atomRow 18 .atomHadd2F16 (laneWise 16 (sumIn Sys2Proof.Machine.fp16)),
  atomRow 19 .atomHadd2Bf16 (laneWise 16 (sumIn Sys2Proof.Machine.bf16))]
/-- The operations of RED (R245, R325). -/
def redRows : List AtomRow := [
  redRow 2 .redAdd fnAdd true, redRow 4 .redAnd fnAnd, redRow 5 .redOr fnOr, redRow 6 .redXor fnXor, redRow 7 .redMin fnMin, redRow 8 .redMax fnMax,
  redRow 9 .redMinn fnMinn, redRow 10 .redMaxn fnMaxn, redRow 15 .redFadd (laneWise 32 (sumIn Sys2Proof.Machine.fp32)),
  redRow 18 .redHadd2F16 (laneWise 16 (sumIn Sys2Proof.Machine.fp16)), redRow 19 .redHadd2Bf16 (laneWise 16 (sumIn Sys2Proof.Machine.bf16))]
/-- The place to which a leaf leads does not fail the row's operation (R36, R39, R40). -/
def acceptsAt (r : AtomRow) (s : State) (va : Nat) (l : Leaf) : Bool := match placeOf s (l.pa va) with
  | .onchip _ => false
  | .host => r.host
  | _ => s.peerFits (l.pa va)
/-- The width of an operation. -/
def atomWidth (w64 : Bool) : Nat := if w64 then 64 else 32
/-- The bytes of an aligned element at pa. -/
def element (w64 : Bool) (pa : Nat) : List Nat := (List.range (atomWidth w64 / 8)).map (pa + ·)
/-- The bytes hold x. -/
def holds {w : Nat} (s : State) (pa : Nat) (x : BitVec w) : Prop := ∀ k < w / 8, s.byte (pa + k) = x.extractLsb' (8 * k) 8
/-- The element at pa as the instruction reads it. -/
def oldAt (s : State) (w : Nat) (pa : Nat) : BitVec w := BitVec.ofNat w (little ((List.range (w / 8)).map fun k => s.byte (pa + k)))
/-- The element at pa takes the row's result of what it held in u, and no other byte of memory changes. -/
def changesElement (r : AtomRow) (w64 : Bool) (pa : Nat) (b c : Dword) (u t : State) : Prop :=
  let w := atomWidth w64
  holds t pa ((r.new w (oldAt u w pa) (b.setWidth _) (c.setWidth w)).getD (oldAt u w pa)) ∧
  ∀ p ∉ element w64 pa, t.byte p = u.byte p
/-- A relaxed ATOM or RED of memory at the head of the fibre's queue, whose earlier accesses are all performed. -/
def atomReady (s : State) (f : Nat) (x : Fibre) (p : PostOp) (rest : List PostOp) (o : StoreOp) (w64 : Bool) (pa : Nat) : Prop :=
  s.cur = .post f ∧ s.fibre? f = some x ∧ x.post = p :: rest ∧ p.place = some o ∧ o.cells.map (·.1) = element w64 pa ∧
  pa % (atomWidth w64 / 8) = 0 ∧ o.lim.toNat % 2 ^ 31 = 0 ∧ x.stage = 0 ∧ x.rel = none ∧ x.orel = [] ∧ x.ended = false ∧
  s.underWay (dieOf f) (agentNode f 127) [lineOf pa] = false ∧ s.earlierLoads f s.serial (element w64 pa) = []

end Sys2Proof.Claims

/-! ## ATOM and RED (spec/13) -/

/-- R313, R323, R324, R132: every ATOM and RED waits for its operands; one whose address is in memory, in the gather's own
allocation, at a peer, or at a host that accepts it fires with its check and its place kept for its turn after commit; one that
its check fails faults, and so does one of an on-chip address (R36) and one that the host does not accept (R39). -/
def Obligations.AtomicsAreCheckedAndKept : Prop :=
  ∀ r ∈ atomRows ++ redRows, ∀ w64 sc or d a b c, let i := r.make w64 sc or d a b c
    AwaitsSources i (r.srcs a b c) (if r.red then [] else [r.dest d]) ∧
    ∀ (s u : State) (f e : Nat) (n : Inst) (va : Dword) ops v, s.cur = .node f e → s.inst? f = some n →
      n.reads (r.srcs a b c) = .vals (va :: ops) →
      let N := atomWidth w64 / 8
      s.resolve (s.whoNode f e) va.toNat N N needRW true (acceptsAt r s) = (u, v) →
      let keptAt (t : State) (pages : List (Nat × Nat)) (goal : StoreTo) (as : List Nat) (lim : Word) : Result :=
        .next ((t.clearFresh (agentNode f e)).addPost f e { n with used := n.used ++ pages } (some (r.dest d)) i (va :: ops) []
          (some ⟨e, va, goal, as.map (·, 0), none, lim, pages⟩))
      (∀ pas l, v = .mem pas l → pas.length = N →
        exec i s = keptAt u [(vpage va.toNat, l.rgx)] (.global l.rgx 0 true) pas ((l.bound u va.toNat).getD 0)) ∧
      (∀ offs ga t ps, v = .scratch offs → (s.whoNode f e).ga = some ga → offs.length = N →
        u.windowStoreCheck (s.whoNode f e) ga offs = (t, some (.ok ps)) → exec i s = keptAt t ps .scratch offs 0) ∧
      (∀ offs ga t b, v = .scratch offs → (s.whoNode f e).ga = some ga →
        u.windowStoreCheck (s.whoNode f e) ga offs = (t, some (.error b)) →
        exec i s = .next (traps t f e b.cause (BitVec.ofNat 64 b.tval) (va :: ops))) ∧
      (∀ k rgx, v = .onchip k rgx → exec i s = .next (traps u f e 0x09 va (va :: ops))) ∧
      (∀ k rgx, v = .host k rgx → exec i s =
        if r.host then keptAt u [(vpage va.toNat, rgx)] .outside (addrs (2 ^ 51 + k) N) 0 else .next (traps u f e 0x09 va (va :: ops))) ∧
      (∀ p k rgx, v = .peer p k rgx →
        exec i s = keptAt u [(vpage va.toNat, rgx)] .outside (addrs (2 ^ 50 + p * 2 ^ 40 + k) N) 0) ∧
      (v = .wait → exec i s = .next u) ∧
      (∀ bad, v = .bad bad → exec i s = .next (traps u f e bad.cause (BitVec.ofNat 64 bad.tval) (va :: ops)))

/-- R322, R80, R132, R325, R93: a relaxed ATOM whose turn has come reads and writes its element of memory at its die as one action, after the
element's bytes in the core's first-level cache have been written back; D's producer takes the old value extended by zero; nothing else of
memory changes. A relaxed RED changes its element at once where the line's home is the fibre's die; elsewhere it is posted to the
home with its operation and operand, which performs it there (MemoryEvents); it returns nothing. -/
def Obligations.AtomicsActAtTheirPlace : Prop :=
  ∀ r ∈ atomRows ++ redRows, ∀ w64 (sc : BitVec 3) d a b c (s : State) (f : Nat) (x : Fibre) (p : PostOp) rest (o : StoreOp) rgx pa,
    atomReady s f x p rest o w64 pa → p.op = r.make w64 sc 0 d a b c → o.goal = .global rgx 0 true →
    let u := s.flushLines (coreOf f) (element w64 pa)
    u.poisoned (element w64 pa) = none →
    ∃ t y, exec (r.make w64 sc 0 d a b c) s = .next t ∧ t.fibre? f = some y ∧ y.post = rest ∧ y.stage = 0 ∧
      (r.red = false → changesElement r w64 pa p.b p.c u t ∧
        ∀ k pr, p.prod = some k → kvGet k s.fab.prods = some pr →
          kvGet k t.fab.prods = some { pr with value := some ((oldAt u (atomWidth w64) pa).setWidth 64) }) ∧
      (r.red = true → homeOf u pa = dieOf f → changesElement r w64 pa p.b 0 u t) ∧
      (r.red = true → homeOf u pa ≠ dieOf f → t.ms.mem = u.ms.mem ∧ ∃ q, t.ms.posted = u.ms.posted ++ [q] ∧
        q.src = dieOf f ∧ q.dst = homeOf u pa ∧
        q.what = .red r.code w64 pa (BitVec.ofNat 64 (p.b.toNat % 2 ^ atomWidth w64)) none)

namespace Sys2Proof.Claims

/-- The state in which an operation stands at the head of its fibre's queue, with no addition of the fibre on its way (R132). -/
def heads (s : State) (f : Nat) (x : Fibre) (p : PostOp) (rest : List PostOp) : Prop :=
  s.cur = .post f ∧ s.fibre? f = some x ∧ x.post = p :: rest ∧ s.offering (agentNode f 127) = false
/-- The node fires and its operation, with its operands, is kept for its turn after commit (R132). -/
def KeptForLater (i : Instr) (srcs : List Operand) (ds : List Dest) (barred : Bool) : Prop :=
  AwaitsSources i srcs ds ∧ (barred = true → IllegalInSeq i) ∧
  ∀ s f e n xs, s.cur = .node f e → s.inst? f = some n → n.reads srcs = .vals xs →
    (s.emulating f = false → (s.gather? (gatherOf f)).isSome → exec i s = .next (s.addPost f e n ds.head? i xs [] none)) ∧
    (barred = true → s.emulating f = true → exec i s = .next (s.nodeFault f e 0x01 ((s.firstWord f e).zeroExtend 64)
      (xs.getD 0 0) (xs.getD 1 0) (xs.getD 2 0)))
/-- A node whose check finds an offence at an address, or none and keeps its operation (R331). -/
def CheckedAndKept (i : Instr) (srcs : List Operand) (check : State → Gather → List Dword → Option (Nat × Nat))
    (book : State → State → Nat → Nat → Gather → List Dword → State) : Prop :=
  AwaitsSources i srcs [] ∧ IllegalInSeq i ∧
  ∀ s f e n g xs, s.cur = .node f e → s.inst? f = some n → n.reads srcs = .vals xs → s.emulating f = false →
    s.gather? (gatherOf f) = some g →
    (∀ c va, check s g xs = some (c, va) → exec i s = .next (traps s f e c (BitVec.ofNat 64 va) xs)) ∧
    (check s g xs = none → exec i s = .next (book s (s.addPost f e n none i xs [] none) f e g xs))
/-- The offence of a range of SPWB and SPINV: 0x0B unless it is of whole words, 0x09 unless it is empty or lies in one window. -/
def rangeOffence (s : State) (g : Gather) (xs : List Dword) : Option (Nat × Nat) :=
  let a := xs.getD 0 0
  let b := xs.getD 1 0
  if a.toNat % 4 ≠ 0 ∨ b.toNat % 4 ≠ 0 then some (0x0B, a.toNat)
  else if b = 0 ∨ (g.winRange (ctxOf s g.ctx) a.toNat b.toNat).isSome then none else some (0x09, a.toNat)
/-- The offset of an aperture address in the gather's allocation. -/
def offsetOf (s : State) (g : Gather) (a : Dword) : Nat := (a - BitVec.ofNat 64 (ctxOf s g.ctx).sb).toNat
/-- An issued operation: the engine holds it and its tag counts it (R124, R337). -/
def issued (s : State) (f tag : Nat) (kind : CopyKind) (p : PostOp) : State :=
  let u : State := { s with serial := s.serial + 1 }
  let v := u.setCopies (coreOf f) (s.copiesOf (coreOf f) ++ [⟨s.serial, gatherOf f, f, kind, tag, p.a, p.b, p.c, p.desc, p.slot0, p.prod, none⟩])
  (v.modGather (gatherOf f) fun g => g.setTag tag { g.tag tag with count := (g.tag tag).count + 1 }).popPost f
/-- It is issued once its engine holds fewer than 128 operations and its tag counts fewer than 255 (R124, R337). -/
def Issues (i : Instr) (tag : Nat) (kind : CopyKind) : Prop :=
  ∀ s f x p r g, s.cur = .post f → s.fibre? f = some x → x.post = p :: r → s.gather? (gatherOf f) = some g →
    exec i s = .next (if (s.copiesOf (coreOf f)).length < 128 ∧ (g.tag tag).count < 255 then issued s f tag kind p else s)
/-- The dwords of bytes. -/
def dwords (bs : List Byte) : List Dword := (List.range (bs.length / 8)).map fun k => BitVec.ofNat 64 (little ((bs.drop (8 * k)).take 8))
/-- A mask that names the fibre path and one that goes below the first level (R154). -/
def below (m : BitVec 7) : Bool := m.getLsbD 0 && (m.getLsbD 1 || m.getLsbD 2 || m.getLsbD 3 || m.getLsbD 6)
/-- What an acquire leaves of the first level and of the fetch caches (R87, R154, R155). -/
def acquired (s : State) (f : Nat) (scope m : BitVec 7) (rgx : List Nat) : State :=
  let u := if 2 ≤ scope.toNat ∨ below m then s.acquireDrop f rgx else s
  if m.getLsbD 6 then u.refetch (coreOf f) (s.ctxOfFibre f) else u
/-- A fence has ended: the fibre's pending release, and the records it has still to meet (R85, R142). -/
def fenced (s : State) (f : Nat) (rel : Option (List Nat)) (keep : Nat × RelRec → Bool) : State :=
  (s.modFibre f fun x => { x.withRel rel with met := x.met.filter keep }).popPost f
/-- An acquire's drain requests: one for each record that names another core than the agent's, sent to that core's die and answered
from there (R87, R94). -/
def asksDrains (s : State) (die agent : Nat) (own : Option Nat) (rs : List (Nat × RelRec)) : State :=
  let asked := rs.filter fun c => own != some c.2.core
  let t := asked.foldl (fun t c => t.sendDrain die c.2.core) s
  { t with ms := { t.ms with drains := t.ms.drains ++ asked.map fun c => ⟨agent, c.1, c.2⟩ } }
/-- A record whose incarnation is its core's (R107). -/
def fresh (s : State) (c : Nat × RelRec) : Prop := c.2.inc = s.coreInc c.2.core
/-- A region matters to a record that names no region or that one (R88). -/
def concerns (n : Nat) (c : Nat × RelRec) : Bool := c.2.rgx.isEmpty || c.2.rgx.contains n
/-- A fence of system scope waits: a CPYR or CPYP of the fibre stands on its engine, so its peer has not acknowledged it (R96, R455). -/
def awaitsPeers (s : State) (f : Nat) (sc : BitVec 7) : Prop :=
  5 ≤ sc.toNat ∧ ∃ o ∈ s.copiesOf (coreOf f), o.f = f ∧ (o.kind = .cpyr ∨ o.kind = .cpyp)
/-- The dies whose holders a FENCEX at a die drains (R180), and the state once every drain that may leave has left. -/
def drainedDies (sc : BitVec 7) (die : Nat) : List Nat := if 4 ≤ sc.toNat then List.range 8 else [die]
def shedSums (s : State) (sc : BitVec 7) (die : Nat) : State := (drainedDies sc die).foldl (fun s d => s.drainDie d) s
/-- Fence tokens go from the fibre's die on every circuit of its job's set, and the operation waits for their answers (R96). -/
def sendsTokens (s : State) (f : Nat) : State := (s.sendTokens (agentNode f 127) (s.setOf (s.jobOf f)) (dieOf f)).setStage f 1

end Sys2Proof.Claims

/-! ## Operations after commit (spec/05, spec/13, spec/14) -/

/-- R132, R313: FENCE, FENCEX, RELB, ACQB, AWAIT, RDV, EFORK, LAUNCH, CANCEL, PREF, IPREF, WANY, WALL and TAGCLR fire by being kept, in
index order, with their operands; a destination slot waits for a producer. All but the fences are illegal in an emulation (R413), and
these forms of them in sequencer code (R345), whose RDV is another. R331, R335, R110, R121: so do, after their checks, SPMAP (its limits as the model's own `winLimits` has them), SPUNMAP, SPWB, SPINV, SPCPY, SPFILL and the copies, with the reservations of SPMAP and SPUNMAP and the
descriptor that a copy reads ahead, where the core's first-level cache holds it. -/
def Obligations.PostCommitOperationsAreKept : Prop :=
  (∀ a b c, KeptForLater (.fence a b c) [] [] false) ∧ (∀ a, KeptForLater (.fencex a) [] [] false) ∧
  (∀ a b c d, KeptForLater (.relb a b c d) [] [] false) ∧ (∀ a b c, KeptForLater (.acqb a b c) [] [] false) ∧
  (∀ n, KeptForLater (.await n) [] [] true) ∧ (∀ n, KeptForLater (.rdv n) [] [] true) ∧
  (∀ d a b, KeptForLater (.efork d a b) [a, b] [d] true) ∧ (∀ d a b, KeptForLater (.launch d a b) [a, b] [d] true) ∧
  (∀ d a l, KeptForLater (.cancel d a l) [a] [d] true) ∧ (∀ a k, KeptForLater (.pref a k) [a] [] true) ∧
  (∀ a k, KeptForLater (.ipref a k) [a] [] true) ∧ (∀ d a, KeptForLater (.wany d a) [a] [d] true) ∧
  (∀ d a, KeptForLater (.wall d a) [a] [d] true) ∧ (∀ d a, KeptForLater (.tagclr d a) [a] [d] true) ∧
  (∀ (s : State) (f e : Nat) (n : Inst) (d : Option Dest) (i : Instr) (xs desc : List Dword) (at_ : Option StoreOp) (x : Fibre),
    s.fibre? f = some x →
    let t := s.addPost f e n d i xs desc at_
    ∃ m p, t.inst? f = some m ∧ m.todo = n.todo.erase e ∧ m.toks = n.toks ∧ m.stores = n.stores ∧ m.post = n.post ++ [p] ∧
      p.hdr = n.hdr ∧ p.eidx = e ∧ p.op = i ∧ p.a = xs.getD 0 0 ∧ p.b = xs.getD 1 0 ∧ p.c = xs.getD 2 0 ∧ p.desc = desc ∧ p.place = at_ ∧
      t.ms = s.ms ∧ t.fab.fibres = s.fab.fibres ∧
      (∀ k, d = some (.w k) → kvGet k.val m.slotW = some (.wait s.serial) ∧ p.prod = some s.serial ∧
        kvGet s.serial t.fab.prods = some ⟨f, x.eff.woff + k.val, none, none⟩ ∧ t.serial = s.serial + 1) ∧
      ((∀ k, d ≠ some (.w k)) → m.slotW = n.slotW ∧ p.prod = none ∧ t.fab.prods = s.fab.prods)) ∧
  (∀ a b c, CheckedAndKept (.spmap a b c) [a, b, c]
    (fun s g xs => (winLimits (ctxOf s g.ctx) g (offsetOf s g (xs.getD 0 0)) (xs.getD 1 0).toNat (xs.getD 2 0).toNat).map fun b => (b.cause, b.tval))
    (fun s t f e g xs => t.setGather (gatherOf f) { g with
      reserved := g.reserved ++ [(agentNode f e, ⟨0, (xs.getD 1 0).toNat, offsetOf s g (xs.getD 0 0), (xs.getD 2 0).toNat, false⟩)] })) ∧
  (∀ t a, CheckedAndKept (.spunmap t a) [a]
    (fun s g xs => if (g.wins.any fun w => !w.2.retiring && w.2.off == offsetOf s g (xs.getD 0 0)) = true ∧
      (g.unmaps.any fun u => u.2 == offsetOf s g (xs.getD 0 0)) = false then none else some (0x09, (xs.getD 0 0).toNat))
    (fun s t f e g xs => t.setGather (gatherOf f) { g with unmaps := g.unmaps ++ [(agentNode f e, offsetOf s g (xs.getD 0 0))] })) ∧
  (∀ t a b, CheckedAndKept (.spwb t a b) [a, b] rangeOffence fun _ t _ _ _ _ => t) ∧
  (∀ a b, CheckedAndKept (.spinv a b) [a, b] rangeOffence fun _ t _ _ _ _ => t) ∧
  (∀ t a b c, CheckedAndKept (.spcpy t a b c) [a, b, c]
    (fun s g xs => ((outsideByte (ctxOf s g.ctx) g (xs.getD 0 0).toNat (xs.getD 2 0).toNat).or
      (outsideByte (ctxOf s g.ctx) g (xs.getD 1 0).toNat (xs.getD 2 0).toNat)).map fun a => (0x09, a)) fun _ t _ _ _ _ => t) ∧
  (∀ t a b c, CheckedAndKept (.spfill t a b c) [a, b, c]
    (fun s g xs => ((List.range (((xs.getD 2 0).extractLsb' 32 16).toNat + 1)).findSome? fun i =>
      uncoveredByte (ctxOf s g.ctx) g (((xs.getD 0 0).toNat + i * ((xs.getD 2 0).extractLsb' 0 32).toNat) % 2 ^ 64) (xs.getD 1 0).toNat).map
        fun a => (0x09, a)) fun _ t _ _ _ _ => t) ∧
  (∀ (c : Instr × List Operand), (∃ t a b z, c = (.cpy t a b z, [a, b, z])) ∨ (∃ t a b, c = (.cpyr t a b, [a, b])) ∨
      (∃ t a b, c = (.cpyp t a b, [a, b])) ∨ (∃ t a b, c = (.cpyg t a b, [a, b])) →
    AwaitsSources c.1 c.2 [] ∧ IllegalInSeq c.1 ∧
    ∀ (s u : State) (f e : Nat) (n : Inst) (g : Gather) (a : Dword) xs r, s.cur = .node f e → s.inst? f = some n →
      n.reads c.2 = .vals (a :: xs) → s.emulating f = false → s.gather? (gatherOf f) = some g → n.awaitsStore e = false → n.stores = [] →
      s.resolve (s.whoNode f e) a.toNat 64 64 needR = (u, r) →
      (∀ b, r = .bad b → exec c.1 s = .next (traps u f e b.cause (BitVec.ofNat 64 b.tval) (a :: xs))) ∧
      (∀ k rgx, r = .onchip k rgx → exec c.1 s = .next (traps u f e 0x09 a (a :: xs))) ∧
      (∀ pas l bs, r = .mem pas l → nothingAhead u f pas → l.bound u a.toNat = none → holdsBytes u (coreOf f) pas bs → pas.length = 64 →
        exec c.1 s = .next (((unqueued u f e).clearFresh (agentNode f e)).addPost f e (usesPage n a.toNat l.rgx) none c.1 (a :: xs) (dwords bs) none)))

/-- R110, R111, R121, R124, R337, R331, R332, R471: what SPMAP, SPUNMAP, SPINV, the operations of a copy engine, PREF and IPREF do when their
turn comes, and what SPINV and SPUNMAP do at their instance's commit: the window stops mapping, and its bytes that hold nothing
read as zero. A PREF of a bounded line is a read at its home with q = 7 (R174). -/
def Obligations.ScratchpadOperationsAct : Prop :=
  (∀ t a b, Issues (.spwb t a b) t.toNat .spwb) ∧ (∀ t a b c, Issues (.spcpy t a b c) t.toNat .spcpy) ∧
  (∀ t a b c, Issues (.spfill t a b c) t.toNat .spfill) ∧ (∀ t a b c, Issues (.cpy t a b c) t.toNat .cpy) ∧
  (∀ t a b, Issues (.cpyr t a b) t.toNat .cpyr) ∧ (∀ t a b, Issues (.cpyp t a b) t.toNat .cpyp) ∧
  (∀ t a b, Issues (.cpyg t a b) t.toNat .cpyg) ∧
  (∀ a b c (s : State) f x p r g w rest, s.cur = .post f → s.fibre? f = some x → x.post = p :: r → s.gather? (gatherOf f) = some g →
    p.op = .spmap a b c → g.reserved = (reservedKey f p.eidx, w) :: rest → g.wins.length < 8 → x.ended = false →
    ∃ t h k y, exec (.spmap a b c) s = .next t ∧ t.fibre? f = some y ∧ y.post = r ∧ t.gather? (gatherOf f) = some h ∧
      h.reserved = rest ∧ kvGet k g.wins = none ∧ kvGet k h.wins = some { w with id := s.serial } ∧
      t.serial = s.serial + 1 ∧ (∀ j, j ≠ k → kvGet j h.wins = kvGet j g.wins) ∧
      (∀ i, w.off < 4 * i + 4 → 4 * i < w.off + w.len → kvGet i h.words = none) ∧
      (∀ i, 4 * i + 4 ≤ w.off ∨ w.off + w.len ≤ 4 * i → kvGet i h.words = kvGet i g.words) ∧ t.ms = s.ms) ∧
  (∀ t a (s : State) f x p r g off rest, s.cur = .post f → s.fibre? f = some x → x.post = p :: r → s.gather? (gatherOf f) = some g →
    (s.copiesOf (coreOf f)).length < 128 → (g.tag t.toNat).count < 255 → g.unmaps = (reservedKey f p.eidx, off) :: rest →
    x.ended = false →
    ∃ u h, exec (.spunmap t a) s = .next u ∧ u.gather? (gatherOf f) = some h ∧ h.unmaps = rest ∧ h.wins = g.wins ∧
      (h.tag t.toNat).count = (g.tag t.toNat).count + 1 ∧ ∃ o, u.copiesOf (coreOf f) = s.copiesOf (coreOf f) ++ [o] ∧ o.kind = .spunmap ∧
        o.tag = t.toNat ∧ o.a = p.a) ∧
  (∀ a b (s : State) f x p r, s.cur = .post f → s.fibre? f = some x → x.post = p :: r → exec (.spinv a b) s = .next (s.popPost f)) ∧
  (∀ (s : State) f p a b g, p.op = .spinv a b → s.gather? (gatherOf f) = some g → rangeOffence s g [p.a, p.b] = none → p.b ≠ 0 →
    ∃ h, (s.commitSpinv f [p]).gather? (gatherOf f) = some h ∧ h.wins = g.wins ∧
      ∀ i, kvGet i h.words = if 4 * i + 4 ≤ offsetOf s g p.a ∨ offsetOf s g p.a + p.b.toNat ≤ 4 * i then kvGet i g.words else none) ∧
  (∀ (s : State) f p t a g k w, p.op = .spunmap t a → s.gather? (gatherOf f) = some g → g.wins = [(k, w)] → w.retiring = false →
    w.off = offsetOf s g p.a →
    ∃ h, (s.commitUnmaps f [p]).gather? (gatherOf f) = some h ∧ h.wins = [(k, { w with retiring := true })] ∧ h.words = g.words ∧
      ∀ j < w.len / 4, ∀ b < 4, (s.commitUnmaps f [p]).spByte g.core (g.spBase + w.off + 4 * j + b) =
        if (g.word (w.off / 4 + j)).v || (g.word (w.off / 4 + j)).bm.getLsbD b then s.spByte g.core (g.spBase + w.off + 4 * j + b) else 0) ∧
  (∀ a k (s : State) f x p r, s.cur = .post f → s.fibre? f = some x → x.post = p :: r →
    exec (.pref a k) s = .next ((s.prefetch f p.a.toNat k.toNat).popPost f) ∧
    ((canonical p.a.toNat = false ∨ (ctxOf s (s.ctxOfFibre f)).inAperture p.a.toNat = true) → s.prefetch f p.a.toNat k.toNat = s) ∧
    (∀ u l, canonical p.a.toNat = true → (ctxOf s (s.ctxOfFibre f)).inAperture p.a.toNat = false →
      s.xlate (coreOf f) (s.ctxOfFibre f) p.a.toNat needR (Leaf.permits [p.a.toNat]) = (u, .ok l) → l.permits [p.a.toNat] = true →
      (placeOf u (l.pa p.a.toNat)).isMem = true → l.bound u p.a.toNat = none →
      u.ms.poison.contains (lineOf (l.pa p.a.toNat)) = false → (partOf u (coreOf f)).flush = false →
      s.prefetch f p.a.toNat k.toNat = if k.toNat = 0 then u.l1Fill (coreOf f) (lineOf (l.pa p.a.toNat)) l.rgx
        else u.share (dieOf f) (lineOf (l.pa p.a.toNat))) ∧
    (∀ u l lim, canonical p.a.toNat = true → (ctxOf s (s.ctxOfFibre f)).inAperture p.a.toNat = false →
      s.xlate (coreOf f) (s.ctxOfFibre f) p.a.toNat needR (Leaf.permits [p.a.toNat]) = (u, .ok l) → l.permits [p.a.toNat] = true →
      (placeOf s (l.pa p.a.toNat)).isMem = true → l.bound u p.a.toNat = some lim →
      u.ms.poison.contains (lineOf (l.pa p.a.toNat)) = false →
      s.prefetch f p.a.toNat k.toNat = ((u.visit (dieOf f) (lineOf (l.pa p.a.toNat))).drainTo (lineOf (l.pa p.a.toNat)) 7 lim).share
        (homeOf u (l.pa p.a.toNat)) (lineOf (l.pa p.a.toNat))) ∧
    (∀ u b, s.xlate (coreOf f) (s.ctxOfFibre f) p.a.toNat needR (Leaf.permits [p.a.toNat]) = (u, .error b) →
      s.prefetch f p.a.toNat k.toNat = s)) ∧
  (∀ a (s : State) f x p r, s.cur = .post f → s.fibre? f = some x → x.post = p :: r → p.op = .ipref a 0 →
    (s.fabric (coreOf f)).ilines = [] → (s.fabric (coreOf f)).ifills = [] → x.ended = false → ∃ t, exec (.ipref a 0) s = .next t ∧
      (t.fabric (coreOf f)).ifills = [⟨s.ctxOfFibre f, p.a.toNat / 128, false, false⟩] ∧ t.ms = s.ms)

/-- R139, R140, R154, R87, R88, R96, R107, R142, R180, R328, R329: what FENCE, RELB, ACQB and FENCEX do when their turn comes: a release
writes the core's dirty bytes back where its paths say so, or where it is sequentially consistent, line by line as far as their
circuits let it (R97), and once none is left leaves the fibre release-pending; a fence of device scope, whatever its kind, first sends a token along every circuit to the other dies; one of
system scope waits for the fibre's copies to and from peers; an acquire asks each core that a met record names to drain and ends
when all have, a request standing until the core's lines have left; a stale record is cause 0x0D, its TVAL 0 the model's choice (log entry 68), and goes from its copy; FENCEX drains
the holders of its die, or of all dies from device scope on, and ends once they keep nothing; that it ends the release-pending
state is log entry 28. -/
def Obligations.FencesReleaseAndAcquire : Prop :=
  (∀ (sc m : BitVec 7) (s : State) f x p r, heads s f x p r → x.stage = 0 → s.loadsOf f = [] → ¬ awaitsPeers s f sc →
    let agent := agentNode f 127
    let sheds (k : BitVec 7) : Prop := k ≠ 0 ∧ (below m = true ∨ (k = 3 ∧ 2 ≤ sc.toNat))
    let shed (k : BitVec 7) (rgx : List Nat) : State :=
      if k ≠ 0 ∧ (below m = true ∨ (k = 3 ∧ 2 ≤ sc.toNat)) then s.drainSome (coreOf f) rgx else s
    let holds (k : BitVec 7) (rgx : List Nat) : Prop := sheds k ∧ (shed k rgx).undrained (coreOf f) rgx = true
    let two (n n2 : BitVec 7) : List Nat := n.toNat :: (if n2.getLsbD 6 then [n2.toNat % 64] else [])
    let pending (rgx : List Nat) : Option (List Nat) := if 2 ≤ sc.toNat then some rgx else none
    (∀ k, holds k [] → exec (.fence sc m k) s = .next (shed k [])) ∧
    (∀ n n2, holds 1 (two n n2) → exec (.relb sc m n n2) s = .next (shed 1 (two n n2))) ∧
    (∀ k, 4 ≤ sc.toNat → ¬ holds k [] → exec (.fence sc m k) s = .next (sendsTokens (shed k []) f)) ∧
    (∀ n n2, 4 ≤ sc.toNat → ¬ holds 1 (two n n2) → exec (.relb sc m n n2) s = .next (sendsTokens (shed 1 (two n n2)) f)) ∧
    (∀ n, 4 ≤ sc.toNat → exec (.acqb sc m n) s = .next (sendsTokens s f)) ∧
    (sc.toNat < 4 → ¬ holds 1 [] → exec (.fence sc m 1) s = .next (fenced (shed 1 []) f (pending []) fun _ => true)) ∧
    (∀ n n2, sc.toNat < 4 → ¬ holds 1 (two n n2) → exec (.relb sc m n n2) s = .next (fenced (shed 1 (two n n2)) f (pending (two n n2)) fun _ => true)) ∧
    (∀ k, k ≠ 1 → sc.toNat < 2 → ¬ holds k [] → exec (.fence sc m k) s = .next (fenced (acquired (shed k []) f sc m []) f none fun _ => false)) ∧
    (∀ k, k ≠ 1 → 2 ≤ sc.toNat → sc.toNat < 4 → ¬ holds k [] → (∀ c ∈ x.met, fresh s c) →
      exec (.fence sc m k) s = .next ((asksDrains (shed k []) (dieOf f) agent (some (coreOf f)) x.met).setStage f 3)) ∧
    (∀ k c l, k ≠ 1 → 2 ≤ sc.toNat → sc.toNat < 4 → ¬ holds k [] → x.met = c :: l → ¬ fresh s c →
      exec (.fence sc m k) s =
        .next ((((shed k []).modFibre f fun x => { x with met := x.met.erase c }).dropMet c).postFault f 0x0D 0)) ∧
    (∀ n, sc.toNat < 2 → exec (.acqb sc m n) s = .next (fenced (acquired s f sc m [n.toNat]) f none
      fun c => !concerns n.toNat c)) ∧
    (∀ n, 2 ≤ sc.toNat → sc.toNat < 4 → (∀ c ∈ x.met, concerns n.toNat c = true → fresh s c) →
      exec (.acqb sc m n) s =
        .next ((asksDrains s (dieOf f) agent (some (coreOf f)) (x.met.filter (concerns n.toNat))).setStage f 3))) ∧
  (∀ (sc m : BitVec 7) (s : State) f x p r, heads s f x p r → x.stage = 0 → awaitsPeers s f sc →
    (∀ k, exec (.fence sc m k) s = .next s) ∧ (∀ n n2, exec (.relb sc m n n2) s = .next s) ∧ ∀ n, exec (.acqb sc m n) s = .next s) ∧
  (∀ (sc m : BitVec 7) (s : State) f x p r, heads s f x p r → x.stage = 2 → 4 ≤ sc.toNat →
    exec (.fence sc m 1) s = .next (fenced s f (some []) fun _ => true) ∧
    (∀ k, k ≠ 1 → (∀ c ∈ x.met, fresh s c) →
      exec (.fence sc m k) s = .next ((asksDrains s (dieOf f) (agentNode f 127) (some (coreOf f)) x.met).setStage f 3)) ∧
    (∀ k c l, k ≠ 1 → x.met = c :: l → ¬ fresh s c →
      exec (.fence sc m k) s = .next (((s.modFibre f fun x => { x with met := x.met.erase c }).dropMet c).postFault f 0x0D 0))) ∧
  (∀ (sc : BitVec 7) (s : State) f x p r, heads s f x p r →
    let u := shedSums s sc (dieOf f)
    (s.addsOut (agentNode f 127) (dieOf f) = true → exec (.fencex sc) s = .next s) ∧
    (s.addsOut (agentNode f 127) (dieOf f) = false → (∀ d ∈ drainedDies sc (dieOf f), u.heldLines d = []) →
      let v := if 4 ≤ sc.toNat then u.modGather (gatherOf f) fun g => { g with offered := false } else u
      exec (.fencex sc) s = .next ((v.modFibre f fun x => x.withRel none).popPost f)) ∧
    (s.addsOut (agentNode f 127) (dieOf f) = false → (∃ d ∈ drainedDies sc (dieOf f), u.heldLines d ≠ []) →
      exec (.fencex sc) s = .next u)) ∧
  (∀ (sc m k : BitVec 7) (s : State) c q, s.cur = .seq c → s.seq? c = some q → q.mats = [] → s.offering (agentSeq c) = false →
    let u := shedSums s sc (dieOfCl c)
    (q.stage = 0 → 4 ≤ sc.toNat →
      exec (.fence sc m k) s = .next ((s.sendTokens (agentSeq c) (s.setOf q.job) (dieOfCl c)).setSeq c { q with stage := 1 })) ∧
    ((q.stage = 0 ∧ sc.toNat < 4) ∨ q.stage = 2 →
      (k = 1 → exec (.fence sc m k) s = .next (s.seqDone c { q with stage := 0 } 1)) ∧
      (k ≠ 1 → (∀ r ∈ q.met, fresh s r) →
        exec (.fence sc m k) s = .next ((asksDrains s (dieOfCl c) (agentSeq c) none q.met).setSeq c { q with stage := 3 })) ∧
      (∀ r l, k ≠ 1 → q.met = r :: l → ¬ fresh s r →
        exec (.fence sc m k) s = .next (((s.setSeq c { q with met := l }).dropMet r).seqFault c 0x0D 0))) ∧
    (q.stage = 4 → exec (.fence sc m k) s =
      .next (s.seqDone c { q with stage := 0, met := [] } 1)) ∧
    (s.addsOut (agentSeq c) (dieOfCl c) = false → (∀ d ∈ drainedDies sc (dieOfCl c), u.heldLines d = []) →
      exec (.fencex sc) s = .next (u.seqDone c q 1)) ∧
    (s.addsOut (agentSeq c) (dieOfCl c) = false → (∃ d ∈ drainedDies sc (dieOfCl c), u.heldLines d ≠ []) →
      exec (.fencex sc) s = .next u)) ∧
  (∀ (s : State) i d, s.ms.drains[i]? = some d →
    (fresh s (d.copy, d.record) →
      let u := s.drainSome d.record.core d.record.rgx
      exec (.drainRequest i) s = .next (if u.undrained d.record.core d.record.rgx then u
        else ({ u with ms := { u.ms with drains := u.ms.drains.eraseIdx i } } : State).dropMet (d.copy, d.record))) ∧
    (∀ f x p r, ¬ fresh s (d.copy, d.record) → d.agent = agentNode f 127 → d.agent < 10 ^ 12 → s.fibre? f = some x → x.post = p :: r →
      p.place = none → p.prod = none →
      let u := (s.modFibre f fun y => { y with met := y.met.erase (d.copy, d.record) }).dropMet (d.copy, d.record)
      exec (.drainRequest i) s =
        .next (({ u with ms := { u.ms with drains := u.ms.drains.filter fun o => o.agent != d.agent } } : State).postFault f 0x0D 0))) ∧
  (∀ (s : State) f x p r (sc m k n : BitVec 7), s.fibre? f = some x → x.stage = 3 → s.drained (agentNode f 127) = true → x.post = p :: r →
    f < 10 ^ 12 →
    (p.op = .fence sc m k → k ≠ 1 → exec (.acquireComplete f) s =
      .next (fenced (acquired s f sc m []) f (if k ≠ 0 ∧ 2 ≤ sc.toNat then some [] else none) fun _ => false)) ∧
    (p.op = .acqb sc m n → exec (.acquireComplete f) s =
      .next (fenced (acquired s f sc m [n.toNat]) f none fun c => !concerns n.toNat c))) ∧
  (∀ (s : State) c q, s.seq? c = some q → q.stage = 3 → s.drained (agentSeq c) = true →
    exec (.acquireComplete (agentSeq c)) s = .next (s.setSeq c { q with stage := 4 })) ∧
  (∀ (s : State) i p agent, s.ms.posted[i]? = some p → p.what = .fence agent → p.sent = true → (∀ o ∈ s.ms.posted.take i, o.circ ≠ p.circ) →
    let u : State := { s with ms := { s.ms with posted := s.ms.posted.eraseIdx i } }
    let v := u.sendOn p.set p.dst p.src 2
    (s.outdated p = false → exec (.fenceTokenArrival i) s = .next { v with ms := { v.ms with
      fences := v.ms.fences.map (fun w => if w.agent = agent then { w with left := w.left - 1 } else w) } }) ∧
    (s.outdated p = true → exec (.fenceTokenArrival i) s = .next u)) ∧
  (∀ (s : State) f w, f < 10 ^ 12 → s.ms.fences = [w] → w.agent = agentNode f 127 → w.left = 0 →
    exec (.fenceComplete f) s = .next (({ s with ms := { s.ms with fences := [] } } : State).setStage f 2))

namespace Sys2Proof.Claims

/-- One bit for each tag of a gather; a tag never used counts nothing and holds no error. -/
def tagFlags (g : Gather) (p : Tag → Bool) : Dword :=
  BitVec.ofNat 64 (((List.range 64).filter fun t => p ((kvGet t g.tags).getD ⟨0, false, 0⟩)).map (2 ^ ·)).sum
/-- The copy engine has still to take an operation of a tag that a fibre of the gather has committed, held for a handler or not. -/
def tagQueued (s : State) (f t : Nat) : Bool :=
  s.fab.fibres.any fun p => gatherOf p.1 == gatherOf f && (p.2.post ++ p.2.held).any fun o => tagOf o.op == some t
/-- The same of the other fibres of the gather. -/
def tagAhead (s : State) (f t : Nat) : Bool :=
  s.fab.fibres.any fun p => gatherOf p.1 == gatherOf f && p.1 != f && (p.2.post ++ p.2.held).any fun o => tagOf o.op == some t
/-- DONE of R125, as TAGS, FFR and RDSR read it: an operation counts from the commit of its instance (R124; log entry 85). -/
def doneTags (s : State) (f : Nat) (g : Gather) : Dword :=
  BitVec.ofNat 64 (((List.range 64).filter fun t => ((kvGet t g.tags).getD ⟨0, false, 0⟩).count == 0 && !tagQueued s f t).map (2 ^ ·)).sum
/-- DONE as a WANY or WALL of f reads it at its turn: its own fibre's earlier operations are issued by then (R337; log entry 85). -/
def takenTags (s : State) (f : Nat) (g : Gather) : Dword :=
  BitVec.ofNat 64 (((List.range 64).filter fun t => ((kvGet t g.tags).getD ⟨0, false, 0⟩).count == 0 && !tagAhead s f t).map (2 ^ ·)).sum
/-- What RDSR reads in a fibre that is in no emulation (R373). -/
def registerValue (s : State) (f : Nat) (x : Fibre) (g : Gather) (n : Nat) : Dword :=
  let flags (p : Tag → Bool) : Dword := tagFlags g p
  match n with
  | 0 => BitVec.ofNat 64 s.clock
  | 1 => x.fsp
  | 2 => BitVec.ofNat 64 g.wsize
  | 3 => x.trap.cause
  | 4 => x.trap.epc
  | 5 => x.trap.eidx
  | 6 => x.trap.tval
  | 7 => x.trap.topa
  | 8 => x.trap.topb
  | 9 => x.trap.topc
  | 10 => x.thnd
  | 11 => doneTags s f g
  | 12 => flags fun t => t.err
  | 13 => BitVec.ofNat 64 g.gid
  | 14 => BitVec.ofNat 64 g.lid
  | 15 => ((s.launch? g.lid).map fun l => BitVec.ofNat 64 l.job).getD 0
  | 16 => ((s.launch? g.lid).map fun l => BitVec.ofNat 64 l.prio).getD 0
  | 17 => x.emul
  | 18 => s.mg.power.word
  | 19 => BitVec.ofNat 64 (dieOf f)
  | 20 => BitVec.ofNat 64 (coreOf f / 4 % 20)
  | _ => BitVec.ofNat 64 (coreOf f % 4)
/-- The registers that sequencer code may read (R345), and their values. -/
def seqRegisterValue (s : State) (c : Nat) (q : Seq) (n : Nat) : Option Dword :=
  match n with
  | 0 => some (BitVec.ofNat 64 s.clock)
  | 14 => some (BitVec.ofNat 64 q.lid)
  | 15 => some (BitVec.ofNat 64 q.job)
  | 16 => some (((s.launch? q.lid).map fun l => BitVec.ofNat 64 l.prio).getD 0)
  | 18 => some s.mg.power.word
  | 19 => some (BitVec.ofNat 64 (c / 20))
  | 20 => some (BitVec.ofNat 64 (c % 20))
  | 21 => some 0
  | _ => none
/-- ERR of R340. -/
def errTags (g : Gather) : Dword := tagFlags g fun t => t.err
/-- Index of the lowest bit that is set, or 64. -/
def lowestBit (x : Dword) : Nat := ((List.range 64).find? fun k => x.getLsbD k).getD 64
/-- The operation is done with a status or value: its producer, if it has one, takes it, and the next one stands at the head. -/
def finished (s : State) (f : Nat) (p : PostOp) (v : Dword) : State :=
  (match p.prod with
   | some k => s.modProd k fun pr => { pr with value := some v }
   | none => s).popPost f
/-- A node arrives in the present phase of a barrier x without completing it (R227, R268). -/
def arrives (s : State) (f e b : Nat) (g : Gather) (n : Inst) (x : Barrier) (waits : Bool) : State :=
  (s.setGather (gatherOf f) (g.setBar b { x with arr := x.arr ++ [fiOf f], na := x.na + 1 })).setInst f
    { (if waits then n else n.done e) with bars := n.bars ++ [(e, b, x.phase)] }
/-- A node of BAR or ARRIVE may arrive now: no memory node before it, no operation of an earlier instance, no arrival of its own
yet, no retry note (R228, R229, R268, R270). -/
def mayArrive (s : State) (f e b : Nat) (x : Fibre) (n : Inst) (g : Gather) : Prop :=
  s.cur = .node f e ∧ s.fibre? f = some x ∧ s.inst? f = some n ∧ s.gather? (gatherOf f) = some g ∧ s.emulating f = false ∧
  n.memBefore e = false ∧ n.bars = [] ∧ x.notes = [] ∧ x.report = none ∧ x.stop = false ∧ s.loadsOf f = [] ∧ s.memPending f = false ∧ fiOf f ∉ (g.bar b).arr ∧ fiOf f ∉ (g.bar b).held

end Sys2Proof.Claims

/-! ## System values, tags, and work between fibres (spec/10, spec/14, spec/16) -/

/-- R373, R377 to R380, R341, R125, R340, R313: the values of RDSR, CLOCK and PERFC in both codes, NOP, and FFR, TAGS, WANY, WALL and
TAGCLR. An operation counts from the commit of its instance (R124): TAGS, FFR and RDSR count every one that its engine has still to
take, WANY and WALL those of the other fibres, their own fibre's being issued by their turn (R337; log entry 85). -/
def Obligations.SystemValues : Prop :=
  (∀ d (n : BitVec 7) (s : State) (f e : Nat) (i : Inst) x g, n.toNat < 22 → s.cur = .node f e → s.inst? f = some i → s.fibre? f = some x →
    s.gather? (gatherOf f) = some g → x.shadow = none →
    exec (.rdsr d n) s = .next (s.setInst f (i.fire e d (registerValue s f x g n.toNat)))) ∧
  (∀ d (n : BitVec 7), InSeq (.rdsr d n) (fun s c q => (seqRegisterValue s c q n.toNat).isSome)
    fun s c q => s.setSeq c ((q.put d ((seqRegisterValue s c q n.toNat).getD 0)).past 1)) ∧
  (∀ d (n : BitVec 7), InSeq (.rdsr d n) (fun s c q => seqRegisterValue s c q n.toNat = none)
    fun s c _ => s.seqFault c 0x01 ((s.seqWordAt c).zeroExtend 64)) ∧
  (∀ d a, AwaitsSources (.clock d a) [a] [d] ∧
    FiresAlways (.clock d a) [a] (fun s f e n _ => s.setInst f (n.fire e d (BitVec.ofNat 64 s.clock))) ∧
    InSeqAlways (.clock d a) fun s c q => s.setSeq c ((q.put d (BitVec.ofNat 64 s.clock)).past (1 + litCount [a]))) ∧
  (∀ d (k : BitVec 7), FiresAlways (.perfc d k) [] (fun s f e n _ =>
      s.setInst f (n.fire e d (BitVec.ofNat 64 ((kvGet (perfKey (coreOf f) (s.ctxOfFibre f) k.toNat) s.fab.perf).getD 0)))) ∧
    InSeqAlways (.perfc d k) fun s c q =>
      s.setSeq c ((q.put d (BitVec.ofNat 64 ((kvGet (perfKey (1000 + c) q.ctx k.toNat) s.fab.perf).getD 0))).past 1)) ∧
  FiresAlways .nop [] (fun s f e n _ => s.setInst f (n.done e)) ∧ InSeqAlways .nop (fun s c q => s.setSeq c (q.past 1)) ∧
  (∀ d a, AwaitsSources (.ffr d a) [a] [d] ∧ AwaitsSources (.tags d) [] [d] ∧
    ∀ (s : State) (f e : Nat) (n : Inst) g, s.cur = .node f e → s.inst? f = some n → s.gather? (gatherOf f) = some g → s.emulating f = false →
      exec (.tags d) s = .next (s.setInst f (n.fire e d (doneTags s f g))) ∧
      ∀ v, n.reads [a] = .vals [v] → exec (.ffr d a) s = .next (s.setInst f (n.fire e d (BitVec.ofNat 64 (lowestBit (doneTags s f g &&& v)))))) ∧
  (∀ d a (s : State) f x p r, s.cur = .post f → s.fibre? f = some x → x.post = p :: r → s.offering (agentNode f 127) = true →
    (s.gather? (gatherOf f)).isSome → exec (.wany d a) s = .next s ∧ exec (.wall d a) s = .next s) ∧
  (∀ d a (s : State) f x p r g, heads s f x p r → s.gather? (gatherOf f) = some g →
    let same : State := s.setGather (gatherOf f) g
    (p.a = 0 → exec (.wany d a) s = .next (finished same f p 0)) ∧
    (p.a ≠ 0 → takenTags s f g &&& p.a = 0 → exec (.wany d a) s = .next s) ∧
    (takenTags s f g &&& p.a ≠ 0 → exec (.wany d a) s = .next (finished same f p (takenTags s f g &&& p.a))) ∧
    (takenTags s f g &&& p.a = p.a → exec (.wall d a) s = .next (finished same f p (errTags g &&& p.a))) ∧
    (takenTags s f g &&& p.a ≠ p.a → exec (.wall d a) s = .next s)) ∧
  (∀ d a (s : State) f x p r g, s.cur = .post f → s.fibre? f = some x → x.post = p :: r → s.gather? (gatherOf f) = some g →
    ∃ h, exec (.tagclr d a) s = .next (finished (s.setGather (gatherOf f) h) f p
        (if lowestBit (errTags g &&& p.a) < 64 then (g.tag (lowestBit (errTags g &&& p.a))).record else 0)) ∧
      ∀ t, h.tag t = if t < 64 ∧ p.a.getLsbD t then { g.tag t with err := false, record := 0 } else g.tag t)

/-- A launch's programs start no more: it has been cancelled, though not by a checkpoint, or killed (R404, R419). -/
def startsNone (s : State) (f : Nat) : Prop :=
  ∃ g l, s.gather? (gatherOf f) = some g ∧ s.launch? g.lid = some l ∧ ((l.cancelled = true ∧ l.checkpoint = false) ∨ l.killed = true)
/-- The gather that each core is bound to after a rendezvous takes some fibres: the oldest one's, if one was taken (R349). -/
def boundAfter (s : State) (taken : List Nat) (old : Option Nat) (core : Nat) : Option Nat :=
  match taken.filter fun f => coreOf f % 4 == core with
  | f :: _ => (match s.gather? (gatherOf f) with
    | some g => some g.gid
    | none => old)
  | [] => old

/-- R227, R268, R269, R276, R277, R342, R275, R278, R404: barriers, AWAIT, EFORK and the start of a sequencer's program, RDV on both sides,
LAUNCH with each of its statuses and what an accepted one puts in the dispatcher, and CANCEL of each level. An EFORK, an RDV and a LAUNCH
wait for the lines of their core that their circuits hold back (R97). The model's choices in it: AWAIT waits for an arrival that is held back as for one that has come (log
entry 22); LAUNCH writes its core's lines back before its tokens go (log entry 36); CANCEL of a launch that has completed answers 1
whichever job it was of (log entry 48); EFORK of a launch that starts no program any more answers 1 (log entry 92). -/
def Obligations.FibresWorkTogether : Prop :=
  (∀ (b : BitVec 7) (s : State) f e x n g, mayArrive s f e b.toNat x n g → let z := g.bar b.toNat
    (z.na + 1 < (s.liveFibres (gatherOf f)).length →
      exec (.bar b) s = .next (arrives s f e b.toNat g n z true) ∧ exec (.arrive b) s = .next (arrives s f e b.toNat g n z false)) ∧
    ((s.liveFibres (gatherOf f)).length ≤ z.na + 1 → z.held = [] → z.nh = 0 →
      ∀ i : Instr, i = .bar b ∨ i = .arrive b → ∃ t m h, exec i s = .next t ∧ t.inst? f = some m ∧ (n.todo.Nodup → e ∉ m.todo) ∧
        t.gather? (gatherOf f) = some h ∧ h.bar b.toNat = ⟨!z.phase, [], [], 0, 0⟩ ∧
        ∀ k j, k ≠ f → gatherOf k = gatherOf f → s.inst? k = some j → ∃ y, t.inst? k = some y ∧
          y.todo = j.todo.filter fun e => !(j.bars.any fun w => w.1 == e && w.2.1 == b.toNat && w.2.2 == z.phase))) ∧
  (∀ (b : BitVec 7) (s : State) f x p r g, heads s f x p r → s.gather? (gatherOf f) = some g →
    exec (.await b) s = .next (if x.orphans = 0 ∧ (fiOf f ∈ (g.bar b.toNat).arr ∨ fiOf f ∈ (g.bar b.toNat).held) then s else s.popPost f)) ∧
  (∀ d a b (s : State) f x p r g q, heads s f x p r → s.gather? (gatherOf f) = some g → s.loadsOf f = [] →
    s.seq? (coreOf f / 4) = some q →
    (8 ≤ q.startq.length ∨ startsNone s f → exec (.efork d a b) s = .next (finished s f p 1)) ∧
    (q.startq.length < 8 → ¬ startsNone s f → let u := s.drainSome (coreOf f) []
      exec (.efork d a b) s = .next (if u.undrained (coreOf f) [] then u else finished (u.setSeq (coreOf f / 4)
        { q with startq := q.startq ++ [⟨p.a, p.b, g.lid, s.jobOf f, g.ctx, coreOf f % 4, g.gid⟩] }) f p 0))) ∧
  (∀ (s : State) c q z r, s.seq? c = some q → q.startq = z :: r →
    ((q.run = true ∨ (ctxOf s z.ctx).en = false) → exec (.sequencerProgramStart c) s = .next s) ∧
    (q.run = false → q.mats = [] → s.saving z.lid = false → (ctxOf s z.ctx).en = true →
      ∃ t y, exec (.sequencerProgramStart c) s = .next t ∧ t.seq? c = some y ∧ y.run = true ∧ y.pc = z.addr ∧ y.regs = [(64, z.arg)] ∧
        y.stack = [] ∧ y.lid = z.lid ∧ y.job = z.job ∧ y.ctx = z.ctx ∧ y.startq = r ∧ y.stage = 0 ∧ y.stop = false ∧ y.rdv = q.rdv ∧
        t.ms = s.ms)) ∧
  (∀ (k : BitVec 7) (s : State) f x p r q, heads s f x p r → s.loadsOf f = [] → x.stage = 0 → s.seq? (coreOf f / 4) = some q →
    let l := (kvGet k.toNat q.rdv).getD []
    (l.length < 1024 → let u := s.drainSome (coreOf f) []
      exec (.rdv k) s = .next (if u.undrained (coreOf f) [] then u else
        (u.setSeq (coreOf f / 4) { q with rdv := kvSet k.toNat (l ++ [f]) q.rdv }).setStage f 5)) ∧
    (1024 ≤ l.length → exec (.rdv k) s = .next s)) ∧
  (∀ a (k : BitVec 7) (s : State) c q, s.cur = .seq c → s.seq? c = some q → q.mats = [] → s.offering (agentSeq c) = false →
    let l := (kvGet k.toNat q.rdv).getD []
    let mine := l.filter fun f => (s.gather? (gatherOf f)).any fun g => g.lid == q.lid
    (1024 < (q.read a).toNat → exec (.sequencerRdv a k) s = .next (s.seqFault c 0x01 ((s.seqWordAt c).zeroExtend 64))) ∧
    ((q.read a).toNat ≤ 1024 → mine.length < (q.read a).toNat → exec (.sequencerRdv a k) s = .next (s.setSeq c { q with stall := 3 })) ∧
    ((q.read a).toNat ≤ 1024 → (q.read a).toNat ≤ mine.length → let taken := mine.take (q.read a).toNat
      ∃ y, exec (.sequencerRdv a k) s = .next (taken.foldl (fun u f => (u.acquireDrop f []).popPost f) (s.setSeq c y)) ∧
        y.pc = q.pc + BitVec.ofNat 64 (4 * (1 + litCount [a])) ∧ kvGet k.toNat y.rdv = some (l.filter fun j => !taken.contains j) ∧
        (∀ core < 4, kvGet core y.binds = boundAfter s taken (kvGet core q.binds) core) ∧ y.mats = q.mats ∧ y.regs = q.regs)) ∧
  (∀ d a b (s : State) f x p r, heads s f x p r →
    (x.stage = 0 → s.loadsOf f = [] → let u := s.drainSome (coreOf f) []
      exec (.launch d a b) s = .next (if u.undrained (coreOf f) [] then u else
        (u.sendTokens (agentNode f 127) (u.setOf (u.jobOf f)) (dieOf f)).setStage f 1)) ∧
    (x.stage = 1 → exec (.launch d a b) s = .next s) ∧
    (x.stage = 2 → p.a.toNat % 64 ≠ 0 → exec (.launch d a b) s = .next (finished s f p 3)) ∧
    (x.stage = 2 → p.a.toNat % 64 = 0 → 2048 ≤ p.b.toNat → exec (.launch d a b) s = .next (finished s f p 2)) ∧
    (x.stage = 2 → ∃ t st, exec (.launch d a b) s = .next (finished t f p (BitVec.ofNat 64 st)) ∧ st ≤ 4) ∧
    (x.stage = 2 → p.a.toNat % 64 = 0 → p.b.toNat < 2048 → let z := s.queue p.b.toNat
      ((z.job ≠ s.jobOf f ∨ z.en = false) → exec (.launch d a b) s = .next (finished s f p 2)) ∧
      ∀ (u : State) v, z.job = s.jobOf f → z.en = true →
        s.readVirt (coreOf f) (dieOf f) (s.ctxOfFibre f) p.a.toNat 64 = (u, v) →
        (∀ e, v = .error e → exec (.launch d a b) s = .next (finished u f p 4)) ∧
        ∀ bs, v = .ok bs → let c := dwordsOf bs
          (recBad c = true → exec (.launch d a b) s = .next (finished u f p 3)) ∧
          ∀ (w : State) y, recBad c = false → u.readRanges (coreOf f) (dieOf f) (s.ctxOfFibre f) c = (w, y) →
            (∀ st, y = .error st → exec (.launch d a b) s = .next (finished w f p (BitVec.ofNat 64 st))) ∧
            (∀ rng, y = .ok rng → z.size ≤ z.count → exec (.launch d a b) s = .next (finished w f p 1)) ∧
            (∀ rng, y = .ok rng → z.count < z.size →
              let now := (upto z.count).foldl (fun s _ => s.takeRecord p.b.toNat) w
              ∃ t l, exec (.launch d a b) s = .next (finished t f p 0) ∧
                t.launch? (now.freeLid now.disp.launches.length now.disp.nextLid) = some l ∧ t.disp.nextOrder = now.disp.nextOrder + 1 ∧
                l.order = now.disp.nextOrder ∧ l.queue = p.b.toNat ∧ l.job = (now.queue p.b.toNat).job ∧ l.code = c.getD 0 0 ∧
                l.karg = c.getD 2 0 ∧ l.fspBase = c.getD 3 0 ∧ l.ngath = recNgath c ∧ l.crec = recCrec c ∧
                l.prio = ((now.queue p.b.toNat).d1.extractLsb' 32 16).toNat ∧ l.byHost = false ∧
                l.reads = rng.map (·.1) ∧ l.writes = rng.map (·.2)))) ∧
  (∀ d a (l : BitVec 7) (s : State) f x p r g, heads s f x p r → s.gather? (gatherOf f) = some g →
    (l = 0 → s.launch? (p.a.toNat % 2 ^ 32) = none → exec (.cancel d a l) s = .next (finished s f p 1)) ∧
    (∀ z, l = 0 → s.launch? (p.a.toNat % 2 ^ 32) = some z → (z.st = .complete ∨ s.spent (p.a.toNat % 2 ^ 32) z = true) →
      exec (.cancel d a l) s = .next (finished s f p 1)) ∧
    (∀ z, l = 0 → s.launch? (p.a.toNat % 2 ^ 32) = some z → z.st ≠ .complete → s.spent (p.a.toNat % 2 ^ 32) z = false → z.job ≠ s.jobOf f →
      exec (.cancel d a l) s = .next (finished s f p 2)) ∧
    (∀ z, l = 0 → s.launch? (p.a.toNat % 2 ^ 32) = some z → z.st ≠ .complete → s.spent (p.a.toNat % 2 ^ 32) z = false → z.job = s.jobOf f →
      exec (.cancel d a l) s = .next (((finished s f p 0).cancelNow (p.a.toNat % 2 ^ 32) (BitVec.ofNat 64 g.lid)).progress)) ∧
    (∀ ph : Bool, l = (if ph then 2 else 1) → let n := p.a.toNat % 2 ^ (if ph then 16 else 32)
      let there := s.disp.groups.filter fun z => z.2.job == s.jobOf f && z.2.number == n && z.2.isPhase == ph && !z.2.done
      (there = [] → exec (.cancel d a l) s = .next (finished s f p 1)) ∧
      (∀ k z, there = [(k, z)] → kvGet k s.disp.groups = some z →
        let left := fun t : State => t.disp.launches.filter fun y => (if ph then y.2.phaseId else y.2.graphId) == k && y.2.st != .complete
        (z.open_ = true ∨ (ph = false ∧ ∃ y ∈ left s, s.spent y.1 y.2 = false) → ∃ u : State, exec (.cancel d a l) s = .next u.progress ∧
          u = (left (finished s f p 0)).foldl (fun u y => u.cancelNow y.1 (BitVec.ofNat 64 g.lid)) { (finished s f p 0) with disp := {
            (finished s f p 0).disp with groups := kvMod k (fun z => { z with cancelled := true, info := g.lid }) (finished s f p 0).disp.groups } }) ∧
        (ph = false → z.open_ = false → (∀ y ∈ left s, s.spent y.1 y.2 = true) → exec (.cancel d a l) s = .next (finished s f p 1)))) ∧
    (l = 3 → p.a.toNat % 2 ^ 16 ≠ s.jobOf f → exec (.cancel d a l) s = .next (finished s f p 2)) ∧
    (l = 3 → p.a.toNat % 2 ^ 16 = s.jobOf f → let u := finished s f p 0
      let shut : State := { u with disp := { u.disp with
        queues := kvMap (fun _ q => if q.job == s.jobOf f then { q with d1 := q.d1 &&& ~~~1#64 } else q) u.disp.queues } }
      exec (.cancel d a l) s = .next ((shut.disp.launches.filter fun y => y.2.job == s.jobOf f && y.2.st != .complete).foldl
        (fun u y => u.cancelNow y.1 (BitVec.ofNat 64 g.lid)) shut).progress))

namespace Sys2Proof.Claims

/-- Sequencer code stands at the instruction. -/
def atSeq (s : State) (c : Nat) (q : Seq) : Prop := s.cur = .seq c ∧ s.seq? c = some q
/-- The program may use the tile (R356). -/
def usable (s : State) (c id : Nat) (q : Seq) : Prop :=
  ((s.own? c id).st = .active ∨ (s.own? c id).st = .pinned) ∧ (s.own? c id).launch = q.lid
/-- The instruction is issued: the sequencer goes past its words, and its engines hold it with what it has read (R350, R357). -/
def Issued (s : State) (c : Nat) (q : Seq) (i : Instr) (words : Nat) (m : MatOp) : Prop :=
  ∃ t y, exec i s = .next t ∧ t.seq? c = some y ∧ y.mats = q.mats ++ [m] ∧ y.pc = q.pc + BitVec.ofNat 64 (4 * words) ∧
    y.regs = q.regs ∧ y.run = q.run ∧ t.ms.mem = s.ms.mem ∧ t.mat.tiles = s.mat.tiles
/-- Every engine named has room and no instruction issued before touches these ranges (R357). -/
def room (q : Seq) (engines : List Nat) (reads writes : List Span) : Prop :=
  (∀ e ∈ engines, (q.mats.filter fun m => m.engines.contains e).length < 8) ∧ ∀ m ∈ q.mats, m.hazard reads writes = false
/-- No window word is among the ranges, so that none has to be filled and no page checked (R350, R476). -/
def plain (s : State) (ps : List Span) : Prop := ∀ p ∈ ps, ∀ w ∈ s.spanWords p, ∀ g, s.gather? w.1 = some g → g.winAt (4 * w.2) = none
/-- Element (i, j) of a tile. -/
def tileAt (s : State) (c id i j : Nat) : Word := (kvGet ((32 * c + id) * 16384 + 128 * i + j) s.mat.tiles).getD 0
/-- The tile takes new elements and becomes dirty; every other tile is as it was. -/
def tileTakes (s t : State) (c id : Nat) (el : Nat → Nat → Word) (tokens : Dword) : Prop :=
  (∀ i < 128, ∀ j < 128, tileAt t c id i j = el i j) ∧ (t.own? c id).dirty = true ∧ (t.own? c id).tokens = tokens ∧
  (t.own? c id).st = (s.own? c id).st ∧
  ∀ k e, e < 16384 → k ≠ 32 * c + id → kvGet (k * 16384 + e) t.mat.tiles = kvGet (k * 16384 + e) s.mat.tiles
/-- A launch has been cancelled, though not by a checkpoint, or killed (R404, R419). -/
def stopped (s : State) (lid : Nat) : Prop :=
  ∃ l, s.launch? lid = some l ∧ ((l.cancelled = true ∧ l.checkpoint = false) ∨ l.killed = true)
/-- Operation m is the oldest that the cluster's engines hold, and MAT_COMPLETE takes it. -/
def completes (s t : State) (c : Nat) (q : Seq) (m : MatOp) (rest : List MatOp) : Prop :=
  s.seq? c = some q ∧ q.mats = m :: rest ∧ exec (.matComplete c 0) s = .next t ∧ t.seq? c = some { q with mats := rest }
/-- Element k of a stored row of elements of w bits (R189). -/
def code (w : Nat) (bs : List Byte) (k : Nat) : Nat := little bs / 2 ^ (w * k) % 2 ^ w
/-- The largest exponent among the numbers of a group that are not zero (R200). -/
def topOf (ps : List FV) : Int := (((ps.map fun p => |real p.dy|).filter (· ≠ 0)).map fun q => Int.log 2 q).max?.getD 0
/-- A product in units of 2^(e − 26), cut toward zero. -/
def cutTo (e : Int) (p : FV) : Int :=
  let n : Int := (|real p.dy| * (2 : Rat) ^ (26 - e)).floor
  if real p.dy < 0 then -n else n
/-- G of R200: what a group of sixteen products comes to. -/
def groupOf (ps : List FV) : FV :=
  if ps.any FV.isNan || (ps.contains (.inf true) && ps.contains (.inf false)) then .nan
  else if ps.contains (.inf true) then .inf true
  else if ps.contains (.inf false) then .inf false
  else if ps.all fun p => real p.dy = 0 then .fin (ps.all FV.negative) 0 0
  else
    let n := (ps.map (cutTo (topOf ps))).sum
    f32 (toF32 (.fin (decide (n < 0)) n.natAbs (topOf ps - 26)))
/-- The accumulator after all groups of sixteen, in order of k (R200). -/
def dotOf (acc : Word) (ps : List FV) : Word :=
  (List.range (ps.length / 16)).foldl (fun acc g => toF32 ((f32 acc).add (groupOf ((ps.drop (16 * g)).take 16)))) acc
/-- K of a format (R352). -/
def depth (fmt : Nat) : Nat := if fmt = 2 ∨ fmt = 3 then 128 else if fmt = 7 ∨ fmt = 12 then 512 else 256
/-- Element k of a stored row of a format of the float group (R185, R190, R191), its block scale apart. -/
def floatAt (fmt : Nat) (bs : List Byte) (k : Nat) : FV := match fmt with
  | 2 => fp16.decode (code 16 bs k)
  | 3 => Sys2Proof.Machine.bf16.decode (code 16 bs k)
  | 4 => e4m3.decode (code 8 bs k)
  | 5 => e5m2.decode (code 8 bs k)
  | 8 => e4m3.decode (code 8 bs k)
  | 9 => e5m2.decode (code 8 bs k)
  | 10 => e3m2.decode (code 6 bs k)
  | 11 => e2m3.decode (code 6 bs k)
  | 12 => e2m1.decode (code 4 bs k)
  | 13 => let x := (BitVec.ofNat 8 (code 8 bs k)).toInt; .fin (decide (x < 0)) x.natAbs (-6)
  | _ =>
    let b := (bs.drop (k / 64 * 17)).take 17
    let x := coordinate (code 16 b (k % 64 / 8)) (k % 8)
    (e4m3.decode (b.getD 16 0).toNat).mul (.fin (decide (x < 0)) x.natAbs (-2))
/-- Whether a format has block scales, one for each 32 consecutive k (R353). -/
def hasScales (fmt : Nat) : Prop := 8 ≤ fmt ∧ fmt ≤ 13
/-- Element k of vector i of an operand (R352, R353): of row i where k runs along the stored rows, else of column i. -/
def floatOf (m : MatData) (i k : Nat) : FV :=
  let x := if m.along then floatAt m.fmt (m.rows.getD i []) k else floatAt m.fmt (m.rows.getD k []) i
  let y := if m.along then (m.scales.getD i []).getD (k / 32) 0 else (m.scales.getD (k / 32) []).getD i 0
  if 8 ≤ m.fmt ∧ m.fmt ≤ 13 then (e8m0 y.toNat).mul x else x
/-- The same of an operand of the integer group (R202). -/
def intOf (m : MatData) (i k : Nat) : Int :=
  let w := if m.fmt = 7 then 4 else 8
  let x := if m.along then code w (m.rows.getD i []) k else code w (m.rows.getD k []) i
  (BitVec.ofNat w x).toInt
/-- An operand as it is stored: its rows, and for a scaled format its scales (R352, R353). -/
def shaped (m : MatData) : Prop :=
  m.rows.length = (if m.along then 128 else depth m.fmt) ∧ (m.fmt = 14 → m.along = true) ∧
  (hasScales m.fmt → m.scales.length = if m.along then 128 else depth m.fmt / 32)
/-- An FP32 value of a BF16 element. -/
def asFp32 (bs : List Byte) (k : Nat) : FV := f32 (toF32 (Sys2Proof.Machine.bf16.decode (code 16 bs k)))
/-- A result rounded to FP32, as a value. -/
def rne32 (v : FV) : FV := f32 (toF32 v)
/-- S·x of R364, row i. -/
def timesRow (el : Nat → Nat → Word) (x : Nat → FV) (i : Nat) : Word := dotOf 0 ((List.range 128).map fun j => (f32 (el i j)).mul (x j))
/-- The state tile after a token's record (R364). -/
def deltaTile (el : Nat → Nat → Word) (rec : List Byte) (i j : Nat) : Word :=
  let al := f32 (BitVec.ofNat 32 (little ((rec.drop 768).take 4)))
  let be := f32 (BitVec.ofNat 32 (little ((rec.drop 772).take 4)))
  let u := f32 (timesRow el (asFp32 rec) i)
  let e := rne32 (be.mul (rne32 ((asFp32 (rec.drop 256) i).sub (rne32 (al.mul u)))))
  toF32 ((al.mul (f32 (el i j))).add (e.mul (asFp32 rec j)))
/-- A token's readout: of the tile after its update, or before it (R363, R364). -/
def deltaOut (after_ : Bool) (el : Nat → Nat → Word) (rec : List Byte) (i : Nat) : Word :=
  timesRow (if after_ then deltaTile el rec else el) (asFp32 (rec.drop 512)) i
/-- Row t of MSCAN (R365): h_t, out of h before the first row. -/
def scanned (xs : List (List Byte)) (el : Nat → Nat → Word) (h : Nat → Word) : Nat → Nat → Word
  | 0, j => toF32 (((asFp32 (xs.getD 0 []) j).mul (f32 (h j))).add (f32 (el 0 j)))
  | t + 1, j => toF32 (((asFp32 (xs.getD (t + 1) []) j).mul (f32 (scanned xs el h t j))).add (f32 (el (t + 1) j)))
/-- Bytes of an element that MOUT or MLDA moves (R366). -/
def moved (x : Nat) : Nat := if x ≤ 1 then 4 else if x ≤ 3 then 2 else 1
/-- What MOUT stores for an element of a tile (R366, R193, R194). -/
def storedCode (int : Bool) (x : Nat) (w : Word) : Nat :=
  let v : FV := if int then .ofInt w.toInt else f32 w
  match x with
  | 0 => w.toNat
  | 1 => if int then (toF32 v).toNat else w.toNat
  | 2 => fp16.round .rne v
  | 3 => Sys2Proof.Machine.bf16.round .rne v
  | 4 => e4m3.round .rne v
  | 5 => e5m2.round .rne v
  | _ => (BitVec.ofInt 8 (match v with
      | .nan => 0
      | .inf neg => if neg then -128 else 127
      | .fin neg m e =>
        let n : Int := wholeRounded .rne neg (magnitude m e)
        max (-128) (min 127 (if neg then -n else n)))).toNat
/-- The value that MLDA forms of a stored element (R366). -/
def loadedWord (x c : Nat) : Word :=
  if x = 2 then toF32 (fp16.decode c) else if x = 3 then toF32 (Sys2Proof.Machine.bf16.decode c) else BitVec.ofNat 32 c
/-- Spans that lie apart, each in one gather's allocation on its core. -/
def apart (s : State) (ps : List Span) : Prop :=
  (∀ p ∈ ps, p.2.1 + p.2.2 ≤ 2 ^ 21 ∧ ∃ g ga, s.gather? g = some ga ∧ ∀ k < p.2.2, s.gatherAt p.1 (p.2.1 + k) = some (g, ga)) ∧
  ps.Pairwise fun p r => p.1 ≠ r.1 ∨ p.2.1 + p.2.2 ≤ r.2.1 ∨ r.2.1 + r.2.2 ≤ p.2.1
/-- A span's bytes. -/
def spanHolds (t : State) (p : Span) (bs : List Byte) : Prop := ∀ k < p.2.2, t.spByte p.1 (p.2.1 + k) = bs.getD k 0
/-- Elements of n bytes each, one after the other. -/
def rowOf (n : Nat) (el : Nat → Nat) : List Byte :=
  (List.range 128).flatMap fun j => (List.range n).map fun k => BitVec.ofNat 8 (el j / 256 ^ k)
/-- A tile's state changes, and no other entry. -/
def owns (s : State) (c id : Nat) (o : Own) : State := s.setOwn c id o
/-- The value that names a tile (R359): its fault where it is above 31. -/
def NamesTile (i : Operand → Instr) : Prop :=
  ∀ a (s : State) c q, atSeq s c q → 32 ≤ (q.read a).toNat → exec (i a) s = .next (s.seqFault c 0x01 (q.read a))

end Sys2Proof.Claims

/-! ## The matrix engines (spec/15) -/

/-- R348 to R372: a MAT instruction of sequencer code whose checks pass is issued, and waits while its engine's queue is full; a tile
that is not the program's faults with cause 0x14. What MZERO, MLDA, MMA of every format (R200 to R202), MDELTA (R364), MSCAN (R365)
and MOUT (R366) leave as they complete, given the bytes read: MDELTA's and MOUT's stores where they lie apart; where the launch has been
cancelled or killed, its tiles change as the last of its cluster completes (R355, R404). MPIN, MUNPIN, MSPILL,
MFILL, MWAIT and MOWN. That an instruction's operands are read as it is issued, and an MDELTA's records as it completes, is the
model's choice (log entry 37). -/
def Obligations.MatrixInstructions : Prop :=
  NamesTile (fun a => .mzero a 0) ∧ NamesTile (fun a => .munpin a) ∧ NamesTile (fun a => .mown .zero a) ∧
  NamesTile (fun a => .mpin .zero a .zero) ∧ NamesTile (fun a => .mspill a .zero) ∧ NamesTile (fun a => .mfill a .zero) ∧
  (∀ a (ty : BitVec 7) (s : State) c q, atSeq s c q → (q.read a).toNat < 32 → let id := (q.read a).toNat
    (¬ usable s c id q → exec (.mzero a ty) s = .next (s.seqFault c 0x14 (BitVec.ofNat 64 id))) ∧
    (usable s c id q → ¬ room q [id / 16] [] [] → exec (.mzero a ty) s = .next (s.setSeq c { q with stall := 2 })) ∧
    (usable s c id q → room q [id / 16] [] [] →
      Issued s c q (.mzero a ty) (1 + litCount [a]) ⟨.mzero a ty, 0, (s.own? c id).int32, [id / 16], [id], [], [], []⟩)) ∧
  (∀ ctl a b (s u v : State) c q as bf, atSeq s c q → let cv := (q.read ctl).toNat
    let tiles := if (q.read ctl).getLsbD 10 then [cv % 16, 16 + cv % 16] else [cv % 32]
    let engines := tiles.map fun t => t / 16
    cv < 2 ^ 20 → ((q.read ctl).getLsbD 10 && (q.read ctl).getLsbD 4) = false → (q.read ctl).getLsbD 5 = false → (q.read ctl).getLsbD 6 = false →
    (∀ t ∈ tiles, usable s c t q) →
    (∀ m ∈ q.mats, spansMeet (s.mmaDescs c q cv tiles.length (engines.headD 0) (q.read a) (q.read b)) m.writes = false) →
    s.planAs c q (q.read a) (if (q.read ctl).getLsbD 11 then some (bits cv 15 12) else none) (!(q.read ctl).getLsbD 8) tiles.length = (u, .ok as) →
    u.planB c q cv (engines.headD 0) (q.read b) = (v, .ok bf) → (∀ p ∈ as, matInt p.fmt = matInt bf.fmt ∧ matK p.fmt = matK bf.fmt) →
    (∀ t ∈ tiles, (v.own? c t).int32 = matInt bf.fmt) → v.ms.mem = s.ms.mem → v.mat.tiles = s.mat.tiles → v.mat.own = s.mat.own →
    room q engines (as.flatMap Planned.spans ++ bf.spans) [] → plain v (as.flatMap Planned.spans ++ bf.spans) →
    Issued s c q (.mma ctl a b) (1 + litCount [a, b]) ⟨.mma ctl a b, q.read ctl, matInt bf.fmt, engines, tiles,
      as.map (fun p => p.read v) ++ [bf.read v], as.flatMap Planned.spans ++ bf.spans, []⟩) ∧
  (∀ ctl a b (s : State) c q rd wr, atSeq s c q → let cv := (q.read ctl).toNat
    let n := bits cv 15 8
    let id := cv % 32
    cv < 2 ^ 16 → 1 ≤ n → usable s c id q → (s.own? c id).int32 = false → room q [id / 16] rd wr → plain s (rd ++ wr) →
    (n ≤ 64 → s.locRun c q (q.read a) 784 n = .ok rd →
      (if (q.read ctl).getLsbD 7 then .ok [] else s.locRun c q (q.read b) (if (q.read ctl).getLsbD 6 then 256 else 512) n) = .ok wr →
      Issued s c q (.mdelta ctl a b) (1 + litCount [a, b])
        ⟨.mdelta ctl a b, q.read ctl, false, [id / 16], [id], [], rd, wr⟩) ∧
    (∀ hd, n ≤ 128 → bits cv 7 6 = 0 → s.locRun c q (q.read a) 256 n = .ok wr →
      (if (q.read ctl).getLsbD 5 then .ok [] else s.locRun c q (q.read b) 512 1) = .ok hd → rd = wr ++ hd → room q [id / 16] rd [] →
      Issued s c q (.mscan ctl a b) (1 + litCount [a, b])
        ⟨.mscan ctl a b, q.read ctl, false, [id / 16], [id], [⟨0, true, wr.map s.spanBytes, []⟩, ⟨0, true, hd.map s.spanBytes, []⟩], rd, []⟩)) ∧
  (∀ ctl a (s : State) c q sp, atSeq s c q → let cv := (q.read ctl).toNat
    let x := bits cv 8 5
    let id := cv % 32
    let pitch := bits cv 51 32
    cv < 2 ^ 52 → bits cv 31 10 = 0 → pitch % 16 = 0 → 128 * (if x ≤ 1 then 4 else if x ≤ 3 then 2 else 1) ≤ pitch →
    (q.read a).toNat % 2 ^ 21 % 16 = 0 → usable s c id q →
    s.locRows c q (q.read a) pitch (128 * (if x ≤ 1 then 4 else if x ≤ 3 then 2 else 1)) (List.range 128) = .ok sp → plain s sp →
    (x ≤ 6 → room q [id / 16] [] sp → Issued s c q (.mout ctl a) (1 + litCount [a])
      ⟨.mout ctl a, q.read ctl, (s.own? c id).int32, [id / 16], [id], [], [], sp⟩) ∧
    (x ≤ 3 → room q [id / 16] sp [] → Issued s c q (.mlda ctl a) (1 + litCount [a])
      ⟨.mlda ctl a, q.read ctl, (s.own? c id).int32, [id / 16], [id], [⟨0, true, sp.map s.spanBytes, []⟩], sp, []⟩)) ∧
  (∀ (s : State) c q m, s.seq? c = some q → q.mats = [m] → stopped s q.lid → kvSorted s.mat.own = true →
    ∃ t, completes s t c q m [] ∧ ∀ id < 32, (s.own? c id).launch = q.lid →
      ((s.own? c id).st = .active → (t.own? c id).st = .free ∧ ∀ i < 128, ∀ j < 128, tileAt t c id i j = 0) ∧
      ((s.own? c id).st = .pinned → (t.own? c id).st = .home)) ∧
  (∀ (s : State) c q m rest id, s.seq? c = some q → q.mats = m :: rest → m.tiles = [id] → id < 32 → ¬ stopped s q.lid →
    ∃ t, completes s t c q m rest ∧
      (∀ a ty, m.op = .mzero a ty → tileTakes s t c id (fun _ _ => 0) 0) ∧
      (∀ ctl a rows, m.op = .mlda ctl a → m.data = [⟨0, true, rows, []⟩] → rows.length = 128 → bits m.ctl.toNat 8 5 ≤ 3 →
        let x := bits m.ctl.toNat 8 5
        tileTakes s t c id (fun i j => loadedWord x (if m.ctl.getLsbD 9 then code (8 * moved x) (rows.getD j []) i
          else code (8 * moved x) (rows.getD i []) j)) 0) ∧
      (∀ ctl a b da db, m.op = .mma ctl a b → m.data = [da, db] → shaped da → shaped db → depth da.fmt = depth db.fmt →
        let old (i j : Nat) : Word := if m.ctl.getLsbD 5 then 0 else tileAt s c id i j
        (m.int32 = true → da.fmt ∈ [6, 7] → db.fmt = da.fmt → tileTakes s t c id (fun i j => old i j +
          BitVec.ofInt 32 ((List.range (depth da.fmt)).map fun k => intOf da i k * intOf db j k).sum) (s.own? c id).tokens) ∧
        (m.int32 = false → da.fmt ∈ [2, 3, 4, 5, 8, 9, 10, 11, 12, 13, 14] → db.fmt ∈ [2, 3, 4, 5, 8, 9, 10, 11, 12, 13, 14] →
          tileTakes s t c id (fun i j => dotOf (old i j) ((List.range (depth da.fmt)).map fun k => (floatOf da i k).mul (floatOf db j k)))
            (s.own? c id).tokens)) ∧
      (∀ ctl a b, m.op = .mdelta ctl a b → let tokens := (s.own? c id).tokens + BitVec.ofNat 64 (bits m.ctl.toNat 15 8)
        (t.own? c id).tokens = tokens ∧
        (m.writes = [] → tileTakes s t c id (m.reads.foldl (fun el p => deltaTile el (s.spanBytes p)) (tileAt s c id)) tokens) ∧
        (∀ p w, m.reads = [p] → m.writes = [w] → apart s [w] →
          tileTakes s t c id (deltaTile (tileAt s c id) (s.spanBytes p)) tokens ∧
          (let o := deltaOut (m.ctl.getLsbD 5) (tileAt s c id) (s.spanBytes p)
           w.2.2 = 128 * (if m.ctl.getLsbD 6 then 2 else 4) → spanHolds t w (if m.ctl.getLsbD 6
            then rowOf 2 fun i => Sys2Proof.Machine.bf16.round .rne (f32 (o i)) else rowOf 4 fun i => (o i).toNat)))) ∧
      (∀ ctl a b, m.op = .mscan ctl a b → let tokens := (s.own? c id).tokens + BitVec.ofNat 64 (bits m.ctl.toNat 15 8)
        (t.own? c id).tokens = tokens ∧
        ∀ xs hd, m.data = [⟨0, true, xs, []⟩, ⟨0, true, hd, []⟩] → xs.length ≤ 128 → tileTakes s t c id (fun i j => if i < xs.length then
          scanned xs (tileAt s c id) (fun j => if hd = [] then 0 else BitVec.ofNat 32 (code 32 (hd.headD []) j)) i j else tileAt s c id i j) tokens) ∧
      (∀ ctl a, m.op = .mout ctl a → t.mat = { s.mat with seqs := t.mat.seqs } ∧
        let x := bits m.ctl.toNat 8 5
        (x ≤ 6 → apart s m.writes → m.writes.length = 128 → (∀ p ∈ m.writes, p.2.2 = 128 * moved x) → ∀ i p, m.writes[i]? = some p →
          spanHolds t p (rowOf (moved x) fun j => storedCode m.int32 x (if m.ctl.getLsbD 9 then tileAt s c id j i else tileAt s c id i j))))) ∧
  (∀ a (s : State) c q, atSeq s c q → let k := q.read a
    (4 ≤ k.toNat → exec (.mwait a) s = .next (s.seqFault c 0x01 k)) ∧
    (k.toNat < 4 → (∃ m ∈ q.mats, ∃ e < 2, k.getLsbD e = true ∧ m.engines.contains e = true) → exec (.mwait a) s = .next s) ∧
    (k.toNat < 4 → (∀ m ∈ q.mats, ∀ e < 2, k.getLsbD e = true → m.engines.contains e = false) →
      exec (.mwait a) s = .next (s.seqDone c q (1 + litCount [a])))) ∧
  (∀ d a (s : State) c q id, atSeq s c q → (q.read a).toNat = id → id < 32 → (∀ m ∈ q.mats, m.tiles.contains id = false) →
    ((s.own? c id).st = .free → exec (.mown d a) s =
      .next ((s.setOwn c id { s.own? c id with st := .active, job := q.job, launch := q.lid }).seqDone c (q.put d 0) (1 + litCount [a]))) ∧
    (usable s c id q → exec (.mown d a) s = .next (s.seqDone c (q.put d 1) (1 + litCount [a]))) ∧
    ((s.own? c id).st ≠ .free → ¬ usable s c id q → exec (.mown d a) s = .next (s.seqDone c (q.put d 2) (1 + litCount [a])))) ∧
  (∀ d a b (s : State) c q id, atSeq s c q → (q.read a).toNat = id → id < 32 → let o := s.own? c id
    let h := q.read b
    let w := 1 + litCount [a, b]
    (∀ m ∈ q.mats, m.tiles.contains id = false) →
    (h.toNat % 64 ≠ 0 → exec (.mpin d a b) s = .next (s.seqFault c 0x0B h)) ∧
    (∀ x, h.toNat % 64 = 0 → canonical h.toNat = true → s.holderOf c q.job h = some x → (∀ m ∈ q.mats, m.tiles.contains x = false) →
      ((s.own? c x).st = .pinned → (s.own? c x).launch ≠ q.lid → exec (.mpin d a b) s = .next (s.seqFault c 0x14 h)) ∧
      ((s.own? c x).st = .home → exec (.mpin d a b) s =
        .next ((s.setOwn c x { s.own? c x with st := .pinned, launch := q.lid }).seqDone c (q.put d (BitVec.ofNat 64 x)) w))) ∧
    (∀ u, h.toNat % 64 = 0 → canonical h.toNat = true → s.holderOf c q.job h = none → o.st = .free → s.pinNew c q id h = (u, none) →
      exec (.mpin d a b) s = .next (u.seqDone c (q.put d (BitVec.ofNat 64 id)) w) ∧ (u.own? c id).st = .pinned ∧ (u.own? c id).handle = h ∧
        (u.own? c id).job = q.job ∧ (u.own? c id).launch = q.lid) ∧
    (o.st = .pinned → o.launch = q.lid → o.dirty = false → exec (.munpin a) s =
      .next ((s.setOwn c id { o with st := .active, handle := 0, dirty := false }).seqDone c q (1 + litCount [a]))) ∧
    (∀ u, o.st = .pinned → o.launch = q.lid → o.dirty = true → s.spillTile c id q.ctx q.job o.handle 1 = (u, none) →
      exec (.munpin a) s = .next ((u.setOwn c id { o with st := .active, handle := 0, dirty := false }).seqDone c q (1 + litCount [a]))) ∧
    (o.st ≠ .pinned → exec (.munpin a) s = .next (s.seqFault c 0x14 (BitVec.ofNat 64 id))) ∧
    (∀ u, h = 0 → o.st = .pinned → o.launch = q.lid → s.spillTile c id q.ctx q.job o.handle 1 = (u, none) →
      exec (.mspill a b) s = .next ((u.setOwn c id { o with dirty := false }).seqDone c q w)) ∧
    (∀ u, h ≠ 0 → h.toNat % 64 = 0 → usable s c id q → o.handle ≠ h → s.spillTile c id q.ctx q.job h 2 = (u, none) →
      exec (.mspill a b) s = .next (u.seqDone c q w)) ∧
    (∀ u, o.st = .free → s.holderOf c q.job h = none → s.fillTile c id q.ctx q.job h = (u, none) →
      exec (.mfill a b) s =
        .next ((u.setOwn c id { u.own? c id with st := .active, handle := 0, job := q.job, launch := q.lid }).seqDone c q w)) ∧
    (¬ usable s c id q → o.st ≠ .free → s.holderOf c q.job h = none →
      exec (.mfill a b) s = .next (s.seqFault c 0x14 (BitVec.ofNat 64 id))))

namespace Sys2Proof.Claims

/-- The event completes in state t. -/
def happens (i : Instr) (s t : State) : Prop := exec i s = .next t
/-- It changes nothing. -/
def nothing (i : Instr) (s : State) : Prop := exec i s = .next s
/-- Token i of the circuits has been sent and nothing stands before it on its circuit (R95). -/
def firstOnCircuit (s : State) (i : Nat) (p : Posted) : Prop :=
  s.ms.posted[i]? = some p ∧ p.sent = true ∧ ∀ o ∈ s.ms.posted.take i, o.circ ≠ p.circ
/-- The circuits without token i, p; what follows is done on its circuit set. -/
def without (s : State) (i : Nat) (p : Posted) : State :=
  { s with ms := { s.ms with posted := s.ms.posted.eraseIdx i }, cur := .token p.set }
/-- The tokens in flight are the same, and those of a sender's last incarnation are now of one that is over (R105). -/
def outlives (s t : State) (sender : Posted → Prop) : Prop :=
  t.ms.posted = s.ms.posted ∧ ∀ p ∈ s.ms.posted, sender p → s.outdated p = false → t.outdated p = true
/-- A build after one of the lines that it awaits has come (R469). -/
def hasRead (b : Build) (line : Nat) (bytes : List Byte) : Build :=
  if line ∈ b.lines then { b with lines := b.lines.erase line, read := kvSet line bytes b.read } else b
/-- The records of some dies' copies of a line have come to its home slice, and no die holds the line (R86, R92). -/
def recalled (s t : State) (line : Nat) : Prop :=
  (∀ d < 8, (t.copyOf d line).st = .i) ∧ t.ms.mem = s.ms.mem ∧
  ∀ d < 8, (s.copyOf d line).st ≠ .i → ∀ r ∈ (s.copyOf d line).recs, r ∈ (t.copyOf (homeOf s (line * 128)) line).recs
/-- Element e of a line takes the sum of what it held in u and an FP32 addend, rounded once in its format, and no other byte of memory
changes (R173). -/
def addsTo (k : BKind) (line e : Nat) (x : Word) (u t : State) : Prop :=
  let a := line * 128 + e * k.bytes
  let old := little ((List.range k.bytes).map fun j => u.byte (a + j))
  let new := k.fmt.round .rne ((k.fmt.decode old).add (f32 x))
  (∀ j < k.bytes, t.byte (a + j) = BitVec.ofNat 8 (new / 256 ^ j)) ∧ ∀ p, (p < a ∨ a + k.bytes ≤ p) → t.byte p = u.byte p
/-- A write to the host is on its way. -/
def hostWriteOut (s : State) : Prop := ∃ p ∈ s.ms.posted, ∃ cs own op, p.what = .write cs own op ∧ ∃ c ∈ cs, 2 ^ 51 ≤ c.1
/-- No die's copy of a line carries a release record. -/
def noRecords (s : State) (line : Nat) : Prop := ∀ d < 8, (s.copyOf d line).recs = []

end Sys2Proof.Claims

/-! ## Events of the cores (spec/08, spec/03) -/

/-- R210, R211, R222, R224, R466, R469 to R471, R113, R126, R74 to R78, R82: the scheduler's choice, instruction-line fills (a line that
is present is left as it is), configuration builds, placement and teardown, window fills, the end of a copy, whose tag counts it
once the homes have accepted what it wrote, partition writes and bank moves, the first-level flush, which is over once no line is held
back by its circuit (R97), and ageing sweep. A build is made of the bytes that it has read, whatever has become of their lines since
(R469). The model's
choices in it: each REPARTITION_BANK_EMPTY moves one bank (log entry 44); a sweep takes lines at half the age that R82 allows, and a
line whose writeback has to wait keeps its dirty bytes until a later one (log entry 61). -/
def Obligations.CoreEvents : Prop :=
  (∀ (s : State) core, s.candidates core = [] →
    happens (.schedulerChoice core) s (s.setFabric core { s.fabric core with chosen := none })) ∧
  (∀ (s : State) core w, s.candidates core = [w] → (s.fabric core).chosen = none → (s.fabric core).builds = [] →
    (s.fabric core).image? w.ctx w.hdr = none → ∃ t b, happens (.schedulerChoice core) s t ∧
      (t.fabric core).chosen = some (w.ctx, w.hdr) ∧ (t.fabric core).builds = [b] ∧ b.ctx = w.ctx ∧ b.hdr = w.hdr ∧ b.failed = [] ∧ t.ms = s.ms) ∧
  (∀ (s : State) core ctx line x l, (s.fabric core).ifills = [x] → x.ctx = ctx → x.line = line → (s.fabric core).line? ctx line = some l →
    ∃ t, happens (.instructionLineFill core ctx line) s t ∧ (t.fabric core).ilines = (s.fabric core).ilines ∧ (t.fabric core).ifills = [] ∧
      ∀ b, (s.fabric core).builds = [b] → b.ctx = ctx → (t.fabric core).builds = [hasRead b line l.bytes]) ∧
  (∀ (s u : State) core ctx line bs, (s.fabric core).ifills = [⟨ctx, line, true, false⟩] → (s.fabric core).line? ctx line = none →
    (s.setFabric core { s.fabric core with ifills := [] }).fetchBytes core (dieOfCore core) ctx line = (u, some bs) →
    ∃ t l, happens (.instructionLineFill core ctx line) s t ∧ l ∈ (t.fabric core).ilines ∧ l.ctx = ctx ∧ l.line = line ∧ l.bytes = bs ∧
      ∀ b, (u.fabric core).builds = [b] → b.ctx = ctx → (t.fabric core).builds = [hasRead b line bs]) ∧
  (∀ (s : State) core ctx hdr (b : Build), (s.fabric core).builds = [b] → b.ctx = ctx → b.hdr.toNat = hdr →
    (b.lines ≠ [] → nothing (.configBuildComplete core ctx hdr) s) ∧
    (b.lines = [] → b.failed ≠ [] → ∃ t, happens (.configBuildComplete core ctx hdr) s t ∧ (t.fabric core).builds = [] ∧
      (t.fabric core).images = (s.fabric core).images) ∧
    (let n := hdrN ((wordsFrom hdr 4 b.read).getD 0 0)
     let ws := wordsFrom hdr (4 + n) b.read
     b.lines = [] → b.failed = [] → (∀ l ∈ codeLines hdr 4, (kvGet l b.read).isSome) → hdrIsHeader ((wordsFrom hdr 4 b.read).getD 0 0) = true →
     ((∀ l ∈ codeLines hdr (4 + n), (kvGet l b.read).isSome) → hdrIsHeader (ws.getD 0 0) = true → blockOffence (ws.take 4) (ws.drop 4) = none →
       ∃ t im, happens (.configBuildComplete core ctx hdr) s t ∧ (t.fabric core).builds = [] ∧ im ∈ (t.fabric core).images ∧
         im.ctx = ctx ∧ im.hdr = b.hdr ∧ im.words = ws) ∧
     ((∃ l ∈ codeLines hdr (4 + n), kvGet l b.read = none) →
       ∃ t c, happens (.configBuildComplete core ctx hdr) s t ∧ (t.fabric core).builds = [c] ∧ c.ctx = ctx ∧ c.hdr = b.hdr ∧ c.failed = [] ∧
         c.lines = (codeLines hdr (4 + n)).filter (fun l => (kvGet l b.read).isNone && ((s.fabric core).line? ctx l).isNone) ∧
         (∀ l x, l ∈ codeLines hdr (4 + n) → kvGet l b.read = none → (s.fabric core).line? ctx l = some x → kvGet l c.read = some x.bytes) ∧
         (t.fabric core).images = (s.fabric core).images ∧ t.ms = s.ms))) ∧
  (∀ (s : State) core ctx (h : Dword) im, (s.fabric core).chosen = some (ctx, h) → (s.fabric core).images = [im] → im.ctx = ctx → im.hdr = h →
    (s.fabric core).cfgs = [] → ∃ t c, happens (.configPlacement core ctx h.toNat) s t ∧ (t.fabric core).cfgs = [c] ∧
      (t.fabric core).chosen = none ∧ c.ctx = ctx ∧ c.hdr = h ∧ c.words = im.words ∧ c.reg = 0 ∧ c.regs = regionsFor (im.words.drop 4) ∧
      c.retiring = false ∧ c.ready = some (s.clock + 16 * regionsFor (im.words.drop 4)) ∧ t.ms = s.ms) ∧
  (∀ (s : State) core c e, (s.fabric core).cfgs = [c] → c.retiring = true → s.nodeClear c e = true →
    (c.left = [e] → happens (.nodeTeardown core c.id e) s (s.setFabric core { s.fabric core with cfgs := [] })) ∧
    (∀ k r, c.left = e :: k :: r → happens (.nodeTeardown core c.id e) s
      (s.setFabric core { s.fabric core with cfgs := [{ c with left := k :: r }] }))) ∧
  (∀ (s u : State) g line fl ga, s.ms.fills = [fl] → fl.g = g → fl.line = line → s.gather? g = some ga → fl.stale = [] →
    let filled (r : Option (Option Bad)) : Prop :=
      ({ s with ms := { s.ms with fills := [] }, cur := .gather g } : State).fillNow (agentFill g line) ga.core g line fl.q = (u, r)
    (filled none → ∃ t, happens (.windowFillComplete g line) s t ∧ t.ms = u.ms) ∧
    (filled (some none) → happens (.windowFillComplete g line) s { s with ms := { s.ms with ats := u.ms.ats, hold := true } }) ∧
    (∀ b a, filled (some (some b)) → fl.agents = [a] → happens (.windowFillComplete g line) s
      ((u.clearFresh (agentFill g line)).addFresh a (.fail (BitVec.ofNat 8 b.cause) (BitVec.ofNat 64 b.tval))))) ∧
  (∀ (s u : State) core i o, (s.copiesOf core)[i]? = some o →
    let does (r : Option (Option (Nat × Nat))) : Prop := ({ s with cur := .gather o.g } : State).perform o = (u, r)
    (o.ended = none → does none → happens (.copyOperationComplete core i) s u) ∧
    (∀ e g, (o.ended = none ∧ does (some e)) ∨ (o.ended = some e ∧ u = s) → u.gather? o.g = some g →
      ∃ t h, happens (.copyOperationComplete core i) s t ∧ t.gather? o.g = some h ∧
      (u.copyPosted o.id = true → h = g ∧ t.copiesOf core = (u.copiesOf core).modify i fun o => { o with ended := some e }) ∧
      (u.copyPosted o.id = false → t.copiesOf core = (u.copiesOf core).eraseIdx i ∧ (h.tag o.tag).count = (g.tag o.tag).count - 1 ∧
        (e = none → (h.tag o.tag).err = (g.tag o.tag).err) ∧
        (∀ c a, e = some (c, a) → (h.tag o.tag).err = true ∧ ((g.tag o.tag).err = false →
          (h.tag o.tag).record = BitVec.ofNat 64 (c * 2 ^ 58 + a % 2 ^ 58)))))) ∧
  (∀ (s : State) core (v : BitVec 32), core < 640 → let p := partOf s core
    let aim : Part := ⟨(v.extractLsb' 24 6).toNat, (v.extractLsb' 18 6).toNat, (v.extractLsb' 12 6).toNat, (v.extractLsb' 6 6).toNat⟩
    let legal : Prop := aim.lv + aim.sp + aim.tm + aim.l1 = 32 ∧ 1 ≤ aim.lv ∧ 1 ≤ aim.tm ∧ 2 ≤ aim.l1
    (p.pend ≠ 0 ∨ ¬ legal → happens (.cspartWrite core v) s (s.setPart core { p with err := true })) ∧
    (p.pend = 0 → legal → aim = p.now → nothing (.cspartWrite core v) s) ∧
    (p.pend = 0 → legal → aim ≠ p.now → aim.l1 = p.now.l1 → happens (.cspartWrite core v) s (s.setPart core { p with
      target := aim, flush := p.flush
      pend := (p.now.lv - aim.lv) + (p.now.sp - aim.sp) + (p.now.tm - aim.tm) + (p.now.l1 - aim.l1) }))) ∧
  (∀ (s : State) core, let p := partOf s core
    (p.flush = false → nothing (.l1FlushComplete core) s) ∧
    (p.flush = true → let u := s.writebackSome core fun _ => true
      (u.dirtyLines core (fun _ => true) = [] → ∃ t, happens (.l1FlushComplete core) s t ∧ (partOf t core).flush = false ∧
        (partOf t core).now = p.now ∧ ∀ pa < 2 ^ 52, t.l1At core pa = none) ∧
      (u.dirtyLines core (fun _ => true) ≠ [] → happens (.l1FlushComplete core) s (u.dropClean core fun _ => true))) ∧
    (p.pend = 0 → nothing (.repartitionBankEmpty core) s) ∧
    (0 < p.pend → p.now.lv < p.target.lv → p.target.sp = p.now.sp → p.target.tm = p.now.tm → p.target.l1 < p.now.l1 → p.flush = false →
      happens (.repartitionBankEmpty core) s (s.setPart core { p with
        now := { p.now with l1 := p.now.l1 - 1, lv := p.now.lv + 1 }, pend := p.pend - 1 }))) ∧
  (∀ (s : State) core pa b, pa < 2 ^ 52 → (s.ms.l1.map (·.1)).Nodup → s.ms.poison = [] → s.l1At core pa = some b →
    let old := ∃ q c, q < 2 ^ 52 ∧ lineOf q = lineOf pa ∧ s.l1At core q = some c ∧ c.at_ + 2 ^ 15 ≤ s.clock
    let only := ∀ q c, s.l1At core q = some c → c.at_ + 2 ^ 15 ≤ s.clock → lineOf q = lineOf pa
    ∃ t, happens (.l1AgeingSweep core) s t ∧ (¬ old → t.l1At core pa = some b) ∧
      (old → b.dirty = false → t.l1At core pa = none) ∧
      (old → only → s.ms.hold = false → (s.writeback core fun l => l == lineOf pa).ms.hold = false →
        t.l1At core pa = none ∧ (b.dirty = true → t.byte pa = b.val)))

/-! ## Events of the memory system (spec/03, spec/04, spec/06) -/

/-- R93, R95, R97, R91, R92, R86, R104 to R106, R169 to R175, R177, R184, R325, R49, R63 and R65 to R70: posted writes, REDs, additions and drains
arriving, a RED changing its element at the home as its row of R325 says and leaving its release record (R85) there, and an addition adding to its, those of an incarnation that is
over being discarded; send allowances, coherence with the errors that a read shows, evictions, recovery with what it
poisons and logs (R460), holders and homes; PAGE_WALK_COMPLETE: a walk that one of its die's 32 walkers makes ends and answers its requests, with the missing entry's
cause or with the leaf that it has read, A and D set; invalidations, and the host's answers, a context's requests by its own PRI bit. An ATOM
whose additions were offered reads at the home, from which it takes the release records, or finds poison there (R103, R141). -/
def Obligations.MemoryEvents : Prop :=
  (∀ (s : State) i p, s.ms.posted[i]? = some p → (p.sent = false ∨ ∃ o ∈ s.ms.posted.take i, o.circ = p.circ) →
    nothing (.homeWrite i) s ∧ nothing (.drainApplied i) s) ∧
  (∀ (s : State) i p, firstOnCircuit s i p → s.outdated p = true →
    ((∀ a, p.what ≠ .fence a) → (∀ d l k sums back, p.what ≠ .drain d l k sums back) → happens (.homeWrite i) s (without s i p)) ∧
    (∀ d l k sums back, p.what = .drain d l k sums back → happens (.drainApplied i) s (without s i p))) ∧
  (∀ (s : State) i p cs own op, firstOnCircuit s i p → s.outdated p = false → p.what = .write cs own op → p.dst < 8 → s.ms.poison = [] →
    (cs.map (·.1)).Nodup → ∃ t, happens (.homeWrite i) s t ∧ t.ms.posted = s.ms.posted.eraseIdx i ∧ (∀ c ∈ cs, t.byte c.1 = c.2) ∧
      ∀ pa ∉ cs.map (·.1), t.byte pa = s.byte pa) ∧
  (∀ (s : State) i p cs own op, firstOnCircuit s i p → s.outdated p = false → p.what = .bounded cs own op → s.ms.poison = [] →
    (cs.map (·.1)).Nodup → (∀ c ∈ cs, kvGet (lineOf c.1) s.ms.grants = none) → ∃ t, happens (.homeWrite i) s t ∧
      t.ms.posted = s.ms.posted.eraseIdx i ∧ (∀ c ∈ cs, t.byte c.1 = c.2) ∧ ∀ pa ∉ cs.map (·.1), t.byte pa = s.byte pa) ∧
  (∀ (s : State) i p cs own op, firstOnCircuit s i p → s.outdated p = false → p.what = .write cs own op → 8 ≤ p.dst →
    happens (.homeWrite i) s (without s i p)) ∧
  (∀ r ∈ redRows, ∀ (s : State) i p w64 pa x rel, firstOnCircuit s i p → s.outdated p = false → p.what = .red r.code w64 pa x rel →
    pa % (atomWidth w64 / 8) = 0 → s.ms.poison.contains (lineOf pa) = false → (rel = none ∨ noRecords s (lineOf pa)) →
    ∃ t, happens (.homeWrite i) s t ∧ changesElement r w64 pa x 0 s t ∧ ∀ c, rel = some c → c ∈ (t.copyOf (homeOf s pa) (lineOf pa)).recs) ∧
  (∀ (s : State) i p l e k x, firstOnCircuit s i p → s.outdated p = false → p.what = .add l e k x → (e + 1) * k.bytes ≤ 128 →
    s.ms.poison.contains l = false → ∃ t, happens (.homeWrite i) s t ∧ addsTo k l e x s t) ∧
  (∀ (s : State) i p d l k sums, firstOnCircuit s i p → s.outdated p = false → p.what = .drain d l k sums none →
    happens (.drainApplied i) s ((without s i p).applySums l k sums) ∧
    ∀ e x, sums = [(e, x)] → (e + 1) * k.bytes ≤ 128 → s.ms.poison.contains l = false → addsTo k l e x s ((without s i p).applySums l k sums)) ∧
  (∀ (s : State) c h n, (∀ p ∈ s.ms.posted, p.circ = c → p.sent = true) →
    happens (.sendAllowanceGrant c h n) s (s.setAllowance c h (s.allowance c h + n))) ∧
  (∀ (s : State) d l, d < 8 → happens (.coherenceRequest d l ⟨true, .clean⟩) s (s.own d l none) ∧
    ((s.copyOf d l).st ≠ .i → s.ms.posted = [] → nothing (.coherenceRequest d l ⟨false, .clean⟩) s) ∧
    (s.sharers l = [] → noRecords s l → ∃ t, happens (.coherenceRequest d l ⟨false, .clean⟩) s t ∧ t.copyOf d l = ⟨.e, [], []⟩ ∧
      t.ms.mem = s.ms.mem) ∧
    (∃ t e, happens (.coherenceRequest d l ⟨false, .corrected⟩) s t ∧ t.mg.log = s.mg.log ++ [e] ∧ e.kind = 1 ∧ t.ms.poison = s.ms.poison) ∧
    (s.sharers l = [] → ∃ t, happens (.coherenceRequest d l ⟨false, .uncorrectable⟩) s t ∧ l ∈ t.ms.poison)) ∧
  (∀ (s : State) d l, ((s.copyOf d l).st = .i → homeOf s (l * 128) ≠ d → l ∉ s.heldLines d → nothing (.lineEviction d l) s) ∧
    (l ∈ s.heldLines d → ∃ t, happens (.lineEviction d l) s t ∧ t.holder d l = emptyHolder) ∧
    ((s.copyOf d l).st = .i → l ∉ s.heldLines d → (s.copyOf d l).recs = [] → ∃ t, happens (.lineEviction d l) s t ∧ t.ms.mem = s.ms.mem) ∧
    ((s.copyOf d l).st ≠ .i → (s.copyOf d l).recs = [] → (s.copyOf d l).win = [] → s.ms.posted = [] → s.ms.holders = [] →
      ∃ t, happens (.lineEviction d l) s t ∧ t.copyOf d l = ⟨.i, [], []⟩ ∧ t.ms.mem = s.ms.mem)) ∧
  (∀ (s : State) l, ∃ t, happens (.directoryEntryEviction l) s t ∧ recalled s t l) ∧
  (∀ (s : State) l, ∃ t, happens (.directoryError l) s t ∧ recalled s t l ∧
    (∀ a b, a < b → b < 8 → ((s.copyOf a l).st = .m ∨ (s.copyOf a l).st = .o) → ((s.copyOf b l).st = .m ∨ (s.copyOf b l).st = .o) →
      l ∈ t.ms.poison) ∧
    ((∀ d < 8, (s.copyOf d l).st ≠ .m ∧ (s.copyOf d l).st ≠ .o) → t.ms.poison = s.ms.poison)) ∧
  (∀ (s : State) core, core < 640 → ∃ t e, happens (.agentRejoin false core) s t ∧ t.coreInc core = (s.coreInc core + 1) % 256 ∧
    (∀ pa < 2 ^ 52, t.l1At core pa = none) ∧ outlives s t (·.core = some core) ∧ t.ms.mem = s.ms.mem ∧
    t.mg.log = s.mg.log ++ [e] ∧ e.kind = 8) ∧
  (∀ (s : State) d, d < 8 → ∃ t lost e, happens (.agentRejoin true d) s t ∧ t.dieInc d = (s.dieInc d + 1) % 256 ∧ d ∉ t.ms.out ∧
    outlives s t (·.src = d) ∧ t.ms.mem = s.ms.mem ∧ t.mg.log = s.mg.log ++ lost ++ [e] ∧ e.kind = 8 ∧
    (∀ x ∈ lost, x.kind = 2) ∧ (s.linesHeld d = [] → s.holderLines d = [] → lost = [])) ∧
  (∀ (s : State) i o, s.ms.offers[i]? = some o → s.offerFirst i o = true → o.stage = 0 → (s.holder o.die o.line).share.isZero = true →
    ∃ t, happens (.holderOffer i) s t ∧ t.ms.offers[i]? = some { o with stage := 1 } ∧ t.ms.mem = s.ms.mem ∧ t.ms.holders = s.ms.holders) ∧
  (∀ (s : State) o, s.ms.offers = [o] → o.stage = 5 → s.ms.posted = [] → o.late = [] → o.die = homeOf s (o.line * 128) →
    (∀ k < 4, lineOf (o.pa + k) = o.line) → let u := s.share o.die o.line
    (s.ms.poison.contains o.line = true → ∃ t, happens (.holderOffer 0) s t ∧ t.ms.offers = [] ∧ t.ms.mem = s.ms.mem ∧
      t.ms.fresh = s.ms.fresh ++ [(o.agent, .old none [])]) ∧
    (s.ms.poison.contains o.line = false → (u.copyOf o.die o.line).recs.length < 4 → ∃ t, happens (.holderOffer 0) s t ∧ t.ms.offers = [] ∧
      t.ms.mem = s.ms.mem ∧ t.ms.fresh = s.ms.fresh ++ [(o.agent, .old (some (little ((List.range 4).map fun k => s.byte (o.pa + k))))
        (metOn o.die o.line (u.copyOf o.die o.line).recs))] ∧
      ∀ r, o.rel = some r → r ∈ (t.copyOf o.die o.line).recs)) ∧
  (∀ (s : State) o, s.ms.offers = [o] → (o.stage = 1 ∨ o.stage = 3) → ∃ t, happens (.grantRequest o.die o.line) s t ∧
    t.ms.offers = [{ o with stage := o.stage + 1 }] ∧
    (t.holder o.die o.line).share = (s.holder o.die o.line).share.add (s.requestGrant o.die o.line o.lim).2) ∧
  (∀ (s : State) d l, ∃ t, happens (.forcedDrain d l) s t ∧ t.holder d l = emptyHolder) ∧
  (∀ (s : State) (v : BitVec 32),
    (s.mg.bvBusy = true → happens (.bvdrainWrite v) s { s with mg := { s.mg with bvErr := true } }) ∧
    (s.mg.bvBusy = false → v.extractLsb' 0 8 = 0 →
      happens (.bvdrainWrite v) s { s with mg := { s.mg with bvErr := s.mg.bvErr && !v.getLsbD 9 } }) ∧
    (s.mg.bvBusy = false → v.extractLsb' 0 8 ≠ 0 → ∃ t, happens (.bvdrainWrite v) s t ∧ t.mg.bvDies = v.extractLsb' 0 8 ∧
      (t.mg.bvBusy = false ↔ ∀ d < 8, v.getLsbD d = true → s.heldLines d = []))) ∧
  (∀ (s : State) b, s.ms.breads = [b] → (∀ k < b.len, kvGet (lineOf (b.pa + k)) s.ms.grants = none) → ∃ t, happens (.boundedRead 0) s t ∧ t.ms.breads = [] ∧
    t.ms.mem = s.ms.mem ∧ (s.ms.poison = [] → t.ms.fresh = s.ms.fresh ++ [(b.agent, .bytes b.pa ((List.range b.len).map fun k => s.byte (b.pa + k)))])) ∧
  (∀ (s : State) l, kvGet l s.ms.grants = none → ∃ t, happens (.grantRecordEviction l) s t ∧ t.ms.mem = s.ms.mem ∧ kvGet l t.ms.grants = none) ∧
  (∀ (s : State) l, ∃ t, happens (.grantRecordEviction l) s t ∧ kvGet l t.ms.grants = none) ∧
  (∀ (s : State) i, (s.ms.walks[i]? = none → nothing (.pageWalkComplete i) s) ∧
    (∀ w, s.ms.walks[i]? = some w → let before := (s.ms.walks.take i).filter fun x => x.die == w.die
      let va := w.page * 2 ^ 14
      let r := ({ s with cur := w.cur, ms := { s.ms with walks := s.ms.walks.filter (· != w) } } : State).walkDie w.die w.ctx va
        (w.restart || w.waiters.any (·.afresh)) fun l => w.waiters.all fun x => s.grants? l va x.need
      (32 ≤ before.length → nothing (.pageWalkComplete i) s) ∧
      (before.length < 32 → ∃ t, happens (.pageWalkComplete i) s t ∧ w ∉ t.ms.walks ∧
        (r.2.1 = .absent → t = w.waiters.foldl (fun u x =>
          u.addFresh x.agent (.fail (if x.need.x then 0x0C else 0x08) (BitVec.ofNat 64 x.va))) r.1) ∧
        (∀ l pa x, r.2.1 = .leaf l pa → w.waiters = [x] →
          let p := if r.1.grants? l va x.need then r.1.setAD w.die l pa x.need else (r.1, l)
          t = (if x.need.none = true ∧ p.2.a = false then p.1 else p.1.tlbInstall x.unit p.2).addFresh x.agent (.leaf p.2 r.2.2))))) ∧
  (∀ (s : State) (v : BitVec 32) (c : Nat × (BitVec 32 → Instr)), c ∈ [(1, Instr.xlatInvPageRange), (2, .xlatInvContext), (3, .xlatInvRegion),
      (4, .xlatInvCodeRange), (5, .xlatInvAll)] → (v.extractLsb' 0 3).toNat = c.1 →
    let pages := 2 ^ (v.extractLsb' 3 5).toNat
    (s.mg.inval.isSome = true → happens (c.2 v) s { s with mg := { s.mg with xlatErr := true } }) ∧
    (s.mg.inval = none → (c.1 = 1 ∨ c.1 = 4) → s.mg.xlatVa.toNat / 2 ^ 14 % pages ≠ 0 →
      happens (c.2 v) s { s with mg := { s.mg with xlatErr := true } }) ∧
    (s.mg.inval = none → s.mg.xlatVa.toNat / 2 ^ 14 % pages = 0 → ∃ t q, happens (c.2 v) s t ∧ t.mg.inval = some q ∧ q.kind = c.1 ∧
      q.ctx = (v.extractLsb' 8 16).toNat ∧ q.rgx = (v.extractLsb' 24 6).toNat ∧ q.pages = pages ∧ t.mg.xlatCmd = v &&& 0x3FFFFFFF ∧
      (c.1 ≠ 4 → t.ms.tlb = (s.ms.tlb.filter fun x => !q.takes x.what) ∧
        t.ms.walks = s.ms.walks.map fun w => { w with restart := true }))) ∧
  (∀ (s : State) c, s.mg.inval = some c → (c.waits = [] → s.latePending c = false →
      happens .xlatInvalidationDone s { s with mg := { s.mg with inval := none
                                                                 ctxUsed := s.mg.ctxUsed.filter fun k => !(c.kind == 5 || (c.kind == 2 && c.ctx == k)) } }) ∧
    (c.waits ≠ [] → nothing .xlatInvalidationDone s) ∧ (s.latePending c = true → nothing .xlatInvalidationDone s)) ∧
  (∀ (s : State) fn page a, s.ms.ats = [a] → a.func = fn → a.page = page →
    (a.waiters = [] → ∀ pa, ∃ t, happens (.atsTranslationCompletion fn page (.granted pa true)) s t ∧ t.ms.ats = [] ∧
      t.ms.atc.head? = some ⟨fn, page, pa, true⟩) ∧
    (∀ w, a.waiters = [w] → ∃ t, happens (.atsTranslationCompletion fn page .denied) s t ∧ t.ms.ats = [] ∧
      t.ms.fresh = s.ms.fresh ++ [(w.agent, .refused fn page a.usePri w.need.w 0x09)]) ∧
    (∀ w, a.waiters = [w] → a.usePri = false → ∃ t, happens (.atsTranslationCompletion fn page .noPage) s t ∧ t.ms.ats = [] ∧
      t.ms.fresh = s.ms.fresh ++ [(w.agent, .refused fn page false w.need.w 0x08)]) ∧
    (a.usePri = true → a.pri = none → ∃ t, happens (.atsTranslationCompletion fn page .noPage) s t ∧ t.ms.ats = [{ a with pri := some s.clock }]) ∧
    (∀ t, a.pri = some t → ∃ u, happens (.priResponse fn page true) s u ∧ u.ms.ats = [{ a with pri := none }]) ∧
    nothing (.priResponse fn page false) s ∧
    (∀ t w, a.pri = some t → a.waiters = [w] → t + 2 ^ 24 ≤ s.clock → ∃ u, happens (.priTimeout fn page) s u ∧ u.ms.ats = [] ∧
      u.ms.fresh = s.ms.fresh ++ [(w.agent, .refused fn page a.usePri w.need.w 0x08)]) ∧
    (∀ t, a.pri = some t → s.clock < t + 2 ^ 24 → nothing (.priTimeout fn page) s)) ∧
  (∀ (s : State) fn page a b w, s.ms.ats = [a, b] → a.func = fn → a.page = page → b.func = fn → b.page = page → a.usePri = false →
    b.usePri = true → b.pri = none → a.waiters = [w] →
    ∃ t, happens (.atsTranslationCompletion fn page .noPage) s t ∧ t.ms.ats = [{ b with pri := some s.clock }] ∧
      t.ms.fresh = s.ms.fresh ++ [(w.agent, .refused fn page false w.need.w 0x08)]) ∧
  (∀ (s : State) fn base span,
    ((∃ x ∈ s.ms.atsUsed, s.accessing x.1 = true ∧ x.2.1 = fn ∧ x.2.2 * 4096 < base + span ∧ base < x.2.2 * 4096 + 4096) →
      nothing (.atsInvalidation fn base span) s) ∧
    (hostWriteOut s → nothing (.atsInvalidation fn base span) s) ∧
    (¬ hostWriteOut s → (∀ x ∈ s.ms.atsUsed, s.accessing x.1 = true → x.2.1 = fn → x.2.2 * 4096 < base + span → x.2.2 * 4096 + 4096 ≤ base) → happens (.atsInvalidation fn base span) s { s with ms := { s.ms with atc := s.ms.atc.filter (fun a =>
      !(a.func == fn && decide (a.page * 4096 < base + span) && decide (base < a.page * 4096 + 4096))) } }))

namespace Sys2Proof.Claims

/-- The function's mailbox holds a request of this code that its service has still to run (R452). -/
def asked (s : State) (fn code : Nat) : Prop :=
  fn < 64 ∧ (s.mailbox fn).go = true ∧ (s.mailbox fn).run = code ∧ (s.mailbox fn).pending = none
/-- Request dword k as the service took it. -/
def request (s : State) (fn k : Nat) : Dword := (kvGet k (s.mailbox fn).taken).getD 0
/-- The service has answered with a status and reply dwords, still to be delivered. -/
def answers (s t : State) (fn st : Nat) (rep : List Dword) : Prop :=
  t.mailbox fn = { s.mailbox fn with pending := some (st, rep) }
/-- A job's fibre may run on after its halt, past the breakpoint that it stands at, if it stands at one (R418). -/
def goesOn (s t : State) (f : Nat) : Prop :=
  ∃ x y, s.fibre? f = some x ∧ t.fibre? f = some y ∧ y = { x with halt := false, bponce := (s.breakpointAt f x).isSome }
/-- A load of object o fails with an error, which its end reports (R437, R441); no byte of memory changes. -/
def loadFails (s : State) (h : BitVec 64) (pool : Nat) (e : LoadErr) : Prop :=
  ∃ t p, exec (.codeLoad h pool) s = .next t ∧ t.obj? h.toNat = some p ∧ p.st = .loading ∧ p.err = e.code ∧ p.errIdx = e.idx ∧ t.ms = s.ms
/-- The programs of a launch stop after their present instruction (R370). -/
def stopsPrograms (s t : State) (lid : Nat) : Prop :=
  ∀ c q, s.seq? c = some q → q.run = true → q.lid = lid → ∃ y, t.seq? c = some y ∧ y.stop = true
/-- Bytes of the part's memory at pa. -/
def inMemory (s : State) (pa n : Nat) : Prop := ∀ k < n, (placeOf s (pa + k)).isMem = true

end Sys2Proof.Claims

/-! ## Work and its life on the part (spec/16, spec/17, spec/18) -/

/-- R355, R386 to R388, R391, R395, R396, R122, R401, R406, R414 to R420, R426, R441, R442, R444, R445, R463: queues and their records, binding, placement and exit of
gathers, the end of launches and jobs, code objects, KILL, DRAIN, time slices and checkpoints, restores, debug slots, and HOME tiles.
The model's choices in it: that a new RING resets HEAD and COUNT and that acceptance needs EN (log entry 44), the bytes of lehrs and
launch sections where the rules give none (45), what a debug command does in the corners that R415 to R418 leave (46), the corners of
KILL and DRAIN (48), and how the failure of a load that no reply carries reaches its registrant (90).
CODE_LOAD: a load that is asked for, while no invalidation is in progress, fails at the first step of R441 that fails, asks for its
libraries where one is not resident, or else places and maps its pages, and starts the invalidation of its range. -/
def Obligations.DispatchEvents : Prop :=
  (∀ (s : State) q (v : BitVec 64), q < 2048 → let x := s.queue q
    ∃ t u, happens (.qcfgWrite q false v) s t ∧ happens (.qcfgWrite q true v) s u ∧ t.ms = s.ms ∧ u.ms = s.ms ∧
      (∀ k, k ≠ q → t.queue k = s.queue k ∧ u.queue k = s.queue k) ∧
      (8 < (v.extractLsb' 0 4).toNat ∨ v &&& 0x000FFFFFFFFFF00F = x.d0 → t.queue q = x) ∧
      ((v.extractLsb' 0 4).toNat ≤ 8 → v &&& 0x000FFFFFFFFFF00F ≠ x.d0 →
        t.queue q = { x with d0 := v &&& 0x000FFFFFFFFFF00F, head := 0, count := 0 }) ∧
      (v.getLsbD 0 = false → u.queue q = { x with d1 := v &&& 0xFFFFFFFFFF000003 }) ∧
      (v.getLsbD 0 = true → x.d1.getLsbD 0 = false → u.queue q = { x with d1 := v &&& 0xFFFFFFFFFF000003, drops := 0 }) ∧
      (v.getLsbD 0 = true → x.d1.getLsbD 0 = true → (u.queue q).d1.extractLsb' 32 16 = v.extractLsb' 32 16 ∧
        (u.queue q).d1 &&& 0xFFFF0000FFFFFFFF = x.d1 &&& 0xFFFF0000FFFFFFFF)) ∧
  (∀ (s : State) fn off bs, let q := off / 64
    let x := s.queue q
    (2048 ≤ q ∨ x.func ≠ fn ∨ s.mg.firmware = false → nothing (.ingressPortWrite fn off bs) s) ∧
    (s.mg.firmware = true → q < 2048 → x.func = fn → (off % 64 ≠ 0 ∨ bs.length ≠ 64 ∨ x.d1.getLsbD 0 = false ∨ x.size ≤ x.count) →
      ∃ t, happens (.ingressPortWrite fn off bs) s t ∧ t.queue q = { x with drops := min 255 (x.drops + 1) } ∧ t.ms = s.ms) ∧
    (s.mg.firmware = true → q < 2048 → x.func = fn → off % 64 = 0 → bs.length = 64 → x.d1.getLsbD 0 = true → x.count < x.size →
      ∃ t, happens (.ingressPortWrite fn off bs) s t ∧ t.queue q = { x with count := x.count + 1 })) ∧
  (∀ (s u : State) q, let x := s.queue q
    let y : Queue := { x with head := (x.head + 1) % x.size, count := x.count - 1 }
    (x.count = 0 ∨ x.d1.getLsbD 0 = false → nothing (.launchAcceptance q) s) ∧
    (∀ bs, 0 < x.count → x.d1.getLsbD 0 = true → (s.setQueue q y).readPhys (x.slotAt x.head) 64 = (u, some bs) → recBad (dwordsOf bs) = true →
      ∃ t, happens (.launchAcceptance q) s t ∧ t.queue q = { y with drops := min 255 (y.drops + 1) } ∧ t.disp.launches = u.disp.launches) ∧
    (∀ bs, 0 < x.count → x.d1.getLsbD 0 = true → (s.setQueue q y).readPhys (x.slotAt x.head) 64 = (u, some bs) → recBad (dwordsOf bs) = false →
      recRanges (dwordsOf bs) = 0 → ∃ t l, happens (.launchAcceptance q) s t ∧ t.launch? (u.freeLid u.disp.launches.length u.disp.nextLid) = some l ∧
        l.karg = (dwordsOf bs).getD 2 0 ∧ l.code = (dwordsOf bs).getD 0 0 ∧ l.queue = q ∧ l.order = u.disp.nextOrder ∧
        t.disp.nextOrder = u.disp.nextOrder + 1)) ∧
  (∀ (s : State) d i dw (v : BitVec 64), d < 8 → i < 256 → let b := (kvGet (d * 256 + i) s.disp.slottab).getD ⟨0, 0, 0⟩
    ∃ t, happens (.bindRecordWrite d i dw v) s t ∧ (kvGet (d * 256 + i) t.disp.slottab).getD ⟨0, 0, 0⟩ =
      if dw = 0 then { b with d0 := v &&& 0xFFFFFFFF00000001 } else if dw = 1 then { b with d1 := v }
      else if dw = 2 then { b with d2 := v &&& 0x00000000FFFFFFFF } else b) ∧
  (∀ (s : State), (s.nextPlacement = none → nothing .gatherPlacement s) ∧
    (∀ lid l k core n lv sp, s.nextPlacement = some (lid, l, k, core, n, lv, sp) → ∃ t g, happens .gatherPlacement s t ∧
      t.gather? (core * 32 + n) = some g ∧ g.core = core ∧ g.lid = lid ∧ g.gi = l.placed ∧ (s.gidUsed s.disp.nextGid = false → g.gid = s.disp.nextGid) ∧ g.size = k.gather ∧
      g.wsize = k.window ∧ g.lvBase = lv ∧ g.spBase = sp ∧ g.spSize = k.scratch ∧ g.gs = [] ∧ g.wins = [] ∧ g.tags = [] ∧ g.bars = [] ∧ g.meets = [])) ∧
  (∀ (s : State) g ga, s.gather? g = some ga → (s.gatherIdle g ga = false → nothing (.gatherExit g) s) ∧
    let drains : Prop := ga.offered = true ∧ (∃ l, s.launch? ga.lid = some l ∧ l.draining = true) ∧ s.heldLines (dieOfCore ga.core) ≠ []
    let w := ({ s with cur := .gather g } : State).endWins ga.lid g (((s.launch? ga.lid).map fun l => s.setOf l.job).getD 0)
    (s.gatherIdle g ga = true → ¬ drains → ∃ t, happens (.gatherExit g) s t ∧
      (t.gather? g ≠ none → w.2 = true ∨ t.undrained ga.core [] = true) ∧
      (w.2 = false → w.1.undrained ga.core [] = false → t.gather? g = none)) ∧
    (s.gatherIdle g ga = true → drains → ∃ t, happens (.gatherExit g) s t ∧
      (ga.wins = [] → t.gather? g ≠ none → t.heldLines (dieOfCore ga.core) ≠ [] ∨ t.undrained ga.core [] = true))) ∧
  (∀ (s : State) lid l, s.launch? lid = some l → (s.launchOver lid l = false → nothing (.launchCompletion lid) s) ∧
    (s.launchOver lid l = true → l.st ≠ .complete → ∃ t k, happens (.launchCompletion lid) s t ∧ t.launch? lid = some k ∧ k.st = .complete)) ∧
  (∀ (s : State) j job, kvGet j s.disp.jobs = some job → ∃ t k, happens (.jobClose j) s t ∧ kvGet j t.disp.jobs = some k ∧ k.closing = true ∧
    (s.disp.launches = [] → k.done = true) ∧ t.ms = s.ms) ∧
  (∀ (s : State) (h : BitVec 64) pool o, s.obj? h.toNat = some o → o.handle = h →
    (o.st ≠ .wanted → nothing (.codeLoad h pool) s) ∧
    (s.mg.inval ≠ none → nothing (.codeLoad h pool) s) ∧
    (o.st = .wanted → s.mg.inval = none →
      let ctx := s.ctxOfJob o.job
      let ss := sectionsOf o.image
      let ys := symsOf o.image ss
      let span := objSpan o.image
      (∀ e, objectErr o.image = some e → loadFails s h pool e) ∧
      (objectErr o.image = none →
        (∀ e, s.libsReady o.tried o.libs 0 = some (some e) → loadFails s h pool e) ∧
        (s.libsReady o.tried o.libs 0 = some none → happens (.codeLoad h pool) s (s.wantLibs o)) ∧
        (s.libsReady o.tried o.libs 0 = none →
          (∀ e, s.imports o ss ys 0 = .error e → loadFails s h pool e) ∧
          (∀ imps, s.imports o ss ys 0 = .ok imps →
            let share := s.sharedCopy ctx o (sha256 (digestInput o.image ss)) (imps.map (·.2.1))
            let symAt (base i : Nat) : Int := match kvGet i imps, ys[i]? with
              | some a, _ => (a.1 : Int)
              | none, some y => symAddr ss base y
              | none, none => 0
            (s.baseFor ctx o share = none → loadFails s h pool (loadErr 8 0)) ∧
            (∀ base, s.baseFor ctx o share = some base →
              (∀ e, loadedBytes o.image ss base (symAt base) = .error e → loadFails s h pool e) ∧
              (∀ bs, loadedBytes o.image ss base (symAt base) = .ok bs →
                (∀ v p, State.placePages ctx base ss bs share (objPages ss) s pool = (v, p, none) → loadFails s h pool (loadErr 9 0)) ∧
                (∀ v p pages, State.placePages ctx base ss bs share (objPages ss) s pool = (v, p, some pages) →
                  ∃ t m c, happens (.codeLoad h pool) s t ∧ t.obj? h.toNat = some m ∧ m.st = .loading ∧ m.err = 0 ∧ m.base = base ∧
                    m.uses = (imps.map (·.2.2)).eraseDups ∧ m.span = span ∧ m.pages = pages ∧ m.kernels = kernelsAt o.image ss base ∧ t.mg.inval = some c ∧ c.kind = 4 ∧
                    c.ctx = ctx ∧ c.page = vpage base ∧ c.pages = span / 2 ^ 14 ∧ (s.fab.cores = [] → t.ms.mem = v.ms.mem)))))))) ∧
    (o.st ≠ .loading → nothing (.codeLoadComplete h) s) ∧
    (o.st = .loading → o.err = 0 → s.mg.inval = none → s.disp.launches = [] → ∃ t p, happens (.codeLoadComplete h) s t ∧
      t.obj? h.toNat = some p ∧ p = { o with st := .resident }) ∧
    (o.st = .loading → o.err ≠ 0 → s.disp.launches = [] → ∃ t p, happens (.codeLoadComplete h) s t ∧
      t.obj? h.toNat = some p ∧ p = { o with st := .failed } ∧
      (s.mg.mail = [] → t.disp.reports = s.disp.reports ++ [⟨o.func, o.handle, o.err, o.errIdx, o.errP⟩])) ∧
    (o.registered = true → nothing (.codeUnload h) s) ∧
    (o.registered = false → s.refs o = 0 → s.mg.inval = none → o.st = .resident → o.pages = [] →
      ∃ t p, happens (.codeUnload h) s t ∧ t.obj? h.toNat = some p ∧ p.st = .evicting) ∧
    (o.registered = false → s.refs o = 0 → s.mg.inval = none → o.st = .evicting → s.disp.launches = [] →
      ∃ t, happens (.codeUnload h) s t ∧ t.obj? h.toNat = none) ∧
    ((o.registered = false ∧ s.refs o = 0) ∨ s.mg.inval ≠ none → nothing (.codeEviction h) s) ∧
    (o.registered = true → s.refs o = 1 → s.mg.inval = none → o.st = .resident → o.pages = [] →
      ∃ t p, happens (.codeEviction h) s t ∧ t.obj? h.toNat = some p ∧ p.st = .evicting) ∧
    (o.registered = true ∨ s.refs o ≠ 0 → s.mg.inval = none → o.st = .evicting → s.disp.launches = [] →
      ∃ t p, happens (.codeEviction h) s t ∧ t.obj? h.toNat = some p ∧ p = { o with st := .absent, pages := [], uses := [] })) ∧
  (∀ (s : State) lid l, s.launch? lid = some l →
    (l.killed = false → (l.st ≠ .running ∨ l.cancelled = true ∨ l.checkpoint = true ∨ l.kern = none) → nothing (.kill lid) s) ∧
    (∀ k, l.killed = false → l.st = .running → l.cancelled = false → l.checkpoint = false → l.slice = false → l.kern = some k → k.idem = true →
      ∃ t j, happens (.kill lid) s t ∧ t.launch? lid = some j ∧ j.killed = true) ∧
    (l.st ≠ .running → nothing (.drain lid) s) ∧
    (l.st = .running → l.draining = false → ∃ t j, happens (.drain lid) s t ∧ t.launch? lid = some j ∧ j = { l with draining := true } ∧
      t.bindsOf lid = [] ∧ t.fab = s.fab ∧ t.mat = s.mat) ∧
    (l.st = .running → l.draining = true → l.killed = false → l.cancelled = false → s.gathersOf lid = [] →
      ∃ t, happens (.drain lid) s t ∧ t.fab = s.fab ∧ stopsPrograms s t lid) ∧
    (l.st = .running → l.killed = false → l.cancelled = false →
      ∃ t u j k, happens (.timeSliceExpiry lid) s t ∧ happens (.checkpoint lid) s u ∧ t.launch? lid = some j ∧ j.slice = true ∧
        u.launch? lid = some k ∧ k.checkpoint = true ∧ stopsPrograms s t lid ∧ stopsPrograms s u lid) ∧
    (l.st ≠ .running → l.checkpoint = false → nothing (.timeSliceExpiry lid) s ∧ nothing (.checkpoint lid) s) ∧
    (∀ pool, l.checkpoint = false → l.draining = false → nothing (.checkpointSaved lid pool) s) ∧
    (∀ pool u, l.checkpoint = false → l.draining = true → l.st = .running → l.killed = false → l.cancelled = false →
      s.gathersOf lid = [] → s.programsOver lid = false → let w := s.stopPrograms lid
      w.mat.seqs.all (fun q => seqStill lid q.2) = true → w.spillPinned l (w.tilesOf lid) = (u, none) →
      happens (.checkpointSaved lid pool) s (u.saveLaunch lid pool)) ∧
    (∀ pool, l.checkpoint = true → (s.stopLaunch lid).settled lid = false → happens (.checkpointSaved lid pool) s (s.stopLaunch lid)) ∧
    (∀ pool u, l.checkpoint = true → let w := s.stopLaunch lid
      w.settled lid = true → w.gathersOf lid ≠ [] → w.spillPinned l (w.tilesOf lid) = (u, none) → let d := u.drainOffered lid
      (d.offersLeft lid = true → happens (.checkpointSaved lid pool) s d) ∧
      (∀ v waits, d.offersLeft lid = false → d.settleMemory lid (d.setOf l.job) = (v, waits) →
        let still : Prop := waits = true ∨ ∃ p ∈ v.ms.posted, p.set = v.setOf l.job
        (still → happens (.checkpointSaved lid pool) s v) ∧
        (¬ still → happens (.checkpointSaved lid pool) s (v.saveLaunch lid pool)))) ∧
    (∀ sv x q, kvGet lid s.disp.saved = some sv → x ∈ sv.sections → s.seq? x.2.2 = some q → q.run = true → nothing (.restore lid) s) ∧
    (l.st ≠ .saved → l.st ≠ .running → nothing (.restore lid) s) ∧
    let back : Prop := (l.st = .saved ∨ l.st = .running) ∧ l.checkpoint = false ∧ l.killed = false ∧ s.bindsOf lid ≠ [] ∧
      (ctxOf s l.ctx).en = true
    (∀ sv k a u, kvGet lid s.disp.saved = some sv → l.kern = some k → back → s.sectionsFit sv = true →
      s.readSaved (lehrOk (ctxOf s l.ctx) s.clock) sv.lehrs = (u, .error a) →
      happens (.restore lid) s (u.failRestore lid 0x0D (BitVec.ofNat 64 a))) ∧
    (∀ sv k hs u v bs, kvGet lid s.disp.saved = some sv → l.kern = some k → back → s.sectionsFit sv = true →
      s.readSaved (lehrOk (ctxOf s l.ctx) s.clock) sv.lehrs = (u, .ok hs) →
      u.readSaved (headOk 0x4C454853) (sv.sections.map fun x => (x.1, x.2.1)) = (v, .ok bs) →
      happens (.restore lid) s (v.restoreLaunch lid l k sv (hs.map (readLehr v.clock)) ((sv.sections.map (·.2.2)).zip bs)))) ∧
  (∀ (s : State) slot d, s.dbgSlot slot = some d →
    (∃ t, happens (.dbgHaltreq slot) s t ∧ (∀ f x, s.fibre? f = some x → f ∈ s.jobFibres d.job → ∃ y, t.fibre? f = some y ∧ y = { x with halt := true }) ∧
      ∃ e, kvGet slot t.mg.dbg = some e ∧ e = { d with halting := e.halting } ∧
        ∀ f, f ∈ e.halting ↔ (f ∈ d.halting ∨ f ∈ s.jobFibres d.job) ∧ (t.inst? f).isSome ∧
          ∃ y, t.fibre? f = some y ∧ y.halt = true ∧ y.ended = false) ∧
    (∀ (v : BitVec 64) f x, s.fibre? f = some x → x.halt = true → x.ended = false → x.tpend = false → s.inst? f = none →
      (s.gidFibres d (v.extractLsb' 32 32).toNat = [f] → fiOf f = (v.extractLsb' 22 10).toNat →
        ∃ t, happens (.dbgcmdFibre slot v) s t ∧ goesOn s t f) ∧
      (s.gidFibres d (v.extractLsb' 32 32).toNat = [f] → ∃ t, happens (.dbgcmdGather slot v) s t ∧ goesOn s t f) ∧
      (s.jobFibres d.job = [f] → ∃ t, happens (.dbgcmdJob slot v) s t ∧ goesOn s t f))) ∧
  (∀ (s : State) slot (v : BitVec 64), s.dbgSlot slot = none →
    nothing (.dbgHaltreq slot) s ∧ nothing (.dbgcmdFibre slot v) s ∧ nothing (.dbgcmdGather slot v) s ∧ nothing (.dbgcmdJob slot v) s) ∧
  (∀ (s : State) c id, let o := s.own? c id
    (o.st ≠ .home → nothing (.homeTileEviction c id) s) ∧
    (o.st = .home → s.seq? c = none → o.dirty = false → happens (.homeTileEviction c id) s (s.freeTile c id) ∧
      ((s.freeTile c id).own? c id).st = .free) ∧
    (∀ u, o.st = .home → s.seq? c = none → o.dirty = true → s.spillTile c id (s.ctxOfJob o.job) o.job o.handle 1 = (u, none) →
      happens (.homeTileEviction c id) s (u.freeTile c id)))

/-! ## The part as a whole (spec/01, spec/19 to spec/22) -/

/-- R5, R16 to R18, R33, R40, R98, R101, R105, R161, R417, R440, R444, R449, R452 to R454, R456, R457, R459 to R465: services and their
replies, register writes, the host window and peers, links and ports, units that fail, power, and reset. The model's choices in
it: the layouts of the services' requests and replies (log entry 50), cluster failure and what it logs (53), what RESET and a valid
firmware image clear, and that a free bit says whether an image is valid (54), that power changes are applied in the order in which they
were asked for, and the coolant's comparison with the last of them (77), what a link that is down takes with it (81), and that the host and peers enter by link die LD0 (82). -/
def Obligations.PartEvents : Prop :=
  (∀ (s : State) fn, s.mg.firmware = true →
    (asked s fn 1 → fn ≠ 0 → s.mayUse fn ((request s fn 1).extractLsb' 16 16).toNat = false →
      ∃ t, happens (.serviceRegister fn) s t ∧ answers s t fn 2 []) ∧
    (∀ u img, asked s 0 1 → fn = 0 → let d1 := request s 0 1
      let job := (d1.extractLsb' 16 16).toNat
      d1.extractLsb' 1 15 = 0 → request s 0 7 = 0 → request s 0 2 = 0 → (kvGet job s.disp.jobs).isSome →
      s.readImageAt (request s 0 0).toNat (d1.extractLsb' 32 32).toNat = (u, some img) → { u.mg with busErr := s.mg.busErr } = s.mg →
      u.disp = s.disp →
      let h := job * 2 ^ 48 + (kvGet job s.disp.serials).getD 1 * 2 ^ 16
      h < 2 ^ 64 → ∃ t o, happens (.serviceRegister 0) s t ∧ answers s t 0 0 [BitVec.ofNat 64 h, 0] ∧ t.obj? h = some o ∧
        o.image = img ∧ o.job = job ∧ o.registered = true ∧ o.libs = []) ∧
    (∀ o, asked s 0 2 → fn = 0 → s.obj? (request s 0 0).toNat = some o → o.registered = true →
      ∃ t, happens (.serviceWithdraw 0) s t ∧ answers s t 0 0 [] ∧ t.obj? (request s 0 0).toNat = some { o with registered := false }) ∧
    (asked s fn 2 → s.obj? (request s fn 0).toNat = none → ∃ t, happens (.serviceWithdraw fn) s t ∧ answers s t fn 3 []) ∧
    (asked s 0 3 → fn = 0 → s.mg.inval = none → (request s 0 1).extractLsb' 0 3 = 5 →
      ∃ t, happens (.serviceInvalidate 0) s t ∧ answers s t 0 0 [] ∧ t.mg.inval.isSome = true ∧ t.mg.xlatErr = s.mg.xlatErr ∧
        t.mg.xlatVa = request s 0 0 &&& 0xFFFFFFFFFFFFC000) ∧
    (asked s 0 4 → fn = 0 → let mode := ((request s 0 0).extractLsb' 0 3).toNat
      let cap := ((request s 0 0).extractLsb' 8 12).toNat
      (3 < mode ∨ cap < 1600 ∨ 3200 < cap → ∃ t, happens (.servicePowerMode 0) s t ∧ answers s t 0 3 [] ∧ t.mg.power = s.mg.power) ∧
      (mode ≤ 3 → 1600 ≤ cap → cap ≤ 3200 → ∃ t, happens (.servicePowerMode 0) s t ∧ answers s t 0 0 [] ∧
        t.mg.power = { s.mg.power with req := s.mg.power.req ++ [(mode, cap)] })) ∧
    (asked s 0 5 → fn = 0 → ∃ t, happens (.serviceReadLog 0) s t ∧
      answers s t 0 0 (((s.mg.log.drop (request s 0 0).toNat).take 4).flatMap LogEntry.words)) ∧
    (asked s 0 6 → fn = 0 → (8 ≤ ((request s 0 0).extractLsb' 0 8).toNat ∨ 18 < ((request s 0 0).extractLsb' 8 8).toNat →
        ∃ t, happens (.serviceDebugSlot 0) s t ∧ answers s t 0 3 []) ∧
      (∀ n, n < 8 → request s 0 0 = BitVec.ofNat 64 n → ∃ t, happens (.serviceDebugSlot 0) s t ∧ answers s t 0 0 [s.readReg (.dbgctl n)]) ∧
      (∀ n d f x ga, n < 8 → request s 0 0 = BitVec.ofNat 64 (18 * 256 + n) → s.dbgSlot n = some d →
        s.haltedFibre d (request s 0 1) = some (f, x, ga) → let bs := s.fibreRecord f ga x
        let o := 8 * (request s 0 2).toNat
        o < bs.length → ∃ t, happens (.serviceDebugSlot 0) s t ∧
          answers s t 0 0 ((List.range 8).map fun k => BitVec.ofNat 64 (little ((bs.drop (o + 8 * k)).take 8))))) ∧
    (∀ c : Ctx, asked s 0 7 → fn = 0 → (request s 0 0).extractLsb' 0 4 = 0 →
      c = ⟨request s 0 1, request s 0 2, request s 0 3, request s 0 4, ((request s 0 0).extractLsb' 48 16).toNat⟩ →
      let others := s.disp.ctxs.filter fun x => x.1 != c.ctxid && x.2.en
      let allowed : Prop := c.ctxid ∉ s.mg.ctxUsed ∧ (c.en = true → others.length < 1024) ∧ 2 ^ 64 - 2 ^ 57 ≤ c.sb ∧
        ((ctxOf s c.ctxid).en = true → c.en = true → (ctxOf s c.ctxid).sb = c.sb)
      (allowed → ∃ t, happens (.serviceJobConfig 0) s t ∧ answers s t 0 0 [] ∧ ctxOf t c.ctxid = c ∧ t.mg.ctxUsed = c.ctxid :: s.mg.ctxUsed) ∧
      (¬ allowed → ∃ t, happens (.serviceJobConfig 0) s t ∧ answers s t 0 3 [] ∧ t.disp = s.disp)) ∧
    (asked s 0 7 → fn = 0 → request s 0 0 = 3 → ∃ t, happens (.serviceJobConfig 0) s t ∧ answers s t 0 0 [] ∧
      t.mg.peer = if (request s 0 1).getLsbD 63 then some ((request s 0 1).toNat % 1024) else none) ∧
    (fn ≠ 0 → (asked s fn 3 → ∃ t, happens (.serviceInvalidate fn) s t ∧ answers s t fn 2 []) ∧
      (asked s fn 4 → ∃ t, happens (.servicePowerMode fn) s t ∧ answers s t fn 2 []) ∧
      (asked s fn 6 → ∃ t, happens (.serviceDebugSlot fn) s t ∧ answers s t fn 2 []) ∧
      (asked s fn 7 → ∃ t, happens (.serviceJobConfig fn) s t ∧ answers s t fn 2 []))) ∧
  (∀ (s : State), asked s 0 8 → let u : State := { s with free := s.free + 1 }
    (Config.freeBit s.free = true → happens (.serviceLoadFirmware 0) s { State.reset with free := s.free + 1, agenda := s.agenda }) ∧
    (Config.freeBit s.free = false → ∃ t, happens (.serviceLoadFirmware 0) s t ∧ answers u t 0 4 [])) ∧
  (∀ (s : State) fn, ((s.mailbox fn).go = false → nothing (.mailboxReply fn) s) ∧
    (s.mg.firmware = false → (s.mailbox fn).run ≠ 8 → nothing (.mailboxReply fn) s) ∧
    (∀ st rep, (s.mailbox fn).go = true → (s.mailbox fn).pending = some (st, rep) → (s.mailbox fn).run ≠ 1 → (s.mailbox fn).run ≠ 3 →
      (s.mg.firmware = true ∨ (s.mailbox fn).run = 8) →
      ∃ t m, happens (.mailboxReply fn) s t ∧ t.mailbox fn = m ∧ m.status = st ∧ m.done = true ∧ m.go = false ∧ m.pending = none ∧
        m.signals = (s.mailbox fn).signals + 1 ∧ ∀ k < rep.length, kvGet k m.rep = rep[k]?) ∧
    ((s.mailbox fn).go = true → (s.mailbox fn).pending = none → s.mg.firmware = true → ((s.mailbox fn).run = 0 ∨ 8 < (s.mailbox fn).run) →
      ∃ t m, happens (.mailboxReply fn) s t ∧ t.mailbox fn = m ∧ m.status = 1 ∧ m.done = true ∧ m.go = false ∧ m.rep = [])) ∧
  (∀ (s : State) (v : BitVec 64),
    happens (.registerWrite .xlatVa v) s { s with mg := { s.mg with xlatVa := v &&& 0xFFFFFFFFFFFFC000 } } ∧
    (s.mg.inval = none → v.extractLsb' 0 3 = 5 → ∃ t, happens (.registerWrite .xlatCmd v) s t ∧ t.readReg .xlatCmd = v &&& 0x3FFFFFFF) ∧
    happens (.registerWrite .xlatStat v) s { s with mg := { s.mg with xlatErr := s.mg.xlatErr && !v.getLsbD 1 } } ∧
    happens (.registerWrite .ement v) s { s with mg := { s.mg with ement := v &&& 0xFFFFFFFFFFFFFFFD } } ∧
    (∀ d, nothing (.registerWrite (.incarn d) v) s) ∧ (∀ b, nothing (.registerWrite (.brstat b) v) s) ∧ (∀ f, nothing (.registerWrite (.fstat f) v) s) ∧
    (∀ fn k, fn < 64 → k < 8 → ∃ t, happens (.registerWrite (.mbreq fn k) v) s t ∧ t.readReg (.mbreq fn k) = v ∧ t.ms = s.ms) ∧
    (∀ fn, fn < 64 → let m := s.mailbox fn
      ∃ t, happens (.registerWrite (.mbctl fn) v) s t ∧ let n := t.mailbox fn
      (v.getLsbD 0 = true → (m.go = false ∨ (s.mg.firmware = false ∧ v.extractLsb' 24 8 = 8 ∧ m.run ≠ 8)) →
        n.go = true ∧ n.code = (v.extractLsb' 24 8).toNat ∧ n.run = n.code ∧ n.taken = m.req) ∧
      (v.getLsbD 0 = true → m.go = true → s.mg.firmware = true → n = m) ∧
      (v.getLsbD 0 = false → n = { m with code := (v.extractLsb' 24 8).toNat, done := m.done && !v.getLsbD 1 }))) ∧
  (∀ (s : State) off bs, (bs.length ∉ [8, 16, 32, 64] ∨ off % bs.length ≠ 0 ∨ 2 ^ 34 ≤ off ∨ (∃ k < bs.length, chipOf s (off + k) = .absent) →
      happens (.onchipMapWrite off bs) s { s with mg := { s.mg with busErr := true } }) ∧
    (bs.length ∈ [8, 16, 32, 64] → off % bs.length = 0 → off < 2 ^ 34 → (∀ k < bs.length, chipOf s (off + k) ≠ .absent) →
      ∃ t, happens (.onchipMapWrite off bs) s t ∧ t = { s.chipWrite (cellsAt off bs) with mg := t.mg } ∧ t.mg.busErr = false)) ∧
  (∀ (s : State) fn off bs, fn < 64 → off + bs.length ≤ 2 ^ 36 → let pa := (kvGet fn s.mg.hwBase).getD 0 + off
    (s.mg.firmware = false → nothing (.hostWindowAccess fn off 0 (some bs)) s) ∧
    (s.mg.firmware = true → inMemory s pa bs.length → s.ms.poison = [] → s.ms.grants = [] → ∃ t, happens (.hostWindowAccess fn off 0 (some bs)) s t ∧
      (∀ k < bs.length, t.byte (pa + k) = bs.getD k 0) ∧ ∀ a, a < pa ∨ pa + bs.length ≤ a → t.byte a = s.byte a) ∧
    (∀ n, (∃ k < n, (placeOf s (pa + k)).isMem = false) → nothing (.hostWindowAccess fn off n none) s) ∧
    (∀ n, s.ms.grants = [] → ∃ t, happens (.hostWindowAccess fn off n none) s t ∧ t.ms.mem = s.ms.mem)) ∧
  (∀ (s : State) a bs n, s.ms.poison = [] → s.ms.grants = [] → inMemory s a bs.length → a + bs.length ≤ 2 ^ 40 →
    (∃ t, happens (.peerRequest .write a n bs) s t ∧ (∀ k < bs.length, t.byte (a + k) = bs.getD k 0) ∧
      ∀ b, b < a ∨ a + bs.length ≤ b → t.byte b = s.byte b) ∧
    (∃ t, happens (.peerRequest .read a n bs) s t ∧ t.ms.mem = s.ms.mem) ∧
    (bs.length = 4 → a % 4 = 0 → ∀ red, ∃ t, happens (.peerRequest (.atomic 2 false red) a n bs) s t ∧
      holds t a (oldAt s 32 a + BitVec.ofNat 32 (little bs)) ∧ ∀ b, b < a ∨ a + 4 ≤ b → t.byte b = s.byte b)) ∧
  (∀ (s : State) port, s.ms.fills = [] → s.fab.prods = [] → s.fab.fibres = [] → s.ms.copies = [] → s.ms.walks = [] → s.fab.insts = [] →
      s.mat.seqs = [] →
    (s.ms.breads = [] → ∃ t, happens (.secondTierTimeout port) s t ∧ t.ms.fresh = s.ms.fresh ∧ t.ms.mem = s.ms.mem) ∧
    (∀ b, s.ms.breads = [b] → placeOf s b.pa = .tier port → s.sharers (lineOf b.pa) = [] → ∃ t, happens (.secondTierTimeout port) s t ∧ t.ms.breads = [] ∧
      t.ms.fresh = s.ms.fresh ++ [(b.agent, .fail 0x0D (BitVec.ofNat 64 b.va))])) ∧
  (∀ (s : State) b, b < 28 → (s.bridge b).down = false → let x := s.bridge b
    (∀ ok, ∃ t, happens (.flitReplay ⟨b, ok⟩) s t ∧
      t.bridge b = { x with retry := min 0xFFFF (x.retry + 1), fails := if x.fails = 8 then 8 else if ok then 0 else x.fails + 1 }) ∧
    (x.fails < 8 → ∀ ok, nothing (.linkRetrain b ok) s) ∧
    (8 ≤ x.fails → ∃ t, happens (.linkRetrain b true) s t ∧ t.bridge b = { x with retrain := min 0xF (x.retrain + 1), fails := 0, up := true }) ∧
    (8 ≤ x.fails → x.spares = 0 → ∃ t, happens (.linkRetrain b false) s t ∧ t.bridge b = { x with retrain := min 0xF (x.retrain + 1), up := false }) ∧
    (8 ≤ x.fails → 0 < x.spares → ∃ t, happens (.linkRetrain b false) s t ∧ (t.bridge b).spares = x.spares - 1 ∧ (t.bridge b).up = true ∧
      (t.bridge b).spare = x.spare + 1) ∧
    ((x.fails ≠ 8 ∨ x.spares ≠ 0 ∨ x.up = true) → nothing (.linkDown b) s) ∧
    (x.fails = 8 → x.spares = 0 → x.up = false → ∃ t, happens (.linkDown b) s t ∧ t.mg.degraded = true ∧
      t.mg.dies.getLsbD (linkFar (b / 2)) = false ∧ ∀ e, e / 2 = b / 2 → (t.bridge e).down = true ∧ (t.bridge e).up = false)) ∧
  (∀ (s : State) p, p < 24 → (∃ t, happens (.portLaneFailure p) s t ∧ (t.port p).lanes = min 2 (s.port p).lanes ∧ (t.port p).up = (s.port p).up) ∧
    ((s.port p).up = false → nothing (.portDown p) s) ∧
    ((s.port p).up = true → ∃ t, happens (.portDown p) s t ∧ (t.port p).up = false ∧ t.mg.degraded = true)) ∧
  (∀ (s : State) d, d < 8 → (s.mg.dies.getLsbD d = false → nothing (.dieOutOfService d) s) ∧
    (s.mg.dies.getLsbD d = true → ∃ t, happens (.dieOutOfService d) s t ∧ t.mg.dies = s.mg.dies &&& ~~~(1#8 <<< d) ∧ t.mg.degraded = true) ∧
    ∀ stack, ∃ t e, happens (.rowSparing d stack) s t ∧ t.mg.log = s.mg.log ++ [e] ∧ e.kind = 3 ∧ t.ms = s.ms) ∧
  (∀ (s : State) c, c < 160 → s.mg.dies.getLsbD (c / 20) = true → c / 20 ∉ s.mg.spareUsed → ∃ t, happens (.clusterFailure c) s t ∧
    t.mg.spareUsed = c / 20 :: s.mg.spareUsed ∧ t.mg.dies = s.mg.dies ∧ t.seq? c = none ∧
    ∀ k < 4, t.coreInc (4 * c + k) = (s.coreInc (4 * c + k) + 1) % 256) ∧
  (∀ (s : State), (∀ i ∈ s.fab.insts, i.2.holdsPower = false) → ∃ t, happens .powerChangeApply s t ∧ t.mg.power.req = s.mg.power.req.tail ∧
    t.mg.power.thr = s.mg.power.nextThr ∧ (∀ m cap r, s.mg.power.req = (m, cap) :: r → t.mg.power.budget = cap ∧
      t.mg.power.mode = if m = 0 ∧ cap < 3200 then 4 else m) ∧ (s.mg.power.req = [] → t.mg.power.mode = s.mg.power.mode)) ∧
  (∀ (s : State) est estF, (s.clock < s.mg.power.last + 2 ^ 16 → nothing (.arbiterInterval est estF) s) ∧
    (s.mg.power.last + 2 ^ 16 ≤ s.clock → ∃ t, happens (.arbiterInterval est estF) s t ∧ t.mg.power.last = s.clock ∧
      t.mg.power.nextThr ≤ s.mg.power.thr + 4 ∧ s.mg.power.thr ≤ t.mg.power.nextThr + 4 ∧
      (est.getD 0 0 ≤ s.mg.power.budget → t.mg.power.nextThr = s.mg.power.thr - 4))) ∧
  (∀ (s : State) w, let p := s.mg.power
    let asks : Nat × Nat := p.req.getLast?.getD (if p.mode = 4 then 0 else p.mode, p.budget)
    (asks.2 ≤ max 1600 w → nothing (.coolantLimit w) s) ∧
    (max 1600 w < asks.2 → ∃ t, happens (.coolantLimit w) s t ∧ t.mg.power = { p with req := p.req ++ [(asks.1, max 1600 w)] })) ∧
  (∀ (s : State), happens .reset s { State.reset with free := s.free, agenda := s.agenda } ∧
    happens .managementCoreFailure s { s with mg := { s.mg with firmware := false } })

namespace Sys2Proof.Claims

/-- Instructions that stand in sequencer code only (R342, R345). -/
def sequencerOnly : Instr → Bool
  | .sequencerRdv _ _ => true
  | .mma _ _ _ => true
  | .mdelta _ _ _ => true
  | .mscan _ _ _ => true
  | .mout _ _ => true
  | .mlda _ _ => true
  | .mzero _ _ => true
  | .mpin _ _ _ => true
  | .munpin _ => true
  | .mspill _ _ => true
  | .mfill _ _ => true
  | .mwait _ => true
  | .mown _ _ => true
  | _ => false
/-- What a destination takes, and nothing else of the instance changes but that (R237, R274). -/
def writesOnly (n : Inst) (d : Dest) (x : Dword) (m : Inst) : Prop :=
  (∀ k, kvGet k m.toks = if d = .v (BitVec.ofNat 6 k) ∧ k < 64 then some (.val x) else kvGet k n.toks) ∧
  (∀ k, kvGet k m.slotW = (match d with
    | .w j => if j.val = k then some (.full x) else kvGet k n.slotW
    | _ => kvGet k n.slotW)) ∧
  (∀ k, kvGet k m.gW = if d = .g (BitVec.ofNat 2 k) ∧ k < 4 then some x else kvGet k n.gW) ∧
  m.pwW = (if d = .pw then some (x.extractLsb' 0 16) else n.pwW) ∧
  (m.todo, m.stores, m.forks, m.post, m.xfer, m.bars, m.faults, m.live, m.gs, m.pw) =
    (n.todo, n.stores, n.forks, n.post, n.xfer, n.bars, n.faults, n.live, n.gs, n.pw)

end Sys2Proof.Claims

/-! ## Operands, encoding, reset and steps (spec/10, spec/01) -/

/-- R237, R343: what each operand name reads in a node, a literal by sign; in sequencer code the registers of the cluster's
sequencer. -/
def Obligations.OperandsReadAsNamed : Prop :=
  (∀ n : Inst, (∀ k : BitVec 6, ∀ x, kvGet k.toNat n.toks = some (.val x) → n.read (.v k) = .val x) ∧
    (∀ k : BitVec 6, kvGet k.toNat n.toks = none → n.read (.v k) = .wait) ∧
    (∀ k x, kvGet k.val n.live = some x → n.read (.w k) = .val x) ∧
    (∀ k : BitVec 2, n.read (.g k) = .val ((kvGet k.toNat n.gs).getD 0)) ∧
    n.read .zero = .val 0 ∧ n.read .fi = .val n.fi ∧ n.read .gi = .val n.gi ∧ n.read .ka = .val n.ka ∧ n.read .sb = .val n.sb ∧
    n.read .wb = .val n.wb ∧ n.read .pw = .val (n.pw.zeroExtend 64) ∧ ∀ x : Word, n.read (.lit x) = .val (x.signExtend 64)) ∧
  (∀ q : Seq, (∀ k : BitVec 6, q.read (.v k) = (kvGet k.toNat q.regs).getD 0) ∧ (∀ k, q.read (.w k) = (kvGet (64 + k.val) q.regs).getD 0) ∧
    q.read .zero = 0 ∧ ∀ x : Word, q.read (.lit x) = x.signExtend 64)

/-- R237, R274, R207: a node's result reaches its destination and nothing else: a v value at once, the others for the commit; zero
discards it; pw takes 16 bits. A sequencer writes the register named. -/
def Obligations.ResultsReachTheirDestination : Prop :=
  (∀ (n : Inst) (d : Dest) (x : Dword), writesOnly n d x (n.put d x)) ∧
  (∀ (n : Inst) (e : Nat), (n.done e).todo = n.todo.erase e ∧ (n.done e).toks = n.toks ∧ (n.done e).slotW = n.slotW) ∧
  (∀ (q : Seq) (x : Dword), (∀ j k : BitVec 6, (q.put (.v j) x).read (.v k) = if j = k then x else q.read (.v k)) ∧
    (∀ (j : BitVec 6) k, (q.put (.v j) x).read (.w k) = q.read (.w k)) ∧
    (∀ j k, (q.put (.w j) x).read (.w k) = if j = k then x else q.read (.w k)) ∧ q.put .zero x = q)

/-- R237 to R248: every instruction of fibre code that is well formed, and every one that sequencer code accepts, is decoded from
its own words, with every operand and whatever words follow. -/
def Obligations.DecodingUndoesEncoding : Prop :=
  (∀ (i : Instr) (r : List Word), i.wellFormed false = true → encode i ≠ [] → sequencerOnly i = false →
    decode false (encode i ++ r) = .ok (i, r)) ∧
  (∀ (i : Instr) (r : List Word), i.wellFormed true = true → i.seqOk = true → encode i ≠ [] →
    decode true (encode i ++ r) = .ok (i, r))

/-- R239, R247, R345: major 0x00, a header's major in a body, an extension word's major and, in fibre code, the MAT major are no
instruction; a field of 126 needs its literal word; an unused field must be 0. Words of the worked cases of spec/11, spec/12, spec/13 and
spec/18 decode to the instructions that those cases name. -/
def Obligations.WordsDecodeAsStated : Prop :=
  (∀ sq (w : Word) r, w.extractLsb' 27 5 = 0 → decode sq (w :: r) = .error .illMajor) ∧
  (∀ sq (w : Word) r, w.extractLsb' 27 5 = 1 → decode sq (w :: r) = .error .header) ∧
  (∀ sq (w : Word) r, w.extractLsb' 27 5 = 0x1F → decode sq (w :: r) = .error .extension) ∧
  (∀ (w : Word) r, w.extractLsb' 27 5 = 0x1D → decode false (w :: r) = .error .matrix) ∧
  (∀ sq (w : Word) r, w.extractLsb' 27 5 = 2 → w.extractLsb' 20 7 ≠ 0 → decode sq (w :: r) = .error .unused) ∧
  decode false [0x600FC000] = .error .noLiteral ∧
  decode false [0x50081E02] = .ok (.icmp 0 2 (.v 0) (.w 0) .zero, []) ∧
  decode false [0x401F1001] = .ok (.sub (.v 1) .zero (.w 0), []) ∧
  decode false [0x3C10300B, 0xF8000000] = .ok (.sel (.w 1) (.v 1) (.w 0) (.v 0), []) ∧
  decode false [0x18000006] = .ok (.brt (.v 0) 6, []) ∧
  decode false [0x10080032] = .ok (.jmp 0x80032, []) ∧
  decode false [0x60509FDC] = .ok (.addi true (.v 5) (.v 4) 0xFDC, []) ∧
  decode false [0xC4580042, 0xF8090000] = .ok (.atomAdd false 4 2 (.w 5) (.w 0) (.v 1), []) ∧
  decode false [0xC420006C, 0xF8288000] = .ok (.atomCas true 4 1 (.w 2) (.v 0) (.v 1) (.v 2), []) ∧
  decode false [0xC80800CF, 0xF8000000] = .ok (.redFadd false 0 0 (.w 0) (.v 3), []) ∧
  decode false [0x984020A8, 0xF8300000] = .ok (.hdot2 true (.v 4) (.v 1) (.v 2) (.v 3), []) ∧
  decode false [0xA0200050] = .ok (.pk4 (.v 2) (.v 0) (.v 1), [])

/-- R14 to R16, R65 to R67, R72, R106, R184, R354, R378, R386, R412, R415, R450: what reset leaves. -/
def Obligations.ResetLeavesTheStatedValues : Prop :=
  State.reset.clock = 0 ∧ State.reset.mg.power.word = 0x000C8000 ∧ State.reset.mg.xlatVa = 0 ∧ State.reset.mg.xlatCmd = 0 ∧
  State.reset.xlatStat = 0 ∧ State.reset.bvdrain = 0 ∧ State.reset.mg.ement = 0 ∧ State.reset.mg.dies = 0xFF ∧
  State.reset.mg.degraded = false ∧ (∀ n, n < 8 → State.reset.dbgSlot n = none) ∧
  (∀ core, (partOf State.reset core).now = ⟨0x08, 0x10, 0x02, 0x06⟩ ∧ (partOf State.reset core).pend = 0) ∧
  (∀ die, State.reset.dieInc die = 0) ∧ (∀ core, State.reset.coreInc core = 0) ∧
  (∀ cl id, (State.reset.own? cl id).st = .free ∧ (State.reset.own? cl id).handle = 0 ∧ (State.reset.own? cl id).dirty = false ∧
    (State.reset.own? cl id).tokens = 0) ∧
  (∀ lid, State.reset.launch? lid = none) ∧ (∀ f, State.reset.fibre? f = none) ∧ State.reset.disp.queues = []

/-- The memory of the state after reset is in its canonical form, the model's way of holding the bytes of R28's map (log entry 1). -/
def Obligations.ResetMemoryIsCanonical : Prop := Safety.MemoryCanonical State.reset

/-- Whatever step is taken from whatever state, memory stays in its canonical form: addresses strictly rising, no listed zero. The
form is the model's choice (log entry 1), not the spec's. -/
def Obligations.StepsKeepMemoryCanonical : Prop :=
  ∀ s t : State, Safety.MemoryCanonical s → step s = .next t → Safety.MemoryCanonical t

/-- No instruction and no step is refused, whatever the state: every meaning goes on, or names the agent that is missing. It is a
coverage property of the model (its refusal `notModelled` is never answered), in accordance with the rules that give every encoding and
every event an effect: R247 and R209 for the words of a block, R345 for sequencer code, R407 for what traps. -/
def Obligations.NothingIsRefused : Prop :=
  (∀ (i : Instr) (s : State) (r : Refusal), exec i s ≠ .refused r) ∧ ∀ (s : State) (r : Refusal), step s ≠ .refused r

/-- R131, R342, R213, R150: one step executes the instruction that the words name: the first event of the agenda; a node of an
instance, whose words in the body decode to it; the head of a fibre's post-commit operations; a sequencer's instruction, fetched
at its PC; an event that is due; a fibre's commit with every other instance of its core that is ready. Each step adds 1 to CLOCK (log
entry 11), and sequencer code counts (R379). What the model adds around it: a move that needs what has to wait is not made in that
cycle (the model's choice, log entry 61), and caches that hold too much let go. A barrier that the cycle has found complete completes at
its end (R268). -/
def Obligations.AStepRunsTheDecodedInstruction : Prop :=
  (∀ s : State, s.tick.clock = s.clock + 1 ∧
    (s.fab.cores = [] → s.mat.seqs = [] → s.ms.l1 = [] → s.mg.dbg = [] → s.tick = { s with clock := s.clock + 1 })) ∧
  (∀ s t : State, t.ms.l1tag.length ≤ 8 → t.ms.l2.length ≤ 16 → (∀ p ∈ t.ms.l2, p.2.recs.length ≤ 4) → t.ms.atsUsed = [] →
    s.after (.next t) = .next (if t.ms.hold then { s with ms := { s.ms with ats := t.ms.ats } } else t)) ∧
  (∀ (s : State) e, s.after (.fault e) = .fault e ∧ s.atEnd (.fault e) = .fault e) ∧
  (∀ s t : State, (∀ g ∈ s.fab.gathers, ∀ b ∈ g.2.bars, b.2.na < (s.liveFibres g.1).length) → s.atEnd (.next t) = .next t) ∧
  (∀ (s : State) (i : Instr) r, s.agenda = i :: r →
    let u : State := { s.tick with agenda := r, cur := .none }
    (∀ t, exec i u = .next t → t.trim.trimAts.ms.hold = false → step s = s.tick.atEnd (.next t.trim.trimAts)) ∧
    (∀ e, exec i u = .fault e → step s = .fault e) ∧
    (∀ t, exec i u = .next t → t.trim.trimAts.ms.hold = true → r = [] →
      let v := s.tick.unmade t.trim.trimAts
      step s = s.tick.atEnd (match v.nextMove with
        | some m => v.after (v.make m)
        | none => .next v))) ∧
  (∀ s : State, s.agenda = [] → s.tick.nextMove = none → step s = s.tick.atEnd (.next s.tick)) ∧
  (∀ (s : State) (i : Instr), s.agenda = [] → s.tick.nextMove = some (.event i) → (∀ f, i ≠ .commit f) →
    step s = s.tick.atEnd (s.tick.after (exec i { s.tick with cur := .none }))) ∧
  (∀ (s : State) (f : Nat), s.agenda = [] → s.tick.nextMove = some (.event (.commit f)) →
    let u : State := { s.tick with cur := .none }
    step s = s.tick.atEnd (s.tick.after (.next (u.commitAll (coreOf f)))) ∧
    (∀ x n, u.fab.insts = [(f, n)] → u.fab.fibres = [(f, x)] → x.ended = false → u.commitReady f x n = true →
      step s = s.tick.atEnd (s.tick.after (.next
        { (u.attempt fun w => State.commitIf { w with cur := .gather (gatherOf f) } [f] f).checkBars (gatherOf f) with cur := .none })))) ∧
  (∀ (s : State) (f e : Nat) (n : Inst) (i : Instr) r, s.agenda = [] → s.tick.nextMove = some (.node f e) →
    s.tick.inst? f = some n → (∀ p, n.subst = some p → p.1 ≠ e) → e ∈ (nodesOf n.body).map (·.1) →
    decode false (n.body.drop e) = .ok (i, r) → step s = s.tick.atEnd (s.tick.after (exec i { s.tick with cur := .node f e }))) ∧
  (∀ (s : State) (f : Nat) (x : Fibre) p r, s.agenda = [] → s.tick.nextMove = some (.post f) →
    s.tick.fibre? f = some x → x.post = p :: r → step s = s.tick.atEnd (s.tick.after (exec p.op { s.tick with cur := .post f }))) ∧
  (∀ (s u : State) (c : Nat) (q : Seq) ws p r, s.agenda = [] → s.tick.nextMove = some (.seq c) →
    s.tick.seq? c = some q → goodTarget q.pc.toNat = true →
    (s.tick.setSeq c { q with stall := 0 }).seqFetch c q.ctx q.pc.toNat 5 = (u, ws, none) → parseOk true ws = .ok (p, r) → p.seqOk = true →
    decode true ws = .ok (p.instr, r) ∧ step s = s.tick.atEnd (s.tick.after (seqCounted c q p (exec p.instr { u with cur := .seq c }))))
end

