-- ==== Sys2Proof/Laws/Dispatch.lean ====
section
/-! SUPPORT. What `exec` calls for each instruction and event, one lemma each, so that no proof unfolds the dispatch. -/
namespace Sys2Proof.Machine

@[simp] theorem exec_blockAdmission f s : exec (.blockAdmission f) s = execBlockAdmission f s := rfl
@[simp] theorem exec_commit f s : exec (.commit f) s = execCommit f s := rfl
@[simp] theorem exec_instanceFault f s : exec (.instanceFault f) s = execInstanceFault f s := rfl
@[simp] theorem exec_postCommitTrapDelivery f s : exec (.postCommitTrapDelivery f) s = execPostCommitTrapDelivery f s := rfl
@[simp] theorem exec_loadResultArrival p s : exec (.loadResultArrival p) s = execLoadResultArrival p s := rfl
@[simp] theorem exec_schedulerChoice core s : exec (.schedulerChoice core) s = execSchedulerChoice core s := rfl
@[simp] theorem exec_instructionLineFill core ctx line s : exec (.instructionLineFill core ctx line) s = execInstructionLineFill core ctx line s := rfl
@[simp] theorem exec_configBuildComplete core ctx hdr s : exec (.configBuildComplete core ctx hdr) s = execConfigBuildComplete core ctx hdr s := rfl
@[simp] theorem exec_configPlacement core ctx hdr s : exec (.configPlacement core ctx hdr) s = execConfigPlacement core ctx hdr s := rfl
@[simp] theorem exec_nodeTeardown core cfg node s : exec (.nodeTeardown core cfg node) s = execNodeTeardown core cfg node s := rfl
@[simp] theorem exec_fibreAgeing f s : exec (.fibreAgeing f) s = execFibreAgeing f s := rfl
@[simp] theorem exec_yieldDelayExpiry f s : exec (.yieldDelayExpiry f) s = execYieldDelayExpiry f s := rfl
@[simp] theorem exec_windowFillComplete g line s : exec (.windowFillComplete g line) s = execWindowFillComplete g line s := rfl
@[simp] theorem exec_homeWrite j s : exec (.homeWrite j) s = execHomeWrite j s := rfl
@[simp] theorem exec_copyOperationComplete core j s : exec (.copyOperationComplete core j) s = execCopyOperationComplete core j s := rfl
@[simp] theorem exec_drainRequest j s : exec (.drainRequest j) s = execDrainRequest j s := rfl
@[simp] theorem exec_acquireComplete f s : exec (.acquireComplete f) s = execAcquireComplete f s := rfl
@[simp] theorem exec_fenceTokenArrival j s : exec (.fenceTokenArrival j) s = execFenceTokenArrival j s := rfl
@[simp] theorem exec_fenceComplete f s : exec (.fenceComplete f) s = execFenceComplete f s := rfl
@[simp] theorem exec_l1AgeingSweep core s : exec (.l1AgeingSweep core) s = execL1AgeingSweep core s := rfl
@[simp] theorem exec_coherenceRequest die line excl s : exec (.coherenceRequest die line excl) s = execCoherenceRequest die line excl s := rfl
@[simp] theorem exec_lineEviction die line s : exec (.lineEviction die line) s = execLineEviction die line s := rfl
@[simp] theorem exec_directoryEntryEviction line s : exec (.directoryEntryEviction line) s = execDirectoryEntryEviction line s := rfl
@[simp] theorem exec_directoryError line s : exec (.directoryError line) s = execDirectoryError line s := rfl
@[simp] theorem exec_agentRejoin isDie unit s : exec (.agentRejoin isDie unit) s = execAgentRejoin isDie unit s := rfl
@[simp] theorem exec_holderOffer j s : exec (.holderOffer j) s = execHolderOffer j s := rfl
@[simp] theorem exec_grantRequest die line s : exec (.grantRequest die line) s = execGrantRequest die line s := rfl
@[simp] theorem exec_forcedDrain die line s : exec (.forcedDrain die line) s = execForcedDrain die line s := rfl
@[simp] theorem exec_drainApplied j s : exec (.drainApplied j) s = execDrainApplied j s := rfl
@[simp] theorem exec_boundedRead j s : exec (.boundedRead j) s = execBoundedRead j s := rfl
@[simp] theorem exec_repartitionBankEmpty core s : exec (.repartitionBankEmpty core) s = execRepartitionBankEmpty core s := rfl
@[simp] theorem exec_l1FlushComplete core s : exec (.l1FlushComplete core) s = execL1FlushComplete core s := rfl
@[simp] theorem exec_xlatInvPageRange v s : exec (.xlatInvPageRange v) s = execXlatInvPageRange v s := rfl
@[simp] theorem exec_xlatInvContext v s : exec (.xlatInvContext v) s = execXlatInvContext v s := rfl
@[simp] theorem exec_xlatInvRegion v s : exec (.xlatInvRegion v) s = execXlatInvRegion v s := rfl
@[simp] theorem exec_xlatInvCodeRange v s : exec (.xlatInvCodeRange v) s = execXlatInvCodeRange v s := rfl
@[simp] theorem exec_xlatInvAll v s : exec (.xlatInvAll v) s = execXlatInvAll v s := rfl
@[simp] theorem exec_xlatInvalidationDone s : exec (.xlatInvalidationDone) s = execXlatInvalidationDone s := rfl
@[simp] theorem exec_cspartWrite core v s : exec (.cspartWrite core v) s = execCspartWrite core v s := rfl
@[simp] theorem exec_bvdrainWrite v s : exec (.bvdrainWrite v) s = execBvdrainWrite v s := rfl
@[simp] theorem exec_qcfgWrite q dw v s : exec (.qcfgWrite q dw v) s = execQcfgWrite q dw v s := rfl
@[simp] theorem exec_ingressPortWrite func off bytes s : exec (.ingressPortWrite func off bytes) s = execIngressPortWrite func off bytes s := rfl
@[simp] theorem exec_launchAcceptance q s : exec (.launchAcceptance q) s = execLaunchAcceptance q s := rfl
@[simp] theorem exec_bindRecordWrite die idx dw v s : exec (.bindRecordWrite die idx dw v) s = execBindRecordWrite die idx dw v s := rfl
@[simp] theorem exec_gatherPlacement s : exec (.gatherPlacement) s = execGatherPlacement s := rfl
@[simp] theorem exec_gatherExit g s : exec (.gatherExit g) s = execGatherExit g s := rfl
@[simp] theorem exec_launchCompletion lid s : exec (.launchCompletion lid) s = execLaunchCompletion lid s := rfl
@[simp] theorem exec_codeLoad handle pool s : exec (.codeLoad handle pool) s = execCodeLoad handle pool s := rfl
@[simp] theorem exec_codeLoadComplete handle s : exec (.codeLoadComplete handle) s = execCodeLoadComplete handle s := rfl
@[simp] theorem exec_codeUnload handle s : exec (.codeUnload handle) s = execCodeUnload handle s := rfl
@[simp] theorem exec_codeEviction handle s : exec (.codeEviction handle) s = execCodeEviction handle s := rfl
@[simp] theorem exec_kill lid s : exec (.kill lid) s = execKill lid s := rfl
@[simp] theorem exec_drain lid s : exec (.drain lid) s = execDrain lid s := rfl
@[simp] theorem exec_checkpoint lid s : exec (.checkpoint lid) s = execCheckpoint lid s := rfl
@[simp] theorem exec_checkpointSaved lid pool s : exec (.checkpointSaved lid pool) s = execCheckpointSaved lid pool s := rfl
@[simp] theorem exec_restore lid s : exec (.restore lid) s = execRestore lid s := rfl
@[simp] theorem exec_timeSliceExpiry lid s : exec (.timeSliceExpiry lid) s = execTimeSliceExpiry lid s := rfl
@[simp] theorem exec_sequencerProgramStart cl s : exec (.sequencerProgramStart cl) s = execSequencerProgramStart cl s := rfl
@[simp] theorem exec_matComplete cl j s : exec (.matComplete cl j) s = execMatComplete cl j s := rfl
@[simp] theorem exec_dbgHaltreq slot s : exec (.dbgHaltreq slot) s = execDbgHaltreq slot s := rfl
@[simp] theorem exec_dbgcmdFibre slot v s : exec (.dbgcmdFibre slot v) s = execDbgcmdFibre slot v s := rfl
@[simp] theorem exec_dbgcmdGather slot v s : exec (.dbgcmdGather slot v) s = execDbgcmdGather slot v s := rfl
@[simp] theorem exec_dbgcmdJob slot v s : exec (.dbgcmdJob slot v) s = execDbgcmdJob slot v s := rfl
@[simp] theorem exec_serviceRegister func s : exec (.serviceRegister func) s = execServiceRegister func s := rfl
@[simp] theorem exec_serviceWithdraw func s : exec (.serviceWithdraw func) s = execServiceWithdraw func s := rfl
@[simp] theorem exec_serviceInvalidate func s : exec (.serviceInvalidate func) s = execServiceInvalidate func s := rfl
@[simp] theorem exec_servicePowerMode func s : exec (.servicePowerMode func) s = execServicePowerMode func s := rfl
@[simp] theorem exec_serviceReadLog func s : exec (.serviceReadLog func) s = execServiceReadLog func s := rfl
@[simp] theorem exec_serviceDebugSlot func s : exec (.serviceDebugSlot func) s = execServiceDebugSlot func s := rfl
@[simp] theorem exec_serviceJobConfig func s : exec (.serviceJobConfig func) s = execServiceJobConfig func s := rfl
@[simp] theorem exec_serviceLoadFirmware func s : exec (.serviceLoadFirmware func) s = execServiceLoadFirmware func s := rfl
@[simp] theorem exec_mailboxReply func s : exec (.mailboxReply func) s = execMailboxReply func s := rfl
@[simp] theorem exec_onchipMapWrite off bytes s : exec (.onchipMapWrite off bytes) s = execOnchipMapWrite off bytes s := rfl
@[simp] theorem exec_registerWrite r v s : exec (.registerWrite r v) s = execRegisterWrite r v s := rfl
@[simp] theorem exec_hostWindowAccess func off len wr s : exec (.hostWindowAccess func off len wr) s = execHostWindowAccess func off len wr s := rfl
@[simp] theorem exec_peerRequest op addr len bytes s : exec (.peerRequest op addr len bytes) s = execPeerRequest op addr len bytes s := rfl
@[simp] theorem exec_atsInvalidation func base span s : exec (.atsInvalidation func base span) s = execAtsInvalidation func base span s := rfl
@[simp] theorem exec_priResponse func page ok s : exec (.priResponse func page ok) s = execPriResponse func page ok s := rfl
@[simp] theorem exec_priTimeout func page s : exec (.priTimeout func page) s = execPriTimeout func page s := rfl
@[simp] theorem exec_secondTierTimeout port s : exec (.secondTierTimeout port) s = execSecondTierTimeout port s := rfl
@[simp] theorem exec_flitReplay br s : exec (.flitReplay br) s = execFlitReplay br s := rfl
@[simp] theorem exec_linkRetrain br ok s : exec (.linkRetrain br ok) s = execLinkRetrain br ok s := rfl
@[simp] theorem exec_linkDown br s : exec (.linkDown br) s = execLinkDown br s := rfl
@[simp] theorem exec_portLaneFailure port s : exec (.portLaneFailure port) s = execPortLaneFailure port s := rfl
@[simp] theorem exec_portDown port s : exec (.portDown port) s = execPortDown port s := rfl
@[simp] theorem exec_clusterFailure cl s : exec (.clusterFailure cl) s = execClusterFailure cl s := rfl
@[simp] theorem exec_dieOutOfService die s : exec (.dieOutOfService die) s = execDieOutOfService die s := rfl
@[simp] theorem exec_rowSparing die stack s : exec (.rowSparing die stack) s = execRowSparing die stack s := rfl
@[simp] theorem exec_powerChangeApply s : exec (.powerChangeApply) s = execPowerChangeApply s := rfl
@[simp] theorem exec_arbiterInterval est estF s : exec (.arbiterInterval est estF) s = execArbiterInterval est estF s := rfl
@[simp] theorem exec_coolantLimit watts s : exec (.coolantLimit watts) s = execCoolantLimit watts s := rfl
@[simp] theorem exec_reset s : exec (.reset) s = execReset s := rfl
@[simp] theorem exec_pageWalkComplete j s : exec (.pageWalkComplete j) s = execPageWalkComplete j s := rfl
@[simp] theorem exec_grantRecordEviction line s : exec (.grantRecordEviction line) s = execGrantRecordEviction line s := rfl
@[simp] theorem exec_homeTileEviction cl id s : exec (.homeTileEviction cl id) s = execHomeTileEviction cl id s := rfl
@[simp] theorem exec_sendAllowanceGrant circ hop flits s : exec (.sendAllowanceGrant circ hop flits) s = execSendAllowanceGrant circ hop flits s := rfl
@[simp] theorem exec_atsTranslationCompletion func page res s : exec (.atsTranslationCompletion func page res) s = execAtsTranslationCompletion func page res s := rfl
@[simp] theorem exec_jobClose job s : exec (.jobClose job) s = execJobClose job s := rfl
@[simp] theorem exec_managementCoreFailure s : exec (.managementCoreFailure) s = execManagementCoreFailure s := rfl
@[simp] theorem exec_jmp off s : exec (.jmp off) s = execJmp off s := rfl
@[simp] theorem exec_brt p off s : exec (.brt p off) s = execBrt p off s := rfl
@[simp] theorem exec_brf p off s : exec (.brf p off) s = execBrf p off s := rfl
@[simp] theorem exec_call k off s : exec (.call k off) s = execCall k off s := rfl
@[simp] theorem exec_tramp off s : exec (.tramp off) s = execTramp off s := rfl
@[simp] theorem exec_trampLink k off s : exec (.trampLink k off) s = execTrampLink k off s := rfl
@[simp] theorem exec_bri a s : exec (.bri a) s = execBri a s := rfl
@[simp] theorem exec_calli a k s : exec (.calli a k) s = execCalli a k s := rfl
@[simp] theorem exec_ret s : exec (.ret) s = execRet s := rfl
@[simp] theorem exec_exit s : exec (.exit) s = execExit s := rfl
@[simp] theorem exec_fork d a b s : exec (.fork d a b) s = execFork d a b s := rfl
@[simp] theorem exec_bar n s : exec (.bar n) s = execBar n s := rfl
@[simp] theorem exec_arrive n s : exec (.arrive n) s = execArrive n s := rfl
@[simp] theorem exec_await n s : exec (.await n) s = execAwait n s := rfl
@[simp] theorem exec_winb a s : exec (.winb a) s = execWinb a s := rfl
@[simp] theorem exec_steer d a p s : exec (.steer d a p) s = execSteer d a p s := rfl
@[simp] theorem exec_merge d a b p s : exec (.merge d a b p) s = execMerge d a b p s := rfl
@[simp] theorem exec_sel d a b p s : exec (.sel d a b p) s = execSel d a b p s := rfl
@[simp] theorem exec_pget d n s : exec (.pget d n) s = execPget d n s := rfl
@[simp] theorem exec_pset a n s : exec (.pset a n) s = execPset a n s := rfl
@[simp] theorem exec_yield a s : exec (.yield a) s = execYield a s := rfl
@[simp] theorem exec_launch d a b s : exec (.launch d a b) s = execLaunch d a b s := rfl
@[simp] theorem exec_efork d a b s : exec (.efork d a b) s = execEfork d a b s := rfl
@[simp] theorem exec_rdv n s : exec (.rdv n) s = execRdv n s := rfl
@[simp] theorem exec_sequencerRdv a n s : exec (.sequencerRdv a n) s = execSequencerRdv a n s := rfl
@[simp] theorem exec_cancel d a lvl s : exec (.cancel d a lvl) s = execCancel d a lvl s := rfl
@[simp] theorem exec_shfl d a b s : exec (.shfl d a b) s = execShfl d a b s := rfl
@[simp] theorem exec_vote d a mode s : exec (.vote d a mode) s = execVote d a mode s := rfl
@[simp] theorem exec_icmp ty cond d a b s : exec (.icmp ty cond d a b) s = execIcmp ty cond d a b s := rfl
@[simp] theorem exec_addi w64 d a imm s : exec (.addi w64 d a imm) s = execAddi w64 d a imm s := rfl
@[simp] theorem exec_andi w64 d a imm s : exec (.andi w64 d a imm) s = execAndi w64 d a imm s := rfl
@[simp] theorem exec_ori w64 d a imm s : exec (.ori w64 d a imm) s = execOri w64 d a imm s := rfl
@[simp] theorem exec_shli d a n s : exec (.shli d a n) s = execShli d a n s := rfl
@[simp] theorem exec_shri d a n s : exec (.shri d a n) s = execShri d a n s := rfl
@[simp] theorem exec_sari d a n s : exec (.sari d a n) s = execSari d a n s := rfl
@[simp] theorem exec_rotli d a n s : exec (.rotli d a n) s = execRotli d a n s := rfl
@[simp] theorem exec_lhi d imm s : exec (.lhi d imm) s = execLhi d imm s := rfl
@[simp] theorem exec_pchi d imm s : exec (.pchi d imm) s = execPchi d imm s := rfl
@[simp] theorem exec_hadd bf d a b s : exec (.hadd bf d a b) s = execHadd bf d a b s := rfl
@[simp] theorem exec_hsub bf d a b s : exec (.hsub bf d a b) s = execHsub bf d a b s := rfl
@[simp] theorem exec_hmul bf d a b s : exec (.hmul bf d a b) s = execHmul bf d a b s := rfl
@[simp] theorem exec_hfma bf d a b c s : exec (.hfma bf d a b c) s = execHfma bf d a b c s := rfl
@[simp] theorem exec_hmin bf d a b s : exec (.hmin bf d a b) s = execHmin bf d a b s := rfl
@[simp] theorem exec_hmax bf d a b s : exec (.hmax bf d a b) s = execHmax bf d a b s := rfl
@[simp] theorem exec_hneg bf d a s : exec (.hneg bf d a) s = execHneg bf d a s := rfl
@[simp] theorem exec_habs bf d a s : exec (.habs bf d a) s = execHabs bf d a s := rfl
@[simp] theorem exec_hdot2 bf d a b c s : exec (.hdot2 bf d a b c) s = execHdot2 bf d a b c s := rfl
@[simp] theorem exec_ld q sz d a off s : exec (.ld q sz d a off) s = execLd q sz d a off s := rfl
@[simp] theorem exec_ldFmt q d a e s : exec (.ldFmt q d a e) s = execLdFmt q d a e s := rfl
@[simp] theorem exec_st q sz x a off s : exec (.st q sz x a off) s = execSt q sz x a off s := rfl
@[simp] theorem exec_stFmt q x a e s : exec (.stFmt q x a e) s = execStFmt q x a e s := rfl
@[simp] theorem exec_atomLoad w64 scope order d a s : exec (.atomLoad w64 scope order d a) s = execAtomLoad w64 scope order d a s := rfl
@[simp] theorem exec_atomStore w64 scope order a b s : exec (.atomStore w64 scope order a b) s = execAtomStore w64 scope order a b s := rfl
@[simp] theorem exec_atomAdd w64 scope order d a b s : exec (.atomAdd w64 scope order d a b) s = execAtomAdd w64 scope order d a b s := rfl
@[simp] theorem exec_atomSub w64 scope order d a b s : exec (.atomSub w64 scope order d a b) s = execAtomSub w64 scope order d a b s := rfl
@[simp] theorem exec_atomAnd w64 scope order d a b s : exec (.atomAnd w64 scope order d a b) s = execAtomAnd w64 scope order d a b s := rfl
@[simp] theorem exec_atomOr w64 scope order d a b s : exec (.atomOr w64 scope order d a b) s = execAtomOr w64 scope order d a b s := rfl
@[simp] theorem exec_atomXor w64 scope order d a b s : exec (.atomXor w64 scope order d a b) s = execAtomXor w64 scope order d a b s := rfl
@[simp] theorem exec_atomMin w64 scope order d a b s : exec (.atomMin w64 scope order d a b) s = execAtomMin w64 scope order d a b s := rfl
@[simp] theorem exec_atomMax w64 scope order d a b s : exec (.atomMax w64 scope order d a b) s = execAtomMax w64 scope order d a b s := rfl
@[simp] theorem exec_atomMinn w64 scope order d a b s : exec (.atomMinn w64 scope order d a b) s = execAtomMinn w64 scope order d a b s := rfl
@[simp] theorem exec_atomMaxn w64 scope order d a b s : exec (.atomMaxn w64 scope order d a b) s = execAtomMaxn w64 scope order d a b s := rfl
@[simp] theorem exec_atomSwap w64 scope order d a b s : exec (.atomSwap w64 scope order d a b) s = execAtomSwap w64 scope order d a b s := rfl
@[simp] theorem exec_atomCas w64 scope order d a b c s : exec (.atomCas w64 scope order d a b c) s = execAtomCas w64 scope order d a b c s := rfl
@[simp] theorem exec_atomInc w64 scope order d a b s : exec (.atomInc w64 scope order d a b) s = execAtomInc w64 scope order d a b s := rfl
@[simp] theorem exec_atomDec w64 scope order d a b s : exec (.atomDec w64 scope order d a b) s = execAtomDec w64 scope order d a b s := rfl
@[simp] theorem exec_atomFadd w64 scope order d a b s : exec (.atomFadd w64 scope order d a b) s = execAtomFadd w64 scope order d a b s := rfl
@[simp] theorem exec_atomFmin w64 scope order d a b s : exec (.atomFmin w64 scope order d a b) s = execAtomFmin w64 scope order d a b s := rfl
@[simp] theorem exec_atomFmax w64 scope order d a b s : exec (.atomFmax w64 scope order d a b) s = execAtomFmax w64 scope order d a b s := rfl
@[simp] theorem exec_atomHadd2F16 w64 scope order d a b s : exec (.atomHadd2F16 w64 scope order d a b) s = execAtomHadd2F16 w64 scope order d a b s := rfl
@[simp] theorem exec_atomHadd2Bf16 w64 scope order d a b s : exec (.atomHadd2Bf16 w64 scope order d a b) s = execAtomHadd2Bf16 w64 scope order d a b s := rfl
@[simp] theorem exec_redAdd w64 scope order a b s : exec (.redAdd w64 scope order a b) s = execRedAdd w64 scope order a b s := rfl
@[simp] theorem exec_redAnd w64 scope order a b s : exec (.redAnd w64 scope order a b) s = execRedAnd w64 scope order a b s := rfl
@[simp] theorem exec_redOr w64 scope order a b s : exec (.redOr w64 scope order a b) s = execRedOr w64 scope order a b s := rfl
@[simp] theorem exec_redXor w64 scope order a b s : exec (.redXor w64 scope order a b) s = execRedXor w64 scope order a b s := rfl
@[simp] theorem exec_redMin w64 scope order a b s : exec (.redMin w64 scope order a b) s = execRedMin w64 scope order a b s := rfl
@[simp] theorem exec_redMax w64 scope order a b s : exec (.redMax w64 scope order a b) s = execRedMax w64 scope order a b s := rfl
@[simp] theorem exec_redMinn w64 scope order a b s : exec (.redMinn w64 scope order a b) s = execRedMinn w64 scope order a b s := rfl
@[simp] theorem exec_redMaxn w64 scope order a b s : exec (.redMaxn w64 scope order a b) s = execRedMaxn w64 scope order a b s := rfl
@[simp] theorem exec_redFadd w64 scope order a b s : exec (.redFadd w64 scope order a b) s = execRedFadd w64 scope order a b s := rfl
@[simp] theorem exec_redHadd2F16 w64 scope order a b s : exec (.redHadd2F16 w64 scope order a b) s = execRedHadd2F16 w64 scope order a b s := rfl
@[simp] theorem exec_redHadd2Bf16 w64 scope order a b s : exec (.redHadd2Bf16 w64 scope order a b) s = execRedHadd2Bf16 w64 scope order a b s := rfl
@[simp] theorem exec_fence scope mask kind s : exec (.fence scope mask kind) s = execFence scope mask kind s := rfl
@[simp] theorem exec_fencex scope s : exec (.fencex scope) s = execFencex scope s := rfl
@[simp] theorem exec_relb scope mask n n2 s : exec (.relb scope mask n n2) s = execRelb scope mask n n2 s := rfl
@[simp] theorem exec_acqb scope mask n s : exec (.acqb scope mask n) s = execAcqb scope mask n s := rfl
@[simp] theorem exec_spmap a b c s : exec (.spmap a b c) s = execSpmap a b c s := rfl
@[simp] theorem exec_spunmap t a s : exec (.spunmap t a) s = execSpunmap t a s := rfl
@[simp] theorem exec_spwb t a b s : exec (.spwb t a b) s = execSpwb t a b s := rfl
@[simp] theorem exec_spinv a b s : exec (.spinv a b) s = execSpinv a b s := rfl
@[simp] theorem exec_spcpy t a b c s : exec (.spcpy t a b c) s = execSpcpy t a b c s := rfl
@[simp] theorem exec_spfill t a b c s : exec (.spfill t a b c) s = execSpfill t a b c s := rfl
@[simp] theorem exec_pref a k s : exec (.pref a k) s = execPref a k s := rfl
@[simp] theorem exec_ipref a k s : exec (.ipref a k) s = execIpref a k s := rfl
@[simp] theorem exec_cpy t a b c s : exec (.cpy t a b c) s = execCpy t a b c s := rfl
@[simp] theorem exec_cpyr t a b s : exec (.cpyr t a b) s = execCpyr t a b s := rfl
@[simp] theorem exec_cpyp t a b s : exec (.cpyp t a b) s = execCpyp t a b s := rfl
@[simp] theorem exec_cpyg t a b s : exec (.cpyg t a b) s = execCpyg t a b s := rfl
@[simp] theorem exec_wany d a s : exec (.wany d a) s = execWany d a s := rfl
@[simp] theorem exec_wall d a s : exec (.wall d a) s = execWall d a s := rfl
@[simp] theorem exec_ffr d a s : exec (.ffr d a) s = execFfr d a s := rfl
@[simp] theorem exec_tags d s : exec (.tags d) s = execTags d s := rfl
@[simp] theorem exec_tagclr d a s : exec (.tagclr d a) s = execTagclr d a s := rfl
@[simp] theorem exec_mma ctl a b s : exec (.mma ctl a b) s = execMma ctl a b s := rfl
@[simp] theorem exec_mdelta ctl a b s : exec (.mdelta ctl a b) s = execMdelta ctl a b s := rfl
@[simp] theorem exec_mscan ctl a b s : exec (.mscan ctl a b) s = execMscan ctl a b s := rfl
@[simp] theorem exec_mout ctl a s : exec (.mout ctl a) s = execMout ctl a s := rfl
@[simp] theorem exec_mlda ctl a s : exec (.mlda ctl a) s = execMlda ctl a s := rfl
@[simp] theorem exec_mzero a ty s : exec (.mzero a ty) s = execMzero a ty s := rfl
@[simp] theorem exec_mpin d a b s : exec (.mpin d a b) s = execMpin d a b s := rfl
@[simp] theorem exec_munpin a s : exec (.munpin a) s = execMunpin a s := rfl
@[simp] theorem exec_mspill a b s : exec (.mspill a b) s = execMspill a b s := rfl
@[simp] theorem exec_mfill a b s : exec (.mfill a b) s = execMfill a b s := rfl
@[simp] theorem exec_mwait a s : exec (.mwait a) s = execMwait a s := rfl
@[simp] theorem exec_mown d a s : exec (.mown d a) s = execMown d a s := rfl
@[simp] theorem exec_rdsr d n s : exec (.rdsr d n) s = execRdsr d n s := rfl
@[simp] theorem exec_wrsr n a s : exec (.wrsr n a) s = execWrsr n a s := rfl
@[simp] theorem exec_clock d a s : exec (.clock d a) s = execClock d a s := rfl
@[simp] theorem exec_trap a s : exec (.trap a) s = execTrap a s := rfl
@[simp] theorem exec_resumeRetry s : exec (.resumeRetry) s = execResumeRetry s := rfl
@[simp] theorem exec_resumeSkip a s : exec (.resumeSkip a) s = execResumeSkip a s := rfl
@[simp] theorem exec_bkpt k s : exec (.bkpt k) s = execBkpt k s := rfl
@[simp] theorem exec_emulret a s : exec (.emulret a) s = execEmulret a s := rfl
@[simp] theorem exec_nop s : exec (.nop) s = execNop s := rfl
@[simp] theorem exec_perfc d k s : exec (.perfc d k) s = execPerfc d k s := rfl
@[simp] theorem exec_laneid d s : exec (.laneid d) s = execLaneid d s := rfl
@[simp] theorem exec_add d a b s : exec (.add d a b) s = execAdd d a b s := rfl
@[simp] theorem exec_sub d a b s : exec (.sub d a b) s = execSub d a b s := rfl
@[simp] theorem exec_mul d a b s : exec (.mul d a b) s = execMul d a b s := rfl
@[simp] theorem exec_mulh d a b s : exec (.mulh d a b) s = execMulh d a b s := rfl
@[simp] theorem exec_mulhn d a b s : exec (.mulhn d a b) s = execMulhn d a b s := rfl
@[simp] theorem exec_min d a b s : exec (.min d a b) s = execMin d a b s := rfl
@[simp] theorem exec_max d a b s : exec (.max d a b) s = execMax d a b s := rfl
@[simp] theorem exec_minn d a b s : exec (.minn d a b) s = execMinn d a b s := rfl
@[simp] theorem exec_maxn d a b s : exec (.maxn d a b) s = execMaxn d a b s := rfl
@[simp] theorem exec_and d a b s : exec (.and d a b) s = execAnd d a b s := rfl
@[simp] theorem exec_or d a b s : exec (.or d a b) s = execOr d a b s := rfl
@[simp] theorem exec_xor d a b s : exec (.xor d a b) s = execXor d a b s := rfl
@[simp] theorem exec_andn d a b s : exec (.andn d a b) s = execAndn d a b s := rfl
@[simp] theorem exec_shl d a b s : exec (.shl d a b) s = execShl d a b s := rfl
@[simp] theorem exec_shr d a b s : exec (.shr d a b) s = execShr d a b s := rfl
@[simp] theorem exec_sar d a b s : exec (.sar d a b) s = execSar d a b s := rfl
@[simp] theorem exec_rotl d a b s : exec (.rotl d a b) s = execRotl d a b s := rfl
@[simp] theorem exec_clz d a s : exec (.clz d a) s = execClz d a s := rfl
@[simp] theorem exec_ctz d a s : exec (.ctz d a) s = execCtz d a s := rfl
@[simp] theorem exec_popc d a s : exec (.popc d a) s = execPopc d a s := rfl
@[simp] theorem exec_brev d a s : exec (.brev d a) s = execBrev d a s := rfl
@[simp] theorem exec_abs d a s : exec (.abs d a) s = execAbs d a s := rfl
@[simp] theorem exec_neg d a s : exec (.neg d a) s = execNeg d a s := rfl
@[simp] theorem exec_not d a s : exec (.not d a) s = execNot d a s := rfl
@[simp] theorem exec_adds d a b s : exec (.adds d a b) s = execAdds d a b s := rfl
@[simp] theorem exec_subs d a b s : exec (.subs d a b) s = execSubs d a b s := rfl
@[simp] theorem exec_div d a b s : exec (.div d a b) s = execDiv d a b s := rfl
@[simp] theorem exec_divn d a b s : exec (.divn d a b) s = execDivn d a b s := rfl
@[simp] theorem exec_rem d a b s : exec (.rem d a b) s = execRem d a b s := rfl
@[simp] theorem exec_remn d a b s : exec (.remn d a b) s = execRemn d a b s := rfl
@[simp] theorem exec_mov d a s : exec (.mov d a) s = execMov d a s := rfl
@[simp] theorem exec_xtnd d a code s : exec (.xtnd d a code) s = execXtnd d a code s := rfl
@[simp] theorem exec_mul24 d a b s : exec (.mul24 d a b) s = execMul24 d a b s := rfl
@[simp] theorem exec_add64 d a b s : exec (.add64 d a b) s = execAdd64 d a b s := rfl
@[simp] theorem exec_sub64 d a b s : exec (.sub64 d a b) s = execSub64 d a b s := rfl
@[simp] theorem exec_mul64 d a b s : exec (.mul64 d a b) s = execMul64 d a b s := rfl
@[simp] theorem exec_mulh64 d a b s : exec (.mulh64 d a b) s = execMulh64 d a b s := rfl
@[simp] theorem exec_mulhn64 d a b s : exec (.mulhn64 d a b) s = execMulhn64 d a b s := rfl
@[simp] theorem exec_min64 d a b s : exec (.min64 d a b) s = execMin64 d a b s := rfl
@[simp] theorem exec_max64 d a b s : exec (.max64 d a b) s = execMax64 d a b s := rfl
@[simp] theorem exec_minn64 d a b s : exec (.minn64 d a b) s = execMinn64 d a b s := rfl
@[simp] theorem exec_maxn64 d a b s : exec (.maxn64 d a b) s = execMaxn64 d a b s := rfl
@[simp] theorem exec_and64 d a b s : exec (.and64 d a b) s = execAnd64 d a b s := rfl
@[simp] theorem exec_or64 d a b s : exec (.or64 d a b) s = execOr64 d a b s := rfl
@[simp] theorem exec_xor64 d a b s : exec (.xor64 d a b) s = execXor64 d a b s := rfl
@[simp] theorem exec_andn64 d a b s : exec (.andn64 d a b) s = execAndn64 d a b s := rfl
@[simp] theorem exec_shl64 d a b s : exec (.shl64 d a b) s = execShl64 d a b s := rfl
@[simp] theorem exec_shr64 d a b s : exec (.shr64 d a b) s = execShr64 d a b s := rfl
@[simp] theorem exec_sar64 d a b s : exec (.sar64 d a b) s = execSar64 d a b s := rfl
@[simp] theorem exec_rotl64 d a b s : exec (.rotl64 d a b) s = execRotl64 d a b s := rfl
@[simp] theorem exec_clz64 d a s : exec (.clz64 d a) s = execClz64 d a s := rfl
@[simp] theorem exec_ctz64 d a s : exec (.ctz64 d a) s = execCtz64 d a s := rfl
@[simp] theorem exec_popc64 d a s : exec (.popc64 d a) s = execPopc64 d a s := rfl
@[simp] theorem exec_brev64 d a s : exec (.brev64 d a) s = execBrev64 d a s := rfl
@[simp] theorem exec_abs64 d a s : exec (.abs64 d a) s = execAbs64 d a s := rfl
@[simp] theorem exec_neg64 d a s : exec (.neg64 d a) s = execNeg64 d a s := rfl
@[simp] theorem exec_not64 d a s : exec (.not64 d a) s = execNot64 d a s := rfl
@[simp] theorem exec_adds64 d a b s : exec (.adds64 d a b) s = execAdds64 d a b s := rfl
@[simp] theorem exec_subs64 d a b s : exec (.subs64 d a b) s = execSubs64 d a b s := rfl
@[simp] theorem exec_div64 d a b s : exec (.div64 d a b) s = execDiv64 d a b s := rfl
@[simp] theorem exec_divn64 d a b s : exec (.divn64 d a b) s = execDivn64 d a b s := rfl
@[simp] theorem exec_rem64 d a b s : exec (.rem64 d a b) s = execRem64 d a b s := rfl
@[simp] theorem exec_remn64 d a b s : exec (.remn64 d a b) s = execRemn64 d a b s := rfl
@[simp] theorem exec_mov64 d a s : exec (.mov64 d a) s = execMov64 d a s := rfl
@[simp] theorem exec_xtnd64 d a code s : exec (.xtnd64 d a code) s = execXtnd64 d a code s := rfl
@[simp] theorem exec_mulw d a b s : exec (.mulw d a b) s = execMulw d a b s := rfl
@[simp] theorem exec_mulwn d a b s : exec (.mulwn d a b) s = execMulwn d a b s := rfl
@[simp] theorem exec_bfx d a b s : exec (.bfx d a b) s = execBfx d a b s := rfl
@[simp] theorem exec_bfxn d a b s : exec (.bfxn d a b) s = execBfxn d a b s := rfl
@[simp] theorem exec_bfi d a b c s : exec (.bfi d a b c) s = execBfi d a b c s := rfl
@[simp] theorem exec_lea1 d a b s : exec (.lea1 d a b) s = execLea1 d a b s := rfl
@[simp] theorem exec_lea2 d a b s : exec (.lea2 d a b) s = execLea2 d a b s := rfl
@[simp] theorem exec_lea4 d a b s : exec (.lea4 d a b) s = execLea4 d a b s := rfl
@[simp] theorem exec_lea8 d a b s : exec (.lea8 d a b) s = execLea8 d a b s := rfl
@[simp] theorem exec_lea16 d a b s : exec (.lea16 d a b) s = execLea16 d a b s := rfl
@[simp] theorem exec_perm d a b c s : exec (.perm d a b c) s = execPerm d a b c s := rfl
@[simp] theorem exec_mad d a b c s : exec (.mad d a b c) s = execMad d a b c s := rfl
@[simp] theorem exec_mad64 d a b c s : exec (.mad64 d a b c) s = execMad64 d a b c s := rfl
@[simp] theorem exec_pand d a b s : exec (.pand d a b) s = execPand d a b s := rfl
@[simp] theorem exec_por d a b s : exec (.por d a b) s = execPor d a b s := rfl
@[simp] theorem exec_pxor d a b s : exec (.pxor d a b) s = execPxor d a b s := rfl
@[simp] theorem exec_pnot d a s : exec (.pnot d a) s = execPnot d a s := rfl
@[simp] theorem exec_pandn d a b s : exec (.pandn d a b) s = execPandn d a b s := rfl
@[simp] theorem exec_p2i d a s : exec (.p2i d a) s = execP2i d a s := rfl
@[simp] theorem exec_i2p d a s : exec (.i2p d a) s = execI2p d a s := rfl
@[simp] theorem exec_fadd d a b s : exec (.fadd d a b) s = execFadd d a b s := rfl
@[simp] theorem exec_fsub d a b s : exec (.fsub d a b) s = execFsub d a b s := rfl
@[simp] theorem exec_fmul d a b s : exec (.fmul d a b) s = execFmul d a b s := rfl
@[simp] theorem exec_fma d a b c s : exec (.fma d a b c) s = execFma d a b c s := rfl
@[simp] theorem exec_fmin d a b s : exec (.fmin d a b) s = execFmin d a b s := rfl
@[simp] theorem exec_fmax d a b s : exec (.fmax d a b) s = execFmax d a b s := rfl
@[simp] theorem exec_fabs d a s : exec (.fabs d a) s = execFabs d a s := rfl
@[simp] theorem exec_fneg d a s : exec (.fneg d a) s = execFneg d a s := rfl
@[simp] theorem exec_feq d a b s : exec (.feq d a b) s = execFeq d a b s := rfl
@[simp] theorem exec_fne d a b s : exec (.fne d a b) s = execFne d a b s := rfl
@[simp] theorem exec_flt d a b s : exec (.flt d a b) s = execFlt d a b s := rfl
@[simp] theorem exec_fle d a b s : exec (.fle d a b) s = execFle d a b s := rfl
@[simp] theorem exec_funord d a b s : exec (.funord d a b) s = execFunord d a b s := rfl
@[simp] theorem exec_frndn d a s : exec (.frndn d a) s = execFrndn d a s := rfl
@[simp] theorem exec_frndz d a s : exec (.frndz d a) s = execFrndz d a s := rfl
@[simp] theorem exec_frndu d a s : exec (.frndu d a) s = execFrndu d a s := rfl
@[simp] theorem exec_frndd d a s : exec (.frndd d a) s = execFrndd d a s := rfl
@[simp] theorem exec_fsat d a s : exec (.fsat d a) s = execFsat d a s := rfl
@[simp] theorem exec_fcsgn d a b s : exec (.fcsgn d a b) s = execFcsgn d a b s := rfl
@[simp] theorem exec_fdiv d a b s : exec (.fdiv d a b) s = execFdiv d a b s := rfl
@[simp] theorem exec_fsqrt d a s : exec (.fsqrt d a) s = execFsqrt d a s := rfl
@[simp] theorem exec_fmadsat d a b s : exec (.fmadsat d a b) s = execFmadsat d a b s := rfl
@[simp] theorem exec_ftoi d a s : exec (.ftoi d a) s = execFtoi d a s := rfl
@[simp] theorem exec_fton d a s : exec (.fton d a) s = execFton d a s := rfl
@[simp] theorem exec_ftoi64 d a s : exec (.ftoi64 d a) s = execFtoi64 d a s := rfl
@[simp] theorem exec_fton64 d a s : exec (.fton64 d a) s = execFton64 d a s := rfl
@[simp] theorem exec_itof d a s : exec (.itof d a) s = execItof d a s := rfl
@[simp] theorem exec_ntof d a s : exec (.ntof d a) s = execNtof d a s := rfl
@[simp] theorem exec_itof64 d a s : exec (.itof64 d a) s = execItof64 d a s := rfl
@[simp] theorem exec_ntof64 d a s : exec (.ntof64 d a) s = execNtof64 d a s := rfl
@[simp] theorem exec_pkh d a b s : exec (.pkh d a b) s = execPkh d a b s := rfl
@[simp] theorem exec_pkb d a b s : exec (.pkb d a b) s = execPkb d a b s := rfl
@[simp] theorem exec_uph d a s : exec (.uph d a) s = execUph d a s := rfl
@[simp] theorem exec_upb d a s : exec (.upb d a) s = execUpb d a s := rfl
@[simp] theorem exec_pk8e4 d a s : exec (.pk8e4 d a) s = execPk8e4 d a s := rfl
@[simp] theorem exec_pk8e5 d a s : exec (.pk8e5 d a) s = execPk8e5 d a s := rfl
@[simp] theorem exec_up8e4 d a s : exec (.up8e4 d a) s = execUp8e4 d a s := rfl
@[simp] theorem exec_up8e5 d a s : exec (.up8e5 d a) s = execUp8e5 d a s := rfl
@[simp] theorem exec_pk4 d a b s : exec (.pk4 d a b) s = execPk4 d a b s := rfl
@[simp] theorem exec_up4l d a s : exec (.up4l d a) s = execUp4l d a s := rfl
@[simp] theorem exec_up4h d a s : exec (.up4h d a) s = execUp4h d a s := rfl
@[simp] theorem exec_pki8 d a s : exec (.pki8 d a) s = execPki8 d a s := rfl
@[simp] theorem exec_upi8 d a s : exec (.upi8 d a) s = execUpi8 d a s := rfl
@[simp] theorem exec_pki4 d a s : exec (.pki4 d a) s = execPki4 d a s := rfl
@[simp] theorem exec_upi4 d a s : exec (.upi4 d a) s = execUpi4 d a s := rfl
@[simp] theorem exec_scale d a b s : exec (.scale d a b) s = execScale d a b s := rfl
@[simp] theorem exec_escale d a f s : exec (.escale d a f) s = execEscale d a f s := rfl
@[simp] theorem exec_cbdec d a h s : exec (.cbdec d a h) s = execCbdec d a h s := rfl
@[simp] theorem exec_pk6e3 d a s : exec (.pk6e3 d a) s = execPk6e3 d a s := rfl
@[simp] theorem exec_up6e3 d a s : exec (.up6e3 d a) s = execUp6e3 d a s := rfl
@[simp] theorem exec_pk6e2 d a s : exec (.pk6e2 d a) s = execPk6e2 d a s := rfl
@[simp] theorem exec_up6e2 d a s : exec (.up6e2 d a) s = execUp6e2 d a s := rfl
@[simp] theorem exec_pkhSr d a b c s : exec (.pkhSr d a b c) s = execPkhSr d a b c s := rfl
@[simp] theorem exec_pkbSr d a b c s : exec (.pkbSr d a b c) s = execPkbSr d a b c s := rfl
@[simp] theorem exec_pk8e4Sr d a c s : exec (.pk8e4Sr d a c) s = execPk8e4Sr d a c s := rfl
@[simp] theorem exec_pk8e5Sr d a c s : exec (.pk8e5Sr d a c) s = execPk8e5Sr d a c s := rfl
@[simp] theorem exec_pk4Sr d a b c s : exec (.pk4Sr d a b c) s = execPk4Sr d a b c s := rfl
@[simp] theorem exec_pk6e3Sr d a c s : exec (.pk6e3Sr d a c) s = execPk6e3Sr d a c s := rfl
@[simp] theorem exec_pk6e2Sr d a c s : exec (.pk6e2Sr d a c) s = execPk6e2Sr d a c s := rfl
@[simp] theorem exec_cvt16z d a s : exec (.cvt16z d a) s = execCvt16z d a s := rfl
@[simp] theorem exec_rcp d a s : exec (.rcp d a) s = execRcp d a s := rfl
@[simp] theorem exec_rsq d a s : exec (.rsq d a) s = execRsq d a s := rfl
@[simp] theorem exec_sqrta d a s : exec (.sqrta d a) s = execSqrta d a s := rfl
@[simp] theorem exec_exp2 d a s : exec (.exp2 d a) s = execExp2 d a s := rfl
@[simp] theorem exec_log2 d a s : exec (.log2 d a) s = execLog2 d a s := rfl
@[simp] theorem exec_sinpi d a s : exec (.sinpi d a) s = execSinpi d a s := rfl
@[simp] theorem exec_cospi d a s : exec (.cospi d a) s = execCospi d a s := rfl
@[simp] theorem exec_tanh d a s : exec (.tanh d a) s = execTanh d a s := rfl
@[simp] theorem exec_sigm d a s : exec (.sigm d a) s = execSigm d a s := rfl

end Sys2Proof.Machine
end

