-- ==== Sys2Proof/Laws/Store.lean ====
section
/-! SUPPORT. Sparse maps and byte memory: what a read gives after a write, and that every write keeps the canonical form. -/
namespace Sys2Proof.Machine
variable {α : Type}

theorem kvGet_kvSet_same (k : Nat) (v : α) (m : KV α) : kvGet k (kvSet k v m) = some v := by
  induction m with
  | nil => simp [kvSet, kvGet]
  | cons p r ih =>
    simp only [kvSet]
    split_ifs <;> simp_all [kvGet]

theorem kvGet_kvSet_other {k j : Nat} (h : j ≠ k) (v : α) (m : KV α) : kvGet j (kvSet k v m) = kvGet j m := by
  induction m with
  | nil => simp [kvSet, kvGet, h.symm]
  | cons p r ih =>
    simp only [kvSet]
    split_ifs with h1 h2
    · subst h1; simp [kvGet, h.symm]
    · simp [kvGet, h.symm]
    · simp [kvGet, ih]

/-- What a read finds is an entry of the map. -/
theorem mem_of_kvGet {k : Nat} {v : α} {m : KV α} (h : kvGet k m = some v) : (k, v) ∈ m := by
  induction m with
  | nil => cases h
  | cons p r ih =>
    simp only [kvGet] at h
    split_ifs at h with hk
    · cases h; cases hk; exact .head _
    · exact .tail _ (ih h)

theorem kvGet_kvDel_same (k : Nat) (m : KV α) : kvGet k (kvDel k m) = none := by
  induction m with
  | nil => rfl
  | cons p r ih => simp only [kvDel]; split_ifs with h <;> simp [kvGet, ih, h]

theorem kvGet_kvDel_other {k j : Nat} (h : j ≠ k) (m : KV α) : kvGet j (kvDel k m) = kvGet j m := by
  induction m with
  | nil => rfl
  | cons p r ih =>
    simp only [kvDel]
    split_ifs with h1
    · subst h1; simp [kvGet, ih, h.symm]
    · simp [kvGet, ih]

theorem kvGet_kvMod_same (k : Nat) (f : α → α) (m : KV α) : kvGet k (kvMod k f m) = (kvGet k m).map f := by
  unfold kvMod; cases h : kvGet k m <;> simp [kvGet_kvSet_same, h]

theorem kvGet_kvMod_other {k j : Nat} (h : j ≠ k) (f : α → α) (m : KV α) : kvGet j (kvMod k f m) = kvGet j m := by
  unfold kvMod; cases kvGet k m <;> simp [kvGet_kvSet_other h]

theorem kvGet_kvMap (k : Nat) (f : Nat → α → α) (m : KV α) : kvGet k (kvMap f m) = (kvGet k m).map (f k) := by
  induction m with
  | nil => rfl
  | cons p r ih =>
    rw [kvMap] at ih
    by_cases h : p.1 = k
    · subst h; simp [kvMap, kvGet]
    · simp [kvMap, kvGet, h, ih]

section default
variable [DecidableEq α]

theorem kvGetD_kvSetD_same (k : Nat) (d v : α) (m : KV α) : kvGetD k d (kvSetD k d v m) = v := by
  unfold kvGetD kvSetD
  split_ifs with h
  · simp [kvGet_kvDel_same, h]
  · simp [kvGet_kvSet_same]

theorem kvGetD_kvSetD_other {k j : Nat} (h : j ≠ k) (d v : α) (m : KV α) :
    kvGetD j d (kvSetD k d v m) = kvGetD j d m := by
  unfold kvGetD kvSetD
  split_ifs
  · rw [kvGet_kvDel_other h]
  · rw [kvGet_kvSet_other h]

end default

/-! ## Byte memory -/

/-- A byte just written reads as written. -/
theorem memGet_memPut_same (m : List Host.Cell) (a : Nat) (v : Byte) : memGet (memPut m a v) a = v :=
  kvGetD_kvSetD_same a 0 v m

/-- Every other byte reads as before. -/
theorem memGet_memPut_other (m : List Host.Cell) {a b : Nat} (h : b ≠ a) (v : Byte) :
    memGet (memPut m a v) b = memGet m b :=
  kvGetD_kvSetD_other h 0 v m

/-- A byte outside the cells written reads as before. -/
theorem memGet_memPuts_other (cs : List (Nat × Byte)) (m : List Host.Cell) (b : Nat) (h : ∀ c ∈ cs, c.1 ≠ b) :
    memGet (memPuts m cs) b = memGet m b := by
  induction cs generalizing m with
  | nil => rfl
  | cons c r ih =>
    have := ih (memPut m c.1 c.2) fun x hx => h x (List.mem_cons_of_mem _ hx)
    rw [show memPuts m (c :: r) = memPuts (memPut m c.1 c.2) r from rfl, this]
    exact memGet_memPut_other _ (h c List.mem_cons_self).symm _

/-! ## The canonical form -/

theorem kvSorted_tail {p : Nat × α} {m : KV α} (h : kvSorted (p :: m) = true) : kvSorted m = true := by
  cases m with
  | nil => rfl
  | cons q r => simp [kvSorted] at h; exact h.2

theorem kvSorted_head {p q : Nat × α} {m : KV α} (h : kvSorted (p :: q :: m) = true) : p.1 < q.1 := by
  simp [kvSorted] at h; exact h.1

/-- In a sorted map every later key is larger. -/
theorem kvSorted_lt {p : Nat × α} {m : KV α} (h : kvSorted (p :: m) = true) : ∀ q ∈ m, p.1 < q.1 := by
  induction m generalizing p with
  | nil => simp
  | cons x r ih =>
    intro q hq
    rcases List.mem_cons.1 hq with rfl | hq
    · exact kvSorted_head h
    · exact (kvSorted_head h).trans (ih (kvSorted_tail h) q hq)

theorem kvSorted_cons {p : Nat × α} {m : KV α} (hm : kvSorted m = true) (h : ∀ q ∈ m, p.1 < q.1) :
    kvSorted (p :: m) = true := by
  cases m with
  | nil => rfl
  | cons x r => simp [kvSorted]; exact ⟨h x (by simp), hm⟩

theorem mem_kvSet {k : Nat} {v : α} {m : KV α} {q : Nat × α} (h : q ∈ kvSet k v m) : q = (k, v) ∨ q ∈ m := by
  induction m with
  | nil => simp [kvSet] at h; exact Or.inl h
  | cons p r ih =>
    simp only [kvSet] at h
    split_ifs at h
    · rcases List.mem_cons.1 h with h | h
      · exact Or.inl h
      · exact Or.inr (List.mem_cons_of_mem _ h)
    · rcases List.mem_cons.1 h with h | h
      · exact Or.inl h
      · exact Or.inr h
    · rcases List.mem_cons.1 h with h | h
      · exact Or.inr (by simp [h])
      · exact (ih h).imp id (List.mem_cons_of_mem _)

theorem mem_kvDel {k : Nat} {m : KV α} {q : Nat × α} (h : q ∈ kvDel k m) : q ∈ m := by
  induction m with
  | nil => simp [kvDel] at h
  | cons p r ih =>
    simp only [kvDel] at h
    split_ifs at h
    · exact List.mem_cons_of_mem _ (ih h)
    · rcases List.mem_cons.1 h with h | h
      · simp [h]
      · exact List.mem_cons_of_mem _ (ih h)

theorem kvSorted_kvSet {m : KV α} (h : kvSorted m = true) (k : Nat) (v : α) : kvSorted (kvSet k v m) = true := by
  induction m with
  | nil => rfl
  | cons p r ih =>
    have hlt := kvSorted_lt h
    have ht := kvSorted_tail h
    simp only [kvSet]
    split_ifs with h1 h2
    · exact kvSorted_cons ht fun q hq => h1 ▸ hlt q hq
    · refine kvSorted_cons h fun q hq => ?_
      rcases List.mem_cons.1 hq with rfl | hq
      · exact h2
      · exact h2.trans (hlt q hq)
    · refine kvSorted_cons (ih ht) fun q hq => ?_
      rcases mem_kvSet hq with rfl | hq
      · simp only; omega
      · exact hlt q hq

theorem kvSorted_kvDel {m : KV α} (h : kvSorted m = true) (k : Nat) : kvSorted (kvDel k m) = true := by
  induction m with
  | nil => rfl
  | cons p r ih =>
    simp only [kvDel]
    split_ifs
    · exact ih (kvSorted_tail h)
    · exact kvSorted_cons (ih (kvSorted_tail h)) fun q hq => kvSorted_lt h q (mem_kvDel hq)

/-- Writing a byte keeps the canonical form. -/
theorem Memory.wf_memPut {m : List Host.Cell} (h : Memory.wf m = true) (a : Nat) (v : Byte) :
    Memory.wf (memPut m a v) = true := by
  simp only [Memory.wf, Bool.and_eq_true, List.all_eq_true, bne_iff_ne] at h ⊢
  unfold memPut kvSetD
  split_ifs with hv
  · exact ⟨kvSorted_kvDel h.1 a, fun c hc => h.2 c (mem_kvDel hc)⟩
  · refine ⟨kvSorted_kvSet h.1 a v, fun c hc => ?_⟩
    rcases mem_kvSet hc with rfl | hc
    · exact hv
    · exact h.2 c hc

/-- Writing cells keeps the canonical form. -/
theorem Memory.wf_memPuts {m : List Host.Cell} (h : Memory.wf m = true) (cs : List (Nat × Byte)) :
    Memory.wf (memPuts m cs) = true := by
  induction cs generalizing m with
  | nil => exact h
  | cons c r ih => exact ih (Memory.wf_memPut h c.1 c.2)

/-- Memory after reset is canonical. -/
theorem Memory.wf_nil : Memory.wf [] = true := rfl

/-! ## Little-endian values (R4) -/

theorem leBytes_length (n x : Nat) : (leBytes n x).length = n := by
  induction n generalizing x with
  | zero => rfl
  | succ n ih => simp [leBytes, ih]

/-- Bytes hold the number that they were made from, modulo their range. -/
theorem leNat_leBytes (n x : Nat) : leNat (leBytes n x) = x % 2 ^ (8 * n) := by
  induction n generalizing x with
  | zero => simp [leBytes, leNat, Nat.mod_one]
  | succ n ih =>
    simp only [leBytes, leNat, ih, BitVec.toNat_ofNat]
    rw [show 8 * (n + 1) = 8 + 8 * n by ring, Nat.pow_add, Nat.mod_mul]

end Sys2Proof.Machine
end

