-- ==== Sys2Proof/Laws/Quiet.lean ====
section
/-! SUPPORT. What the memory operations leave alone. `Quiet s t` says that t differs from s in the memory system, in the
states of window words, in caches, counts and logs only, and that physical memory keeps its canonical form. Each operation below
the instructions is quiet, so a proof about registers, fibres, sequencers or launches cites one lemma for it. -/
namespace Sys2Proof.Machine

/-- A gather without the states of its window words. -/
def Gather.bare (g : Gather) : Gather := { g with words := [] }

/-- Only the memory system, window words, caches, counts and logs differ; memory stays canonical. -/
structure Quiet (s t : State) : Prop where
  fibres : t.fab.fibres = s.fab.fibres
  insts : t.fab.insts = s.fab.insts
  slots : t.fab.slots = s.fab.slots
  prods : t.fab.prods = s.fab.prods
  gathers : ∀ g, (t.gather? g).map Gather.bare = (s.gather? g).map Gather.bare
  mat : t.mat = s.mat
  disp : t.disp = s.disp
  clock : t.clock = s.clock
  serial : t.serial = s.serial
  focus : t.focus = s.focus
  cur : t.cur = s.cur
  agenda : t.agenda = s.agenda
  canon : Memory.wf s.ms.mem = true → Memory.wf t.ms.mem = true

theorem Quiet.refl (s : State) : Quiet s s := ⟨rfl, rfl, rfl, rfl, fun _ => rfl, rfl, rfl, rfl, rfl, rfl, rfl, rfl, id⟩

theorem Quiet.trans {s t u : State} (h : Quiet s t) (k : Quiet t u) : Quiet s u :=
  ⟨k.fibres.trans h.fibres, k.insts.trans h.insts, k.slots.trans h.slots, k.prods.trans h.prods, fun g => (k.gathers g).trans (h.gathers g),
    k.mat.trans h.mat, k.disp.trans h.disp, k.clock.trans h.clock, k.serial.trans h.serial, k.focus.trans h.focus,
    k.cur.trans h.cur, k.agenda.trans h.agenda, fun w => k.canon (h.canon w)⟩

theorem Quiet.foldl {α : Type} (f : State → α → State) (h : ∀ s a, Quiet s (f s a)) :
    ∀ (l : List α) (s : State), Quiet s (l.foldl f s)
  | [], s => Quiet.refl s
  | a :: r, s => (h s a).trans (Quiet.foldl f h r (f s a))

/-- A step of a fold that carries more than the state. -/
theorem Quiet.foldl_fst {α β : Type} (f : State × β → α → State × β) (h : ∀ p a, Quiet p.1 (f p a).1) :
    ∀ (l : List α) (p : State × β), Quiet p.1 (l.foldl f p).1
  | [], p => Quiet.refl p.1
  | a :: r, p => (h p a).trans (Quiet.foldl_fst f h r (f p a))

/-- A change of the memory system that is no change of physical memory. -/
theorem Quiet.ofMs (s : State) (m : MemSys) (h : m.mem = s.ms.mem) : Quiet s { s with ms := m } :=
  ⟨rfl, rfl, rfl, rfl, fun _ => rfl, rfl, rfl, rfl, rfl, rfl, rfl, rfl, fun w => by simpa [h] using w⟩

/-- A change of the management registers. -/
theorem Quiet.ofMg (s : State) (m : Mgmt) : Quiet s { s with mg := m } :=
  ⟨rfl, rfl, rfl, rfl, fun _ => rfl, rfl, rfl, rfl, rfl, rfl, rfl, rfl, id⟩

/-- A change of the fabrics' caches and counts. -/
theorem Quiet.ofCores (s : State) (c : KV Fabric) (p : KV Nat) :
    Quiet s { s with fab := { s.fab with cores := c, perf := p } } :=
  ⟨rfl, rfl, rfl, rfl, fun _ => rfl, rfl, rfl, rfl, rfl, rfl, rfl, rfl, id⟩

theorem Quiet.count (s : State) (u c k : Nat) : Quiet s (s.count u c k) := Quiet.ofCores s _ _
theorem Quiet.logEvent (s : State) (k d u i : Nat) : Quiet s (s.logEvent k d u i) := Quiet.ofMg s _
theorem Quiet.setL1 (s : State) (m : KV L1Byte) : Quiet s (s.setL1 m) := Quiet.ofMs s _ rfl
theorem Quiet.setL2 (s : State) (m : KV L2Line) : Quiet s (s.setL2 m) := Quiet.ofMs s _ rfl
theorem Quiet.setCopy (s : State) (d l : Nat) (c : L2Line) : Quiet s (s.setCopy d l c) := Quiet.ofMs s _ rfl
theorem Quiet.setFabric (s : State) (c : Nat) (f : Fabric) : Quiet s (s.setFabric c f) := Quiet.ofCores s _ s.fab.perf
theorem Quiet.setHolder (s : State) (d l : Nat) (h : Holder) : Quiet s (s.setHolder d l h) := Quiet.ofMs s _ rfl
theorem Quiet.dropHolder (s : State) (d l : Nat) : Quiet s (s.dropHolder d l) := Quiet.ofMs s _ rfl
theorem Quiet.setSp (s : State) (c : Nat) (l : List (Nat × Byte)) : Quiet s (s.setSp c l) := Quiet.ofMs s _ rfl
theorem Quiet.clearFresh (s : State) (a : Nat) : Quiet s (s.clearFresh a) := Quiet.ofMs s _ rfl
theorem Quiet.addFresh (s : State) (a : Nat) (x : Fresh) : Quiet s (s.addFresh a x) := Quiet.ofMs s _ rfl
theorem Quiet.joinWalk (s : State) (d c p : Nat) (w : Waiter) : Quiet s (s.joinWalk d c p w) := Quiet.ofMs s _ rfl

theorem Quiet.setMem (s : State) (cs : List (Nat × Byte)) : Quiet s (s.setMem (memPuts s.ms.mem cs)) :=
  ⟨rfl, rfl, rfl, rfl, fun _ => rfl, rfl, rfl, rfl, rfl, rfl, rfl, rfl, fun w => Memory.wf_memPuts w cs⟩

/-- A change of a gather's window words. -/
theorem Quiet.modGather (s : State) (g : Nat) (fn : Gather → Gather) (h : ∀ x, (fn x).bare = x.bare) :
    Quiet s (s.modGather g fn) := by
  refine ⟨rfl, rfl, rfl, rfl, fun k => ?_, rfl, rfl, rfl, rfl, rfl, rfl, rfl, id⟩
  simp only [State.gather?, State.modGather]
  by_cases hk : g = k
  · subst hk
    rw [kvGet_kvMod_same]
    cases kvGet g s.fab.gathers <;> simp [h]
  · rw [kvGet_kvMod_other (Ne.symm hk)]

/-! ## Windows -/

theorem Gather.bare_setWord (g : Gather) (w : Nat) (x : WinWord) : (g.setWord w x).bare = g.bare := rfl

theorem foldl_bare {α : Type} (f : Gather → α → Gather) (h : ∀ g a, (f g a).bare = g.bare) :
    ∀ (l : List α) (g : Gather), (l.foldl f g).bare = g.bare
  | [], _ => rfl
  | a :: r, g => (foldl_bare f h r (f g a)).trans (h g a)

theorem Gather.bare_stale (g : Gather) (l : Nat) (hit : Nat → Bool) : (g.stale l hit).bare = g.bare := by
  unfold Gather.stale
  refine foldl_bare _ (fun g k => ?_) _ _
  dsimp only
  split
  · exact Gather.bare_setWord _ _ _
  · rfl

theorem Quiet.staleWin (s : State) (w : Nat × Nat) (hit : Nat → Bool) : Quiet s (s.staleWin w hit) :=
  (Quiet.modGather s _ _ fun g => g.bare_stale _ _).trans (Quiet.ofMs _ _ rfl)

theorem Quiet.staleWins (s : State) (ws : List (Nat × Nat)) (hit : Nat → Bool) (but : Option WinLine) :
    Quiet s (s.staleWins ws hit but) := by
  unfold State.staleWins
  refine Quiet.foldl _ (fun s a => ?_) ws s
  split
  · exact Quiet.refl _
  · exact Quiet.staleWin _ _ _

/-! ## Circuits -/

/-- One of two quiet changes. -/
theorem Quiet.ite {s t u : State} {c : Prop} [Decidable c] (h : Quiet s t) (k : Quiet s u) : Quiet s (if c then t else u) := by
  split <;> assumption
theorem Quiet.holdBack (s : State) : Quiet s s.holdBack := Quiet.ofMs s _ rfl
theorem Quiet.afterOwn (s : State) (d l : Nat) : Quiet s (s.afterOwn d l) := Quiet.ite (Quiet.holdBack s) (Quiet.refl s)
theorem Quiet.admitted (s : State) (d : Nat) : Quiet s (s.admitted d) := Quiet.ite (Quiet.holdBack s) (Quiet.refl s)
theorem Quiet.awaitDrains (s : State) (l : Nat) : Quiet s (s.awaitDrains l) := Quiet.ite (Quiet.holdBack s) (Quiet.refl s)
theorem Quiet.setAllowance (s : State) (c h n : Nat) : Quiet s (s.setAllowance c h n) := Quiet.ofMs s _ rfl
theorem Quiet.spend (s : State) (c h : Nat) : Quiet s (s.spend c h) := Quiet.foldl _ (fun _ _ => Quiet.setAllowance _ _ _ _) _ _
theorem Quiet.sendOn (s : State) (set a b c : Nat) : Quiet s (s.sendOn set a b c) :=
  Quiet.ite (Quiet.refl s) (Quiet.ite (Quiet.holdBack s) (Quiet.spend s _ _))
theorem Quiet.send (s : State) (a b c : Nat) : Quiet s (s.send a b c) := Quiet.sendOn _ _ _ _ _
theorem Quiet.visit (s : State) (d l : Nat) : Quiet s (s.visit d l) := (Quiet.send _ _ _ _).trans (Quiet.send _ _ _ _)
theorem Quiet.sendTier (s : State) (l : Nat) : Quiet s (s.sendTier l) :=
  Quiet.ite (Quiet.refl s) ((Quiet.send _ _ _ _).trans (Quiet.send _ _ _ _))
theorem Quiet.sendDrain (s : State) (d c : Nat) : Quiet s (s.sendDrain d c) := (Quiet.send _ _ _ _).trans (Quiet.send _ _ _ _)
theorem Quiet.sendRequest (s : State) (d l : Nat) (ds : List Nat) : Quiet s (s.sendRequest d l ds) := by
  have h := (Quiet.admitted s d).trans (Quiet.send _ d (homeOf s (l * 128)) 0)
  exact Quiet.ite (h.trans ((Quiet.sendTier _ _).trans (Quiet.send _ _ _ _)))
    (h.trans (Quiet.foldl _ (fun _ _ => (Quiet.send _ _ _ _).trans (Quiet.send _ _ _ _)) _ _))

/-! ## Second-level copies and writes -/

theorem Quiet.own (s : State) (d l : Nat) (but : Option WinLine) : Quiet s (s.own d l but) := by
  unfold State.own
  dsimp only
  refine (Quiet.afterOwn s d l).trans ?_
  generalize s.afterOwn d l = s
  refine Quiet.ite (Quiet.setCopy _ _ _ _) ?_
  refine (Quiet.sendRequest s d l ((s.sharers l).filter (· != d))).trans ?_
  generalize s.sendRequest d l ((s.sharers l).filter (· != d)) = t
  exact (Quiet.foldl _ (fun s a => (Quiet.staleWins _ _ _ _).trans (Quiet.setCopy _ _ _ _)) _ _).trans (Quiet.setCopy _ _ _ _)

theorem Quiet.share (s : State) (d l : Nat) : Quiet s (s.share d l) := by
  unfold State.share
  dsimp only
  refine (Quiet.afterOwn s d l).trans ?_
  generalize s.afterOwn d l = s
  refine Quiet.ite (Quiet.refl _) ?_
  generalize (s.sharers l).filter (fun d => (s.copyOf d l).st != .s) = w
  refine (Quiet.sendRequest s d l w).trans ?_
  exact (Quiet.foldl _ (fun s a => Quiet.setCopy _ _ _ _) _ _).trans (Quiet.setCopy _ _ _ _)

theorem Quiet.writeLine (s : State) (d l : Nat) (cs : List (Nat × Byte)) (c : Bool) (but : Option WinLine) :
    Quiet s (s.writeLine d l cs c but) := by
  unfold State.writeLine
  refine Quiet.ite (Quiet.logEvent _ _ _ _ _) ?_
  refine Quiet.trans ?_ (Quiet.staleWins _ _ _ _)
  refine Quiet.trans ?_ (Quiet.ofMs _ _ rfl)
  exact (Quiet.own _ _ _ _).trans (Quiet.setMem _ _)

theorem Quiet.writeAt (s : State) (d : Nat) (cs : List (Nat × Byte)) (c : Bool) (but : Option WinLine) :
    Quiet s (s.writeAt d cs c but) := Quiet.foldl _ (fun _ _ => Quiet.writeLine _ _ _ _ _ _) _ _

/-! ## First-level caches -/

theorem Quiet.trimTags (s : State) (c : Nat) : Quiet s (s.trimTags c) := Quiet.ofMs s _ rfl
theorem Quiet.l1Unpoison (s : State) (c : Nat) (ls : List Nat) : Quiet s (s.l1Unpoison c ls) :=
  Quiet.ite (Quiet.refl s) ((Quiet.setL1 _ _).trans (Quiet.trimTags _ _))
theorem Quiet.asAgent (s : State) (a : Agent) (m : State → State) (h : ∀ t, Quiet t (m t)) : Quiet s (s.asAgent a m) :=
  have k := h { s with cur := a }
  ⟨k.fibres, k.insts, k.slots, k.prods, k.gathers, k.mat, k.disp, k.clock, k.serial, k.focus, rfl, k.agenda, k.canon⟩
theorem Quiet.onSet (s : State) (n : Nat) (m : State → State) (h : ∀ t, Quiet t (m t)) : Quiet s (s.onSet n m) := Quiet.asAgent s _ _ h
theorem Quiet.readOnSet {α : Type} (s : State) (n : Nat) (m : State → State × α) (h : ∀ t, Quiet t (m t).1) : Quiet s (s.readOnSet n m).1 :=
  have k := h { s with cur := .token n }
  ⟨k.fibres, k.insts, k.slots, k.prods, k.gathers, k.mat, k.disp, k.clock, k.serial, k.focus, rfl, k.agenda, k.canon⟩
/-- A part of a move that may be left undone. -/
theorem Quiet.attempt (s : State) {m : State → State} (h : ∀ s, Quiet s (m s)) : Quiet s (s.attempt m) :=
  Quiet.ite (Quiet.refl s) (Quiet.ite (Quiet.refl s) (h s))
theorem Quiet.partClean (s : State) (c l n : Nat) : Quiet s (s.partClean c l n) :=
  Quiet.ite (Quiet.refl s)
    (((Quiet.onSet s _ _ fun _ => Quiet.writeLine _ _ _ _ _ _).trans (Quiet.setL1 _ _)).trans (Quiet.l1Unpoison _ _ _))
theorem Quiet.lineClean (s : State) (c l : Nat) : Quiet s (s.lineClean c l) :=
  Quiet.foldl _ (fun _ _ => Quiet.partClean _ _ _ _) _ _
theorem Quiet.writeback (s : State) (c : Nat) (keep : Nat → Bool) : Quiet s (s.writeback c keep) :=
  Quiet.foldl _ (fun _ _ => Quiet.lineClean _ _ _) _ _
theorem Quiet.writebackSome (s : State) (c : Nat) (keep : Nat → Bool) : Quiet s (s.writebackSome c keep) :=
  Quiet.foldl _ (fun _ _ => Quiet.foldl _ (fun _ _ => Quiet.attempt _ fun _ => Quiet.partClean _ _ _ _) _ _) _ _
theorem Quiet.drainSome (s : State) (c : Nat) (r : List Nat) : Quiet s (s.drainSome c r) := Quiet.writebackSome _ _ _
theorem Quiet.dropClean (s : State) (c : Nat) (keep : Nat → Bool) : Quiet s (s.dropClean c keep) :=
  (Quiet.setL1 _ _).trans (Quiet.trimTags _ _)
theorem Quiet.acquireDrops (s : State) (c : Nat) (fs r : List Nat) : Quiet s (s.acquireDrops c fs r) :=
  (Quiet.dropClean _ _ _).trans (Quiet.ofMs _ _ rfl)
theorem Quiet.acquireDrop (s : State) (f : Nat) (r : List Nat) : Quiet s (s.acquireDrop f r) := Quiet.acquireDrops _ _ _ _
theorem Quiet.l1Update (s : State) (c : Nat) (cs : List (Nat × Byte)) : Quiet s (s.l1Update c cs) :=
  (Quiet.setL1 s _).trans (Quiet.l1Unpoison _ _ _)
theorem Quiet.l1Drop (s : State) (c : Nat) (p : List Nat) : Quiet s (s.l1Drop c p) :=
  (Quiet.setL1 _ _).trans (Quiet.trimTags _ _)
theorem Quiet.flushLines (s : State) (c : Nat) (p : List Nat) : Quiet s (s.flushLines c p) := Quiet.writeback _ _ _
theorem Quiet.tagLine (s : State) (c l r : Nat) (k : Bool) : Quiet s (s.tagLine c l r k) := Quiet.ofMs s _ rfl
theorem Quiet.l1Store (s : State) (c r : Nat) (k : Bool) (cs : List (Nat × Byte)) : Quiet s (s.l1Store c r k cs) :=
  (Quiet.foldl _ (fun _ _ => Quiet.tagLine _ _ _ _ _) _ _).trans (Quiet.setL1 _ _)
theorem Quiet.l1Fill (s : State) (c l r : Nat) : Quiet s (s.l1Fill c l r) := by
  unfold State.l1Fill
  refine (Quiet.share s (dieOfCore c) l).trans ?_
  generalize s.share (dieOfCore c) l = t
  exact Quiet.ite (Quiet.refl _) ((Quiet.tagLine _ _ _ _ _).trans (Quiet.setL1 _ _))

/-! ## Release records, holders and grants -/

theorem Quiet.attach (s : State) (d l : Nat) (r : RelRec) : Quiet s (s.attach d l r) := Quiet.setCopy _ _ _ _
theorem Quiet.dropRec (s : State) (d l : Nat) (r : RelRec) : Quiet s (s.dropRec d l r) := Quiet.setCopy _ _ _ _
theorem Quiet.drainRec (s : State) (d l : Nat) (r : RelRec) : Quiet s (s.drainRec d l r) :=
  Quiet.attempt s fun t => Quiet.trans ((Quiet.sendDrain t _ _).trans (Quiet.drainSome _ _ _)) (Quiet.ite (Quiet.refl _) (Quiet.dropRec _ _ _ _))
theorem Quiet.drainRecs (s : State) (d l : Nat) : Quiet s (s.drainRecs d l) :=
  Quiet.foldl _ (fun _ _ => Quiet.drainRec _ _ _ _) _ _
theorem Quiet.applySums (s : State) (l : Nat) (k : BKind) (p : KV Word) : Quiet s (s.applySums l k p) :=
  Quiet.ite (Quiet.refl _) (Quiet.ite (Quiet.logEvent _ _ _ _ _) (Quiet.foldl _ (fun _ _ => Quiet.writeLine _ _ _ _ _ _) _ _))
theorem Quiet.giveBack (s : State) (d l : Nat) (x : Dy) : Quiet s (s.giveBack d l x) := by
  unfold State.giveBack
  split
  · exact Quiet.refl _
  · exact Quiet.ofMs _ _ rfl
theorem Quiet.applyPosted (s : State) (d l : Nat) : Quiet s (s.applyPosted d l) := by
  unfold State.applyPosted
  dsimp only
  refine Quiet.trans (t := { s with ms := { s.ms with posted := s.ms.posted.filter fun p => !isDrainOf d l p } })
    (Quiet.ofMs s _ rfl) ?_
  refine Quiet.foldl _ (fun s p => Quiet.ite (Quiet.refl _) ?_) _ _
  split
  · split
    · exact (Quiet.applySums _ _ _ _).trans (Quiet.giveBack _ _ _ _)
    · exact Quiet.applySums _ _ _ _
  · exact Quiet.refl _
theorem Quiet.forceDrain (s : State) (d l : Nat) : Quiet s (s.forceDrain d l) := by
  unfold State.forceDrain
  refine ((Quiet.send s d (homeOf s (l * 128)) 3).trans (Quiet.applyPosted _ d l)).trans ?_
  generalize (s.send d (homeOf s (l * 128)) 3).applyPosted d l = t
  refine (Quiet.applySums t l ((t.holder d l).kind.getD .f32) (t.holder d l).p).trans ?_
  exact (Quiet.dropHolder _ _ _).trans (Quiet.giveBack _ _ _ _)
theorem Quiet.askForced (s : State) (d l : Nat) : Quiet s (s.askForced d l) := (Quiet.send _ _ _ _).trans (Quiet.forceDrain _ _ _)
theorem Quiet.drainLine (s : State) (l : Nat) : Quiet s (s.drainLine l) := by
  unfold State.drainLine
  split
  · exact Quiet.refl _
  · exact Quiet.foldl _ (fun _ _ => Quiet.askForced _ _ _) _ _
theorem Quiet.drainDie (s : State) (d : Nat) : Quiet s (s.drainDie d) :=
  Quiet.foldl _ (fun _ _ => Quiet.attempt _ fun _ => Quiet.forceDrain _ _ _) _ _
theorem Quiet.readAt (s : State) (d : Nat) (p : List Nat) : Quiet s (s.readAt d p).1 :=
  Quiet.foldl _ (fun _ _ => Quiet.share _ _ _) _ _

/-! ## Translation and fetch -/

theorem Quiet.setAD (s : State) (d : Nat) (l : Leaf) (p : Nat) (n : Need) : Quiet s (s.setAD d l p n).1 := by
  unfold State.setAD
  generalize (l.pte ||| 0x200#64 ||| (if n.w then 0x400#64 else 0)) = e
  dsimp only
  split
  · exact Quiet.refl _
  · exact Quiet.writeAt _ _ _ _ _
theorem Quiet.tlbPut (s : State) (u : Nat) (x : Cached) : Quiet s (s.tlbPut u x) := Quiet.ofMs s _ rfl
theorem Quiet.tlbInstall (s : State) (u : Nat) (l : Leaf) : Quiet s (s.tlbInstall u l) :=
  (Quiet.tlbPut _ _ _).trans (Quiet.tlbPut _ _ _)
theorem Quiet.countMiss (s : State) (u c : Nat) : Quiet s (s.countMiss u c) :=
  Quiet.ite (Quiet.count _ _ _ _) (Quiet.ite (Quiet.count _ _ _ _) (Quiet.refl _))
theorem Quiet.takeCached (s : State) (u c v : Nat) (l : Leaf) : Quiet s (s.takeCached u c v l) :=
  Quiet.ite (Quiet.refl s) ((Quiet.countMiss _ _ _).trans (Quiet.tlbPut _ _ _))
theorem Quiet.walkLine (s : State) (d p : Nat) : Quiet s (s.walkLine d p) :=
  Quiet.ite ((Quiet.drainLine _ _).trans (Quiet.share _ _ _)) (Quiet.refl _)
theorem Quiet.walkFrom (d : Nat) (c : Ctx) (ctx va : Nat) : ∀ (n t : Nat) (s : State), Quiet s (s.walkFrom d c ctx va n t).1
  | 0, _, s => Quiet.refl s
  | n + 1, t, s => by
    unfold State.walkFrom
    dsimp only
    have h := Quiet.walkLine s d (t + 8 * (va % 2 ^ 58 / 2 ^ pageBits (3 - n) % 2048))
    revert h
    generalize s.walkLine d (t + 8 * (va % 2 ^ 58 / 2 ^ pageBits (3 - n) % 2048)) = u
    intro h
    split
    · exact h
    · split_ifs
      · exact h
      · exact h
      · split <;> exact h.trans (Quiet.walkLine _ _ _)
      · exact h.trans (Quiet.walkFrom d c ctx va n _ u)
      · exact h.trans (Quiet.walkFrom d c ctx va n _ u)
theorem Quiet.walkWhole (s : State) (d ctx va : Nat) : Quiet s (s.walkWhole d ctx va).1 := by
  unfold State.walkWhole
  dsimp only
  split
  · exact Quiet.walkFrom _ _ _ _ _ _ _
  · exact Quiet.refl _
theorem Quiet.walkDie (s : State) (d ctx va : Nat) (afresh : Bool) (good : Leaf → Bool) :
    Quiet s (s.walkDie d ctx va afresh good).1 := by
  have keep (t : State) (cs : List Cached) : Quiet t (cs.foldl (fun s c => s.tlbPut (3000 + d) c) t) :=
    Quiet.foldl _ (fun _ _ => Quiet.tlbPut _ _ _) _ _
  unfold State.walkDie
  dsimp only
  split
  · exact (Quiet.walkWhole s d ctx va).trans (keep _ _)
  · rename_i n t _
    have h := Quiet.walkFrom d (ctxOf s ctx) ctx va n t s
    split
    · split
      · exact h.trans (keep _ _)
      · exact (h.trans (Quiet.walkWhole _ d ctx va)).trans (keep _ _)
    · exact (h.trans (Quiet.walkWhole _ d ctx va)).trans (keep _ _)
theorem Quiet.serve (d va : Nat) (w : Bool) (p : State × Walked) (x : Waiter) : Quiet p.1 (State.serve d va w p x).1 := by
  unfold State.serve
  split
  · exact Quiet.addFresh _ _ _
  · dsimp only
    split
    · exact ((Quiet.setAD _ _ _ _ _).trans (Quiet.ite (Quiet.refl _) (Quiet.tlbInstall _ _ _))).trans (Quiet.addFresh _ _ _)
    · exact (Quiet.ite (Quiet.refl _) (Quiet.tlbInstall _ _ _)).trans (Quiet.addFresh _ _ _)
theorem Quiet.endWalk (s : State) (w : Walk) : Quiet s (s.endWalk w) := by
  unfold State.endWalk
  dsimp only
  refine Quiet.trans (t := { s with ms := { s.ms with walks := s.ms.walks.filter (· != w) } }) (Quiet.ofMs s _ rfl) ?_
  generalize { s with ms := { s.ms with walks := s.ms.walks.filter (· != w) } } = t
  exact (Quiet.walkDie t _ _ _ _ _).trans (Quiet.foldl_fst (State.serve _ _ _) (fun p x => Quiet.serve _ _ _ p x) _ (_, _))
theorem Quiet.freeWalker (s : State) (d c p : Nat) : Quiet s (s.freeWalker d c p) := by
  have h : ∀ (t : State) (w : Walk), Quiet t (t.asAgent w.cur fun u => u.endWalk w) :=
    fun t w => Quiet.asAgent t w.cur _ fun u => Quiet.endWalk u w
  unfold State.freeWalker
  generalize s.walksBefore d c p = l
  exact Quiet.foldl _ h l s
theorem Quiet.xlate (s : State) (u c v : Nat) (n : Need) (ok : Leaf → Bool) : Quiet s (s.xlate u c v n ok).1 := by
  unfold State.xlate
  split
  · exact Quiet.refl _
  · split
    · exact Quiet.takeCached _ _ _ _ _
    · have h := (Quiet.freeWalker s (dieOfUnit u) c (vpage v)).trans (Quiet.countMiss _ u c)
      dsimp only
      revert h
      generalize (s.freeWalker (dieOfUnit u) c (vpage v)).countMiss u c = t
      intro h
      split
      · exact h.trans (Quiet.tlbPut _ _ _)
      have k := h.trans (Quiet.walkDie t (dieOfUnit u) c v (s.cachedLeaf u c v).isSome fun l => t.grants? l v n && ok l)
      revert k
      rcases t.walkDie (dieOfUnit u) c v (s.cachedLeaf u c v).isSome fun l => t.grants? l v n && ok l with ⟨w, r, b⟩
      intro k
      cases r with
      | absent => exact k
      | leaf l pa =>
        dsimp only
        split
        · exact (k.trans (Quiet.setAD _ _ _ _ _)).trans (Quiet.tlbInstall _ _ _)
        · exact k.trans (Quiet.tlbInstall _ _ _)
theorem Quiet.askWalk (s : State) (a u c v : Nat) (n : Need) (b m : Bool) : Quiet s (s.askWalk a u c v n b m).1 := by
  unfold State.askWalk
  exact (Quiet.ite (Quiet.refl _) (Quiet.countMiss _ _ _)).trans (Quiet.joinWalk _ _ _ _ _)
theorem Quiet.xlateWait (s : State) (a u c v : Nat) (n : Need) (ok : Leaf → Bool) : Quiet s (s.xlateWait a u c v n ok).1 := by
  unfold State.xlateWait
  dsimp only
  split
  · exact Quiet.refl _
  · split
    · exact Quiet.takeCached _ _ _ _ _
    · split
      · split_ifs <;> first | exact Quiet.refl _ | exact Quiet.askWalk _ _ _ _ _ _ _ _
      · split
        · exact Quiet.refl _
        · exact Quiet.askWalk _ _ _ _ _ _ _ _
theorem Quiet.fetchLeaf (s : State) (u c l : Nat) : Quiet s (s.fetchLeaf u c l).1 := by
  have h := Quiet.xlate s u c (l * 128 % 2 ^ 64) needX (Leaf.permits [l * 128 % 2 ^ 64, l * 128 % 2 ^ 64 + 127])
  unfold State.fetchLeaf
  dsimp only
  split
  · exact Quiet.refl _
  · revert h
    rcases s.xlate u c (l * 128 % 2 ^ 64) needX _ with ⟨t, r⟩
    intro h
    cases r <;> exact h
theorem Quiet.fetchNow (s : State) (u d c l : Nat) : Quiet s (s.fetchNow u d c l).1 := by
  have h := Quiet.fetchLeaf s u c l
  unfold State.fetchNow
  revert h
  rcases s.fetchLeaf u c l with ⟨t, r⟩
  intro h
  cases r with
  | none => exact h
  | some l =>
    dsimp only
    split
    · exact Quiet.trans h (Quiet.readAt _ _ _)
    · exact h
theorem Quiet.fetchBytes (s : State) (u d c l : Nat) : Quiet s (s.fetchBytes u d c l).1 :=
  Quiet.readOnSet s _ _ fun _ => Quiet.fetchNow _ _ _ _ _
theorem Quiet.finishFill (s : State) (k : Nat) (x : IFill) : Quiet s (s.finishFill k x).1 := by
  unfold State.finishFill
  dsimp only
  refine (Quiet.setFabric s k { s.fabric k with
    ifills := (s.fabric k).ifills.filter fun y => !(y.ctx == x.ctx && y.line == x.line) }).trans ?_
  generalize s.setFabric k _ = t
  refine (Quiet.ite (c := (x.counted && t.fetchStarts k x.ctx x.line) = true) (Quiet.count t k x.ctx 5) (Quiet.refl t)).trans ?_
  generalize (if (x.counted && t.fetchStarts k x.ctx x.line) = true then t.count k x.ctx 5 else t) = u
  have h := Quiet.fetchBytes u k (dieOfCore k) x.ctx x.line
  revert h
  rcases u.fetchBytes k (dieOfCore k) x.ctx x.line with ⟨v, r⟩
  intro h
  cases r with
  | none => exact (Quiet.ite (c := x.forBuild = true) h (Quiet.refl u)).trans (Quiet.setFabric _ _ _)
  | some bs => exact Quiet.trans h (Quiet.setFabric _ _ _)
theorem Quiet.fetchLine (s : State) (k c l : Nat) : Quiet s (s.fetchLine k c l).1 := by
  unfold State.fetchLine
  split
  · exact Quiet.setFabric _ _ _
  · exact Quiet.finishFill _ _ _
theorem Quiet.fetchWords (s : State) (k c a n : Nat) : Quiet s (s.fetchWords k c a n).1 := by
  unfold State.fetchWords
  have h : Quiet s ((codeLines a n).foldl (fun (p : State × List (Nat × List Byte) × List Nat) l =>
      match p.1.fetchLine k c l with
      | (s, some bs) => (s, p.2.1 ++ [(l, bs)], p.2.2)
      | (s, none) => (s, p.2.1, p.2.2 ++ [l])) (s, [], [])).1 := by
    refine Quiet.foldl_fst _ (fun p l => ?_) _ (s, [], [])
    have h := Quiet.fetchLine p.1 k c l
    revert h
    rcases p.1.fetchLine k c l with ⟨t, r⟩
    intro h
    cases r <;> exact h
  revert h
  generalize (codeLines a n).foldl _ _ = q
  intro h
  rcases q with ⟨t, x, y⟩
  dsimp only
  split <;> exact h
theorem Quiet.readHeader (s : State) (k c a : Nat) : Quiet s (s.readHeader k c a).1 := by
  unfold State.readHeader
  split
  · have h := Quiet.fetchWords s k c a 4
    revert h
    rcases s.fetchWords k c a 4 with ⟨t, r⟩
    intro h
    cases r <;> exact h
  · exact Quiet.refl _

end Sys2Proof.Machine
end

