-- ==== Sys2Proof/Laws/State.lean ====
section
/-! SUPPORT. What each update of the state leaves and what it sets, one lemma for each field, so that no proof unfolds a
record update. -/
namespace Sys2Proof.Machine

variable (s : State)

@[simp] theorem setFibre_ms (f : Nat) (x : Fibre) : (s.setFibre f x).ms = s.ms := rfl
@[simp] theorem setFibre_mat (f : Nat) (x : Fibre) : (s.setFibre f x).mat = s.mat := rfl
@[simp] theorem setFibre_disp (f : Nat) (x : Fibre) : (s.setFibre f x).disp = s.disp := rfl
@[simp] theorem setFibre_mg (f : Nat) (x : Fibre) : (s.setFibre f x).mg = s.mg := rfl
@[simp] theorem setFibre_clock (f : Nat) (x : Fibre) : (s.setFibre f x).clock = s.clock := rfl
@[simp] theorem setFibre_free (f : Nat) (x : Fibre) : (s.setFibre f x).free = s.free := rfl
@[simp] theorem setFibre_serial (f : Nat) (x : Fibre) : (s.setFibre f x).serial = s.serial := rfl
@[simp] theorem setFibre_focus (f : Nat) (x : Fibre) : (s.setFibre f x).focus = s.focus := rfl
@[simp] theorem setFibre_cur (f : Nat) (x : Fibre) : (s.setFibre f x).cur = s.cur := rfl
@[simp] theorem setFibre_agenda (f : Nat) (x : Fibre) : (s.setFibre f x).agenda = s.agenda := rfl
@[simp] theorem setFibre_fab_gathers (f : Nat) (x : Fibre) : (s.setFibre f x).fab.gathers = s.fab.gathers := rfl
@[simp] theorem setFibre_fab_insts (f : Nat) (x : Fibre) : (s.setFibre f x).fab.insts = s.fab.insts := rfl
@[simp] theorem setFibre_fab_slots (f : Nat) (x : Fibre) : (s.setFibre f x).fab.slots = s.fab.slots := rfl
@[simp] theorem setFibre_fab_prods (f : Nat) (x : Fibre) : (s.setFibre f x).fab.prods = s.fab.prods := rfl
@[simp] theorem setFibre_fab_cores (f : Nat) (x : Fibre) : (s.setFibre f x).fab.cores = s.fab.cores := rfl
@[simp] theorem setFibre_fab_perf (f : Nat) (x : Fibre) : (s.setFibre f x).fab.perf = s.fab.perf := rfl
@[simp] theorem setFibre_fibres (f : Nat) (x : Fibre) : (s.setFibre f x).fab.fibres = kvSet f x s.fab.fibres := rfl

@[simp] theorem modFibre_ms (f : Nat) (fn : Fibre → Fibre) : (s.modFibre f fn).ms = s.ms := rfl
@[simp] theorem modFibre_mat (f : Nat) (fn : Fibre → Fibre) : (s.modFibre f fn).mat = s.mat := rfl
@[simp] theorem modFibre_disp (f : Nat) (fn : Fibre → Fibre) : (s.modFibre f fn).disp = s.disp := rfl
@[simp] theorem modFibre_mg (f : Nat) (fn : Fibre → Fibre) : (s.modFibre f fn).mg = s.mg := rfl
@[simp] theorem modFibre_clock (f : Nat) (fn : Fibre → Fibre) : (s.modFibre f fn).clock = s.clock := rfl
@[simp] theorem modFibre_free (f : Nat) (fn : Fibre → Fibre) : (s.modFibre f fn).free = s.free := rfl
@[simp] theorem modFibre_serial (f : Nat) (fn : Fibre → Fibre) : (s.modFibre f fn).serial = s.serial := rfl
@[simp] theorem modFibre_focus (f : Nat) (fn : Fibre → Fibre) : (s.modFibre f fn).focus = s.focus := rfl
@[simp] theorem modFibre_cur (f : Nat) (fn : Fibre → Fibre) : (s.modFibre f fn).cur = s.cur := rfl
@[simp] theorem modFibre_agenda (f : Nat) (fn : Fibre → Fibre) : (s.modFibre f fn).agenda = s.agenda := rfl
@[simp] theorem modFibre_fab_gathers (f : Nat) (fn : Fibre → Fibre) : (s.modFibre f fn).fab.gathers = s.fab.gathers := rfl
@[simp] theorem modFibre_fab_insts (f : Nat) (fn : Fibre → Fibre) : (s.modFibre f fn).fab.insts = s.fab.insts := rfl
@[simp] theorem modFibre_fab_slots (f : Nat) (fn : Fibre → Fibre) : (s.modFibre f fn).fab.slots = s.fab.slots := rfl
@[simp] theorem modFibre_fab_prods (f : Nat) (fn : Fibre → Fibre) : (s.modFibre f fn).fab.prods = s.fab.prods := rfl
@[simp] theorem modFibre_fab_cores (f : Nat) (fn : Fibre → Fibre) : (s.modFibre f fn).fab.cores = s.fab.cores := rfl
@[simp] theorem modFibre_fab_perf (f : Nat) (fn : Fibre → Fibre) : (s.modFibre f fn).fab.perf = s.fab.perf := rfl
@[simp] theorem modFibre_fibres (f : Nat) (fn : Fibre → Fibre) : (s.modFibre f fn).fab.fibres = kvMod f fn s.fab.fibres := rfl

@[simp] theorem setInst_ms (f : Nat) (i : Inst) : (s.setInst f i).ms = s.ms := rfl
@[simp] theorem setInst_mat (f : Nat) (i : Inst) : (s.setInst f i).mat = s.mat := rfl
@[simp] theorem setInst_disp (f : Nat) (i : Inst) : (s.setInst f i).disp = s.disp := rfl
@[simp] theorem setInst_mg (f : Nat) (i : Inst) : (s.setInst f i).mg = s.mg := rfl
@[simp] theorem setInst_clock (f : Nat) (i : Inst) : (s.setInst f i).clock = s.clock := rfl
@[simp] theorem setInst_free (f : Nat) (i : Inst) : (s.setInst f i).free = s.free := rfl
@[simp] theorem setInst_serial (f : Nat) (i : Inst) : (s.setInst f i).serial = s.serial := rfl
@[simp] theorem setInst_focus (f : Nat) (i : Inst) : (s.setInst f i).focus = s.focus := rfl
@[simp] theorem setInst_cur (f : Nat) (i : Inst) : (s.setInst f i).cur = s.cur := rfl
@[simp] theorem setInst_agenda (f : Nat) (i : Inst) : (s.setInst f i).agenda = s.agenda := rfl
@[simp] theorem setInst_fab_gathers (f : Nat) (i : Inst) : (s.setInst f i).fab.gathers = s.fab.gathers := rfl
@[simp] theorem setInst_fab_fibres (f : Nat) (i : Inst) : (s.setInst f i).fab.fibres = s.fab.fibres := rfl
@[simp] theorem setInst_fab_slots (f : Nat) (i : Inst) : (s.setInst f i).fab.slots = s.fab.slots := rfl
@[simp] theorem setInst_fab_prods (f : Nat) (i : Inst) : (s.setInst f i).fab.prods = s.fab.prods := rfl
@[simp] theorem setInst_fab_cores (f : Nat) (i : Inst) : (s.setInst f i).fab.cores = s.fab.cores := rfl
@[simp] theorem setInst_fab_perf (f : Nat) (i : Inst) : (s.setInst f i).fab.perf = s.fab.perf := rfl
@[simp] theorem setInst_insts (f : Nat) (i : Inst) : (s.setInst f i).fab.insts = kvSet f i s.fab.insts := rfl

@[simp] theorem setGather_ms (g : Nat) (x : Gather) : (s.setGather g x).ms = s.ms := rfl
@[simp] theorem setGather_mat (g : Nat) (x : Gather) : (s.setGather g x).mat = s.mat := rfl
@[simp] theorem setGather_disp (g : Nat) (x : Gather) : (s.setGather g x).disp = s.disp := rfl
@[simp] theorem setGather_mg (g : Nat) (x : Gather) : (s.setGather g x).mg = s.mg := rfl
@[simp] theorem setGather_clock (g : Nat) (x : Gather) : (s.setGather g x).clock = s.clock := rfl
@[simp] theorem setGather_free (g : Nat) (x : Gather) : (s.setGather g x).free = s.free := rfl
@[simp] theorem setGather_serial (g : Nat) (x : Gather) : (s.setGather g x).serial = s.serial := rfl
@[simp] theorem setGather_focus (g : Nat) (x : Gather) : (s.setGather g x).focus = s.focus := rfl
@[simp] theorem setGather_cur (g : Nat) (x : Gather) : (s.setGather g x).cur = s.cur := rfl
@[simp] theorem setGather_agenda (g : Nat) (x : Gather) : (s.setGather g x).agenda = s.agenda := rfl
@[simp] theorem setGather_fab_fibres (g : Nat) (x : Gather) : (s.setGather g x).fab.fibres = s.fab.fibres := rfl
@[simp] theorem setGather_fab_insts (g : Nat) (x : Gather) : (s.setGather g x).fab.insts = s.fab.insts := rfl
@[simp] theorem setGather_fab_slots (g : Nat) (x : Gather) : (s.setGather g x).fab.slots = s.fab.slots := rfl
@[simp] theorem setGather_fab_prods (g : Nat) (x : Gather) : (s.setGather g x).fab.prods = s.fab.prods := rfl
@[simp] theorem setGather_fab_cores (g : Nat) (x : Gather) : (s.setGather g x).fab.cores = s.fab.cores := rfl
@[simp] theorem setGather_fab_perf (g : Nat) (x : Gather) : (s.setGather g x).fab.perf = s.fab.perf := rfl
@[simp] theorem setGather_gathers (g : Nat) (x : Gather) : (s.setGather g x).fab.gathers = kvSet g x s.fab.gathers := rfl

@[simp] theorem modGather_ms (g : Nat) (fn : Gather → Gather) : (s.modGather g fn).ms = s.ms := rfl
@[simp] theorem modGather_mat (g : Nat) (fn : Gather → Gather) : (s.modGather g fn).mat = s.mat := rfl
@[simp] theorem modGather_disp (g : Nat) (fn : Gather → Gather) : (s.modGather g fn).disp = s.disp := rfl
@[simp] theorem modGather_mg (g : Nat) (fn : Gather → Gather) : (s.modGather g fn).mg = s.mg := rfl
@[simp] theorem modGather_clock (g : Nat) (fn : Gather → Gather) : (s.modGather g fn).clock = s.clock := rfl
@[simp] theorem modGather_free (g : Nat) (fn : Gather → Gather) : (s.modGather g fn).free = s.free := rfl
@[simp] theorem modGather_serial (g : Nat) (fn : Gather → Gather) : (s.modGather g fn).serial = s.serial := rfl
@[simp] theorem modGather_focus (g : Nat) (fn : Gather → Gather) : (s.modGather g fn).focus = s.focus := rfl
@[simp] theorem modGather_cur (g : Nat) (fn : Gather → Gather) : (s.modGather g fn).cur = s.cur := rfl
@[simp] theorem modGather_agenda (g : Nat) (fn : Gather → Gather) : (s.modGather g fn).agenda = s.agenda := rfl
@[simp] theorem modGather_fab_fibres (g : Nat) (fn : Gather → Gather) : (s.modGather g fn).fab.fibres = s.fab.fibres := rfl
@[simp] theorem modGather_fab_insts (g : Nat) (fn : Gather → Gather) : (s.modGather g fn).fab.insts = s.fab.insts := rfl
@[simp] theorem modGather_fab_slots (g : Nat) (fn : Gather → Gather) : (s.modGather g fn).fab.slots = s.fab.slots := rfl
@[simp] theorem modGather_fab_prods (g : Nat) (fn : Gather → Gather) : (s.modGather g fn).fab.prods = s.fab.prods := rfl
@[simp] theorem modGather_fab_cores (g : Nat) (fn : Gather → Gather) : (s.modGather g fn).fab.cores = s.fab.cores := rfl
@[simp] theorem modGather_fab_perf (g : Nat) (fn : Gather → Gather) : (s.modGather g fn).fab.perf = s.fab.perf := rfl
@[simp] theorem modGather_gathers (g : Nat) (fn : Gather → Gather) : (s.modGather g fn).fab.gathers = kvMod g fn s.fab.gathers := rfl

@[simp] theorem setSlot_ms (c i : Nat) (x : Slot) : (s.setSlot c i x).ms = s.ms := rfl
@[simp] theorem setSlot_mat (c i : Nat) (x : Slot) : (s.setSlot c i x).mat = s.mat := rfl
@[simp] theorem setSlot_disp (c i : Nat) (x : Slot) : (s.setSlot c i x).disp = s.disp := rfl
@[simp] theorem setSlot_mg (c i : Nat) (x : Slot) : (s.setSlot c i x).mg = s.mg := rfl
@[simp] theorem setSlot_clock (c i : Nat) (x : Slot) : (s.setSlot c i x).clock = s.clock := rfl
@[simp] theorem setSlot_free (c i : Nat) (x : Slot) : (s.setSlot c i x).free = s.free := rfl
@[simp] theorem setSlot_serial (c i : Nat) (x : Slot) : (s.setSlot c i x).serial = s.serial := rfl
@[simp] theorem setSlot_focus (c i : Nat) (x : Slot) : (s.setSlot c i x).focus = s.focus := rfl
@[simp] theorem setSlot_cur (c i : Nat) (x : Slot) : (s.setSlot c i x).cur = s.cur := rfl
@[simp] theorem setSlot_agenda (c i : Nat) (x : Slot) : (s.setSlot c i x).agenda = s.agenda := rfl
@[simp] theorem setSlot_fab_gathers (c i : Nat) (x : Slot) : (s.setSlot c i x).fab.gathers = s.fab.gathers := rfl
@[simp] theorem setSlot_fab_fibres (c i : Nat) (x : Slot) : (s.setSlot c i x).fab.fibres = s.fab.fibres := rfl
@[simp] theorem setSlot_fab_insts (c i : Nat) (x : Slot) : (s.setSlot c i x).fab.insts = s.fab.insts := rfl
@[simp] theorem setSlot_fab_prods (c i : Nat) (x : Slot) : (s.setSlot c i x).fab.prods = s.fab.prods := rfl
@[simp] theorem setSlot_fab_cores (c i : Nat) (x : Slot) : (s.setSlot c i x).fab.cores = s.fab.cores := rfl
@[simp] theorem setSlot_fab_perf (c i : Nat) (x : Slot) : (s.setSlot c i x).fab.perf = s.fab.perf := rfl
@[simp] theorem setSlot_slots (c i : Nat) (x : Slot) : (s.setSlot c i x).fab.slots = kvSetD (slotKey c i) noSlot x s.fab.slots := rfl

@[simp] theorem setProds_ms (m : KV Producer) : (s.setProds m).ms = s.ms := rfl
@[simp] theorem setProds_mat (m : KV Producer) : (s.setProds m).mat = s.mat := rfl
@[simp] theorem setProds_disp (m : KV Producer) : (s.setProds m).disp = s.disp := rfl
@[simp] theorem setProds_mg (m : KV Producer) : (s.setProds m).mg = s.mg := rfl
@[simp] theorem setProds_clock (m : KV Producer) : (s.setProds m).clock = s.clock := rfl
@[simp] theorem setProds_free (m : KV Producer) : (s.setProds m).free = s.free := rfl
@[simp] theorem setProds_serial (m : KV Producer) : (s.setProds m).serial = s.serial := rfl
@[simp] theorem setProds_focus (m : KV Producer) : (s.setProds m).focus = s.focus := rfl
@[simp] theorem setProds_cur (m : KV Producer) : (s.setProds m).cur = s.cur := rfl
@[simp] theorem setProds_agenda (m : KV Producer) : (s.setProds m).agenda = s.agenda := rfl
@[simp] theorem setProds_fab_gathers (m : KV Producer) : (s.setProds m).fab.gathers = s.fab.gathers := rfl
@[simp] theorem setProds_fab_fibres (m : KV Producer) : (s.setProds m).fab.fibres = s.fab.fibres := rfl
@[simp] theorem setProds_fab_insts (m : KV Producer) : (s.setProds m).fab.insts = s.fab.insts := rfl
@[simp] theorem setProds_fab_slots (m : KV Producer) : (s.setProds m).fab.slots = s.fab.slots := rfl
@[simp] theorem setProds_fab_cores (m : KV Producer) : (s.setProds m).fab.cores = s.fab.cores := rfl
@[simp] theorem setProds_fab_perf (m : KV Producer) : (s.setProds m).fab.perf = s.fab.perf := rfl
@[simp] theorem setProds_prods (m : KV Producer) : (s.setProds m).fab.prods = m := rfl

@[simp] theorem setFabric_ms (c : Nat) (x : Fabric) : (s.setFabric c x).ms = s.ms := rfl
@[simp] theorem setFabric_mat (c : Nat) (x : Fabric) : (s.setFabric c x).mat = s.mat := rfl
@[simp] theorem setFabric_disp (c : Nat) (x : Fabric) : (s.setFabric c x).disp = s.disp := rfl
@[simp] theorem setFabric_mg (c : Nat) (x : Fabric) : (s.setFabric c x).mg = s.mg := rfl
@[simp] theorem setFabric_clock (c : Nat) (x : Fabric) : (s.setFabric c x).clock = s.clock := rfl
@[simp] theorem setFabric_free (c : Nat) (x : Fabric) : (s.setFabric c x).free = s.free := rfl
@[simp] theorem setFabric_serial (c : Nat) (x : Fabric) : (s.setFabric c x).serial = s.serial := rfl
@[simp] theorem setFabric_focus (c : Nat) (x : Fabric) : (s.setFabric c x).focus = s.focus := rfl
@[simp] theorem setFabric_cur (c : Nat) (x : Fabric) : (s.setFabric c x).cur = s.cur := rfl
@[simp] theorem setFabric_agenda (c : Nat) (x : Fabric) : (s.setFabric c x).agenda = s.agenda := rfl
@[simp] theorem setFabric_fab_gathers (c : Nat) (x : Fabric) : (s.setFabric c x).fab.gathers = s.fab.gathers := rfl
@[simp] theorem setFabric_fab_fibres (c : Nat) (x : Fabric) : (s.setFabric c x).fab.fibres = s.fab.fibres := rfl
@[simp] theorem setFabric_fab_insts (c : Nat) (x : Fabric) : (s.setFabric c x).fab.insts = s.fab.insts := rfl
@[simp] theorem setFabric_fab_slots (c : Nat) (x : Fabric) : (s.setFabric c x).fab.slots = s.fab.slots := rfl
@[simp] theorem setFabric_fab_prods (c : Nat) (x : Fabric) : (s.setFabric c x).fab.prods = s.fab.prods := rfl
@[simp] theorem setFabric_fab_perf (c : Nat) (x : Fabric) : (s.setFabric c x).fab.perf = s.fab.perf := rfl
@[simp] theorem setFabric_cores (c : Nat) (x : Fabric) : (s.setFabric c x).fab.cores = kvSetD c emptyFabric x s.fab.cores := rfl

@[simp] theorem count_ms (u c k : Nat) : (s.count u c k).ms = s.ms := rfl
@[simp] theorem count_mat (u c k : Nat) : (s.count u c k).mat = s.mat := rfl
@[simp] theorem count_disp (u c k : Nat) : (s.count u c k).disp = s.disp := rfl
@[simp] theorem count_mg (u c k : Nat) : (s.count u c k).mg = s.mg := rfl
@[simp] theorem count_clock (u c k : Nat) : (s.count u c k).clock = s.clock := rfl
@[simp] theorem count_free (u c k : Nat) : (s.count u c k).free = s.free := rfl
@[simp] theorem count_serial (u c k : Nat) : (s.count u c k).serial = s.serial := rfl
@[simp] theorem count_focus (u c k : Nat) : (s.count u c k).focus = s.focus := rfl
@[simp] theorem count_cur (u c k : Nat) : (s.count u c k).cur = s.cur := rfl
@[simp] theorem count_agenda (u c k : Nat) : (s.count u c k).agenda = s.agenda := rfl
@[simp] theorem count_fab_gathers (u c k : Nat) : (s.count u c k).fab.gathers = s.fab.gathers := rfl
@[simp] theorem count_fab_fibres (u c k : Nat) : (s.count u c k).fab.fibres = s.fab.fibres := rfl
@[simp] theorem count_fab_insts (u c k : Nat) : (s.count u c k).fab.insts = s.fab.insts := rfl
@[simp] theorem count_fab_slots (u c k : Nat) : (s.count u c k).fab.slots = s.fab.slots := rfl
@[simp] theorem count_fab_prods (u c k : Nat) : (s.count u c k).fab.prods = s.fab.prods := rfl
@[simp] theorem count_fab_cores (u c k : Nat) : (s.count u c k).fab.cores = s.fab.cores := rfl

@[simp] theorem setSeq_ms (c : Nat) (q : Seq) : (s.setSeq c q).ms = s.ms := rfl
@[simp] theorem setSeq_fab (c : Nat) (q : Seq) : (s.setSeq c q).fab = s.fab := rfl
@[simp] theorem setSeq_disp (c : Nat) (q : Seq) : (s.setSeq c q).disp = s.disp := rfl
@[simp] theorem setSeq_mg (c : Nat) (q : Seq) : (s.setSeq c q).mg = s.mg := rfl
@[simp] theorem setSeq_clock (c : Nat) (q : Seq) : (s.setSeq c q).clock = s.clock := rfl
@[simp] theorem setSeq_free (c : Nat) (q : Seq) : (s.setSeq c q).free = s.free := rfl
@[simp] theorem setSeq_serial (c : Nat) (q : Seq) : (s.setSeq c q).serial = s.serial := rfl
@[simp] theorem setSeq_focus (c : Nat) (q : Seq) : (s.setSeq c q).focus = s.focus := rfl
@[simp] theorem setSeq_cur (c : Nat) (q : Seq) : (s.setSeq c q).cur = s.cur := rfl
@[simp] theorem setSeq_agenda (c : Nat) (q : Seq) : (s.setSeq c q).agenda = s.agenda := rfl
@[simp] theorem setSeq_mat_own (c : Nat) (q : Seq) : (s.setSeq c q).mat.own = s.mat.own := rfl
@[simp] theorem setSeq_mat_tiles (c : Nat) (q : Seq) : (s.setSeq c q).mat.tiles = s.mat.tiles := rfl
@[simp] theorem setSeq_seqs (c : Nat) (q : Seq) : (s.setSeq c q).mat.seqs = kvSet c q s.mat.seqs := rfl

@[simp] theorem setOwn_ms (c i : Nat) (o : Own) : (s.setOwn c i o).ms = s.ms := rfl
@[simp] theorem setOwn_fab (c i : Nat) (o : Own) : (s.setOwn c i o).fab = s.fab := rfl
@[simp] theorem setOwn_disp (c i : Nat) (o : Own) : (s.setOwn c i o).disp = s.disp := rfl
@[simp] theorem setOwn_mg (c i : Nat) (o : Own) : (s.setOwn c i o).mg = s.mg := rfl
@[simp] theorem setOwn_clock (c i : Nat) (o : Own) : (s.setOwn c i o).clock = s.clock := rfl
@[simp] theorem setOwn_free (c i : Nat) (o : Own) : (s.setOwn c i o).free = s.free := rfl
@[simp] theorem setOwn_serial (c i : Nat) (o : Own) : (s.setOwn c i o).serial = s.serial := rfl
@[simp] theorem setOwn_focus (c i : Nat) (o : Own) : (s.setOwn c i o).focus = s.focus := rfl
@[simp] theorem setOwn_cur (c i : Nat) (o : Own) : (s.setOwn c i o).cur = s.cur := rfl
@[simp] theorem setOwn_agenda (c i : Nat) (o : Own) : (s.setOwn c i o).agenda = s.agenda := rfl
@[simp] theorem setOwn_mat_seqs (c i : Nat) (o : Own) : (s.setOwn c i o).mat.seqs = s.mat.seqs := rfl
@[simp] theorem setOwn_mat_tiles (c i : Nat) (o : Own) : (s.setOwn c i o).mat.tiles = s.mat.tiles := rfl

@[simp] theorem setTile_ms (c i k : Nat) (x : Word) : (s.setTile c i k x).ms = s.ms := rfl
@[simp] theorem setTile_fab (c i k : Nat) (x : Word) : (s.setTile c i k x).fab = s.fab := rfl
@[simp] theorem setTile_disp (c i k : Nat) (x : Word) : (s.setTile c i k x).disp = s.disp := rfl
@[simp] theorem setTile_mg (c i k : Nat) (x : Word) : (s.setTile c i k x).mg = s.mg := rfl
@[simp] theorem setTile_clock (c i k : Nat) (x : Word) : (s.setTile c i k x).clock = s.clock := rfl
@[simp] theorem setTile_free (c i k : Nat) (x : Word) : (s.setTile c i k x).free = s.free := rfl
@[simp] theorem setTile_serial (c i k : Nat) (x : Word) : (s.setTile c i k x).serial = s.serial := rfl
@[simp] theorem setTile_focus (c i k : Nat) (x : Word) : (s.setTile c i k x).focus = s.focus := rfl
@[simp] theorem setTile_cur (c i k : Nat) (x : Word) : (s.setTile c i k x).cur = s.cur := rfl
@[simp] theorem setTile_agenda (c i k : Nat) (x : Word) : (s.setTile c i k x).agenda = s.agenda := rfl
@[simp] theorem setTile_mat_seqs (c i k : Nat) (x : Word) : (s.setTile c i k x).mat.seqs = s.mat.seqs := rfl
@[simp] theorem setTile_mat_own (c i k : Nat) (x : Word) : (s.setTile c i k x).mat.own = s.mat.own := rfl

@[simp] theorem modLaunch_ms (l : Nat) (fn : Launch → Launch) : (s.modLaunch l fn).ms = s.ms := rfl
@[simp] theorem modLaunch_fab (l : Nat) (fn : Launch → Launch) : (s.modLaunch l fn).fab = s.fab := rfl
@[simp] theorem modLaunch_mat (l : Nat) (fn : Launch → Launch) : (s.modLaunch l fn).mat = s.mat := rfl
@[simp] theorem modLaunch_mg (l : Nat) (fn : Launch → Launch) : (s.modLaunch l fn).mg = s.mg := rfl
@[simp] theorem modLaunch_clock (l : Nat) (fn : Launch → Launch) : (s.modLaunch l fn).clock = s.clock := rfl
@[simp] theorem modLaunch_free (l : Nat) (fn : Launch → Launch) : (s.modLaunch l fn).free = s.free := rfl
@[simp] theorem modLaunch_serial (l : Nat) (fn : Launch → Launch) : (s.modLaunch l fn).serial = s.serial := rfl
@[simp] theorem modLaunch_focus (l : Nat) (fn : Launch → Launch) : (s.modLaunch l fn).focus = s.focus := rfl
@[simp] theorem modLaunch_cur (l : Nat) (fn : Launch → Launch) : (s.modLaunch l fn).cur = s.cur := rfl
@[simp] theorem modLaunch_agenda (l : Nat) (fn : Launch → Launch) : (s.modLaunch l fn).agenda = s.agenda := rfl
@[simp] theorem modLaunch_disp_ctxs (l : Nat) (fn : Launch → Launch) : (s.modLaunch l fn).disp.ctxs = s.disp.ctxs := rfl
@[simp] theorem modLaunch_disp_jobs (l : Nat) (fn : Launch → Launch) : (s.modLaunch l fn).disp.jobs = s.disp.jobs := rfl
@[simp] theorem modLaunch_disp_queues (l : Nat) (fn : Launch → Launch) : (s.modLaunch l fn).disp.queues = s.disp.queues := rfl
@[simp] theorem modLaunch_disp_nextLid (l : Nat) (fn : Launch → Launch) : (s.modLaunch l fn).disp.nextLid = s.disp.nextLid := rfl
@[simp] theorem modLaunch_disp_nextGid (l : Nat) (fn : Launch → Launch) : (s.modLaunch l fn).disp.nextGid = s.disp.nextGid := rfl
@[simp] theorem modLaunch_disp_nextOrder (l : Nat) (fn : Launch → Launch) : (s.modLaunch l fn).disp.nextOrder = s.disp.nextOrder := rfl
@[simp] theorem modLaunch_disp_groups (l : Nat) (fn : Launch → Launch) : (s.modLaunch l fn).disp.groups = s.disp.groups := rfl
@[simp] theorem modLaunch_disp_slottab (l : Nat) (fn : Launch → Launch) : (s.modLaunch l fn).disp.slottab = s.disp.slottab := rfl
@[simp] theorem modLaunch_disp_objs (l : Nat) (fn : Launch → Launch) : (s.modLaunch l fn).disp.objs = s.disp.objs := rfl
@[simp] theorem modLaunch_disp_serials (l : Nat) (fn : Launch → Launch) : (s.modLaunch l fn).disp.serials = s.disp.serials := rfl
@[simp] theorem modLaunch_disp_saved (l : Nat) (fn : Launch → Launch) : (s.modLaunch l fn).disp.saved = s.disp.saved := rfl
@[simp] theorem modLaunch_disp_reports (l : Nat) (fn : Launch → Launch) : (s.modLaunch l fn).disp.reports = s.disp.reports := rfl
@[simp] theorem modLaunch_disp_tables (l : Nat) (fn : Launch → Launch) : (s.modLaunch l fn).disp.tables = s.disp.tables := rfl
@[simp] theorem modLaunch_launches (l : Nat) (fn : Launch → Launch) : (s.modLaunch l fn).disp.launches = kvMod l fn s.disp.launches := rfl

@[simp] theorem setGroup_ms (k : Nat) (g : Group) : (s.setGroup k g).ms = s.ms := rfl
@[simp] theorem setGroup_fab (k : Nat) (g : Group) : (s.setGroup k g).fab = s.fab := rfl
@[simp] theorem setGroup_mat (k : Nat) (g : Group) : (s.setGroup k g).mat = s.mat := rfl
@[simp] theorem setGroup_mg (k : Nat) (g : Group) : (s.setGroup k g).mg = s.mg := rfl
@[simp] theorem setGroup_clock (k : Nat) (g : Group) : (s.setGroup k g).clock = s.clock := rfl
@[simp] theorem setGroup_free (k : Nat) (g : Group) : (s.setGroup k g).free = s.free := rfl
@[simp] theorem setGroup_serial (k : Nat) (g : Group) : (s.setGroup k g).serial = s.serial := rfl
@[simp] theorem setGroup_focus (k : Nat) (g : Group) : (s.setGroup k g).focus = s.focus := rfl
@[simp] theorem setGroup_cur (k : Nat) (g : Group) : (s.setGroup k g).cur = s.cur := rfl
@[simp] theorem setGroup_agenda (k : Nat) (g : Group) : (s.setGroup k g).agenda = s.agenda := rfl
@[simp] theorem setGroup_disp_ctxs (k : Nat) (g : Group) : (s.setGroup k g).disp.ctxs = s.disp.ctxs := rfl
@[simp] theorem setGroup_disp_jobs (k : Nat) (g : Group) : (s.setGroup k g).disp.jobs = s.disp.jobs := rfl
@[simp] theorem setGroup_disp_queues (k : Nat) (g : Group) : (s.setGroup k g).disp.queues = s.disp.queues := rfl
@[simp] theorem setGroup_disp_launches (k : Nat) (g : Group) : (s.setGroup k g).disp.launches = s.disp.launches := rfl
@[simp] theorem setGroup_disp_nextLid (k : Nat) (g : Group) : (s.setGroup k g).disp.nextLid = s.disp.nextLid := rfl
@[simp] theorem setGroup_disp_nextGid (k : Nat) (g : Group) : (s.setGroup k g).disp.nextGid = s.disp.nextGid := rfl
@[simp] theorem setGroup_disp_nextOrder (k : Nat) (g : Group) : (s.setGroup k g).disp.nextOrder = s.disp.nextOrder := rfl
@[simp] theorem setGroup_disp_slottab (k : Nat) (g : Group) : (s.setGroup k g).disp.slottab = s.disp.slottab := rfl
@[simp] theorem setGroup_disp_objs (k : Nat) (g : Group) : (s.setGroup k g).disp.objs = s.disp.objs := rfl
@[simp] theorem setGroup_disp_serials (k : Nat) (g : Group) : (s.setGroup k g).disp.serials = s.disp.serials := rfl
@[simp] theorem setGroup_disp_saved (k : Nat) (g : Group) : (s.setGroup k g).disp.saved = s.disp.saved := rfl
@[simp] theorem setGroup_disp_reports (k : Nat) (g : Group) : (s.setGroup k g).disp.reports = s.disp.reports := rfl
@[simp] theorem setGroup_disp_tables (k : Nat) (g : Group) : (s.setGroup k g).disp.tables = s.disp.tables := rfl
@[simp] theorem setGroup_groups (k : Nat) (g : Group) : (s.setGroup k g).disp.groups = kvSet k g s.disp.groups := rfl

@[simp] theorem setQueue_ms (q : Nat) (x : Queue) : (s.setQueue q x).ms = s.ms := rfl
@[simp] theorem setQueue_fab (q : Nat) (x : Queue) : (s.setQueue q x).fab = s.fab := rfl
@[simp] theorem setQueue_mat (q : Nat) (x : Queue) : (s.setQueue q x).mat = s.mat := rfl
@[simp] theorem setQueue_mg (q : Nat) (x : Queue) : (s.setQueue q x).mg = s.mg := rfl
@[simp] theorem setQueue_clock (q : Nat) (x : Queue) : (s.setQueue q x).clock = s.clock := rfl
@[simp] theorem setQueue_free (q : Nat) (x : Queue) : (s.setQueue q x).free = s.free := rfl
@[simp] theorem setQueue_serial (q : Nat) (x : Queue) : (s.setQueue q x).serial = s.serial := rfl
@[simp] theorem setQueue_focus (q : Nat) (x : Queue) : (s.setQueue q x).focus = s.focus := rfl
@[simp] theorem setQueue_cur (q : Nat) (x : Queue) : (s.setQueue q x).cur = s.cur := rfl
@[simp] theorem setQueue_agenda (q : Nat) (x : Queue) : (s.setQueue q x).agenda = s.agenda := rfl
@[simp] theorem setQueue_disp_ctxs (q : Nat) (x : Queue) : (s.setQueue q x).disp.ctxs = s.disp.ctxs := rfl
@[simp] theorem setQueue_disp_jobs (q : Nat) (x : Queue) : (s.setQueue q x).disp.jobs = s.disp.jobs := rfl
@[simp] theorem setQueue_disp_launches (q : Nat) (x : Queue) : (s.setQueue q x).disp.launches = s.disp.launches := rfl
@[simp] theorem setQueue_disp_nextLid (q : Nat) (x : Queue) : (s.setQueue q x).disp.nextLid = s.disp.nextLid := rfl
@[simp] theorem setQueue_disp_nextGid (q : Nat) (x : Queue) : (s.setQueue q x).disp.nextGid = s.disp.nextGid := rfl
@[simp] theorem setQueue_disp_nextOrder (q : Nat) (x : Queue) : (s.setQueue q x).disp.nextOrder = s.disp.nextOrder := rfl
@[simp] theorem setQueue_disp_groups (q : Nat) (x : Queue) : (s.setQueue q x).disp.groups = s.disp.groups := rfl
@[simp] theorem setQueue_disp_slottab (q : Nat) (x : Queue) : (s.setQueue q x).disp.slottab = s.disp.slottab := rfl
@[simp] theorem setQueue_disp_objs (q : Nat) (x : Queue) : (s.setQueue q x).disp.objs = s.disp.objs := rfl
@[simp] theorem setQueue_disp_serials (q : Nat) (x : Queue) : (s.setQueue q x).disp.serials = s.disp.serials := rfl
@[simp] theorem setQueue_disp_saved (q : Nat) (x : Queue) : (s.setQueue q x).disp.saved = s.disp.saved := rfl
@[simp] theorem setQueue_disp_reports (q : Nat) (x : Queue) : (s.setQueue q x).disp.reports = s.disp.reports := rfl
@[simp] theorem setQueue_disp_tables (q : Nat) (x : Queue) : (s.setQueue q x).disp.tables = s.disp.tables := rfl

@[simp] theorem setObj_ms (h : Nat) (o : CodeObj) : (s.setObj h o).ms = s.ms := rfl
@[simp] theorem setObj_fab (h : Nat) (o : CodeObj) : (s.setObj h o).fab = s.fab := rfl
@[simp] theorem setObj_mat (h : Nat) (o : CodeObj) : (s.setObj h o).mat = s.mat := rfl
@[simp] theorem setObj_mg (h : Nat) (o : CodeObj) : (s.setObj h o).mg = s.mg := rfl
@[simp] theorem setObj_clock (h : Nat) (o : CodeObj) : (s.setObj h o).clock = s.clock := rfl
@[simp] theorem setObj_free (h : Nat) (o : CodeObj) : (s.setObj h o).free = s.free := rfl
@[simp] theorem setObj_serial (h : Nat) (o : CodeObj) : (s.setObj h o).serial = s.serial := rfl
@[simp] theorem setObj_focus (h : Nat) (o : CodeObj) : (s.setObj h o).focus = s.focus := rfl
@[simp] theorem setObj_cur (h : Nat) (o : CodeObj) : (s.setObj h o).cur = s.cur := rfl
@[simp] theorem setObj_agenda (h : Nat) (o : CodeObj) : (s.setObj h o).agenda = s.agenda := rfl
@[simp] theorem setObj_disp_ctxs (h : Nat) (o : CodeObj) : (s.setObj h o).disp.ctxs = s.disp.ctxs := rfl
@[simp] theorem setObj_disp_jobs (h : Nat) (o : CodeObj) : (s.setObj h o).disp.jobs = s.disp.jobs := rfl
@[simp] theorem setObj_disp_queues (h : Nat) (o : CodeObj) : (s.setObj h o).disp.queues = s.disp.queues := rfl
@[simp] theorem setObj_disp_launches (h : Nat) (o : CodeObj) : (s.setObj h o).disp.launches = s.disp.launches := rfl
@[simp] theorem setObj_disp_nextLid (h : Nat) (o : CodeObj) : (s.setObj h o).disp.nextLid = s.disp.nextLid := rfl
@[simp] theorem setObj_disp_nextGid (h : Nat) (o : CodeObj) : (s.setObj h o).disp.nextGid = s.disp.nextGid := rfl
@[simp] theorem setObj_disp_nextOrder (h : Nat) (o : CodeObj) : (s.setObj h o).disp.nextOrder = s.disp.nextOrder := rfl
@[simp] theorem setObj_disp_groups (h : Nat) (o : CodeObj) : (s.setObj h o).disp.groups = s.disp.groups := rfl
@[simp] theorem setObj_disp_slottab (h : Nat) (o : CodeObj) : (s.setObj h o).disp.slottab = s.disp.slottab := rfl
@[simp] theorem setObj_disp_serials (h : Nat) (o : CodeObj) : (s.setObj h o).disp.serials = s.disp.serials := rfl
@[simp] theorem setObj_disp_saved (h : Nat) (o : CodeObj) : (s.setObj h o).disp.saved = s.disp.saved := rfl
@[simp] theorem setObj_disp_reports (h : Nat) (o : CodeObj) : (s.setObj h o).disp.reports = s.disp.reports := rfl
@[simp] theorem setObj_disp_tables (h : Nat) (o : CodeObj) : (s.setObj h o).disp.tables = s.disp.tables := rfl
@[simp] theorem setObj_objs (h : Nat) (o : CodeObj) : (s.setObj h o).disp.objs = kvSet h o s.disp.objs := rfl

@[simp] theorem setMem_fab (m : List Host.Cell) : (s.setMem m).fab = s.fab := rfl
@[simp] theorem setMem_mat (m : List Host.Cell) : (s.setMem m).mat = s.mat := rfl
@[simp] theorem setMem_disp (m : List Host.Cell) : (s.setMem m).disp = s.disp := rfl
@[simp] theorem setMem_mg (m : List Host.Cell) : (s.setMem m).mg = s.mg := rfl
@[simp] theorem setMem_clock (m : List Host.Cell) : (s.setMem m).clock = s.clock := rfl
@[simp] theorem setMem_free (m : List Host.Cell) : (s.setMem m).free = s.free := rfl
@[simp] theorem setMem_serial (m : List Host.Cell) : (s.setMem m).serial = s.serial := rfl
@[simp] theorem setMem_focus (m : List Host.Cell) : (s.setMem m).focus = s.focus := rfl
@[simp] theorem setMem_cur (m : List Host.Cell) : (s.setMem m).cur = s.cur := rfl
@[simp] theorem setMem_agenda (m : List Host.Cell) : (s.setMem m).agenda = s.agenda := rfl
@[simp] theorem setMem_ms_poison (m : List Host.Cell) : (s.setMem m).ms.poison = s.ms.poison := rfl
@[simp] theorem setMem_ms_tier (m : List Host.Cell) : (s.setMem m).ms.tier = s.ms.tier := rfl
@[simp] theorem setMem_ms_l1 (m : List Host.Cell) : (s.setMem m).ms.l1 = s.ms.l1 := rfl
@[simp] theorem setMem_ms_l1tag (m : List Host.Cell) : (s.setMem m).ms.l1tag = s.ms.l1tag := rfl
@[simp] theorem setMem_ms_l2 (m : List Host.Cell) : (s.setMem m).ms.l2 = s.ms.l2 := rfl
@[simp] theorem setMem_ms_misses (m : List Host.Cell) : (s.setMem m).ms.misses = s.ms.misses := rfl
@[simp] theorem setMem_ms_tlb (m : List Host.Cell) : (s.setMem m).ms.tlb = s.ms.tlb := rfl
@[simp] theorem setMem_ms_walks (m : List Host.Cell) : (s.setMem m).ms.walks = s.ms.walks := rfl
@[simp] theorem setMem_ms_fresh (m : List Host.Cell) : (s.setMem m).ms.fresh = s.ms.fresh := rfl
@[simp] theorem setMem_ms_atc (m : List Host.Cell) : (s.setMem m).ms.atc = s.ms.atc := rfl
@[simp] theorem setMem_ms_ats (m : List Host.Cell) : (s.setMem m).ms.ats = s.ms.ats := rfl
@[simp] theorem setMem_ms_posted (m : List Host.Cell) : (s.setMem m).ms.posted = s.ms.posted := rfl
@[simp] theorem setMem_ms_allow (m : List Host.Cell) : (s.setMem m).ms.allow = s.ms.allow := rfl
@[simp] theorem setMem_ms_fences (m : List Host.Cell) : (s.setMem m).ms.fences = s.ms.fences := rfl
@[simp] theorem setMem_ms_drains (m : List Host.Cell) : (s.setMem m).ms.drains = s.ms.drains := rfl
@[simp] theorem setMem_ms_holders (m : List Host.Cell) : (s.setMem m).ms.holders = s.ms.holders := rfl
@[simp] theorem setMem_ms_grants (m : List Host.Cell) : (s.setMem m).ms.grants = s.ms.grants := rfl
@[simp] theorem setMem_ms_offers (m : List Host.Cell) : (s.setMem m).ms.offers = s.ms.offers := rfl
@[simp] theorem setMem_ms_breads (m : List Host.Cell) : (s.setMem m).ms.breads = s.ms.breads := rfl
@[simp] theorem setMem_ms_sp (m : List Host.Cell) : (s.setMem m).ms.sp = s.ms.sp := rfl
@[simp] theorem setMem_ms_tm (m : List Host.Cell) : (s.setMem m).ms.tm = s.ms.tm := rfl
@[simp] theorem setMem_ms_fills (m : List Host.Cell) : (s.setMem m).ms.fills = s.ms.fills := rfl
@[simp] theorem setMem_ms_copies (m : List Host.Cell) : (s.setMem m).ms.copies = s.ms.copies := rfl
@[simp] theorem setMem_ms_stores (m : List Host.Cell) : (s.setMem m).ms.stores = s.ms.stores := rfl
@[simp] theorem setMem_ms_inc (m : List Host.Cell) : (s.setMem m).ms.inc = s.ms.inc := rfl
@[simp] theorem setMem_ms_out (m : List Host.Cell) : (s.setMem m).ms.out = s.ms.out := rfl
@[simp] theorem setMem_ms_missq (m : List Host.Cell) : (s.setMem m).ms.missq = s.ms.missq := rfl
@[simp] theorem setMem_ms_atsUsed (m : List Host.Cell) : (s.setMem m).ms.atsUsed = s.ms.atsUsed := rfl
@[simp] theorem setMem_ms_hold (m : List Host.Cell) : (s.setMem m).ms.hold = s.ms.hold := rfl
@[simp] theorem setMem_mem (m : List Host.Cell) : (s.setMem m).ms.mem = m := rfl

@[simp] theorem setL1_fab (m : KV L1Byte) : (s.setL1 m).fab = s.fab := rfl
@[simp] theorem setL1_mat (m : KV L1Byte) : (s.setL1 m).mat = s.mat := rfl
@[simp] theorem setL1_disp (m : KV L1Byte) : (s.setL1 m).disp = s.disp := rfl
@[simp] theorem setL1_mg (m : KV L1Byte) : (s.setL1 m).mg = s.mg := rfl
@[simp] theorem setL1_clock (m : KV L1Byte) : (s.setL1 m).clock = s.clock := rfl
@[simp] theorem setL1_free (m : KV L1Byte) : (s.setL1 m).free = s.free := rfl
@[simp] theorem setL1_serial (m : KV L1Byte) : (s.setL1 m).serial = s.serial := rfl
@[simp] theorem setL1_focus (m : KV L1Byte) : (s.setL1 m).focus = s.focus := rfl
@[simp] theorem setL1_cur (m : KV L1Byte) : (s.setL1 m).cur = s.cur := rfl
@[simp] theorem setL1_agenda (m : KV L1Byte) : (s.setL1 m).agenda = s.agenda := rfl
@[simp] theorem setL1_ms_mem (m : KV L1Byte) : (s.setL1 m).ms.mem = s.ms.mem := rfl
@[simp] theorem setL1_ms_poison (m : KV L1Byte) : (s.setL1 m).ms.poison = s.ms.poison := rfl
@[simp] theorem setL1_ms_tier (m : KV L1Byte) : (s.setL1 m).ms.tier = s.ms.tier := rfl
@[simp] theorem setL1_ms_l1tag (m : KV L1Byte) : (s.setL1 m).ms.l1tag = s.ms.l1tag := rfl
@[simp] theorem setL1_ms_l2 (m : KV L1Byte) : (s.setL1 m).ms.l2 = s.ms.l2 := rfl
@[simp] theorem setL1_ms_misses (m : KV L1Byte) : (s.setL1 m).ms.misses = s.ms.misses := rfl
@[simp] theorem setL1_ms_tlb (m : KV L1Byte) : (s.setL1 m).ms.tlb = s.ms.tlb := rfl
@[simp] theorem setL1_ms_walks (m : KV L1Byte) : (s.setL1 m).ms.walks = s.ms.walks := rfl
@[simp] theorem setL1_ms_fresh (m : KV L1Byte) : (s.setL1 m).ms.fresh = s.ms.fresh := rfl
@[simp] theorem setL1_ms_atc (m : KV L1Byte) : (s.setL1 m).ms.atc = s.ms.atc := rfl
@[simp] theorem setL1_ms_ats (m : KV L1Byte) : (s.setL1 m).ms.ats = s.ms.ats := rfl
@[simp] theorem setL1_ms_posted (m : KV L1Byte) : (s.setL1 m).ms.posted = s.ms.posted := rfl
@[simp] theorem setL1_ms_allow (m : KV L1Byte) : (s.setL1 m).ms.allow = s.ms.allow := rfl
@[simp] theorem setL1_ms_fences (m : KV L1Byte) : (s.setL1 m).ms.fences = s.ms.fences := rfl
@[simp] theorem setL1_ms_drains (m : KV L1Byte) : (s.setL1 m).ms.drains = s.ms.drains := rfl
@[simp] theorem setL1_ms_holders (m : KV L1Byte) : (s.setL1 m).ms.holders = s.ms.holders := rfl
@[simp] theorem setL1_ms_grants (m : KV L1Byte) : (s.setL1 m).ms.grants = s.ms.grants := rfl
@[simp] theorem setL1_ms_offers (m : KV L1Byte) : (s.setL1 m).ms.offers = s.ms.offers := rfl
@[simp] theorem setL1_ms_breads (m : KV L1Byte) : (s.setL1 m).ms.breads = s.ms.breads := rfl
@[simp] theorem setL1_ms_sp (m : KV L1Byte) : (s.setL1 m).ms.sp = s.ms.sp := rfl
@[simp] theorem setL1_ms_tm (m : KV L1Byte) : (s.setL1 m).ms.tm = s.ms.tm := rfl
@[simp] theorem setL1_ms_fills (m : KV L1Byte) : (s.setL1 m).ms.fills = s.ms.fills := rfl
@[simp] theorem setL1_ms_copies (m : KV L1Byte) : (s.setL1 m).ms.copies = s.ms.copies := rfl
@[simp] theorem setL1_ms_stores (m : KV L1Byte) : (s.setL1 m).ms.stores = s.ms.stores := rfl
@[simp] theorem setL1_ms_inc (m : KV L1Byte) : (s.setL1 m).ms.inc = s.ms.inc := rfl
@[simp] theorem setL1_ms_out (m : KV L1Byte) : (s.setL1 m).ms.out = s.ms.out := rfl
@[simp] theorem setL1_ms_missq (m : KV L1Byte) : (s.setL1 m).ms.missq = s.ms.missq := rfl
@[simp] theorem setL1_ms_atsUsed (m : KV L1Byte) : (s.setL1 m).ms.atsUsed = s.ms.atsUsed := rfl
@[simp] theorem setL1_ms_hold (m : KV L1Byte) : (s.setL1 m).ms.hold = s.ms.hold := rfl
@[simp] theorem setL1_l1 (m : KV L1Byte) : (s.setL1 m).ms.l1 = m := rfl

@[simp] theorem setL2_fab (m : KV L2Line) : (s.setL2 m).fab = s.fab := rfl
@[simp] theorem setL2_mat (m : KV L2Line) : (s.setL2 m).mat = s.mat := rfl
@[simp] theorem setL2_disp (m : KV L2Line) : (s.setL2 m).disp = s.disp := rfl
@[simp] theorem setL2_mg (m : KV L2Line) : (s.setL2 m).mg = s.mg := rfl
@[simp] theorem setL2_clock (m : KV L2Line) : (s.setL2 m).clock = s.clock := rfl
@[simp] theorem setL2_free (m : KV L2Line) : (s.setL2 m).free = s.free := rfl
@[simp] theorem setL2_serial (m : KV L2Line) : (s.setL2 m).serial = s.serial := rfl
@[simp] theorem setL2_focus (m : KV L2Line) : (s.setL2 m).focus = s.focus := rfl
@[simp] theorem setL2_cur (m : KV L2Line) : (s.setL2 m).cur = s.cur := rfl
@[simp] theorem setL2_agenda (m : KV L2Line) : (s.setL2 m).agenda = s.agenda := rfl
@[simp] theorem setL2_ms_mem (m : KV L2Line) : (s.setL2 m).ms.mem = s.ms.mem := rfl
@[simp] theorem setL2_ms_poison (m : KV L2Line) : (s.setL2 m).ms.poison = s.ms.poison := rfl
@[simp] theorem setL2_ms_tier (m : KV L2Line) : (s.setL2 m).ms.tier = s.ms.tier := rfl
@[simp] theorem setL2_ms_l1 (m : KV L2Line) : (s.setL2 m).ms.l1 = s.ms.l1 := rfl
@[simp] theorem setL2_ms_l1tag (m : KV L2Line) : (s.setL2 m).ms.l1tag = s.ms.l1tag := rfl
@[simp] theorem setL2_ms_misses (m : KV L2Line) : (s.setL2 m).ms.misses = s.ms.misses := rfl
@[simp] theorem setL2_ms_tlb (m : KV L2Line) : (s.setL2 m).ms.tlb = s.ms.tlb := rfl
@[simp] theorem setL2_ms_walks (m : KV L2Line) : (s.setL2 m).ms.walks = s.ms.walks := rfl
@[simp] theorem setL2_ms_fresh (m : KV L2Line) : (s.setL2 m).ms.fresh = s.ms.fresh := rfl
@[simp] theorem setL2_ms_atc (m : KV L2Line) : (s.setL2 m).ms.atc = s.ms.atc := rfl
@[simp] theorem setL2_ms_ats (m : KV L2Line) : (s.setL2 m).ms.ats = s.ms.ats := rfl
@[simp] theorem setL2_ms_posted (m : KV L2Line) : (s.setL2 m).ms.posted = s.ms.posted := rfl
@[simp] theorem setL2_ms_allow (m : KV L2Line) : (s.setL2 m).ms.allow = s.ms.allow := rfl
@[simp] theorem setL2_ms_fences (m : KV L2Line) : (s.setL2 m).ms.fences = s.ms.fences := rfl
@[simp] theorem setL2_ms_drains (m : KV L2Line) : (s.setL2 m).ms.drains = s.ms.drains := rfl
@[simp] theorem setL2_ms_holders (m : KV L2Line) : (s.setL2 m).ms.holders = s.ms.holders := rfl
@[simp] theorem setL2_ms_grants (m : KV L2Line) : (s.setL2 m).ms.grants = s.ms.grants := rfl
@[simp] theorem setL2_ms_offers (m : KV L2Line) : (s.setL2 m).ms.offers = s.ms.offers := rfl
@[simp] theorem setL2_ms_breads (m : KV L2Line) : (s.setL2 m).ms.breads = s.ms.breads := rfl
@[simp] theorem setL2_ms_sp (m : KV L2Line) : (s.setL2 m).ms.sp = s.ms.sp := rfl
@[simp] theorem setL2_ms_tm (m : KV L2Line) : (s.setL2 m).ms.tm = s.ms.tm := rfl
@[simp] theorem setL2_ms_fills (m : KV L2Line) : (s.setL2 m).ms.fills = s.ms.fills := rfl
@[simp] theorem setL2_ms_copies (m : KV L2Line) : (s.setL2 m).ms.copies = s.ms.copies := rfl
@[simp] theorem setL2_ms_stores (m : KV L2Line) : (s.setL2 m).ms.stores = s.ms.stores := rfl
@[simp] theorem setL2_ms_inc (m : KV L2Line) : (s.setL2 m).ms.inc = s.ms.inc := rfl
@[simp] theorem setL2_ms_out (m : KV L2Line) : (s.setL2 m).ms.out = s.ms.out := rfl
@[simp] theorem setL2_ms_missq (m : KV L2Line) : (s.setL2 m).ms.missq = s.ms.missq := rfl
@[simp] theorem setL2_ms_atsUsed (m : KV L2Line) : (s.setL2 m).ms.atsUsed = s.ms.atsUsed := rfl
@[simp] theorem setL2_ms_hold (m : KV L2Line) : (s.setL2 m).ms.hold = s.ms.hold := rfl
@[simp] theorem setL2_l2 (m : KV L2Line) : (s.setL2 m).ms.l2 = m := rfl

@[simp] theorem setPort_ms (p : Nat) (x : Port) : (s.setPort p x).ms = s.ms := rfl
@[simp] theorem setPort_fab (p : Nat) (x : Port) : (s.setPort p x).fab = s.fab := rfl
@[simp] theorem setPort_mat (p : Nat) (x : Port) : (s.setPort p x).mat = s.mat := rfl
@[simp] theorem setPort_disp (p : Nat) (x : Port) : (s.setPort p x).disp = s.disp := rfl
@[simp] theorem setPort_clock (p : Nat) (x : Port) : (s.setPort p x).clock = s.clock := rfl
@[simp] theorem setPort_free (p : Nat) (x : Port) : (s.setPort p x).free = s.free := rfl
@[simp] theorem setPort_serial (p : Nat) (x : Port) : (s.setPort p x).serial = s.serial := rfl
@[simp] theorem setPort_focus (p : Nat) (x : Port) : (s.setPort p x).focus = s.focus := rfl
@[simp] theorem setPort_cur (p : Nat) (x : Port) : (s.setPort p x).cur = s.cur := rfl
@[simp] theorem setPort_agenda (p : Nat) (x : Port) : (s.setPort p x).agenda = s.agenda := rfl
@[simp] theorem setPort_mg_xlatVa (p : Nat) (x : Port) : (s.setPort p x).mg.xlatVa = s.mg.xlatVa := rfl
@[simp] theorem setPort_mg_xlatCmd (p : Nat) (x : Port) : (s.setPort p x).mg.xlatCmd = s.mg.xlatCmd := rfl
@[simp] theorem setPort_mg_xlatErr (p : Nat) (x : Port) : (s.setPort p x).mg.xlatErr = s.mg.xlatErr := rfl
@[simp] theorem setPort_mg_inval (p : Nat) (x : Port) : (s.setPort p x).mg.inval = s.mg.inval := rfl
@[simp] theorem setPort_mg_bvDies (p : Nat) (x : Port) : (s.setPort p x).mg.bvDies = s.mg.bvDies := rfl
@[simp] theorem setPort_mg_bvBusy (p : Nat) (x : Port) : (s.setPort p x).mg.bvBusy = s.mg.bvBusy := rfl
@[simp] theorem setPort_mg_bvErr (p : Nat) (x : Port) : (s.setPort p x).mg.bvErr = s.mg.bvErr := rfl
@[simp] theorem setPort_mg_ement (p : Nat) (x : Port) : (s.setPort p x).mg.ement = s.mg.ement := rfl
@[simp] theorem setPort_mg_dbg (p : Nat) (x : Port) : (s.setPort p x).mg.dbg = s.mg.dbg := rfl
@[simp] theorem setPort_mg_power (p : Nat) (x : Port) : (s.setPort p x).mg.power = s.mg.power := rfl
@[simp] theorem setPort_mg_peer (p : Nat) (x : Port) : (s.setPort p x).mg.peer = s.mg.peer := rfl
@[simp] theorem setPort_mg_dies (p : Nat) (x : Port) : (s.setPort p x).mg.dies = s.mg.dies := rfl
@[simp] theorem setPort_mg_degraded (p : Nat) (x : Port) : (s.setPort p x).mg.degraded = s.mg.degraded := rfl
@[simp] theorem setPort_mg_mail (p : Nat) (x : Port) : (s.setPort p x).mg.mail = s.mg.mail := rfl
@[simp] theorem setPort_mg_hwBase (p : Nat) (x : Port) : (s.setPort p x).mg.hwBase = s.mg.hwBase := rfl
@[simp] theorem setPort_mg_routes (p : Nat) (x : Port) : (s.setPort p x).mg.routes = s.mg.routes := rfl
@[simp] theorem setPort_mg_bridges (p : Nat) (x : Port) : (s.setPort p x).mg.bridges = s.mg.bridges := rfl
@[simp] theorem setPort_mg_log (p : Nat) (x : Port) : (s.setPort p x).mg.log = s.mg.log := rfl
@[simp] theorem setPort_mg_spareUsed (p : Nat) (x : Port) : (s.setPort p x).mg.spareUsed = s.mg.spareUsed := rfl
@[simp] theorem setPort_mg_busErr (p : Nat) (x : Port) : (s.setPort p x).mg.busErr = s.mg.busErr := rfl
@[simp] theorem setPort_mg_ctxUsed (p : Nat) (x : Port) : (s.setPort p x).mg.ctxUsed = s.mg.ctxUsed := rfl
@[simp] theorem setPort_mg_firmware (p : Nat) (x : Port) : (s.setPort p x).mg.firmware = s.mg.firmware := rfl

@[simp] theorem setMailbox_ms (u : Nat) (m : Mailbox) : (s.setMailbox u m).ms = s.ms := rfl
@[simp] theorem setMailbox_fab (u : Nat) (m : Mailbox) : (s.setMailbox u m).fab = s.fab := rfl
@[simp] theorem setMailbox_mat (u : Nat) (m : Mailbox) : (s.setMailbox u m).mat = s.mat := rfl
@[simp] theorem setMailbox_disp (u : Nat) (m : Mailbox) : (s.setMailbox u m).disp = s.disp := rfl
@[simp] theorem setMailbox_clock (u : Nat) (m : Mailbox) : (s.setMailbox u m).clock = s.clock := rfl
@[simp] theorem setMailbox_free (u : Nat) (m : Mailbox) : (s.setMailbox u m).free = s.free := rfl
@[simp] theorem setMailbox_serial (u : Nat) (m : Mailbox) : (s.setMailbox u m).serial = s.serial := rfl
@[simp] theorem setMailbox_focus (u : Nat) (m : Mailbox) : (s.setMailbox u m).focus = s.focus := rfl
@[simp] theorem setMailbox_cur (u : Nat) (m : Mailbox) : (s.setMailbox u m).cur = s.cur := rfl
@[simp] theorem setMailbox_agenda (u : Nat) (m : Mailbox) : (s.setMailbox u m).agenda = s.agenda := rfl
@[simp] theorem setMailbox_mg_xlatVa (u : Nat) (m : Mailbox) : (s.setMailbox u m).mg.xlatVa = s.mg.xlatVa := rfl
@[simp] theorem setMailbox_mg_xlatCmd (u : Nat) (m : Mailbox) : (s.setMailbox u m).mg.xlatCmd = s.mg.xlatCmd := rfl
@[simp] theorem setMailbox_mg_xlatErr (u : Nat) (m : Mailbox) : (s.setMailbox u m).mg.xlatErr = s.mg.xlatErr := rfl
@[simp] theorem setMailbox_mg_inval (u : Nat) (m : Mailbox) : (s.setMailbox u m).mg.inval = s.mg.inval := rfl
@[simp] theorem setMailbox_mg_bvDies (u : Nat) (m : Mailbox) : (s.setMailbox u m).mg.bvDies = s.mg.bvDies := rfl
@[simp] theorem setMailbox_mg_bvBusy (u : Nat) (m : Mailbox) : (s.setMailbox u m).mg.bvBusy = s.mg.bvBusy := rfl
@[simp] theorem setMailbox_mg_bvErr (u : Nat) (m : Mailbox) : (s.setMailbox u m).mg.bvErr = s.mg.bvErr := rfl
@[simp] theorem setMailbox_mg_ement (u : Nat) (m : Mailbox) : (s.setMailbox u m).mg.ement = s.mg.ement := rfl
@[simp] theorem setMailbox_mg_dbg (u : Nat) (m : Mailbox) : (s.setMailbox u m).mg.dbg = s.mg.dbg := rfl
@[simp] theorem setMailbox_mg_power (u : Nat) (m : Mailbox) : (s.setMailbox u m).mg.power = s.mg.power := rfl
@[simp] theorem setMailbox_mg_peer (u : Nat) (m : Mailbox) : (s.setMailbox u m).mg.peer = s.mg.peer := rfl
@[simp] theorem setMailbox_mg_dies (u : Nat) (m : Mailbox) : (s.setMailbox u m).mg.dies = s.mg.dies := rfl
@[simp] theorem setMailbox_mg_degraded (u : Nat) (m : Mailbox) : (s.setMailbox u m).mg.degraded = s.mg.degraded := rfl
@[simp] theorem setMailbox_mg_hwBase (u : Nat) (m : Mailbox) : (s.setMailbox u m).mg.hwBase = s.mg.hwBase := rfl
@[simp] theorem setMailbox_mg_routes (u : Nat) (m : Mailbox) : (s.setMailbox u m).mg.routes = s.mg.routes := rfl
@[simp] theorem setMailbox_mg_bridges (u : Nat) (m : Mailbox) : (s.setMailbox u m).mg.bridges = s.mg.bridges := rfl
@[simp] theorem setMailbox_mg_ports (u : Nat) (m : Mailbox) : (s.setMailbox u m).mg.ports = s.mg.ports := rfl
@[simp] theorem setMailbox_mg_log (u : Nat) (m : Mailbox) : (s.setMailbox u m).mg.log = s.mg.log := rfl
@[simp] theorem setMailbox_mg_spareUsed (u : Nat) (m : Mailbox) : (s.setMailbox u m).mg.spareUsed = s.mg.spareUsed := rfl
@[simp] theorem setMailbox_mg_busErr (u : Nat) (m : Mailbox) : (s.setMailbox u m).mg.busErr = s.mg.busErr := rfl
@[simp] theorem setMailbox_mg_ctxUsed (u : Nat) (m : Mailbox) : (s.setMailbox u m).mg.ctxUsed = s.mg.ctxUsed := rfl
@[simp] theorem setMailbox_mg_firmware (u : Nat) (m : Mailbox) : (s.setMailbox u m).mg.firmware = s.mg.firmware := rfl

@[simp] theorem setBridge_ms (b : Nat) (x : Bridge) : (s.setBridge b x).ms = s.ms := rfl
@[simp] theorem setBridge_fab (b : Nat) (x : Bridge) : (s.setBridge b x).fab = s.fab := rfl
@[simp] theorem setBridge_mat (b : Nat) (x : Bridge) : (s.setBridge b x).mat = s.mat := rfl
@[simp] theorem setBridge_disp (b : Nat) (x : Bridge) : (s.setBridge b x).disp = s.disp := rfl
@[simp] theorem setBridge_clock (b : Nat) (x : Bridge) : (s.setBridge b x).clock = s.clock := rfl
@[simp] theorem setBridge_free (b : Nat) (x : Bridge) : (s.setBridge b x).free = s.free := rfl
@[simp] theorem setBridge_serial (b : Nat) (x : Bridge) : (s.setBridge b x).serial = s.serial := rfl
@[simp] theorem setBridge_focus (b : Nat) (x : Bridge) : (s.setBridge b x).focus = s.focus := rfl
@[simp] theorem setBridge_cur (b : Nat) (x : Bridge) : (s.setBridge b x).cur = s.cur := rfl
@[simp] theorem setBridge_agenda (b : Nat) (x : Bridge) : (s.setBridge b x).agenda = s.agenda := rfl
@[simp] theorem setBridge_mg_xlatVa (b : Nat) (x : Bridge) : (s.setBridge b x).mg.xlatVa = s.mg.xlatVa := rfl
@[simp] theorem setBridge_mg_xlatCmd (b : Nat) (x : Bridge) : (s.setBridge b x).mg.xlatCmd = s.mg.xlatCmd := rfl
@[simp] theorem setBridge_mg_xlatErr (b : Nat) (x : Bridge) : (s.setBridge b x).mg.xlatErr = s.mg.xlatErr := rfl
@[simp] theorem setBridge_mg_inval (b : Nat) (x : Bridge) : (s.setBridge b x).mg.inval = s.mg.inval := rfl
@[simp] theorem setBridge_mg_bvDies (b : Nat) (x : Bridge) : (s.setBridge b x).mg.bvDies = s.mg.bvDies := rfl
@[simp] theorem setBridge_mg_bvBusy (b : Nat) (x : Bridge) : (s.setBridge b x).mg.bvBusy = s.mg.bvBusy := rfl
@[simp] theorem setBridge_mg_bvErr (b : Nat) (x : Bridge) : (s.setBridge b x).mg.bvErr = s.mg.bvErr := rfl
@[simp] theorem setBridge_mg_ement (b : Nat) (x : Bridge) : (s.setBridge b x).mg.ement = s.mg.ement := rfl
@[simp] theorem setBridge_mg_dbg (b : Nat) (x : Bridge) : (s.setBridge b x).mg.dbg = s.mg.dbg := rfl
@[simp] theorem setBridge_mg_power (b : Nat) (x : Bridge) : (s.setBridge b x).mg.power = s.mg.power := rfl
@[simp] theorem setBridge_mg_peer (b : Nat) (x : Bridge) : (s.setBridge b x).mg.peer = s.mg.peer := rfl
@[simp] theorem setBridge_mg_dies (b : Nat) (x : Bridge) : (s.setBridge b x).mg.dies = s.mg.dies := rfl
@[simp] theorem setBridge_mg_degraded (b : Nat) (x : Bridge) : (s.setBridge b x).mg.degraded = s.mg.degraded := rfl
@[simp] theorem setBridge_mg_mail (b : Nat) (x : Bridge) : (s.setBridge b x).mg.mail = s.mg.mail := rfl
@[simp] theorem setBridge_mg_hwBase (b : Nat) (x : Bridge) : (s.setBridge b x).mg.hwBase = s.mg.hwBase := rfl
@[simp] theorem setBridge_mg_routes (b : Nat) (x : Bridge) : (s.setBridge b x).mg.routes = s.mg.routes := rfl
@[simp] theorem setBridge_mg_ports (b : Nat) (x : Bridge) : (s.setBridge b x).mg.ports = s.mg.ports := rfl
@[simp] theorem setBridge_mg_log (b : Nat) (x : Bridge) : (s.setBridge b x).mg.log = s.mg.log := rfl
@[simp] theorem setBridge_mg_spareUsed (b : Nat) (x : Bridge) : (s.setBridge b x).mg.spareUsed = s.mg.spareUsed := rfl
@[simp] theorem setBridge_mg_busErr (b : Nat) (x : Bridge) : (s.setBridge b x).mg.busErr = s.mg.busErr := rfl
@[simp] theorem setBridge_mg_ctxUsed (b : Nat) (x : Bridge) : (s.setBridge b x).mg.ctxUsed = s.mg.ctxUsed := rfl
@[simp] theorem setBridge_mg_firmware (b : Nat) (x : Bridge) : (s.setBridge b x).mg.firmware = s.mg.firmware := rfl

@[simp] theorem setDbg_ms (n : Nat) (d : DbgSlot) : (s.setDbg n d).ms = s.ms := rfl
@[simp] theorem setDbg_fab (n : Nat) (d : DbgSlot) : (s.setDbg n d).fab = s.fab := rfl
@[simp] theorem setDbg_mat (n : Nat) (d : DbgSlot) : (s.setDbg n d).mat = s.mat := rfl
@[simp] theorem setDbg_disp (n : Nat) (d : DbgSlot) : (s.setDbg n d).disp = s.disp := rfl
@[simp] theorem setDbg_clock (n : Nat) (d : DbgSlot) : (s.setDbg n d).clock = s.clock := rfl
@[simp] theorem setDbg_free (n : Nat) (d : DbgSlot) : (s.setDbg n d).free = s.free := rfl
@[simp] theorem setDbg_serial (n : Nat) (d : DbgSlot) : (s.setDbg n d).serial = s.serial := rfl
@[simp] theorem setDbg_focus (n : Nat) (d : DbgSlot) : (s.setDbg n d).focus = s.focus := rfl
@[simp] theorem setDbg_cur (n : Nat) (d : DbgSlot) : (s.setDbg n d).cur = s.cur := rfl
@[simp] theorem setDbg_agenda (n : Nat) (d : DbgSlot) : (s.setDbg n d).agenda = s.agenda := rfl
@[simp] theorem setDbg_mg_xlatVa (n : Nat) (d : DbgSlot) : (s.setDbg n d).mg.xlatVa = s.mg.xlatVa := rfl
@[simp] theorem setDbg_mg_xlatCmd (n : Nat) (d : DbgSlot) : (s.setDbg n d).mg.xlatCmd = s.mg.xlatCmd := rfl
@[simp] theorem setDbg_mg_xlatErr (n : Nat) (d : DbgSlot) : (s.setDbg n d).mg.xlatErr = s.mg.xlatErr := rfl
@[simp] theorem setDbg_mg_inval (n : Nat) (d : DbgSlot) : (s.setDbg n d).mg.inval = s.mg.inval := rfl
@[simp] theorem setDbg_mg_bvDies (n : Nat) (d : DbgSlot) : (s.setDbg n d).mg.bvDies = s.mg.bvDies := rfl
@[simp] theorem setDbg_mg_bvBusy (n : Nat) (d : DbgSlot) : (s.setDbg n d).mg.bvBusy = s.mg.bvBusy := rfl
@[simp] theorem setDbg_mg_bvErr (n : Nat) (d : DbgSlot) : (s.setDbg n d).mg.bvErr = s.mg.bvErr := rfl
@[simp] theorem setDbg_mg_ement (n : Nat) (d : DbgSlot) : (s.setDbg n d).mg.ement = s.mg.ement := rfl
@[simp] theorem setDbg_mg_power (n : Nat) (d : DbgSlot) : (s.setDbg n d).mg.power = s.mg.power := rfl
@[simp] theorem setDbg_mg_peer (n : Nat) (d : DbgSlot) : (s.setDbg n d).mg.peer = s.mg.peer := rfl
@[simp] theorem setDbg_mg_dies (n : Nat) (d : DbgSlot) : (s.setDbg n d).mg.dies = s.mg.dies := rfl
@[simp] theorem setDbg_mg_degraded (n : Nat) (d : DbgSlot) : (s.setDbg n d).mg.degraded = s.mg.degraded := rfl
@[simp] theorem setDbg_mg_mail (n : Nat) (d : DbgSlot) : (s.setDbg n d).mg.mail = s.mg.mail := rfl
@[simp] theorem setDbg_mg_hwBase (n : Nat) (d : DbgSlot) : (s.setDbg n d).mg.hwBase = s.mg.hwBase := rfl
@[simp] theorem setDbg_mg_routes (n : Nat) (d : DbgSlot) : (s.setDbg n d).mg.routes = s.mg.routes := rfl
@[simp] theorem setDbg_mg_bridges (n : Nat) (d : DbgSlot) : (s.setDbg n d).mg.bridges = s.mg.bridges := rfl
@[simp] theorem setDbg_mg_ports (n : Nat) (d : DbgSlot) : (s.setDbg n d).mg.ports = s.mg.ports := rfl
@[simp] theorem setDbg_mg_log (n : Nat) (d : DbgSlot) : (s.setDbg n d).mg.log = s.mg.log := rfl
@[simp] theorem setDbg_mg_spareUsed (n : Nat) (d : DbgSlot) : (s.setDbg n d).mg.spareUsed = s.mg.spareUsed := rfl
@[simp] theorem setDbg_mg_busErr (n : Nat) (d : DbgSlot) : (s.setDbg n d).mg.busErr = s.mg.busErr := rfl
@[simp] theorem setDbg_mg_ctxUsed (n : Nat) (d : DbgSlot) : (s.setDbg n d).mg.ctxUsed = s.mg.ctxUsed := rfl
@[simp] theorem setDbg_mg_firmware (n : Nat) (d : DbgSlot) : (s.setDbg n d).mg.firmware = s.mg.firmware := rfl

@[simp] theorem logEvent_ms (k d u i : Nat) : (s.logEvent k d u i).ms = s.ms := rfl
@[simp] theorem logEvent_fab (k d u i : Nat) : (s.logEvent k d u i).fab = s.fab := rfl
@[simp] theorem logEvent_mat (k d u i : Nat) : (s.logEvent k d u i).mat = s.mat := rfl
@[simp] theorem logEvent_disp (k d u i : Nat) : (s.logEvent k d u i).disp = s.disp := rfl
@[simp] theorem logEvent_clock (k d u i : Nat) : (s.logEvent k d u i).clock = s.clock := rfl
@[simp] theorem logEvent_free (k d u i : Nat) : (s.logEvent k d u i).free = s.free := rfl
@[simp] theorem logEvent_serial (k d u i : Nat) : (s.logEvent k d u i).serial = s.serial := rfl
@[simp] theorem logEvent_focus (k d u i : Nat) : (s.logEvent k d u i).focus = s.focus := rfl
@[simp] theorem logEvent_cur (k d u i : Nat) : (s.logEvent k d u i).cur = s.cur := rfl
@[simp] theorem logEvent_agenda (k d u i : Nat) : (s.logEvent k d u i).agenda = s.agenda := rfl
@[simp] theorem logEvent_mg_xlatVa (k d u i : Nat) : (s.logEvent k d u i).mg.xlatVa = s.mg.xlatVa := rfl
@[simp] theorem logEvent_mg_xlatCmd (k d u i : Nat) : (s.logEvent k d u i).mg.xlatCmd = s.mg.xlatCmd := rfl
@[simp] theorem logEvent_mg_xlatErr (k d u i : Nat) : (s.logEvent k d u i).mg.xlatErr = s.mg.xlatErr := rfl
@[simp] theorem logEvent_mg_inval (k d u i : Nat) : (s.logEvent k d u i).mg.inval = s.mg.inval := rfl
@[simp] theorem logEvent_mg_bvDies (k d u i : Nat) : (s.logEvent k d u i).mg.bvDies = s.mg.bvDies := rfl
@[simp] theorem logEvent_mg_bvBusy (k d u i : Nat) : (s.logEvent k d u i).mg.bvBusy = s.mg.bvBusy := rfl
@[simp] theorem logEvent_mg_bvErr (k d u i : Nat) : (s.logEvent k d u i).mg.bvErr = s.mg.bvErr := rfl
@[simp] theorem logEvent_mg_ement (k d u i : Nat) : (s.logEvent k d u i).mg.ement = s.mg.ement := rfl
@[simp] theorem logEvent_mg_dbg (k d u i : Nat) : (s.logEvent k d u i).mg.dbg = s.mg.dbg := rfl
@[simp] theorem logEvent_mg_power (k d u i : Nat) : (s.logEvent k d u i).mg.power = s.mg.power := rfl
@[simp] theorem logEvent_mg_peer (k d u i : Nat) : (s.logEvent k d u i).mg.peer = s.mg.peer := rfl
@[simp] theorem logEvent_mg_dies (k d u i : Nat) : (s.logEvent k d u i).mg.dies = s.mg.dies := rfl
@[simp] theorem logEvent_mg_degraded (k d u i : Nat) : (s.logEvent k d u i).mg.degraded = s.mg.degraded := rfl
@[simp] theorem logEvent_mg_mail (k d u i : Nat) : (s.logEvent k d u i).mg.mail = s.mg.mail := rfl
@[simp] theorem logEvent_mg_hwBase (k d u i : Nat) : (s.logEvent k d u i).mg.hwBase = s.mg.hwBase := rfl
@[simp] theorem logEvent_mg_routes (k d u i : Nat) : (s.logEvent k d u i).mg.routes = s.mg.routes := rfl
@[simp] theorem logEvent_mg_bridges (k d u i : Nat) : (s.logEvent k d u i).mg.bridges = s.mg.bridges := rfl
@[simp] theorem logEvent_mg_ports (k d u i : Nat) : (s.logEvent k d u i).mg.ports = s.mg.ports := rfl
@[simp] theorem logEvent_mg_spareUsed (k d u i : Nat) : (s.logEvent k d u i).mg.spareUsed = s.mg.spareUsed := rfl
@[simp] theorem logEvent_mg_busErr (k d u i : Nat) : (s.logEvent k d u i).mg.busErr = s.mg.busErr := rfl
@[simp] theorem logEvent_mg_ctxUsed (k d u i : Nat) : (s.logEvent k d u i).mg.ctxUsed = s.mg.ctxUsed := rfl
@[simp] theorem logEvent_mg_firmware (k d u i : Nat) : (s.logEvent k d u i).mg.firmware = s.mg.firmware := rfl

@[simp] theorem holdBack_fab : s.holdBack.fab = s.fab := rfl
@[simp] theorem holdBack_mat : s.holdBack.mat = s.mat := rfl
@[simp] theorem holdBack_disp : s.holdBack.disp = s.disp := rfl
@[simp] theorem holdBack_mg : s.holdBack.mg = s.mg := rfl
@[simp] theorem holdBack_clock : s.holdBack.clock = s.clock := rfl
@[simp] theorem holdBack_free : s.holdBack.free = s.free := rfl
@[simp] theorem holdBack_serial : s.holdBack.serial = s.serial := rfl
@[simp] theorem holdBack_focus : s.holdBack.focus = s.focus := rfl
@[simp] theorem holdBack_cur : s.holdBack.cur = s.cur := rfl
@[simp] theorem holdBack_agenda : s.holdBack.agenda = s.agenda := rfl
@[simp] theorem holdBack_ms_mem : s.holdBack.ms.mem = s.ms.mem := rfl
@[simp] theorem holdBack_ms_poison : s.holdBack.ms.poison = s.ms.poison := rfl
@[simp] theorem holdBack_ms_tier : s.holdBack.ms.tier = s.ms.tier := rfl
@[simp] theorem holdBack_ms_l1 : s.holdBack.ms.l1 = s.ms.l1 := rfl
@[simp] theorem holdBack_ms_l1tag : s.holdBack.ms.l1tag = s.ms.l1tag := rfl
@[simp] theorem holdBack_ms_l2 : s.holdBack.ms.l2 = s.ms.l2 := rfl
@[simp] theorem holdBack_ms_misses : s.holdBack.ms.misses = s.ms.misses := rfl
@[simp] theorem holdBack_ms_missq : s.holdBack.ms.missq = s.ms.missq := rfl
@[simp] theorem holdBack_ms_tlb : s.holdBack.ms.tlb = s.ms.tlb := rfl
@[simp] theorem holdBack_ms_walks : s.holdBack.ms.walks = s.ms.walks := rfl
@[simp] theorem holdBack_ms_fresh : s.holdBack.ms.fresh = s.ms.fresh := rfl
@[simp] theorem holdBack_ms_atc : s.holdBack.ms.atc = s.ms.atc := rfl
@[simp] theorem holdBack_ms_ats : s.holdBack.ms.ats = s.ms.ats := rfl
@[simp] theorem holdBack_ms_atsUsed : s.holdBack.ms.atsUsed = s.ms.atsUsed := rfl
@[simp] theorem holdBack_ms_posted : s.holdBack.ms.posted = s.ms.posted := rfl
@[simp] theorem holdBack_ms_allow : s.holdBack.ms.allow = s.ms.allow := rfl
@[simp] theorem holdBack_ms_fences : s.holdBack.ms.fences = s.ms.fences := rfl
@[simp] theorem holdBack_ms_drains : s.holdBack.ms.drains = s.ms.drains := rfl
@[simp] theorem holdBack_ms_holders : s.holdBack.ms.holders = s.ms.holders := rfl
@[simp] theorem holdBack_ms_grants : s.holdBack.ms.grants = s.ms.grants := rfl
@[simp] theorem holdBack_ms_offers : s.holdBack.ms.offers = s.ms.offers := rfl
@[simp] theorem holdBack_ms_breads : s.holdBack.ms.breads = s.ms.breads := rfl
@[simp] theorem holdBack_ms_sp : s.holdBack.ms.sp = s.ms.sp := rfl
@[simp] theorem holdBack_ms_tm : s.holdBack.ms.tm = s.ms.tm := rfl
@[simp] theorem holdBack_ms_fills : s.holdBack.ms.fills = s.ms.fills := rfl
@[simp] theorem holdBack_ms_copies : s.holdBack.ms.copies = s.ms.copies := rfl
@[simp] theorem holdBack_ms_stores : s.holdBack.ms.stores = s.ms.stores := rfl
@[simp] theorem holdBack_ms_inc : s.holdBack.ms.inc = s.ms.inc := rfl
@[simp] theorem holdBack_ms_out : s.holdBack.ms.out = s.ms.out := rfl
@[simp] theorem holdBack_hold : s.holdBack.ms.hold = true := rfl

@[simp] theorem setAllowance_fab (c h n : Nat) : (s.setAllowance c h n).fab = s.fab := rfl
@[simp] theorem setAllowance_mat (c h n : Nat) : (s.setAllowance c h n).mat = s.mat := rfl
@[simp] theorem setAllowance_disp (c h n : Nat) : (s.setAllowance c h n).disp = s.disp := rfl
@[simp] theorem setAllowance_mg (c h n : Nat) : (s.setAllowance c h n).mg = s.mg := rfl
@[simp] theorem setAllowance_clock (c h n : Nat) : (s.setAllowance c h n).clock = s.clock := rfl
@[simp] theorem setAllowance_free (c h n : Nat) : (s.setAllowance c h n).free = s.free := rfl
@[simp] theorem setAllowance_serial (c h n : Nat) : (s.setAllowance c h n).serial = s.serial := rfl
@[simp] theorem setAllowance_focus (c h n : Nat) : (s.setAllowance c h n).focus = s.focus := rfl
@[simp] theorem setAllowance_cur (c h n : Nat) : (s.setAllowance c h n).cur = s.cur := rfl
@[simp] theorem setAllowance_agenda (c h n : Nat) : (s.setAllowance c h n).agenda = s.agenda := rfl
@[simp] theorem setAllowance_ms_mem (c h n : Nat) : (s.setAllowance c h n).ms.mem = s.ms.mem := rfl
@[simp] theorem setAllowance_ms_poison (c h n : Nat) : (s.setAllowance c h n).ms.poison = s.ms.poison := rfl
@[simp] theorem setAllowance_ms_tier (c h n : Nat) : (s.setAllowance c h n).ms.tier = s.ms.tier := rfl
@[simp] theorem setAllowance_ms_l1 (c h n : Nat) : (s.setAllowance c h n).ms.l1 = s.ms.l1 := rfl
@[simp] theorem setAllowance_ms_l1tag (c h n : Nat) : (s.setAllowance c h n).ms.l1tag = s.ms.l1tag := rfl
@[simp] theorem setAllowance_ms_l2 (c h n : Nat) : (s.setAllowance c h n).ms.l2 = s.ms.l2 := rfl
@[simp] theorem setAllowance_ms_misses (c h n : Nat) : (s.setAllowance c h n).ms.misses = s.ms.misses := rfl
@[simp] theorem setAllowance_ms_missq (c h n : Nat) : (s.setAllowance c h n).ms.missq = s.ms.missq := rfl
@[simp] theorem setAllowance_ms_tlb (c h n : Nat) : (s.setAllowance c h n).ms.tlb = s.ms.tlb := rfl
@[simp] theorem setAllowance_ms_walks (c h n : Nat) : (s.setAllowance c h n).ms.walks = s.ms.walks := rfl
@[simp] theorem setAllowance_ms_fresh (c h n : Nat) : (s.setAllowance c h n).ms.fresh = s.ms.fresh := rfl
@[simp] theorem setAllowance_ms_atc (c h n : Nat) : (s.setAllowance c h n).ms.atc = s.ms.atc := rfl
@[simp] theorem setAllowance_ms_ats (c h n : Nat) : (s.setAllowance c h n).ms.ats = s.ms.ats := rfl
@[simp] theorem setAllowance_ms_atsUsed (c h n : Nat) : (s.setAllowance c h n).ms.atsUsed = s.ms.atsUsed := rfl
@[simp] theorem setAllowance_ms_posted (c h n : Nat) : (s.setAllowance c h n).ms.posted = s.ms.posted := rfl
@[simp] theorem setAllowance_ms_fences (c h n : Nat) : (s.setAllowance c h n).ms.fences = s.ms.fences := rfl
@[simp] theorem setAllowance_ms_drains (c h n : Nat) : (s.setAllowance c h n).ms.drains = s.ms.drains := rfl
@[simp] theorem setAllowance_ms_holders (c h n : Nat) : (s.setAllowance c h n).ms.holders = s.ms.holders := rfl
@[simp] theorem setAllowance_ms_grants (c h n : Nat) : (s.setAllowance c h n).ms.grants = s.ms.grants := rfl
@[simp] theorem setAllowance_ms_offers (c h n : Nat) : (s.setAllowance c h n).ms.offers = s.ms.offers := rfl
@[simp] theorem setAllowance_ms_breads (c h n : Nat) : (s.setAllowance c h n).ms.breads = s.ms.breads := rfl
@[simp] theorem setAllowance_ms_sp (c h n : Nat) : (s.setAllowance c h n).ms.sp = s.ms.sp := rfl
@[simp] theorem setAllowance_ms_tm (c h n : Nat) : (s.setAllowance c h n).ms.tm = s.ms.tm := rfl
@[simp] theorem setAllowance_ms_fills (c h n : Nat) : (s.setAllowance c h n).ms.fills = s.ms.fills := rfl
@[simp] theorem setAllowance_ms_copies (c h n : Nat) : (s.setAllowance c h n).ms.copies = s.ms.copies := rfl
@[simp] theorem setAllowance_ms_stores (c h n : Nat) : (s.setAllowance c h n).ms.stores = s.ms.stores := rfl
@[simp] theorem setAllowance_ms_inc (c h n : Nat) : (s.setAllowance c h n).ms.inc = s.ms.inc := rfl
@[simp] theorem setAllowance_ms_out (c h n : Nat) : (s.setAllowance c h n).ms.out = s.ms.out := rfl
@[simp] theorem setAllowance_ms_hold (c h n : Nat) : (s.setAllowance c h n).ms.hold = s.ms.hold := rfl
@[simp] theorem setAllowance_allow (c h n : Nat) : (s.setAllowance c h n).ms.allow = kvSetD (c * 16 + h) fullAllowance n s.ms.allow := rfl

end Sys2Proof.Machine
end

