-- ==== Sys2Proof/Laws/Fibres.lean ====
section
/-! SUPPORT. Reads of fibres, instances, gathers, slots and launches after the updates of them, and what the joining of a waiting
set leaves: `Calm` is `Quiet` but for which fibres are parked. -/
namespace Sys2Proof.Machine

/-! ## Reads after updates -/

variable (s : State)

@[simp] theorem fibre_setFibre_same (f : Nat) (x : Fibre) : (s.setFibre f x).fibre? f = some x := kvGet_kvSet_same _ _ _
theorem fibre_setFibre_other {f k : Nat} (h : k ≠ f) (x : Fibre) : (s.setFibre f x).fibre? k = s.fibre? k :=
  kvGet_kvSet_other h _ _
@[simp] theorem fibre_modFibre_same (f : Nat) (fn : Fibre → Fibre) : (s.modFibre f fn).fibre? f = (s.fibre? f).map fn :=
  kvGet_kvMod_same _ _ _
theorem fibre_modFibre_other {f k : Nat} (h : k ≠ f) (fn : Fibre → Fibre) : (s.modFibre f fn).fibre? k = s.fibre? k :=
  kvGet_kvMod_other h _ _
@[simp] theorem inst_setInst_same (f : Nat) (i : Inst) : (s.setInst f i).inst? f = some i := kvGet_kvSet_same _ _ _
theorem inst_setInst_other {f k : Nat} (h : k ≠ f) (i : Inst) : (s.setInst f i).inst? k = s.inst? k := kvGet_kvSet_other h _ _
@[simp] theorem inst_delInst_same (f : Nat) : (s.delInst f).inst? f = none := kvGet_kvDel_same _ _
@[simp] theorem gather_setGather_same (g : Nat) (x : Gather) : (s.setGather g x).gather? g = some x := kvGet_kvSet_same _ _ _
theorem gather_setGather_other {g k : Nat} (h : k ≠ g) (x : Gather) : (s.setGather g x).gather? k = s.gather? k :=
  kvGet_kvSet_other h _ _
@[simp] theorem gather_modGather_same (g : Nat) (fn : Gather → Gather) : (s.modGather g fn).gather? g = (s.gather? g).map fn :=
  kvGet_kvMod_same _ _ _
@[simp] theorem launch_modLaunch_same (l : Nat) (fn : Launch → Launch) : (s.modLaunch l fn).launch? l = (s.launch? l).map fn :=
  kvGet_kvMod_same _ _ _
@[simp] theorem seq_setSeq_same (c : Nat) (q : Seq) : (s.setSeq c q).seq? c = some q := kvGet_kvSet_same _ _ _
theorem seq_setSeq_other {c k : Nat} (h : k ≠ c) (q : Seq) : (s.setSeq c q).seq? k = s.seq? k := kvGet_kvSet_other h _ _
@[simp] theorem slot_setSlot_same (c i : Nat) (x : Slot) : (s.setSlot c i x).slot c i = x := kvGetD_kvSetD_same _ _ _ _

@[simp] theorem fibre_setInst (f k : Nat) (i : Inst) : (s.setInst f i).fibre? k = s.fibre? k := rfl
@[simp] theorem gather_setInst (f k : Nat) (i : Inst) : (s.setInst f i).gather? k = s.gather? k := rfl
@[simp] theorem inst_setFibre (f k : Nat) (x : Fibre) : (s.setFibre f x).inst? k = s.inst? k := rfl
@[simp] theorem gather_setFibre (f k : Nat) (x : Fibre) : (s.setFibre f x).gather? k = s.gather? k := rfl
@[simp] theorem fibre_setGather (g k : Nat) (x : Gather) : (s.setGather g x).fibre? k = s.fibre? k := rfl
@[simp] theorem fibre_setSlot (c i k : Nat) (x : Slot) : (s.setSlot c i x).fibre? k = s.fibre? k := rfl
@[simp] theorem gather_setSlot (c i k : Nat) (x : Slot) : (s.setSlot c i x).gather? k = s.gather? k := rfl
@[simp] theorem byte_setFibre (f a : Nat) (x : Fibre) : (s.setFibre f x).byte a = s.byte a := rfl
@[simp] theorem byte_setInst (f a : Nat) (i : Inst) : (s.setInst f i).byte a = s.byte a := rfl
@[simp] theorem byte_setGather (g a : Nat) (x : Gather) : (s.setGather g x).byte a = s.byte a := rfl
@[simp] theorem byte_setSlot (c i a : Nat) (x : Slot) : (s.setSlot c i x).byte a = s.byte a := rfl
@[simp] theorem byte_setSeq (c a : Nat) (q : Seq) : (s.setSeq c q).byte a = s.byte a := rfl

/-! ## Joining a waiting set -/

/-- A fibre without the notes that it is parked, and since when. -/
def Fibre.unparked (x : Fibre) : Fibre := { x with parked := false, parkedAt := 0 }

/-- Only the memory system, window words, caches, counts, logs and the parking of fibres differ. -/
structure Calm (s t : State) : Prop where
  fibres : ∀ f, (t.fibre? f).map Fibre.unparked = (s.fibre? f).map Fibre.unparked
  insts : t.fab.insts = s.fab.insts
  slots : t.fab.slots = s.fab.slots
  prods : t.fab.prods = s.fab.prods
  gathers : ∀ g, (t.gather? g).map Gather.bare = (s.gather? g).map Gather.bare
  mat : t.mat = s.mat
  disp : t.disp = s.disp
  clock : t.clock = s.clock
  serial : t.serial = s.serial
  focus : t.focus = s.focus
  cur : t.cur = s.cur
  agenda : t.agenda = s.agenda
  canon : Memory.wf s.ms.mem = true → Memory.wf t.ms.mem = true

theorem Calm.refl (s : State) : Calm s s :=
  ⟨fun _ => rfl, rfl, rfl, rfl, fun _ => rfl, rfl, rfl, rfl, rfl, rfl, rfl, rfl, id⟩
theorem Calm.trans {s t u : State} (h : Calm s t) (k : Calm t u) : Calm s u :=
  ⟨fun f => (k.fibres f).trans (h.fibres f), k.insts.trans h.insts, k.slots.trans h.slots, k.prods.trans h.prods,
    fun g => (k.gathers g).trans (h.gathers g), k.mat.trans h.mat, k.disp.trans h.disp, k.clock.trans h.clock,
    k.serial.trans h.serial, k.focus.trans h.focus, k.cur.trans h.cur, k.agenda.trans h.agenda, fun w => k.canon (h.canon w)⟩
theorem Quiet.calm {s t : State} (h : Quiet s t) : Calm s t :=
  ⟨fun f => by simp [State.fibre?, h.fibres], h.insts, h.slots, h.prods, h.gathers, h.mat, h.disp, h.clock, h.serial, h.focus,
    h.cur, h.agenda, h.canon⟩
theorem Calm.foldl {α : Type} (f : State → α → State) (h : ∀ s a, Calm s (f s a)) :
    ∀ (l : List α) (s : State), Calm s (l.foldl f s)
  | [], s => Calm.refl s
  | a :: r, s => (h s a).trans (Calm.foldl f h r (f s a))

theorem Calm.park {s : State} {f : Nat} {x y : Fibre} (h : s.fibre? f = some x) (e : y.unparked = x.unparked) :
    Calm s (s.setFibre f y) := by
  refine ⟨fun k => ?_, rfl, rfl, rfl, fun _ => rfl, rfl, rfl, rfl, rfl, rfl, rfl, rfl, id⟩
  by_cases hk : k = f
  · subst hk
    simp [h, e]
  · rw [fibre_setFibre_other s hk]

theorem Calm.joinOne (s : State) (f : Nat) : Calm s (s.joinOne f) := by
  unfold State.joinOne
  split
  · exact Calm.refl s
  · rename_i x hx
    dsimp only
    refine Calm.trans (Quiet.setFabric s (coreOf f) ((s.fabric (coreOf f)).forgive f)).calm ?_
    replace hx : (s.setFabric (coreOf f) ((s.fabric (coreOf f)).forgive f)).fibre? f = some x := hx
    split
    · exact Calm.refl _
    · split
      · exact Calm.park hx rfl
      · split
        · exact Calm.park hx rfl
        · refine Calm.trans (Calm.trans (Calm.park hx ?_) (Quiet.calm (Quiet.readHeader _ _ _ _))) (Quiet.setFabric _ _ _).calm
          rfl

theorem Calm.trimSets (s : State) (c : Nat) : Calm s (s.trimSets c) :=
  (Quiet.setFabric _ _ _).calm.trans (Calm.foldl _ (fun s f => Calm.joinOne s f) _ _)

theorem Calm.joinSet (s : State) (f : Nat) : Calm s (s.joinSet f) := (Calm.trimSets _ _).trans (Calm.joinOne _ _)

/-- What a fibre is after a calm change, but for its parking. -/
theorem Calm.fibre {s t : State} (h : Calm s t) {f : Nat} {x : Fibre} (hx : s.fibre? f = some x) :
    ∃ y, t.fibre? f = some y ∧ y.unparked = x.unparked := by
  have := h.fibres f
  rw [hx] at this
  cases ht : t.fibre? f with
  | none => simp [ht] at this
  | some y => exact ⟨y, rfl, by simpa [ht] using this⟩

/-- What a gather is after a calm change, but for its window words. -/
theorem Calm.gather {s t : State} (h : Calm s t) {g : Nat} {x : Gather} (hx : s.gather? g = some x) :
    ∃ y, t.gather? g = some y ∧ y.bare = x.bare := by
  have := h.gathers g
  rw [hx] at this
  cases ht : t.gather? g with
  | none => simp [ht] at this
  | some y => exact ⟨y, rfl, by simpa [ht] using this⟩

end Sys2Proof.Machine
end

