-- ==== Sys2Proof/Tests/Slice0.lean ====
section
/-! SUPPORT. Tests: an ill-formed term for each check of WellFormed, words written out from the encodings of spec/10 to
spec/18, one step of a few instructions, and a concrete state that meets the hypotheses of each statement. -/
namespace Sys2Proof.Tests
open Sys2Proof Sys2Proof.Machine Sys2Proof.Claims

/-! ## Ill-formed terms are refused -/

theorem test_wf_branch_literal : (Instr.brt (.lit 1) 0).wellFormed false = false := by decide
theorem test_wf_branch : (Instr.brt (.v 3) 0).wellFormed false = true := by decide
theorem test_wf_brf_literal : (Instr.brf (.lit 1) 0).wellFormed false = false := by decide
theorem test_wf_fork_destination : (Instr.fork (.v 1) .zero .zero).wellFormed false = false := by decide
theorem test_wf_launch_destination : (Instr.launch (.g 1) .zero .zero).wellFormed false = false := by decide
theorem test_wf_efork_destination : (Instr.efork .pw .zero .zero).wellFormed false = false := by decide
theorem test_wf_barriers : [Instr.bar 16, .arrive 16, .await 16, .rdv 16, .sequencerRdv .zero 16].all (fun i => !i.wellFormed false) = true := by decide
theorem test_wf_predicate_bits : [Instr.pget (.v 0) 16, .pset .zero 16].all (fun i => !i.wellFormed false) = true := by decide
theorem test_wf_cancel : [Instr.cancel (.v 0) .zero 0, .cancel .zero .zero 4].all (fun i => !i.wellFormed false) = true := by decide
theorem test_wf_vote_mode : (Instr.vote .zero .zero 4).wellFormed false = false := by decide
theorem test_wf_xtnd : [Instr.xtnd .zero .zero 6, .xtnd64 .zero .zero 6].all (fun i => !i.wellFormed false) = true := by decide
theorem test_wf_icmp_condition : (Instr.icmp 0 6 .zero .zero .zero).wellFormed false = false := by decide
theorem test_wf_escale_format : (Instr.escale .zero .zero 6).wellFormed false = false := by decide
theorem test_wf_cbdec_half : (Instr.cbdec .zero .zero 2).wellFormed false = false := by decide
theorem test_wf_ld : [Instr.ld 0 5 (.g 0) .zero 0, .ld 0 5 .pw .zero 0, .ld 0 7 .zero .zero 0, .ld 0 6 (.v 3) .zero 0, .ld 0 6 (.w 2) .zero 0,
    .ldFmt 0 .pw .zero 0].all (fun i => !i.wellFormed false) = true := by decide
theorem test_wf_ld_pair : (Instr.ld 0 6 (.v 4) .zero 0).wellFormed false = true := by decide
theorem test_wf_st : [Instr.st 0 5 (.lit 0) .zero 0, .st 0 7 .zero .zero 0, .st 3 5 .zero .zero 0, .st 0 6 (.v 1) .zero 0, .stFmt 0 (.lit 0) .zero 0,
    .stFmt 3 .zero .zero 0].all (fun i => !i.wellFormed false) = true := by decide
theorem test_wf_atom : [Instr.atomAdd false 6 0 .zero .zero .zero, .atomAdd false 0 0 (.v 0) .zero .zero, .atomLoad false 0 2 .zero .zero,
    .atomStore false 0 1 .zero .zero, .atomCas false 0 0 .pw .zero .zero .zero].all (fun i => !i.wellFormed false) = true := by decide
theorem test_wf_atom_in_sequencer_code : (Instr.atomAdd false 0 0 (.v 0) .zero .zero).wellFormed true = true := by decide
theorem test_wf_red : [Instr.redAdd false 6 0 .zero .zero, .redAdd false 0 1 .zero .zero, .redMaxn true 0 3 .zero .zero].all
    (fun i => !i.wellFormed false) = true := by decide
theorem test_wf_fences : [Instr.fence 6 1 0, .fence 0 0 0, .fence 0 1 4, .fencex 6, .relb 0 1 64 0, .relb 0 1 0 1, .relb 0 0 0 0, .acqb 0 0 0,
    .acqb 0 1 64].all (fun i => !i.wellFormed false) = true := by decide
theorem test_wf_tags : [Instr.spunmap 64 .zero, .spwb 64 .zero .zero, .spcpy 64 .zero .zero .zero, .spfill 64 .zero .zero .zero,
    .cpy 64 .zero .zero .zero, .cpyr 64 .zero .zero, .cpyp 64 .zero .zero, .cpyg 64 .zero .zero].all (fun i => !i.wellFormed false) = true := by decide
theorem test_wf_prefetch : [Instr.pref .zero 2, .ipref .zero 16].all (fun i => !i.wellFormed false) = true := by decide
theorem test_wf_tag_waits : [Instr.wany (.v 0) .zero, .wall (.v 0) .zero, .tagclr (.v 0) .zero].all (fun i => !i.wellFormed false) = true := by decide
theorem test_wf_matrix_control : [Instr.mma (.lit 0) .zero .zero, .mdelta (.lit 0) .zero .zero, .mscan (.lit 0) .zero .zero, .mout (.lit 0) .zero,
    .mlda (.lit 0) .zero, .mzero .zero 2].all (fun i => !i.wellFormed true) = true := by decide
theorem test_wf_special_registers : [Instr.rdsr .zero 22, .wrsr 0 .zero, .wrsr 11 .zero, .perfc .zero 16].all (fun i => !i.wellFormed false) = true := by decide
theorem test_wf_events : [Instr.schedulerChoice 640, .coherenceRequest 8 0 ⟨true, .clean⟩, .sequencerProgramStart 160, .homeTileEviction 0 32,
    .serviceRegister 64, .qcfgWrite 2048 true 0, .dbgHaltreq 8, .portDown 24, .secondTierTimeout 2, .linkDown 28, .dieOutOfService 8].all
    (fun i => !i.wellFormed false) = true := by decide
theorem test_wf_sequencer_names : [Instr.add (.g 0) .zero .zero, .add .zero .fi .zero, .brt .pw 0, .calli .ka 0, .pget .zero 0, .mul24 .zero .zero .zero].all
    (fun i => !i.seqOk) = true := by decide

/-! ## Words of the encodings -/

/-- R241: JMP, major 0x02, the offset −1 in bits 19..0. -/
theorem test_decode_jmp : decode false [0x100FFFFF] = .ok (.jmp 0xFFFFF, []) := rfl
/-- R241, R239: BRT, major 0x03, predicate v0 in bits 26..20. -/
theorem test_decode_brt : decode false [0x18000006] = .ok (.brt (.v 0) 6, []) := rfl
/-- R239, R242: SUB, IALU major 0x08. -/
theorem test_decode_sub : decode false [0x401F1001] = .ok (.sub (.v 1) .zero (.w 0), []) := rfl
/-- R291: ICMP of type 0 and condition 2. -/
theorem test_decode_icmp : decode false [0x50081E02] = .ok (.icmp 0 2 (.v 0) (.w 0) .zero, []) := rfl
/-- R273: SEL with its extension word. -/
theorem test_decode_sel : decode false [0x3C10300B, 0xF8000000] = .ok (.sel (.w 1) (.v 1) (.w 0) (.v 0), []) := rfl
/-- R296: ADDI in 64 bits with the immediate −36. -/
theorem test_decode_addi : decode false [0x60509FDC] = .ok (.addi true (.v 5) (.v 4) 0xFDC, []) := rfl
/-- R302: HDOT2 in BF16. -/
theorem test_decode_hdot2 : decode false [0x984020A8, 0xF8300000] = .ok (.hdot2 true (.v 4) (.v 1) (.v 2) (.v 3), []) := rfl
/-- R307: PK4, and R309: PK8E4.SR. -/
theorem test_decode_pk4 : decode false [0xA0200050] = .ok (.pk4 (.v 2) (.v 0) (.v 1), []) := rfl
theorem test_decode_atom_add : decode false [0xC4580042, 0xF8090000] = .ok (.atomAdd false 4 2 (.w 5) (.w 0) (.v 1), []) := rfl
theorem test_decode_atom_cas : decode false [0xC420006C, 0xF8288000] = .ok (.atomCas true 4 1 (.w 2) (.v 0) (.v 1) (.v 2), []) := rfl
theorem test_decode_red_fadd : decode false [0xC80800CF, 0xF8000000] = .ok (.redFadd false 0 0 (.w 0) (.v 3), []) := rfl
/-- R376, the words of the system instructions. -/
theorem test_decode_rdsr : decode false [0xF430C000] = .ok (.rdsr (.w 3) 6, []) := rfl
theorem test_decode_wrsr : decode false [0xF0104001] = .ok (.wrsr 1 (.v 2), []) := rfl
theorem test_decode_clock : decode false [0xF0508002] = .ok (.clock (.v 5) (.v 4), []) := rfl
theorem test_decode_trap : decode false [0xF00FC003, 0x0000002A] = .ok (.trap (.lit 42), []) := rfl
theorem test_decode_resume_skip : decode false [0xF0002044] = .ok (.resumeSkip (.v 1), []) := rfl
theorem test_decode_emulret : decode false [0xF000C006] = .ok (.emulret (.v 6), []) := rfl
theorem test_decode_nop : decode false [0xF0000007] = .ok (.nop, []) := rfl
/-- R239, R247: majors that are no instruction. -/
theorem test_decode_major_zero : decode false [0x00000000] = .error .illMajor := rfl
theorem test_decode_matrix_in_fibre_code : decode false [0xE8000000] = .error .matrix := rfl
theorem test_decode_missing_literal : decode false [0x600FC000] = .error .noLiteral := rfl

/-- An A-format word (R239): op in bits 31..27, D in 26..20, A in 19..13, B in 12..6, fn in 5..0. -/
def wordA (op d a b fn : Nat) : Word := BitVec.ofNat 32 (op * 2 ^ 27 + d * 2 ^ 20 + a * 2 ^ 13 + b * 2 ^ 6 + fn)
/-- An extension word (R239): 0x1F, C in bits 26..20, and bits 19..0. -/
def wordX (c low : Nat) : Word := BitVec.ofNat 32 (0x1F * 2 ^ 27 + c * 2 ^ 20 + low)
/-- An I-format word (R239). -/
def wordI (op d a m imm : Nat) : Word := BitVec.ofNat 32 (op * 2 ^ 27 + d * 2 ^ 20 + a * 2 ^ 13 + m * 2 ^ 12 + imm)
/-- An M-format word (R239). -/
def wordM (op d a q sz off : Nat) : Word := BitVec.ofNat 32 (op * 2 ^ 27 + d * 2 ^ 20 + a * 2 ^ 13 + q * 2 ^ 10 + sz * 2 ^ 7 + off)
/-- A B-format or U-format word (R239). -/
def wordB (op p off : Nat) : Word := BitVec.ofNat 32 (op * 2 ^ 27 + p * 2 ^ 20 + off)

/-- R241: BRF and CALL, whose P is raw. -/
theorem test_decode_brf : decode false [wordB 0x04 127 0x80000] = .ok (.brf .pw 0x80000, []) := rfl
theorem test_decode_call : decode false [wordB 0x05 127 3] = .ok (.call 127 3, []) := rfl
/-- R245, FLOW: BRI, CALLI with a raw B, FORK, BAR with a raw number, MERGE. -/
theorem test_decode_bri : decode false [wordA 0x07 0 111 0 0x00] = .ok (.bri (.w 47), []) := rfl
theorem test_decode_fork : decode false [wordA 0x07 64 1 120 0x04] = .ok (.fork (.w 0) (.v 1) .zero, []) := rfl
theorem test_decode_merge : decode false [wordA 0x07 2 3 4 0x0A, wordX 127 0] = .ok (.merge (.v 2) (.v 3) (.v 4) .pw, []) := rfl
/-- R245, IALU64: MULWN, fn 0x21. -/
theorem test_decode_mulwn : decode false [wordA 0x09 112 121 122 0x21] = .ok (.mulwn (.g 0) .fi .gi, []) := rfl
/-- R245, ICMP: n64 and GE. -/
theorem test_decode_icmp_n64 : decode false [wordA 0x0A 127 123 124 0x35] = .ok (.icmp 3 5 .pw .ka .sb, []) := rfl
/-- R245, R240: BFI with a literal in C, after the extension word. -/
theorem test_decode_bfi : decode false [wordA 0x0B 5 6 7 0x02, wordX 126 0, 0x00000804] = .ok (.bfi (.v 5) (.v 6) (.v 7) (.lit 0x804), []) := rfl
/-- R241: ANDI and ORI in 32 bits, SHI of kind SAR. -/
theorem test_decode_andi : decode false [wordI 0x0D 1 2 0 0xFFF] = .ok (.andi false (.v 1) (.v 2) 0xFFF, []) := rfl
theorem test_decode_ori : decode false [wordI 0x0E 1 2 1 0x800] = .ok (.ori true (.v 1) (.v 2) 0x800, []) := rfl
theorem test_decode_sari : decode false [wordI 0x0F 1 2 0 (2 * 2 ^ 10 + 63)] = .ok (.sari (.v 1) (.v 2) 63, []) := rfl
theorem test_decode_lhi : decode false [wordB 0x10 64 0xFFFFF] = .ok (.lhi (.w 0) 0xFFFFF, []) := rfl
theorem test_decode_pchi : decode false [wordB 0x11 64 1] = .ok (.pchi (.w 0) 1, []) := rfl
/-- R245, FALU: FMA; HALU: HMIN in BF16; FCVT: FTOI, PKB.SR; SFU: SIGM. -/
theorem test_decode_fma : decode false [wordA 0x12 1 2 3 0x03, wordX 4 0] = .ok (.fma (.v 1) (.v 2) (.v 3) (.v 4), []) := rfl
theorem test_decode_hmin : decode false [wordA 0x13 1 2 3 0x24] = .ok (.hmin true (.v 1) (.v 2) (.v 3), []) := rfl
theorem test_decode_ftoi : decode false [wordA 0x14 1 2 0 0x00] = .ok (.ftoi (.v 1) (.v 2), []) := rfl
theorem test_decode_pkb_sr : decode false [wordA 0x14 1 2 3 0x29, wordX 4 0] = .ok (.pkbSr (.v 1) (.v 2) (.v 3) (.v 4), []) := rfl
theorem test_decode_sigm : decode false [wordA 0x15 1 2 0 0x08] = .ok (.sigm (.v 1) (.v 2), []) := rfl
/-- R239, R314: LD of 4 bytes at −1 elements with q = 2, ST of 16 bytes, the format accesses of sz 7. -/
theorem test_decode_ld : decode false [wordM 0x16 1 2 2 4 0x7F] = .ok (.ld 2 4 (.v 1) (.v 2) 0x7F, []) := rfl
theorem test_decode_st : decode false [wordM 0x17 6 2 1 6 1] = .ok (.st 1 6 (.v 6) (.v 2) 1, []) := rfl
theorem test_decode_ld_fmt : decode false [wordM 0x16 64 2 0 7 31] = .ok (.ldFmt 0 (.w 0) (.v 2) 31, []) := rfl
theorem test_decode_st_fmt : decode false [wordM 0x17 3 2 2 7 1] = .ok (.stFmt 2 (.v 3) (.v 2) 1, []) := rfl
/-- R245, R239: scope and order stand in the extension word. -/
theorem test_decode_atom_swap : decode false [wordA 0x18 64 1 2 (32 + 11), wordX 0 (5 * 2 ^ 17 + 3 * 2 ^ 15)] =
    .ok (.atomSwap true 5 3 (.w 0) (.v 1) (.v 2), []) := rfl
theorem test_decode_red_and : decode false [wordA 0x19 0 1 2 4, wordX 0 (2 * 2 ^ 17 + 2 * 2 ^ 15)] = .ok (.redAnd false 2 2 (.v 1) (.v 2), []) := rfl
/-- R328: FENCE takes scope, mask and kind raw. -/
theorem test_decode_fence : decode false [wordA 0x1A 4 1 3 0x00] = .ok (.fence 4 1 3, []) := rfl
theorem test_decode_fencex : decode false [wordA 0x1A 2 0 0 0x01] = .ok (.fencex 2, []) := rfl
/-- R245, CACHE: SPMAP, SPINV, PREF with a raw kind. -/
theorem test_decode_spmap : decode false [wordA 0x1B 0 1 2 0x00, wordX 3 0] = .ok (.spmap (.v 1) (.v 2) (.v 3), []) := rfl
theorem test_decode_spinv : decode false [wordA 0x1B 0 1 2 0x03] = .ok (.spinv (.v 1) (.v 2), []) := rfl
/-- R245, COPY: CPY with tag 63 raw in D, WALL, FFR. -/
theorem test_decode_cpy : decode false [wordA 0x1C 63 1 2 0x00, wordX 3 0] = .ok (.cpy 63 (.v 1) (.v 2) (.v 3), []) := rfl
theorem test_decode_wall : decode false [wordA 0x1C 64 1 0 0x05] = .ok (.wall (.w 0) (.v 1), []) := rfl
theorem test_decode_ffr : decode false [wordA 0x1C 1 2 0 0x06] = .ok (.ffr (.v 1) (.v 2), []) := rfl
/-- R245, MAT: MMA and MOWN in sequencer code. -/
theorem test_decode_mma : decode true [wordA 0x1D 1 2 3 0x00] = .ok (.mma (.v 1) (.v 2) (.v 3), []) := rfl
theorem test_decode_mown : decode true [wordA 0x1D 1 2 0 0x0B] = .ok (.mown (.v 1) (.v 2), []) := rfl
/-- R245, the cullets. -/
theorem test_decode_shfl : decode false [wordA 0x07 1 2 3 0x3E] = .ok (.shfl (.v 1) (.v 2) (.v 3), []) := rfl
theorem test_decode_mul24 : decode false [wordA 0x08 1 2 3 0x3F] = .ok (.mul24 (.v 1) (.v 2) (.v 3), []) := rfl
theorem test_decode_laneid : decode false [wordA 0x1E 1 0 0 0x3F] = .ok (.laneid (.v 1), []) := rfl
/-- R247: an operand code of 116, a written code of 121, an unused field, an unassigned fn. -/
theorem test_decode_operand_116 : (decode false [wordA 0x08 1 116 0 0]).isOk = false := rfl
theorem test_decode_written_121 : (decode false [wordA 0x08 121 0 0 0]).isOk = false := rfl
theorem test_decode_unused_b : (decode false [wordA 0x14 1 2 1 0x00]).isOk = false := rfl
theorem test_decode_unassigned : (decode false [wordA 0x08 1 2 3 0x20]).isOk = false := rfl

/-! ## States that meet the hypotheses of the statements -/

/-- A running launch of one gather of one fibre. -/
def launch : Launch where
  st := .running
  job := 0
  ctx := 0
  queue := 0
  code := 0
  kidx := 0
  kern := none
  instr := false
  glast := false
  plast := false
  ngath := 1
  karg := 0
  fspBase := 0
  fspStep := 0
  prio := 0
  graph := 0
  phase := 0
  graphId := 0
  phaseId := 0
  reads := none
  writes := none
  crec := 0
  byHost := false
  order := 0
  placed := 1
  left := 1
  ended := 0
  status := 0
  info := 0
  cause := 0
  tval := 0
  copyErr := none
  cancelled := false
  killed := false
  draining := false
  checkpoint := false
  slice := false
/-- The fibre of the placed gather. -/
def fibre : Fibre := newFibre placedAt 0 0 0
/-- The parts of a fibre's launch around it, and for whom the instruction is executed. -/
def core0 (cur : Agent) (n : Option Inst) (x : Fibre) (g : Gather) (l : Launch) : State :=
  { State.reset with
    fab := { Fab.reset with gathers := [(0, g)], fibres := [(0, x)], insts := (n.map fun n => (0, n)).toList }
    disp := { Disp.reset with launches := [(0, l)] }
    cur := cur }
/-- Node 0 of the instance is to fire. -/
def node (n : Inst) : State := core0 (.node 0 0) (some n) fibre placedGather launch
/-- An instance whose v0, v1 and v2 have arrived. -/
def arrived : Inst := { placedInst [0xF0000007] with toks := [(0, .val 5), (1, .val 7), (2, .val 1)] }
/-- An instance whose v0 was absorbed. -/
def absorbed : Inst := { placedInst [0xF0000007] with toks := [(0, .absorbed), (1, .val 7), (2, .val 1)] }
/-- An instance for which nothing has arrived. -/
def waiting : Inst := { placedInst [0xF0000007] with toks := [] }
/-- The sequencer of cluster 0 stands at an instruction. -/
def sequencer (q : Seq) : State := { State.reset with mat := { Mat.reset with seqs := [(0, q)] }, cur := .seq 0 }

/-- The sources have arrived in one state, one is absorbed in another, one is still to come in a third; and a sequencer
stands at an instruction. -/
abbrev Sourced (srcs : List Operand) (xs : List Dword) : Prop :=
  ((node arrived).cur = .node 0 0 ∧ (node arrived).inst? 0 = some arrived ∧ arrived.reads srcs = .vals xs) ∧
  ((node absorbed).cur = .node 0 0 ∧ (node absorbed).inst? 0 = some absorbed ∧ absorbed.reads srcs = .gone) ∧
  ((node waiting).cur = .node 0 0 ∧ (node waiting).inst? 0 = some waiting ∧ waiting.reads srcs = .wait) ∧
  ((sequencer placedSeq).cur = .seq 0 ∧ (sequencer placedSeq).seq? 0 = some placedSeq)
/-- The same without sources. -/
abbrev Bare : Prop :=
  ((node arrived).cur = .node 0 0 ∧ (node arrived).inst? 0 = some arrived ∧ arrived.reads [] = .vals []) ∧
  ((sequencer placedSeq).cur = .seq 0 ∧ (sequencer placedSeq).seq? 0 = some placedSeq)

theorem witness_IaluArithmeticResults : Sourced [.v 0] [5] ∧ Sourced [.v 0, .v 1] [5, 7] := by decide
theorem witness_IaluShiftAndCountResults : Sourced [.v 0] [5] ∧ Sourced [.v 0, .v 1] [5, 7] := by decide
theorem witness_IaluSaturationAndDivision : Sourced [.v 0, .v 1] [5, 7] := by decide
theorem witness_XtndExtendsByCode : Instr.xtnd64 = Instr.xtnd64 ∧ Sourced [.v 0] [5] ∧
    ∀ b ∈ [6, 64, 127], (wordA 0x09 1 2 b 0x1F).extractLsb' 27 5 = 9 ∧ (wordA 0x09 1 2 b 0x1F).extractLsb' 0 6 = 0x1F ∧
      6 ≤ ((wordA 0x09 1 2 b 0x1F).extractLsb' 6 7).toNat := ⟨rfl, by decide, by decide⟩
theorem witness_IcmpComparesByTypeAndCondition : (5 : BitVec 4).toNat < 6 ∧ Sourced [.v 0, .v 1] [5, 7] := by decide
theorem witness_ImiscResults : Sourced [.v 0] [5] ∧ Sourced [.v 0, .v 1] [5, 7] ∧ Sourced [.v 0, .v 1, .v 2] [5, 7, 1] := by decide
theorem witness_ImmediateFormResults : Sourced [.v 0] [5] := by decide
theorem witness_UpperImmediateResults : Bare ∧ takeDest (64 : BitVec 7).toNat = .ok (.w 0) := ⟨by decide, rfl⟩

/-- A negative number for the root, and a sum of two negative zeros. -/
theorem witness_FloatSumsAndProductsAreExact : 0 < 1 ∧ ∃ h, FV.add (.fin true 0 0) (.fin true 0 0) = .fin true 0 h := ⟨by decide, _, rfl⟩
/-- The largest number of E2M1, and 5/2 with its two neighbours 2 and 3; 7 and 8 beyond the largest number, which is 6. -/
theorem witness_RoundingIsToNearestEven : e2m1 ∈ [fp32, fp16, bf16, e5m2, e4m3, e3m2, e2m3, e2m1] ∧ e2m1.maxCode = 7 ∧
    magnitude 3 1 = real (e2m1.decode e2m1.maxCode).dy ∧ e2m1.round .rne (.fin false 5 (-1)) = 4 ∧
    |real (e2m1.decode 4).dy - magnitude 5 (-1)| = |real (e2m1.decode 5).dy - magnitude 5 (-1)| ∧
    (real (e2m1.decode 4).dy ≤ magnitude 5 (-1) ∧ magnitude 5 (-1) < real (e2m1.decode (4 + 1)).dy) ∧
    (top e2m1 < magnitude 7 0 ∧ magnitude 7 0 < top e2m1 + topStep e2m1) ∧ top e2m1 + topStep e2m1 ≤ magnitude 8 0 := by
  have h4 : (e2m1.decode 4).dy = ⟨2, 0⟩ := by decide
  have h5 : (e2m1.decode 5).dy = ⟨3, 0⟩ := by decide
  have h7 : (e2m1.decode e2m1.maxCode).dy = ⟨3, 1⟩ := by decide
  have h6 : (e2m1.decode (e2m1.maxCode - 1)).dy = ⟨2, 1⟩ := by decide
  have ht : top e2m1 = 6 := by rw [top, h7]; norm_num [real]
  have hs : topStep e2m1 = 2 := by rw [topStep, ht, h6]; norm_num [real]
  refine ⟨by decide, by decide, ?_, by decide, ?_, ⟨?_, ?_⟩, ⟨?_, ?_⟩, ?_⟩
  · rw [h7]; norm_num [magnitude, real]
  · rw [h4, h5]; norm_num [magnitude, real]
  · rw [h4]; norm_num [magnitude, real]
  · rw [h5]; norm_num [magnitude, real]
  · rw [ht]; norm_num [magnitude]
  · rw [ht, hs]; norm_num [magnitude]
  · rw [ht, hs]; norm_num [magnitude]
/-- An infinity of FP16, under the largest random bits. -/
theorem witness_EncodingsRoundToThemselves : fp16 ∈ [fp32, fp16, bf16, e5m2, e4m3, e3m2, e2m3, e2m1] ∧ 0x7C00 < 2 ^ fp16.width ∧
    (fp16.decode 0x7C00).isNan = false ∧ 2 ^ 32 - 1 < 2 ^ 32 := by decide
theorem witness_FloatArithmeticResults : Sourced [.v 0] [5] ∧ Sourced [.v 0, .v 1] [5, 7] ∧ Sourced [.v 0, .v 1, .v 2] [5, 7, 1] := by decide
theorem witness_FloatComparisonAndSignResults : Sourced [.v 0] [5] ∧ Sourced [.v 0, .v 1] [5, 7] := by decide
theorem witness_ScalarConversionResults : Sourced [.v 0] [5] ∧ Sourced [.v 0, .v 1] [5, 7] := by decide
theorem witness_PackAndScaleResults : Sourced [.v 0] [5] ∧ Sourced [.v 0, .v 1] [5, 7] ∧ Sourced [.v 0, .v 1, .v 2] [5, 7, 1] ∧
    (5 : BitVec 7).toNat < 6 ∧ (1 : BitVec 7).toNat < 2 := by decide
/-- A NaN, a subnormal operand, a zero as a result, and the ends of the ranges. -/
theorem witness_SpecialFunctionResults : Sourced [.v 0] [5] ∧ (f32 0x7FA00000).isNan = true ∧ exponent 0x807FFFFF = 0 ∧
    exponent (sfuRcp 0x7F800000) = 0 ∧ ((-126 : Int) ≤ 127 ∧ |(2 : Int) ^ 24| ≤ 2 ^ 24 ∧ |(1 - 2 ^ 22 : Int)| < 2 ^ 22) ∧
    ((0x80800000 : Word) ≤ 0x80800000 ∧ (0x80800000 : Word) ≤ 0xFF800000) := by decide
/-- 5/4, of which every function has an inexact result, and 3, whose logarithm lies outside the narrow range. -/
theorem witness_SpecialFunctionResults_accuracy : ∀ x ∈ [(0x3FA00000 : Word), 0x40400000], 0 < exponent x ∧
    ∃ m e, f32 x = .fin false m e ∧ let d := (FV.fin false m e).dy
      real d ≠ 1 ∧ -150 ≤ real d ∧ real d < 128 ∧ (x = 0x3FA00000 → wholeOf d = none ∧ wholeOf (d.add ⟨1, -1⟩) = none) := by
  intro x hx
  simp only [List.mem_cons, List.not_mem_nil, or_false] at hx
  rcases hx with rfl | rfl
  · exact ⟨by decide, 10485760, -23, by decide, by norm_num [real, FV.dy], by norm_num [real, FV.dy], by norm_num [real, FV.dy], by decide⟩
  · exact ⟨by decide, 12582912, -22, by decide, by norm_num [real, FV.dy], by norm_num [real, FV.dy], by norm_num [real, FV.dy], by decide⟩

/-! ### Control flow -/

theorem witness_JumpTargets : Bare ∧ Sourced [.v 0] [5] := by decide

/-- A fibre whose call stack holds three entries: one more can be pushed without a spill. -/
def deep : Fibre := { fibre with stack := [⟨0x1000, 0⟩, ⟨0x2000, 0⟩, ⟨0x3000, 0⟩] }
/-- A call with advance 0 leaves the window at the top of its allocation of 48 slots; one with advance 1 leaves it. -/
theorem witness_CallsAdvanceTheWindow : Bare ∧ Sourced [.v 0] [5] ∧ mayCall 0 (core0 (.node 0 0) (some arrived) deep placedGather launch) 0 arrived ∧
    ¬ fits placedGather.wsize (movedWindow deep arrived 1) ∧
    (sequencer { placedSeq with stack := List.replicate 15 0 }).cur = .seq 0 ∧ (List.replicate 15 (0 : Dword)).length < 16 ∧
    16 ≤ (List.replicate 16 (0 : Dword)).length := by
  refine ⟨by decide, by decide, ⟨deep, placedGather, rfl, rfl, rfl, ?_, by decide⟩, ?_, rfl, by decide, by decide⟩
  all_goals (unfold fits; decide)

/-- Instrumentation on and off, in a block and in sequencer code. -/
theorem witness_TrampolinesNeedInstrumentation :
    (core0 (.node 0 0) (some arrived) deep placedGather { launch with instr := true }).launch? 0 = some { launch with instr := true } ∧
    (core0 (.node 0 0) (some arrived) deep placedGather { launch with instr := true }).gather? (gatherOf 0) = some placedGather ∧
    mayCall 0 (core0 (.node 0 0) (some arrived) deep placedGather { launch with instr := true }) 0 arrived ∧
    (node arrived).launch? 0 = some launch ∧ launch.instr = false ∧
    (∀ b, let s : State := { sequencer placedSeq with disp := { Disp.reset with launches := [(0, { launch with instr := b })] } }
      s.cur = .seq 0 ∧ s.seq? 0 = some placedSeq ∧ s.launch? placedSeq.lid = some { launch with instr := b } ∧ placedSeq.stack.length < 16) := by
  refine ⟨by decide, by decide, ⟨deep, placedGather, rfl, rfl, rfl, ?_, by decide⟩, by decide, rfl, by decide⟩
  unfold fits; decide

/-- A fibre with and without a call stack, a sequencer with a return address, and one that still has an operation in its engines. -/
theorem witness_ReturnsExitsAndYields : Bare ∧ Sourced [.v 0] [5] ∧
    (core0 (.node 0 0) (some arrived) deep placedGather launch).fibre? 0 = some deep ∧ deep.eff.stack ≠ [] ∧
    (node arrived).fibre? 0 = some fibre ∧ fibre.eff.stack = [] ∧ fibre.eff.spilled = 0 ∧
    (sequencer { placedSeq with stack := [0x1000] }).seq? 0 = some { placedSeq with stack := [0x1000] } ∧
    placedSeq.stack = [] ∧ placedSeq.mats = [] ∧
    (sequencer { placedSeq with mats := [⟨.mzero .zero 0, 0, false, [0], [0], [], [], []⟩] }).seq? 0 =
      some { placedSeq with mats := [⟨.mzero .zero 0, 0, false, [0], [0], [], [], []⟩] } := by decide

/-- WINB by 0 stays at the top of the allocation; by 5 it leaves it. -/
theorem witness_EffectsHeldUntilCommit : Sourced [.v 0] [5] ∧ Sourced [.v 0, .v 1] [5, 7] ∧ (node arrived).fibre? 0 = some fibre ∧
    fibre.shadow = none ∧ (node arrived).gather? (gatherOf 0) = some placedGather ∧ arrived.reads [.zero] = .vals [0] ∧
    fits placedGather.wsize (fibre.woff + ([(0 : Dword)].getD 0 0).toInt) ∧ ¬ fits placedGather.wsize (fibre.woff + ([(5 : Dword)].getD 0 0).toInt) ∧
    (15 : BitVec 7).toNat < 16 := by
  refine ⟨by decide, by decide, by decide, rfl, by decide, by decide, ?_, ?_, by decide⟩
  all_goals (unfold fits; decide)

theorem witness_SteerMergeAndSelect : Sourced [.v 0, .v 1] [5, 7] ∧ Sourced [.v 0, .v 1, .v 2] [5, 7, 1] ∧
    (arrived.read (.v 0) = .val 5 ∧ absorbed.read (.v 0) = .gone ∧ absorbed.read (.v 1) = .val 7 ∧ waiting.read (.v 0) = .wait ∧
      arrived.read (.v 3) = .wait) := by decide

/-! ### Commit, traps and admission -/

/-- A complete instance that has written slot 2, a gather register and pw, and leaves by a call with advance 0. -/
def complete : Inst :=
  { placedInst [0xF0000007] with todo := [], slotW := [(2, .full 9)], gW := [(1, 4)], pwW := some 3, xfer := some (.call 0x1000 0) }
/-- At a YIELD of 3 cycles. -/
def yielding : Inst := { complete with xfer := some (.yield 3) }
/-- A store of two bytes. -/
def keptStore : StoreOp := ⟨0, placedAt, .global 0 0 false, [(0, 1), (1, 2)], none, 0, []⟩
/-- An operation kept by the block at the placed address. -/
def keptOp (op : Instr) (a b : Dword) (place : Option StoreOp) : PostOp := ⟨placedAt, 3, 0, op, a, b, 0, [], 0, none, place⟩
/-- A core that holds the line of the placed block and of the one after it, with an instance in flight. -/
def leaving (n : Inst) (x : Fibre) (g : Gather) (l : Launch) : State :=
  let s := core0 .none (some n) x g l
  { s with fab := { s.fab with cores := [(0, { s.fabric 0 with ilines := [⟨0, 0x20000000, List.replicate 128 0, 0⟩, ⟨0, 0x40, List.replicate 128 0, 0⟩] })] } }
/-- A call and a RET of a full and of an empty call stack, and a plain end with a store, a fence to queue and a slot that waits. -/
def calling : Inst := { complete with xfer := some (.call 0x2000 1) }
def refilling : Inst := { complete with xfer := some (.ret (some (⟨0x2000, 1⟩, ⟨0x3000, 0⟩))) }
def storing : Inst := { placedInst [0xF0000007] with todo := [], stores := [keptStore] }
def fencer : Inst := { placedInst [0xF0000007] with todo := [], post := [keptOp (.fence 3 1 0) 0 0 none], slotW := [(2, .wait 5)] }
/-- A FORK into w0, and an EXIT. -/
def forking : Inst := { placedInst [wordA 0x07 64 1 120 0x04] with todo := [], forks := [(0, 0x2000, 9)] }
def exiting : Inst := { placedInst [0xF0000007] with todo := [], xfer := some .exit, post := [keptOp (.fence 3 1 0) 0 0 none] }
def fullStack : Fibre := { fibre with stack := List.replicate 4 ⟨0x1000, 0⟩ }
def kernel : Kernel := ⟨placedAt, 0, 1, 48, 0, 0, true⟩
/-- A gather of two fibres, of which one lives; and one of one. -/
def pairGather : Gather := { placedGather with size := 2 }
theorem header_held (s : State) (f : Nat) (pc : Dword) (h1 : s.parkedOn (coreOf f) = []) (h2 : (s.fabric (coreOf f)).ilines.length ≤ 8)
    (h3 : ∀ l ∈ codeLines pc.toNat 4, ((s.fabric (coreOf f)).line? (s.ctxOfFibre f) l).isSome = true) : headerHeld s f pc :=
  ⟨h1, fun _ => (List.length_filter_le _ _).trans h2, h3⟩
theorem queue_of (n : Inst) (h : n.post = [] ∨ n.post = [keptOp (.fence 3 1 0) 0 0 none]) : postsQueue n := by
  rcases h with h | h <;> refine ⟨by rw [h]; simp, ?_⟩ <;> rw [h] <;> simp [keptOp, copyKindOf]
theorem witness_CommitWritesAndMoves :
    (∀ n ∈ [complete, yielding, calling, fencer, storing, forking, exiting], ∀ x ∈ [fibre, fullStack], let s := leaving n x placedGather launch
      s.fibre? 0 = some x ∧ s.inst? 0 = some n ∧ s.gather? (gatherOf 0) = some placedGather ∧
      (x.hm = false ∧ x.shadow = none ∧ x.report = none ∧ x.cancelled = false) ∧ n.todo = [] ∧ n.faults = [] ∧ kvSorted n.slotW = true ∧ kvSorted n.gW = true) ∧
    ordinary fibre ∧ storesReady (leaving complete fibre placedGather launch) 0 complete ∧ storesReady (leaving storing fibre placedGather launch) 0 storing ∧
    (∀ n ∈ [complete, yielding, calling, refilling, fencer, storing, forking], staysOrdinary n) ∧
    (∀ n ∈ [complete, yielding, calling, refilling, fencer, storing, forking, exiting], postsQueue n ∧ (n.forks = [] ∨ n = forking)) ∧
    (slotWritesReady complete ∧ slotWritesReady fencer ∧ kvGet 2 complete.slotW = some (.full 9)) ∧
    (headerHeld (leaving storing fibre placedGather launch) 0 (arrival fibre storing).1 ∧ headerHeld (leaving calling fullStack placedGather launch) 0 (arrival fullStack calling).1 ∧
      headerHeld (leaving refilling fibre placedGather launch) 0 (arrival fibre refilling).1 ∧ calling.stores = []) ∧
    (storing.slotW = [] ∧ storing.gW = [] ∧ storing.post = [] ∧ kvSorted (leaving storing fibre placedGather launch).fab.gathers = true) ∧
    (∀ g ∈ [pairGather, placedGather], let s := leaving forking fibre g { launch with kern := some kernel }
      s.memPending 0 = false ∧ s.loadsOf 0 = [] ∧ s.launchOf 0 = some { launch with kern := some kernel } ∧ g.size ≤ 1024 ∧
      slotOf (forkDest forking.body 0) = some 0 ∧ fibre.woff + 48 ≤ g.wsize) ∧
    (let s := leaving forking fibre pairGather { launch with kern := some kernel }
     ¬ pairGather.size ≤ (s.liveFibres (gatherOf 0)).length ∧ s.indexUsed 1 = false ∧ s.indexUsed 0 = true ∧ s.fibre? 1 = none) ∧
    placedGather.size ≤ ((leaving forking fibre placedGather { launch with kern := some kernel }).liveFibres (gatherOf 0)).length ∧
    ((leaving exiting fibre placedGather launch).launch? placedGather.lid = some launch ∧ exiting.xfer = some .exit ∧
      Claims.queued (leaving exiting fibre placedGather launch) fibre exiting ≠ []) := by
  refine ⟨by decide, ⟨rfl, rfl, rfl, rfl⟩, by unfold storesReady; decide, by unfold storesReady; decide, ?_, ?_, ⟨⟨by decide, ?_⟩, ⟨by decide, ?_⟩, rfl⟩,
    ⟨header_held _ _ _ (by decide) (by decide) (by decide), header_held _ _ _ (by decide) (by decide) (by decide),
      header_held _ _ _ (by decide) (by decide) (by decide), rfl⟩, by decide, by decide, by decide, by decide, by decide⟩
  · intro n h
    simp only [List.mem_cons, List.not_mem_nil, or_false] at h
    rcases h with rfl | rfl | rfl | rfl | rfl | rfl | rfl <;> exact trivial
  · intro n h
    simp only [List.mem_cons, List.not_mem_nil, or_false] at h
    rcases h with rfl | rfl | rfl | rfl | rfl | rfl | rfl | rfl <;>
      exact ⟨queue_of _ (by decide), by decide⟩
  · intro a ha b hb p hp; rw [List.mem_singleton.1 ha] at hp; cases hp
  · intro a ha b hb p _ _; rw [List.mem_singleton.1 ha, List.mem_singleton.1 hb]
/-- An instance with a fault, a node to fire, a report. -/
def faulty : Inst := { complete with faults := [⟨0, 0x0B, 0, 0, 0, 0⟩] }
theorem witness_CommitNeedsACompleteInstance : ((node arrived).fibre? 0 = some fibre ∧ (node arrived).inst? 0 = some arrived ∧ arrived.todo ≠ []) ∧
    ((node faulty).inst? 0 = some faulty ∧ faulty.faults ≠ []) ∧ ({ fibre with report := some ⟨0, 0x0D, 0, 0, 0, 0⟩ } : Fibre).report ≠ none := by decide

/-- A fibre with a handler. -/
def handled : Fibre := { fibre with thnd := 0x2000 }
/-- Its state, in which emulation is enabled at 0x3000 and the lines of the handler's header are held. -/
def trapping (x : Fibre) : State :=
  let s := core0 .none none x placedGather launch
  { s with mg := { s.mg with ement := 0x3001 }
           fab := { s.fab with cores := [(0, { (s.fabric 0) with ilines := [⟨0, 0x40, List.replicate 128 0, 0⟩] })] } }
theorem witness_TrapEntersTheHandler : (trapping handled).fibre? 0 = some handled ∧ (trapping handled).gather? (gatherOf 0) = some placedGather ∧
    ordinary handled ∧ handled.halt = false ∧ handled.thnd ≠ 0 ∧ (0x0B : BitVec 8) ≠ 0x02 ∧ (0x0B : BitVec 8) ≠ 0x11 ∧
    headerHeld (trapping handled) 0 handled.thnd := by
  exact ⟨by decide, by decide, ⟨rfl, rfl, rfl, rfl⟩, rfl, by decide, by decide, by decide, header_held _ _ _ (by decide) (by decide) (by decide)⟩
/-- Fibre 0 emulates a SHFL of its neighbour's value; fibre 1 of its group is live, or has joined the meeting, or there is none. -/
def exchanging : Fibre := { fibre with
  emul := (0x382220FE#64 <<< 32) ||| 1, trap := ⟨2, 0x1000, 0, 0x382220FE, 5, 0x11, 0⟩
  shadow := some ⟨0, [], [], [], 0, 0, [], 0, 0, 0, []⟩ }
def meeting (g : Gather) (n : Nat) : State :=
  { core0 .none none exchanging g launch with
    fab := { Fab.reset with gathers := [(0, g)], fibres := (0, exchanging) :: (List.range n).map fun k => (k + 1, fibre) } }
def met : Gather := { placedGather with size := 2, meets := [⟨0x1010, 0, 0, [(1, (6, 0))], false, [1]⟩] }
theorem witness_CulletEntersTheEmulation :
    ((trapping handled).fibre? 0 = some handled ∧ ordinary handled ∧ (0x02 : BitVec 8) = 0x02 ∧ (trapping handled).mg.ement.getLsbD 0 = true) ∧
    (exchanging.emul.getLsbD 0 = true ∧ isExchange (exchanging.emul.toNat / 2 ^ 32) = true ∧ exchanging.emul.toNat / 2 ^ 32 % 64 = 0x3E ∧
      exchanging.trap.at_ = 0x1010 ∧ exchanging.shadow ≠ none) ∧
    ((meeting placedGather 1).fibre? 0 = some exchanging ∧ 1 ∈ (meeting placedGather 1).groupLive 0 0 ∧ placedGather.meets = []) ∧
    ((meeting placedGather 0).groupLive 0 0 = [0]) ∧
    ((meeting met 1).gather? (gatherOf 0) = some met ∧ (meeting met 1).groupLive 0 0 = [0, 1] ∧ kvGet 1 [(1, ((6 : Dword), (0 : Dword)))] ≠ none) ∧
    ((meeting placedGather 1).enterMeet 0).meetOpen 0 = true := by
  refine ⟨⟨by decide, ⟨rfl, rfl, rfl, rfl⟩, rfl, by decide⟩, by decide, by decide, by decide, by decide, by decide⟩
theorem witness_TrapWithoutHandlerEndsTheLaunch : (node arrived).fibre? 0 = some fibre ∧ (node arrived).gather? (gatherOf 0) = some placedGather ∧
    (node arrived).launch? placedGather.lid = some launch ∧ fibre.shadow = none ∧ fibre.cancelled = false ∧ fibre.halt = false ∧ fibre.thnd = 0 ∧
    noDebugger (node arrived) 0 ∧ launch.st = .running ∧ launch.checkpoint = false ∧ launch.status = 0 := by
  refine ⟨by decide, by decide, by decide, rfl, rfl, rfl, rfl, ?_, rfl, rfl, rfl⟩
  show (node arrived).attached _ = none
  decide
theorem witness_FaultsAreReportedInOrder : ((node faulty).inst? 0 = some faulty ∧ (⟨0, 0x0B, 0, 0, 0, 0⟩ : NodeFault) ∈ faulty.faults ∧ faulty.todo = []) ∧
    ((node arrived).inst? 0 = some arrived ∧ arrived.faults = [] ∧ ∀ k ∈ arrived.todo, 0 ≤ k) ∧
    (core0 .none none { fibre with report := some ⟨3, 0x0D, 0, 0, 0, 0⟩ } placedGather launch).fibre? 0 =
      some { fibre with report := some ⟨3, 0x0D, 0, 0, 0, 0⟩ } := by decide
/-- An ADD at index 0 that waits for the node at index 1, which has failed; and one that a NOP at index 0 precedes. -/
def halted (w : Word) : Inst := { placedInst [w, wordA 0x08 1 121 122 0x00] with todo := [0], toks := [], faults := [⟨1, 0x0B, 0, 0, 0, 0⟩] }
theorem witness_FaultsAreReportedInOrder_stuck :
    ((node (halted (wordA 0x08 2 1 1 0x00))).inst? 0 = some (halted (wordA 0x08 2 1 1 0x00)) ∧ (node arrived).fibre? 0 = some fibre ∧ fibre.report = none) ∧
    CannotFire (halted (wordA 0x08 2 1 1 0x00)) 0 ∧ ¬ CannotFire (halted 0xF0000007) 0 := by
  refine ⟨by decide, .waits 0 1 (by decide) ?_ (by decide) (.failed ⟨1, 0x0B, 0, 0, 0, 0⟩ (by decide)), ?_⟩
  · intro d a b p h
    have : (halted (wordA 0x08 2 1 1 0x00)).nodeAt 0 = some (.op2 .add (.v 2) (.v 1) (.v 1)) := by decide
    rw [this] at h; cases h
  · intro h
    have key : ∀ k, CannotFire (halted 0xF0000007) k → k = 1 := by
      intro k hk
      induction hk with
      | failed v hv => rw [List.mem_singleton.1 (show v ∈ [(⟨1, 0x0B, 0, 0, 0, 0⟩ : NodeFault)] from hv)]
      | waits e k he _ hk _ _ =>
        have : e = 0 := List.mem_singleton.1 (show e ∈ [0] from he)
        subst this
        exact absurd (show k ∈ ([] : List Nat) from (show (halted 0xF0000007).awaited 0 = [] by decide) ▸ hk) (by simp)
      | merge e d a b p he _ hne _ _ =>
        have : e = 0 := List.mem_singleton.1 (show e ∈ [0] from he)
        subst this
        exact absurd (show (halted 0xF0000007).awaited 0 = [] by decide) hne
    exact absurd (key 0 h) (by decide)
/-- A fibre in its handler for a misaligned access, and one in an emulation. -/
def inHandler : Fibre := { handled with hm := true, trap := ⟨0x0B, 0x1000, 2, 0, 0, 0, 0⟩ }
def emulating : Fibre := { handled with shadow := some ⟨0, [], [], [], 0, 0, [], 0, 0, 0, []⟩ }
theorem witness_TrapInstructions : Sourced [.v 0] [5] ∧ Sourced [.v 0, .v 1] [5, 7] ∧ Bare ∧
    ((core0 (.node 0 0) (some arrived) inHandler placedGather launch).fibre? 0 = some inHandler ∧ inHandler.hm = true ∧
      4 ≤ inHandler.trap.cause.toNat % 256 ∧ inHandler.trap.cause.toNat % 256 ≤ 0x11 ∧ arrived.read (.v 0) = .val 5) ∧
    (core0 (.node 0 0) (some arrived) emulating placedGather launch).fibre? 0 = some emulating ∧ emulating.shadow ≠ none ∧ fibre.shadow = none ∧
    noDebugger (node arrived) 0 ∧ (sequencer placedSeq).attached placedSeq.job = none := by
  refine ⟨by decide, by decide, by decide, by decide, by decide, by decide, rfl, ?_, by decide⟩
  show (node arrived).attached _ = none
  decide
/-- In the handler of a trap found after commit, with the operation that failed and the next one held; the load of slot 2 failed. -/
def afterCommitTrap : Fibre := { inHandler with
  trap := ⟨0x1000B, placedAt, 3, 0, 0, 0, 0⟩, resume := 0x2000
  held := [{ keptOp (.wall (.w 2) (.v 0)) 1 0 none with prod := some 5 }, keptOp (.fence 3 1 0) 0 0 none] }
def resuming : State :=
  let s := core0 .none none afterCommitTrap placedGather launch
  { s with fab := { s.fab with slots := [(2, ⟨0, false, some 5⟩)], prods := [(5, ⟨0, 2, none, none⟩)] } }
/-- A RESUME, and the EMULRET of an emulation that has written slot 2, emptied slot 3, written a gather register and spilled. -/
def returning (x : Transfer) : Inst := { placedInst [0xF0000007] with todo := [], xfer := some x }
def emulated : Fibre := { handled with
  emul := 0x382220FF00000001, trap := ⟨2, placedAt, 0, 0x382220FF, 0, 0, 0⟩
  shadow := some ⟨0, [(2, 9)], [3], [(1, 4)], 5, 0, [⟨0x1000, 0⟩], 1, 0x5FE0, 0x2000, [keptStore]⟩ }
theorem witness_ReturnsFromTraps_posted : resuming.fibre? 0 = some afterCommitTrap ∧ afterCommitTrap.trap.cause.getLsbD 16 = true ∧
    afterCommitTrap.trap.cause.toNat % 256 ≠ 0x13 ∧
    (∃ p r, afterCommitTrap.held = p :: r ∧ p.hdr = afterCommitTrap.trap.epc ∧ BitVec.ofNat 64 p.eidx = afterCommitTrap.trap.eidx ∧ p.prod = some 5) ∧
    kvGet 5 resuming.fab.prods = some ⟨0, 2, none, none⟩ ∧ afterCommitTrap.shadow = none ∧ afterCommitTrap.ended = false ∧
    (resuming.gather? (gatherOf 0)).isSome = true ∧ (resuming.fibreSlot 0 2).prod = some 5 ∧ (resuming.fibreSlot 0 2).full = false :=
  ⟨by decide, by decide, by decide, ⟨_, _, rfl, by decide, by decide, by decide⟩, by decide, by decide, by decide, by decide, by decide, by decide⟩
theorem witness_ReturnsFromTraps_commit :
    (∀ p ∈ [(inHandler, Transfer.resume (some 9)), (emulated, .emulret 7)], let n := returning p.2
      let s := leaving n p.1 placedGather launch
      s.fibre? 0 = some p.1 ∧ s.inst? 0 = some n ∧ s.gather? (gatherOf 0) = some placedGather ∧ p.1.report = none ∧ p.1.cancelled = false ∧
      leavesHandler n = false ∧ n.todo = [] ∧ n.faults = [] ∧ n.stores = [] ∧ n.forks = [] ∧ n.post = [] ∧ n.slotW = [] ∧ n.gW = []) ∧
    (inHandler.shadow = none ∧ inHandler.hm = true ∧ inHandler.trap.cause.getLsbD 16 = false) ∧
    (∃ h, emulated.shadow = some h ∧ emulated.hm = false ∧ kvSorted h.slots = true ∧ kvSorted h.gs = true ∧ (∀ o ∈ h.spills, o.goal ≠ .onchip) ∧
      kvGet 2 h.slots = some 9 ∧ kvGet 3 h.slots = none ∧ 3 ∈ h.empties ∧ 4 ∉ h.empties ∧ h.spills ≠ []) ∧
    headerHeld (leaving (returning (.emulret 7)) emulated placedGather launch) 0 emulated.trap.epc :=
  ⟨by decide, by decide, ⟨_, rfl, by decide⟩, header_held _ _ _ (by decide) (by decide) (by decide)⟩
theorem witness_ReturnsFromTraps : (core0 .none none inHandler placedGather launch).fibre? 0 = some inHandler ∧ inHandler.trap.cause.getLsbD 16 = false ∧
    inHandler.shadow = none := by decide


/-- A configured block of an entry header (R242) and a JMP, with live-in slot 0; `m` masks the slots that trap. -/
def blockWords (entry : Bool) (m : Word) : List Word := [if entry then 0x08140000 else 0x08100000, 1, m, 0, 0x10080032]
def configured (entry : Bool) (m : Word) : Machine.Config :=
  { id := 1, ctx := 0, hdr := placedAt, words := blockWords entry m, reg := 0, regs := 1, gen := false, retiring := false, left := [], ready := some 0, at_ := 0 }
/-- A fibre at the entry of that block, slot 0 full or empty. -/
def atBlock (entry full : Bool) (m : Word) : State :=
  let s := core0 .none none fibre placedGather launch
  { s with fab := { s.fab with
      slots := if full then [(0, ⟨7, true, none⟩)] else []
      cores := [(0, { s.fabric 0 with cfgs := [configured entry m], sets := [⟨0, placedAt, some ((blockWords entry m).take 4), none, []⟩] })] } }
abbrev Admits (s : State) (c : Machine.Config) : Prop :=
  s.fibre? 0 = some fibre ∧ s.gather? (gatherOf 0) = some placedGather ∧ s.mayEnter 0 fibre = true ∧ s.marked 0 fibre = none ∧
  goodTarget fibre.pc.toNat = true ∧ fibre.shadow = none ∧
  (s.fabric (coreOf 0)).sets.find? (fun w => w.ctx == placedGather.ctx && w.hdr == fibre.pc) = some ⟨0, placedAt, some (c.words.take 4), none, []⟩ ∧
  s.admitter (coreOf 0) placedGather.ctx fibre.pc = some c ∧ hdrIsHeader (c.words.getD 0 0) = true ∧
  s.firstReady ((s.standing (coreOf 0) placedGather.ctx fibre.pc).filter fun p => s.readyUnder p.1 p.2 (c.words.take 4)) = some 0
theorem witness_AdmissionCapturesTheInputs :
    (Admits (atBlock true true 0) (configured true 0) ∧ flagOk fibre.way ((configured true 0).words.getD 0 0) = true ∧
      (atBlock true true 0).trapSlots 0 fibre ((configured true 0).words.take 4) = []) ∧
    (Admits (atBlock false true 0) (configured false 0) ∧ flagOk fibre.way ((configured false 0).words.getD 0 0) = false) ∧
    (Admits (atBlock true false 1) (configured true 1) ∧ (atBlock true false 1).trapSlots 0 fibre ((configured true 1).words.take 4) = [0]) := by
  refine ⟨by decide, by decide, by decide⟩
/-- A value that waits for its slot. -/
def valued : State := { core0 .none none fibre placedGather launch with
  fab := { Fab.reset with gathers := [(0, placedGather)], fibres := [(0, fibre)], slots := [(2, ⟨0, false, some 5⟩)], prods := [(5, ⟨0, 2, none, some 9⟩)] } }
theorem witness_WaitingFibresAgeAndWake : ((node arrived).fibre? 0 = some fibre ∧ fibre.ended = false ∧ valued.inst? 0 = none) ∧
    (core0 .none none { fibre with delay := some 3 } placedGather launch).fibre? 0 = some { fibre with delay := some 3 } ∧
    (kvGet 5 valued.fab.prods = some ⟨0, 2, none, some 9⟩ ∧ valued.fibre? 0 = some fibre ∧ valued.gather? (gatherOf 0) = some placedGather ∧
      fibre.shadow = none ∧ valued.fibreSlot 0 2 = ⟨0, false, some 5⟩) := by decide

/-! ### Accesses -/

/-- A page at the placed address, R, W and X, whose bytes 0 to 15 are in the first-level cache of core 0. -/
def page (fmt : Nat) : Leaf := ⟨0, 3, placedAt.toNat / 2 ^ 14, BitVec.ofNat 64 (0x673 + fmt * 2 ^ 60), [0, 0, 0, 0]⟩
/-- v0 holds the placed address, or that of the allocation, or one that is not aligned. -/
def pointing (a : Dword) : Inst := { arrived with toks := [(0, .val a), (1, .val 7), (2, .val 1)] }
def apertureAt : Dword := 0xFFFFFFF000000000
def roomy : Gather := { placedGather with spSize := 1024 }
def mapped (cur : Agent) (n : Option Inst) (fmt : Nat) : State :=
  let s := core0 cur n fibre roomy launch
  { s with ms := { s.ms with
      tlb := [⟨0, .leaf (page fmt)⟩, ⟨2000, .leaf (page fmt)⟩]
      l1 := (List.range 16).map fun k => (k, ⟨BitVec.ofNat 8 k, false, 0, 0⟩)
      l1tag := [(0, ⟨0, false⟩)] } }
abbrev atNode (a : Dword) : State := mapped (.node 0 0) (some (pointing a)) 0
theorem witness_LoadsTakeTheirBytes :
    (∃ u, ((atNode placedAt).cur = .node 0 0 ∧ (atNode placedAt).inst? 0 = some (pointing placedAt) ∧ (pointing placedAt).reads [.v 0] = .vals [placedAt] ∧
        (pointing placedAt).awaitsStore 0 = false ∧ (pointing placedAt).stores = []) ∧
      (atNode placedAt).resolve ((atNode placedAt).whoNode 0 0) (effective placedAt 0 (accessBytes 5)) 8 8 needR = (u, .mem [0, 1, 2, 3, 4, 5, 6, 7] (page 0)) ∧
      slotOf (.v 3) = none ∧ slotOf (.w 1) = some 1 ∧ nothingAhead u 0 [0, 1, 2, 3, 4, 5, 6, 7] ∧
      (page 0).bound u (effective placedAt 0 8) = none ∧ holdsBytes u (coreOf 0) [0, 1, 2, 3, 4, 5, 6, 7] [0, 1, 2, 3, 4, 5, 6, 7] ∧
      u.fibre? 0 = some fibre ∧ fibre.shadow = none ∧ (u.missRoom 0 (agentNode 0 0) [0, 1, 2, 3, 4, 5, 6, 7]).2 = true) ∧
    (∃ u, (atNode apertureAt).resolve ((atNode apertureAt).whoNode 0 0) (effective apertureAt 0 (accessBytes 4)) 4 4 needR = (u, .scratch [0, 1, 2, 3]) ∧
      u.gather? (gatherOf 0) = some roomy ∧ u.ownAhead 0 1 [0, 1, 2, 3] = false ∧ roomy.invalid [0, 1, 2, 3] = []) := by
  refine ⟨⟨_, by decide, Prod.ext rfl (by decide), rfl, rfl, ⟨by decide, by decide⟩, by decide, ⟨by decide, by decide⟩, by decide, rfl, by decide⟩,
    ⟨_, Prod.ext rfl (by decide), by decide, by decide, by decide⟩⟩
theorem witness_AccessesThatFailTheirChecks : (vaBytes (2 ^ 57) 8).any (fun a => !canonical a) = true ∧
    (vaBytes apertureAt.toNat 8).any (fun a => !canonical a) = false ∧ (vaBytes apertureAt.toNat 8).any (ctxOf State.reset 0).inAperture = true ∧
    (vaBytes 4 8).any (ctxOf State.reset 0).inAperture = false ∧ 4 % 8 ≠ 0 ∧
    (∃ u, (atNode (placedAt + 4)).resolve ((atNode (placedAt + 4)).whoNode 0 0) (effective (placedAt + 4) 0 8) 8 8 needR = (u, .bad ⟨0x0B, (placedAt + 4).toNat⟩) ∧
      (pointing (placedAt + 4)).reads [.v 0] = .vals [placedAt + 4] ∧ (pointing (placedAt + 4)).reads (stSrcs 5 (.v 1) (.v 0)) = .vals [placedAt + 4, 7]) :=
  ⟨by decide, by decide, by decide, by decide, by decide, _, Prod.ext rfl (by decide), by decide, by decide⟩
theorem witness_StoresAreKeptUntilCommit :
    (pointing placedAt).reads (stSrcs 5 (.v 1) (.v 0)) = .vals [placedAt, 7] ∧
    (∃ u, (atNode placedAt).resolve ((atNode placedAt).whoNode 0 0) (effective placedAt 0 (accessBytes 5)) 8 8 needW = (u, .mem [0, 1, 2, 3, 4, 5, 6, 7] (page 0))) ∧
    (∃ u, (atNode apertureAt).resolve ((atNode apertureAt).whoNode 0 0) (effective apertureAt 0 (accessBytes 4)) 4 4 needW = (u, .scratch [0, 1, 2, 3]) ∧
      ([0, 1, 2, 3] : List Nat).filterMap roomy.backing = []) :=
  ⟨by decide, ⟨_, Prod.ext rfl (by decide)⟩, ⟨_, Prod.ext rfl (by decide), by decide⟩⟩
theorem witness_StoresReachTheirPlace : keptStore.goal = .global 0 0 false ∧ keptStore.lim.toNat % 2 ^ 31 = 0 ∧ (node arrived).relRec 0 = none ∧
    (partOf (node arrived) (coreOf 0)).flush = false ∧ (keptStore.cells.map (·.1)).Nodup ∧ (node arrived).gather? 0 = some placedGather := by decide
/-- The sequencer of cluster 0 points at the page. -/
def seqPointing : Seq := { placedSeq with regs := [(0, placedAt)] }
def seqMapped : State := { mapped (.seq 0) none 0 with mat := { Mat.reset with seqs := [(0, seqPointing)] } }
theorem witness_SequencerAccesses : ∃ u v, seqMapped.cur = .seq 0 ∧ seqMapped.seq? 0 = some seqPointing ∧
    seqMapped.resolve (seqMapped.whoSeq 0 seqPointing) (effective (seqPointing.read (.v 0)) 0 (accessBytes 3)) 2 2 needR = (u, .mem [0, 1] (page 0)) ∧
    seqMapped.resolve (seqMapped.whoSeq 0 seqPointing) (effective (seqPointing.read (.v 0)) 0 (accessBytes 3)) 2 2 needW = (v, .mem [0, 1] (page 0)) ∧
    (u.underWay (dieOfCl 0) (agentSeq 0) [0, 0] = false ∧ (page 0).bound u placedAt.toNat = none ∧ u.poisoned [0, 1] = none) ∧
    (v.underWay (dieOfCl 0) (agentSeq 0) [0, 0] = false ∧ (page 0).bound v placedAt.toNat = none ∧ v.poisoned [0, 1] = none) :=
  ⟨_, _, by decide, by decide, Prod.ext rfl (by decide), Prod.ext rfl (by decide), by decide, by decide⟩

/-- A format load and a format store of an FP32 page. -/
theorem witness_FormatLoadsDecode : let s := mapped (.node 0 0) (some (pointing placedAt)) 1
    let p : FmtPlan := ⟨1, .mem [0, 1, 2, 3] (page 1), none, page 1, placedAt.toNat, [(placedAt.toNat / 2 ^ 14, 0)]⟩
    ∃ u, s.inst? 0 = some (pointing placedAt) ∧ s.fmtPlan (s.whoNode 0 0) placedAt.toNat 0 false = (u, some (.ok p)) ∧ 1 ≤ p.fmt ∧ p.fmt ≤ 12 ∧
      u.ownAhead 0 0 [0, 1, 2, 3] = false ∧ u.scaleFibre 0 0 (pointing placedAt) (s.whoNode 0 0) p = (u, .bytes [0], []) ∧
      u.earlierLoads 0 u.serial [0, 1, 2, 3] = [] ∧ p.leaf.bound u p.va = none ∧ (page 1).bound u placedAt.toNat = none ∧
      holdsBytes u (coreOf 0) [0, 1, 2, 3] [0, 1, 2, 3] :=
  ⟨_, by decide, Prod.ext rfl (by decide), by decide, by decide, by decide, rfl, by decide, by decide, by decide, by decide, by decide⟩
theorem witness_FormatStoresEncode : ∀ k ∈ [1, 2, 3, 4, 5, 6], let s := mapped (.node 0 0) (some (pointing placedAt)) k
    let p : FmtPlan := ⟨k, .mem (List.range (if k = 1 then 4 else if k ≤ 3 then 2 else 1)) (page k), none, page k, placedAt.toNat, [(placedAt.toNat / 2 ^ 14, 0)]⟩
    (pointing placedAt).reads [.v 0, .v 1] = .vals [placedAt, 7] ∧ ∃ u, s.fmtPlan (s.whoNode 0 0) placedAt.toNat 0 true = (u, some (.ok p)) := by
  intro k hk
  simp only [List.mem_cons, List.not_mem_nil, or_false] at hk
  rcases hk with rfl | rfl | rfl | rfl | rfl | rfl <;> exact ⟨by decide, _, Prod.ext rfl (by decide)⟩
/-- ATOM.ADD, which the host accepts; and the page at another physical address: on the chip, at the host, at this module, numbered 5. -/
def addRow : AtomRow := atomRow 2 .atomAdd fnAdd true
def pageAt (pa : Nat) : Leaf := { page 0 with pte := BitVec.ofNat 64 (pa + 0x673) }
def elsewhere (pa : Nat) : State :=
  let s := atNode placedAt
  { s with ms := { s.ms with tlb := [], fresh := [(agentNode 0 0, .leaf (pageAt pa) true)] }, mg := { s.mg with peer := some 5 }
           disp := { s.disp with ctxs := [(0, ⟨1, 0, 0xFFFFFFF000010000, 0, 0⟩)] } }
theorem witness_AtomicsAreCheckedAndKept_outside :
    let at_ (pa : Nat) := (elsewhere pa).resolve ((elsewhere pa).whoNode 0 0) placedAt.toNat 4 4 needRW true (acceptsAt addRow (elsewhere pa))
    addRow ∈ atomRows ++ redRows ∧ (at_ (2 ^ 40)).2 = .onchip 0 0 ∧ (at_ (2 ^ 51)).2 = .host 0 0 ∧ (at_ (2 ^ 50 + 5 * 2 ^ 40)).2 = .peer 5 0 0 ∧
      (at_ (2 ^ 50)).2 = .bad ⟨0x09, placedAt.toNat⟩ := by
  refine ⟨?_, by decide, by decide, by decide, by decide⟩
  simp [atomRows, addRow]
theorem witness_AtomicsAreCheckedAndKept :
    (∃ u, (atNode placedAt).resolve ((atNode placedAt).whoNode 0 0) placedAt.toNat 4 4 needRW true (acceptsAt addRow (atNode placedAt)) = (u, .mem [0, 1, 2, 3] (page 0)) ∧
      (pointing placedAt).reads [.v 0, .v 1] = .vals [placedAt, 7]) ∧
    (∃ u t, (atNode apertureAt).resolve ((atNode apertureAt).whoNode 0 0) apertureAt.toNat 4 4 needRW true (acceptsAt addRow (atNode apertureAt)) = (u, .scratch [0, 1, 2, 3]) ∧
      ((atNode apertureAt).whoNode 0 0).ga = some roomy ∧
      u.windowStoreCheck ((atNode apertureAt).whoNode 0 0) roomy [0, 1, 2, 3] = (t, some (.ok []))) ∧
    (∃ u, (atNode (placedAt + 2)).resolve ((atNode (placedAt + 2)).whoNode 0 0) (placedAt + 2).toNat 4 4 needRW true (acceptsAt addRow (atNode (placedAt + 2))) = (u, .bad ⟨0x0B, (placedAt + 2).toNat⟩)) :=
  ⟨⟨_, Prod.ext rfl (by decide), by decide⟩, ⟨_, _, Prod.ext rfl (by decide), by decide, Prod.ext rfl (by decide)⟩, ⟨_, Prod.ext rfl (by decide)⟩⟩
/-- A fibre with it at the head of its queue. -/
def posting (x : Fibre) (p : PostOp) (g : Gather) : State :=
  let s := core0 (.post 0) none { x with post := [p] } g launch
  { s with mat := { s.mat with seqs := [(0, newSeq)] } }
def atomPlace (pa : Nat) : StoreOp := ⟨3, placedAt, .global 0 0 true, (List.range 4).map fun k => (pa + k, 0), none, 0, []⟩
theorem witness_AtomicsActAtTheirPlace :
    ∀ r ∈ [(Instr.atomAdd false 0 0 (.w 0) (.v 0) (.v 1)), .redAdd false 0 0 (.v 0) (.v 1)], ∀ pa ∈ [0, 2 ^ 37],
    let p := keptOp r placedAt 7 (some (atomPlace pa))
    let s := posting fibre p placedGather
    atomReady s 0 { fibre with post := [p] } p [] (atomPlace pa) false pa ∧ p.op = r ∧ (atomPlace pa).goal = .global 0 0 true ∧
      (s.flushLines (coreOf 0) (element false pa)).poisoned (element false pa) = none ∧
      (homeOf (s.flushLines (coreOf 0) (element false pa)) 0 = dieOf 0 ∧ homeOf (s.flushLines (coreOf 0) (element false pa)) (2 ^ 37) ≠ dieOf 0) := by
  intro r hr pa hp
  simp only [List.mem_cons, List.not_mem_nil, or_false] at hr hp
  rcases hr with rfl | rfl <;> rcases hp with rfl | rfl <;> (unfold atomReady; decide)

/-! ### Operations after commit -/

/-- A gather with a window reserved by SPMAP, an unmapping reserved by SPUNMAP, and one window mapped. -/
def windowed : Gather := { roomy with
  wins := [(0, ⟨0, placedAt.toNat, 0, 128, false⟩)]
  reserved := [(reservedKey 0 3, ⟨0, placedAt.toNat, 256, 128, false⟩)], unmaps := [(reservedKey 0 3, 0)] }
theorem witness_PostCommitOperationsAreKept : Sourced [.v 0] [5] ∧ Sourced [.v 0, .v 1] [5, 7] ∧ Bare ∧ (node arrived).emulating 0 = false ∧
    (core0 (.node 0 0) (some arrived) emulating placedGather launch).emulating 0 = true ∧ ((node arrived).gather? (gatherOf 0)).isSome ∧
    rangeOffence (core0 .none none fibre windowed launch) windowed [apertureAt, 64] = none ∧
    rangeOffence (core0 .none none fibre windowed launch) windowed [apertureAt + 2, 64] = some (0x0B, (apertureAt + 2).toNat) ∧
    rangeOffence (core0 .none none fibre windowed launch) windowed [apertureAt, 132] = some (0x09, apertureAt.toNat) ∧
    (∃ u, (atNode (placedAt + 32)).resolve ((atNode (placedAt + 32)).whoNode 0 0) (placedAt + 32).toNat 64 64 needR = (u, .bad ⟨0x0B, (placedAt + 32).toNat⟩)) :=
  ⟨by decide, by decide, by decide, by decide, by decide, by decide, by decide, by decide, by decide, _, Prod.ext rfl (by decide)⟩
theorem witness_ScratchpadOperationsAct :
    (let p := keptOp (.spmap (.v 0) (.v 1) (.v 2)) 0 0 none
     let s := posting fibre p windowed
     s.cur = .post 0 ∧ s.fibre? 0 = some { fibre with post := [p] } ∧ s.gather? (gatherOf 0) = some windowed ∧
      windowed.reserved = [(reservedKey 0 p.eidx, ⟨0, placedAt.toNat, 256, 128, false⟩)] ∧ windowed.wins.length < 8) ∧
    (let p := keptOp (.spunmap 5 (.v 0)) apertureAt 0 none
     let s := posting fibre p windowed
     (s.copiesOf (coreOf 0)).length < 128 ∧ (windowed.tag 5).count < 255 ∧ windowed.unmaps = [(reservedKey 0 p.eidx, 0)]) ∧
    (let s := core0 .none none fibre windowed launch
     rangeOffence s windowed [apertureAt, 64] = none ∧ (64 : Dword) ≠ 0) ∧
    (∃ u, canonical placedAt.toNat = true ∧ (ctxOf (atNode 0) 0).inAperture placedAt.toNat = false ∧ (ctxOf (atNode 0) 0).inAperture apertureAt.toNat = true ∧
      (atNode 0).xlate (coreOf 0) ((atNode 0).ctxOfFibre 0) placedAt.toNat needR (Leaf.permits [placedAt.toNat]) = (u, .ok (page 0)) ∧
      (page 0).permits [placedAt.toNat] = true ∧ (placeOf u ((page 0).pa placedAt.toNat)).isMem = true ∧ (page 0).bound u placedAt.toNat = none ∧
      u.ms.poison.contains (lineOf ((page 0).pa placedAt.toNat)) = false ∧ (partOf u (coreOf 0)).flush = false) ∧
    (∃ u, (node arrived).xlate (coreOf 0) ((node arrived).ctxOfFibre 0) placedAt.toNat needR (Leaf.permits [placedAt.toNat]) = (u, .error ⟨0x08, placedAt.toNat⟩)) ∧
    ((node arrived).fabric (coreOf 0)).ilines = [] ∧ ((node arrived).fabric (coreOf 0)).ifills = [] :=
  ⟨by decide, by decide, by decide, ⟨_, by decide, by decide, by decide, Prod.ext rfl (by decide), by decide, by decide, by decide, by decide, by decide⟩,
    ⟨_, Prod.ext rfl (by decide)⟩, by decide, by decide⟩
/-- What SPINV and SPUNMAP do as their instances commit; a PREF of a bounded line. -/
def boundedPage : Leaf := { page 0 with desc := [placedAt + 1, placedAt + 0x4000, 0, 0x3F800000] }
def seeing (l : Leaf) (a : Dword) : State :=
  let s := atNode a
  { s with ms := { s.ms with tlb := [⟨0, .leaf l⟩, ⟨2000, .leaf l⟩] } }
theorem witness_ScratchpadOperationsAct_commit :
    (let s := core0 .none none fibre windowed launch
     s.gather? (gatherOf 0) = some windowed ∧ rangeOffence s windowed [apertureAt, 64] = none ∧ (64 : Dword) ≠ 0 ∧
      windowed.wins = [(0, ⟨0, placedAt.toNat, 0, 128, false⟩)] ∧ 0 = offsetOf s windowed apertureAt ∧ fibre.ended = false) ∧
    (∃ u, (seeing boundedPage 0).xlate (coreOf 0) ((seeing boundedPage 0).ctxOfFibre 0) placedAt.toNat needR (Leaf.permits [placedAt.toNat]) = (u, .ok boundedPage) ∧
      boundedPage.permits [placedAt.toNat] = true ∧ (placeOf (seeing boundedPage 0) (boundedPage.pa placedAt.toNat)).isMem = true ∧
      boundedPage.bound u placedAt.toNat = some 0x3F800000 ∧ u.ms.poison.contains (lineOf (boundedPage.pa placedAt.toNat)) = false) :=
  ⟨by decide, _, Prod.ext rfl (by decide), by decide, by decide, by decide, by decide⟩
/-- A LD whose bytes the first level does not hold: with and without room, with an entry of a load from before the fibre's acquire, of a
poisoned line. -/
def away : Dword := placedAt + 128
def missingAt (ms : List Miss) (poison : List Nat) : State :=
  let s := atNode away
  { s with
    ms := { s.ms with misses := ms, poison := poison }
    fab := { s.fab with prods := [(7, ⟨9, 0, some ⟨away, .global 0 0 false, [128], 5, 0, 0, 0, [], []⟩, none⟩)] } }
abbrev Misses (s : State) (room : Bool) : Prop :=
  ∃ u, s.resolve (s.whoNode 0 0) (effective away 0 (accessBytes 5)) 8 8 needR = (u, .mem ((List.range 8).map (128 + ·)) (page 0)) ∧
    nothingAhead u 0 ((List.range 8).map (128 + ·)) ∧ (page 0).bound u (effective away 0 8) = none ∧
    u.missing (coreOf 0) ((List.range 8).map (128 + ·)) = [1] ∧ (u.missRoom 0 (agentNode 0 0) ((List.range 8).map (128 + ·))).2 = room ∧
    (partOf u (coreOf 0)).flush = false
theorem witness_LoadsTakeTheirBytes_misses :
    (Misses (missingAt [] []) true ∧ joinsFresh (missingAt [] []) 0 [128]) ∧
    (Misses (missingAt [⟨0, 1, 0, [9], [7]⟩] []) true ∧ ¬ joinsFresh (missingAt [⟨0, 1, 0, [9], [7]⟩] []) 0 [128]) ∧
    (Misses (missingAt [] [1]) true ∧ (missingAt [] [1]).ms.poison.contains 1 = true) ∧
    Misses (missingAt ((List.range 256).map fun k => ⟨0, k + 2, 0, [], [7]⟩) []) false := by
  refine ⟨⟨⟨_, Prod.ext rfl (by decide), ⟨by decide, by decide⟩, by decide, by decide, by decide, by decide⟩, ?_⟩,
    ⟨⟨_, Prod.ext rfl (by decide), ⟨by decide, by decide⟩, by decide, by decide, by decide, by decide⟩, ?_⟩,
    ⟨⟨_, Prod.ext rfl (by decide), ⟨by decide, by decide⟩, by decide, by decide, by decide, by decide⟩, by decide⟩,
    ⟨_, Prod.ext rfl (by decide +kernel), ⟨by decide +kernel, by decide +kernel⟩, by decide +kernel, by decide +kernel, by decide +kernel, by decide +kernel⟩⟩
  · intro l _ m h
    exact absurd h (by simp [State.joinable, missingAt])
  · intro h
    exact absurd (h 1 (by decide) ⟨0, 1, 0, [9], [7]⟩ (by decide)) (by decide)
/-- A bounded LD asks, is answered, or has failed; a LD of a window word that is not valid asks for its fill, which has failed or not. -/
def replied (l : Leaf) (a : Dword) (ga : Gather) (r : List (Nat × Fresh)) : State :=
  let s := seeing l a
  { s with fab := { s.fab with gathers := [(0, ga)] }, ms := { s.ms with fresh := r } }
theorem witness_LoadsTakeTheirBytes_home :
    (∀ r ∈ [[], [(agentNode 0 0, Fresh.bytes 0 (List.replicate 8 3))], [(agentNode 0 0, Fresh.fail 0x0D placedAt)]],
      ∃ u, (replied boundedPage placedAt roomy r).resolve ((replied boundedPage placedAt roomy r).whoNode 0 0) (effective placedAt 0 8) 8 8 needR =
          (u, .mem (List.range 8) boundedPage) ∧ nothingAhead u 0 (List.range 8) ∧ boundedPage.bound u (effective placedAt 0 8) = some 0x3F800000 ∧
        (r = [] → freshBytes (u.freshOf (agentNode 0 0)) 0 8 = none ∧ freshFail (u.freshOf (agentNode 0 0)) placedAt.toNat = none) ∧
        (r = [(agentNode 0 0, Fresh.bytes 0 (List.replicate 8 3))] → freshBytes (u.freshOf (agentNode 0 0)) 0 8 = some (List.replicate 8 3)) ∧
        (r = [(agentNode 0 0, Fresh.fail 0x0D placedAt)] → freshBytes (u.freshOf (agentNode 0 0)) 0 8 = none ∧
          (freshFail (u.freshOf (agentNode 0 0)) placedAt.toNat).isSome = true)) ∧
    (∀ r ∈ [[], [(agentNode 0 0, Fresh.fail 0x09 placedAt)]], ∃ u, (replied (page 0) apertureAt windowed r).resolve
        ((replied (page 0) apertureAt windowed r).whoNode 0 0) (effective apertureAt 0 4) 4 4 needR = (u, .scratch [0, 1, 2, 3]) ∧
      (replied (page 0) apertureAt windowed r).gather? (gatherOf 0) = some windowed ∧ u.ownAhead 0 1 [0, 1, 2, 3] = false ∧
      windowed.invalid [0, 1, 2, 3] = [0] ∧ windowed.backing 0 = some placedAt.toNat ∧
      (freshFail (u.freshOf (agentNode 0 0)) placedAt.toNat).isSome = !r.isEmpty) := by
  refine ⟨?_, ?_⟩ <;> intro r hr <;> simp only [List.mem_cons, List.not_mem_nil, or_false] at hr
  · rcases hr with rfl | rfl | rfl <;>
      exact ⟨_, Prod.ext rfl (by decide), ⟨by decide, by decide⟩, by decide, by decide, by decide, by decide⟩
  · rcases hr with rfl | rfl <;> exact ⟨_, Prod.ext rfl (by decide), by decide, by decide, by decide, by decide, by decide⟩
/-- A fence of each kind stands at the head; a record of core 4 has been met, current or stale. -/
def record (inc : Nat) : Nat × RelRec := (7, { core := 4, inc := inc, rgx := [] })
def fencing (op : Instr) (met : List (Nat × RelRec)) (stage : Nat) : State := posting { fibre with met := met, stage := stage } (keptOp op 0 0 none) placedGather
/-- A fence token that has come to die 1 from die 0. -/
def token (w : Payload) : Posted := { src := 0, dst := 1, set := 0, cls := 0, what := w, sent := true, core := none, dieInc := 0, coreInc := 0 }
theorem witness_FencesReleaseAndAcquire :
    (let p := keptOp (.fence 3 1 0) 0 0 none
     heads (fencing (.fence 3 1 0) [record 0] 0) 0 { fibre with met := [record 0], post := [p] } p [] ∧ (fencing (.fence 3 1 0) [record 0] 0).loadsOf 0 = [] ∧
      fresh (fencing (.fence 3 1 0) [record 0] 0) (record 0) ∧ ¬ fresh (fencing (.fence 3 1 0) [record 9] 0) (record 9) ∧ concerns 5 (record 0) = true) ∧
    (fencing (.fencex 3) [] 0).addsOut (agentNode 0 127) (dieOf 0) = false ∧
    ((sequencer placedSeq).seq? 0 = some placedSeq ∧ placedSeq.mats = [] ∧ (sequencer placedSeq).offering (agentSeq 0) = false ∧ placedSeq.stage = 0 ∧
      (sequencer placedSeq).addsOut (agentSeq 0) (dieOfCl 0) = false) ∧
    ((fencing (.fence 3 1 0) [] 3).drained (agentNode 0 127) = true ∧ ((fencing (.fence 3 1 0) [] 3).fibre? 0).map (·.stage) = some 3) ∧
    (({ State.reset with ms := { State.reset.ms with posted := [token (.fence 7)] } } : State).ms.posted[0]? = some (token (.fence 7)) ∧
      State.reset.outdated (token (.fence 7)) = false ∧ State.reset.outdated { token (.fence 7) with dieInc := 3 } = true) := by
  refine ⟨⟨⟨by decide, by decide, by decide, by decide⟩, by decide, by unfold fresh; decide, by unfold fresh; decide, by decide⟩, by decide, by decide, by decide, by decide⟩

/-- A fence of system scope before and after the peer's answer; a FENCEX whose drain leaves, and one whose circuit holds it back; a stale
record met by an acquire of a fibre; sequencer fences. -/
def peerCopy : CopyOp := ⟨9, 0, 0, .cpyr, 5, 0, 0, 0, [], 0, none, none⟩
def stuckHolder (cls : Nat) : State :=
  let s := fencing (.fencex 2) [] 0
  { s with ms := { s.ms with
      holders := [(l2key 0 (2 ^ 30), ⟨⟨1, 0⟩, some .f32, [], []⟩)]
      posted := [{ token (.write [] none none) with cls := cls, sent := false }] } }
def seqFencing (stage : Nat) (met : List (Nat × RelRec)) : State := sequencer { placedSeq with stage := stage, met := met }
def staleDrain : State :=
  let s := fencing (.fence 3 1 0) [record 9] 3
  { s with ms := { s.ms with drains := [⟨agentNode 0 127, (record 9).1, (record 9).2⟩] } }
theorem witness_FencesReleaseAndAcquire_more :
    (let s := fencing (.fence 5 1 0) [] 0
     let t := { s with ms := { s.ms with copies := [(0, [peerCopy])] } }
     ¬ awaitsPeers s 0 5 ∧ ¬ awaitsPeers t 0 4 ∧ awaitsPeers t 0 5) ∧
    ((fencing (.fence 4 1 1) [record 0] 2).fibre? 0).map (·.stage) = some 2 ∧
    (((stuckHolder 0).heldLines 0 = [2 ^ 30] ∧ (stuckHolder 0).addsOut (agentNode 0 127) (dieOf 0) = false) ∧
      (∀ d ∈ drainedDies 2 (dieOf 0), (shedSums (stuckHolder 0) 2 (dieOf 0)).heldLines d = []) ∧
      ∃ d ∈ drainedDies 2 (dieOf 0), (shedSums (stuckHolder 3) 2 (dieOf 0)).heldLines d ≠ []) ∧
    (∀ k ∈ [0, 2, 4], ∃ q, (seqFencing k [record 0]).seq? 0 = some q ∧ (seqFencing k [record 0]).cur = .seq 0 ∧ q.mats = [] ∧ q.stage = k ∧
      (seqFencing k [record 0]).offering (agentSeq 0) = false) ∧
    (staleDrain.ms.drains[0]? = some ⟨agentNode 0 127, (record 9).1, (record 9).2⟩ ∧ ¬ fresh staleDrain ((record 9).1, (record 9).2) ∧
      agentNode 0 127 < 10 ^ 12 ∧ staleDrain.fibre? 0 = some { fibre with met := [record 9], stage := 3, post := [keptOp (.fence 3 1 0) 0 0 none] } ∧
      (({ staleDrain with ms := { staleDrain.ms with drains := [] } } : State).dropMet (record 9)).fibre? 0 = staleDrain.fibre? 0) ∧
    (({ State.reset with ms := { State.reset.ms with fences := [⟨agentNode 0 127, 0⟩] } } : State).ms.fences = [⟨agentNode 0 127, 0⟩]) := by
  refine ⟨⟨by unfold awaitsPeers; decide, by unfold awaitsPeers; decide, by unfold awaitsPeers; decide⟩, by decide, ⟨by decide, by decide, by decide⟩, ?_,
    ⟨by decide, by unfold fresh; decide, by decide, by decide, by decide⟩, rfl⟩
  intro k hk
  simp only [List.mem_cons, List.not_mem_nil, or_false] at hk
  rcases hk with rfl | rfl | rfl <;> exact ⟨_, rfl, rfl, rfl, rfl, by decide⟩

/-! ### System values, barriers and start requests -/

theorem witness_SystemValues : Sourced [.v 0] [5] ∧ Bare ∧ (21 : BitVec 7).toNat < 22 ∧ (node arrived).fibre? 0 = some fibre ∧
    (seqRegisterValue (sequencer placedSeq) 0 placedSeq 21).isSome ∧ seqRegisterValue (sequencer placedSeq) 0 placedSeq 13 = none ∧
    (let p := keptOp (.wany (.w 0) (.v 0)) 3 0 none
     let busy : Gather := { placedGather with tags := [(0, ⟨1, false, 0⟩), (1, ⟨1, false, 0⟩)] }
     (posting fibre p placedGather).gather? (gatherOf 0) = some placedGather ∧ takenTags (posting fibre p placedGather) 0 placedGather &&& p.a = p.a ∧ p.a ≠ 0 ∧
      takenTags (posting fibre p busy) 0 busy &&& p.a = 0 ∧ takenTags (posting fibre p busy) 0 { busy with tags := [(0, ⟨1, false, 0⟩)] } &&& p.a ≠ p.a) ∧
    (let p := keptOp (.wany (.w 0) (.v 0)) 3 0 none
     takenTags (posting fibre (keptOp (.spfill 1 (.v 0) (.v 1) (.v 2)) 0 0 none) placedGather) 1 placedGather &&& p.a ≠ p.a) := by decide
/-- WANY at the head while an addition of the fibre is on its way, or alone; TAGCLR behind an error of tag 1. -/
theorem witness_SystemValues_tags :
    (let p := keptOp (.wany (.w 0) (.v 0)) 3 0 none
     let s := posting fibre p placedGather
     heads s 0 { fibre with post := [p] } p [] ∧
      ({ s with ms := { s.ms with offers := [⟨0, 0, 0, 0, .f32, 0, 1, agentNode 0 127, 0, [], [], false, none, 0⟩] } } : State).offering (agentNode 0 127) = true) ∧
    (let g : Gather := { placedGather with tags := [(1, ⟨0, true, 7⟩)] }
     lowestBit (errTags g &&& 3) = 1 ∧ (g.tag 1).record = 7 ∧ 64 ≤ lowestBit (errTags placedGather &&& 3)) ∧
    ((node arrived).emulating 0 = false ∧ (node arrived).gather? (gatherOf 0) = some placedGather) := by
  refine ⟨⟨⟨by decide, by decide, by decide, by decide⟩, by decide⟩, by decide, by decide⟩
/-- The barrier's gather has two live fibres, or one. -/
def meeting2 (n : Nat) : State :=
  let s := core0 (.node 0 0) (some arrived) fibre placedGather launch
  { s with fab := { s.fab with fibres := (0, fibre) :: (List.range n).map fun k => (k + 1, fibre) } }
def startReq : StartReq := ⟨placedAt, 5, 0, 0, 0, 0, 1⟩
def starting (en : Bool) : State :=
  let s := sequencer { newSeq with startq := [startReq] }
  { s with disp := { s.disp with ctxs := [(0, ⟨if en then 1 else 0, 0, 0xFFFFFFF000000000, 0, 0⟩)] } }
theorem witness_FibresWorkTogether :
    (mayArrive (meeting2 1) 0 0 15 fibre arrived placedGather ∧ (placedGather.bar 15).na + 1 < ((meeting2 1).liveFibres (gatherOf 0)).length) ∧
    (mayArrive (meeting2 0) 0 0 15 fibre arrived placedGather ∧ ((meeting2 0).liveFibres (gatherOf 0)).length ≤ (placedGather.bar 15).na + 1 ∧
      (placedGather.bar 15).held = [] ∧ (placedGather.bar 15).nh = 0) ∧
    (let p := keptOp (.efork (.w 0) (.v 0) (.v 1)) 0 0 none
     heads (posting fibre p placedGather) 0 { fibre with post := [p] } p [] ∧ (posting fibre p placedGather).loadsOf 0 = [] ∧
      (posting fibre p placedGather).seq? (coreOf 0 / 4) = some newSeq ∧ newSeq.startq.length < 8 ∧ (kvGet 0 newSeq.rdv).getD [] = [] ∧
      (posting fibre p placedGather).launch? 0 = some launch ∧ launch.st ≠ .complete ∧ (posting fibre p placedGather).spent 0 launch = false ∧
      launch.job = (posting fibre p placedGather).jobOf 0) ∧
    ((starting true).seq? 0 = some { newSeq with startq := [startReq] } ∧ newSeq.run = false ∧ newSeq.mats = [] ∧ (starting true).saving 0 = false) ∧
    (16 ≤ 2048 ∧ (64 : Dword).toNat % 64 = 0 ∧ (1025 : Dword).toNat > 1024) := by
  refine ⟨⟨by unfold mayArrive; decide, by decide⟩, ⟨by unfold mayArrive; decide, by decide, by decide, by decide⟩,
    ⟨⟨by decide, by decide, by decide, by decide⟩, by decide, by decide, by decide, by decide, by decide, by decide, by decide, by decide⟩, by decide, by decide⟩
theorem witness_FibresWorkTogether_start : (ctxOf (starting true) startReq.ctx).en = true ∧ (ctxOf (starting false) startReq.ctx).en = false := by decide
/-- A launch that starts no program; a rendezvous queue that is full; a program whose launch's fibre waits for it; groups to cancel. -/
def startless : State :=
  let p := keptOp (.efork (.w 0) (.v 0) (.v 1)) 0 0 none
  let s := posting fibre p placedGather
  { s with disp := { s.disp with launches := [(0, { launch with cancelled := true })] } }
def meetSeq (n : Nat) : Seq := { placedSeq with rdv := [(1, List.replicate n 0)], regs := [(0, 1), (1, 1025)] }
def group (ph open_ : Bool) : Group := ⟨0, 5, ph, open_, 0, false, 0, false, 0, 0, 0, 0⟩
def cancelling (ph open_ : Bool) (l : Launch) : State :=
  let s := posting fibre (keptOp (.cancel (.w 0) (.v 0) 1) 5 0 none) placedGather
  { s with disp := { s.disp with groups := [(9, group ph open_)], launches := [(0, l)] } }
theorem witness_FibresWorkTogether_more :
    (startsNone startless 0 ∧ ¬ startsNone (posting fibre (keptOp (.efork (.w 0) (.v 0) (.v 1)) 0 0 none) placedGather) 0 ∧
      8 ≤ (List.replicate 8 startReq).length) ∧
    (let p := keptOp (.rdv 1) 0 0 none
     heads (posting fibre p placedGather) 0 { fibre with post := [p] } p [] ∧ ((kvGet (1 : BitVec 7).toNat newSeq.rdv).getD []).length < 1024) ∧
    1024 ≤ ((kvGet (1 : BitVec 7).toNat (meetSeq 1024).rdv).getD []).length ∧
    (let s := { core0 .none none fibre placedGather launch with mat := { Mat.reset with seqs := [(0, meetSeq 1)] }, cur := .seq 0 }
     let mine := ((kvGet (1 : BitVec 7).toNat (meetSeq 1).rdv).getD []).filter fun f => (s.gather? (gatherOf f)).any fun g => g.lid == (meetSeq 1).lid
     s.seq? 0 = some (meetSeq 1) ∧ (meetSeq 1).mats = [] ∧ s.offering (agentSeq 0) = false ∧ mine = [0] ∧ ((meetSeq 1).read (.v 0)).toNat ≤ mine.length ∧
       1024 < ((meetSeq 1).read (.v 1)).toNat ∧ ((meetSeq 1).read (.v 2)).toNat = 0 ∧
       boundAfter s mine none 0 = some 0 ∧ boundAfter s mine none 1 = none) ∧
    (∀ ph open_, kvGet 9 (cancelling ph open_ launch).disp.groups = some (group ph open_) ∧ (group ph open_).open_ = open_ ∧
      (cancelling ph open_ launch).disp.groups.filter (fun z => z.2.job == (cancelling ph open_ launch).jobOf 0 && z.2.number == 5 && z.2.isPhase == ph && !z.2.done) =
        [(9, group ph open_)]) ∧
    (let l : Launch := { launch with graphId := 9, left := 0 }
     let s : State := { cancelling false false l with fab := Fab.reset }
     (s.disp.launches.filter fun y => y.2.graphId == 9 && y.2.st != .complete) = [(0, l)] ∧ s.spent 0 l = true ∧ s.spent 0 { l with left := 1 } = false) := by
  refine ⟨⟨⟨placedGather, _, by decide, rfl, .inl ⟨rfl, rfl⟩⟩, ?_, by decide⟩, ⟨⟨by decide, by decide, by decide, by decide⟩, by decide⟩, by decide +kernel, by decide, by decide, by decide⟩
  rintro ⟨g, l, hg, hl, h⟩
  have h1 : g = placedGather := by
    have : (posting fibre (keptOp (.efork (.w 0) (.v 0) (.v 1)) 0 0 none) placedGather).gather? (gatherOf 0) = some placedGather := by decide
    rw [this] at hg; exact (Option.some.inj hg).symm
  subst h1
  have h2 : l = launch := by
    have : (posting fibre (keptOp (.efork (.w 0) (.v 0) (.v 1)) 0 0 none) placedGather).launch? placedGather.lid = some launch := by decide
    rw [this] at hl; exact (Option.some.inj hl).symm
  subst h2
  exact absurd h (by decide)
/-- Tile 0 is free, or active and the program's, or pinned; an instruction of the engines works on it. -/
def tiled (st : TileState) (q : Seq) : State :=
  { sequencer q with mat := { Mat.reset with seqs := [(0, q)], own := [(0, ⟨0x40, 0, 0, true, false, st, 0⟩)] } }
def clearing : MatOp := ⟨.mzero .zero 0, 0, true, [0], [0], [], [], []⟩
def busySeq : Seq := { placedSeq with mats := List.replicate 8 clearing }
theorem witness_MatrixInstructions :
    (atSeq (tiled .active placedSeq) 0 placedSeq ∧ usable (tiled .active placedSeq) 0 0 placedSeq ∧ ¬ usable (tiled .free placedSeq) 0 0 placedSeq ∧
      room placedSeq [0] [] [] ∧ ¬ room busySeq [0] [] []) ∧
    (tiled .active { placedSeq with mats := [clearing] }).seq? 0 = some { placedSeq with mats := [clearing] } ∧ clearing.op = .mzero .zero 0 ∧
    (∃ m ∈ busySeq.mats, ∃ e < 2, (1 : Dword).getLsbD e = true ∧ m.engines.contains e = true) ∧
    ((tiled .free placedSeq).own? 0 0).st = .free ∧ ((tiled .pinned placedSeq).own? 0 0).st = .pinned ∧
    (tiled .pinned placedSeq).holderOf 0 placedSeq.job 0x40 = some 0 ∧ (tiled .pinned placedSeq).holderOf 0 placedSeq.job 0x80 = none := by
  refine ⟨⟨⟨rfl, by decide⟩, ⟨by decide, by decide⟩, ?_, ⟨by decide, by decide⟩, ?_⟩, by decide, rfl, ⟨clearing, by decide, 0, by decide, by decide, by decide⟩,
    by decide, by decide, by decide, by decide⟩
  · unfold usable; decide
  · intro h; exact absurd (h.1 0 (by decide)) (by decide)

/-- Operations of the engines that complete: their operands, of each group and with and without scales, k along the rows or not; stores
that lie apart in a gather's allocation. -/
def operand (fmt : Nat) (along : Bool) : MatData :=
  ⟨fmt, along, List.replicate (if along then 128 else depth fmt) [], if 8 ≤ fmt ∧ fmt ≤ 13 then List.replicate (if along then 128 else depth fmt / 32) [] else []⟩
def working (m : MatOp) : State := tiled .active { placedSeq with mats := [m] }
def readout : State :=
  let m : MatOp := ⟨.mdelta (.v 0) (.v 1) (.v 2), 0x140, false, [0], [0], [], [(0, 2 ^ 14, 784)], [(0, 0, 256)]⟩
  { core0 .none none fibre roomy launch with mat := (working m).mat }
theorem witness_MatrixInstructions_complete :
    (∀ i ∈ [Instr.mma (.v 0) (.v 1) (.v 2), .mdelta (.v 0) (.v 1) (.v 2), .mscan (.v 0) (.v 1) (.v 2), .mout (.v 0) (.v 1), .mlda (.v 0) (.v 1)],
      let m : MatOp := ⟨i, 0, false, [0], [0], [], [], []⟩
      (working m).seq? 0 = some { placedSeq with mats := [m] } ∧ ({ placedSeq with mats := [m] } : Seq).mats = m :: [] ∧ m.tiles = [0]) ∧
    (shaped (operand 6 true) ∧ shaped (operand 7 false) ∧ shaped (operand 14 true) ∧ shaped (operand 12 false) ∧ shaped (operand 8 true) ∧
      depth 6 = depth 8 ∧ depth 7 = depth 12) ∧
    (readout.seq? 0).map (·.mats.length) = some 1 ∧ apart readout [(0, 0, 256)] ∧ (0x140 : Dword).getLsbD 6 = true ∧ 256 = 128 * 2 := by
  refine ⟨by decide, ⟨?_, ?_, ?_, ?_, ?_, by decide, by decide⟩, by decide, ⟨?_, by simp⟩, by decide, by decide⟩
  · refine ⟨by simp [operand], by simp [operand], ?_⟩; intro h; exact absurd h (by unfold hasScales; decide)
  · refine ⟨by simp [operand], by simp [operand], ?_⟩; intro h; exact absurd h (by unfold hasScales; decide)
  · refine ⟨by simp [operand], by simp [operand], ?_⟩; intro h; exact absurd h (by unfold hasScales; decide)
  · refine ⟨by simp [operand], by simp [operand], fun _ => by simp [operand]⟩
  · refine ⟨by simp [operand], by simp [operand], fun _ => by simp [operand]⟩
  · intro p hp
    rw [List.mem_singleton.1 hp]
    exact ⟨by decide, 0, roomy, by decide, by decide +kernel⟩

/-- The last operation of a cluster for a launch that has been cancelled, whose tile 0 is active or pinned. -/
def lastOf (st : TileState) : State :=
  { core0 .none none fibre roomy { launch with cancelled := true } with mat := (tiled st { placedSeq with mats := [clearing] }).mat }
theorem witness_MatrixInstructions_stopped :
    ¬ stopped readout placedSeq.lid ∧
    ∀ st ∈ [TileState.active, .pinned], (lastOf st).seq? 0 = some { placedSeq with mats := [clearing] } ∧ stopped (lastOf st) placedSeq.lid ∧
      kvSorted (lastOf st).mat.own = true ∧ ((lastOf st).own? 0 0).launch = placedSeq.lid ∧ ((lastOf st).own? 0 0).st = st := by
  refine ⟨fun ⟨l, hl, h⟩ => ?_, fun st hst => ?_⟩
  · have : readout.launch? placedSeq.lid = some launch := by decide
    rw [this] at hl
    obtain rfl := Option.some.inj hl
    exact absurd h (by decide)
  · have : (lastOf st).launch? placedSeq.lid = some { launch with cancelled := true } := rfl
    refine ⟨rfl, ⟨_, this, by decide⟩, rfl, rfl, ?_⟩
    cases st <;> rfl

/-! ### Events of the cores -/

/-- A core whose cache of instruction lines holds the block at the placed address, with what else stands in its fabric. -/
def fabricAt (f : Fabric → Fabric) : State :=
  let s := mapped .none none 0
  { s with fab := { s.fab with cores := [(0, f (s.fabric 0))] } }
/-- Fibre 0 waits at the block, whose header has been read. -/
def choosing : State :=
  let s := core0 .none none fibre placedGather launch
  { s with fab := { s.fab with
      slots := [(0, ⟨7, true, none⟩)]
      cores := [(0, { s.fabric 0 with sets := [⟨0, placedAt, some ((blockWords true 0).take 4), none, []⟩] })] } }
/-- An answer that stands. -/
theorem answered {α β : Type} {p : α × Option β} (h : p.2.isSome = true) : ∃ a b, p = (a, some b) := by
  obtain ⟨a, _ | b⟩ := p
  · cases h
  · exact ⟨a, b, rfl⟩
def codeLine : ILine := ⟨0, placedAt.toNat / 128, ((blockWords true 0).flatMap fun w => leBytes 4 w.toNat) ++ List.replicate 108 0, 0⟩
def building (lines failed : List Nat) (read : KV (List Byte)) : Fabric → Fabric := fun f => { f with builds := [⟨0, placedAt, lines, failed, read⟩], ilines := [codeLine] }
/-- The block has been retired; some of its nodes are left. -/
def retired (left : List Nat) : State :=
  fabricAt fun f => { f with cfgs := [{ configured true 0 with retiring := true, left := left }] }
/-- A window fill whose page has no translation. -/
def filling : State :=
  let s := core0 .none none fibre windowed launch
  { s with ms := { s.ms with fills := [⟨0, 0, 7, [agentNode 0 0], []⟩] } }
/-- A copy that has moved its bytes, with or without a write that no home has accepted. -/
def copying (out : Bool) : State :=
  let s := core0 .none none fibre placedGather launch
  { s with ms := { s.ms with copies := [(0, [⟨9, 0, 0, .spfill, 5, 0, 0, 0, [], 0, none, some none⟩])]
                             posted := if out then [{ token (.write [] none none) with what := .write [] none (some 9) }] else [] } }
theorem witness_CoreEvents_blocks :
    State.reset.candidates 0 = [] ∧
    (choosing.candidates 0 = [⟨0, placedAt, some ((blockWords true 0).take 4), none, []⟩] ∧ (choosing.fabric 0).chosen = none ∧
      (choosing.fabric 0).builds = [] ∧ (choosing.fabric 0).image? 0 placedAt = none) ∧
    (let s := fabricAt (fun f => { f with ifills := [⟨0, placedAt.toNat / 128, true, false⟩] });
      (s.fabric 0).ifills = [⟨0, placedAt.toNat / 128, true, false⟩] ∧
      ∃ u bs, (s.setFabric 0 { s.fabric 0 with ifills := [] }).fetchBytes 0 (dieOfCore 0) 0 (placedAt.toNat / 128) = (u, some bs)) ∧
    (let b : Build := ⟨0, placedAt, [], [], [(codeLine.line, codeLine.bytes)]⟩
     let n := hdrN ((wordsFrom placedAt.toNat 4 b.read).getD 0 0)
     let ws := wordsFrom placedAt.toNat (4 + n) b.read
     ((fabricAt (building [] [] b.read)).fabric 0).builds = [b] ∧ (∀ l ∈ codeLines placedAt.toNat 4, (kvGet l b.read).isSome) ∧
       (∀ l ∈ codeLines placedAt.toNat (4 + n), (kvGet l b.read).isSome) ∧ hdrIsHeader (ws.getD 0 0) = true ∧ ws = blockWords true 0 ∧
       blockOffence (ws.take 4) (ws.drop 4) = none) ∧
    (let hdr : Dword := placedAt + 0x70
     let read : KV (List Byte) := [(codeLine.line, List.replicate 0x70 0 ++ codeLine.bytes.take 16)]
     let n := hdrN ((wordsFrom hdr.toNat 4 read).getD 0 0)
     (∀ l ∈ codeLines hdr.toNat 4, (kvGet l read).isSome) ∧ hdrIsHeader ((wordsFrom hdr.toNat 4 read).getD 0 0) = true ∧
       ∃ l ∈ codeLines hdr.toNat (4 + n), kvGet l read = none) ∧
    ((fabricAt (building [3] [] [])).fabric 0).builds = [⟨0, placedAt, [3], [], []⟩] ∧
    ((fabricAt (building [] [3] [])).fabric 0).builds = [⟨0, placedAt, [], [3], []⟩] ∧
    (let s := fabricAt fun f => { f with chosen := some (0, placedAt), images := [⟨0, placedAt, blockWords true 0, 0⟩] }
     (s.fabric 0).chosen = some (0, placedAt) ∧ (s.fabric 0).images = [⟨0, placedAt, blockWords true 0, 0⟩] ∧ (s.fabric 0).cfgs = []) ∧
    (retired [0]).nodeClear { configured true 0 with retiring := true, left := [0] } 0 = true ∧
    (retired [0, 1]).nodeClear { configured true 0 with retiring := true, left := [0, 1] } 0 = true :=
  ⟨by decide, by decide, ⟨by decide, answered (by decide)⟩, by decide, by decide, by decide, by decide, by decide, by decide, by decide⟩
theorem witness_CoreEvents_store :
    (∃ u b, filling.ms.fills = [⟨0, 0, 7, [agentNode 0 0], []⟩] ∧ filling.gather? 0 = some windowed ∧
      ({ filling with ms := { filling.ms with fills := [] }, cur := .gather 0 } : State).fillNow (agentFill 0 0) windowed.core 0 0 7 = (u, some (some b))) ∧
    (∃ u, let s := mapped .none none 0
      ({ s with cur := .gather 0 } : State).fillNow (agentFill 0 0) 0 0 0 7 = (u, none)) ∧
    (∀ b, ((copying b).copiesOf 0)[0]? = some ⟨9, 0, 0, .spfill, 5, 0, 0, 0, [], 0, none, some none⟩ ∧ (copying b).gather? 0 = some placedGather ∧
      (copying b).copyPosted 9 = b) ∧
    ((partOf State.reset 0).pend = 0 ∧ (⟨0x08, 0x10, 0x02, 0x06⟩ : Part).lv + 0x10 + 0x02 + 0x06 = 32) ∧
    (let p : CoreStore := { partOf State.reset 0 with target := ⟨9, 16, 2, 5⟩, pend := 2 }
     0 < p.pend ∧ p.now.lv < p.target.lv ∧ p.target.sp = p.now.sp ∧ p.target.tm = p.now.tm ∧ p.target.l1 < p.now.l1 ∧ p.flush = false) ∧
    (let s : State := { mapped .none none 0 with clock := 2 ^ 15 }
     (s.ms.l1.map (·.1)).Nodup ∧ s.ms.poison = [] ∧ s.l1At 0 0 = some ⟨0, false, 0, 0⟩ ∧ 0 + 2 ^ 15 ≤ s.clock) :=
  ⟨⟨_, _, by decide, by decide, Prod.ext rfl (by decide)⟩, ⟨_, Prod.ext rfl (by decide)⟩, by decide, by decide, by decide, by decide, by decide, by decide, by decide⟩

/-! ### Events of the memory system -/

/-- Tokens of one circuit: the first that has not been sent, or has been sent, and one of an incarnation that is over. -/
def posted (l : List Posted) : State := { State.reset with ms := { State.reset.ms with posted := l } }
def written : Posted := token (.write [(0, 1), (1, 2)] none none)
def drained : Posted := token (.drain 0 0 .f32 [] none)
/-- A line that die 0 holds, and a line that two dies hold as owners. -/
def cachedLine (st : Moesi) : State := { State.reset with ms := { State.reset.ms with l2 := [(l2key 0 0, ⟨st, [], []⟩), (l2key 1 0, ⟨st, [], []⟩)] } }
/-- An addition to a line at its holder. -/
def offer (stage : Nat) : Offer := ⟨0, 0, 0, 0, .f32, 0, 1, agentNode 0 127, 0, [], [], false, none, stage⟩
def offered (stage : Nat) : State := { State.reset with ms := { State.reset.ms with offers := [offer stage] } }
def bread : BRead := ⟨0, 4, 3, 0x3F800000, agentNode 0 0, placedAt.toNat⟩
def reading : State := { State.reset with ms := { State.reset.ms with breads := [bread] } }
/-- A walk for one request, which a cached table entry shortens to a leaf, or which finds nothing. -/
def walk1 : Walk := ⟨0, 0, placedAt.toNat / 2 ^ 14, [⟨agentNode 0 0, 0, ⟨true, false, false⟩, placedAt.toNat, false⟩], false⟩
def walking (found : Bool) : State := { State.reset with ms := { State.reset.ms with
  walks := [walk1]
  tlb := if found then [⟨3000, .table 0 2 (placedAt.toNat / 2 ^ 14) 0x4000⟩] else []
  mem := [(0x4000, 0x73), (0x4001, 6)] } }
/-- An invalidation of every context in progress. -/
def invalidating (waits : List Nat) : State := { State.reset with mg := { State.reset.mg with inval := some ⟨5, 0, 0, 1, 0, waits⟩ } }
/-- A request to the host for a page. -/
def atsReq (ws : List Waiter) (pri : Option Nat) (usePri : Bool) : State :=
  { State.reset with clock := 2 ^ 25, ms := { State.reset.ms with ats := [⟨1, 8, usePri, pri, ws⟩] } }
def hostWaiter : Waiter := ⟨agentNode 0 0, 0, ⟨true, false, false⟩, placedAt.toNat, false⟩
/-- An instance, present or not, has used a translation of the host. -/
def hostUsed (n : Option Inst) : State :=
  let s := core0 .none n fibre placedGather launch
  { s with ms := { s.ms with atsUsed := [(0, 1, 8)] } }
theorem witness_MemoryEvents_circuits :
    ((posted [{ written with sent := false }]).ms.posted[0]? = some { written with sent := false } ∧ (posted [written, written]).ms.posted[1]? = some written ∧
      ∃ o ∈ [written, written].take 1, o.circ = written.circ) ∧
    (firstOnCircuit (posted [written]) 0 written ∧ (posted [written]).outdated written = false ∧ ([((0 : Nat), (1 : Byte)), (1, 2)].map (·.1)).Nodup) ∧
    (firstOnCircuit (posted [{ written with dieInc := 3 }]) 0 { written with dieInc := 3 } ∧
      (posted [{ written with dieInc := 3 }]).outdated { written with dieInc := 3 } = true) ∧
    (firstOnCircuit (posted [drained]) 0 drained ∧ (posted [drained]).outdated drained = false) ∧
    (let p : Posted := { written with what := .bounded [(0, 1), (1, 2)] none none }
     firstOnCircuit (posted [p]) 0 p ∧ (posted [p]).outdated p = false ∧ (posted [p]).ms.poison = [] ∧
        kvGet (lineOf 0) (posted [p]).ms.grants = none ∧ kvGet (lineOf 1) (posted [p]).ms.grants = none) ∧
    (∀ p ∈ (posted [written]).ms.posted, p.circ = written.circ → p.sent = true) := by
  refine ⟨by decide, ⟨⟨rfl, rfl, by decide⟩, by decide, by decide⟩, ⟨⟨rfl, rfl, by decide⟩, by decide⟩, ⟨⟨rfl, rfl, by decide⟩, by decide⟩,
    ⟨⟨rfl, rfl, by decide⟩, by decide, by decide, by decide⟩, by decide⟩
theorem witness_MemoryEvents_lines :
    (State.reset.sharers 0 = [] ∧ noRecords State.reset 0 ∧ (State.reset.copyOf 0 0).st = .i ∧ homeOf State.reset 0 ≠ 1) ∧
    (((cachedLine .e).copyOf 0 0).st = .e ∧ (cachedLine .e).ms.posted = [] ∧ ((cachedLine .e).copyOf 0 0).recs = [] ∧ ((cachedLine .e).copyOf 0 0).win = []) ∧
    (((cachedLine .o).copyOf 0 0).st = .o ∧ ((cachedLine .o).copyOf 1 0).st = .o) ∧
    (∀ k ∈ [0, 1], (offered k).ms.offers[0]? = some (offer k) ∧ (offered k).offerFirst 0 (offer k) = true ∧ (offer k).stage = k) ∧
    ((offered 0).holder 0 0).share.isZero = true ∧
    (State.reset.mg.bvBusy = false ∧ (1 : BitVec 32).extractLsb' 0 8 ≠ 0 ∧ (0x200 : BitVec 32).extractLsb' 0 8 = 0) ∧
    (reading.ms.breads = [bread] ∧ ∀ k < bread.len, kvGet (lineOf (bread.pa + k)) reading.ms.grants = none) := by
  refine ⟨⟨by decide, by unfold noRecords; decide, by decide, by decide⟩, by decide, by decide, by decide, by decide, by decide, by decide⟩
/-- R63: what the walk's answer is in the two states. -/
def walkEnds (found : Bool) : Walked :=
  (({ walking found with cur := .none, ms := { (walking found).ms with walks := [] } } : State).walkDie 0 0 placedAt.toNat false
    fun l => walk1.waiters.all fun x => (walking found).grants? l placedAt.toNat x.need).2.1
theorem witness_MemoryEvents_translation :
    (∀ b, (walking b).ms.walks[0]? = some walk1 ∧ (((walking b).ms.walks.take 0).filter fun x => x.die == walk1.die).length < 32) ∧
    (walkEnds false = .absent ∧ walkEnds true = .leaf (page 0) 0x4000 ∧ (walking true).grants? (page 0) placedAt.toNat ⟨true, false, false⟩ = true) ∧
    ((0x01 : BitVec 32).extractLsb' 0 3 = 1 ∧ State.reset.mg.inval = none ∧ State.reset.mg.xlatVa.toNat / 2 ^ 14 % 2 ^ 0 = 0 ∧
      ({ State.reset.mg with xlatVa := 0x4000 } : Mgmt).xlatVa.toNat / 2 ^ 14 % 2 ^ 1 ≠ 0) ∧
    ((invalidating []).mg.inval = some ⟨5, 0, 0, 1, 0, []⟩ ∧ (invalidating []).latePending ⟨5, 0, 0, 1, 0, []⟩ = false ∧
      (invalidating [0]).mg.inval = some ⟨5, 0, 0, 1, 0, [0]⟩) ∧
    ((atsReq [] none false).ms.ats = [⟨1, 8, false, none, []⟩] ∧ (atsReq [hostWaiter] (some 0) true).ms.ats = [⟨1, 8, true, some 0, [hostWaiter]⟩] ∧
      0 + 2 ^ 24 ≤ (atsReq [hostWaiter] (some 0) true).clock ∧ (atsReq [hostWaiter] (some (2 ^ 25)) true).clock < 2 ^ 25 + 2 ^ 24) ∧
    ((∃ x ∈ (hostUsed (some arrived)).ms.atsUsed, (hostUsed (some arrived)).accessing x.1 = true ∧ x.2.1 = 1 ∧ x.2.2 * 4096 < 0x8000 + 1 ∧ 0x8000 < x.2.2 * 4096 + 4096) ∧
      ∀ x ∈ (hostUsed none).ms.atsUsed, (hostUsed none).accessing x.1 = false) := by
  refine ⟨by decide, by decide, by decide, by decide, by decide, by decide⟩

/-! ### Work and its life on the part -/

/-- An answer that stands and is as wanted. -/
theorem answeredBy {α β : Type} {p : α × Option β} (Q : β → Prop) (h : ∃ b ∈ p.2, Q b) : ∃ a b, p = (a, some b) ∧ Q b := by
  obtain ⟨b, hb, hq⟩ := h
  exact ⟨p.1, b, Prod.ext rfl hb, hq⟩
/-- A queue of function 1, enabled, with a record in its ring, whose words are zero but for the number of gathers. -/
def ring : Queue := { d0 := 0x100000, d1 := 0x01000001, head := 0, count := 1, drops := 0 }
def queued (gathers : Byte) : State := { State.reset with
  disp := { Disp.reset with queues := [(3, ring)] }, ms := { State.reset.ms with mem := if gathers = 0 then [] else [(0x100008, gathers)] } }
theorem witness_DispatchEvents_queues :
    ((queued 1).queue 3 = ring ∧ (queued 1).mg.firmware = true ∧ ring.func = 1 ∧ ring.count < ring.size ∧ ring.d1.getLsbD 0 = true ∧ 0 < ring.count) ∧
    ((0x12345000 : BitVec 64) &&& 0x000FFFFFFFFFF00F ≠ ring.d0 ∧ (9 : BitVec 64).extractLsb' 0 4 = 9) ∧
    (∀ n ∈ ([0, 1] : List Byte), ∃ u bs, ((queued n).setQueue 3 { ring with head := 1, count := 0 }).readPhys (ring.slotAt ring.head) 64 = (u, some bs) ∧
      recBad (dwordsOf bs) = (n == 0) ∧ recRanges (dwordsOf bs) = 0) := by
  refine ⟨by decide, by decide, fun n hn => ?_⟩
  simp only [List.mem_cons, List.not_mem_nil, or_false] at hn
  rcases hn with rfl | rfl
  · exact answeredBy _ (by decide)
  · exact answeredBy _ (by decide)

/-- A launch whose next gather waits for room, of a context that is enabled, on core 0. -/
def bound (l : Launch) : State :=
  { core0 .none none fibre placedGather launch with
    fab := Fab.reset
    disp := { Disp.reset with
      ctxs := [(0, ⟨1, 0, 0xFFFFFFF000000000, 0, 0⟩)]
      jobs := [(0, ⟨0, 0, 0, false, false⟩)]
      launches := [(0, l)]
      slottab := [(0, ⟨1, 1, 0x10000⟩)] } }
def placing : Launch := { launch with kern := some kernel, ngath := 2 }
theorem witness_DispatchEvents_gathers : State.reset.nextPlacement = none ∧
    (∃ core n lv sp, (bound placing).nextPlacement = some (0, placing, kernel, core, n, lv, sp)) ∧
    ((core0 .none none fibre placedGather launch).gatherIdle 0 placedGather = false ∧
      ({ core0 .none none fibre placedGather launch with fab := { Fab.reset with gathers := [(0, placedGather)] } } : State).gatherIdle 0 placedGather = true) ∧
    ((bound placing).launchOver 0 placing = false ∧ (bound { launch with left := 0 }).launchOver 0 { launch with left := 0 } = true) ∧
    kvGet 0 (bound placing).disp.jobs = some ⟨0, 0, 0, false, false⟩ :=
  ⟨by decide, ⟨0, 0, 0, 0, rfl⟩, by decide, by decide, by decide⟩

/-- An object of one kernel: its header, a section table of .text and .meta, the block at the start of .text, the descriptor. -/
def image : List Byte :=
  dwBytes [0x57594C5301010002, 0, 0x4000, 64, 216, 0, 0, 0, 0x0102000000000000, 128, 24, 0, 0x0A02000000000000, 152, 64, 0] ++
  ((blockWords true 0 ++ [0]).flatMap fun w : Word => leBytes 4 w.toNat) ++ dwBytes [0, 0xFFFFFFFFFFFFFFFF, 0x0001003000000000, 0, 0, 0, 0, 0]
/-- The object that a context has resident at 0, its page shared, and the same object of another job, whose load has been asked for. -/
def object (h : Dword) (job : Nat) (st : ObjState) (dig : List Word) : CodeObj :=
  { handle := h, job := job, func := 0, image := image, libs := [], tried := [], uses := [], registered := true, st := st, base := 0, span := 0x4000, reserved := true
    digest := dig, imports := [], kernels := [], pages := if st = .resident then [⟨0, [0x10000], true⟩] else [], err := 0, errIdx := 0, errP := 0 }
/-- The tables of context 0 lead to the entry of page 0. -/
def loadable (dig : List Word) : State := { State.reset with
  disp := { Disp.reset with objs := [(1, object 1 0 .wanted []), (2, object 2 1 .resident dig)] }
  ms := { State.reset.ms with mem := [(0, 1), (1, 0x40), (0x4000, 1), (0x4001, 0x80), (0x8000, 1), (0x8001, 0xC0)] } }
theorem loadable_shares (dig : List Word) : (loadable dig).sharedCopy 0 (object 1 0 .wanted []) dig [] = some (object 2 1 .resident dig) := by
  simp [State.sharedCopy, loadable, object]
abbrev digestOf : List Word := sha256 (digestInput image (sectionsOf image))
theorem answered3 {α β γ : Type} {p : α × β × Option γ} (h : p.2.2.isSome = true) : ∃ a b c, p = (a, b, some c) := by
  obtain ⟨a, b, _ | c⟩ := p
  · cases h
  · exact ⟨a, b, c, rfl⟩
theorem witness_DispatchEvents_codeLoad :
    ((loadable digestOf).obj? 1 = some (object 1 0 .wanted []) ∧ (loadable digestOf).mg.inval = none) ∧
    (objectErr [] ≠ none ∧ objectErr image = none ∧ symsOf image (sectionsOf image) = [] ∧
      (loadable digestOf).libsReady [] [] 0 = none ∧ (loadable digestOf).libsReady [] [1] 0 = some none ∧
      (loadable digestOf).libsReady [] [7] 0 = some (some (loadErr 10 0))) ∧
    (loadable digestOf).imports (object 1 0 .wanted []) (sectionsOf image) (symsOf image (sectionsOf image)) 0 = .ok [] ∧
    (loadable digestOf).sharedCopy 0 (object 1 0 .wanted []) digestOf [] = some (object 2 1 .resident digestOf) ∧
    (loadable digestOf).baseFor 0 (object 1 0 .wanted []) (some (object 2 1 .resident digestOf)) = some 0 ∧
    ∃ bs, loadedBytes image (sectionsOf image) 0 (fun _ => 0) = .ok bs ∧
      ∃ v p pages, State.placePages 0 0 (sectionsOf image) bs (some (object 2 1 .resident digestOf)) (objPages (sectionsOf image)) (loadable digestOf) 0x20000 =
        (v, p, some pages) := by
  refine ⟨⟨rfl, rfl⟩, by decide +kernel, by decide +kernel, loadable_shares _, rfl, _, rfl, ?_⟩
  exact answered3 (by decide +kernel)
/-- A launch with a kernel that is idempotent; its context is enabled, and it is bound to a core. -/
def staying (l : Launch) (q : Seq) (sv : KV Saved) : State :=
  let s := bound l
  { s with mat := { Mat.reset with seqs := [(0, q)] }, disp := { s.disp with saved := sv } }
/-- The program of a launch whose drain has come to it. -/
def draining : State := staying { placing with draining := true } placedSeq []
/-- A launch that is being checkpointed, with one fibre between two instances, or within one. -/
def checkpointing (n : Option Inst) : State := core0 .none n fibre placedGather { launch with checkpoint := true }
theorem witness_DispatchEvents_preemption :
    ((bound placing).launch? 0 = some placing ∧ placing.st = .running ∧ placing.draining = false ∧ placing.killed = false ∧ placing.cancelled = false ∧
      placing.checkpoint = false ∧ placing.slice = false ∧ placing.kern = some kernel ∧ kernel.idem = true) ∧
    (draining.launch? 0 = some { placing with draining := true } ∧ draining.gathersOf 0 = [] ∧ draining.programsOver 0 = false ∧
      (draining.stopPrograms 0).mat.seqs.all (fun q => seqStill 0 q.2) = true ∧
      ∃ u, (draining.stopPrograms 0).spillPinned { placing with draining := true } ((draining.stopPrograms 0).tilesOf 0) = (u, none)) ∧
    ((checkpointing (some arrived)).launch? 0 = some { launch with checkpoint := true } ∧ ((checkpointing (some arrived)).stopLaunch 0).settled 0 = false) ∧
    (∃ u, ((checkpointing none).stopLaunch 0).settled 0 = true ∧ ((checkpointing none).stopLaunch 0).gathersOf 0 ≠ [] ∧
      ((checkpointing none).stopLaunch 0).spillPinned { launch with checkpoint := true } (((checkpointing none).stopLaunch 0).tilesOf 0) = (u, none) ∧
      (u.settleMemory 0 (u.setOf 0)).1.ms.posted = []) ∧
    (let l := { placing with st := .saved }
     let s := staying l newSeq [(0, ⟨[], [], [], [], [], []⟩)]
     s.launch? 0 = some l ∧ kvGet 0 s.disp.saved = some ⟨[], [], [], [], [], []⟩ ∧ l.kern = some kernel ∧ s.bindsOf 0 ≠ [] ∧ (ctxOf s l.ctx).en = true ∧
       (∃ u, s.readSaved (lehrOk (ctxOf s 0) s.clock) [] = (u, .ok [])) ∧ ∃ u, s.readSaved (lehrOk (ctxOf s 0) s.clock) [(0x100000, 8)] = (u, .error 0x100000)) := by
  refine ⟨by decide, ⟨by decide, by decide, by decide, by decide, _, Prod.ext rfl (by decide)⟩, by decide,
    ⟨_, by decide, by decide, Prod.ext rfl (by decide), by decide⟩, by decide, by decide, rfl, by decide, by decide, ⟨_, rfl⟩, _, Prod.ext rfl (by decide)⟩
/-- A slot attached to the launch's job, one of whose fibres is halted. -/
def attachedSlot : DbgSlot := ⟨0, false, false, [], true, []⟩
def debugging : State :=
  let s := core0 .none none { fibre with halt := true } placedGather launch
  { s with mg := { s.mg with dbg := [(0, attachedSlot)] } }
theorem witness_DispatchEvents_debug :
    (debugging.dbgSlot 0 = some attachedSlot ∧ debugging.inst? 0 = none ∧ debugging.fibre? 0 = some { fibre with halt := true } ∧ debugging.jobFibres 0 = [0] ∧
      debugging.gidFibres attachedSlot ((0 : BitVec 64).extractLsb' 32 32).toNat = [0] ∧ fiOf 0 = ((0 : BitVec 64).extractLsb' 22 10).toNat) ∧
    State.reset.dbgSlot 0 = none ∧
    (let s : State := { State.reset with mat := { Mat.reset with own := [(0, ⟨0x40, 0, 0, true, false, .home, 0⟩)] } }
     (s.own? 0 0).st = .home ∧ s.seq? 0 = none ∧ (s.own? 0 0).dirty = false) := by decide

/-! ### The part as a whole -/

/-- A function's mailbox with a request. -/
def asking (fn code : Nat) (taken : KV Dword) : State := { State.reset with
  disp := { Disp.reset with jobs := [(5, ⟨0, 0, 1, false, false⟩)], objs := [(1, object 1 5 .resident [])] }
  mg := { State.reset.mg with mail := [(fn, ⟨taken, taken, [], code, code, 0, false, true, none, 0⟩)], firmware := true } }
def jobConfig : Ctx := ⟨1, 0, 0xFFFFFFF000000007, 0, 0⟩
theorem witness_PartEvents_services :
    (∀ fn ∈ [0, 1], ∀ code ∈ [1, 2, 3, 4, 5, 6, 7], (asking fn code []).mg.firmware = true ∧ asked (asking fn code []) fn code) ∧
    (asking 1 1 [(1, 0)]).mayUse 1 0 = false ∧
    (let s := asking 0 1 [(0, 0x100000), (1, 0x0000000800050000)]
     let d1 := request s 0 1
     d1.extractLsb' 1 15 = 0 ∧ request s 0 7 = 0 ∧ request s 0 2 = 0 ∧ (d1.extractLsb' 16 16).toNat = 5 ∧ (kvGet 5 s.disp.jobs).isSome ∧
       (∃ u img, s.readImageAt (request s 0 0).toNat (d1.extractLsb' 32 32).toNat = (u, some img) ∧
         { u.mg with busErr := s.mg.busErr } = s.mg ∧ u.disp = s.disp) ∧ 5 * 2 ^ 48 + (kvGet 5 s.disp.serials).getD 1 * 2 ^ 16 < 2 ^ 64) ∧
    (let s := asking 0 2 [(0, 1)]
     s.obj? (request s 0 0).toNat = some (object 1 5 .resident []) ∧ (object 1 5 .resident []).registered = true ∧ s.obj? (request (asking 0 2 []) 0 0).toNat = none) ∧
    ((request (asking 0 3 [(1, 5)]) 0 1).extractLsb' 0 3 = 5 ∧ (asking 0 3 [(1, 5)]).mg.inval = none) ∧
    (let m := 2000 * 2 ^ 8 + 1
     ((request (asking 0 4 [(0, m)]) 0 0).extractLsb' 0 3).toNat = 1 ∧ ((request (asking 0 4 [(0, m)]) 0 0).extractLsb' 8 12).toNat = 2000 ∧
       ((request (asking 0 4 []) 0 0).extractLsb' 8 12).toNat < 1600) ∧
    (request (asking 0 6 [(0, 3)]) 0 0 = BitVec.ofNat 64 3 ∧ 8 ≤ ((request (asking 0 6 [(0, 9)]) 0 0).extractLsb' 0 8).toNat) ∧
    (let s := asking 0 7 [(0, 0), (1, 1), (2, 0), (3, 0xFFFFFFF000000007), (4, 0)]
     jobConfig = ⟨request s 0 1, request s 0 2, request s 0 3, request s 0 4, ((request s 0 0).extractLsb' 48 16).toNat⟩ ∧
       jobConfig.ctxid ∉ s.mg.ctxUsed ∧ (s.disp.ctxs.filter fun x => x.1 != jobConfig.ctxid && x.2.en).length < 1024 ∧ 2 ^ 64 - 2 ^ 57 ≤ jobConfig.sb ∧
       (ctxOf s jobConfig.ctxid).en = false ∧ ¬ 2 ^ 64 - 2 ^ 57 ≤ (⟨1, 0, 7, 0, 0⟩ : Ctx).sb) ∧
    request (asking 0 7 [(0, 3)]) 0 0 = 3 := by
  refine ⟨?_, by decide, ⟨by decide, by decide, by decide, by decide, by decide, ⟨_, [0, 0, 0, 0, 0, 0, 0, 0], Prod.ext rfl (by decide +kernel), by decide +kernel, by decide +kernel⟩, by decide⟩,
    ⟨rfl, rfl, rfl⟩, by decide, by decide, by decide, by decide, by decide⟩
  intro fn hf code hc
  simp only [List.mem_cons, List.not_mem_nil, or_false] at hf hc
  rcases hf with rfl | rfl <;> rcases hc with rfl | rfl | rfl | rfl | rfl | rfl | rfl <;> exact ⟨rfl, by decide, rfl, rfl, rfl⟩
/-- A reply that waits; a bridge whose lane has failed for good; a port that is down. -/
def replying : State := { State.reset with mg := { State.reset.mg with mail := [(0, ⟨[], [], [], 5, 5, 0, false, true, some (0, [1]), 0⟩)] } }
def bridged (b : Bridge) : State := { State.reset with mg := { State.reset.mg with bridges := [(3, b)], ports := [(3, ⟨4, false⟩)] } }
def failedBridge (spares : Nat) (up : Bool) : Bridge := ⟨8, 0, 0, false, up, 8, spares⟩
theorem witness_PartEvents_units :
    ((replying.mailbox 0).go = true ∧ (replying.mailbox 0).pending = some (0, [1]) ∧ (replying.mailbox 0).run = 5 ∧ (State.reset.mailbox 0).go = false) ∧
    (State.reset.mg.inval = none ∧ (5 : BitVec 64).extractLsb' 0 3 = 5 ∧ (0x01000001 : BitVec 64).getLsbD 0 = true) ∧
    (({ replying.mg with firmware := false } : Mgmt).firmware = false ∧ (0x08000001 : BitVec 64).extractLsb' 24 8 = 8 ∧ State.reset.mg.firmware = true) ∧
    ((List.replicate 8 (0 : Byte)).length ∈ [8, 16, 32, 64] ∧ (∀ k < 8, chipOf State.reset (0 + k) ≠ .absent) ∧ (List.replicate 4 (0 : Byte)).length ∉ [8, 16, 32, 64]) ∧
    (inMemory State.reset 0 4 ∧ State.reset.ms.poison = [] ∧ State.reset.ms.grants = [] ∧ (placeOf State.reset (2 ^ 51)).isMem = false) ∧
    (let s : State := { State.reset with ms := { State.reset.ms with tier := [(0, 2 ^ 30)], breads := [⟨2 ^ 44, 4, 0, 0, agentNode 0 0, placedAt.toNat⟩] } }
     s.ms.fills = [] ∧ s.fab.prods = [] ∧ s.fab.fibres = [] ∧ s.ms.copies = [] ∧ s.ms.walks = [] ∧ s.fab.insts = [] ∧ s.mat.seqs = [] ∧
       placeOf s (2 ^ 44) = .tier 0 ∧ s.sharers (lineOf (2 ^ 44)) = []) ∧
    (∀ n ∈ [0, 2], ∀ up, ((bridged (failedBridge n up)).bridge 3) = failedBridge n up) ∧
    ((State.reset.bridge 3).down = false ∧ (State.reset.bridge 3).fails < 8 ∧ (State.reset.bridge 3).fails ≠ 8) ∧
    ((State.reset.port 3).up = true ∧ ((bridged (failedBridge 0 false)).port 3).up = false) ∧
    (State.reset.mg.dies.getLsbD 0 = true ∧ ({ State.reset.mg with dies := 0xFE } : Mgmt).dies.getLsbD 0 = false ∧ 3 / 20 ∉ State.reset.mg.spareUsed) ∧
    (∀ i ∈ State.reset.fab.insts, i.2.holdsPower = false) ∧ State.reset.mg.power.req = [] ∧
    (State.reset.clock < State.reset.mg.power.last + 2 ^ 16 ∧ ({ State.reset with clock := 2 ^ 16 } : State).mg.power.last + 2 ^ 16 ≤ 2 ^ 16) ∧
    (State.reset.mg.power.budget ≤ max 1600 4000 ∧ max 1600 1000 < State.reset.mg.power.budget) := by
  refine ⟨by decide, by decide, by decide, by decide, ⟨by unfold inMemory; decide, by decide⟩, by decide, by decide, by decide, by decide, by decide, by decide, by decide, by decide, by decide⟩

/-! ### Clauses of the events that need a state of their own -/

/-- A fill of a line that is present; a line whose bytes are all old, alone in its cache; a held addition, evicted; the read of an ATOM
that has waited for the drains. -/
theorem witness_CoreEvents_more :
    (let s := fabricAt fun f => { f with ifills := [⟨0, placedAt.toNat / 128, true, false⟩], ilines := [codeLine] }
     (s.fabric 0).ifills = [⟨0, placedAt.toNat / 128, true, false⟩] ∧ (s.fabric 0).line? 0 (placedAt.toNat / 128) = some codeLine) ∧
    (let s : State := { mapped .none none 0 with clock := 2 ^ 15 }
     s.ms.hold = false ∧ (s.writeback 0 fun l => l == 0).ms.hold = false ∧
       ∀ q c, s.l1At 0 q = some c → c.at_ + 2 ^ 15 ≤ s.clock → lineOf q = lineOf 0) := by
  refine ⟨by decide, by decide, by decide, fun q c h _ => ?_⟩
  by_cases hq : q < 16
  · exact Nat.div_eq_of_lt (Nat.lt_trans hq (by decide))
  · obtain ⟨k, hk, he⟩ := List.mem_map.1 (mem_of_kvGet h)
    have : k = l1key 0 q := (Prod.mk.inj he).1
    simp only [List.mem_range, l1key, Nat.zero_mul, Nat.zero_add] at hk this
    omega
theorem witness_MemoryEvents_more :
    (let s : State := { State.reset with ms := { State.reset.ms with holders := [(l2key 0 5, ⟨⟨1, 0⟩, some .f32, [], []⟩)] } }
     5 ∈ s.heldLines 0 ∧ (s.copyOf 0 5).st = .i) ∧
    ((offered 5).ms.offers = [offer 5] ∧ (offered 5).ms.posted = [] ∧ (offer 5).late = [] ∧ (offer 5).die = homeOf (offered 5) ((offer 5).line * 128) ∧
      (∀ k < 4, lineOf ((offer 5).pa + k) = (offer 5).line) ∧ (offered 5).ms.poison.contains (offer 5).line = false ∧
      (((offered 5).share 0 0).copyOf 0 0).recs.length < 4 ∧
      ({ (offered 5) with ms := { (offered 5).ms with poison := [0] } } : State).ms.poison.contains (offer 5).line = true) ∧
    (State.reset.linesHeld 0 = [] ∧ State.reset.holderLines 0 = []) := by decide
/-- A gather that has offered additions, of a launch that drains or is being checkpointed; what its die's holder keeps cannot leave. -/
def offering (l : Launch) : State :=
  let s := core0 .none none fibre { placedGather with offered := true } l
  { s with ms := (stuckHolder 3).ms }
theorem witness_DispatchEvents_more :
    (let s : State := { offering { launch with draining := true } with fab := { Fab.reset with gathers := [(0, { placedGather with offered := true })] } }
     s.gather? 0 = some { placedGather with offered := true } ∧ s.gatherIdle 0 { placedGather with offered := true } = true ∧
      s.launch? 0 = some { launch with draining := true } ∧ s.heldLines 0 ≠ []) ∧
    (let s := offering { launch with checkpoint := true }
     let w := s.stopLaunch 0
     w.settled 0 = true ∧ w.gathersOf 0 ≠ [] ∧ ∃ u, w.spillPinned { launch with checkpoint := true } (w.tilesOf 0) = (u, none) ∧ (u.drainOffered 0).offersLeft 0 = true) ∧
    (let o : CodeObj := { object 1 0 .loading [] with err := 8 }
     let s : State := { State.reset with disp := { Disp.reset with objs := [(1, o)] } }
     s.obj? 1 = some o ∧ o.st = .loading ∧ o.err ≠ 0 ∧ s.disp.launches = [] ∧ s.mg.mail = [] ∧ s.mg.inval = none) ∧
    (∀ st ∈ [ObjState.resident, .evicting], let o : CodeObj := { object 1 0 st [] with registered := false, pages := [] }
      let s : State := { State.reset with disp := { Disp.reset with objs := [(1, o)] } }
      s.obj? 1 = some o ∧ s.refs o = 0 ∧ o.st = st ∧ o.registered = false) ∧
    (let l : Launch := { placing with st := .saved }
     let s := staying l newSeq [(0, ⟨[], [], [], [], [], []⟩)]
     (l.st = .saved ∨ l.st = .running) ∧ l.checkpoint = false ∧ l.killed = false ∧ s.bindsOf 0 ≠ [] ∧ (ctxOf s l.ctx).en = true ∧
       s.sectionsFit ⟨[], [], [], [], [], []⟩ = true) := by
  refine ⟨by decide +kernel, ⟨by decide +kernel, by decide +kernel, _, Prod.ext rfl (by decide +kernel), by decide +kernel⟩, by decide +kernel, ?_, by decide +kernel⟩
  intro st hst
  simp only [List.mem_cons, List.not_mem_nil, or_false] at hst
  rcases hst with rfl | rfl <;> decide +kernel
/-- A debug request for the record of a halted fibre; replies that wait for their service, and of a code that is none; a bridge that needs its
retraining; a power change that is pending. -/
def inspecting : State :=
  let s := asking 0 6 [(0, 18 * 256 + 1), (1, 0), (2, 0)]
  { s with
    fab := { Fab.reset with gathers := [(0, placedGather)], fibres := [(0, { fibre with halt := true })] }
    disp := { s.disp with launches := [(0, launch)] }
    mg := { s.mg with dbg := [(1, attachedSlot)] } }
theorem witness_PartEvents_more :
    (asked inspecting 0 6 ∧ request inspecting 0 0 = BitVec.ofNat 64 (18 * 256 + 1) ∧ inspecting.dbgSlot 1 = some attachedSlot ∧
      inspecting.haltedFibre attachedSlot (request inspecting 0 1) = some (0, { fibre with halt := true }, placedGather) ∧
      8 * (request inspecting 0 2).toNat < (inspecting.fibreRecord 0 placedGather { fibre with halt := true }).length) ∧
    (18 < ((request (asking 0 6 [(0, 19 * 256)]) 0 0).extractLsb' 8 8).toNat) ∧
    (let s := asking 0 9 []
     (s.mailbox 0).go = true ∧ (s.mailbox 0).pending = none ∧ s.mg.firmware = true ∧ 8 < (s.mailbox 0).run) ∧
    ((replying.mailbox 0).run ≠ 1 ∧ (replying.mailbox 0).run ≠ 3 ∧ replying.mg.firmware = true ∧ ({ replying.mg with firmware := false } : Mgmt).firmware = false ∧
      (replying.mailbox 0).run ≠ 8) ∧
    (let p : Power := { State.reset.mg.power with req := [(2, 2400)] }
     (p.req.getLast?.getD (if p.mode = 4 then 0 else p.mode, p.budget)).2 ≤ max 1600 2500 ∧ max 1600 2000 < (p.req.getLast?.getD (if p.mode = 4 then 0 else p.mode, p.budget)).2) := by
  refine ⟨⟨⟨by decide, by decide, by decide, by decide⟩, by decide +kernel, by decide +kernel, by decide +kernel, by decide +kernel⟩, by decide, by decide, by decide, by decide⟩

/-! ### Further clauses -/

/-- A list of finite terms, one with a NaN, and one with an infinity of one sign only. -/
theorem witness_FloatSumsAndProductsAreExact_lists :
    (∀ x ∈ [FV.fin true 0 0, .fin false 3 1, .fin true 5 0], ∃ s m e, x = .fin s m e) ∧ FV.nan ∈ [FV.nan] ∧
    (FV.inf true ∈ [FV.inf true] ∧ FV.nan ∉ [FV.inf true] ∧ FV.inf false ∉ [FV.inf true]) := by
  refine ⟨?_, by decide, by decide⟩
  intro x hx
  simp only [List.mem_cons, List.not_mem_nil, or_false] at hx
  rcases hx with rfl | rfl | rfl <;> exact ⟨_, _, _, rfl⟩
/-- A fibre whose call stack's entry keeps the window in its allocation, or does not. -/
def returnable (w : Nat) : Fibre := { fibre with stack := [⟨0x1000, w⟩] }
theorem witness_ReturnsExitsAndYields_window :
    (∀ w ∈ [0, 1], let s := core0 (.node 0 0) (some arrived) (returnable w) placedGather launch
      s.cur = .node 0 0 ∧ s.inst? 0 = some arrived ∧ s.fibre? 0 = some (returnable w) ∧ s.gather? (gatherOf 0) = some placedGather ∧
        (returnable w).eff.stack = [⟨0x1000, w⟩]) ∧
    fits placedGather.wsize ((0 : Nat) : Int) ∧ ¬ fits placedGather.wsize ((1 : Nat) : Int) := by
  refine ⟨by decide, ?_, ?_⟩ <;> (unfold fits; decide)
theorem witness_CommitWritesAndMoves_exit : fibre.held = [] ∧ exiting.xfer = some .exit := ⟨rfl, rfl⟩
/-- An aperture access that leaves the allocation, one that is misaligned in it, one that is neither; accesses of the on-chip map that are too
narrow, and a store of 8 bytes to a tile of no job. -/
theorem witness_AccessesThatFailTheirChecks_inside :
    let own (a : Nat) : Prop := (ctxOf (atNode 0) 0).inAperture a = true ∧ a - (ctxOf (atNode 0) 0).sb < roomy.spSize
    ((atNode 0).whoNode 0 0).ga = some roomy ∧
    ((vaBytes (apertureAt.toNat + 1020) 8).any (ctxOf (atNode 0) 0).inAperture = true ∧ ∃ a ∈ vaBytes (apertureAt.toNat + 1020) 8, ¬ own a) ∧
    ((∀ a ∈ vaBytes (apertureAt.toNat + 1018) 4, own a) ∧ (apertureAt.toNat + 1018) % 4 ≠ 0) ∧
    ((∀ a ∈ vaBytes (apertureAt.toNat + 1020) 4, own a) ∧ (apertureAt.toNat + 1020) % 4 = 0) := by
  refine ⟨by decide, by decide, by decide, by decide⟩
theorem witness_AccessesThatFailTheirChecks_onchip :
    (∀ need ∈ [needR, needW], ((elsewhere (2 ^ 40)).resolve ((elsewhere (2 ^ 40)).whoNode 0 0) placedAt.toNat 4 4 need).2 = .onchip 0 0) ∧
    (∃ u, (elsewhere (2 ^ 40 + 2 ^ 25)).resolve ((elsewhere (2 ^ 40 + 2 ^ 25)).whoNode 0 0) placedAt.toNat 8 8 needW = (u, .onchip (2 ^ 25) 0) ∧
      u.chipStoreBad (2 ^ 25) ((elsewhere (2 ^ 40 + 2 ^ 25)).jobOf 0) = true) :=
  ⟨by decide, _, Prod.ext rfl (by decide), by decide⟩
/-- Sequencer code at the aperture, at a misaligned address, in the on-chip map, and at a poisoned line. -/
def seqOn (l : Leaf) (poison : List Nat) : State :=
  { seqMapped with ms := { seqMapped.ms with
      tlb := [], fresh := [(agentSeq 0, .leaf l true)], poison := poison }
                   disp := { Disp.reset with ctxs := [(0, ⟨1, 0, 0xFFFFFFF000010000, 0, 0⟩)] } }
theorem witness_SequencerAccesses_faults :
    (vaBytes apertureAt.toNat 2).any (ctxOf seqMapped placedSeq.ctx).inAperture = true ∧
    (∀ need ∈ [needR, needW], (seqMapped.resolve (seqMapped.whoSeq 0 seqPointing) (placedAt.toNat + 1) 2 2 need).2 = .bad ⟨0x0B, placedAt.toNat + 1⟩) ∧
    (∀ need ∈ [needR, needW], ((seqOn (pageAt (2 ^ 40)) []).resolve (seqMapped.whoSeq 0 seqPointing) placedAt.toNat 2 2 need).2 = .onchip 0 0) ∧
    ∃ u, (seqOn (page 0) [0]).resolve (seqMapped.whoSeq 0 seqPointing) placedAt.toNat 2 2 needR = (u, .mem [0, 1] (page 0)) ∧
      u.underWay (dieOfCl 0) (agentSeq 0) [0, 0] = false ∧ (page 0).bound u placedAt.toNat = none ∧ (u.poisoned [0, 1]).isSome = true :=
  ⟨by decide, by decide, by decide, _, Prod.ext rfl (by decide), by decide, by decide, by decide⟩
/-- A core with a dirty byte of a line that die 1 owns; a token of class 0 holds its circuit back, or one of class 1 does not. -/
def dirtyAt (cls : Nat) (op : Instr) (x : Fibre) : State :=
  let s := posting x (keptOp op 0 0 none) placedGather
  { s with ms := { s.ms with
      l1 := [(l1key 0 (2 ^ 37), ⟨7, true, 0, 0⟩)]
      l1tag := [(2 ^ 30, ⟨0, false⟩)]
      posted := [{ token (.write [] none none) with cls := cls, sent := false }] } }
abbrev Undrained (cls : Nat) (op : Instr) : Bool := ((dirtyAt cls op fibre).drainSome 0 []).undrained 0 []
theorem witness_FencesReleaseAndAcquire_held :
    (∀ cls ∈ [0, 1], let op := Instr.fence 3 3 1
      heads (dirtyAt cls op fibre) 0 { fibre with post := [keptOp op 0 0 none] } (keptOp op 0 0 none) [] ∧ (dirtyAt cls op fibre).loadsOf 0 = [] ∧
        below (3 : BitVec 7) = true ∧ ¬ awaitsPeers (dirtyAt cls op fibre) 0 3 ∧ Undrained cls op = (cls == 0)) ∧
    (∀ cls ∈ [0, 1], let s := dirtyAt cls (.fence 3 1 0) fibre
      let t : State := { s with ms := { s.ms with drains := [⟨agentNode 32 127, 7, { core := 0, inc := 0, rgx := [] }⟩] } }
      ∃ d, t.ms.drains[0]? = some d ∧ fresh t (d.copy, d.record) ∧ (t.drainSome d.record.core d.record.rgx).undrained d.record.core d.record.rgx = (cls == 0)) := by
  refine ⟨?_, ?_⟩ <;> intro cls hc <;> simp only [List.mem_cons, List.not_mem_nil, or_false] at hc <;> rcases hc with rfl | rfl
  · exact ⟨⟨by decide, by decide, by decide, by decide⟩, by decide, by decide, by unfold awaitsPeers; decide, by decide⟩
  · exact ⟨⟨by decide, by decide, by decide, by decide⟩, by decide, by decide, by unfold awaitsPeers; decide, by decide⟩
  · exact ⟨_, rfl, by unfold fresh; decide, by decide⟩
  · exact ⟨_, rfl, by unfold fresh; decide, by decide⟩
/-- A LAUNCH that has come to its last stage, with the record of one gather at the placed address and queue 3; EFORK, RDV and LAUNCH behind a
line that cannot leave; a CANCEL of the fibre's own job. -/
def launching (d1 : BitVec 64) (count : Nat) (mem : KV Byte) : State :=
  let s := posting { fibre with stage := 2 } (keptOp (.launch (.w 0) (.v 0) (.v 1)) placedAt 3 none) placedGather
  { s with disp := { s.disp with queues := [(3, { ring with d0 := 0x100001, d1 := d1, count := count })] }
           ms := { s.ms with tlb := [⟨0, .leaf (page 0)⟩, ⟨2000, .leaf (page 0)⟩], mem := mem } }
abbrev recordOf (s : State) : State × Except Bad (List Byte) := s.readVirt (coreOf 0) (dieOf 0) (s.ctxOfFibre 0) placedAt.toNat 64
/-- Whether the record is malformed, and whether its ranges are read. -/
def judged (mem : KV Byte) : Option (Bool × Bool) :=
  let r := recordOf (launching 1 0 mem)
  r.2.toOption.map fun bs => (recBad (dwordsOf bs), (r.1.readRanges (coreOf 0) (dieOf 0) (r.1.ctxOfFibre 0) (dwordsOf bs)).2.toOption.isSome)
theorem witness_FibresWorkTogether_launch :
    (∀ d1 ∈ [0, 1, 2 ^ 48 + 1], let s := launching d1 0 [(8, 1)]
      let p := keptOp (.launch (.w 0) (.v 0) (.v 1)) placedAt 3 none
      heads s 0 { fibre with stage := 2, post := [p] } p [] ∧ p.a.toNat % 64 = 0 ∧ p.b.toNat < 2048) ∧
    (((launching 0 0 []).queue 3).en = false ∧ ((launching (2 ^ 48 + 1) 0 []).queue 3).job ≠ 0 ∧ ((launching 1 0 []).queue 3).job = (launching 1 0 []).jobOf 0 ∧
      ((launching 1 0 []).queue 3).en = true ∧ ((launching 1 0 []).queue 3).count < ((launching 1 0 []).queue 3).size ∧
      ((launching 1 32 []).queue 3).size ≤ ((launching 1 32 []).queue 3).count) ∧
    (let s := { launching 1 0 [] with ms := State.reset.ms }
     (recordOf s).2.toOption = none) ∧
    (judged []).map (·.1) = some true ∧ judged [(8, 1)] = some (false, true) ∧
    judged [(8, 1), (42, 0x10)] = some (false, false) := by
  refine ⟨?_, by decide, by decide +kernel, by decide +kernel, by decide +kernel, by decide +kernel⟩
  intro d hd
  simp only [List.mem_cons, List.not_mem_nil, or_false] at hd
  rcases hd with rfl | rfl | rfl <;> exact ⟨⟨by decide, by decide, by decide, by decide⟩, by decide, by decide⟩
theorem witness_FibresWorkTogether_held :
    (∀ cls ∈ [0, 1], ∀ op ∈ [Instr.efork (.w 0) (.v 0) (.v 1), .rdv 1, .launch (.w 0) (.v 0) (.v 1)],
      (dirtyAt cls op fibre).loadsOf 0 = [] ∧ ((dirtyAt cls op fibre).fibre? 0).map (·.stage) = some 0 ∧ Undrained cls op = (cls == 0)) ∧
    (∀ j ∈ [0, 5], let p := keptOp (.cancel (.w 0) (.v 0) 3) (BitVec.ofNat 64 j) 0 none
      heads (posting fibre p placedGather) 0 { fibre with post := [p] } p [] ∧
        (p.a.toNat % 2 ^ 16 = (posting fibre p placedGather).jobOf 0 ↔ j = 0)) := by
  refine ⟨by decide, ?_⟩
  intro j hj
  simp only [List.mem_cons, List.not_mem_nil, or_false] at hj
  rcases hj with rfl | rfl <;> exact ⟨⟨by decide, by decide, by decide, by decide⟩, by decide⟩
/-- A first-level flush that a circuit holds back, or nothing. -/
theorem witness_CoreEvents_flush : ∀ cls ∈ [0, 1], let s := dirtyAt cls (.rdv 1) fibre
    let t := s.setPart 0 { partOf s 0 with flush := true }
    (partOf t 0).flush = true ∧ ((t.writebackSome 0 fun _ => true).dirtyLines 0 (fun _ => true) = [] ↔ cls = 1) := by decide
/-- A RED and an addition at their home; a drain of one sum; a line of no die; two contexts that ask the host for a page; a write to the host. -/
theorem witness_MemoryEvents_home :
    (let p := token (.red 2 false 4 1 none)
     firstOnCircuit (posted [p]) 0 p ∧ (posted [p]).outdated p = false ∧ redRow 2 .redAdd fnAdd true ∈ redRows ∧ 4 % (atomWidth false / 8) = 0 ∧
       (posted [p]).ms.poison.contains (lineOf 4) = false ∧ noRecords (posted [token (.red 2 false 4 1 (some (record 0).2))]) (lineOf 4)) ∧
    (let p := token (.add 0 31 .f32 1)
     firstOnCircuit (posted [p]) 0 p ∧ (posted [p]).outdated p = false ∧ (31 + 1) * BKind.f32.bytes ≤ 128 ∧ (posted [p]).ms.poison.contains 0 = false) ∧
    (let p := token (.drain 0 0 .f32 [(31, 1)] none)
     firstOnCircuit (posted [p]) 0 p ∧ (posted [p]).outdated p = false) ∧
    (∃ a b, ({ State.reset with ms := { State.reset.ms with ats := [⟨1, 8, false, none, [hostWaiter]⟩, ⟨1, 8, true, none, [hostWaiter]⟩] } } : State).ms.ats = [a, b] ∧
      a.func = b.func ∧ a.page = b.page ∧ a.usePri = false ∧ b.usePri = true ∧ b.pri = none ∧ a.waiters = [hostWaiter]) ∧
    (hostWriteOut (posted [token (.write [(2 ^ 51, 1)] none none)]) ∧ ¬ hostWriteOut (posted [written])) := by
  refine ⟨⟨⟨rfl, rfl, by decide⟩, by decide, by simp [redRows], by decide, by decide, by unfold noRecords; decide⟩, ⟨⟨rfl, rfl, by decide⟩, by decide, by decide, by decide⟩,
    ⟨⟨rfl, rfl, by decide⟩, by decide⟩, ⟨_, _, rfl, by decide⟩, ⟨_, List.mem_singleton.2 rfl, _, _, _, rfl, (2 ^ 51, 1), List.mem_singleton.2 rfl, by decide⟩, ?_⟩
  rintro ⟨p, hp, cs, own, op, hw, c, hc, h⟩
  rw [List.mem_singleton.1 hp] at hw
  cases hw
  simp only [List.mem_cons, List.not_mem_nil, or_false] at hc
  rcases hc with rfl | rfl <;> exact absurd h (by decide)
/-- A gather that ends with nothing or with a line to write back; a checkpoint likewise; an object whose code a launch needs. -/
theorem witness_DispatchEvents_lines :
    (∀ cls ∈ [0, 1], let s : State := { dirtyAt cls (.rdv 1) fibre with fab := { Fab.reset with gathers := [(0, placedGather)] } }
      s.gather? 0 = some placedGather ∧ s.gatherIdle 0 placedGather = true ∧ s.undrained placedGather.core [] = true) ∧
    (∀ cls ∈ [0, 1], let w := ({ checkpointing none with ms := (dirtyAt cls (.rdv 1) fibre).ms } : State).stopLaunch 0
      let r := w.spillPinned { launch with checkpoint := true } (w.tilesOf 0)
      let d := r.1.drainOffered 0
      w.settled 0 = true ∧ w.gathersOf 0 ≠ [] ∧ r.2 = none ∧ d.offersLeft 0 = false ∧ (d.settleMemory 0 (d.setOf launch.job)).2 = (cls == 0)) ∧
    (({ core0 .none none fibre placedGather launch with fab := { Fab.reset with gathers := [(0, placedGather)] } } : State).undrained 0 [] = false) ∧
    (∀ st ∈ [ObjState.resident, .evicting], let o : CodeObj := { object 1 0 st [] with pages := [] }
      let s : State := { State.reset with disp := { Disp.reset with objs := [(1, o)] } }
      s.obj? 1 = some o ∧ o.st = st ∧ o.registered = true ∧ s.refs o = 1) := by
  refine ⟨by decide +kernel, by decide +kernel, by decide, by decide +kernel⟩

/-! ### Operands, encoding and steps -/

theorem witness_OperandsReadAsNamed : kvGet (0 : BitVec 6).toNat arrived.toks = some (.val 5) ∧ kvGet (3 : BitVec 6).toNat arrived.toks = none ∧
    kvGet (0 : Fin 48).val { arrived with live := [(0, 9)] }.live = some 9 := by decide
theorem witness_DecodingUndoesEncoding : Instr.wellFormed false (.bri (.w 47)) = true ∧ encode (.bri (.w 47)) ≠ [] ∧ sequencerOnly (.bri (.w 47)) = false ∧
    Instr.wellFormed true (.mma (.v 1) (.v 2) (.v 3)) = true ∧ (Instr.mma (.v 1) (.v 2) (.v 3)).seqOk = true ∧ encode (.mma (.v 1) (.v 2) (.v 3)) ≠ [] := by decide
theorem witness_WordsDecodeAsStated : (0x00000001 : Word).extractLsb' 27 5 = 0 ∧ (0x08140000 : Word).extractLsb' 27 5 = 1 ∧
    (0xF8000000 : Word).extractLsb' 27 5 = 0x1F ∧ (wordA 0x1D 1 2 3 0).extractLsb' 27 5 = 0x1D ∧
    (0x10180032 : Word).extractLsb' 27 5 = 2 ∧ (0x10180032 : Word).extractLsb' 20 7 ≠ 0 := by decide
/-- A step is taken, from a state whose memory is canonical. -/
theorem witness_StepsKeepMemoryCanonical : Safety.MemoryCanonical State.reset ∧ step State.reset = .next State.reset.tick := ⟨by unfold Safety.MemoryCanonical; decide, rfl⟩
/-- An event of the agenda that nothing holds back, and a coherence request that a token of its circuit holds back. -/
def agendaOf (held : Bool) : State := { State.reset with
  agenda := if held then [.coherenceRequest 1 0 ⟨false, .clean⟩] else [.powerChangeApply]
  ms := { State.reset.ms with posted := if held then [{ token (.fence 7) with src := 1, dst := 0, sent := false }] else [] } }
/-- Node 0 of an instance, the head of a fibre's queue, a commit and a sequencer move next; a move needs what has to wait. -/
theorem witness_AStepRunsTheDecodedInstruction :
    (State.reset.fab.cores = [] ∧ State.reset.mat.seqs = [] ∧ State.reset.ms.l1 = [] ∧ State.reset.mg.dbg = []) ∧
    (∃ t, exec .powerChangeApply { (agendaOf false).tick with agenda := [], cur := .none } = .next t ∧ t.trim.trimAts.ms.hold = false) ∧
    (∃ t, exec (.coherenceRequest 1 0 ⟨false, .clean⟩) { (agendaOf true).tick with agenda := [], cur := .none } = .next t ∧ t.trim.trimAts.ms.hold = true) ∧
    (State.reset.agenda = [] ∧ State.reset.tick.nextMove = none) ∧
    (let s := State.reset.placeNode [0xF0000007]
     s.tick.nextMove = some (.node 0 0) ∧ s.tick.inst? 0 = some (placedInst [0xF0000007]) ∧ 0 ∈ (nodesOf (placedInst [0xF0000007]).body).map (·.1) ∧
       decode false ((placedInst [0xF0000007]).body.drop 0) = .ok (.nop, [])) ∧
    (let s := { posting fibre (keptOp (.fence 3 1 0) 0 0 none) placedGather with focus := .fibre 0 }
     s.agenda = [] ∧ s.tick.nextMove = some (.post 0)) ∧
    (let s : State := { core0 .none (some complete) fibre placedGather launch with focus := .fibre 0 }
     s.tick.nextMove = some (.event (.commit 0)) ∧ (s.tick.fab.insts = [(0, complete)] ∧ s.tick.fab.fibres = [(0, fibre)]) ∧
       ({ s.tick with cur := .none } : State).commitReady 0 fibre complete = true) ∧
    (walking true).tick.nextMove = some (.event (.pageWalkComplete 0)) ∧
    (let s := State.reset.placeSeq [0xF0000007]
     s.tick.nextMove = some (.seq 0) ∧ s.tick.seq? 0 = some placedSeq ∧ goodTarget placedSeq.pc.toNat = true ∧
       ∃ u ws p r, (s.tick.setSeq 0 { placedSeq with stall := 0 }).seqFetch 0 0 placedSeq.pc.toNat 5 = (u, ws, none) ∧ parseOk true ws = .ok (p, r) ∧ p.seqOk = true) := by
  refine ⟨by decide, ⟨_, rfl, by decide⟩, ⟨_, rfl, by decide⟩, by decide, by decide, by decide, by decide, by decide, by decide, by decide, by decide,
    _, [0xF0000007, 0, 0, 0, 0], .whole .nop, [0, 0, 0, 0], Prod.ext rfl (by decide), by decide, by decide⟩

end Sys2Proof.Tests
end

section
/-! The traffic of lines between dies (R91, R94, R95) is made of a few steps, each of which changes the circuits, the second-level
copies or the states of window words. A relation between states that holds of those steps holds of the traffic. -/
namespace Sys2Proof.Machine

/-- A preorder that holds of every step of the traffic. -/
structure Traffic (R : State → State → Prop) : Prop where
  refl : ∀ s, R s s
  trans : ∀ {s t u}, R s t → R t u → R s u
  holdBack : ∀ s : State, R s s.holdBack
  setAllowance : ∀ (s : State) c h n, R s (s.setAllowance c h n)
  setCopy : ∀ (s : State) d l c, R s (s.setCopy d l c)
  staleWin : ∀ (s : State) w hit, R s (s.staleWin w hit)

section
variable {R : State → State → Prop}
/-- Either of two changes. -/
theorem either {s t u : State} {c : Prop} [Decidable c] (h : R s t) (k : R s u) : R s (if c then t else u) := by
  split <;> assumption
/-- A fold of steps of a preorder. -/
theorem folded {α : Type} (refl : ∀ s, R s s) (trans : ∀ {s t u}, R s t → R t u → R s u) (f : State → α → State)
    (h : ∀ s a, R s (f s a)) : ∀ (l : List α) (s : State), R s (l.foldl f s)
  | [], s => refl s
  | a :: r, s => trans (h s a) (folded refl trans f h r (f s a))

variable (T : Traffic R)
include T

theorem Traffic.foldl {α : Type} (f : State → α → State) (h : ∀ s a, R s (f s a)) : ∀ (l : List α) (s : State), R s (l.foldl f s) :=
  folded T.refl T.trans f h
theorem Traffic.staleWins (s : State) (ws : List (Nat × Nat)) (hit : Nat → Bool) (but : Option WinLine) :
    R s (s.staleWins ws hit but) := T.foldl _ (fun s w => either (T.refl s) (T.staleWin s w hit)) ws s
theorem Traffic.afterOwn (s : State) (d l : Nat) : R s (s.afterOwn d l) := either (T.holdBack s) (T.refl s)
theorem Traffic.spend (s : State) (c h : Nat) : R s (s.spend c h) := T.foldl _ (fun s k => T.setAllowance s c k _) _ s
theorem Traffic.send (s : State) (a b c : Nat) : R s (s.send a b c) := either (T.refl s) (either (T.holdBack s) (T.spend s _ _))
/-- A token and its answer. -/
theorem Traffic.sends (s : State) (a b c d e f : Nat) : R s ((s.send a b c).send d e f) := T.trans (T.send s a b c) (T.send _ d e f)
theorem Traffic.sendRequest (s : State) (d l : Nat) (ds : List Nat) : R s (s.sendRequest d l ds) := by
  have h : R s ((s.admitted d).send d (homeOf s (l * 128)) 0) := T.trans (either (T.holdBack s) (T.refl s)) (T.send _ _ _ _)
  have tier (t : State) : R t (t.sendTier l) := either (T.refl t) (T.sends t _ _ _ _ _ _)
  exact either (T.trans (T.trans h (tier _)) (T.send _ _ _ _)) (T.trans h (T.foldl _ (fun t _ => T.sends t _ _ _ _ _ _) _ _))
theorem Traffic.own (s : State) (d l : Nat) (but : Option WinLine) : R s (s.own d l but) := by
  unfold State.own
  extract_lets t c others u home gone recs v shared
  have ht : R s t := T.afterOwn s d l
  have hu : R t u := T.sendRequest t d l others
  have hv : R u v := T.foldl _ (fun s d => T.trans (T.staleWins s _ _ _) (T.setCopy _ d l _)) gone u
  exact T.trans ht (either (T.setCopy t _ _ _) (T.trans (T.trans hu hv) (T.setCopy v _ _ _)))
theorem Traffic.share (s : State) (d l : Nat) : R s (s.share d l) := by
  unfold State.share
  extract_lets t others owner u recs v
  have ht : R s t := T.afterOwn s d l
  have hu : R t u := T.sendRequest t d l owner
  have hv : R u v := T.foldl _ (fun s d => T.setCopy s d l _) owner u
  exact T.trans ht (either (T.refl t) (T.trans (T.trans hu hv) (T.setCopy v _ _ _)))
end

end Sys2Proof.Machine
end

section
/-! What the part's units are to each other, and what no memory access, cancellation or trap changes of it: bridges, ports, the dies in
service, the spares used, the incarnations (R98, R105, R456, R459, R461), and which clusters have a sequencer program. `Steady s t`
is to these what `Quiet` is to the cores. -/
namespace Sys2Proof.Machine

/-- The state of the part's units: what a failure, a retraining or a rejoining changes. -/
structure Units where
  bridges : KV Bridge
  ports : KV Port
  dies : BitVec 8
  degraded : Bool
  spareUsed : List Nat
  inc : KV Nat

def State.units (s : State) : Units :=
  ⟨s.mg.bridges, s.mg.ports, s.mg.dies, s.mg.degraded, s.mg.spareUsed, s.ms.inc⟩

/-- The units stay as they are, and no cluster without a sequencer entry gets one. -/
structure Steady (s t : State) : Prop where
  units : t.units = s.units
  idle : ∀ c, s.seq? c = none → t.seq? c = none

/-- A change of anything else. -/
theorem Steady.elsewhere {s t : State} (hu : t.units = s.units) (hq : t.mat.seqs = s.mat.seqs) : Steady s t :=
  ⟨hu, fun c h => by rw [State.seq?, hq]; exact h⟩
theorem Steady.refl (s : State) : Steady s s := .elsewhere rfl rfl
theorem Steady.trans {s t u : State} (h : Steady s t) (k : Steady t u) : Steady s u :=
  ⟨k.units.trans h.units, fun c hc => k.idle c (h.idle c hc)⟩
theorem Steady.ite {s t u : State} {c : Prop} [Decidable c] (h : Steady s t) (k : Steady s u) : Steady s (if c then t else u) :=
  either h k
theorem Steady.foldl {α : Type} (f : State → α → State) (h : ∀ s a, Steady s (f s a)) :
    ∀ (l : List α) (s : State), Steady s (l.foldl f s) := folded .refl .trans f h
/-- A fold that carries more than the state. -/
theorem Steady.foldl_fst {α β : Type} (f : State × β → α → State × β) (h : ∀ p a, Steady p.1 (f p a).1) :
    ∀ (l : List α) (p : State × β), Steady p.1 (l.foldl f p).1
  | [], p => Steady.refl p.1
  | a :: r, p => (h p a).trans (Steady.foldl_fst f h r (f p a))
/-- A function that answers more than the state, whose answer is at hand. -/
theorem Steady.answered {α : Type} {s t : State} {p : State × α} {a : α} (h : Steady s p.1) (e : p = (t, a)) : Steady s t := by
  subst e; exact h
/-- What the units say of a port, the dies, the spares and an incarnation. -/
theorem Steady.port {s t : State} (h : Steady s t) (p : Nat) : t.port p = s.port p :=
  congrArg (fun u : Units => kvGetD p (⟨4, true⟩ : Port) u.ports) h.units
theorem Steady.dies {s t : State} (h : Steady s t) : t.mg.dies = s.mg.dies := congrArg Units.dies h.units
theorem Steady.degraded {s t : State} (h : Steady s t) : t.mg.degraded = s.mg.degraded := congrArg Units.degraded h.units
theorem Steady.spareUsed {s t : State} (h : Steady s t) : t.mg.spareUsed = s.mg.spareUsed := congrArg Units.spareUsed h.units
theorem Steady.inc {s t : State} (h : Steady s t) : t.ms.inc = s.ms.inc := congrArg Units.inc h.units
theorem Steady.coreInc {s t : State} (h : Steady s t) (c : Nat) : t.coreInc c = s.coreInc c := by
  rw [State.coreInc, h.inc, State.coreInc]

/-! ## Traffic between dies, and writes -/

theorem Steady.traffic : Traffic Steady where
  refl := .refl
  trans := .trans
  holdBack _ := .elsewhere rfl rfl
  setAllowance _ _ _ _ := .elsewhere rfl rfl
  setCopy _ _ _ _ := .elsewhere rfl rfl
  staleWin _ _ _ := .elsewhere rfl rfl
theorem Steady.staleWins (s : State) (ws : List (Nat × Nat)) (hit : Nat → Bool) (but : Option WinLine) :
    Steady s (s.staleWins ws hit but) := traffic.staleWins s ws hit but
theorem Steady.spend (s : State) (c h : Nat) : Steady s (s.spend c h) := traffic.spend s c h
theorem Steady.send (s : State) (a b c : Nat) : Steady s (s.send a b c) := traffic.send s a b c
theorem Steady.visit (s : State) (d l : Nat) : Steady s (s.visit d l) := traffic.sends s _ _ _ _ _ _
theorem Steady.setCopy (s : State) (d l : Nat) (c : L2Line) : Steady s (s.setCopy d l c) := .elsewhere rfl rfl
theorem Steady.own (s : State) (d l : Nat) (but : Option WinLine) : Steady s (s.own d l but) := traffic.own s d l but
theorem Steady.share (s : State) (d l : Nat) : Steady s (s.share d l) := traffic.share s d l
theorem Steady.logEvent (s : State) (k d u i : Nat) : Steady s (s.logEvent k d u i) := .elsewhere rfl rfl
theorem Steady.writeLine (s : State) (d l : Nat) (cs : List (Nat × Byte)) (c : Bool) (but : Option WinLine) :
    Steady s (s.writeLine d l cs c but) := by
  unfold State.writeLine
  refine .ite (.logEvent _ _ _ _ _) (Steady.trans ?_ (.staleWins _ _ _ _))
  exact (Steady.own s d l but).trans (.elsewhere rfl rfl)
theorem Steady.writeAt (s : State) (d : Nat) (cs : List (Nat × Byte)) (c : Bool) (but : Option WinLine) :
    Steady s (s.writeAt d cs c but) := .foldl _ (fun _ _ => .writeLine _ _ _ _ _ _) _ _
theorem Steady.readAt (s : State) (d : Nat) (p : List Nat) : Steady s (s.readAt d p).1 := .foldl _ (fun _ _ => .share _ _ _) _ _
theorem Steady.poisonLine (s : State) (l : Nat) : Steady s (s.poisonLine l) := .elsewhere rfl rfl

/-! ## Acting for another agent -/

theorem Steady.asAgent (s : State) (a : Agent) (m : State → State) (h : ∀ t, Steady t (m t)) : Steady s (s.asAgent a m) :=
  have k := h { s with cur := a }
  ⟨k.units, k.idle⟩
theorem Steady.onSet (s : State) (n : Nat) (m : State → State) (h : ∀ t, Steady t (m t)) : Steady s (s.onSet n m) := .asAgent s _ _ h
theorem Steady.readOnSet {α : Type} (s : State) (n : Nat) (m : State → State × α) (h : ∀ t, Steady t (m t).1) :
    Steady s (s.readOnSet n m).1 :=
  have k := h { s with cur := .token n }
  ⟨k.units, k.idle⟩

/-! ## First-level caches -/

theorem Steady.setL1 (s : State) (m : KV L1Byte) : Steady s (s.setL1 m) := .elsewhere rfl rfl
theorem Steady.l1Unpoison (s : State) (c : Nat) (ls : List Nat) : Steady s (s.l1Unpoison c ls) := .ite (.refl s) (.elsewhere rfl rfl)
theorem Steady.partClean (s : State) (c l n : Nat) : Steady s (s.partClean c l n) :=
  .ite (.refl s) (((Steady.onSet s _ _ fun _ => .writeLine _ _ _ _ _ _).trans (.setL1 _ _)).trans (.l1Unpoison _ _ _))
theorem Steady.flushLines (s : State) (c : Nat) (p : List Nat) : Steady s (s.flushLines c p) :=
  .foldl _ (fun _ _ => .foldl _ (fun _ _ => .partClean _ _ _ _) _ _) _ _
theorem Steady.l1Drop (s : State) (c : Nat) (p : List Nat) : Steady s (s.l1Drop c p) := .elsewhere rfl rfl
theorem Steady.pastL1 (s : State) (p : List Nat) : Steady s (s.pastL1 p) := by
  unfold State.pastL1
  split
  · exact (Steady.flushLines _ _ _).trans (.l1Drop _ _ _)
  · exact .refl s

/-! ## Holders -/

theorem Steady.applySums (s : State) (l : Nat) (k : BKind) (p : KV Word) : Steady s (s.applySums l k p) :=
  .ite (.refl s) (.ite (.logEvent _ _ _ _ _) (.foldl _ (fun _ _ => .writeLine _ _ _ _ _ _) _ _))
theorem Steady.giveBack (s : State) (d l : Nat) (x : Dy) : Steady s (s.giveBack d l x) := by
  unfold State.giveBack
  split
  · exact .refl s
  · exact .elsewhere rfl rfl
theorem Steady.applyPosted (s : State) (d l : Nat) : Steady s (s.applyPosted d l) := by
  unfold State.applyPosted
  dsimp only
  refine Steady.trans (t := { s with ms := { s.ms with posted := s.ms.posted.filter fun p => !isDrainOf d l p } }) (.elsewhere rfl rfl) ?_
  refine .foldl _ (fun s p => .ite (.refl s) ?_) _ _
  split
  · split
    · exact (Steady.applySums _ _ _ _).trans (.giveBack _ _ _ _)
    · exact .applySums _ _ _ _
  · exact .refl s
theorem Steady.forceDrain (s : State) (d l : Nat) : Steady s (s.forceDrain d l) := by
  unfold State.forceDrain
  have drop (t : State) : Steady t (t.dropHolder d l) := .elsewhere rfl rfl
  exact ((((Steady.send s _ _ _).trans (.applyPosted _ _ _)).trans (.applySums _ _ _ _)).trans (drop _)).trans (.giveBack _ _ _ _)
theorem Steady.drainLine (s : State) (l : Nat) : Steady s (s.drainLine l) := by
  unfold State.drainLine
  split
  · exact .refl s
  · exact .foldl _ (fun _ _ => (Steady.send _ _ _ _).trans (.forceDrain _ _ _)) _ _
theorem Steady.drainLines (s : State) (ls : List Nat) : Steady s (ls.foldl (fun s l => s.drainLine l) s) :=
  .foldl _ (fun _ _ => .drainLine _ _) _ _

/-! ## Translation -/

theorem Steady.setAD (s : State) (d : Nat) (l : Leaf) (p : Nat) (n : Need) : Steady s (s.setAD d l p n).1 := by
  unfold State.setAD
  generalize (l.pte ||| 0x200#64 ||| (if n.w then 0x400#64 else 0)) = e
  dsimp only
  split
  · exact .refl s
  · exact .writeAt _ _ _ _ _
theorem Steady.tlbInstall (s : State) (u : Nat) (l : Leaf) : Steady s (s.tlbInstall u l) := .elsewhere rfl rfl
theorem Steady.count (s : State) (u c k : Nat) : Steady s (s.count u c k) := .elsewhere rfl rfl
theorem Steady.countMiss (s : State) (u c : Nat) : Steady s (s.countMiss u c) :=
  .ite (.count _ _ _ _) (.ite (.count _ _ _ _) (.refl s))
theorem Steady.takeCached (s : State) (u c v : Nat) (l : Leaf) : Steady s (s.takeCached u c v l) :=
  .ite (.refl s) ((Steady.countMiss _ _ _).trans (.elsewhere rfl rfl))
theorem Steady.walkLine (s : State) (d p : Nat) : Steady s (s.walkLine d p) :=
  .ite ((Steady.drainLine _ _).trans (.share _ _ _)) (.refl s)
theorem Steady.walkFrom (d : Nat) (c : Ctx) (ctx va : Nat) : ∀ (n t : Nat) (s : State), Steady s (s.walkFrom d c ctx va n t).1
  | 0, _, s => .refl s
  | n + 1, t, s => by
    unfold State.walkFrom
    dsimp only
    refine (Steady.walkLine s d (t + 8 * (va % 2 ^ 58 / 2 ^ pageBits (3 - n) % 2048))).trans ?_
    split
    · exact .refl _
    · split_ifs
      · exact .refl _
      · exact .refl _
      · split <;> exact .walkLine _ _ _
      · exact .walkFrom d c ctx va n _ _
      · exact .walkFrom d c ctx va n _ _
theorem Steady.walkWhole (s : State) (d ctx va : Nat) : Steady s (s.walkWhole d ctx va).1 := by
  unfold State.walkWhole
  dsimp only
  split
  · exact .walkFrom _ _ _ _ _ _ _
  · exact .refl s
theorem Steady.walkDie (s : State) (d ctx va : Nat) (afresh : Bool) (good : Leaf → Bool) :
    Steady s (s.walkDie d ctx va afresh good).1 := by
  have keep (t : State) (cs : List Cached) : Steady t (cs.foldl (fun s c => s.tlbPut (3000 + d) c) t) :=
    .foldl (fun s c => s.tlbPut (3000 + d) c) (fun _ _ => .elsewhere rfl rfl) _ _
  have whole (t : State) (h : Steady s t) :
      Steady s ((t.walkWhole d ctx va).2.tables.foldl (fun s c => s.tlbPut (3000 + d) c) (t.walkWhole d ctx va).1) :=
    (h.trans (.walkWhole t d ctx va)).trans (keep _ _)
  unfold State.walkDie
  dsimp only
  split
  · exact whole s (.refl s)
  · rename_i n t _
    have h := Steady.walkFrom d (ctxOf s ctx) ctx va n t s
    split
    · split
      · exact h.trans (keep _ _)
      · exact whole _ h
    · exact whole _ h
theorem Steady.serve (d va : Nat) (w : Bool) (p : State × Walked) (x : Waiter) : Steady p.1 (State.serve d va w p x).1 := by
  have install (t : State) (l : Leaf) (a : Fresh) (c : Bool) :
      Steady t ((if c = true then t else t.tlbInstall x.unit l).addFresh x.agent a) :=
    (Steady.ite (.refl t) (.tlbInstall _ _ _)).trans (.elsewhere rfl rfl)
  unfold State.serve
  split
  · exact .elsewhere rfl rfl
  · dsimp only
    split
    · exact (Steady.setAD _ _ _ _ _).trans (install _ _ _ _)
    · exact install _ _ _ _
theorem Steady.endWalk (s : State) (w : Walk) : Steady s (s.endWalk w) := by
  unfold State.endWalk
  dsimp only
  refine Steady.trans (t := { s with ms := { s.ms with walks := s.ms.walks.filter (· != w) } }) (.elsewhere rfl rfl) ?_
  exact (Steady.walkDie _ _ _ _ _ _).trans (.foldl_fst (State.serve _ _ _) (fun p x => .serve _ _ _ p x) _ (_, _))
theorem Steady.freeWalker (s : State) (d c p : Nat) : Steady s (s.freeWalker d c p) :=
  .foldl _ (fun t _ => .asAgent t _ _ fun u => .endWalk u _) _ s
theorem Steady.xlate (s : State) (u c v : Nat) (n : Need) (ok : Leaf → Bool) : Steady s (s.xlate u c v n ok).1 := by
  unfold State.xlate
  split
  · exact .refl s
  · split
    · exact .takeCached _ _ _ _ _
    · dsimp only
      refine Steady.trans (t := (s.freeWalker (dieOfUnit u) c (vpage v)).countMiss u c) ((Steady.freeWalker _ _ _ _).trans (.countMiss _ _ _)) ?_
      generalize (s.freeWalker (dieOfUnit u) c (vpage v)).countMiss u c = t
      split
      · exact .elsewhere rfl rfl
      have h := Steady.walkDie t (dieOfUnit u) c v (s.cachedLeaf u c v).isSome fun l => t.grants? l v n && ok l
      split
      · next e => exact h.answered e
      · next e =>
        split
        · exact ((h.answered e).trans (.setAD _ _ _ _ _)).trans (.tlbInstall _ _ _)
        · exact (h.answered e).trans (.tlbInstall _ _ _)

/-! ## Fetching, and waiting sets -/

theorem Steady.setFabric (s : State) (c : Nat) (f : Fabric) : Steady s (s.setFabric c f) := .elsewhere rfl rfl
theorem Steady.fetchLeaf (s : State) (u c l : Nat) : Steady s (s.fetchLeaf u c l).1 := by
  have h := Steady.xlate s u c (l * 128 % 2 ^ 64) needX (Leaf.permits [l * 128 % 2 ^ 64, l * 128 % 2 ^ 64 + 127])
  unfold State.fetchLeaf
  dsimp only
  split
  · exact .refl s
  · split <;> exact h.answered ‹_›
theorem Steady.fetchNow (s : State) (u d c l : Nat) : Steady s (s.fetchNow u d c l).1 := by
  have h := Steady.fetchLeaf s u c l
  unfold State.fetchNow
  split
  · exact h.answered ‹_›
  · dsimp only
    split
    · exact (h.answered ‹_›).trans (.readAt _ _ _)
    · exact h.answered ‹_›
theorem Steady.finishFill (s : State) (k : Nat) (x : IFill) : Steady s (s.finishFill k x).1 := by
  unfold State.finishFill
  dsimp only
  refine (Steady.setFabric s k { s.fabric k with
    ifills := (s.fabric k).ifills.filter fun y => !(y.ctx == x.ctx && y.line == x.line) }).trans ?_
  generalize s.setFabric k _ = t
  refine (Steady.ite (c := (x.counted && t.fetchStarts k x.ctx x.line) = true) (Steady.count t k x.ctx 5) (.refl t)).trans ?_
  generalize (if (x.counted && t.fetchStarts k x.ctx x.line) = true then t.count k x.ctx 5 else t) = u
  have h : Steady u (u.fetchBytes k (dieOfCore k) x.ctx x.line).1 := .readOnSet u _ _ fun _ => .fetchNow _ _ _ _ _
  split
  · exact (h.answered ‹_›).trans (.setFabric _ _ _)
  · exact (Steady.ite (h.answered ‹_›) (.refl u)).trans (.setFabric _ _ _)
theorem Steady.fetchLine (s : State) (k c l : Nat) : Steady s (s.fetchLine k c l).1 := by
  unfold State.fetchLine
  split
  · exact .setFabric _ _ _
  · exact .finishFill _ _ _
theorem Steady.fetchWords (s : State) (k c a n : Nat) : Steady s (s.fetchWords k c a n).1 := by
  unfold State.fetchWords
  dsimp only
  have h : Steady s ((codeLines a n).foldl (fun (p : State × List (Nat × List Byte) × List Nat) l =>
      match p.1.fetchLine k c l with
      | (s, some bs) => (s, p.2.1 ++ [(l, bs)], p.2.2)
      | (s, none) => (s, p.2.1, p.2.2 ++ [l])) (s, [], [])).1 := by
    refine .foldl_fst _ (fun p l => ?_) _ (s, [], [])
    split <;> exact (Steady.fetchLine p.1 k c l).answered ‹_›
  split <;> exact h
theorem Steady.readHeader (s : State) (k c a : Nat) : Steady s (s.readHeader k c a).1 := by
  unfold State.readHeader
  split
  · split <;> exact (Steady.fetchWords s k c a 4).answered ‹_›
  · exact .refl s
theorem Steady.setFibre (s : State) (f : Nat) (x : Fibre) : Steady s (s.setFibre f x) := .elsewhere rfl rfl
theorem Steady.joinOne (s : State) (f : Nat) : Steady s (s.joinOne f) := by
  unfold State.joinOne
  split
  · exact .refl s
  · refine (Steady.setFabric s (coreOf f) ((s.fabric (coreOf f)).forgive f)).trans ?_
    refine .ite (.refl _) (.ite (.setFibre _ _ _) (.ite (.setFibre _ _ _) ?_))
    exact ((Steady.setFibre _ _ _).trans (.readHeader _ _ _ _)).trans (.setFabric _ _ _)
theorem Steady.trimSets (s : State) (c : Nat) : Steady s (s.trimSets c) :=
  (Steady.setFabric s c _).trans (.foldl _ (fun _ _ => .joinOne _ _) _ _)
theorem Steady.joinSet (s : State) (f : Nat) : Steady s (s.joinSet f) := (Steady.trimSets _ _).trans (.joinOne _ _)

/-! ## Ranges of virtual addresses, and completion records (R402) -/

theorem Steady.hostAddr (s : State) (a u c v p : Nat) (n : Need) : Steady s (s.hostAddr a u c v p n).1 := by
  unfold State.hostAddr
  dsimp only
  split
  · exact .refl s
  · split
    · exact Steady.ite (.refl s) (.elsewhere rfl rfl)
    · split
      · exact .refl s
      · exact .elsewhere rfl rfl
theorem Steady.outsidePlace (s : State) (a u c v p r : Nat) (n : Need) : Steady s (s.outsidePlace a u c v p r n).1 := by
  unfold State.outsidePlace
  split
  · split <;> exact (Steady.hostAddr s a u c v p n).answered ‹_›
  · exact .refl s
  · exact .refl s
theorem Steady.checkPiece (s : State) (u c : Nat) (n : Need) (p : Nat × Nat) : Steady s (s.checkPiece u c n p).1 := by
  unfold State.checkPiece
  dsimp only
  split
  · exact .refl s
  · have h := Steady.xlate s u c p.1 n fun l => (l.forbids p.1 p.2).isNone && s.lineFits (l.pa p.1)
    split
    · exact h.answered ‹_›
    · refine (h.answered ‹_›).trans ?_
      split
      · exact .refl _
      · split
        · exact .ite (.refl _) (.drainLines _ _)
        · split
          · exact ((Steady.outsidePlace _ _ _ _ _ _ _ _).answered ‹_›).trans (traffic.holdBack _)
          · exact (Steady.outsidePlace _ _ _ _ _ _ _ _).answered ‹_›
          · exact (Steady.outsidePlace _ _ _ _ _ _ _ _).answered ‹_›
theorem Steady.checkPieces (u c : Nat) (n : Need) : ∀ (l : List (Nat × Nat)) (s : State), Steady s (s.checkPieces u c n l).1
  | [], s => .refl s
  | p :: r, s => (Steady.checkPiece s u c n p).trans (Steady.checkPieces u c n r _)
theorem Steady.range (s : State) (u c : Nat) (n : Need) (v k : Nat) : Steady s (s.range u c n v k).1 :=
  (Steady.checkPieces u c n _ s).trans (.ite (.refl _) (.elsewhere rfl rfl))
theorem Steady.attachAll (s : State) (d : Nat) (cs : List (Nat × Byte)) (r : Option RelRec) : Steady s (s.attachAll d cs r) := by
  unfold State.attachAll
  split
  · exact .refl s
  · exact .foldl _ (fun _ _ => .setCopy _ _ _ _) _ _
theorem Steady.boundedWrite (s : State) (cs : List (Nat × Byte)) (r : Option RelRec) : Steady s (s.boundedWrite cs r) :=
  .foldl _ (fun _ _ => ((Steady.drainLine _ _).trans (.writeLine _ _ _ _ _ _)).trans (.attachAll _ _ _ _)) _ _
theorem Steady.postToken (s : State) (n a b c : Nat) (k : Option Nat) (w : Payload) : Steady s (s.postToken n a b c k w) := by
  unfold State.postToken
  dsimp only
  exact (Steady.ite (.spend s _ _) (.refl s)).trans (.elsewhere rfl rfl)
theorem Steady.visits (s : State) (d : Nat) (ls : List Nat) : Steady s (ls.foldl (fun s l => s.visit d l) s) :=
  .foldl _ (fun _ _ => .visit _ _ _) _ _
theorem Steady.outsideWrite (s : State) (cs : List (Nat × Byte)) (op : Option Nat) : Steady s (s.outsideWrite cs op) := by
  unfold State.outsideWrite
  dsimp only
  split
  · exact .boundedWrite _ _ _
  · have h (d : Nat) (own : List (Nat × Byte)) (ls : List Nat) :
        Steady s ((ls.foldl (fun s l => s.visit d l) (s.pastL1 (own.map (·.1)))).boundedWrite own none) :=
      ((Steady.pastL1 _ _).trans (.visits _ _ _)).trans (.boundedWrite _ _ _)
    split
    · exact h _ _ _
    · exact (h _ _ _).trans (.postToken _ _ _ _ _ _ _)
theorem Steady.writePiece (s : State) (d : Nat) (p : Piece) (bs : List Byte) : Steady s (s.writePiece d p bs) :=
  .ite (.outsideWrite _ _ _) (.ite ((Steady.visits _ _ _).trans (.boundedWrite _ _ _)) (.writeAt _ _ _ _ _))
theorem Steady.writePieces (d : Nat) : ∀ (l : List Piece) (s : State) (bs : List Byte), Steady s (s.writePieces d l bs)
  | [], s, _ => .refl s
  | p :: r, s, _ => (Steady.writePiece s d p _).trans (Steady.writePieces d r _ _)
theorem Steady.writeVirt (s : State) (u d c v : Nat) (bs : List Byte) : Steady s (s.writeVirt u d c v bs).1 := by
  have h := Steady.range s u c needW v bs.length
  unfold State.writeVirt
  split
  · exact h.answered ‹_›
  · exact (h.answered ‹_›).trans (.writePieces _ _ _ _)
theorem Steady.writeRecord (s : State) (c : Nat) (r : Dword) (o : Nat) (i : Dword) (id k st : Nat) (cause : BitVec 8) (t : Dword) :
    Steady s (s.writeRecord c r o i id k st cause t) := .ite (.refl s) (.writeVirt _ _ _ _ _ _)

/-! ## Fibres that end, and cancelled launches (R205, R404) -/

theorem Steady.modGather (s : State) (g : Nat) (fn : Gather → Gather) : Steady s (s.modGather g fn) := .elsewhere rfl rfl
theorem Steady.modFibre (s : State) (f : Nat) (fn : Fibre → Fibre) : Steady s (s.modFibre f fn) := .elsewhere rfl rfl
theorem Steady.modLaunch (s : State) (l : Nat) (fn : Launch → Launch) : Steady s (s.modLaunch l fn) := .elsewhere rfl rfl
/-- A change of every program that there is. -/
theorem Steady.modSeqs (s : State) (c : Nat) (fn : Seq → Seq) : Steady s { s with mat := { s.mat with seqs := kvMod c fn s.mat.seqs } } := by
  refine ⟨rfl, fun k hk => ?_⟩
  simp only [State.seq?] at hk ⊢
  by_cases h : k = c
  · subst h; rw [kvGet_kvMod_same, hk]; rfl
  · rw [kvGet_kvMod_other h, hk]
theorem Steady.mapSeqs (s : State) (fn : Nat → Seq → Seq) : Steady s { s with mat := { s.mat with seqs := kvMap fn s.mat.seqs } } := by
  refine ⟨rfl, fun k hk => ?_⟩
  simp only [State.seq?] at hk ⊢
  rw [kvGet_kvMap, hk]; rfl
theorem Steady.newSeq {s t : State} (hu : t.units = s.units) {c : Nat} {q r : Seq} (h : s.seq? c = some q)
    (e : t.mat.seqs = kvSet c r s.mat.seqs) : Steady s t := by
  refine ⟨hu, fun k hk => ?_⟩
  have hne : k ≠ c := fun e => by subst e; rw [h] at hk; cases hk
  rw [State.seq?, e, kvGet_kvSet_other hne]
  exact hk
theorem Steady.leaveRdv (s : State) (f : Nat) : Steady s (s.leaveRdv f) := .modSeqs s _ _
theorem Steady.reap (s : State) (f : Nat) : Steady s (s.reap f) := by
  unfold State.reap
  split
  · exact .refl s
  · exact .ite (.elsewhere rfl rfl) (.refl s)
theorem Steady.dropProds (s : State) (ps : List Nat) : Steady s (s.dropProds ps) := .ite (.refl s) (.elsewhere rfl rfl)
theorem Steady.keepPosts (s : State) (f : Nat) (x : Fibre) (l : List PostOp) : Steady s (s.keepPosts f x l) :=
  ((Steady.ite (.refl s) (.leaveRdv s f)).trans (.setFibre _ _ _)).trans (.dropProds _ _)
theorem Steady.checkBar (s : State) (g b : Nat) : Steady s (s.checkBar g b) := by
  unfold State.checkBar
  split
  · exact .refl s
  · exact .ite (.refl s) (.elsewhere rfl rfl)
theorem Steady.checkBars (s : State) (g : Nat) : Steady s (s.checkBars g) := .foldl _ (fun _ _ => .checkBar _ _ _) _ _
theorem Steady.leaveGather (s : State) (f : Nat) (l : List PostOp) : Steady s (s.leaveGather f l) := by
  unfold State.leaveGather
  split
  · dsimp only
    refine Steady.trans ?_ (.trimSets _ _)
    refine Steady.trans ?_ ((Steady.modGather _ _ _).trans (.modGather _ _ _))
    refine Steady.trans ?_ (.reap _ _)
    refine Steady.trans ?_ (.modFibre _ _ _)
    refine Steady.trans ?_ ((Steady.keepPosts _ _ _ _).trans (.dropProds _ _))
    exact .elsewhere rfl rfl
  · exact .refl s
theorem Steady.endFibre (s : State) (f : Nat) (l : List PostOp) : Steady s (s.endFibre f l) :=
  (Steady.leaveGather _ _ _).trans (.checkBars _ _)
theorem Steady.cancelFibre (s : State) (f : Nat) : Steady s (s.cancelFibre f) := by
  unfold State.cancelFibre
  split
  · exact .refl s
  · exact .ite ((Steady.keepPosts _ _ _ _).trans (.reap _ _)) (.ite (.setFibre _ _ _) (.leaveGather _ _ _))
theorem Steady.cancelFibres (s : State) (fs : List Nat) : Steady s (s.cancelFibres fs) :=
  (Steady.foldl _ (fun _ _ => .cancelFibre _ _) fs s).trans (.foldl _ (fun _ _ => .checkBars _ _) _ _)
theorem Steady.endProgram (s : State) (c : Nat) (b : Bool) : Steady s (s.endProgram c b) := by
  unfold State.endProgram
  split
  · exact .refl s
  · next hq => exact .newSeq rfl hq rfl
theorem Steady.freeTile (s : State) (c i : Nat) : Steady s (s.freeTile c i) := .elsewhere rfl rfl
theorem Steady.endTiles (s : State) (l : Nat) : Steady s (s.endTiles l) :=
  .foldl (fun s (t : Nat × Nat) => if (s.own? t.1 t.2).st == .active then s.freeTile t.1 t.2 else
      s.setOwn t.1 t.2 { s.own? t.1 t.2 with st := .home, launch := 0 })
    (fun _ _ => .ite (.freeTile _ _ _) (.elsewhere rfl rfl)) _ _
theorem Steady.endPrograms (s : State) (l : Nat) : Steady s (s.endPrograms l) := by
  refine Steady.trans (.foldl _ (fun s c => ?_) _ s) (.endTiles _ _)
  split
  · exact .refl s
  · exact (Steady.ite (.endProgram _ _ _) (.refl s)).trans (.modSeqs _ _ _)
theorem Steady.cancelLaunch (s : State) (l : Nat) (i : Dword) : Steady s (s.cancelLaunch l i) := by
  unfold State.cancelLaunch
  split
  · exact .refl s
  · refine .ite (.refl s) (.ite (.elsewhere rfl rfl) ?_)
    refine Steady.trans (Steady.trans ?_ (.cancelFibres _ _)) (.endPrograms _ _)
    exact .elsewhere rfl rfl
theorem Steady.launchEvent (s : State) (l st : Nat) (i : Dword) (c : Nat) (t : Dword) : Steady s (s.launchEvent l st i c t) :=
  (Steady.modLaunch _ _ _).trans (.cancelLaunch _ _ _)

/-! ## Completion (R401 to R403), and the states of a launch -/

theorem Steady.checkGroup (s : State) (k : Nat) : Steady s (s.checkGroup k) := by
  unfold State.checkGroup
  split
  · refine .ite ?_ (.refl s)
    unfold State.endGroup
    exact Steady.trans (t := s.setGroup k _) (.elsewhere rfl rfl) (.writeRecord _ _ _ _ _ _ _ _ _ _)
  · exact .refl s
theorem Steady.checkJob (s : State) (j : Nat) : Steady s (s.checkJob j) := by
  unfold State.checkJob
  split
  · exact .ite (.elsewhere rfl rfl) (.refl s)
  · exact .refl s
theorem Steady.finishLaunch (s : State) (l : Nat) : Steady s (s.finishLaunch l) := by
  unfold State.finishLaunch
  split
  · exact .refl s
  · refine .ite (.refl s) ?_
    refine Steady.trans (Steady.trans ?_ (.foldl _ (fun _ _ => .checkGroup _ _) _ _)) (.checkJob _ _)
    refine Steady.trans (Steady.trans (Steady.trans ?_ (.endTiles _ _)) (.writeRecord _ _ _ _ _ _ _ _ _ _)) (.checkGroup _ _)
    exact .elsewhere rfl rfl
theorem Steady.failLaunch (s : State) (l st : Nat) (i : Dword) : Steady s (s.failLaunch l st i) :=
  (Steady.modLaunch _ _ _).trans (.finishLaunch _ _)
theorem Steady.cancelNow (s : State) (l : Nat) (i : Dword) : Steady s (s.cancelNow l i) := by
  unfold State.cancelNow
  split
  · exact .refl s
  · exact .ite (.refl s) ((Steady.cancelLaunch s l i).trans (.ite (.refl _) (.ite (.finishLaunch _ _) (.refl _))))
theorem Steady.loadingStep (s : State) (l : Nat) : Steady s (s.loadingStep l) := by
  have want (h : Nat) : Steady s (s.wantObj h) := by
    unfold State.wantObj
    split
    · exact .refl s
    · exact .ite (.elsewhere rfl rfl) (.refl s)
  unfold State.loadingStep
  split
  · exact .refl s
  · refine .ite (.refl s) ?_
    split
    · exact .failLaunch _ _ _ _
    · refine .ite (want _) ?_
      split
      · exact .failLaunch _ _ _ _
      · exact .ite (.modLaunch _ _ _) (.failLaunch _ _ _ _)
theorem Steady.orderedStep (s : State) (l : Nat) : Steady s (s.orderedStep l) := by
  unfold State.orderedStep
  split
  · exact .refl s
  · exact .ite (.modLaunch _ _ _) (.refl s)
theorem Steady.boundStep (s : State) (l : Nat) : Steady s (s.boundStep l) := by
  unfold State.boundStep
  split
  · exact .refl s
  · exact .ite (.modLaunch _ _ _) (.refl s)
theorem Steady.progress (s : State) : Steady s s.progress :=
  .foldl _ (fun _ _ => ((Steady.loadingStep _ _).trans (.orderedStep _ _)).trans (.boundStep _ _)) _ _

/-! ## Traps (R409 to R414) -/

theorem Steady.discard (s : State) (f : Nat) : Steady s (s.discard f) := by
  unfold State.discard
  split
  · exact .refl s
  · exact .elsewhere rfl rfl
theorem Steady.dropHeld (s : State) (f : Nat) : Steady s (s.dropHeld f) := by
  unfold State.dropHeld
  split
  · exact .refl s
  · exact ((Steady.setFibre _ _ _).trans (.modGather _ _ _)).trans (.dropProds _ _)
theorem Steady.haltFibre (s : State) (f : Nat) (p : Bool) (d : Option DbgSlot) : Steady s (s.haltFibre f p d) := by
  unfold State.haltFibre
  dsimp only
  split
  · exact .ite (.elsewhere rfl rfl) (.modFibre _ _ _)
  · exact .modFibre _ _ _
theorem Steady.noHandler (s : State) (f : Nat) : Steady s (s.noHandler f) := by
  unfold State.noHandler
  split
  · split
    · exact .ite (.haltFibre _ _ _ _) (.launchEvent _ _ _ _ _ _)
    · exact .launchEvent _ _ _ _ _ _
  · exact .refl s
theorem Steady.enterMeet (s : State) (f : Nat) : Steady s (s.enterMeet f) := by
  unfold State.enterMeet
  split
  · exact .refl s
  · exact .ite ((Steady.modGather _ _ _).trans (.modGather _ _ _)) (.refl s)
theorem Steady.deliver (s : State) (f : Nat) : Steady s (s.deliver f) := by
  unfold State.deliver
  split
  · exact .refl s
  · refine .ite (.haltFibre _ _ _ _) (.ite (.noHandler _ _) (.ite (.ite ?_ (.noHandler _ _)) (.ite (.noHandler _ _) ?_)))
    · exact ((Steady.setFibre _ _ _).trans (.enterMeet _ _)).trans (.joinSet _ _)
    · exact (Steady.setFibre _ _ _).trans (.joinSet _ _)
theorem Steady.takeTrap (s : State) (f : Nat) (h : Dword) (n : NodeFault) (p : Bool) : Steady s (s.takeTrap f h n p) := by
  unfold State.takeTrap
  dsimp only
  refine (Steady.ite (c := (s.inst? f).isSome = true) (.count s (coreOf f) (s.ctxOfFibre f) 2) (.refl s)).trans ?_
  refine (Steady.discard _ f).trans ?_
  generalize State.discard _ f = t
  refine (Steady.ite (c := ((t.fibre? f).any (·.inner p)) = true) (.dropHeld t f) (.refl t)).trans ?_
  generalize (if (t.fibre? f).any (·.inner p) = true then t.dropHeld f else t) = u
  split
  · exact .refl _
  · refine .ite (.endFibre _ _ _) (.ite ?_ ?_)
    · exact (Steady.setFibre _ _ _).trans (.setFibre _ _ _)
    · exact (Steady.setFibre _ _ _).trans (.deliver _ _)
theorem Steady.nodeFault (s : State) (f e c : Nat) (t a b d : Dword) : Steady s (s.nodeFault f e c t a b d) := by
  unfold State.nodeFault
  split
  · exact .refl s
  · dsimp only
    split
    · refine Steady.trans ?_ (.takeTrap _ _ _ _ _)
      exact .elsewhere rfl rfl
    · exact .elsewhere rfl rfl

/-! ## Units that are lost (R105, R459, R461, R462) -/

theorem Steady.removeGather (s : State) (g : Nat) (ga : Gather) : Steady s (s.removeGather g ga) := by
  unfold State.removeGather
  refine Steady.trans ?_ (.trimSets _ _)
  refine Steady.trans (t := (s.clearAlloc ga).unbind ga.gid) ?_ (.elsewhere rfl rfl)
  exact Steady.trans (t := s.clearAlloc ga) (.elsewhere rfl rfl) (.mapSeqs _ _)
theorem Steady.loseGather (s : State) (g : Nat) (ga : Gather) : Steady s (s.loseGather g ga) := by
  unfold State.loseGather
  refine Steady.trans (Steady.trans ?_ (.removeGather _ _ _)) (.modLaunch _ _ _)
  refine Steady.trans (.foldl _ (fun s f => ?_) _ s) (.elsewhere rfl rfl)
  exact Steady.trans (t := (s.clearWaits f).leaveRdv f) (Steady.trans (t := s.clearWaits f) (.elsewhere rfl rfl) (.leaveRdv _ _)) (.elsewhere rfl rfl)
theorem Steady.clearCore (s : State) (c : Nat) : Steady s ((s.setCopies c []).clearL1 c) := .elsewhere rfl rfl
theorem Steady.loseResidents (s : State) (c : Nat) : Steady s ((s.residents c).foldl (fun s g => s.loseGather g.1 g.2) s) :=
  have each (s : State) (g : Nat × Gather) : Steady s (s.loseGather g.1 g.2) := Steady.loseGather s g.1 g.2
  .foldl _ each _ s
theorem Steady.loseCore (s : State) (c : Nat) : Steady s (s.loseCore c) := by
  have ht := Steady.loseResidents s c
  unfold State.loseCore
  extract_lets t u
  have hu : Steady t u := .clearCore t c
  clear_value u
  have ht : Steady s t := ht
  exact (ht.trans hu).trans (.elsewhere rfl rfl)
theorem Steady.delSeq (s : State) (c : Nat) (m : MemSys) (h : m.inc = s.ms.inc) :
    Steady s { s with mat := { s.mat with seqs := kvDel c s.mat.seqs }, ms := m } := by
  refine ⟨by simp only [State.units, h], fun k hk => ?_⟩
  simp only [State.seq?] at hk ⊢
  by_cases e : k = c
  · rw [e, kvGet_kvDel_same]
  · rw [kvGet_kvDel_other e, hk]
theorem Steady.loseCluster (s : State) (c : Nat) : Steady s (s.loseCluster c) := by
  unfold State.loseCluster
  extract_lets t u
  have ht : Steady s t := .foldl _ (fun _ _ => .loseCore _ _) _ s
  have hu : Steady t u := .foldl _ (fun _ _ => .freeTile _ _ _) _ t
  clear_value u t
  exact (ht.trans hu).trans (.delSeq u c _ rfl)
theorem seq_loseCluster (s : State) (c : Nat) : (s.loseCluster c).seq? c = none := kvGet_kvDel_same _ _
theorem Steady.cancelOn (s : State) (p : Nat → Bool) : Steady s (s.cancelOn p) :=
  .foldl _ (fun _ _ => (Steady.modLaunch _ _ _).trans (.cancelNow _ _ _)) _ _
theorem Steady.loseTokens (s : State) (r : Nat) (p : Posted → Bool) : Steady s (s.loseTokens r p) := .elsewhere rfl rfl
theorem Steady.loseFences (s : State) (p : Posted → Bool) : Steady s (s.loseFences p) := .elsewhere rfl rfl
theorem Steady.clearDie (s : State) (d : Nat) : Steady s (s.clearDie d) := by
  have poison (s : State) (c : Prop) [Decidable c] (l : Nat) : Steady s (if c then s else s.poisonLine l) := .ite (.refl s) (.poisonLine _ _)
  have drop (s : State) (l : Nat) : Steady s (s.dropHolder d l) := .elsewhere rfl rfl
  unfold State.clearDie
  dsimp only
  refine Steady.trans (Steady.trans (.foldl _ (fun s l => ?_) _ _) (.loseFences _ _)) (.foldl _ (fun s l => ?_) _ _)
  · exact ((poison _ _ _).trans (.staleWins _ _ _ _)).trans (.setCopy _ _ _ _)
  · exact ((poison _ _ _).trans (drop _ _)).trans (.giveBack _ _ _ _)
theorem Steady.addFresh (s : State) (a : Nat) (x : Fresh) : Steady s (s.addFresh a x) := .elsewhere rfl rfl
theorem Steady.failReads (s : State) : Steady s s.failReads := by
  unfold State.failReads
  extract_lets bad src t
  have ht : Steady s t := .elsewhere rfl rfl
  exact ht.trans (.foldl _ (fun _ _ => .addFresh _ _ _) _ _)
theorem Steady.releaseHeld : ∀ (n : Nat) (s : State) (c : Nat), Steady s (releaseHeld n s c)
  | 0, s, _ => .refl s
  | n + 1, s, c => by
    unfold Machine.releaseHeld
    split
    · exact .refl s
    · split
      · exact .refl s
      · extract_lets hops t
        refine .ite ?_ (.refl s)
        have ht : Steady s t := .spend _ _ _
        clear_value t
        refine Steady.trans (ht.trans ?_) (Steady.releaseHeld n _ c)
        exact .elsewhere rfl rfl
theorem Steady.rebind (s : State) : Steady s s.rebind := by
  unfold State.rebind
  extract_lets src t
  have ht : Steady s t := .elsewhere rfl rfl
  exact ht.trans (.foldl _ (fun _ _ => .releaseHeld _ _ _) _ _)
theorem Steady.failStores (s : State) : Steady s s.failStores :=
  .foldl _ (fun _ _ => .foldl _ (fun _ _ => .nodeFault _ _ _ _ _ _ _ _) _ _) _ _

end Sys2Proof.Machine
end

section
/-! The firmware's services, their requests and their answers (R440, R444, R452, R453, R460, R463, R464). -/
namespace Sys2Proof.Machine
open Sys2Proof.Claims

/-! ## Mailboxes -/

@[simp] theorem mailbox_setMailbox (s : State) (fn : Nat) (m : Mailbox) : (s.setMailbox fn m).mailbox fn = m := kvGetD_kvSetD_same _ _ _ _

/-- A service that has left the mailboxes alone answers the request that it took. -/
theorem answers_answer {s t : State} (h : t.mg.mail = s.mg.mail) (fn st : Nat) (rep : List Dword) :
    answers s (t.answer fn st rep) fn st rep := by
  have hm : t.mailbox fn = s.mailbox fn := congrArg (kvGetD fn noMail) h
  rw [answers, State.answer, mailbox_setMailbox, hm]
theorem arg_request (s : State) (fn k : Nat) : (s.mailbox fn).arg k = (request s fn k).toNat := rfl
theorem dn_toNat (x : Dword) : dn x.toNat = x := BitVec.ofNat_toNat 64 x |>.trans (BitVec.setWidth_eq x)
/-- A field of a word, as a number. -/
theorem bits_toNat {w : Nat} (x : BitVec w) (h l n : Nat) (e : h - l + 1 = n) : bits x.toNat h l = (x.extractLsb' l n).toNat := by
  rw [bits, e, BitVec.extractLsb'_toNat, Nat.shiftRight_eq_div_pow]
theorem bit_toNat {w : Nat} (x : BitVec w) (n : Nat) : bit x.toNat n = x.getLsbD n := by
  rw [bit, BitVec.getLsbD, Nat.testBit_eq_decide_div_mod_eq]
  exact (Bool.beq_eq_decide_eq _ _)

/-- A service that is asked for runs for function 0, and for a virtual function that may call it. -/
theorem service_runs {s : State} {fn code : Nat} {vf : Bool} (run : Mailbox → State → State) (hf : s.mg.firmware = true)
    (h : asked s fn code) (hv : fn = 0 ∨ vf = true) : service code vf fn run s = .next (run (s.mailbox fn) s) := by
  obtain ⟨hfn, hgo, hrun, hpend⟩ := h
  have hlt : ¬ 64 ≤ fn := by omega
  obtain rfl | rfl := hv <;> simp [service, hf, hgo, hrun, hpend, hlt]
/-- A virtual function that may not call it is refused. -/
theorem service_refuses {s : State} {i : Instr} {fn code : Nat} {run : Mailbox → State → State}
    (e : exec i s = service code false fn run s) (hf : s.mg.firmware = true) (hv : fn ≠ 0) (h : asked s fn code) :
    ∃ t, happens i s t ∧ answers s t fn 2 [] := by
  obtain ⟨hfn, hgo, hrun, hpend⟩ := h
  have hlt : ¬ 64 ≤ fn := by omega
  refine ⟨s.answer fn 2 [], ?_, answers_answer rfl _ _ _⟩
  rw [happens, e]
  simp [service, hf, hgo, hrun, hpend, hlt, hv]

/-! ## Code objects (R440, R444) -/

theorem serviceRegister_otherJob {s : State} {fn : Nat} (hf : s.mg.firmware = true) (h : asked s fn 1)
    (hu : s.mayUse fn ((request s fn 1).extractLsb' 16 16).toNat = false) :
    ∃ t, happens (.serviceRegister fn) s t ∧ answers s t fn 2 [] := by
  refine ⟨s.answer fn 2 [], ?_, answers_answer rfl _ _ _⟩
  rw [happens, exec_serviceRegister, execServiceRegister, service_runs _ hf h (.inr rfl)]
  simp [-BitVec.extractLsb'_toNat, arg_request, bits_toNat _ 31 16 16 rfl, hu]

/-- Function 0 has registered an object of a job without libraries, with the job's next serial number after it. -/
def State.registeredAs (s : State) (h : Dword) (job serial : Nat) (img : List Byte) (eager : Bool) : State :=
  let s := s.setObj h.toNat (newObj h job 0 img [] eager)
  { s with disp := { s.disp with serials := kvSet job (serial + 1) s.disp.serials } }

theorem serviceRegister_registers {s u : State} {img : List Byte} (hf : s.mg.firmware = true) (h : asked s 0 1) (job n : Nat)
    (hjob : ((request s 0 1).extractLsb' 16 16).toNat = job)
    (h1 : (request s 0 1).extractLsb' 1 15 = 0) (h7 : request s 0 7 = 0) (h2 : request s 0 2 = 0)
    (hj : (kvGet job s.disp.jobs).isSome = true)
    (hr : s.readImageAt (request s 0 0).toNat ((request s 0 1).extractLsb' 32 32).toNat = (u, some img))
    (hm : { u.mg with busErr := s.mg.busErr } = s.mg) (hd : u.disp = s.disp)
    (hn : job * 2 ^ 48 + (kvGet job s.disp.serials).getD 1 * 2 ^ 16 = n) (hlt : n < 2 ^ 64) :
    ∃ t o, happens (.serviceRegister 0) s t ∧ answers s t 0 0 [BitVec.ofNat 64 n, 0] ∧ t.obj? n = some o ∧ o.image = img ∧
      o.job = job ∧ o.registered = true ∧ o.libs = [] := by
  have hmail : u.mg.mail = s.mg.mail := by simpa only using congrArg Mgmt.mail hm
  have hnone : (kvGet job s.disp.jobs).isNone = false := Option.isNone_eq_false_iff.2 hj
  have hk : (dn n).toNat = n := by rw [dn, BitVec.toNat_ofNat, Nat.mod_eq_of_lt hlt]
  refine ⟨(u.registeredAs (dn n) job ((kvGet job s.disp.serials).getD 1) img ((request s 0 1).getLsbD 0)).answer 0 0 [dn n, 0],
    newObj (dn n) job 0 img [] ((request s 0 1).getLsbD 0), ?_, answers_answer hmail _ _ _, ?_, rfl, rfl, rfl, rfl⟩
  · subst hn
    rw [happens, exec_serviceRegister, execServiceRegister, service_runs _ hf h (.inl rfl)]
    simp [-BitVec.extractLsb'_toNat, arg_request, bits_toNat _ 31 16 16 rfl, bits_toNat _ 15 1 15 rfl, bits_toNat _ 63 32 32 rfl,
      bit_toNat, h1, h2, h7, hr, hjob, hnone, State.mayUse, upto, kvGetD, hd, State.registeredAs]
  · show kvGet n (kvSet (dn n).toNat _ _) = _
    rw [hk, kvGet_kvSet_same]

theorem serviceWithdraw_withdraws {s : State} {o : CodeObj} (hf : s.mg.firmware = true) (h : asked s 0 2)
    (ho : s.obj? (request s 0 0).toNat = some o) (hr : o.registered = true) :
    ∃ t, happens (.serviceWithdraw 0) s t ∧ answers s t 0 0 [] ∧ t.obj? (request s 0 0).toNat = some { o with registered := false } := by
  refine ⟨(s.setObj (request s 0 0).toNat { o with registered := false }).answer 0 0 [], ?_, answers_answer rfl _ _ _, kvGet_kvSet_same _ _ _⟩
  rw [happens, exec_serviceWithdraw, execServiceWithdraw, service_runs _ hf h (.inl rfl)]
  simp [-BitVec.extractLsb'_toNat, arg_request, ho, hr, State.mayUse]

theorem serviceWithdraw_unknown {s : State} {fn : Nat} (hf : s.mg.firmware = true) (h : asked s fn 2)
    (ho : s.obj? (request s fn 0).toNat = none) : ∃ t, happens (.serviceWithdraw fn) s t ∧ answers s t fn 3 [] := by
  refine ⟨s.answer fn 3 [], ?_, answers_answer rfl _ _ _⟩
  rw [happens, exec_serviceWithdraw, execServiceWithdraw, service_runs _ hf h (.inr rfl)]
  simp [-BitVec.extractLsb'_toNat, arg_request, ho]

/-! ## Invalidation, power, the log -/

theorem servicePowerMode_malformed {s : State} (hf : s.mg.firmware = true) (h : asked s 0 4) (mode cap : Nat)
    (em : ((request s 0 0).extractLsb' 0 3).toNat = mode) (ec : ((request s 0 0).extractLsb' 8 12).toNat = cap)
    (hb : 3 < mode ∨ cap < 1600 ∨ 3200 < cap) :
    ∃ t, happens (.servicePowerMode 0) s t ∧ answers s t 0 3 [] ∧ t.mg.power = s.mg.power := by
  refine ⟨s.answer 0 3 [], ?_, answers_answer rfl _ _ _, rfl⟩
  rw [happens, exec_servicePowerMode, execServicePowerMode, service_runs _ hf h (.inl rfl)]
  simp [-BitVec.extractLsb'_toNat, arg_request, bits_toNat _ 2 0 3 rfl, bits_toNat _ 19 8 12 rfl, em, ec, or_assoc, hb]

theorem servicePowerMode_asks {s : State} (hf : s.mg.firmware = true) (h : asked s 0 4) (mode cap : Nat)
    (em : ((request s 0 0).extractLsb' 0 3).toNat = mode) (ec : ((request s 0 0).extractLsb' 8 12).toNat = cap)
    (hm : mode ≤ 3) (hlo : 1600 ≤ cap) (hhi : cap ≤ 3200) :
    ∃ t, happens (.servicePowerMode 0) s t ∧ answers s t 0 0 [] ∧
      t.mg.power = { s.mg.power with req := s.mg.power.req ++ [(mode, cap)] } := by
  let u : State := { s with mg := { s.mg with power := { s.mg.power with req := s.mg.power.req ++ [(mode, cap)] } } }
  refine ⟨u.answer 0 0 [], ?_, answers_answer rfl _ _ _, rfl⟩
  rw [happens, exec_servicePowerMode, execServicePowerMode, service_runs _ hf h (.inl rfl)]
  have hb : ¬ (3 < mode ∨ cap < 1600 ∨ 3200 < cap) := by omega
  simp [-BitVec.extractLsb'_toNat, arg_request, bits_toNat _ 2 0 3 rfl, bits_toNat _ 19 8 12 rfl, em, ec, or_assoc, hb, u]

theorem serviceReadLog_reads {s : State} (hf : s.mg.firmware = true) (h : asked s 0 5) :
    ∃ t, happens (.serviceReadLog 0) s t ∧
      answers s t 0 0 (((s.mg.log.drop (request s 0 0).toNat).take 4).flatMap LogEntry.words) := by
  have all : s.mg.log.filter (s.logSeen 0) = s.mg.log := List.filter_eq_self.2 fun _ _ => rfl
  refine ⟨s.answer 0 0 _, ?_, answers_answer rfl _ _ _⟩
  rw [happens, exec_serviceReadLog, execServiceReadLog, service_runs _ hf h (.inl rfl), all]
  rfl

/-- A command that drops no code is taken as it is written. -/
theorem xlatCmd_all {s : State} {v : Word} (hi : s.mg.inval = none) (hk : cmdKind v = 5) :
    (s.xlatCmd v).mg.mail = s.mg.mail ∧ (s.xlatCmd v).mg.inval.isSome = true ∧ (s.xlatCmd v).mg.xlatErr = s.mg.xlatErr ∧
      (s.xlatCmd v).mg.xlatVa = s.mg.xlatVa ∧ (s.xlatCmd v).mg.xlatCmd = v &&& cmdMask := by
  have hr : s.invalRefused v = false := by simp [State.invalRefused, hi, hk]
  have hc : (invalOf s.mg.xlatVa v).kind ≠ 4 := by simp [invalOf, hk]
  simp [State.xlatCmd, hr, hk, State.startInval, hc, State.dropLeaves, State.restartWalks]

/-- The registers as the service has written them, for an address, before its command. -/
def State.withXlatVa (s : State) (va : Dword) : State :=
  { s with mg := { s.mg with xlatVa := va &&& ~~~0x3FFF#64, xlatErr := false } }

theorem execServiceInvalidate_eq (fn : Nat) (s : State) : execServiceInvalidate fn s = service 3 false fn (fun m s =>
    let t := (s.withXlatVa (dn (m.arg 0))).xlatCmd (BitVec.ofNat 32 (m.arg 1))
    if s.mg.inval.isSome then s
    else State.answer { t with mg := { t.mg with xlatErr := s.mg.xlatErr || t.mg.xlatErr } } fn (if t.mg.xlatErr then 3 else 0) []) s := rfl

theorem serviceInvalidate_starts {s : State} (hf : s.mg.firmware = true) (h : asked s 0 3) (hi : s.mg.inval = none)
    (hk : (request s 0 1).extractLsb' 0 3 = 5) :
    ∃ t, happens (.serviceInvalidate 0) s t ∧ answers s t 0 0 [] ∧ t.mg.inval.isSome = true ∧ t.mg.xlatErr = s.mg.xlatErr ∧
      t.mg.xlatVa = request s 0 0 &&& 0xFFFFFFFFFFFFC000 := by
  have hkind : cmdKind (BitVec.ofNat 32 (request s 0 1).toNat) = 5 := by
    have hx : bits (request s 0 1).toNat 2 0 = 5 := by rw [bits_toNat _ 2 0 3 rfl, hk]; rfl
    simp only [cmdKind, bits, BitVec.toNat_ofNat] at hx ⊢
    omega
  obtain ⟨hmail, hinval, herr, hva, -⟩ := xlatCmd_all (s := s.withXlatVa (request s 0 0)) hi hkind
  generalize hv : (s.withXlatVa (request s 0 0)).xlatCmd (BitVec.ofNat 32 (request s 0 1).toNat) = v at hmail hinval herr hva
  have herr : v.mg.xlatErr = false := herr
  refine ⟨State.answer { v with mg := { v.mg with xlatErr := s.mg.xlatErr } } 0 0 [], ?_, answers_answer hmail _ _ _, hinval, rfl, hva⟩
  rw [happens, exec_serviceInvalidate, execServiceInvalidate_eq, service_runs _ hf h (.inl rfl)]
  simp only [arg_request, dn_toNat, hi, hv, herr, Bool.or_false]
  rfl

/-! ## Debug slots and job configuration (R453) -/

/-- A dword of a record. -/
theorem dwAt_eq_little (bs : List Byte) (o : Nat) : dwAt bs o = little ((bs.drop o).take 8) := by
  rw [dwAt, little]
  induction (bs.drop o).take 8 with
  | nil => rfl
  | cons b r ih => rw [leNat, ih, List.foldr_cons]

theorem serviceDebugSlot_malformed {s : State} (hf : s.mg.firmware = true) (h : asked s 0 6)
    (hb : 8 ≤ ((request s 0 0).extractLsb' 0 8).toNat ∨ 18 < ((request s 0 0).extractLsb' 8 8).toNat) :
    ∃ t, happens (.serviceDebugSlot 0) s t ∧ answers s t 0 3 [] := by
  refine ⟨s.answer 0 3 [], ?_, answers_answer rfl _ _ _⟩
  rw [happens, exec_serviceDebugSlot, execServiceDebugSlot, service_runs _ hf h (.inl rfl)]
  simp [-BitVec.extractLsb'_toNat, arg_request, bits_toNat _ 7 0 8 rfl, bits_toNat _ 15 8 8 rfl, hb]

/-- A request of slot n that reads register r. -/
theorem debugRequest_fields {x : Dword} {n r : Nat} (hn : n < 8) (hr : r ≤ 18) (hx : x = BitVec.ofNat 64 (r * 256 + n)) :
    bits x.toNat 7 0 = n ∧ bits x.toNat 15 8 = r ∧ bit x.toNat 16 = false := by
  have e : x.toNat = r * 256 + n := by rw [hx, BitVec.toNat_ofNat, Nat.mod_eq_of_lt (by omega)]
  rw [e]
  refine ⟨?_, ?_, ?_⟩
  · simp only [bits]; omega
  · simp only [bits]; omega
  · simp only [bit, beq_eq_false_iff_ne]; omega

theorem serviceDebugSlot_control {s : State} (hf : s.mg.firmware = true) (h : asked s 0 6) (n : Nat) (hn : n < 8)
    (hr : request s 0 0 = BitVec.ofNat 64 n) : ∃ t, happens (.serviceDebugSlot 0) s t ∧ answers s t 0 0 [s.readReg (.dbgctl n)] := by
  obtain ⟨hslot, hreg, hwr⟩ := debugRequest_fields (x := request s 0 0) (r := 0) hn (by omega) (by rw [hr, Nat.zero_mul, Nat.zero_add])
  refine ⟨s.answer 0 0 [s.readReg (.dbgctl n)], ?_, answers_answer rfl _ _ _⟩
  rw [happens, exec_serviceDebugSlot, execServiceDebugSlot, service_runs _ hf h (.inl rfl)]
  simp [arg_request, hslot, hreg, hwr, show ¬ 8 ≤ n by omega]

theorem serviceDebugSlot_record {s : State} (hf : s.mg.firmware = true) (h : asked s 0 6) (n : Nat) (d : DbgSlot) (f : Nat) (x : Fibre)
    (ga : Gather) (hn : n < 8) (hr : request s 0 0 = BitVec.ofNat 64 (18 * 256 + n)) (hd : s.dbgSlot n = some d)
    (hh : s.haltedFibre d (request s 0 1) = some (f, x, ga)) (ho : 8 * (request s 0 2).toNat < (s.fibreRecord f ga x).length) :
    ∃ t, happens (.serviceDebugSlot 0) s t ∧ answers s t 0 0 ((List.range 8).map fun k =>
      BitVec.ofNat 64 (little (((s.fibreRecord f ga x).drop (8 * (request s 0 2).toNat + 8 * k)).take 8))) := by
  obtain ⟨hslot, hreg, hwr⟩ := debugRequest_fields (r := 18) hn (by omega) hr
  refine ⟨s.answer 0 0 _, ?_, answers_answer rfl _ _ _⟩
  rw [happens, exec_serviceDebugSlot, execServiceDebugSlot, service_runs _ hf h (.inl rfl)]
  simp only [arg_request, hslot, hreg, hwr, State.debugRecord, dn_toNat, hd, Option.bind_some, hh, ← dwAt_eq_little]
  simp [show ¬ 8 ≤ n by omega, show ¬ (s.fibreRecord f ga x).length ≤ 8 * (request s 0 2).toNat by omega, upto, dn]

theorem serviceJobConfig_takes {s t : State} (hf : s.mg.firmware = true) (h : asked s 0 7) (hc : s.configure (s.mailbox 0) = some t)
    (hm : t.mg.mail = s.mg.mail) : happens (.serviceJobConfig 0) s (t.answer 0 0 []) ∧ answers s (t.answer 0 0 []) 0 0 [] := by
  refine ⟨?_, answers_answer hm _ _ _⟩
  rw [happens, exec_serviceJobConfig, execServiceJobConfig, service_runs _ hf h (.inl rfl), hc]
theorem serviceJobConfig_rejects {s : State} (hf : s.mg.firmware = true) (h : asked s 0 7) (hc : s.configure (s.mailbox 0) = none) :
    happens (.serviceJobConfig 0) s (s.answer 0 3 []) ∧ answers s (s.answer 0 3 []) 0 3 [] := by
  refine ⟨?_, answers_answer rfl _ _ _⟩
  rw [happens, exec_serviceJobConfig, execServiceJobConfig, service_runs _ hf h (.inl rfl), hc]

/-- A context record that R21, R43 and R44 allow, as `ctxAllowed` decides it. -/
theorem ctxAllowed_iff (s : State) (c : Ctx) : s.ctxAllowed c = true ↔
    (c.ctxid ∉ s.mg.ctxUsed ∧ (c.en = true → (s.disp.ctxs.filter fun x => x.1 != c.ctxid && x.2.en).length < 1024) ∧
      2 ^ 64 - 2 ^ 57 ≤ c.sb ∧ ((ctxOf s c.ctxid).en = true → c.en = true → (ctxOf s c.ctxid).sb = c.sb)) := by
  simp only [State.ctxAllowed, State.enabledBut, Bool.and_eq_true, Bool.or_eq_true, Bool.not_eq_true', List.length_map, List.contains_eq_mem,
    decide_eq_true_eq, decide_eq_false_iff_not, beq_iff_eq, and_assoc, or_assoc, imp_iff_not_or, Bool.not_eq_true]

/-- An item of kind 0 is a context record. -/
theorem configure_context {s : State} (h0 : (request s 0 0).extractLsb' 0 4 = 0) (c : Ctx)
    (hc : c = ⟨request s 0 1, request s 0 2, request s 0 3, request s 0 4, ((request s 0 0).extractLsb' 48 16).toNat⟩) :
    s.configure (s.mailbox 0) = if s.ctxAllowed c then some (s.putCtx c) else none := by
  have hk : bits (request s 0 0).toNat 3 0 = 0 := by rw [bits_toNat _ 3 0 4 rfl, h0]; rfl
  simp only [State.configure, arg_request, hk, dn_toNat, bits_toNat _ 63 48 16 rfl, ← hc]

theorem configure_peer {s : State} (h0 : request s 0 0 = 3) :
    s.configure (s.mailbox 0) = some { s with mg := { s.mg with
      peer := if (request s 0 1).getLsbD 63 then some ((request s 0 1).toNat % 1024) else none } } := by
  simp only [State.configure, arg_request, h0, dn_toNat]
  rfl

theorem serviceJobConfig_context {s : State} (hf : s.mg.firmware = true) (c : Ctx) (h : asked s 0 7)
    (h0 : (request s 0 0).extractLsb' 0 4 = 0)
    (hc : c = ⟨request s 0 1, request s 0 2, request s 0 3, request s 0 4, ((request s 0 0).extractLsb' 48 16).toNat⟩) :
    (s.ctxAllowed c = true → ∃ t, happens (.serviceJobConfig 0) s t ∧ answers s t 0 0 [] ∧ ctxOf t c.ctxid = c ∧
      t.mg.ctxUsed = c.ctxid :: s.mg.ctxUsed) ∧
    (¬ s.ctxAllowed c = true → ∃ t, happens (.serviceJobConfig 0) s t ∧ answers s t 0 3 [] ∧ t.disp = s.disp) := by
  have hcfg := configure_context h0 c hc
  refine ⟨fun ha => ?_, fun ha => ?_⟩
  · rw [if_pos ha] at hcfg
    obtain ⟨hx, hans⟩ := serviceJobConfig_takes hf h hcfg rfl
    exact ⟨_, hx, hans, congrArg (Option.getD · noCtx) (kvGet_kvSet_same _ _ _), rfl⟩
  · rw [if_neg ha] at hcfg
    obtain ⟨hx, hans⟩ := serviceJobConfig_rejects hf h hcfg
    exact ⟨_, hx, hans, rfl⟩

theorem serviceJobConfig_peer {s : State} (hf : s.mg.firmware = true) (h : asked s 0 7) (h0 : request s 0 0 = 3) :
    ∃ t, happens (.serviceJobConfig 0) s t ∧ answers s t 0 0 [] ∧
      t.mg.peer = if (request s 0 1).getLsbD 63 then some ((request s 0 1).toNat % 1024) else none :=
  have ⟨hx, hans⟩ := serviceJobConfig_takes hf h (configure_peer h0) rfl
  ⟨_, hx, hans, rfl⟩

theorem services_refuse {s : State} {fn : Nat} (hf : s.mg.firmware = true) (hv : fn ≠ 0) :
    (asked s fn 3 → ∃ t, happens (.serviceInvalidate fn) s t ∧ answers s t fn 2 []) ∧
    (asked s fn 4 → ∃ t, happens (.servicePowerMode fn) s t ∧ answers s t fn 2 []) ∧
    (asked s fn 6 → ∃ t, happens (.serviceDebugSlot fn) s t ∧ answers s t fn 2 []) ∧
    (asked s fn 7 → ∃ t, happens (.serviceJobConfig fn) s t ∧ answers s t fn 2 []) :=
  ⟨service_refuses (exec_serviceInvalidate fn s) hf hv, service_refuses (exec_servicePowerMode fn s) hf hv,
    service_refuses (exec_serviceDebugSlot fn s) hf hv, service_refuses (exec_serviceJobConfig fn s) hf hv⟩

/-! ## Firmware (R463) -/

theorem serviceLoadFirmware_valid {s : State} (h : asked s 0 8) (hv : Config.freeBit s.free = true) :
    happens (.serviceLoadFirmware 0) s { State.reset with free := s.free + 1, agenda := s.agenda } := by
  obtain ⟨-, hgo, hrun, hpend⟩ := h
  simp [happens, execServiceLoadFirmware, hgo, hrun, hpend, State.takeBit, hv, State.restart]

theorem serviceLoadFirmware_invalid {s : State} (h : asked s 0 8) (hv : Config.freeBit s.free = false) :
    ∃ t, happens (.serviceLoadFirmware 0) s t ∧ answers { s with free := s.free + 1 } t 0 4 [] := by
  refine ⟨State.answer { s with free := s.free + 1 } 0 4 [], ?_, answers_answer rfl _ _ _⟩
  obtain ⟨-, hgo, hrun, hpend⟩ := h
  simp [happens, execServiceLoadFirmware, hgo, hrun, hpend, State.takeBit, hv]

/-! ## Replies (R452) -/

/-- Reply dwords, by their numbers. -/
theorem kvGet_zipIdx (l : List Dword) (i k : Nat) : kvGet (i + k) ((l.zipIdx i).map fun p => (p.2, p.1)) = l[k]? := by
  induction l generalizing i k with
  | nil => rfl
  | cons x r ih =>
    rw [List.zipIdx_cons, List.map_cons, kvGet]
    cases k with
    | zero => simp
    | succ k =>
      rw [if_neg (by omega), show i + (k + 1) = i + 1 + k by omega, ih, List.getElem?_cons_succ]

theorem mailboxReply_idle {s : State} {fn : Nat} (h : (s.mailbox fn).go = false ∨ (s.mg.firmware = false ∧ (s.mailbox fn).run ≠ 8)) :
    nothing (.mailboxReply fn) s := by
  obtain h | ⟨hf, hr⟩ := h
  · simp [nothing, execMailboxReply, h]
  · simp [nothing, execMailboxReply, hf, hr]

theorem mailboxReply_replies {s : State} {fn : Nat} (st : Nat) (rep : List Dword) (hgo : (s.mailbox fn).go = true)
    (hp : (s.mailbox fn).pending = some (st, rep)) (h1 : (s.mailbox fn).run ≠ 1) (h3 : (s.mailbox fn).run ≠ 3)
    (hf : s.mg.firmware = true ∨ (s.mailbox fn).run = 8) :
    ∃ t m, happens (.mailboxReply fn) s t ∧ t.mailbox fn = m ∧ m.status = st ∧ m.done = true ∧ m.go = false ∧ m.pending = none ∧
      m.signals = (s.mailbox fn).signals + 1 ∧ ∀ k < rep.length, kvGet k m.rep = rep[k]? := by
  refine ⟨_, _, ?_, mailbox_setMailbox s fn { s.mailbox fn with
    rep := rep.zipIdx.map fun p => (p.2, p.1), status := st, done := true, go := false, pending := none,
    signals := (s.mailbox fn).signals + 1 }, rfl, rfl, rfl, rfl, rfl, fun k _ => ?_⟩
  · obtain hf | hf := hf <;> simp [happens, execMailboxReply, State.settleReply, hgo, hp, h1, h3, hf]
  · simpa using kvGet_zipIdx rep 0 k

theorem mailboxReply_noService {s : State} {fn : Nat} (hgo : (s.mailbox fn).go = true) (hp : (s.mailbox fn).pending = none)
    (hf : s.mg.firmware = true) (hr : (s.mailbox fn).run = 0 ∨ 8 < (s.mailbox fn).run) :
    ∃ t m, happens (.mailboxReply fn) s t ∧ t.mailbox fn = m ∧ m.status = 1 ∧ m.done = true ∧ m.go = false ∧ m.rep = [] := by
  refine ⟨_, _, ?_, mailbox_setMailbox s fn { s.mailbox fn with
    rep := [], status := 1, done := true, go := false, pending := none, signals := (s.mailbox fn).signals + 1 }, rfl, rfl, rfl, rfl⟩
  simp [happens, execMailboxReply, hgo, hp, hf, hr]

/-! ## Register writes (R5, R66, R452) -/

theorem registerWrite_xlatCmd {s : State} {v : Dword} (hi : s.mg.inval = none) (hk : v.extractLsb' 0 3 = 5) :
    ∃ t, happens (.registerWrite .xlatCmd v) s t ∧ t.readReg .xlatCmd = v &&& 0x3FFFFFFF := by
  have hkind : cmdKind (v.truncate 32) = 5 := by
    have hx : bits v.toNat 2 0 = 5 := by rw [bits_toNat _ 2 0 3 rfl, hk]; rfl
    simp only [cmdKind, bits, BitVec.truncate_eq_setWidth, BitVec.toNat_setWidth] at hx ⊢
    omega
  obtain ⟨-, -, -, -, hcmd⟩ := xlatCmd_all hi hkind
  refine ⟨s.xlatCmd (v.truncate 32), rfl, ?_⟩
  rw [State.readReg, hcmd, cmdMask]
  have mask (x : Nat) : x &&& 0x3FFFFFFF = x % 2 ^ 30 := Nat.and_two_pow_sub_one_eq_mod x 30
  apply BitVec.eq_of_toNat_eq
  simp [mask]

theorem registerWrite_mbreq (s : State) (v : Dword) {fn k : Nat} (hfn : fn < 64) (hk : k < 8) :
    ∃ t, happens (.registerWrite (.mbreq fn k) v) s t ∧ t.readReg (.mbreq fn k) = v ∧ t.ms = s.ms := by
  refine ⟨s.setMailbox fn { s.mailbox fn with req := kvSetD k 0 v (s.mailbox fn).req }, ?_, ?_, rfl⟩
  · simp [happens, execRegisterWrite, State.writeReg, hfn, hk]
  · rw [State.readReg, mailbox_setMailbox, kvGetD_kvSetD_same]

theorem registerWrite_mbctl (s : State) (v : Dword) {fn : Nat} (hfn : fn < 64) : ∃ t, happens (.registerWrite (.mbctl fn) v) s t ∧
    t.mailbox fn = (s.mailbox fn).control s.mg.firmware v := by
  refine ⟨_, ?_, mailbox_setMailbox s _ _⟩
  simp [happens, execRegisterWrite, State.writeReg, hfn]

/-! What a write of MBCTL does to a mailbox, in its three cases. -/

theorem control_starts {m : Mailbox} {fw : Bool} {v : Dword} (hgo : v.getLsbD 0 = true)
    (h : m.go = false ∨ (fw = false ∧ v.extractLsb' 24 8 = 8 ∧ m.run ≠ 8)) :
    (m.control fw v).go = true ∧ (m.control fw v).code = (v.extractLsb' 24 8).toNat ∧ (m.control fw v).run = (m.control fw v).code ∧
      (m.control fw v).taken = m.req := by
  obtain h | ⟨hf, hc, hr⟩ := h
  · simp [Mailbox.control, bits_toNat _ 31 24 8 rfl, -BitVec.extractLsb'_toNat, hgo, h]
  · simp [Mailbox.control, bits_toNat _ 31 24 8 rfl, hgo, hf, hc, hr]
theorem control_busy {m : Mailbox} {v : Dword} (hv : v.getLsbD 0 = true) (hgo : m.go = true) : m.control true v = m := by
  simp [Mailbox.control, hv, hgo]
theorem control_acknowledges {m : Mailbox} {fw : Bool} {v : Dword} (hv : v.getLsbD 0 = false) :
    m.control fw v = { m with code := (v.extractLsb' 24 8).toNat, done := m.done && !v.getLsbD 1 } := by
  simp only [Mailbox.control, bits_toNat _ 31 24 8 rfl, hv, Bool.false_and, Bool.false_eq_true, if_false]

/-! ## The on-chip map (R33, R34) -/

theorem mem_addrs {a n x : Nat} : x ∈ addrs a n ↔ ∃ k < n, x = a + k := by
  induction n generalizing a with
  | zero => simp [addrs]
  | succ n ih =>
    rw [addrs, List.mem_cons, ih]
    constructor
    · rintro (rfl | ⟨k, hk, rfl⟩)
      · exact ⟨0, by omega, rfl⟩
      · exact ⟨k + 1, by omega, by omega⟩
    · rintro ⟨k, hk, rfl⟩
      cases k with
      | zero => exact .inl rfl
      | succ k => exact .inr ⟨k, by omega, by omega⟩

/-- A transfer of the management core that breaks R33, or reaches an absent byte. -/
theorem mapRefused_iff (s : State) (off n : Nat) :
    (!mapTransfer off n || (addrs off n).any fun a => chipOf s a == .absent) = true ↔
      (n ∉ [8, 16, 32, 64] ∨ off % n ≠ 0 ∨ 2 ^ 34 ≤ off ∨ ∃ k < n, chipOf s (off + k) = .absent) := by
  simp only [mapTransfer, Bool.or_eq_true, Bool.not_eq_true', List.any_eq_true, mem_addrs, beq_iff_eq, Bool.and_eq_false_iff,
    beq_eq_false_iff_ne, decide_eq_false_iff_not, Nat.not_lt, List.contains_eq_mem, or_assoc]
  aesop

theorem onchipMapWrite_refused {s : State} {off : Nat} {bs : List Byte}
    (h : bs.length ∉ [8, 16, 32, 64] ∨ off % bs.length ≠ 0 ∨ 2 ^ 34 ≤ off ∨ (∃ k < bs.length, chipOf s (off + k) = .absent)) :
    happens (.onchipMapWrite off bs) s { s with mg := { s.mg with busErr := true } } := by
  rw [happens, exec_onchipMapWrite, execOnchipMapWrite, State.mgmtMapWrite, if_pos ((mapRefused_iff s off bs.length).2 h)]
  rfl
theorem onchipMapWrite_writes {s : State} {off : Nat} {bs : List Byte} (hn : bs.length ∈ [8, 16, 32, 64]) (ha : off % bs.length = 0)
    (hlt : off < 2 ^ 34) (hc : ∀ k < bs.length, chipOf s (off + k) ≠ .absent) :
    ∃ t, happens (.onchipMapWrite off bs) s t ∧ t = { s.chipWrite (cellsAt off bs) with mg := t.mg } ∧ t.mg.busErr = false := by
  refine ⟨(s.chipWrite (cellsAt off bs)).busEnd false, ?_, rfl, rfl⟩
  rw [happens, exec_onchipMapWrite, execOnchipMapWrite, State.mgmtMapWrite, if_neg]
  rw [mapRefused_iff]
  rintro (h | h | h | ⟨k, hk, h⟩)
  exacts [h hn, h ha, absurd hlt (by omega), hc k hk h]

end Sys2Proof.Machine
end

section
/-! What fails and what is limited: bridges, ports, dies, clusters, and power (R16 to R18, R98, R99, R105, R456, R457, R459 to R465). -/
namespace Sys2Proof.Machine
open Sys2Proof.Claims

/-! ## Dies that leave service (R461) -/

theorem units_dieOut {s : State} {d : Nat} (hd : d < 8) (hin : s.mg.dies.getLsbD d = true) :
    (s.dieOut d).units = { s.units with dies := s.mg.dies &&& ~~~(1#8 <<< d), degraded := true } := by
  unfold State.dieOut
  rw [if_neg (by simp [hd, hin])]
  extract_lets mine t u v mg ms w
  have ht : Steady s t := .cancelOn s mine
  have hu : Steady t u := .foldl _ (fun _ _ => .loseCluster _ _) _ t
  have hv : Steady u v := (Steady.loseTokens _ _ _).trans (.clearDie _ _)
  have hw : w.units = { v.units with dies := v.mg.dies &&& ~~~(1#8 <<< d), degraded := true } := rfl
  clear_value w v u t
  have hs : Steady s v := (ht.trans hu).trans hv
  have hrest : Steady w (((w.failReads.rebind).logEvent 5 d 0 (w.dieInc d)).progress) :=
    (((Steady.failReads w).trans (.rebind _)).trans (.logEvent _ _ _ _ _)).trans (.progress _)
  rw [hrest.units, hw, hs.units, hs.dies]
/-- One that is out already, or no die, stays so. -/
theorem dieOut_out {s : State} {d : Nat} (h : s.mg.dies.getLsbD d = false) : s.dieOut d = s := by
  rw [State.dieOut, if_pos (by simp [h])]
theorem bridge_dieOut {s : State} {d : Nat} (hd : d < 8) (b : Nat) : (s.dieOut d).bridge b = s.bridge b := by
  cases h : s.mg.dies.getLsbD d with
  | false => rw [dieOut_out h]
  | true => exact congrArg (fun u : Units => kvGetD b freshBridge u.bridges) (units_dieOut hd h)
theorem dies_dieOut {s : State} {d : Nat} (hd : d < 8) : (s.dieOut d).mg.dies.getLsbD d = false := by
  cases h : s.mg.dies.getLsbD d with
  | false => rw [dieOut_out h, h]
  | true =>
    have e : (s.dieOut d).mg.dies = _ := congrArg Units.dies (units_dieOut hd h)
    rw [e]
    simp
theorem degraded_dieOut {s : State} {d : Nat} (hd : d < 8) (h : s.mg.degraded = true) : (s.dieOut d).mg.degraded = true := by
  cases hin : s.mg.dies.getLsbD d with
  | false => rw [dieOut_out hin, h]
  | true => exact congrArg Units.degraded (units_dieOut hd hin)

theorem dieOutOfService_out {s : State} {d : Nat} (h : s.mg.dies.getLsbD d = false) : nothing (.dieOutOfService d) s :=
  congrArg Host.Outcome.next (dieOut_out h)
theorem dieOutOfService_leaves {s : State} {d : Nat} (hd : d < 8) (h : s.mg.dies.getLsbD d = true) :
    ∃ t, happens (.dieOutOfService d) s t ∧ t.mg.dies = s.mg.dies &&& ~~~(1#8 <<< d) ∧ t.mg.degraded = true :=
  have e := units_dieOut hd h
  ⟨_, rfl, congrArg Units.dies e, congrArg Units.degraded e⟩
theorem rowSparing_logs (s : State) {d : Nat} (hd : d < 8) (stack : Nat) :
    ∃ t e, happens (.rowSparing d stack) s t ∧ t.mg.log = s.mg.log ++ [e] ∧ e.kind = 3 ∧ t.ms = s.ms := by
  refine ⟨s.logEvent 3 d stack 0, _, ?_, rfl, rfl, rfl⟩
  rw [happens, exec_rowSparing, execRowSparing, if_neg (by omega)]

/-! ## Clusters that fail (R459) -/

theorem coreInc_nextInc (s : State) (j c : Nat) :
    (s.nextInc j).coreInc c = if j = 8 + c then (s.coreInc c + 1) % 256 else s.coreInc c := by
  split
  · next h => subst h; exact kvGetD_kvSetD_same _ _ _ _
  · next h => exact kvGetD_kvSetD_other (Ne.symm h) _ _ _
theorem nextIncs_elsewhere (f : Nat → Nat) (l : List Nat) (s : State) : (l.foldl (fun s k => s.nextInc (f k)) s).mg = s.mg ∧
    (l.foldl (fun s k => s.nextInc (f k)) s).mat = s.mat :=
  folded (R := fun s t => t.mg = s.mg ∧ t.mat = s.mat) (fun _ => ⟨rfl, rfl⟩) (fun h k => ⟨k.1.trans h.1, k.2.trans h.2⟩)
    (fun s k => s.nextInc (f k)) (fun _ _ => ⟨rfl, rfl⟩) l s
theorem coreInc_cluster (s : State) (c : Nat) {k : Nat} (hk : k < 4) :
    ((upto 4).foldl (fun s k => s.nextInc (8 + 4 * c + k)) s).coreInc (4 * c + k) = (s.coreInc (4 * c + k) + 1) % 256 := by
  have e (j : Nat) : 8 + 4 * c + j = 8 + (4 * c + k) ↔ j = k := by omega
  rw [show upto 4 = [0, 1, 2, 3] from rfl]
  simp only [List.foldl_cons, List.foldl_nil, coreInc_nextInc, e]
  interval_cases k <;> rfl

theorem clusterFailure_spare {s : State} {c : Nat} (hc : c < 160) (hin : s.mg.dies.getLsbD (c / 20) = true) (hs : c / 20 ∉ s.mg.spareUsed) :
    ∃ t, happens (.clusterFailure c) s t ∧ t.mg.spareUsed = c / 20 :: s.mg.spareUsed ∧ t.mg.dies = s.mg.dies ∧ t.seq? c = none ∧
      ∀ k < 4, t.coreInc (4 * c + k) = (s.coreInc (4 * c + k) + 1) % 256 := by
  refine ⟨_, (exec_clusterFailure c s).trans (congrArg Host.Outcome.next ((if_neg ?_).trans (if_neg ?_))), ?_⟩
  · simp [dieOfCl, hin]; omega
  · simpa [dieOfCl] using hs
  extract_lets a mg b n l
  have ha : Steady s a := (Steady.cancelOn s _).trans (.loseCluster _ _)
  have hq : a.seq? c = none := seq_loseCluster _ _
  clear_value a
  obtain ⟨hmg, hmat⟩ : n.mg = b.mg ∧ n.mat = b.mat := nextIncs_elsewhere _ _ _
  have hseq : n.seq? c = a.seq? c := congrArg (fun m : Mat => kvGet c m.seqs) hmat
  have hinc (k : Nat) (hk : k < 4) : n.coreInc (4 * c + k) = (a.coreInc (4 * c + k) + 1) % 256 := coreInc_cluster b c hk
  have hl : Steady n (((upto 4).foldl (fun s k => s.logEvent 8 (dieOfCl c) (4 * (c % 20) + k) (s.coreInc (4 * c + k))) l).progress) :=
    ((Steady.logEvent n _ _ _ _).trans (.foldl _ (fun _ _ => .logEvent _ _ _ _ _) _ l)).trans (.progress _)
  refine ⟨?_, ?_, hl.idle c (hseq.trans hq), fun k hk => ?_⟩
  · rw [hl.spareUsed, hmg, ← ha.spareUsed]; rfl
  · rw [hl.dies, hmg, ← ha.dies]
  · rw [hl.coreInc, hinc k hk, ha.coreInc]

/-! ## Bridges (R98, R99, R462) -/

@[simp] theorem bridge_setBridge_same (s : State) (b : Nat) (x : Bridge) : (s.setBridge b x).bridge b = x := kvGetD_kvSetD_same _ _ _ _
theorem bridge_setBridge_other (s : State) {b e : Nat} (h : e ≠ b) (x : Bridge) : (s.setBridge b x).bridge e = s.bridge e :=
  kvGetD_kvSetD_other h _ _ _

theorem linkRetrain_idle {s : State} {b : Nat} (h : (s.bridge b).fails < 8) (ok : Bool) : nothing (.linkRetrain b ok) s := by
  simp [nothing, execLinkRetrain, h]

theorem linkDown_idle {s : State} {b : Nat} (h : (s.bridge b).fails ≠ 8 ∨ (s.bridge b).spares ≠ 0 ∨ (s.bridge b).up = true) :
    nothing (.linkDown b) s := by
  refine congrArg Host.Outcome.next (if_pos ?_)
  obtain h | h | h := h <;> simp [Bridge.failed, h]
theorem linkFar_lt : ∀ {l : Nat}, l < 14 → linkFar l < 8 := by decide

/-- Both ends of link l are down, the far die with them, once what the link carried has failed; br is the end that reports it. -/
def State.fallen (s : State) (l br : Nat) : State :=
  let fall (s : State) (b : Nat) : State := s.setBridge b { s.bridge b with down := true, up := false }
  let s := (fall (fall s (2 * l)) (2 * l + 1)).logEvent 7 (bridgeDie br) br 0
  { s with mg := { s.mg with degraded := true } }.dieOut (linkFar l)
theorem fallen_spec (s : State) {l : Nat} (hl : l < 14) (br : Nat) : (s.fallen l br).mg.degraded = true ∧
    (s.fallen l br).mg.dies.getLsbD (linkFar l) = false ∧
    ∀ e, e / 2 = l → ((s.fallen l br).bridge e).down = true ∧ ((s.fallen l br).bridge e).up = false := by
  have hfar := linkFar_lt hl
  unfold State.fallen
  extract_lets fall v mg
  have hfall (w : State) (k : Nat) : fall w k = w.setBridge k { w.bridge k with down := true, up := false } := rfl
  have hv (e : Nat) : State.bridge { v with mg := { mg with degraded := true } } e = (fall (fall s (2 * l)) (2 * l + 1)).bridge e := rfl
  refine ⟨degraded_dieOut hfar rfl, dies_dieOut hfar, fun e he => ?_⟩
  rw [bridge_dieOut hfar, hv, hfall]
  obtain rfl | rfl : e = 2 * l + 1 ∨ e = 2 * l := by omega
  · rw [bridge_setBridge_same]; exact ⟨rfl, rfl⟩
  · rw [bridge_setBridge_other _ (by omega), hfall, bridge_setBridge_same]; exact ⟨rfl, rfl⟩
theorem execLinkDown_eq (br : Nat) (s : State) : execLinkDown br s = .next (if (28 ≤ br || !(s.bridge br).failed) = true then s
    else (s.failLink (bridgeDie (2 * (br / 2))) (bridgeDie (2 * (br / 2) + 1))).fallen (br / 2) br) := rfl

section
variable {s : State} {b : Nat} (hb : b < 28) (hup : (s.bridge b).down = false)
include hb hup

theorem flitReplay_counts (ok : Bool) : ∃ t, happens (.flitReplay ⟨b, ok⟩) s t ∧
    t.bridge b = { s.bridge b with retry := min 0xFFFF ((s.bridge b).retry + 1),
                                   fails := if (s.bridge b).fails = 8 then 8 else if ok then 0 else (s.bridge b).fails + 1 } := by
  refine ⟨_, ?_, bridge_setBridge_same s b _⟩
  simp [happens, execFlitReplay, hup]
  omega
theorem linkRetrain_succeeds (h : 8 ≤ (s.bridge b).fails) : ∃ t, happens (.linkRetrain b true) s t ∧
    t.bridge b = { s.bridge b with retrain := min 0xF ((s.bridge b).retrain + 1), fails := 0, up := true } := by
  refine ⟨_, ?_, bridge_setBridge_same s b _⟩
  simp [happens, execLinkRetrain, hup]
  omega
theorem linkRetrain_noSpare (h : 8 ≤ (s.bridge b).fails) (h0 : (s.bridge b).spares = 0) : ∃ t, happens (.linkRetrain b false) s t ∧
    t.bridge b = { s.bridge b with retrain := min 0xF ((s.bridge b).retrain + 1), up := false } := by
  refine ⟨_, ?_, bridge_setBridge_same s b _⟩
  simp [happens, execLinkRetrain, hup, h0]
  omega
theorem linkRetrain_spare (h : 8 ≤ (s.bridge b).fails) (h0 : 0 < (s.bridge b).spares) : ∃ t, happens (.linkRetrain b false) s t ∧
    (t.bridge b).spares = (s.bridge b).spares - 1 ∧ (t.bridge b).up = true ∧ (t.bridge b).spare = (s.bridge b).spare + 1 := by
  let x := { s.bridge b with
    retrain := min 0xF ((s.bridge b).retrain + 1), fails := 0, up := true, spares := (s.bridge b).spares - 1, spare := (s.bridge b).spare + 1 }
  have e : ((s.setBridge b x).logEvent 6 (bridgeDie b) b 0).bridge b = x := bridge_setBridge_same s b x
  refine ⟨(s.setBridge b x).logEvent 6 (bridgeDie b) b 0, ?_, by rw [e], by rw [e], by rw [e]⟩
  simp [happens, execLinkRetrain, hup, h0, x]
  omega
theorem linkDown_falls (hf : (s.bridge b).fails = 8) (hs : (s.bridge b).spares = 0) (hd : (s.bridge b).up = false) :
    ∃ t, happens (.linkDown b) s t ∧ t.mg.degraded = true ∧ t.mg.dies.getLsbD (linkFar (b / 2)) = false ∧
      ∀ e, e / 2 = b / 2 → (t.bridge e).down = true ∧ (t.bridge e).up = false := by
  refine ⟨_, ?_, fallen_spec (s.failLink (bridgeDie (2 * (b / 2))) (bridgeDie (2 * (b / 2) + 1))) (by omega) b⟩
  rw [happens, exec_linkDown, execLinkDown_eq, if_neg]
  simp [Bridge.failed, hf, hs, hd, hup, hb]
end

/-! ## Scale-up ports (R456, R457) -/

@[simp] theorem port_setPort (s : State) (p : Nat) (x : Port) : (s.setPort p x).port p = x := kvGetD_kvSetD_same _ _ _ _
theorem portLaneFailure_halves (s : State) {p : Nat} (hp : p < 24) :
    ∃ t, happens (.portLaneFailure p) s t ∧ (t.port p).lanes = min 2 (s.port p).lanes ∧ (t.port p).up = (s.port p).up := by
  refine ⟨s.setPort p { s.port p with lanes := min 2 (s.port p).lanes }, ?_, by rw [port_setPort], by rw [port_setPort]⟩
  rw [happens, exec_portLaneFailure, execPortLaneFailure, if_neg (by omega)]
theorem portDown_idle {s : State} {p : Nat} (h : (s.port p).up = false) : nothing (.portDown p) s := by
  rw [nothing, exec_portDown, execPortDown, if_pos (by simp [h])]
theorem portDown_falls {s : State} {p : Nat} (hp : p < 24) (h : (s.port p).up = true) :
    ∃ t, happens (.portDown p) s t ∧ (t.port p).up = false ∧ t.mg.degraded = true := by
  let u := (s.setPort p { s.port p with up := false }).logEvent 7 (if p < 12 then 8 else 9) p 0
  let v : State := { u with mg := { u.mg with degraded := true } }
  have hst : Steady v (v.loseTokens 0x09 v.toNowhere).failStores := (Steady.loseTokens _ _ _).trans (.failStores _)
  refine ⟨(v.loseTokens 0x09 v.toNowhere).failStores, ?_, ?_, hst.degraded⟩
  · rw [happens, exec_portDown, execPortDown, if_neg (by simp [h]; omega)]
  · rw [hst.port]
    exact congrArg Port.up (port_setPort s p _)

/-! ## Power (R16 to R18, R464, R465) -/

theorem powerChangeApply_applies {s : State} (h : ∀ i ∈ s.fab.insts, i.2.holdsPower = false) :
    ∃ t, happens .powerChangeApply s t ∧ t.mg.power.req = s.mg.power.req.tail ∧ t.mg.power.thr = s.mg.power.nextThr ∧
      (∀ m cap r, s.mg.power.req = (m, cap) :: r → t.mg.power.budget = cap ∧ t.mg.power.mode = if m = 0 ∧ cap < 3200 then 4 else m) ∧
      (s.mg.power.req = [] → t.mg.power.mode = s.mg.power.mode) := by
  refine ⟨{ s with mg := { s.mg with power := s.mg.power.apply } }, ?_, rfl, rfl, fun m cap r e => ?_, fun e => ?_⟩
  · rw [happens, exec_powerChangeApply, execPowerChangeApply, if_neg (by simpa using h)]
  · simp [Power.apply, e]
  · simp [Power.apply, e]

theorem stepTo_bounds (old new : Nat) : stepTo old new ≤ old + 4 ∧ old ≤ stepTo old new + 4 := by
  unfold stepTo
  split_ifs <;> omega
theorem stepTo_zero (old : Nat) : stepTo old 0 = old - 4 := by
  unfold stepTo
  split_ifs <;> omega
theorem meets_first {est : List Nat} {budget : Nat} (h : est.getD 0 0 ≤ budget) : meets est budget 0 = 0 := by
  rw [meets, addrs, List.find?_cons_of_pos (by simpa using h)]
  rfl

theorem arbiterInterval_early {s : State} (est estF : List Nat) (h : s.clock < s.mg.power.last + 2 ^ 16) :
    nothing (.arbiterInterval est estF) s := by
  rw [nothing, exec_arbiterInterval, execArbiterInterval]
  exact if_pos h
theorem arbiterInterval_steps {s : State} (est estF : List Nat) (h : s.mg.power.last + 2 ^ 16 ≤ s.clock) :
    ∃ t, happens (.arbiterInterval est estF) s t ∧ t.mg.power.last = s.clock ∧
      t.mg.power.nextThr ≤ s.mg.power.thr + 4 ∧ s.mg.power.thr ≤ t.mg.power.nextThr + 4 ∧
      (est.getD 0 0 ≤ s.mg.power.budget → t.mg.power.nextThr = s.mg.power.thr - 4) := by
  obtain ⟨hlo, hhi⟩ := stepTo_bounds s.mg.power.thr (meets est s.mg.power.budget 0)
  refine ⟨_, (if_neg (by omega) : execArbiterInterval est estF s = _), rfl, hlo, hhi, fun he => ?_⟩
  show stepTo _ (meets est s.mg.power.budget 0) = _
  rw [meets_first he, stepTo_zero]

theorem coolantLimit_enough {s : State} {w : Nat} (h : s.mg.power.asked.2 ≤ max 1600 w) : nothing (.coolantLimit w) s :=
  congrArg Host.Outcome.next (if_pos h)
theorem coolantLimit_asks {s : State} {w : Nat} (h : max 1600 w < s.mg.power.asked.2) : ∃ t, happens (.coolantLimit w) s t ∧
    t.mg.power = { s.mg.power with req := s.mg.power.req ++ [(s.mg.power.asked.1, max 1600 w)] } :=
  ⟨_, congrArg Host.Outcome.next (if_neg (Nat.not_le.2 h)), rfl⟩

end Sys2Proof.Machine
end

section
/-! The host window and peers (R40, R161, R178, R454): requests of agents outside, performed at the homes of their lines. -/
namespace Sys2Proof.Machine
open Sys2Proof.Claims

/-! ## Cells and bytes -/

theorem memPuts_append (m : List Host.Cell) (a b : List (Nat × Byte)) : memPuts (memPuts m a) b = memPuts m (a ++ b) :=
  (List.foldl_append ..).symm
/-- A byte that some cell writes, and that no cell writes with another value, takes that value. -/
theorem memGet_memPuts_eq {a : Nat} {v : Byte} (cs : List (Nat × Byte)) (m : List Host.Cell) (h : ∀ c ∈ cs, c.1 = a → c.2 = v)
    (hex : memGet m a = v ∨ ∃ c ∈ cs, c.1 = a) : memGet (memPuts m cs) a = v := by
  induction cs generalizing m with
  | nil => exact hex.resolve_right (by simp)
  | cons c r ih =>
    refine ih (memPut m c.1 c.2) (fun x hx => h x (.tail _ hx)) ?_
    by_cases hc : c.1 = a
    · left
      rw [← h c (.head _) hc, ← hc, memGet_memPut_same]
    · obtain hm | ⟨x, hx, hxa⟩ := hex
      · left; rw [memGet_memPut_other m (Ne.symm hc), hm]
      · obtain _ | hx := List.mem_cons.1 hx
        · simp_all
        · exact .inr ⟨x, hx, hxa⟩

theorem mem_cellsAt {a : Nat} {bs : List Byte} {c : Nat × Byte} : c ∈ cellsAt a bs ↔ ∃ k < bs.length, c = (a + k, bs.getD k 0) := by
  induction bs generalizing a with
  | nil => simp [cellsAt]
  | cons b r ih =>
    rw [cellsAt, List.mem_cons, ih]
    constructor
    · rintro (rfl | ⟨k, hk, rfl⟩)
      · exact ⟨0, by simp, rfl⟩
      · exact ⟨k + 1, by simpa using hk, by simp; omega⟩
    · rintro ⟨k, hk, rfl⟩
      cases k with
      | zero => exact .inl rfl
      | succ k => exact .inr ⟨k, by simpa using hk, by simp; omega⟩
theorem zip_addrs (a : Nat) (bs : List Byte) : (addrs a bs.length).zip bs = cellsAt a bs := by
  induction bs generalizing a with
  | nil => rfl
  | cons b r ih => rw [List.length_cons, addrs, List.zip_cons_cons, ih, cellsAt]
/-- The byte of a number at a place. -/
theorem leBytes_getD {n k : Nat} (x : Nat) (h : k < n) : (leBytes n x).getD k 0 = BitVec.ofNat 8 (x / 256 ^ k) := by
  induction n generalizing x k with
  | zero => omega
  | succ n ih =>
    cases k with
    | zero => simp [leBytes]
    | succ k => rw [leBytes, List.getD_cons_succ, ih _ (by omega), Nat.div_div_eq_div_mul, pow_succ']

/-- The bytes at a are bs, and no other byte of memory has changed. -/
def writes (s t : State) (a : Nat) (bs : List Byte) : Prop :=
  (∀ k < bs.length, t.byte (a + k) = bs.getD k 0) ∧ ∀ p, p < a ∨ a + bs.length ≤ p → t.byte p = s.byte p
/-- Memory has taken the cells of bs at a, in some order. -/
theorem writes_of_memPuts {s t : State} {a : Nat} {bs : List Byte} {cs : List (Nat × Byte)} (hm : t.ms.mem = memPuts s.ms.mem cs)
    (hcs : ∀ c, c ∈ cs ↔ c ∈ cellsAt a bs) : writes s t a bs := by
  have hb (p : Nat) : t.byte p = memGet (memPuts s.ms.mem cs) p := by rw [State.byte, hm]
  refine ⟨fun k hk => ?_, fun p hp => ?_⟩
  · rw [hb]
    refine memGet_memPuts_eq cs _ (fun c hc hca => ?_) (.inr ⟨(a + k, bs.getD k 0), (hcs _).2 (mem_cellsAt.2 ⟨k, hk, rfl⟩), rfl⟩)
    obtain ⟨j, -, rfl⟩ := mem_cellsAt.1 ((hcs c).1 hc)
    rw [show j = k by simpa using hca]
  · rw [hb]
    refine memGet_memPuts_other cs _ p fun c hc e => ?_
    obtain ⟨j, hj, rfl⟩ := mem_cellsAt.1 ((hcs c).1 hc)
    simp only at e
    omega

/-! ## What traffic keeps -/

/-- Memory, its poison and the grants stay as they are. -/
structure SameMem (s t : State) : Prop where
  mem : t.ms.mem = s.ms.mem
  poison : t.ms.poison = s.ms.poison
  grants : t.ms.grants = s.ms.grants

theorem SameMem.traffic : Traffic SameMem where
  refl _ := ⟨rfl, rfl, rfl⟩
  trans h k := ⟨k.mem.trans h.mem, k.poison.trans h.poison, k.grants.trans h.grants⟩
  holdBack _ := ⟨rfl, rfl, rfl⟩
  setAllowance _ _ _ _ := ⟨rfl, rfl, rfl⟩
  setCopy _ _ _ _ := ⟨rfl, rfl, rfl⟩
  staleWin _ _ _ := ⟨rfl, rfl, rfl⟩
theorem SameMem.byte {s t : State} (h : SameMem s t) (p : Nat) : t.byte p = s.byte p := by rw [State.byte, h.mem, State.byte]

/-- No line is poisoned, and none has a share given out. -/
structure Plain (s : State) : Prop where
  poison : s.ms.poison = []
  grants : s.ms.grants = []

theorem Plain.kept {s t : State} (h : Plain s) (k : SameMem s t) : Plain t := ⟨k.poison.trans h.poison, k.grants.trans h.grants⟩
theorem drainLine_noGrants {s : State} (h : s.ms.grants = []) (l : Nat) : s.drainLine l = s := by
  rw [State.drainLine, h]; rfl
theorem drainLines_noGrants {s : State} (h : s.ms.grants = []) : ∀ ls : List Nat, ls.foldl (fun s l => s.drainLine l) s = s
  | [] => rfl
  | l :: r => by rw [List.foldl_cons, drainLine_noGrants h, drainLines_noGrants h r]

/-- A line that is not poisoned takes the cells that are its own. -/
theorem writeLine_plain {s : State} (h : Plain s) (d l : Nat) (cs : List (Nat × Byte)) (cl : Bool) :
    (s.writeLine d l cs cl none).ms.mem = memPuts s.ms.mem (cs.filter fun c => lineOf c.1 == l) ∧ Plain (s.writeLine d l cs cl none) := by
  unfold State.writeLine
  extract_lets mine u v ms w
  rw [if_neg (by simp [h.poison])]
  have hu : SameMem s u := SameMem.traffic.own s d l none
  have hp : Plain u := h.kept hu
  have hw := SameMem.traffic.staleWins w (w.copyOf d l).win (fun b => mine.any fun c => c.1 == l * 128 + b) none
  have hplain : Plain w := ⟨show u.ms.poison.filter (· != l) = [] by rw [hp.poison]; rfl, hp.grants⟩
  have hmem : w.ms.mem = memPuts u.ms.mem mine := rfl
  exact ⟨by rw [hw.mem, hmem, hu.mem], hplain.kept hw⟩

/-! ## Writes and reads at the home -/

/-- Lines written one after the other. -/
theorem homeWrites_mem {s : State} (h : Plain s) (cl : Bool) (cs : List (Nat × Byte)) (ls : List Nat) :
    (ls.foldl (fun s l => ((s.sendIn l).drainLine l).writeLine (homeOf s (l * 128)) l cs cl none) s).ms.mem =
      memPuts s.ms.mem (ls.flatMap fun l => cs.filter fun c => lineOf c.1 == l) := by
  induction ls generalizing s with
  | nil => rfl
  | cons l r ih =>
    have hk : SameMem s (s.sendIn l) := SameMem.traffic.send s _ _ _
    have hp := h.kept hk
    obtain ⟨hm, hplain⟩ := writeLine_plain hp (homeOf s (l * 128)) l cs cl
    rw [List.foldl_cons, drainLine_noGrants hp.grants, ih hplain, hm, hk.mem, memPuts_append, List.flatMap_cons]
theorem homeWrite_writes {s : State} (h : Plain s) (cl : Bool) (a : Nat) (bs : List Byte) : writes s (s.homeWrite cl (cellsAt a bs)) a bs := by
  refine writes_of_memPuts (homeWrites_mem h cl _ _) fun c => ?_
  simp only [List.mem_flatMap, List.mem_filter, beq_iff_eq, linesOf, List.mem_eraseDups, List.mem_map]
  exact ⟨fun ⟨_, _, hc, _⟩ => hc, fun hc => ⟨_, ⟨c, hc, rfl⟩, hc, rfl⟩⟩
theorem readPhys_kept {s : State} (h : s.ms.grants = []) (a n : Nat) : SameMem s (s.readPhys a n).1 := by
  unfold State.readPhys
  extract_lets pas u
  have hu : u = s := drainLines_noGrants h _
  split_ifs
  · rw [hu]; exact SameMem.traffic.refl s
  · rw [hu]; exact SameMem.traffic.foldl _ (fun s l => SameMem.traffic.share s _ l) _ s
  · exact SameMem.traffic.refl s
theorem homeRead_kept {s : State} (h : s.ms.grants = []) (a n : Nat) : SameMem s (s.homeRead a n) := by
  unfold State.homeRead
  extract_lets ls u
  have hu : SameMem s u := SameMem.traffic.foldl _ (fun s l => SameMem.traffic.send s _ _ _) ls s
  exact SameMem.traffic.trans (SameMem.traffic.trans hu (readPhys_kept (hu.grants.trans h) a n))
    (SameMem.traffic.foldl _ (fun s l => SameMem.traffic.send s _ _ _) ls _)

/-! ## The host window (R161, R454) -/

theorem inMemory_iff (s : State) (a n : Nat) : ((addrs a n).all fun p => (placeOf s p).isMem) = true ↔ inMemory s a n := by
  simp only [List.all_eq_true, mem_addrs, inMemory]
  exact ⟨fun h k hk => h _ ⟨k, hk, rfl⟩, fun h p ⟨k, hk, e⟩ => e ▸ h k hk⟩

section
variable {s : State} {fn off : Nat} {bs : List (BitVec 8)} (hfn : fn < 64) (hoff : off + bs.length ≤ 2 ^ 36)

theorem hostWindowAccess_noFirmware (hf : s.mg.firmware = false) : nothing (.hostWindowAccess fn off 0 (some bs)) s :=
  congrArg Host.Outcome.next (if_pos (by simp [hf]))
theorem hostWindowAccess_outside {n : Nat} (h : ∃ k < n, (placeOf s ((kvGet fn s.mg.hwBase).getD 0 + off + k)).isMem = false) :
    nothing (.hostWindowAccess fn off n none) s := by
  have hno : ¬ inMemory s (kvGetD fn 0 s.mg.hwBase + off) n := fun hin => by
    obtain ⟨k, hk, e⟩ := h
    exact absurd (hin k hk) (by rw [kvGetD, e]; decide)
  refine congrArg Host.Outcome.next (if_pos ?_)
  rw [← inMemory_iff, Bool.not_eq_true] at hno
  simp only [hno, Bool.not_false, Bool.or_true]
include hfn hoff in
theorem hostWindowAccess_writes (hf : s.mg.firmware = true) (hin : inMemory s ((kvGet fn s.mg.hwBase).getD 0 + off) bs.length)
    (h : Plain s) : ∃ t, happens (.hostWindowAccess fn off 0 (some bs)) s t ∧ writes s t ((kvGet fn s.mg.hwBase).getD 0 + off) bs := by
  refine ⟨_, congrArg Host.Outcome.next (if_neg ?_), homeWrite_writes h false _ bs⟩
  have hall := (inMemory_iff s (kvGetD fn 0 s.mg.hwBase + off) bs.length).2 hin
  simp only [hf, hall]
  simp; omega
theorem hostWindowAccess_reads (h : s.ms.grants = []) (fn off n : Nat) :
    ∃ t, happens (.hostWindowAccess fn off n none) s t ∧ t.ms.mem = s.ms.mem := by
  refine ⟨_, rfl, ?_⟩
  dsimp only
  exact (either (SameMem.traffic.refl s) (homeRead_kept h _ n)).mem
end

/-! ## Peers (R40) -/

theorem peerRequest_reads {s : State} (h : s.ms.grants = []) (a n : Nat) (bs : List (BitVec 8)) :
    ∃ t, happens (.peerRequest .read a n bs) s t ∧ t.ms.mem = s.ms.mem :=
  ⟨_, rfl, (either (homeRead_kept h a n) (SameMem.traffic.refl s)).mem⟩
section
variable {s : State} {a : Nat} {bs : List (BitVec 8)} (n : Nat) (h : Plain s) (hin : inMemory s a bs.length) (hlt : a + bs.length ≤ 2 ^ 40)
include h hin hlt

theorem peerRequest_writes : ∃ t, happens (.peerRequest .write a n bs) s t ∧ writes s t a bs := by
  refine ⟨_, congrArg Host.Outcome.next (if_pos ?_), homeWrite_writes h true a bs⟩
  simp only [(inMemory_iff s a bs.length).2 hin, hlt, decide_true, Bool.and_true]
end

/-- An addition is a read of the copy and a write of it. -/
theorem rmwAt_addition (s : State) (die b c : Nat) (red : Bool) (pas : List Nat) :
    (s.rmwAt die ⟨2, false, 5, 0, red⟩ pas b c none).1 =
      let t := s.share die (lineOf (pas.headD 0))
      t.writeLine die (lineOf (pas.headD 0)) (pas.zip (leBytes 4 ((leNat (pas.map t.byte) + b) % 2 ^ 32))) false none := by
  simp only [State.rmwAt, atomNew, State.attachAll, AtomOp.bits, AtomOp.bytes, atomBits, Bool.false_eq_true, if_false, Nat.reduceDiv]
theorem rmwAt_adds {s : State} (h : Plain s) {a : Nat} (ha : a % 4 = 0) (die b c : Nat) (red : Bool) :
    writes s (s.rmwAt die ⟨2, false, 5, 0, red⟩ (addrs a 4) b c none).1 a (leBytes 4 ((leNat ((addrs a 4).map s.byte) + b) % 2 ^ 32)) := by
  have hk : SameMem s (s.share die (lineOf a)) := SameMem.traffic.share s die (lineOf a)
  have hold : (addrs a 4).map (s.share die (lineOf a)).byte = (addrs a 4).map s.byte := List.map_congr_left fun p _ => hk.byte p
  have hzip (x : Nat) : (addrs a 4).zip (leBytes 4 x) = cellsAt a (leBytes 4 x) := by
    rw [← zip_addrs, leBytes_length]
  rw [rmwAt_addition, show (addrs a 4).headD 0 = a from rfl]
  dsimp only
  rw [hold, hzip]
  generalize leNat ((addrs a 4).map s.byte) + b = x
  obtain ⟨hm, -⟩ := writeLine_plain (h.kept hk) die (lineOf a) (cellsAt a (leBytes 4 (x % 2 ^ 32))) false
  rw [hk.mem] at hm
  refine writes_of_memPuts hm fun c => ?_
  rw [List.mem_filter, mem_cellsAt, beq_iff_eq, and_iff_left_iff_imp]
  rintro ⟨k, hk, rfl⟩
  rw [leBytes_length] at hk
  simp only [lineOf]
  omega

theorem leNat_eq_little (bs : List Byte) : leNat bs = little bs := by
  induction bs with
  | nil => rfl
  | cons b r ih => rw [leNat, ih, little, little, List.foldr_cons]

/-- The bytes of a word are those of its number. -/
theorem holds_of_writes {s t : State} {a : Nat} {x : Nat} (h : writes s t a (leBytes 4 (x % 2 ^ 32))) : holds t a (BitVec.ofNat 32 x) := by
  intro k hk
  have hk : k < 4 := hk
  rw [h.1 k (by rwa [leBytes_length]), leBytes_getD _ hk]
  apply BitVec.eq_of_toNat_eq
  rw [BitVec.toNat_ofNat, BitVec.extractLsb'_toNat, BitVec.toNat_ofNat, Nat.shiftRight_eq_div_pow, pow_mul]
  rfl

section
variable {s : State} {a : Nat} {bs : List (BitVec 8)} (n : Nat) (h : Plain s) (hin : inMemory s a bs.length) (hlt : a + bs.length ≤ 2 ^ 40)
include h hin hlt

theorem peerRequest_adds (h4 : bs.length = 4) (ha : a % 4 = 0) (red : Bool) : ∃ t, happens (.peerRequest (.atomic 2 false red) a n bs) s t ∧
    holds t a (oldAt s 32 a + BitVec.ofNat 32 (little bs)) ∧ ∀ b, b < a ∨ a + 4 ≤ b → t.byte b = s.byte b := by
  have hk : SameMem s (s.sendIn (lineOf a)) := SameMem.traffic.send s _ _ _
  have hw := rmwAt_adds (h.kept hk) ha (homeOf s a) (leNat (bs.take 4)) (leNat ((bs.drop 4).take 4)) red
  generalize ht : ((s.sendIn (lineOf a)).rmwAt (homeOf s a) ⟨2, false, 5, 0, red⟩ (addrs a 4) (leNat (bs.take 4))
    (leNat ((bs.drop 4).take 4)) none).1 = t at hw
  have hb : SameMem t (t.sendBack (lineOf a)) := SameMem.traffic.send t _ _ _
  have hold : (addrs a 4).map (s.sendIn (lineOf a)).byte = (List.range 4).map fun k => s.byte (a + k) :=
    List.map_congr_left fun p _ => hk.byte p
  rw [hold, List.take_of_length_le h4.le, leNat_eq_little, leNat_eq_little] at hw
  refine ⟨t.sendBack (lineOf a), ?_, fun k hk => ?_, fun b hb' => ?_⟩
  · rw [← ht, ← drainLine_noGrants (h.kept hk).grants (lineOf a)]
    refine congrArg Host.Outcome.next (if_neg ?_)
    have hall := (inMemory_iff s a bs.length).2 hin
    rw [h4] at hall hlt
    simp [hall, ha, h.poison]
    omega
  · rw [hb.byte, holds_of_writes hw k hk, BitVec.ofNat_add]
    rfl
  · rw [hb.byte, hw.2 b (by rwa [leBytes_length]), hk.byte]
end

end Sys2Proof.Machine
end

section
/-! A second-tier device that does not answer, where only bounded reads may wait for it (R101). -/
namespace Sys2Proof.Machine
open Sys2Proof.Claims

/-- Nothing is in flight but bounded reads. -/
structure OnlyReads (s : State) : Prop where
  walks : s.ms.walks = []
  fills : s.ms.fills = []
  copies : s.ms.copies = []
  prods : s.fab.prods = []
  fibres : s.fab.fibres = []
  insts : s.fab.insts = []
  seqs : s.mat.seqs = []

theorem failWalks_none {s : State} (h : s.ms.walks = []) (lost : Lost) : s.failWalks lost = s := by
  rw [State.failWalks, h]
  exact congrArg (fun w => { s with ms := { s.ms with walks := w } }) h.symm
theorem failFills_none {s : State} (hf : s.ms.fills = []) (hb : s.ms.breads = []) (lost home : Lost) : s.failFills lost home = s := by
  rw [State.failFills, hf, hb]
  exact congrArg₂ (fun f b => { s with ms := { s.ms with fills := f, breads := b } }) hf.symm hb.symm
/-- The only bounded read fails. -/
theorem failFills_read {s : State} {b : BRead} (hf : s.ms.fills = []) (hb : s.ms.breads = [b]) (lost home : Lost)
    (hl : home (80 * agentDie b.agent) b.pa = true) :
    s.failFills lost home = State.addFresh { s with ms := { s.ms with breads := [] } } b.agent (.fail 0x0D (BitVec.ofNat 64 b.va)) := by
  have hw : [b].filter (fun b => home (80 * agentDie b.agent) b.pa) = [b] := by simp [hl]
  have hr : [b].filter (fun x => !([b].contains x)) = [] := by simp
  rw [State.failFills, hf, hb, hw]
  simp only [List.filter_nil, List.foldl_nil, List.foldl_cons, hr]
  exact congrArg (fun f => State.addFresh { s with ms := { s.ms with fills := f, breads := [] } } b.agent (.fail 0x0D (BitVec.ofNat 64 b.va))) hf.symm

/-- The fabrics' caches and counts may differ, and nothing else. -/
def SameButCores (s t : State) : Prop := ∃ c p, t = { s with fab := { s.fab with cores := c, perf := p } }
theorem SameButCores.refl (s : State) : SameButCores s s := ⟨s.fab.cores, s.fab.perf, rfl⟩
theorem SameButCores.trans {s t u : State} : SameButCores s t → SameButCores t u → SameButCores s u := by
  rintro ⟨c, p, rfl⟩ ⟨d, q, rfl⟩
  exact ⟨d, q, rfl⟩
theorem failIFills_sameButCores (s : State) (lost : Lost) : SameButCores s (s.failIFills lost) := by
  refine folded .refl .trans _ (fun s c => folded .refl .trans _ (fun s x => ?_) _ s) _ s
  have hc : SameButCores s (if x.counted && s.fetchStarts c.1 x.ctx x.line then s.count c.1 x.ctx 5 else s) :=
    either ⟨_, _, rfl⟩ (.refl s)
  exact hc.trans ⟨_, _, rfl⟩

/-- What fails once the fills have, where nothing else is in flight. -/
theorem timeout_rest {s : State} (h : OnlyReads s) (lost : Lost) (port : Nat) :
    let t := ((((s.failLoads lost).failAtoms lost).failLaunches lost).failNodes lost).failSeqs lost
    (t.ms.copies.map (·.1)).foldl (fun s c => s.failCopies port c 128) t = s := by
  have hl : s.failLoads lost = s := by rw [State.failLoads, h.prods]; rfl
  have ha : s.failAtoms lost = s := by rw [State.failAtoms, h.fibres]; rfl
  have hr : s.failLaunches lost = s := by rw [State.failLaunches, h.fibres]; rfl
  have hn : s.failNodes lost = s := by rw [State.failNodes, h.insts]; rfl
  have hs : s.failSeqs lost = s := by rw [State.failSeqs, h.seqs]; rfl
  simp only [hl, ha, hr, hn, hs, h.copies, List.map_nil, List.foldl_nil]

/-- Once the fills have failed, nothing follows that changes the memory system. -/
theorem secondTierTimeout_fills {s u : State} (port : Nat) (hw : s.ms.walks = [])
    (hf : s.failFills (fun _ pa => s.behind port pa) (fun _ pa => s.behind port pa) = u) (hu : OnlyReads u) :
    ∃ t, happens (.secondTierTimeout port) s t ∧ t.ms = u.ms := by
  obtain ⟨c, p, e⟩ := failIFills_sameButCores u (fun _ pa => s.behind port pa)
  have ht : OnlyReads (u.failIFills fun _ pa => s.behind port pa) := by
    rw [e]; exact ⟨hu.walks, hu.fills, hu.copies, hu.prods, hu.fibres, hu.insts, hu.seqs⟩
  refine ⟨u.failIFills fun _ pa => s.behind port pa, ?_, by rw [e]⟩
  rw [happens, exec_secondTierTimeout, execSecondTierTimeout, failWalks_none hw, hf]
  exact congrArg Host.Outcome.next (timeout_rest ht _ port)

theorem secondTierTimeout_none {s : State} (port : Nat) (h : OnlyReads s) (hb : s.ms.breads = []) :
    ∃ t, happens (.secondTierTimeout port) s t ∧ t.ms.fresh = s.ms.fresh ∧ t.ms.mem = s.ms.mem := by
  obtain ⟨t, ht, hms⟩ := secondTierTimeout_fills port h.walks (failFills_none h.fills hb _ _) h
  exact ⟨t, ht, by rw [hms], by rw [hms]⟩
theorem secondTierTimeout_read {s : State} (port : Nat) (h : OnlyReads s) (b : BRead) (hb : s.ms.breads = [b])
    (hp : placeOf s b.pa = .tier port) (hs : s.sharers (lineOf b.pa) = []) : ∃ t, happens (.secondTierTimeout port) s t ∧
      t.ms.breads = [] ∧ t.ms.fresh = s.ms.fresh ++ [(b.agent, .fail 0x0D (BitVec.ofNat 64 b.va))] := by
  have hl : s.behind port b.pa = true := by simp [State.behind, hp, hs]
  obtain ⟨t, ht, hms⟩ := secondTierTimeout_fills port h.walks (failFills_read h.fills hb _ _ hl)
    ⟨h.walks, h.fills, h.copies, h.prods, h.fibres, h.insts, h.seqs⟩
  exact ⟨t, ht, by rw [hms]; rfl, by rw [hms]; rfl⟩

end Sys2Proof.Machine
end

section
/-! The part as a whole: its clauses put together. -/
namespace Sys2Proof.Machine
open Sys2Proof.Claims

/-- Settles O51: it holds. Each clause is a lemma above: the services and their replies, the host window and peers from what a write at
a home puts into memory, the units that fail from what their failure leaves alone of the other units, and power and reset from their
definitions. -/
theorem partEvents : Obligations.PartEvents := by
  unfold Obligations.PartEvents
  refine ⟨fun s fn hf => ?services, fun s h => ?firmware, fun s fn => ?replies, fun s v => ?registers, fun s off bs => ?map,
    fun s fn off bs hfn hoff => ?window, fun s a bs n hp hg hin hlt => ?peers, fun s port hfl hpr hfi hc hw hi hs => ?timeout,
    fun s b hb hup => ?bridges, fun s p hp => ?ports, fun s d hd => ?dies, fun s c hc hin hs => clusterFailure_spare hc hin hs,
    fun s h => powerChangeApply_applies h, fun s est estF => ⟨arbiterInterval_early est estF, arbiterInterval_steps est estF⟩,
    fun s w => ⟨coolantLimit_enough, coolantLimit_asks⟩, fun s => ⟨rfl, rfl⟩⟩
  case services =>
    refine ⟨fun h _ hu => serviceRegister_otherJob hf h hu, fun u img h _ => ?_, fun o h _ => serviceWithdraw_withdraws hf h,
      serviceWithdraw_unknown hf, fun h _ => serviceInvalidate_starts hf h,
      fun h _ => ⟨servicePowerMode_malformed hf h _ _ rfl rfl, servicePowerMode_asks hf h _ _ rfl rfl⟩,
      fun h _ => serviceReadLog_reads hf h, fun h _ => ⟨serviceDebugSlot_malformed hf h, serviceDebugSlot_control hf h, ?_⟩,
      fun c h _ h0 hc => ?_, fun h _ h0 => serviceJobConfig_peer hf h h0, fun hv => services_refuse hf hv⟩
    · exact fun h1 h7 h2 hj hr hm hd hn => serviceRegister_registers hf h _ _ rfl h1 h7 h2 hj hr hm hd rfl hn
    · exact fun n d f x ga hn hr hd hh ho => serviceDebugSlot_record hf h n d f x ga hn hr hd hh ho
    · have k := serviceJobConfig_context hf c h h0 hc
      rwa [ctxAllowed_iff] at k
  case firmware => exact ⟨serviceLoadFirmware_valid h, serviceLoadFirmware_invalid h⟩
  case replies =>
    exact ⟨fun h => mailboxReply_idle (.inl h), fun hf hr => mailboxReply_idle (.inr ⟨hf, hr⟩), fun st rep => mailboxReply_replies st rep,
      mailboxReply_noService⟩
  case registers =>
    refine ⟨rfl, registerWrite_xlatCmd, rfl, rfl, fun _ => rfl, fun _ => rfl, fun _ => rfl, fun fn k => registerWrite_mbreq s v,
      fun fn hfn => ?_⟩
    obtain ⟨t, ht, hm⟩ := registerWrite_mbctl s v hfn
    refine ⟨t, ht, ?_, ?_, ?_⟩
    · rw [hm]; exact control_starts
    · rw [hm]; exact fun hv hgo hf => by rw [hf]; exact control_busy hv hgo
    · rw [hm]; exact control_acknowledges
  case map => exact ⟨onchipMapWrite_refused, onchipMapWrite_writes⟩
  case window =>
    exact ⟨hostWindowAccess_noFirmware, fun hf hin hp hg => hostWindowAccess_writes hfn hoff hf hin ⟨hp, hg⟩,
      fun n => hostWindowAccess_outside, fun n hg => hostWindowAccess_reads hg fn off n⟩
  case peers =>
    exact ⟨peerRequest_writes n ⟨hp, hg⟩ hin hlt, peerRequest_reads hg a n bs, peerRequest_adds n ⟨hp, hg⟩ hin hlt⟩
  case timeout =>
    have h : OnlyReads s := ⟨hw, hfl, hc, hpr, hfi, hi, hs⟩
    exact ⟨secondTierTimeout_none port h, secondTierTimeout_read port h⟩
  case bridges =>
    exact ⟨flitReplay_counts hb hup, fun h => linkRetrain_idle h, linkRetrain_succeeds hb hup, linkRetrain_noSpare hb hup,
      linkRetrain_spare hb hup, linkDown_idle, linkDown_falls hb hup⟩
  case ports => exact ⟨portLaneFailure_halves s hp, portDown_idle, portDown_falls hp⟩
  case dies => exact ⟨dieOutOfService_out, dieOutOfService_leaves hd, rowSparing_logs s hd⟩

end Sys2Proof.Machine
end

section
/-! What reset leaves: the accessors of the state at `State.reset`. Every table of that state is empty, so an accessor answers what an
entry that was never written holds. -/
namespace Sys2Proof.Machine

/-! ## Registers -/

/-- PWRM's BUDGET of 0xC80 stands at bit 8 (R16). -/
@[simp] theorem reset_powerWord : State.reset.mg.power.word = 0x000C8000 := rfl
/-- Neither ERR nor an invalidation in progress (R67). -/
@[simp] theorem reset_xlatStat : State.reset.xlatStat = 0 := rfl
/-- No die named, nothing in progress, no ERR (R184). -/
@[simp] theorem reset_bvdrain : State.reset.bvdrain = 0 := rfl

/-! ## Tables -/

/-- No debug slot is attached (R415). -/
@[simp] theorem reset_dbgSlot (n : Nat) : State.reset.dbgSlot n = none := rfl
/-- Every core holds CSPART's reset values (R72). -/
@[simp] theorem reset_partOf (core : Nat) : partOf State.reset core =
    { target := ⟨8, 16, 2, 6⟩, now := ⟨8, 16, 2, 6⟩, pend := 0, flush := false, err := false } := rfl
/-- No die has rejoined (R106). -/
@[simp] theorem reset_dieInc (die : Nat) : State.reset.dieInc die = 0 := rfl
/-- No core has rejoined (R106). -/
@[simp] theorem reset_coreInc (core : Nat) : State.reset.coreInc core = 0 := rfl
/-- No tile has an owner (R354). -/
@[simp] theorem reset_own (cl id : Nat) : State.reset.own? cl id = noOwn := rfl
@[simp] theorem reset_launch (lid : Nat) : State.reset.launch? lid = none := rfl
@[simp] theorem reset_fibre (f : Nat) : State.reset.fibre? f = none := rfl

/-- Settles O56: it holds. The registers have their reset values, and the tables list nothing. -/
theorem resetLeavesTheStatedValues : Obligations.ResetLeavesTheStatedValues := by
  unfold Obligations.ResetLeavesTheStatedValues
  refine ⟨rfl, reset_powerWord, rfl, rfl, reset_xlatStat, reset_bvdrain, rfl, rfl, rfl, fun n _ => reset_dbgSlot n, fun core => ?part,
    reset_dieInc, reset_coreInc, fun cl id => ?tile, reset_launch, reset_fibre, rfl⟩
  case part => rw [reset_partOf]; exact ⟨rfl, rfl⟩
  case tile => rw [reset_own]; exact ⟨rfl, rfl, rfl, rfl⟩

end Sys2Proof.Machine
end

section
/-! Accesses that fail (R20, R22, R36, R59, R314): what `State.resolve` answers where the address itself is refused, and what LD and ST
make of an answer that names no bytes they may have. -/
namespace Sys2Proof.Machine
open Sys2Proof.Claims

/-! ## Address rules (R20, R22) -/

section
variable (s : State) (w : Who) (ea n al : Nat) (need : Need)

theorem resolve_notCanonical (hc : (vaBytes ea n).any (fun a => !canonical a) = true) :
    s.resolve w ea n al need = (s, .bad ⟨0x09, ea⟩) := if_pos hc

variable (hc : (vaBytes ea n).any (fun a => !canonical a) = false)
include hc

/-- Outside the aperture alignment is checked first. -/
theorem resolve_misaligned (ha : (vaBytes ea n).any (ctxOf s w.ctx).inAperture = false) (hal : ea % al ≠ 0) :
    s.resolve w ea n al need = (s, .bad ⟨0x0B, ea⟩) := by
  simp only [State.resolve, hc, ha, bne_iff_ne.2 hal, Bool.false_eq_true, if_true, if_false]

variable (ha : (vaBytes ea n).any (ctxOf s w.ctx).inAperture = true)
include ha

theorem resolve_noAllocation (hg : w.ga = none) : s.resolve w ea n al need = (s, .bad ⟨0x09, ea⟩) := by
  simp only [State.resolve, hc, ha, hg, Bool.false_eq_true, if_true, if_false]

/-- In the aperture only the gather's own bytes are an access's, and those only where it is aligned. -/
theorem resolve_allocation {g : Gather} (hg : w.ga = some g) : s.resolve w ea n al need = (s,
    if ∀ a ∈ vaBytes ea n, (ctxOf s w.ctx).inAperture a = true ∧ a - (ctxOf s w.ctx).sb < g.spSize then
      if ea % al = 0 then .scratch ((vaBytes ea n).map (· - (ctxOf s w.ctx).sb)) else .bad ⟨0x0B, ea⟩
    else .bad ⟨0x09, ea⟩) := by
  have hown : ((vaBytes ea n).all fun a => (ctxOf s w.ctx).inAperture a && decide (a - (ctxOf s w.ctx).sb < g.spSize)) =
      decide (∀ a ∈ vaBytes ea n, (ctxOf s w.ctx).inAperture a = true ∧ a - (ctxOf s w.ctx).sb < g.spSize) := by
    rw [Bool.eq_iff_iff]; simp
  have hmis : (ea % al != 0) = decide (ea % al ≠ 0) := by rw [decide_not]; rfl
  simp only [State.resolve, hc, ha, hg, hown, hmis, Bool.false_eq_true, if_true, if_false, Bool.not_eq_true', decide_eq_false_iff_not,
    decide_eq_true_eq, ite_not, apply_ite (Prod.mk s)]
end

/-! ## What resolving leaves alone -/

theorem Quiet.xlateBytes (a u c : Nat) (n : Need) (ok : Nat → Leaf → Bool) :
    ∀ (vas : List Nat) (s : State), Quiet s (s.xlateBytes a u c n ok vas).1
  | [], s => Quiet.refl s
  | va :: r, s => (Quiet.xlateWait s a u c va n (ok va)).trans (Quiet.xlateBytes a u c n ok r _)

theorem Quiet.hostAddr (s : State) (a u c va pa : Nat) (n : Need) : Quiet s (s.hostAddr a u c va pa n).1 := by
  unfold State.hostAddr
  dsimp only
  split
  · exact .refl s
  · split
    · exact .ite (.refl s) (.ofMs s _ rfl)
    · split
      · exact .refl s
      · exact .ofMs s _ rfl

theorem Quiet.outsidePlace (s : State) (a u c va pa rgx : Nat) (n : Need) : Quiet s (s.outsidePlace a u c va pa rgx n).1 := by
  unfold State.outsidePlace
  split
  · have h := Quiet.hostAddr s a u c va pa n
    split <;> simpa only [*] using h
  · exact .refl s
  · exact .refl s

theorem Quiet.resolve (s : State) (w : Who) (ea n al : Nat) (need : Need) (heeds : Bool) (fits : Nat → Leaf → Bool) :
    Quiet s (s.resolve w ea n al need heeds fits).1 := by
  unfold State.resolve
  dsimp only
  split
  · exact .refl s
  split
  · split
    · exact .refl s
    · split_ifs <;> exact .refl s
  split
  · exact .refl s
  have h := Quiet.xlateBytes w.agent w.unit w.ctx need (fun va l => (!heeds || l.permits (vaBytes ea n)) && fits va l) (vaBytes ea n) s
  split <;> rename_i e <;> rw [e] at h
  · exact h
  · exact h
  split
  · exact h
  · exact h
  split
  · exact h
  · exact h
  · exact h
  · exact h.trans (.outsidePlace _ _ _ _ _ _ _ _)

theorem Quiet.resolved {s u : State} {w : Who} {ea n al : Nat} {need : Need} {heeds : Bool} {fits : Nat → Leaf → Bool} {r : Resolved}
    (h : s.resolve w ea n al need heeds fits = (u, r)) : Quiet s u := by
  have k := Quiet.resolve s w ea n al need heeds fits
  rwa [h] at k

/-- The launch of a fibre is found without the states of window words. -/
theorem launchOf_bare (s : State) (f : Nat) :
    s.launchOf f = ((s.gather? (gatherOf f)).map Gather.bare).bind fun g => kvGet g.lid s.disp.launches := by
  unfold State.launchOf
  cases s.gather? (gatherOf f) <;> rfl

theorem Quiet.jobOf {s t : State} (h : Quiet s t) (f : Nat) : t.jobOf f = s.jobOf f := by
  have hl : t.launchOf f = s.launchOf f := by rw [launchOf_bare, launchOf_bare, h.gathers, h.disp]
  rw [State.jobOf, hl, State.jobOf]

/-! ## A node's access (R59, R314) -/

/-- The access sizes of R314 are the model's. -/
theorem accessBytes_eq_sizeOf7 : accessBytes = sizeOf7 := funext (by decide)

/-- The sum of R314 over the whole numbers, modulo 2^64, is the sum of dwords. -/
theorem effective_eq_effAddr : effective = effAddr := by
  funext a off n
  have h : a + off.signExtend 64 * BitVec.ofNat 64 n = BitVec.ofInt 64 (a.toNat + off.toInt * n) := by
    rw [BitVec.ofInt_add, BitVec.ofInt_mul]
    simp [BitVec.signExtend]
  rw [effAddr, h, BitVec.toNat_ofInt]
  rfl

/-- A node whose operands have arrived goes on with their values. -/
theorem withNode_vals {s : State} {f e : Nat} {i : Inst} {l : List Operand} {xs : List Dword} (ds : List Dest)
    (k : Nat → Nat → Inst → List Dword → Result) (hcur : s.cur = .node f e) (hi : s.inst? f = some i) (hx : i.reads l = .vals xs) :
    withNode s l ds k = k f e i xs := by
  simp only [withNode, hcur, hi, hx]

/-- Nothing of a fibre's own is ahead of an access that has no bytes. -/
theorem ownAhead_nowhere (s : State) (f : Nat) : s.ownAhead f 9 [] = false := by
  unfold State.ownAhead
  split
  · simp only [List.contains_nil, Nat.reduceBEq, Bool.false_and, Bool.or_false, List.any_eq_false, Bool.not_eq_true]
    intro p _
    cases p.place <;> simp
  · rfl

/-- A load that has not been resolved reads its failure, whatever the instance's own stores. -/
theorem loadWith_bad (s : State) (f e : Nat) (i : Inst) (w : Who) (q ea n : Nat) (b : Bad) :
    s.loadWith f e i w q ea n (.bad b) = (s, .bad b) := rfl

/-- The on-chip map takes no store of fewer than 8 bytes, nor one to a window that the program may not write (R36). -/
theorem planStore_onchipBad {s : State} {job n off : Nat} (hb : n < 8 ∨ s.chipStoreBad off job = true) (w : Who) (e ea hint : Nat)
    (nib : Option Bool) (bs : List Byte) (rgx : Nat) :
    s.planStore w job e ea hint n nib bs (.onchip off rgx) = (s, some (.error ⟨0x09, ea⟩)) := by
  have h : (decide (n < 8) || s.chipStoreBad off job) = true := by rwa [Bool.or_eq_true, decide_eq_true_eq]
  simp only [State.planStore, h, if_true]

section
variable {s u : State} {f e : Nat} {i : Inst} {q sz : BitVec 3} {a x : Operand} {v : Dword} {off : BitVec 7}
  (hcur : s.cur = .node f e) (hi : s.inst? f = some i)
include hcur hi

theorem exec_ld_vals (d : Dest) (hx : i.reads [a] = .vals [v]) : exec (.ld q sz d a off) s = ldNode s q sz d v off f e i := by
  rw [exec_ld, execLd, hcur]
  dsimp only
  rw [withNode_vals _ _ hcur hi hx, List.getD_cons_zero]

theorem exec_st_vals {y : Dword} {r : List Dword} (hx : i.reads (stSrcs sz x a) = .vals (v :: y :: r)) :
    exec (.st q sz x a off) s = stNode s q sz v y (r.getD 0 0) off f e i := by
  rw [exec_st, execSt, hcur]
  dsimp only
  rw [stSrcs] at hx
  rw [withNode_vals _ _ hcur hi hx]
  simp only [List.getD_cons_zero, List.getD_cons_succ]

section
variable (d : Dest) (hx : i.reads [a] = .vals [v]) (hw : i.awaitsStore e = false)
include hx hw

theorem ld_bad {b : Bad} (hr : s.resolve (s.whoNode f e) (effAddr v off (sizeOf7 sz)) (sizeOf7 sz) (sizeOf7 sz) needR = (u, .bad b)) :
    exec (.ld q sz d a off) s = .next (traps u f e b.cause (BitVec.ofNat 64 b.tval) [v]) := by
  rw [exec_ld_vals hcur hi d hx]
  simp only [ldNode, hw, hr, onchipBad, Resolved.cells, ownAhead_nowhere, loadWith_bad, Bool.false_eq_true, if_false,
    OfNat.ofNat_ne_zero]
  cases slotOf d <;> rfl

theorem ld_narrow {o rgx : Nat} (hn : sizeOf7 sz < 8)
    (hr : s.resolve (s.whoNode f e) (effAddr v off (sizeOf7 sz)) (sizeOf7 sz) (sizeOf7 sz) needR = (u, .onchip o rgx)) :
    exec (.ld q sz d a off) s = .next (traps u f e 0x09 (BitVec.ofNat 64 (effAddr v off (sizeOf7 sz))) [v]) := by
  rw [exec_ld_vals hcur hi d hx]
  simp only [ldNode, hw, hr, onchipBad, hn, decide_true, Bool.false_eq_true, if_true, if_false]
  rfl
end

section
variable {y : Dword} {r : List Dword} (hx : i.reads (stSrcs sz x a) = .vals (v :: y :: r))
include hx

/-- A store whose plan fails is the node's fault. -/
theorem st_planFails {p : Resolved} {b : Bad}
    (hr : s.resolve (s.whoNode f e) (effAddr v off (sizeOf7 sz)) (sizeOf7 sz) (sizeOf7 sz) needW = (u, p))
    (hp : ∀ bs, u.planStore (s.whoNode f e) (u.jobOf f) e (effAddr v off (sizeOf7 sz)) q.toNat (sizeOf7 sz) none bs p =
      (u, some (.error b))) :
    exec (.st q sz x a off) s = .next (traps u f e b.cause (BitVec.ofNat 64 b.tval) [v]) := by
  rw [exec_st_vals hcur hi hx]
  simp only [stNode, hr, hp]
  rfl

theorem st_bad {b : Bad} (hr : s.resolve (s.whoNode f e) (effAddr v off (sizeOf7 sz)) (sizeOf7 sz) (sizeOf7 sz) needW = (u, .bad b)) :
    exec (.st q sz x a off) s = .next (traps u f e b.cause (BitVec.ofNat 64 b.tval) [v]) :=
  st_planFails hcur hi hx hr fun _ => rfl

/-- The map is asked for the job that the fibre has once its access is resolved, which is the job it had before. -/
theorem st_onchipBad {o rgx : Nat} (hb : sizeOf7 sz < 8 ∨ u.chipStoreBad o (s.jobOf f) = true)
    (hr : s.resolve (s.whoNode f e) (effAddr v off (sizeOf7 sz)) (sizeOf7 sz) (sizeOf7 sz) needW = (u, .onchip o rgx)) :
    exec (.st q sz x a off) s = .next (traps u f e 0x09 (BitVec.ofNat 64 (effAddr v off (sizeOf7 sz))) [v]) := by
  rw [← (Quiet.resolved hr).jobOf f] at hb
  exact st_planFails (b := ⟨0x09, _⟩) hcur hi hx hr fun bs => planStore_onchipBad hb ..
end
end

/-- Settles O34: it holds. The address rules are what resolving answers before it translates; LD and ST make the node's fault of such
an answer, and of a place in the on-chip map that does not take the access. -/
theorem accessesThatFailTheirChecks : Obligations.AccessesThatFailTheirChecks := by
  unfold Obligations.AccessesThatFailTheirChecks
  rw [accessBytes_eq_sizeOf7, effective_eq_effAddr]
  refine ⟨resolve_notCanonical, resolve_noAllocation, resolve_misaligned, fun s w ea n al need g hc hg ha => ?allocation,
    fun q sz d a x off s u f e i v y z b hcur hi =>
      ⟨fun hx hw hr => ld_bad hcur hi d hx hw hr, fun hx hr => st_bad hcur hi hx hr⟩,
    fun q sz d a x off s u f e i v y z o rgx hcur hi =>
      ⟨fun hx hw hr hn => ld_narrow hcur hi d hx hw hn hr, fun hx hr hb => st_onchipBad hcur hi hx hb hr⟩⟩
  case allocation =>
    rw [resolve_allocation s w ea n al need hc ha hg]
    refine ⟨fun ⟨a, hm, hn⟩ => ?outside, fun ho hal => ?misaligned, fun ho hal => ?own⟩
    case outside => rw [if_neg fun h => hn (h a hm)]
    case misaligned => rw [if_pos ho, if_neg hal]
    case own => rw [if_pos ho, if_pos hal]

end Sys2Proof.Machine
end

section
/-! Physical memory after reset (R28): no byte is listed, and each reads as zero. -/
namespace Sys2Proof.Machine

@[simp] theorem reset_mem : State.reset.ms.mem = [] := rfl

/-- Settles O57: it holds, since the canonical form of a memory of zeros lists no byte. -/
theorem resetMemoryIsCanonical : Obligations.ResetMemoryIsCanonical := by
  unfold Obligations.ResetMemoryIsCanonical Safety.MemoryCanonical
  rw [reset_mem]
  exact Memory.wf_nil

end Sys2Proof.Machine
end

section
/-! Which fault of an instance is reported, and when (R59, R209, R409). `Inst.stuck` adds, turn by turn, the nodes that wait for one that can
fire no more; after as many turns as nodes are left nothing is added, so that it holds exactly the nodes that can fire no more. -/
namespace Sys2Proof.Machine
open Sys2Proof.Claims

/-! ## The lowest of a list -/

theorem minBy_eq_none {α : Type} {f : α → Nat} {l : List α} : minBy f l = none ↔ l = [] := by
  cases l with
  | nil => simp [minBy]
  | cons x r =>
    rw [minBy]
    split
    · simp
    · split <;> simp
theorem minBy_le {α : Type} {f : α → Nat} {l : List α} {n : α} (h : minBy f l = some n) : n ∈ l ∧ ∀ w ∈ l, f n ≤ f w := by
  induction l generalizing n with
  | nil => cases h
  | cons x r ih =>
    rw [minBy] at h
    split at h
    next hr =>
      obtain rfl := Option.some.inj h
      simp [minBy_eq_none.1 hr]
    next y hr =>
      obtain ⟨hy, hle⟩ := ih hr
      rw [List.mem_cons, List.forall_mem_cons]
      split_ifs at h with hlt <;> obtain rfl := Option.some.inj h
      · exact ⟨.inr hy, hlt.le, hle⟩
      · exact ⟨.inl rfl, le_rfl, fun w hw => (Nat.le_of_not_lt hlt).trans (hle w hw)⟩
theorem lowestFault_eq {l : List NodeFault} {v : NodeFault} (hv : v ∈ l) (h : ∀ w ∈ l, v.eidx ≤ w.eidx ∧ (w.eidx = v.eidx → w = v)) :
    lowestFault l = some v := by
  cases hl : lowestFault l with
  | none => rw [minBy_eq_none.1 hl] at hv; cases hv
  | some n =>
    obtain ⟨hn, hle⟩ := minBy_le hl
    rw [(h n hn).2 (le_antisymm (hle v hv) (h n hn).1)]

/-! ## Nodes that can fire no more -/

/-- The node at an index is a MERGE. -/
def Inst.isMerge (i : Inst) (e : Nat) : Prop := ∃ d a b p, i.nodeAt e = some (.whole (.merge d a b p))

/-- A node waits in vain, given that some nodes can fire no more. -/
def Inst.blocked (i : Inst) (l : List Nat) (e : Nat) : Bool :=
  match (nodesOf i.body).find? fun q => q.1 == e with
  | some (_, .whole (.merge _ _ _ _)) => !(i.awaited e).isEmpty && (i.awaited e).all l.contains
  | _ => (i.awaited e).any l.contains

theorem stuck_succ (i : Inst) (n : Nat) (l : List Nat) :
    i.stuck (n + 1) l = i.stuck n (l ++ i.todo.filter fun e => !l.contains e && i.blocked l e) := rfl

theorem blocked_merge {i : Inst} {e : Nat} (h : i.isMerge e) (l : List Nat) :
    i.blocked l e = true ↔ i.awaited e ≠ [] ∧ ∀ k ∈ i.awaited e, k ∈ l := by
  obtain ⟨d, a, b, p, h⟩ := h
  obtain ⟨q, hq, hp⟩ := Option.map_eq_some_iff.1 h
  obtain ⟨k, m⟩ := q
  obtain rfl : m = _ := hp
  simp [Inst.blocked, hq]
theorem blocked_other {i : Inst} {e : Nat} (h : ¬ i.isMerge e) (l : List Nat) :
    i.blocked l e = true ↔ ∃ k ∈ i.awaited e, k ∈ l := by
  unfold Inst.blocked
  split
  next k d a b p hq => exact absurd ⟨d, a, b, p, by rw [Inst.nodeAt, hq]; rfl⟩ h
  next => simp

theorem cannotFire_of_blocked {i : Inst} {l : List Nat} {e : Nat} (hl : ∀ k ∈ l, CannotFire i k) (he : e ∈ i.todo)
    (h : i.blocked l e = true) : CannotFire i e := by
  by_cases hm : i.isMerge e
  · obtain ⟨hne, hall⟩ := (blocked_merge hm l).1 h
    obtain ⟨d, a, b, p, hm⟩ := hm
    exact .merge e d a b p he hm hne fun k hk => hl k (hall k hk)
  · obtain ⟨k, hk, hkl⟩ := (blocked_other hm l).1 h
    exact .waits e k he (fun d a b p hn => hm ⟨d, a, b, p, hn⟩) hk (hl k hkl)
theorem cannotFire_of_stuck {i : Inst} {n : Nat} {l : List Nat} (hl : ∀ k ∈ l, CannotFire i k) : ∀ k ∈ i.stuck n l, CannotFire i k := by
  induction n generalizing l with
  | zero => exact hl
  | succ n ih =>
    rw [stuck_succ]
    refine ih fun k hk => ?_
    simp only [List.mem_append, List.mem_filter, Bool.and_eq_true] at hk
    obtain hk | ⟨hk, -, hb⟩ := hk
    · exact hl k hk
    · exact cannotFire_of_blocked hl hk hb

/-- Nothing is left to be added. -/
def Inst.closed (i : Inst) (l : List Nat) : Prop := ∀ e ∈ i.todo, i.blocked l e = true → e ∈ l

theorem subset_stuck (i : Inst) (n : Nat) (l : List Nat) : l ⊆ i.stuck n l := by
  induction n generalizing l with
  | zero => exact List.Subset.refl l
  | succ n ih =>
    rw [stuck_succ]
    exact List.Subset.trans (List.subset_append_left l _) (ih _)
theorem filter_blocked_eq_nil {i : Inst} {l : List Nat} : (i.todo.filter fun e => !l.contains e && i.blocked l e) = [] ↔ i.closed l := by
  simp only [List.filter_eq_nil_iff, Inst.closed, Bool.and_eq_true, Bool.not_eq_true', List.contains_eq_mem, decide_eq_false_iff_not, not_and']
  exact forall₃_congr fun e _ _ => not_not
theorem stuck_of_closed {i : Inst} {l : List Nat} (h : i.closed l) (n : Nat) : i.stuck n l = l := by
  induction n with
  | zero => rfl
  | succ n ih => rw [stuck_succ, filter_blocked_eq_nil.2 h, List.append_nil, ih]
/-- Each turn but the last takes one of the nodes that are left. -/
theorem closed_stuck {i : Inst} {n : Nat} {l : List Nat} (h : (i.todo.filter (· ∉ l)).length ≤ n) : i.closed (i.stuck n l) := by
  induction n generalizing l with
  | zero =>
    intro e he _
    have : e ∉ i.todo.filter (· ∉ l) := by rw [List.length_eq_zero_iff.1 (Nat.le_zero.1 h)]; simp
    simpa [he, Inst.stuck] using this
  | succ n ih =>
    by_cases hc : i.closed l
    · rwa [stuck_of_closed hc]
    rw [stuck_succ]
    refine ih ?_
    generalize hnew : (i.todo.filter fun e => !l.contains e && i.blocked l e) = new
    obtain ⟨x, hx⟩ := List.exists_mem_of_ne_nil new fun h0 => hc (filter_blocked_eq_nil.1 (hnew.trans h0))
    have hxl : x ∈ i.todo ∧ x ∉ l := by
      rw [← hnew] at hx
      simp only [List.mem_filter, Bool.and_eq_true, Bool.not_eq_true', List.contains_eq_mem, decide_eq_false_iff_not] at hx
      exact ⟨hx.1, hx.2.1⟩
    have hsplit : i.todo.filter (· ∉ l ++ new) = (i.todo.filter (· ∉ l)).filter (· ∉ new) := by
      rw [List.filter_filter]
      exact List.filter_congr fun e _ => by simp [Bool.and_comm]
    have hlt : ((i.todo.filter (· ∉ l)).filter (· ∉ new)).length < (i.todo.filter (· ∉ l)).length :=
      List.length_filter_lt_length_iff_exists.2 ⟨x, by simpa using hxl, by simpa using hx⟩
    rw [hsplit]
    omega
theorem mem_of_cannotFire {i : Inst} {l : List Nat} (hc : i.closed l) (hf : ∀ v ∈ i.faults, v.eidx ∈ l) {k : Nat} (h : CannotFire i k) : k ∈ l := by
  induction h with
  | failed v hv => exact hf v hv
  | waits e k he hm hk _ ih => exact hc e he ((blocked_other (fun ⟨d, a, b, p, h⟩ => hm d a b p h) l).2 ⟨k, hk, ih⟩)
  | merge e d a b p he hm hne _ ih => exact hc e he ((blocked_merge ⟨d, a, b, p, hm⟩ l).2 ⟨hne, ih⟩)

theorem mem_stuck_iff (i : Inst) (k : Nat) : k ∈ i.stuck i.todo.length (i.faults.map (·.eidx)) ↔ CannotFire i k := by
  refine ⟨cannotFire_of_stuck (fun k hk => ?_) k, mem_of_cannotFire (closed_stuck (List.length_filter_le _ _)) fun v hv => ?_⟩
  · obtain ⟨v, hv, rfl⟩ := List.mem_map.1 hk
    exact .failed v hv
  · exact subset_stuck _ _ _ (List.mem_map_of_mem hv)

/-! ## The fault that is ready -/

/-- A node before index k may still fire, a BAR that has arrived apart. -/
def Inst.mayFireBefore (i : Inst) (k : Nat) : Prop := ∃ e ∈ i.todo, e < k ∧ (∀ b ∈ i.bars, b.1 ≠ e) ∧ ¬ CannotFire i e

theorem faultReady_noFault {i : Inst} (h : i.faults = []) : i.faultReady = none := by
  rw [Inst.faultReady, h]; rfl
theorem faultReady_lowest {i : Inst} {v : NodeFault} (h : lowestFault i.faults = some v) :
    (i.mayFireBefore v.eidx → i.faultReady = none) ∧ (¬ i.mayFireBefore v.eidx → i.faultReady = some v) := by
  have key : (i.todo.any fun e => e < v.eidx && !(i.bars.any fun b => b.1 == e) &&
      !(i.stuck i.todo.length (i.faults.map (·.eidx))).contains e) = true ↔ i.mayFireBefore v.eidx := by
    simp only [List.any_eq_true, Bool.and_eq_true, decide_eq_true_eq, Bool.not_eq_true', List.any_eq_false, beq_iff_eq, List.contains_eq_mem,
      decide_eq_false_iff_not, mem_stuck_iff, Inst.mayFireBefore, and_assoc]
  rw [Inst.faultReady, h]
  exact ⟨fun hm => if_pos (key.2 hm), fun hm => if_neg fun hk => hm (key.1 hk)⟩

/-! ## Reports -/

/-- INSTANCE_FAULT and a node's own fault: what is taken of an instance's faults while no report waits. -/
theorem instanceFault_eq {s : State} {f : Nat} {n : Inst} (hi : s.inst? f = some n) (hr : (s.fibre? f).any (·.report.isSome) = false) :
    exec (.instanceFault f) s = .next (match n.faultReady with
      | some v => s.takeTrap f n.hdr v false
      | none => s) := by
  rw [exec_instanceFault, execInstanceFault, hi, hr]
  dsimp only
  cases n.faultReady <;> rfl
theorem instanceFault_notReady {s : State} {f : Nat} {n : Inst} (hi : s.inst? f = some n) (h : n.faultReady = none) :
    exec (.instanceFault f) s = .next s := by
  rw [exec_instanceFault, execInstanceFault, hi]
  dsimp only
  rw [h]
theorem instanceFault_reportWaits {s : State} {f : Nat} {x : Fibre} (hx : s.fibre? f = some x) (hr : x.report ≠ none) :
    exec (.instanceFault f) s = .next s := by
  have hr : (s.fibre? f).any (·.report.isSome) = true := by simpa [hx, Option.isSome_iff_ne_none] using hr
  rw [exec_instanceFault, execInstanceFault, hr]
  cases s.inst? f with
  | none => rfl
  | some i => dsimp only; cases i.faultReady <;> rfl
theorem noReport {s : State} {f : Nat} {x : Fibre} (hx : s.fibre? f = some x) (hr : x.report = none) :
    (s.fibre? f).any (·.report.isSome) = false := by simp [hx, hr]

/-- Settles O28: it holds. The nodes that `Inst.stuck` counts out are those that can fire no more, so that the lowest fault is ready
just when no node before it may still fire. -/
theorem faultsAreReportedInOrder : Obligations.FaultsAreReportedInOrder := by
  unfold Obligations.FaultsAreReportedInOrder
  refine ⟨?lowest, ?early, fun s f x hx hr => instanceFault_reportWaits hx hr, ?own, ?delivery⟩
  case lowest =>
    intro s f n x v hi hx hr hv hlow hno
    have hready : n.faultReady = some v := (faultReady_lowest (lowestFault_eq hv hlow)).2 fun ⟨e, he, hlt, hb, hc⟩ =>
      (hno e he hlt).elim (fun ⟨b, hb', hbe⟩ => hb b hb' hbe) hc
    rw [instanceFault_eq hi (noReport hx hr), hready]
  case early =>
    intro s f n hi h
    refine instanceFault_notReady hi ?_
    cases hl : lowestFault n.faults with
    | none => exact faultReady_noFault (minBy_eq_none.1 hl)
    | some v =>
      obtain ⟨hv, -⟩ := minBy_le hl
      obtain h0 | ⟨e, he, hlt, hb, hc⟩ := h
      · rw [h0] at hv; cases hv
      · exact (faultReady_lowest hl).1 ⟨e, he, hlt v hv, hb, hc⟩
  case own =>
    intro s f n x e cause tval a b c hi hx hr h0 hle
    have hready : ({ n.done e with faults := n.faults ++ [⟨e, BitVec.ofNat 8 cause, tval, a, b, c⟩] } : Inst).faultReady =
        some ⟨e, BitVec.ofNat 8 cause, tval, a, b, c⟩ := by
      refine (faultReady_lowest (by rw [h0]; rfl)).2 fun ⟨k, hk, hlt, _⟩ => ?_
      exact absurd (hle k (List.mem_of_mem_erase hk)) (Nat.not_le.2 hlt)
    rw [State.nodeFault, hi]
    dsimp only
    rw [hready, show ((s.setInst f _).fibre? f).any (·.report.isSome) = false from noReport hx hr, h0]
    rfl
  case delivery =>
    intro s f x v hx hr
    rw [exec_postCommitTrapDelivery, execPostCommitTrapDelivery, hx]
    dsimp only
    rw [hr]

end Sys2Proof.Machine
end

section
/-! What the operations below the instructions leave alone, said once for every relation between states that their steps keep. A relation
that holds of the traffic between dies (`Traffic`) and of a change of memory, of the log, of a first-level cache and of the acting agent
holds of writes and drains; one that holds of a holder's, a grant's and a translation cache's changes too holds of walks; and one that
holds of changes of the fabrics' caches holds of fetches. -/
namespace Sys2Proof.Machine
open Sys2Proof.Claims

/-! ## Tokens -/

section
variable {R : State → State → Prop} (T : Traffic R)
include T

theorem Traffic.sendOn (s : State) (n a b c : Nat) : R s (s.sendOn n a b c) :=
  either (T.refl s) (either (T.holdBack s) (T.spend s _ _))
theorem Traffic.sendTierBack (s : State) (l : Nat) : R s (s.sendTierBack l) := either (T.refl s) (T.send s _ _ _)
theorem Traffic.awaitDrains (s : State) (l : Nat) : R s (s.awaitDrains l) := either (T.holdBack s) (T.refl s)
end

/-- Only second-level copies, the fills outstanding, allowances and the flag of a move held back differ in the memory system, and the
registers stay. -/
structure Passes (s t : State) : Prop where
  ms : t.ms = { s.ms with l2 := t.ms.l2, fills := t.ms.fills, allow := t.ms.allow, hold := t.ms.hold }
  mg : t.mg = s.mg

theorem Passes.traffic : Traffic Passes where
  refl _ := ⟨rfl, rfl⟩
  trans {s t u} h k := ⟨k.ms.trans (by rw [h.ms]), k.mg.trans h.mg⟩
  holdBack _ := ⟨rfl, rfl⟩
  setAllowance _ _ _ _ := ⟨rfl, rfl⟩
  setCopy _ _ _ _ := ⟨rfl, rfl⟩
  staleWin _ _ _ := ⟨rfl, rfl⟩

section
variable {s t : State} (h : Passes s t)
include h

theorem Passes.mem : t.ms.mem = s.ms.mem := by rw [h.ms]
theorem Passes.poison : t.ms.poison = s.ms.poison := by rw [h.ms]
theorem Passes.posted : t.ms.posted = s.ms.posted := by rw [h.ms]
theorem Passes.holders : t.ms.holders = s.ms.holders := by rw [h.ms]
theorem Passes.grants : t.ms.grants = s.ms.grants := by rw [h.ms]
theorem Passes.offers : t.ms.offers = s.ms.offers := by rw [h.ms]
theorem Passes.breads : t.ms.breads = s.ms.breads := by rw [h.ms]
theorem Passes.fresh : t.ms.fresh = s.ms.fresh := by rw [h.ms]
theorem Passes.inc : t.ms.inc = s.ms.inc := by rw [h.ms]
theorem Passes.byte (p : Nat) : t.byte p = s.byte p := by rw [State.byte, h.mem, State.byte]
theorem Passes.homeOf (pa : Nat) : homeOf t pa = homeOf s pa := by simp only [Machine.homeOf, nextDie, h.mg]
end

/-! ## Second-level copies -/

theorem copyOf_congr {s t : State} (h : t.ms.l2 = s.ms.l2) (d l : Nat) : t.copyOf d l = s.copyOf d l := by
  rw [State.copyOf, h, State.copyOf]
theorem sharers_congr {s t : State} (h : t.ms.l2 = s.ms.l2) (l : Nat) : t.sharers l = s.sharers l := by
  simp only [State.sharers, copyOf_congr h]
theorem recsAt_congr {s t : State} (h : t.ms.l2 = s.ms.l2) (l : Nat) (ds : List Nat) : t.recsAt l ds = s.recsAt l ds := by
  simp only [State.recsAt, copyOf_congr h]
theorem copyOf_setCopy_same (s : State) (d l : Nat) (c : L2Line) : (s.setCopy d l c).copyOf d l = c := kvGetD_kvSetD_same _ _ _ _
theorem copyOf_setCopy_other (s : State) {d e : Nat} (h : e ≠ d) (l : Nat) (c : L2Line) : (s.setCopy d l c).copyOf e l = s.copyOf e l :=
  kvGetD_kvSetD_other (by simp only [l2key]; omega) _ _ _
theorem mem_sharers {s : State} {l d : Nat} : d ∈ s.sharers l ↔ d < 8 ∧ (s.copyOf d l).st ≠ .i := by
  simp [State.sharers, upto]

/-- Tokens and stale window words change no copy. -/
def SameL2 (s t : State) : Prop := t.ms.l2 = s.ms.l2
theorem SameL2.refl (s : State) : SameL2 s s := rfl
theorem SameL2.trans {s t u : State} (h : SameL2 s t) (k : SameL2 t u) : SameL2 s u := Eq.trans k h
theorem SameL2.foldl {α : Type} (f : State → α → State) (h : ∀ s a, SameL2 s (f s a)) (l : List α) (s : State) : SameL2 s (l.foldl f s) :=
  folded .refl .trans f h l s
theorem SameL2.sendOn (s : State) (n a b c : Nat) : SameL2 s (s.sendOn n a b c) :=
  either (.refl s) (either rfl (.foldl (fun t k => t.setAllowance _ k _) (fun _ _ => rfl) _ s))
theorem SameL2.send (s : State) (a b c : Nat) : SameL2 s (s.send a b c) := .sendOn s _ a b c
theorem SameL2.sends (s : State) (a b c d e f : Nat) : SameL2 s ((s.send a b c).send d e f) := (SameL2.send s a b c).trans (.send _ d e f)
theorem SameL2.afterOwn (s : State) (d l : Nat) : SameL2 s (s.afterOwn d l) := either rfl (.refl s)
theorem SameL2.sendTierBack (s : State) (l : Nat) : SameL2 s (s.sendTierBack l) := either (.refl s) (.send s _ _ _)
theorem SameL2.sendRequest (s : State) (d l : Nat) (ds : List Nat) : SameL2 s (s.sendRequest d l ds) := by
  have h : SameL2 s ((s.admitted d).send d (homeOf s (l * 128)) 0) := SameL2.trans (t := s.admitted d) (either rfl (.refl s)) (.send _ _ _ _)
  have tier (t : State) : SameL2 t (t.sendTier l) := either (.refl t) (.sends t _ _ _ _ _ _)
  exact either ((h.trans (tier _)).trans (.send _ _ _ _)) (h.trans (.foldl _ (fun t _ => .sends t _ _ _ _ _ _) _ _))
theorem SameL2.staleWins (s : State) (ws : List (Nat × Nat)) (hit : Nat → Bool) (but : Option WinLine) :
    SameL2 s (s.staleWins ws hit but) :=
  .foldl (fun s w => if s.spares but w then s else s.staleWin w hit) (fun s _ => either (.refl s) rfl) ws s

/-- A copy that is held, no write of whose line is on its way from the die, is read as it is. -/
theorem share_held {s : State} {d l : Nat} (hd : (s.copyOf d l).st ≠ .i) (hp : s.ms.posted = []) : s.share d l = s := by
  have h : s.afterOwn d l = s := by simp [State.afterOwn, hp]
  unfold State.share
  rw [h]
  exact if_pos (by simpa using hd)
/-- The copy of a die that has asked for one. -/
theorem copyOf_share (s : State) (d l : Nat) : (s.share d l).copyOf d l =
    if (s.copyOf d l).st ≠ .i then s.copyOf d l
    else ⟨if (s.sharers l).isEmpty then .e else .s, s.recsAt l (homeOf s (l * 128) :: d :: s.sharers l), []⟩ := by
  unfold State.share
  extract_lets t others owner u recs v
  have ht : SameL2 s t := .afterOwn s d l
  have hu : SameL2 s u := ht.trans (.sendRequest t d l owner)
  have hhome : homeOf u (l * 128) = homeOf s (l * 128) :=
    (Passes.traffic.trans (Passes.traffic.afterOwn s d l) (Passes.traffic.sendRequest t d l owner)).homeOf _
  simp only [bne_iff_ne, copyOf_congr ht]
  by_cases hc : (s.copyOf d l).st ≠ .i
  · rw [if_pos hc, if_pos hc]
    exact copyOf_congr ht d l
  · rw [if_neg hc, if_neg hc, copyOf_setCopy_same]
    simp only [recs, others, recsAt_congr hu, sharers_congr ht, hhome]
/-- The copy is the same in states that differ elsewhere. -/
theorem copyOf_share_congr {s t : State} (h : t.ms.l2 = s.ms.l2) (hm : t.mg = s.mg) (d l : Nat) :
    (t.share d l).copyOf d l = (s.share d l).copyOf d l := by
  simp only [copyOf_share, copyOf_congr h, sharers_congr h, recsAt_congr h, homeOf, nextDie, hm]

/-! ## Writes -/

/-- It holds of writes below the first level, and of what a first-level cache writes back. -/
structure Below (R : State → State → Prop) : Prop extends Traffic R where
  write : ∀ (s : State) m l, R s { s with ms := { s.ms with mem := m, poison := s.ms.poison.filter (· != l) } }
  log : ∀ (s : State) k d u i, R s (s.logEvent k d u i)

section
variable {R : State → State → Prop} (B : Below R)
include B

theorem Below.writeLine (s : State) (d l : Nat) (cs : List (Nat × Byte)) (c : Bool) (but : Option WinLine) : R s (s.writeLine d l cs c but) := by
  unfold State.writeLine
  extract_lets mine u v ms w
  have hu : R s u := B.own s d l but
  have hw : R u w := B.write u (memPuts u.ms.mem mine) l
  exact either (B.log _ _ _ _ _) (B.trans (B.trans hu hw) (B.staleWins w _ _ but))
theorem Below.writeAt (s : State) (d : Nat) (cs : List (Nat × Byte)) (c : Bool) (but : Option WinLine) : R s (s.writeAt d cs c but) :=
  B.foldl _ (fun s l => B.writeLine s d l cs c but) _ s
theorem Below.applySums (s : State) (l : Nat) (k : BKind) (p : KV Word) : R s (s.applySums l k p) :=
  either (B.refl s) (either (B.log _ _ _ _ _) (B.foldl _ (fun s _ => B.writeLine s _ l _ _ _) _ s))
end

/-- It holds of what a first-level cache writes back and drops, for whichever agent. -/
structure Flushing (R : State → State → Prop) : Prop extends Below R where
  cur : ∀ (s : State) a, R s { s with cur := a }
  l1 : ∀ (s : State) m t, R s { s with ms := { s.ms with l1 := m, l1tag := t } }

section
variable {R : State → State → Prop} (F : Flushing R)
include F

theorem Flushing.partClean (s : State) (c l n : Nat) : R s (s.partClean c l n) := by
  unfold State.partClean
  extract_lets all whole cs u
  have hu : R s u := F.trans (F.cur s _) (F.trans (F.writeLine _ _ _ _ _ _) (F.cur _ _))
  exact either (F.refl s) (F.trans hu (F.trans (F.l1 u _ u.ms.l1tag) (either (F.refl _) (F.l1 _ _ _))))
theorem Flushing.attempt {m : State → State} (s : State) (h : ∀ s, R s (m s)) : R s (s.attempt m) :=
  either (F.refl s) (either (F.refl s) (h s))
theorem Flushing.writebackSome (s : State) (c : Nat) (keep : Nat → Bool) : R s (s.writebackSome c keep) :=
  F.foldl _ (fun s _ => F.foldl _ (fun s _ => F.attempt s fun t => F.partClean t _ _ _) _ s) _ s
theorem Flushing.drainRec (s : State) (d l : Nat) (r : RelRec) : R s (s.drainRec d l r) :=
  F.attempt s fun t => F.trans (F.trans (F.sends t _ _ _ _ _ _) (F.writebackSome _ _ _)) (either (F.refl _) (F.setCopy _ _ _ _))
theorem Flushing.drainRecs (s : State) (d l : Nat) : R s (s.drainRecs d l) := F.foldl _ (fun s r => F.drainRec s d l r) _ s
end

/-! ## Walks -/

/-- It holds of forced drains and of what a walk leaves in translation caches and among the answers. -/
structure Walking (R : State → State → Prop) : Prop extends Below R where
  sums : ∀ (s : State) h g p, R s { s with ms := { s.ms with holders := h, grants := g, posted := p } }
  answers : ∀ (s : State) t f, R s { s with ms := { s.ms with tlb := t, fresh := f } }

section
variable {R : State → State → Prop} (W : Walking R)
include W

theorem Walking.giveBack (s : State) (d l : Nat) (x : Dy) : R s (s.giveBack d l x) := by
  unfold State.giveBack
  split
  · exact W.refl s
  · exact W.sums s _ _ _
theorem Walking.applyPosted (s : State) (d l : Nat) : R s (s.applyPosted d l) := by
  unfold State.applyPosted
  extract_lets ps ms u
  refine W.trans (W.sums s _ _ _ : R s u) (W.foldl _ (fun s p => either (W.refl s) ?_) _ u)
  split
  · split
    · exact W.trans (W.applySums _ _ _ _) (W.giveBack _ _ _ _)
    · exact W.applySums _ _ _ _
  · exact W.refl s
theorem Walking.forceDrain (s : State) (d l : Nat) : R s (s.forceDrain d l) := by
  unfold State.forceDrain
  extract_lets u h v
  have hu : R s u := W.trans (W.send s _ _ _) (W.applyPosted _ d l)
  exact W.trans (W.trans hu (W.applySums u _ _ _)) (W.trans (W.sums v _ _ _) (W.giveBack _ _ _ _))
theorem Walking.drainLine (s : State) (l : Nat) : R s (s.drainLine l) := by
  unfold State.drainLine
  split
  · exact W.refl s
  · exact W.foldl _ (fun s d => W.trans (W.send s _ _ _) (W.forceDrain _ d l)) _ s
theorem Walking.walkLine (s : State) (d pa : Nat) : R s (s.walkLine d pa) :=
  either (W.trans (W.drainLine s _) (W.share _ _ _)) (W.refl s)
theorem Walking.walkFrom (d : Nat) (c : Ctx) (ctx va : Nat) : ∀ (n t : Nat) (s : State), R s (s.walkFrom d c ctx va n t).1
  | 0, _, s => W.refl s
  | n + 1, t, s => by
    unfold State.walkFrom
    extract_lets lvl a u
    refine W.trans (W.walkLine s d a : R s u) ?_
    split
    · exact W.refl u
    · extract_lets first v
      split_ifs
      · exact W.refl u
      · exact W.refl u
      · split <;> exact W.walkLine u d _
      · exact Walking.walkFrom d c ctx va n _ u
      · exact Walking.walkFrom d c ctx va n _ u
theorem Walking.tlbPut (s : State) (u : Nat) (x : Cached) : R s (s.tlbPut u x) := W.answers s _ s.ms.fresh
theorem Walking.tlbInstall (s : State) (u : Nat) (l : Leaf) : R s (s.tlbInstall u l) := W.trans (W.tlbPut s _ _) (W.tlbPut _ _ _)
theorem Walking.addFresh (s : State) (a : Nat) (x : Fresh) : R s (s.addFresh a x) := W.answers s s.ms.tlb _
/-- What a walk has found is kept. -/
theorem Walking.kept (d : Nat) (p : State × WalkEnd) : R p.1 (p.2.tables.foldl (fun s t => s.tlbPut (3000 + d) t) p.1) :=
  W.foldl _ (fun s t => W.tlbPut s _ t) _ _
theorem Walking.walkWhole (s : State) (d ctx va : Nat) : R s (s.walkWhole d ctx va).1 := by
  unfold State.walkWhole
  extract_lets c
  split
  · exact W.walkFrom _ _ _ _ _ _ s
  · exact W.refl s
theorem Walking.walkDie (s : State) (d ctx va : Nat) (afresh : Bool) (good : Leaf → Bool) : R s (s.walkDie d ctx va afresh good).1 := by
  have whole (t : State) (h : R s t) := W.trans (W.trans h (W.walkWhole t d ctx va)) (W.kept d (t.walkWhole d ctx va))
  unfold State.walkDie
  dsimp only
  split
  · exact whole s (W.refl s)
  next n t _ =>
    have h := W.walkFrom d (ctxOf s ctx) ctx va n t s
    split
    · split
      · exact W.trans h (W.kept d _)
      · exact whole _ h
    · exact whole _ h
theorem Walking.setAD (s : State) (d : Nat) (l : Leaf) (pa : Nat) (n : Need) : R s (s.setAD d l pa n).1 := by
  unfold State.setAD
  generalize (l.pte ||| 0x200#64 ||| (if n.w then 0x400#64 else 0)) = e
  dsimp only
  split
  · exact W.refl s
  · exact W.writeAt s d _ _ _
theorem Walking.serve (d va : Nat) (whole : Bool) (p : State × Walked) (x : Waiter) : R p.1 (State.serve d va whole p x).1 := by
  have install (t : State) (l : Leaf) (a : Fresh) (c : Bool) : R t ((if c = true then t else t.tlbInstall x.unit l).addFresh x.agent a) :=
    W.trans (either (W.refl t) (W.tlbInstall t _ _)) (W.addFresh _ _ _)
  unfold State.serve
  split
  · exact W.addFresh _ _ _
  · dsimp only
    split
    · exact W.trans (W.setAD _ _ _ _ _) (install _ _ _ _)
    · exact install _ _ _ _
theorem Walking.serves (d va : Nat) (whole : Bool) : ∀ (xs : List Waiter) (p : State × Walked), R p.1 (xs.foldl (State.serve d va whole) p).1
  | [], p => W.refl p.1
  | x :: xs, p => W.trans (W.serve d va whole p x) (Walking.serves d va whole xs _)
end

/-- What the walk itself comes to, once it has left the list of walks. -/
def State.walkOf (s : State) (w : Walk) : State × Walked × Bool :=
  let u : State := { s with ms := { s.ms with walks := s.ms.walks.filter (· != w) } }
  u.walkDie w.die w.ctx (w.page * 2 ^ 14) (w.restart || w.waiters.any (·.afresh)) fun l =>
    w.waiters.all fun x => u.grants? l (w.page * 2 ^ 14) x.need
theorem endWalk_eq (s : State) (w : Walk) : s.endWalk w =
    (w.waiters.foldl (State.serve w.die (w.page * 2 ^ 14) (s.walkOf w).2.2) ((s.walkOf w).1, (s.walkOf w).2.1)).1 := rfl

/-! ## Fetches -/

/-- It holds of whatever a fetch changes. -/
structure Fetching (R : State → State → Prop) : Prop extends Walking R where
  cur : ∀ (s : State) a, R s { s with cur := a }
  walks : ∀ (s : State) w, R s { s with ms := { s.ms with walks := w } }
  cores : ∀ (s : State) c p, R s { s with fab := { s.fab with cores := c, perf := p } }

section
variable {R : State → State → Prop} (F : Fetching R)
include F

omit F in
/-- An answer beside the state is at hand. -/
theorem answeredBy {α : Type} {s t : State} {p : State × α} {a : α} (h : R s p.1) (e : p = (t, a)) : R s t := by
  subst e; exact h
theorem Fetching.endWalk (s : State) (w : Walk) : R s (s.endWalk w) := by
  rw [endWalk_eq]
  exact F.trans (F.walks s _) (F.trans (F.walkDie _ _ _ _ _ _) (F.serves _ _ _ _ ((s.walkOf w).1, (s.walkOf w).2.1)))
theorem Fetching.freeWalker (s : State) (d c p : Nat) : R s (s.freeWalker d c p) :=
  F.foldl _ (fun s w => F.trans (F.cur s _) (F.trans (F.endWalk _ w) (F.cur _ _))) _ s
theorem Fetching.count (s : State) (u c k : Nat) : R s (s.count u c k) := F.cores s s.fab.cores _
theorem Fetching.countMiss (s : State) (u c : Nat) : R s (s.countMiss u c) := either (F.count s _ _ _) (either (F.count s _ _ _) (F.refl s))
theorem Fetching.setFabric (s : State) (c : Nat) (f : Fabric) : R s (s.setFabric c f) := F.cores s _ s.fab.perf
theorem Fetching.xlate (s : State) (u c v : Nat) (n : Need) (ok : Leaf → Bool) : R s (s.xlate u c v n ok).1 := by
  unfold State.xlate
  split
  · exact F.refl s
  · split
    · exact either (F.refl s) (F.trans (F.countMiss s _ _) (F.tlbPut _ _ _))
    · extract_lets die afresh t
      refine F.trans (F.trans (F.freeWalker s die c (vpage v)) (F.countMiss _ u c) : R s t) ?_
      split
      · exact F.tlbPut t _ _
      have h := F.walkDie t die c v afresh fun l => t.grants? l v n && ok l
      split
      next e => exact answeredBy h e
      next e =>
        split
        · exact F.trans (F.trans (answeredBy h e) (F.setAD _ _ _ _ _)) (F.tlbInstall _ _ _)
        · exact F.trans (answeredBy h e) (F.tlbInstall _ _ _)
theorem Fetching.fetchLeaf (s : State) (u c l : Nat) : R s (s.fetchLeaf u c l).1 := by
  unfold State.fetchLeaf
  extract_lets va
  split
  · exact F.refl s
  · have h := F.xlate s u c va needX (Leaf.permits [va, va + 127])
    split <;> exact answeredBy h ‹_›
theorem Fetching.fetchNow (s : State) (u d c l : Nat) : R s (s.fetchNow u d c l).1 := by
  have h := F.fetchLeaf s u c l
  unfold State.fetchNow
  split
  · exact answeredBy h ‹_›
  · dsimp only
    split
    · exact F.trans (answeredBy h ‹_›) (F.foldl _ (fun s l => F.share s _ l) _ _)
    · exact answeredBy h ‹_›
theorem Fetching.fetchBytes (s : State) (u d c l : Nat) : R s (s.fetchBytes u d c l).1 :=
  F.trans (F.cur s _) (F.trans (F.fetchNow _ u d c l) (F.cur _ _))
theorem Fetching.finishFill (s : State) (k : Nat) (x : IFill) : R s (s.finishFill k x).1 := by
  unfold State.finishFill
  extract_lets fb t u tell
  have hu : R s u := F.trans (F.setFabric s k _ : R s t) (either (F.count t _ _ _) (F.refl t))
  have h := F.trans hu (F.fetchBytes u k (dieOfCore k) x.ctx x.line)
  split
  · exact F.trans (answeredBy h ‹_›) (F.setFabric _ _ _)
  · exact F.trans (either (answeredBy h ‹_›) hu) (F.setFabric _ _ _)
theorem Fetching.fetchLine (s : State) (k c l : Nat) : R s (s.fetchLine k c l).1 := by
  unfold State.fetchLine
  split
  · exact F.setFabric s _ _
  · exact F.finishFill s _ _
theorem Fetching.fetchWords (s : State) (k c a n : Nat) : R s (s.fetchWords k c a n).1 := by
  have step (p : State × List (Nat × List Byte) × List Nat) (l : Nat) : R p.1 (match p.1.fetchLine k c l with
      | (s, some bs) => (s, p.2.1 ++ [(l, bs)], p.2.2)
      | (s, none) => (s, p.2.1, p.2.2 ++ [l])).1 := by
    split <;> exact answeredBy (F.fetchLine p.1 k c l) ‹_›
  have fold : ∀ (ls : List Nat) (p : State × List (Nat × List Byte) × List Nat), R p.1 (ls.foldl (fun p l =>
      match p.1.fetchLine k c l with
      | (s, some bs) => (s, p.2.1 ++ [(l, bs)], p.2.2)
      | (s, none) => (s, p.2.1, p.2.2 ++ [l])) p).1 := fun ls => by
    induction ls with
    | nil => exact fun p => F.refl p.1
    | cons l r ih => exact fun p => F.trans (step p l) (ih _)
  unfold State.fetchWords
  dsimp only
  split <;> exact fold _ (s, [], [])
theorem Fetching.readHeader (s : State) (k c a : Nat) : R s (s.readHeader k c a).1 := by
  unfold State.readHeader
  split
  · split <;> exact answeredBy (F.fetchWords s k c a 4) ‹_›
  · exact F.refl s
theorem Fetching.rereadSets (s : State) (k : Nat) (p : WSet → Bool) : R s (s.rereadSets k p) := by
  refine F.foldl _ (fun s w => ?_) _ s
  exact F.trans (F.readHeader s k w.ctx w.hdr.toNat) (F.setFabric _ _ _)
theorem Fetching.dropCode (s : State) (c : Inval) (gone : List TlbEntry) (k : Nat) : R s (s.dropCode c gone k) :=
  F.trans (F.setFabric s k _) (F.rereadSets _ k _)
end

end Sys2Proof.Machine
end

section
/-! Tokens that arrive at a home (R93, R95, R105, R172, R173, R325): writes, REDs, additions and drains. -/
namespace Sys2Proof.Machine
open Sys2Proof.Claims

/-! ## Bytes of an element -/

theorem addrs_eq_map (a n : Nat) : addrs a n = (List.range n).map (a + ·) := by
  induction n generalizing a with
  | zero => rfl
  | succ n ih =>
    rw [addrs, ih, List.range_succ_eq_map, List.map_cons, List.map_map, Nat.add_zero]
    refine congrArg _ (List.map_congr_left fun k _ => ?_)
    simp only [Function.comp_apply]
    omega
theorem addrs_length (a n : Nat) : (addrs a n).length = n := by simp [addrs_eq_map]
theorem leNat_addrs (f : Nat → Byte) (a n : Nat) : leNat ((addrs a n).map f) = little ((List.range n).map fun k => f (a + k)) := by
  rw [leNat_eq_little, addrs_eq_map, List.map_map]; rfl
theorem zip_leBytes (a n x : Nat) : (addrs a n).zip (leBytes n x) = cellsAt a (leBytes n x) := by
  rw [← zip_addrs, leBytes_length]

/-- An aligned element of at most a line lies in one line. -/
theorem lineOf_element {a n k : Nat} (hn : n ∣ 128) (ha : a % n = 0) (hk : k < n) : lineOf (a + k) = lineOf a := by
  obtain ⟨c, rfl⟩ := Nat.dvd_of_mod_eq_zero ha
  obtain ⟨m, hm⟩ := hn
  have hn : 0 < n := by omega
  rw [lineOf, lineOf, hm, ← Nat.div_div_eq_div_mul, ← Nat.div_div_eq_div_mul, Nat.mul_add_div hn, Nat.div_eq_of_lt hk,
    Nat.mul_div_cancel_left _ hn, Nat.add_zero]

/-! ## A line that is written -/

/-- A line that is not poisoned takes the cells that are its own. -/
theorem writeLine_mem {s : State} {l : Nat} (h : s.ms.poison.contains l = false) (d : Nat) (cs : List (Nat × Byte)) (cl : Bool)
    (but : Option WinLine) : (s.writeLine d l cs cl but).ms.mem = memPuts s.ms.mem (cs.filter fun c => lineOf c.1 == l) := by
  unfold State.writeLine
  extract_lets mine u v ms w
  rw [if_neg (by simp_all), (Passes.traffic.staleWins w _ _ but).mem]
  exact congrArg (memPuts · mine) (Passes.traffic.own s d l but).mem
/-- Its element, all of whose bytes lie in it. -/
theorem writeLine_writes {s : State} {l a : Nat} {bs : List Byte} (h : s.ms.poison.contains l = false)
    (hl : ∀ k < bs.length, lineOf (a + k) = l) (d : Nat) (cl : Bool) (but : Option WinLine) :
    writes s (s.writeLine d l (cellsAt a bs) cl but) a bs := by
  refine writes_of_memPuts (writeLine_mem h d _ cl but) fun c => ?_
  rw [List.mem_filter, beq_iff_eq, and_iff_left_iff_imp]
  intro hc
  obtain ⟨k, hk, rfl⟩ := mem_cellsAt.1 hc
  exact hl k hk

/-- What writes of lines leave alone: the circuits, the grants, and that nothing is poisoned. -/
structure SameFlight (s t : State) : Prop where
  posted : t.ms.posted = s.ms.posted
  grants : t.ms.grants = s.ms.grants
  poison : s.ms.poison = [] → t.ms.poison = []
theorem SameFlight.below : Below SameFlight where
  refl _ := ⟨rfl, rfl, id⟩
  trans h k := ⟨k.posted.trans h.posted, k.grants.trans h.grants, k.poison ∘ h.poison⟩
  holdBack _ := ⟨rfl, rfl, id⟩
  setAllowance _ _ _ _ := ⟨rfl, rfl, id⟩
  setCopy _ _ _ _ := ⟨rfl, rfl, id⟩
  staleWin _ _ _ := ⟨rfl, rfl, id⟩
  write _ _ _ := ⟨rfl, rfl, fun h => by simp [h]⟩
  log _ _ _ _ _ := ⟨rfl, rfl, id⟩

/-- Lines written at their homes, one after the other. -/
def State.writeHomes (s : State) (cs : List (Nat × Byte)) (but : Option WinLine) (ls : List Nat) : State :=
  ls.foldl (fun s l => s.writeLine (homeOf s (l * 128)) l cs true but) s

theorem writeHomes_cons (s : State) (cs : List (Nat × Byte)) (but : Option WinLine) (l : Nat) (ls : List Nat) :
    s.writeHomes cs but (l :: ls) = (s.writeLine (homeOf s (l * 128)) l cs true but).writeHomes cs but ls := by
  simp only [State.writeHomes, List.foldl_cons]
theorem writeHomes_flight (s : State) (cs : List (Nat × Byte)) (but : Option WinLine) (ls : List Nat) : SameFlight s (s.writeHomes cs but ls) :=
  SameFlight.below.foldl _ (fun s l => SameFlight.below.writeLine s _ l cs true but) ls s
theorem writeHomes_mem {s : State} (h : s.ms.poison = []) (cs : List (Nat × Byte)) (but : Option WinLine) (ls : List Nat) :
    (s.writeHomes cs but ls).ms.mem = memPuts s.ms.mem (ls.flatMap fun l => cs.filter fun c => lineOf c.1 == l) := by
  induction ls generalizing s with
  | nil => rfl
  | cons l r ih =>
    have hp := (SameFlight.below.writeLine s (homeOf s (l * 128)) l cs true but).poison h
    rw [writeHomes_cons, ih hp, writeLine_mem (by simp [h]), memPuts_append, List.flatMap_cons]
/-- A posted write: each of its bytes is in memory, and no other byte has changed. -/
theorem writeHomes_bytes {s : State} (h : s.ms.poison = []) {cs : List (Nat × Byte)} (hn : (cs.map (·.1)).Nodup) (but : Option WinLine) :
    (∀ c ∈ cs, (s.writeHomes cs but (linesOf cs)).byte c.1 = c.2) ∧
      ∀ pa ∉ cs.map (·.1), (s.writeHomes cs but (linesOf cs)).byte pa = s.byte pa := by
  have hmem (c : Nat × Byte) : (c ∈ (linesOf cs).flatMap fun l => cs.filter fun c => lineOf c.1 == l) ↔ c ∈ cs := by
    simp only [List.mem_flatMap, List.mem_filter, beq_iff_eq, linesOf, List.mem_eraseDups, List.mem_map]
    exact ⟨fun ⟨_, _, hc, _⟩ => hc, fun hc => ⟨_, ⟨c, hc, rfl⟩, hc, rfl⟩⟩
  simp only [State.byte, writeHomes_mem h]
  refine ⟨fun c hc => memGet_memPuts_eq _ _ (fun x hx hxc => ?_) (.inr ⟨c, (hmem c).2 hc, rfl⟩), fun pa hpa => memGet_memPuts_other _ _ _ ?_⟩
  · rw [List.inj_on_of_nodup_map hn ((hmem x).1 hx) hc hxc]
  · rintro c hc rfl
    exact hpa (List.mem_map_of_mem ((hmem c).1 hc))

theorem drainLine_noGrant {s : State} {l : Nat} (h : kvGet l s.ms.grants = none) : s.drainLine l = s := by
  rw [State.drainLine, h]
/-- Two folds agree where their steps do, on states that keep what the agreement needs. -/
theorem foldl_eq_of_keeps {α β : Type} {f g : β → α → β} {P : β → α → Prop} (hf : ∀ b a, P b a → f b a = g b a)
    (hk : ∀ b a c, P b c → P (g b a) c) : ∀ (l : List α) (b : β), (∀ a ∈ l, P b a) → l.foldl f b = l.foldl g b
  | [], _, _ => rfl
  | a :: r, b, h => by
    rw [List.foldl_cons, List.foldl_cons, hf b a (h a (.head _))]
    exact foldl_eq_of_keeps hf hk r _ fun c hc => hk b a c (h c (.tail _ hc))
/-- Where no share of the lines is given out, no drain precedes the write of bounded elements (R178). -/
theorem boundedHomes_eq {s : State} (cs : List (Nat × Byte)) (but : Option WinLine) (ls : List Nat)
    (h : ∀ l ∈ ls, kvGet l s.ms.grants = none) :
    ls.foldl (fun s l => (s.drainLine l).writeLine (homeOf s (l * 128)) l cs true but) s = s.writeHomes cs but ls := by
  refine foldl_eq_of_keeps (P := fun s l => kvGet l s.ms.grants = none) (fun s l h => ?_) (fun s a c h => ?_) ls s h
  · rw [drainLine_noGrant h]
  · rwa [(SameFlight.below.writeLine s _ a cs true but).grants]

/-! ## Arrival -/

theorem dropAt_eq_eraseIdx {α : Type} (i : Nat) (l : List α) : dropAt i l = l.eraseIdx i := by
  induction l generalizing i with
  | nil => cases i <;> rfl
  | cons x r ih =>
    cases i with
    | zero => rfl
    | succ i => rw [dropAt, ih, List.eraseIdx_cons_succ]
theorem takeToken_eq (s : State) (i : Nat) (p : Posted) : s.takeToken i p = without s i p := by
  rw [State.takeToken, dropAt_eq_eraseIdx]; rfl

section
variable {s : State} {i : Nat} {p : Posted}

theorem arrived_waits (h : s.ms.posted[i]? = some p) (hw : p.sent = false ∨ ∃ o ∈ s.ms.posted.take i, o.circ = p.circ) : s.arrived i = none := by
  rw [State.arrived, h]
  refine if_neg fun hc => ?_
  rw [Bool.and_eq_true, Bool.not_eq_true', List.any_eq_false] at hc
  obtain hs | ⟨o, ho, e⟩ := hw
  · rw [hs] at hc; exact Bool.false_ne_true hc.1
  · exact hc.2 o ho (beq_iff_eq.2 e)
theorem homeWrite_waits (h : s.arrived i = none) : nothing (.homeWrite i) s := by
  rw [nothing, exec_homeWrite, execHomeWrite, h]
theorem drainApplied_waits (h : s.arrived i = none) : nothing (.drainApplied i) s := by
  rw [nothing, exec_drainApplied, execDrainApplied, h]

variable (h : firstOnCircuit s i p)
include h

theorem arrived_first : s.arrived i = some p := by
  obtain ⟨hi, hs, ho⟩ := h
  rw [State.arrived, hi]
  exact if_pos (by simpa [hs] using ho)
/-- A token of an incarnation that is over is discarded; another is performed (R93, R105). -/
theorem homeWrite_arrives (hf : ∀ a, p.what ≠ .fence a) (hd : ∀ d l k sums back, p.what ≠ .drain d l k sums back) :
    exec (.homeWrite i) s = .next (if s.outdated p = true then without s i p else (without s i p).performPosted p) := by
  rw [exec_homeWrite, execHomeWrite, arrived_first h, ← takeToken_eq]
  dsimp only
  split
  next e => exact absurd e (hf _)
  next e => exact absurd e (hd _ _ _ _ _)
  next => rfl
theorem drainApplied_outdated {d l : Nat} {k : BKind} {sums : KV Word} {back : Option Dy} (e : p.what = .drain d l k sums back)
    (ho : s.outdated p = true) : happens (.drainApplied i) s (without s i p) := by
  rw [happens, exec_drainApplied, execDrainApplied, arrived_first h, ← takeToken_eq]
  dsimp only
  rw [e]
  exact congrArg Host.Outcome.next (if_pos ho)

variable (ho : s.outdated p = false)
include ho

theorem homeWrite_performs (hf : ∀ a, p.what ≠ .fence a) (hd : ∀ d l k sums back, p.what ≠ .drain d l k sums back) :
    happens (.homeWrite i) s ((without s i p).performPosted p) := by
  rw [happens, homeWrite_arrives h hf hd, ho]
  rfl
theorem drainApplied_applies {d l : Nat} {k : BKind} {sums : KV Word} (e : p.what = .drain d l k sums none) :
    happens (.drainApplied i) s ((without s i p).applySums l k sums) := by
  rw [happens, exec_drainApplied, execDrainApplied, arrived_first h, ← takeToken_eq]
  dsimp only
  rw [e]
  exact congrArg Host.Outcome.next (if_neg (by simp [ho]))

section
variable {cs : List (Nat × Byte)} {own : Option WinLine} {op : Option Nat} (hpoison : s.ms.poison = []) (hn : (cs.map (·.1)).Nodup)

/-- A posted write that its home performs. -/
theorem homeWrite_write (e : p.what = .write cs own op) (hdst : p.dst < 8) :
    happens (.homeWrite i) s ((without s i p).writeHomes cs own (linesOf cs)) := by
  have hp : (without s i p).performPosted p = (without s i p).writeHomes cs own (linesOf cs) := by
    rw [State.performPosted, e]
    exact if_neg (by omega)
  rw [← hp]
  exact homeWrite_performs h ho (by simp [e]) (by simp [e])
theorem homeWrite_bounded (e : p.what = .bounded cs own op) (hg : ∀ c ∈ cs, kvGet (lineOf c.1) s.ms.grants = none) :
    happens (.homeWrite i) s ((without s i p).writeHomes cs own (linesOf cs)) := by
  have hp : (without s i p).performPosted p = (without s i p).writeHomes cs own (linesOf cs) := by
    rw [State.performPosted, e]
    refine boundedHomes_eq cs own _ fun l hl => ?_
    obtain ⟨c, hc, rfl⟩ := List.mem_map.1 (List.mem_eraseDups.1 hl)
    exact hg c hc
  rw [← hp]
  exact homeWrite_performs h ho (by simp [e]) (by simp [e])
/-- What goes to a link die leaves the part. -/
theorem homeWrite_leaves (e : p.what = .write cs own op) (hdst : 8 ≤ p.dst) : happens (.homeWrite i) s (without s i p) := by
  have hp : (without s i p).performPosted p = without s i p := by
    rw [State.performPosted, e]
    exact if_pos hdst
  have := homeWrite_performs h ho (by simp [e]) (by simp [e])
  rwa [hp] at this
end
end

/-! ## Additions (R93, R172, R173) -/

theorem applySum_eq (s : State) (l : Nat) (k : BKind) (e : Nat) (x : Word) : applySum s.ms.mem l k e x = cellsAt (l * 128 + e * k.bytes)
    (leBytes k.bytes (k.fmt.round .rne ((k.fmt.decode (little ((List.range k.bytes).map fun j => s.byte (l * 128 + e * k.bytes + j)))).add
      (f32 x)))) := by
  rw [← leNat_addrs]; rfl
/-- One addition written at a line's home. -/
theorem addition_addsTo {s : State} {l e : Nat} {k : BKind} (x : Word) (he : (e + 1) * k.bytes ≤ 128) (h : s.ms.poison.contains l = false)
    (d : Nat) : addsTo k l e x s (s.writeLine d l (applySum s.ms.mem l k e x) false none) := by
  rw [applySum_eq]
  unfold addsTo
  extract_lets a old new
  rw [show k.fmt.round .rne ((k.fmt.decode (little ((List.range k.bytes).map fun j => s.byte (l * 128 + e * k.bytes + j)))).add (f32 x)) = new from rfl]
  have hl : ∀ j < (leBytes k.bytes new).length, lineOf (a + j) = l := fun j hj => by
    rw [leBytes_length] at hj
    rw [Nat.succ_mul] at he
    simp only [lineOf, a]
    omega
  obtain ⟨hin, hout⟩ := writeLine_writes h hl d false none
  rw [leBytes_length] at hin hout
  exact ⟨fun j hj => by rw [hin j hj, leBytes_getD new hj], hout⟩
theorem applySums_one (s : State) (l : Nat) (k : BKind) (e : Nat) (x : Word) (h : s.ms.poison.contains l = false) :
    s.applySums l k [(e, x)] = s.writeLine (homeOf s (l * 128)) l (applySum s.ms.mem l k e x) false none := by
  rw [State.applySums, if_neg (by simp), h]
  rfl

/-! ## REDs (R245, R325) -/

theorem packElems_append (k : Nat) (xs : List Nat) (x : Nat) :
    packElems k (xs ++ [x]) = packElems k xs + x % 2 ^ k * 2 ^ (k * xs.length) := by
  induction xs with
  | nil => simp [packElems]
  | cons y r ih =>
    rw [List.cons_append, packElems, packElems, ih, List.length_cons, Nat.mul_succ, Nat.pow_add]
    ring
/-- Lanes put together are a sum. -/
theorem packElems_range (k n : Nat) (f : Nat → Nat) :
    packElems k ((List.range n).map f) = (List.range n).foldl (fun acc i => acc + f i % 2 ^ k * 2 ^ (k * i)) 0 := by
  induction n with
  | zero => rfl
  | succ n ih => rw [List.range_succ, List.map_append, List.map_cons, List.map_nil, packElems_append, ih, List.foldl_append, List.length_map,
      List.length_range]; rfl
theorem elem_toNat {w : Nat} (k i : Nat) (x : BitVec w) : elem k i x.toNat = (x.extractLsb' (k * i) k).toNat := by
  rw [elem, BitVec.extractLsb'_toNat, Nat.shiftRight_eq_div_pow]
theorem laneOp_eq {w : Nat} (k : Nat) (g : Nat → Nat → Nat) (o b c : BitVec w) :
    laneWise k g w o b c = some (BitVec.ofNat w (laneOp k (w / k) g o.toNat b.toNat)) := by
  simp only [laneWise, laneOp, upto, packElems_range, elem_toNat]
theorem toSigned_toNat {w : Nat} (x : BitVec w) (hw : 0 < w) : toSigned w x.toNat = x.toInt := by
  have h2 : 2 ^ w = 2 * 2 ^ (w - 1) := by rw [← pow_succ', Nat.sub_add_cancel hw]
  have hc : x.toNat < 2 ^ (w - 1) ↔ 2 * x.toNat < 2 ^ w := by omega
  simp only [toSigned, BitVec.toInt_eq_toNat_cond, hc]

/-- A row of R325 in the numbers of R245: what the home writes is what the row says of the old value and the operand. -/
def Performs (r : AtomRow) : Prop := ∀ (w : Nat) (o b c : BitVec w), 0 < w →
  ∃ y, atomNew r.code w o.toNat b.toNat 0 = some y ∧ r.new w o b c = some (BitVec.ofNat w y)

theorem performs_value {code : Nat} {mk : Bool → BitVec 3 → BitVec 2 → Operand → Operand → Instr} {host : Bool}
    {f : (w : Nat) → BitVec w → BitVec w → BitVec w} {g : Nat → Nat → Nat → Nat}
    (hc : ∀ w x y, atomNew code w x y 0 = some (g w x y)) (hf : ∀ w (o b : BitVec w), 0 < w → BitVec.ofNat w (g w o.toNat b.toNat) = f w o b) :
    Performs (redRow code mk (fun w o b _ => some (f w o b)) host) :=
  fun w o b _ hw => ⟨_, hc w _ _, by rw [hf w o b hw]; rfl⟩
theorem performs_lanes {code : Nat} {mk : Bool → BitVec 3 → BitVec 2 → Operand → Operand → Instr} {k : Nat} {g : Nat → Nat → Nat}
    (hc : ∀ w x y, atomNew code w x y 0 = some (laneOp k (w / k) g x y)) : Performs (redRow code mk (laneWise k g)) :=
  fun w o b c _ => ⟨_, hc w _ _, laneOp_eq k g o b c⟩

theorem redRows_perform : ∀ r ∈ redRows, Performs r := by
  simp only [redRows, List.forall_mem_cons, List.not_mem_nil, false_implies, implies_true, and_true]
  refine ⟨?add, ?and, ?or, ?xor, ?min, ?max, ?minn, ?maxn, ?fadd, ?hadd, ?badd⟩
  case add =>
    exact performs_value (f := fun _ o b => o + b) (fun _ _ _ => rfl) fun w o b _ => BitVec.eq_of_toNat_eq (by simp)
  case and =>
    exact performs_value (f := fun _ o b => o &&& b) (fun _ _ _ => rfl) fun w o b _ => BitVec.eq_of_toNat_eq (by
      rw [← BitVec.toNat_and, BitVec.ofNat_toNat, BitVec.setWidth_eq])
  case or =>
    exact performs_value (f := fun _ o b => o ||| b) (fun _ _ _ => rfl) fun w o b _ => BitVec.eq_of_toNat_eq (by
      rw [← BitVec.toNat_or, BitVec.ofNat_toNat, BitVec.setWidth_eq])
  case xor =>
    exact performs_value (f := fun _ o b => o ^^^ b) (fun _ _ _ => rfl) fun w o b _ => BitVec.eq_of_toNat_eq (by
      rw [← BitVec.toNat_xor, BitVec.ofNat_toNat, BitVec.setWidth_eq])
  case min =>
    exact performs_value (f := fun _ o b => if o.toInt ≤ b.toInt then o else b) (fun _ _ _ => rfl) fun w o b hw => by
      rw [toSigned_toNat o hw, toSigned_toNat b hw]; split <;> simp
  case max =>
    exact performs_value (f := fun _ o b => if o.toInt ≤ b.toInt then b else o) (fun _ _ _ => rfl) fun w o b hw => by
      rw [toSigned_toNat o hw, toSigned_toNat b hw]; split <;> simp
  case minn =>
    exact performs_value (f := fun _ o b => if o.toNat ≤ b.toNat then o else b) (fun _ _ _ => rfl) fun w o b _ => by
      split <;> simp
  case maxn =>
    exact performs_value (f := fun _ o b => if o.toNat ≤ b.toNat then b else o) (fun _ _ _ => rfl) fun w o b _ => by
      split <;> simp
  case fadd => exact performs_lanes fun _ _ _ => rfl
  case hadd => exact performs_lanes fun _ _ _ => rfl
  case badd => exact performs_lanes fun _ _ _ => rfl

theorem attachAll_passes (s : State) (d : Nat) (cs : List (Nat × Byte)) (rel : Option RelRec) : Passes s (s.attachAll d cs rel) := by
  cases rel with
  | none => exact Passes.traffic.refl s
  | some r => exact Passes.traffic.foldl _ (fun s l => Passes.traffic.setCopy s d l _) _ s
theorem mem_attach (s : State) (d l : Nat) (r : RelRec) : r ∈ ((s.attach d l r).copyOf d l).recs := by
  rw [State.attach, copyOf_setCopy_same]
  simp [mergeRecs]
/-- Equal elements are one. -/
theorem eraseDups_of_forall_eq {a : Nat} : ∀ {l : List Nat}, l ≠ [] → (∀ x ∈ l, x = a) → l.eraseDups = [a]
  | [], hne, _ => absurd rfl hne
  | x :: r, _, h => by
    rw [List.eraseDups_cons, h x (.head _), List.filter_eq_nil_iff.2 fun y hy => by simp [h y (.tail _ hy)]]
    rfl
/-- Cells of one line leave their record on it. -/
theorem mem_attachAll {s : State} {d l : Nat} {cs : List (Nat × Byte)} (hne : cs ≠ []) (hl : ∀ c ∈ cs, lineOf c.1 = l) (r : RelRec) :
    r ∈ ((s.attachAll d cs (some r)).copyOf d l).recs := by
  have hlines : linesOf cs = [l] := eraseDups_of_forall_eq (by simpa using hne) (List.forall_mem_map.2 hl)
  rw [State.attachAll, hlines]
  exact mem_attach s d l r

/-- A read-modify-write of an aligned element at a copy of its line, by an operation that writes. -/
theorem rmwAt_writes {s : State} {o : AtomOp} {pa b x : Nat} (hdvd : o.bytes ∣ 128) (ha : pa % o.bytes = 0) (hpos : 0 < o.bytes)
    (hp : s.ms.poison.contains (lineOf pa) = false) (d : Nat) (rel : Option RelRec)
    (hx : atomNew o.fn o.bits (leNat ((addrs pa o.bytes).map s.byte)) b 0 = some x) :
    writes s (s.rmwAt d o (addrs pa o.bytes) b 0 rel).1 pa (leBytes o.bytes x) ∧
      ∀ r, rel = some r → r ∈ ((s.rmwAt d o (addrs pa o.bytes) b 0 rel).1.copyOf d (lineOf pa)).recs := by
  have hshare := Passes.traffic.share s d (lineOf pa)
  have hhead : (addrs pa o.bytes).headD 0 = pa := by
    obtain ⟨n, hn⟩ := Nat.exists_eq_succ_of_ne_zero hpos.ne'
    rw [hn]; rfl
  have hold : (addrs pa o.bytes).map (s.share d (lineOf pa)).byte = (addrs pa o.bytes).map s.byte := List.map_congr_left fun q _ => hshare.byte q
  have hlen : (leBytes o.bytes x).length = o.bytes := leBytes_length _ _
  have hline : ∀ k < (leBytes o.bytes x).length, lineOf (pa + k) = lineOf pa := fun k hk => lineOf_element hdvd ha (hlen ▸ hk)
  have e : (s.rmwAt d o (addrs pa o.bytes) b 0 rel).1 =
      ((s.share d (lineOf pa)).writeLine d (lineOf pa) (cellsAt pa (leBytes o.bytes x)) false none).attachAll d (cellsAt pa (leBytes o.bytes x)) rel := by
    unfold State.rmwAt
    dsimp only
    rw [hhead, hold, hx, ← zip_leBytes]
  rw [e]
  constructor
  · obtain ⟨hin, hout⟩ := writeLine_writes (hshare.poison ▸ hp) hline d false none
    have hat := attachAll_passes ((s.share d (lineOf pa)).writeLine d (lineOf pa) (cellsAt pa (leBytes o.bytes x)) false none) d (cellsAt pa (leBytes o.bytes x)) rel
    exact ⟨fun k hk => (hat.byte _).trans (hin k hk), fun q hq => ((hat.byte q).trans (hout q hq)).trans (hshare.byte q)⟩
  · rintro r rfl
    refine mem_attachAll (fun h0 => ?_) (fun c hc => ?_) r
    · exact List.not_mem_nil (h0 ▸ mem_cellsAt.2 ⟨0, hlen.symm ▸ hpos, rfl⟩)
    · obtain ⟨k, hk, rfl⟩ := mem_cellsAt.1 hc
      exact hline k hk

/-- The bytes of a word of memory are those of its number. -/
theorem holds_ofNat {s t : State} {a n x w : Nat} (hw : w = 8 * n) (h : writes s t a (leBytes n x)) : holds t a (BitVec.ofNat w x) := by
  subst hw
  intro k hk
  have hk : k < n := by omega
  rw [h.1 k (by rwa [leBytes_length]), leBytes_getD _ hk]
  apply BitVec.eq_of_toNat_eq
  rw [BitVec.toNat_ofNat, BitVec.extractLsb'_toNat, BitVec.toNat_ofNat, Nat.shiftRight_eq_div_pow, show 256 = 2 ^ 8 from rfl, ← pow_mul]
  have hpow : 2 ^ (8 * n) = 2 ^ (8 * k) * (2 ^ 8 * 2 ^ (8 * (n - k - 1))) := by
    rw [← pow_add, ← pow_add]; congr 1; omega
  rw [hpow, Nat.mod_mul_right_div_self, Nat.mod_mul_right_mod]

theorem leNat_lt (bs : List Byte) : leNat bs < 2 ^ (8 * bs.length) := by
  induction bs with
  | nil => decide
  | cons b r ih =>
    rw [leNat, List.length_cons, Nat.mul_succ, Nat.pow_add]
    have := b.isLt
    omega
/-- The element at an address, as a number. -/
theorem oldAt_toNat (s : State) {w n : Nat} (hw : w = 8 * n) (pa : Nat) : (oldAt s w pa).toNat = leNat ((addrs pa n).map s.byte) := by
  have hn : w / 8 = n := by omega
  have hlt := leNat_lt ((addrs pa n).map s.byte)
  rw [List.length_map, addrs_length, ← hw] at hlt
  rw [oldAt, hn, ← leNat_addrs, BitVec.toNat_ofNat, Nat.mod_eq_of_lt hlt]

/-- A posted RED changes its element at the home as its row says, and leaves its record there. -/
theorem redAt_changes {r : AtomRow} (hr : r ∈ redRows) {s : State} {w64 : Bool} {pa : Nat} (x : Dword) (rel : Option RelRec)
    (ha : pa % (atomWidth w64 / 8) = 0) (hp : s.ms.poison.contains (lineOf pa) = false) (d : Nat) :
    let t := s.redAt d ⟨r.code, w64, 0, 0, true⟩ (addrs pa (if w64 then 8 else 4)) (x.toNat % 2 ^ atomBits w64) rel
    changesElement r w64 pa x 0 s t ∧ ∀ c, rel = some c → c ∈ (t.copyOf d (lineOf pa)).recs := by
  intro t
  obtain ⟨n, hn, hlen, hdvd, hpos⟩ : ∃ n, atomWidth w64 = 8 * n ∧ (if w64 then 8 else 4) = n ∧ n ∣ 128 ∧ 0 < n := by
    cases w64
    · exact ⟨4, rfl, rfl, by decide, by decide⟩
    · exact ⟨8, rfl, rfl, by decide, by decide⟩
  let o : AtomOp := ⟨r.code, w64, 0, 0, true⟩
  have hbytes : o.bytes = n := by
    show atomWidth w64 / 8 = n
    omega
  rw [show atomWidth w64 / 8 = n by omega] at ha
  obtain ⟨y, hy, hnew⟩ := redRows_perform r hr (atomWidth w64) (oldAt s (atomWidth w64) pa) (x.setWidth _) ((0 : Dword).setWidth _) (by omega)
  rw [oldAt_toNat s hn, BitVec.toNat_setWidth, ← hbytes] at hy
  have ht : t = (s.rmwAt d o (addrs pa o.bytes) (x.toNat % 2 ^ atomWidth w64) 0 rel).1 := by
    rw [hbytes, ← hlen]; rfl
  obtain ⟨hw, hrec⟩ := rmwAt_writes (hbytes ▸ hdvd) (hbytes ▸ ha) (hbytes ▸ hpos) hp d rel hy
  rw [← ht, hbytes] at hw
  rw [← ht] at hrec
  refine ⟨⟨?_, fun p hne => hw.2 p ?_⟩, hrec⟩
  · rw [hnew]
    exact holds_ofNat hn hw
  · rw [leBytes_length]
    by_contra hc
    refine hne (List.mem_map.2 ⟨p - pa, List.mem_range.2 (by omega), by omega⟩)

end Sys2Proof.Machine
end

section
/-! Send allowances, coherence requests, evictions, recalls and recovery (R91, R92, R97, R104 to R106). -/
namespace Sys2Proof.Machine
open Sys2Proof.Claims

/-! ## Allowances (R97) -/

theorem heldAt_none {c : Nat} : ∀ {ps : List Posted}, (∀ p ∈ ps, p.circ = c → p.sent = true) → heldAt c ps = none
  | [], _ => rfl
  | p :: r, h => by
    rw [heldAt, heldAt_none fun q hq => h q (.tail _ hq), if_neg]
    · rfl
    · simpa using h p (.head _)
theorem releaseHeld_none {s : State} {c : Nat} (h : heldAt c s.ms.posted = none) : ∀ n, releaseHeld n s c = s
  | 0 => rfl
  | n + 1 => by rw [releaseHeld, h]
/-- An allowance that no token waits for is added to its circuit's. -/
theorem sendAllowanceGrant_adds {s : State} {c : Nat} (hs : ∀ p ∈ s.ms.posted, p.circ = c → p.sent = true) (h n : Nat) :
    happens (.sendAllowanceGrant c h n) s (s.setAllowance c h (s.allowance c h + n)) :=
  congrArg Host.Outcome.next (releaseHeld_none (s := s.setAllowance c h _) (heldAt_none hs) _)

/-! ## Coherence requests (R91, R100, R101) -/

theorem coherenceRequest_own (s : State) {d : Nat} (hd : d < 8) (l : Nat) :
    happens (.coherenceRequest d l ⟨true, .clean⟩) s (s.own d l none) :=
  congrArg Host.Outcome.next (if_neg (by omega))
theorem coherenceRequest_share (s : State) {d : Nat} (hd : d < 8) (l : Nat) (e : Ecc) :
    happens (.coherenceRequest d l ⟨false, e⟩) s ((s.readError l e).share d l) :=
  congrArg Host.Outcome.next (if_neg (by omega))
theorem nextDie_lt {s : State} {d : Nat} (h : d < 8) : nextDie s d < 8 := by
  unfold nextDie
  cases hf : ((upto 8).map fun k => (d + k) % 8).find? fun k => s.mg.dies.getLsbD k with
  | none => exact h
  | some x =>
    obtain ⟨k, _, rfl⟩ := List.mem_map.1 (List.mem_of_find?_eq_some hf)
    exact Nat.mod_lt _ (by decide)
theorem homeOf_lt (s : State) (pa : Nat) : homeOf s pa < 8 := by
  unfold homeOf
  split
  · omega
  · exact nextDie_lt (Nat.mod_lt _ (by decide))
theorem recsAt_nil {s : State} {l : Nat} : ∀ {ds : List Nat}, (∀ d ∈ ds, (s.copyOf d l).recs = []) → s.recsAt l ds = [] := by
  intro ds h
  induction ds with
  | nil => rfl
  | cons d r ih =>
    have hr : s.recsAt l r = [] := ih fun e he => h e (.tail _ he)
    rw [State.recsAt, List.foldl_cons, h d (.head _)]
    exact hr
/-- The first die to ask for a line that carries no release record takes it exclusively. -/
theorem copyOf_share_first {s : State} {d l : Nat} (hd : d < 8) (hs : s.sharers l = []) (hr : noRecords s l) :
    (s.share d l).copyOf d l = ⟨.e, [], []⟩ := by
  have hi : ¬ (s.copyOf d l).st ≠ .i := fun hc => List.not_mem_nil (hs ▸ mem_sharers.2 ⟨hd, hc⟩)
  have hrecs : s.recsAt l (homeOf s (l * 128) :: d :: s.sharers l) = [] := by
    rw [hs]
    refine recsAt_nil fun e he => hr e ?_
    simp only [List.mem_cons, List.not_mem_nil, or_false] at he
    obtain rfl | rfl := he
    · exact homeOf_lt s _
    · exact hd
  rw [copyOf_share, if_neg hi, hrecs, hs]
  rfl
theorem poisonLine_poisons (s : State) (l : Nat) : l ∈ (s.poisonLine l).ms.poison := .head _
theorem coherenceRequest_held {s : State} {d l : Nat} (hd : d < 8) (hs : (s.copyOf d l).st ≠ .i) (hp : s.ms.posted = []) :
    nothing (.coherenceRequest d l ⟨false, .clean⟩) s := by
  have h := coherenceRequest_share s hd l .clean
  rwa [State.readError, share_held hs hp] at h
theorem coherenceRequest_corrected (s : State) {d : Nat} (hd : d < 8) (l : Nat) :
    ∃ t e, happens (.coherenceRequest d l ⟨false, .corrected⟩) s t ∧ t.mg.log = s.mg.log ++ [e] ∧ e.kind = 1 ∧ t.ms.poison = s.ms.poison := by
  have hk := Passes.traffic.share (s.logLine 1 l) d l
  exact ⟨_, ⟨1, memDie s l, memUnit l, 0, 1, s.clock⟩, coherenceRequest_share s hd l .corrected, congrArg (·.log) hk.mg, rfl, hk.poison⟩
theorem coherenceRequest_uncorrectable {s : State} {d l : Nat} (hd : d < 8) (hs : s.sharers l = []) :
    ∃ t, happens (.coherenceRequest d l ⟨false, .uncorrectable⟩) s t ∧ l ∈ t.ms.poison := by
  refine ⟨_, coherenceRequest_share s hd l .uncorrectable, ?_⟩
  rw [(Passes.traffic.share _ d l).poison, State.readError, hs]
  exact poisonLine_poisons s l

/-! ## Evictions (R86, R116, R172) -/

/-- What an eviction does with the copy itself, the holder of its line having been drained. -/
def State.leave (s : State) (home d l : Nat) : State :=
  if (s.copyOf d l).st == .i then (if home = d then s.drainRecs d l else s)
  else
    let s := if home = d then s.drainRecs d l else s.send d home 3
    if home = d && !(s.copyOf d l).recs.isEmpty then s
    else
      let s := s.cleanWins d l
      let s := if (s.copyOf d l).dirty then s.sendTierBack l else s
      let c := s.copyOf d l
      let win := c.win.filter s.hasValid
      let s := s.setCopy d l (if win.isEmpty then ⟨.i, [], []⟩ else ⟨.s, [], win⟩)
      c.recs.foldl (fun s r => s.attach home l r) s
theorem evict_eq (s : State) (d l : Nat) : s.evict d l =
    (if (s.heldLines d).contains l then s.forceDrain d l else s).leave (homeOf s (l * 128)) d l := rfl
theorem evict_held {s : State} {d l : Nat} (h : l ∈ s.heldLines d) : s.evict d l = (s.forceDrain d l).leave (homeOf s (l * 128)) d l := by
  rw [evict_eq, if_pos (by simpa using h)]
theorem evict_notHeld {s : State} {d l : Nat} (h : l ∉ s.heldLines d) : s.evict d l = s.leave (homeOf s (l * 128)) d l := by
  rw [evict_eq, if_neg (by simpa using h)]

theorem Flushing.leave {R : State → State → Prop} (F : Flushing R) (hg : ∀ (s : State) g f, R s (s.modGather g f)) (s : State) (home d l : Nat) :
    R s (s.leave home d l) := by
  unfold State.leave
  extract_lets u v w c win x
  have hu : R s u := either (F.drainRecs s d l) (F.send s _ _ _)
  have hv : R u v := F.foldl _ (fun s _ => hg s _ _) _ u
  have hw : R v w := either (F.sendTierBack v l) (F.refl v)
  have hx : R w x := F.setCopy w _ _ _
  exact either (either (F.drainRecs s d l) (F.refl s))
    (F.trans hu (either (F.refl u) (F.trans (F.trans hv (F.trans hw hx)) (F.foldl _ (fun s r => F.setCopy s _ _ _) _ x))))
theorem drainRecs_none {s : State} {d l : Nat} (h : (s.copyOf d l).recs = []) : s.drainRecs d l = s := by rw [State.drainRecs, h]; rfl
/-- A line that the die does not hold, and that no record waits on, leaves nothing to do. -/
theorem leave_invalid {s : State} {home d l : Nat} (hi : (s.copyOf d l).st = .i) (h : home ≠ d ∨ (s.copyOf d l).recs = []) : s.leave home d l = s := by
  rw [State.leave, hi]
  refine (if_pos rfl).trans ?_
  split
  next e => exact drainRecs_none (h.resolve_left (not_not_intro e))
  next => rfl
/-- A copy without records and windows goes, and memory stays as it is. -/
theorem leave_valid {s : State} {home d l : Nat} (hs : (s.copyOf d l).st ≠ .i) (hr : (s.copyOf d l).recs = []) (hw : (s.copyOf d l).win = []) :
    (s.leave home d l).copyOf d l = ⟨.i, [], []⟩ ∧ (s.leave home d l).ms.mem = s.ms.mem := by
  unfold State.leave
  extract_lets u v w c win x
  have hu : SameL2 s u ∧ Passes s u := ⟨by
    dsimp only [u]; rw [drainRecs_none hr]; exact either (.refl s) (.send s _ _ _), by
    dsimp only [u]; rw [drainRecs_none hr]; exact either (Passes.traffic.refl s) (Passes.traffic.send s _ _ _)⟩
  have hv : v = u := by rw [show v = u.cleanWins d l from rfl, State.cleanWins, copyOf_congr hu.1, hw]; rfl
  have hwl : SameL2 u w ∧ Passes u w := hv ▸ ⟨either (.sendTierBack v l) (.refl v), either (Passes.traffic.sendTierBack v l) (Passes.traffic.refl v)⟩
  have hc : c = s.copyOf d l := copyOf_congr (hu.1.trans hwl.1) d l
  have hx : x = w.setCopy d l ⟨.i, [], []⟩ := by simp only [x, win, hc, hw]; rfl
  rw [if_neg (by simpa using hs), if_neg (by simp [copyOf_congr hu.1, hr]), hc, hr, hx]
  exact ⟨copyOf_setCopy_same _ _ _ _, (Passes.traffic.trans hu.2 hwl.2).mem⟩

/-! ## Holders -/

/-- What the holders keep is the same. -/
def SameHolders (s t : State) : Prop := t.ms.holders = s.ms.holders
theorem SameHolders.flushing : Flushing SameHolders where
  refl _ := rfl
  trans h k := Eq.trans k h
  holdBack _ := rfl
  setAllowance _ _ _ _ := rfl
  setCopy _ _ _ _ := rfl
  staleWin _ _ _ := rfl
  write _ _ _ := rfl
  log _ _ _ _ _ := rfl
  cur _ _ := rfl
  l1 _ _ _ := rfl
theorem holder_congr {s t : State} (h : SameHolders s t) (d l : Nat) : t.holder d l = s.holder d l := by
  rw [State.holder, h, State.holder]
theorem giveBack_holders (s : State) (d l : Nat) (x : Dy) : SameHolders s (s.giveBack d l x) := by
  unfold State.giveBack
  split <;> rfl
/-- A forced drain leaves the holder empty (R172). -/
theorem forceDrain_holder (s : State) (d l : Nat) : (s.forceDrain d l).holder d l = emptyHolder := by
  unfold State.forceDrain
  extract_lets u h v
  rw [holder_congr (giveBack_holders (v.dropHolder d l) d l h.share)]
  simp [State.holder, State.dropHolder, kvGetD, kvGet_kvDel_same]
theorem lineEviction_drains {s : State} {d l : Nat} (h : l ∈ s.heldLines d) :
    happens (.lineEviction d l) s (s.evict d l) ∧ (s.evict d l).holder d l = emptyHolder := by
  refine ⟨rfl, ?_⟩
  rw [evict_held h, holder_congr (SameHolders.flushing.leave (fun _ _ _ => rfl) _ _ d l)]
  exact forceDrain_holder s d l
theorem heldLines_none {s : State} (hp : s.ms.posted = []) (hh : s.ms.holders = []) (d : Nat) : s.heldLines d = [] := by
  simp [State.heldLines, hp, hh]
theorem lineEviction_invalid {s : State} {d l : Nat} (hi : (s.copyOf d l).st = .i) (hh : l ∉ s.heldLines d)
    (h : homeOf s (l * 128) ≠ d ∨ (s.copyOf d l).recs = []) : nothing (.lineEviction d l) s :=
  congrArg Host.Outcome.next ((evict_notHeld hh).trans (leave_invalid hi h))
theorem lineEviction_valid {s : State} {d l : Nat} (hs : (s.copyOf d l).st ≠ .i) (hr : (s.copyOf d l).recs = []) (hw : (s.copyOf d l).win = [])
    (hp : s.ms.posted = []) (hh : s.ms.holders = []) :
    ∃ t, happens (.lineEviction d l) s t ∧ t.copyOf d l = ⟨.i, [], []⟩ ∧ t.ms.mem = s.ms.mem := by
  refine ⟨_, rfl, ?_⟩
  rw [evict_notHeld (by simp [heldLines_none hp hh])]
  exact leave_valid hs hr hw

/-! ## Recalls (R92, R104) -/

/-- One die's answer to a recall. -/
def State.recallFrom (s : State) (home l d : Nat) : State :=
  (((s.send home d 1).send d home 2).staleWins (s.copyOf d l).win (fun _ => true) none).setCopy d l ⟨.i, [], []⟩
/-- The recall of a second-tier line that some die has written ends at its port. -/
def State.recallTier (s : State) (l : Nat) (ds : List Nat) : State :=
  if ds.any fun d => (s.copyOf d l).dirty then s.sendTierBack l else s
theorem recallAll_eq (s : State) (l : Nat) (ds : List Nat) : s.recallAll l ds =
    (ds.foldl (fun t d => t.recallFrom (homeOf s (l * 128)) l d) (s.recallTier l ds)).setCopy (homeOf s (l * 128)) l
      ⟨.i, s.recsAt l (homeOf s (l * 128) :: ds), []⟩ := rfl

theorem recallTier_passes (s : State) (l : Nat) (ds : List Nat) : Passes s (s.recallTier l ds) :=
  either (Passes.traffic.sendTierBack s l) (Passes.traffic.refl s)
theorem recallTier_sameL2 (s : State) (l : Nat) (ds : List Nat) : SameL2 s (s.recallTier l ds) := either (.sendTierBack s l) (.refl s)
theorem recallAll_passes (s : State) (l : Nat) (ds : List Nat) : Passes s (s.recallAll l ds) := by
  rw [recallAll_eq]
  have step (t : State) (h d : Nat) : Passes t (t.recallFrom h l d) :=
    Passes.traffic.trans (Passes.traffic.trans (Passes.traffic.sends t _ _ _ _ _ _) (Passes.traffic.staleWins _ _ _ _)) (Passes.traffic.setCopy _ d l _)
  exact Passes.traffic.trans (Passes.traffic.trans (recallTier_passes s l ds) (Passes.traffic.foldl _ (fun t d => step t _ d) ds _))
    (Passes.traffic.setCopy _ _ _ _)
theorem copyOf_recallFrom (s : State) (home l d e : Nat) :
    (s.recallFrom home l d).copyOf e l = if e = d then ⟨.i, [], []⟩ else s.copyOf e l := by
  split
  next h => rw [h]; exact copyOf_setCopy_same _ _ _ _
  next h =>
    refine (copyOf_setCopy_other _ h _ _).trans (copyOf_congr ?_ e l)
    exact (SameL2.sends s _ _ _ _ _ _).trans (.staleWins _ _ _ _)
theorem copyOf_recalls (home l e : Nat) (ds : List Nat) (s : State) :
    (ds.foldl (fun t d => t.recallFrom home l d) s).copyOf e l = if e ∈ ds then ⟨.i, [], []⟩ else s.copyOf e l := by
  induction ds generalizing s with
  | nil => rfl
  | cons d r ih =>
    rw [List.foldl_cons, ih, copyOf_recallFrom]
    by_cases hr : e ∈ r <;> by_cases hd : e = d <;> simp [hr, hd]
/-- What a recall leaves: at the home the records of the copies recalled, on them nothing. -/
theorem copyOf_recallAll (s : State) (l e : Nat) (ds : List Nat) : (s.recallAll l ds).copyOf e l =
    if e = homeOf s (l * 128) then ⟨.i, s.recsAt l (homeOf s (l * 128) :: ds), []⟩ else if e ∈ ds then ⟨.i, [], []⟩ else s.copyOf e l := by
  rw [recallAll_eq]
  split
  next h => rw [h]; exact copyOf_setCopy_same _ _ _ _
  next h =>
    rw [copyOf_setCopy_other _ h, copyOf_recalls]
    congr 1
    exact copyOf_congr (recallTier_sameL2 s l ds) e l
theorem mem_recsAt {s : State} {l d : Nat} {r : RelRec} (hr : r ∈ (s.copyOf d l).recs) {ds : List Nat} (hd : d ∈ ds) : r ∈ s.recsAt l ds := by
  have keeps : ∀ (es : List Nat) (acc : List RelRec), r ∈ acc → r ∈ es.foldl (fun a e => mergeRecs a (s.copyOf e l).recs) acc := by
    intro es
    induction es with
    | nil => exact fun _ h => h
    | cons e es ih => exact fun acc h => ih _ (by simp [mergeRecs, h])
  obtain ⟨as, bs, rfl⟩ := List.append_of_mem hd
  rw [State.recsAt, List.foldl_append, List.foldl_cons]
  exact keeps bs _ (by simp [mergeRecs, hr])
/-- Once every die that holds the line has been asked, none does, and the home has all their records (R86, R92). -/
theorem recalled_recallAll {s : State} {l : Nat} {ds : List Nat} (h : ∀ d < 8, (s.copyOf d l).st ≠ .i → d ∈ ds) :
    recalled s (s.recallAll l ds) l := by
  refine ⟨fun d hd => ?_, (recallAll_passes s l ds).mem, fun d hd hs r hr => ?_⟩
  · rw [copyOf_recallAll]
    split_ifs with hh hm
    · rfl
    · rfl
    · exact not_imp_comm.1 (h d hd) hm
  · rw [copyOf_recallAll, if_pos rfl]
    exact mem_recsAt hr (.tail _ (h d hd hs))
theorem recalled_poisonLine {s t : State} {l : Nat} (h : recalled s t l) (k : Nat) : recalled s (t.poisonLine k) l := by
  obtain ⟨hi, hm, hr⟩ := h
  have hc (d : Nat) : (t.poisonLine k).copyOf d l = t.copyOf d l := copyOf_congr rfl d l
  exact ⟨fun d hd => (hc d).symm ▸ hi d hd, hm, fun d hd hs r hd' => (hc _).symm ▸ hr d hd hs r hd'⟩
theorem directoryEntryEviction_recalls (s : State) (l : Nat) : ∃ t, happens (.directoryEntryEviction l) s t ∧ recalled s t l :=
  ⟨_, rfl, recalled_recallAll fun _ hd hs => mem_sharers.2 ⟨hd, hs⟩⟩
/-- The dies that answer a recall with written bytes. -/
def State.dirtySharers (s : State) (l : Nat) : List Nat := (s.sharers l).filter fun d => (s.copyOf d l).dirty
theorem directoryError_eq (s : State) (l : Nat) : exec (.directoryError l) s =
    .next (if 1 < (s.dirtySharers l).length then (s.recallAll l (upto 8)).poisonLine l else s.recallAll l (upto 8)) := rfl
theorem mem_dirtySharers {s : State} {l d : Nat} : d ∈ s.dirtySharers l ↔ d < 8 ∧ ((s.copyOf d l).st = .m ∨ (s.copyOf d l).st = .o) := by
  rw [State.dirtySharers, List.mem_filter, mem_sharers]
  cases h : (s.copyOf d l).st <;> simp [L2Line.dirty, h]
theorem two_dirtySharers {s : State} {l a b : Nat} (hab : a < b) (ha : a ∈ s.dirtySharers l) (hb : b ∈ s.dirtySharers l) :
    1 < (s.dirtySharers l).length := by
  by_contra hc
  obtain ⟨x, hx⟩ := List.length_eq_one_iff.1 (le_antisymm (not_lt.1 hc) (List.length_pos_of_mem ha))
  rw [hx, List.mem_singleton] at ha hb
  omega
theorem directoryError_recalls (s : State) (l : Nat) : ∃ t, happens (.directoryError l) s t ∧ recalled s t l ∧
    (∀ a b, a < b → b < 8 → ((s.copyOf a l).st = .m ∨ (s.copyOf a l).st = .o) → ((s.copyOf b l).st = .m ∨ (s.copyOf b l).st = .o) →
      l ∈ t.ms.poison) ∧
    ((∀ d < 8, (s.copyOf d l).st ≠ .m ∧ (s.copyOf d l).st ≠ .o) → t.ms.poison = s.ms.poison) := by
  have hr : recalled s (s.recallAll l (upto 8)) l := recalled_recallAll fun d hd _ => List.mem_range.2 hd
  refine ⟨_, directoryError_eq s l, ?_, fun a b hab hb ha hb' => ?_, fun h => ?_⟩
  · split
    · exact recalled_poisonLine hr l
    · exact hr
  · rw [if_pos (two_dirtySharers hab (mem_dirtySharers.2 ⟨hab.trans hb, ha⟩) (mem_dirtySharers.2 ⟨hb, hb'⟩))]
    exact poisonLine_poisons _ l
  · have hn : s.dirtySharers l = [] := List.eq_nil_iff_forall_not_mem.2 fun d hd => by
      obtain ⟨hlt, hm⟩ := mem_dirtySharers.1 hd
      exact hm.elim (h d hlt).1 (h d hlt).2
    rw [hn]
    exact (recallAll_passes s l _).poison

/-! ## Recovery (R105, R106, R182) -/

/-- An incarnation that has grown is another, though 255 is followed by 0. -/
theorem nextInc_ne (n : Nat) : n ≠ (n + 1) % 256 := by omega
theorem dieInc_nextInc (s : State) (d : Nat) : (s.nextInc d).dieInc d = (s.dieInc d + 1) % 256 := kvGetD_kvSetD_same _ _ _ _
theorem outdated_of_core {s t : State} {c : Nat} (h : t.coreInc c = (s.coreInc c + 1) % 256) {p : Posted} (hp : p.core = some c)
    (ho : s.outdated p = false) : t.outdated p = true := by
  simp only [State.outdated, hp, Bool.or_eq_false_iff, bne_eq_false_iff_eq, Bool.or_eq_true, bne_iff_ne] at ho ⊢
  rw [ho.2, h]
  exact .inr (nextInc_ne _)
theorem outdated_of_die {s t : State} {d : Nat} (h : t.dieInc d = (s.dieInc d + 1) % 256) {p : Posted} (hp : p.src = d)
    (ho : s.outdated p = false) : t.outdated p = true := by
  simp only [State.outdated, hp, Bool.or_eq_false_iff, bne_eq_false_iff_eq, Bool.or_eq_true, bne_iff_ne] at ho ⊢
  rw [ho.1, h]
  exact .inl (nextInc_ne _)
theorem kvGet_kvFilter_none {α : Type} {k : Nat} {f : Nat → α → Bool} (h : ∀ x, f k x = false) (m : KV α) : kvGet k (kvFilter f m) = none := by
  by_contra hc
  obtain ⟨x, hx⟩ := Option.ne_none_iff_exists'.1 hc
  have hf := (List.mem_filter.1 (mem_of_kvGet hx)).2
  rw [h] at hf
  cases hf
/-- A recovered core's first-level cache holds nothing. -/
theorem l1At_clearL1 (s : State) (c : Nat) {pa : Nat} (hpa : pa < 2 ^ 52) : (s.clearL1 c).l1At c pa = none := by
  have hk : l1key c pa / 2 ^ 52 = c := by rw [l1key]; omega
  exact kvGet_kvFilter_none (f := fun k _ => k / 2 ^ 52 != c) (fun _ => by rw [hk, bne_self_eq_false]) s.ms.l1
theorem coreRejoin {s : State} {c : Nat} (hc : c < 640) : ∃ t e, happens (.agentRejoin false c) s t ∧ t.coreInc c = (s.coreInc c + 1) % 256 ∧
    (∀ pa < 2 ^ 52, t.l1At c pa = none) ∧ outlives s t (·.core = some c) ∧ t.ms.mem = s.ms.mem ∧ t.mg.log = s.mg.log ++ [e] ∧ e.kind = 8 := by
  let u : State := (s.loseFences fun p => p.core == some c && !s.outdated p).clearL1 c
  let v : State := u.nextInc (8 + c)
  have hinc : v.coreInc c = (s.coreInc c + 1) % 256 := (coreInc_nextInc u (8 + c) c).trans (if_pos rfl)
  have he : happens (.agentRejoin false c) s (v.logEvent 8 (dieOfCore c) (c % 80) (v.coreInc c)) := by
    rw [happens, exec_agentRejoin, execAgentRejoin, if_neg Bool.false_ne_true, if_neg (by omega)]
  exact ⟨_, _, he, hinc,
    fun pa hpa => l1At_clearL1 (s.loseFences fun p => p.core == some c && !s.outdated p) c hpa, ⟨rfl, fun p _ hp => outdated_of_core hinc hp⟩, rfl, rfl, rfl⟩

/-- What the loss of a second-level cache leaves alone, and what it logs: nothing but lines poisoned (R105, R460). -/
structure Loses (s t : State) : Prop where
  posted : t.ms.posted = s.ms.posted
  mem : t.ms.mem = s.ms.mem
  inc : t.ms.inc = s.ms.inc
  log : ∃ lost, t.mg.log = s.mg.log ++ lost ∧ ∀ x ∈ lost, x.kind = 2
/-- Nothing is logged. -/
theorem Loses.quiet {s t : State} (hp : t.ms.posted = s.ms.posted) (hm : t.ms.mem = s.ms.mem) (hi : t.ms.inc = s.ms.inc)
    (hl : t.mg.log = s.mg.log) : Loses s t := ⟨hp, hm, hi, [], by simp [hl], by simp⟩
theorem Loses.traffic : Traffic Loses where
  refl _ := .quiet rfl rfl rfl rfl
  trans {s t u} h k := by
    obtain ⟨a, ha, hka⟩ := h.log
    obtain ⟨b, hb, hkb⟩ := k.log
    exact ⟨k.posted.trans h.posted, k.mem.trans h.mem, k.inc.trans h.inc, a ++ b, by rw [hb, ha, List.append_assoc],
      fun x hx => (List.mem_append.1 hx).elim (hka x) (hkb x)⟩
  holdBack _ := .quiet rfl rfl rfl rfl
  setAllowance _ _ _ _ := .quiet rfl rfl rfl rfl
  setCopy _ _ _ _ := .quiet rfl rfl rfl rfl
  staleWin _ _ _ := .quiet rfl rfl rfl rfl
theorem Loses.poisonLine (s : State) (l : Nat) : Loses s (s.poisonLine l) := ⟨rfl, rfl, rfl, _, rfl, by simp⟩
theorem Loses.dropHolder (s : State) (d l : Nat) : Loses s (s.dropHolder d l) := .quiet rfl rfl rfl rfl
theorem Loses.giveBack (s : State) (d l : Nat) (x : Dy) : Loses s (s.giveBack d l x) := by
  unfold State.giveBack
  split
  · exact traffic.refl s
  · exact .quiet rfl rfl rfl rfl
theorem Loses.clearDie (s : State) (d : Nat) : Loses s (s.clearDie d) := by
  have lines (t : State) (l : Nat) : Loses t
      (((if (t.copyOf d l).st == .s || (t.copyOf d l).st == .i then t else t.poisonLine l).staleWins (t.copyOf d l).win (fun _ => true) none).setCopy
        d l ⟨.i, [], []⟩) :=
    traffic.trans (traffic.trans (either (traffic.refl t) (poisonLine t l)) (traffic.staleWins _ _ _ _)) (traffic.setCopy _ d l _)
  have shares (t : State) (l : Nat) : Loses t (((if (t.holder d l).share.isZero then t else t.poisonLine l).dropHolder d l).giveBack d l (t.holder d l).share) :=
    traffic.trans (traffic.trans (either (traffic.refl t) (poisonLine t l)) (dropHolder _ d l)) (giveBack _ d l _)
  unfold State.clearDie
  extract_lets u v
  have hu : Loses s u := traffic.foldl _ lines (s.linesHeld d) s
  have hv : Loses u v := .quiet rfl rfl rfl rfl
  exact traffic.trans (traffic.trans hu hv) (traffic.foldl _ shares (v.holderLines d) v)
theorem clearDie_nothing {s : State} {d : Nat} (hl : s.linesHeld d = []) (hh : s.holderLines d = []) : (s.clearDie d).mg.log = s.mg.log := by
  have h : s.clearDie d = s.loseFences fun p => p.src == d && !s.outdated p := by
    rw [State.clearDie, hl, List.foldl_nil]
    show (s.holderLines d).foldl _ _ = _
    rw [hh, List.foldl_nil]
  rw [h]
  rfl
theorem dieRejoin {s : State} {d : Nat} (hd : d < 8) : ∃ t lost e, happens (.agentRejoin true d) s t ∧ t.dieInc d = (s.dieInc d + 1) % 256 ∧ d ∉ t.ms.out ∧
    outlives s t (·.src = d) ∧ t.ms.mem = s.ms.mem ∧ t.mg.log = s.mg.log ++ lost ++ [e] ∧ e.kind = 8 ∧
    (∀ x ∈ lost, x.kind = 2) ∧ (s.linesHeld d = [] → s.holderLines d = [] → lost = []) := by
  have he : happens (.agentRejoin true d) s ((((s.clearDie d).nextInc d).readmitted d).logEvent 8 d 0 (((s.clearDie d).nextInc d).dieInc d)) := by
    rw [happens, exec_agentRejoin, execAgentRejoin, if_pos rfl, if_neg (by omega)]
  have hk : Loses s (s.clearDie d) := .clearDie s d
  have hn : s.linesHeld d = [] → s.holderLines d = [] → (s.clearDie d).mg.log = s.mg.log := clearDie_nothing
  generalize s.clearDie d = u at he hk hn
  obtain ⟨lost, hlog, hkind⟩ := hk.log
  have hinc : (u.nextInc d).dieInc d = (s.dieInc d + 1) % 256 := by
    rw [dieInc_nextInc, State.dieInc, hk.inc, State.dieInc]
  refine ⟨_, lost, _, he, hinc, ?_, ⟨hk.posted, fun p _ hp => outdated_of_die hinc hp⟩, hk.mem, congrArg (· ++ [_]) hlog, rfl, hkind, fun hl hh => ?_⟩
  · exact fun hm => absurd (List.mem_filter.1 hm).2 (by simp)
  · rw [hn hl hh] at hlog
    exact List.append_cancel_left (hlog.symm.trans (List.append_nil _).symm)
end Sys2Proof.Machine
end

section
/-! Offers to holders, grants, forced drains and bounded reads (R168 to R179, R184). -/
namespace Sys2Proof.Machine
open Sys2Proof.Claims

/-! ## Offers and grants (R168 to R171, R177) -/

theorem getElem?_modAt_same {α : Type} (f : α → α) : ∀ (i : Nat) (l : List α), (modAt f i l)[i]? = l[i]?.map f
  | _, [] => by simp [modAt]
  | 0, _ :: _ => rfl
  | i + 1, _ :: r => getElem?_modAt_same f i r
theorem holderStep_first {s : State} {i : Nat} {o : Offer} (hi : s.ms.offers[i]? = some o) (hf : s.offerFirst i o = true) :
    exec (.holderOffer i) s = .next (match o.stage with
      | 0 => if (s.holder o.die o.line).share.isZero then s.setOffer i { o with stage := 1 } else s.offerMain i o
      | 2 => if (s.holder o.die o.line).share.isZero then s.postOffer i o else s.offerMain i o
      | 4 => s.offerEnd i o
      | 5 => (s.dropOffer i).answerOffer o
      | _ => s) := by
  rw [exec_holderOffer, execHolderOffer, hi]
  dsimp only
  rw [State.holderStep, hf]
  rfl
/-- A holder without a share asks for a grant. -/
theorem holderOffer_asks {s : State} {i : Nat} {o : Offer} (hi : s.ms.offers[i]? = some o) (hf : s.offerFirst i o = true) (h0 : o.stage = 0)
    (hz : (s.holder o.die o.line).share.isZero = true) : ∃ t, happens (.holderOffer i) s t ∧ t.ms.offers[i]? = some { o with stage := 1 } ∧
      t.ms.mem = s.ms.mem ∧ t.ms.holders = s.ms.holders := by
  refine ⟨s.setOffer i { o with stage := 1 }, ?_, ?_, rfl, rfl⟩
  · rw [happens, holderStep_first hi hf, h0]
    exact congrArg Host.Outcome.next (if_pos hz)
  · exact (getElem?_modAt_same _ i s.ms.offers).trans (by rw [hi]; rfl)

theorem sendOn_self (s : State) (set d c : Nat) : s.sendOn set d d c = s := if_pos rfl
theorem awaitDrains_none {s : State} (h : s.ms.posted = []) (l : Nat) : s.awaitDrains l = s := by simp [State.awaitDrains, h]
/-- An ATOM of the home die reads there, all its additions having been dealt with. -/
theorem answerOffer_atHome {s : State} {o : Offer} (hd : o.die = homeOf s (o.line * 128)) (hp : s.ms.posted = []) (hl : o.late = []) :
    s.answerOffer o = if s.ms.poison.contains o.line then s.addFresh o.agent (.old none [])
      else let p := s.readAt o.die (addrs o.pa 4)
        (p.1.attachAll o.die [(o.pa, 0)] o.rel).addFresh o.agent (.old (some (leNat p.2)) (metOn o.die o.line (p.1.copyOf o.die o.line).recs)) := by
  rw [State.answerOffer, ← hd, sendOn_self, sendOn_self, awaitDrains_none hp, hl]
  rfl
theorem lines_of_element {a n l : Nat} (hn : 0 < n) (h : ∀ k < n, lineOf (a + k) = l) : ((addrs a n).map lineOf).eraseDups = [l] := by
  refine eraseDups_of_forall_eq (fun he => ?_) ?_
  · have := congrArg List.length he
    simp only [List.length_map, addrs_length, List.length_nil] at this
    omega
  · simp only [addrs_eq_map, List.map_map, List.forall_mem_map, List.mem_range]
    exact h
theorem readAt_element {s : State} {a n l : Nat} (hn : 0 < n) (h : ∀ k < n, lineOf (a + k) = l) (d : Nat) :
    s.readAt d (addrs a n) = (s.share d l, (addrs a n).map (s.share d l).byte) := by
  rw [State.readAt, lines_of_element hn h]
  rfl
section
variable {s : State} {o : Offer} (ho : s.ms.offers = [o]) (h5 : o.stage = 5) (hp : s.ms.posted = []) (hl : o.late = [])
  (hd : o.die = homeOf s (o.line * 128))
include ho h5 hp hl hd

/-- The ATOM's read, which leaves no offer. -/
theorem holderOffer_answers : happens (.holderOffer 0) s (if s.ms.poison.contains o.line then (s.dropOffer 0).addFresh o.agent (.old none [])
      else let p := (s.dropOffer 0).readAt o.die (addrs o.pa 4)
        (p.1.attachAll o.die [(o.pa, 0)] o.rel).addFresh o.agent (.old (some (leNat p.2)) (metOn o.die o.line (p.1.copyOf o.die o.line).recs))) := by
  have hi : s.ms.offers[0]? = some o := by rw [ho]; rfl
  rw [happens, holderStep_first hi rfl, h5]
  exact congrArg Host.Outcome.next (answerOffer_atHome (s := s.dropOffer 0) hd hp hl)
theorem holderOffer_poisoned (hc : s.ms.poison.contains o.line = true) : ∃ t, happens (.holderOffer 0) s t ∧ t.ms.offers = [] ∧ t.ms.mem = s.ms.mem ∧
    t.ms.fresh = s.ms.fresh ++ [(o.agent, .old none [])] := by
  refine ⟨(s.dropOffer 0).addFresh o.agent (.old none []), ?_, ?_, rfl, rfl⟩
  · have h := holderOffer_answers ho h5 hp hl hd
    rwa [if_pos hc] at h
  · exact congrArg (dropAt 0) ho
theorem holderOffer_reads (hpa : ∀ k < 4, lineOf (o.pa + k) = o.line) (hc : s.ms.poison.contains o.line = false) :
    ∃ t, happens (.holderOffer 0) s t ∧ t.ms.offers = [] ∧ t.ms.mem = s.ms.mem ∧
      t.ms.fresh = s.ms.fresh ++ [(o.agent, .old (some (little ((List.range 4).map fun k => s.byte (o.pa + k))))
        (metOn o.die o.line ((s.share o.die o.line).copyOf o.die o.line).recs))] ∧
      ∀ r, o.rel = some r → r ∈ (t.copyOf o.die o.line).recs := by
  have h := holderOffer_answers ho h5 hp hl hd
  rw [if_neg (by rw [hc]; exact Bool.false_ne_true), readAt_element (by decide) hpa] at h
  have hs : Passes (s.dropOffer 0) ((s.dropOffer 0).share o.die o.line) := Passes.traffic.share _ _ _
  have ha := Passes.traffic.trans hs (attachAll_passes ((s.dropOffer 0).share o.die o.line) o.die [(o.pa, 0)] o.rel)
  refine ⟨_, h, ha.offers.trans (congrArg (dropAt 0) ho), ha.mem, ?_, fun r hr => ?_⟩
  · dsimp only [State.addFresh]
    rw [ha.fresh, leNat_addrs, copyOf_share_congr (s := s) (t := s.dropOffer 0) rfl rfl]
    simp only [hs.byte]
    rfl
  · dsimp only
    rw [hr]
    exact mem_attachAll (List.cons_ne_nil _ _) (by simpa using hpa 0 (by decide)) r
end

/-- What a grant comes to is a matter of the line's record. -/
theorem requestGrant_congr {s t : State} (h : t.ms.grants = s.ms.grants) (d l : Nat) (lim : Word) :
    (t.requestGrant d l lim).2 = (s.requestGrant d l lim).2 := by
  simp only [State.requestGrant, h]
  split <;> rfl
theorem requestGrant_else (s : State) (d l : Nat) (lim : Word) : (s.requestGrant d l lim).1.ms.holders = s.ms.holders ∧
    (s.requestGrant d l lim).1.ms.offers = s.ms.offers := by
  simp only [State.requestGrant]
  split <;> exact ⟨rfl, rfl⟩
theorem holder_setHolder_same (s : State) (d l : Nat) (h : Holder) : (s.setHolder d l h).holder d l = h := kvGetD_kvSetD_same _ _ _ _
theorem offers_setHolder (s : State) (d l : Nat) (h : Holder) : (s.setHolder d l h).ms.offers = s.ms.offers := rfl
theorem holder_setOffer (s : State) (i : Nat) (o : Offer) (d l : Nat) : (s.setOffer i o).holder d l = s.holder d l := rfl
theorem offers_setOffer (s : State) (i : Nat) (o : Offer) : (s.setOffer i o).ms.offers = modAt (fun _ => o) i s.ms.offers := rfl
theorem grantTo_offers (s : State) (c d l : Nat) (lim : Word) : (s.grantTo c d l lim).ms.offers = s.ms.offers := by
  have hp : Passes s ((s.sendOn c d (homeOf s (l * 128)) 0).sendOn c (homeOf s (l * 128)) d 2) :=
    Passes.traffic.trans (Passes.traffic.sendOn s _ _ _ _) (Passes.traffic.sendOn _ _ _ _ _)
  rw [State.grantTo]
  dsimp only
  rw [offers_setHolder, (requestGrant_else _ d l lim).2, hp.offers]
/-- The holder's share grows by what the home grants. -/
theorem grantTo_share (s : State) (c d l : Nat) (lim : Word) :
    ((s.grantTo c d l lim).holder d l).share = (s.holder d l).share.add (s.requestGrant d l lim).2 := by
  have hp : Passes s ((s.sendOn c d (homeOf s (l * 128)) 0).sendOn c (homeOf s (l * 128)) d 2) :=
    Passes.traffic.trans (Passes.traffic.sendOn s _ _ _ _) (Passes.traffic.sendOn _ _ _ _ _)
  rw [State.grantTo]
  dsimp only
  rw [holder_setHolder_same, requestGrant_congr hp.grants, holder_congr ((requestGrant_else _ d l lim).1.trans hp.holders)]
theorem grantRequest_grants {s : State} {o : Offer} (ho : s.ms.offers = [o]) (hs : o.stage = 1 ∨ o.stage = 3) :
    ∃ t, happens (.grantRequest o.die o.line) s t ∧ t.ms.offers = [{ o with stage := o.stage + 1 }] ∧
      (t.holder o.die o.line).share = (s.holder o.die o.line).share.add (s.requestGrant o.die o.line o.lim).2 := by
  have ha : askerOf o.die o.line s.ms.offers = some (0, o) := by
    rw [ho, askerOf, if_pos (by simpa [asksGrant] using hs)]
  refine ⟨(s.grantTo o.set o.die o.line o.lim).setOffer 0 { o with stage := o.stage + 1 }, ?_, ?_, ?_⟩
  · rw [happens, exec_grantRequest, execGrantRequest, ha]
  · rw [offers_setOffer, grantTo_offers, ho]
    rfl
  · rw [holder_setOffer, grantTo_share]

/-! ## Drains of holders (R172, R184) -/

theorem bvCheck_ms (s : State) : s.bvCheck.ms = s.ms := by
  unfold State.bvCheck
  split <;> rfl
theorem forcedDrain_empties (s : State) (d l : Nat) : ∃ t, happens (.forcedDrain d l) s t ∧ t.holder d l = emptyHolder :=
  ⟨_, rfl, (holder_congr (congrArg MemSys.holders (bvCheck_ms _)) d l).trans (forceDrain_holder s d l)⟩
/-- BVDRAIN is busy until the holders of the dies that it names keep nothing. -/
theorem bvCheck_busy {s : State} (h : s.mg.bvBusy = true) : s.bvCheck.mg.bvDies = s.mg.bvDies ∧
    (s.bvCheck.mg.bvBusy = false ↔ ∀ d < 8, s.mg.bvDies.getLsbD d = true → s.heldLines d = []) := by
  have hd : s.bvDone = true ↔ ∀ d < 8, s.mg.bvDies.getLsbD d = true → s.heldLines d = [] := by
    simp only [State.bvDone, upto, List.all_eq_true, List.mem_range, Bool.or_eq_true, Bool.not_eq_true', List.isEmpty_iff]
    exact forall₂_congr fun d _ => by cases s.mg.bvDies.getLsbD d <;> simp
  rw [← hd, State.bvCheck, h, Bool.true_and]
  split
  next e => exact ⟨rfl, iff_of_true rfl e⟩
  next e => exact ⟨rfl, iff_of_false (by simp [h]) e⟩
theorem bvdrainWrite_idle {s : State} (v : BitVec 32) (h : s.mg.bvBusy = false) : exec (.bvdrainWrite v) s =
    .next (let u : State := { s with mg := { s.mg with bvErr := s.mg.bvErr && !v.getLsbD 9 } }
      if v.extractLsb' 0 8 = 0 then u else { u with mg := { u.mg with bvDies := v.extractLsb' 0 8, bvBusy := true } }.bvCheck) := by
  rw [exec_bvdrainWrite, execBvdrainWrite, if_neg (by simp [h]), BitVec.truncate_eq_setWidth, BitVec.setWidth_eq_extractLsb' (by decide)]
  dsimp only
  split <;> rfl
theorem bvdrainWrite_starts {s : State} {v : BitVec 32} (h : s.mg.bvBusy = false) (hv : v.extractLsb' 0 8 ≠ 0) :
    ∃ t, happens (.bvdrainWrite v) s t ∧ t.mg.bvDies = v.extractLsb' 0 8 ∧
      (t.mg.bvBusy = false ↔ ∀ d < 8, v.getLsbD d = true → s.heldLines d = []) := by
  have he := bvdrainWrite_idle v h
  rw [if_neg hv] at he
  refine ⟨_, he, (bvCheck_busy rfl).1, (bvCheck_busy rfl).2.trans (forall₂_congr fun d hd => ?_)⟩
  simp only [BitVec.getLsbD_extractLsb', hd, decide_true, Bool.true_and, Nat.zero_add]
  rfl

/-! ## Bounded reads and grant records (R169, R174 to R176) -/

theorem drainTo_noGrant {s : State} {l : Nat} (h : kvGet l s.ms.grants = none) (q : Nat) (lim : Word) : s.drainTo l q lim = s := by
  rw [State.drainTo, h]
theorem visit_passes (s : State) (d l : Nat) : Passes s (s.visit d l) := Passes.traffic.sends s _ _ _ _ _ _
/-- Where no share of the lines is given out, they are visited and no more. -/
theorem drainTos_noGrant {s : State} (d q : Nat) (lim : Word) (ls : List Nat) (h : ∀ l ∈ ls, kvGet l s.ms.grants = none) :
    ls.foldl (fun s l => (s.visit d l).drainTo l q lim) s = ls.foldl (fun s l => s.visit d l) s := by
  refine foldl_eq_of_keeps (P := fun s l => kvGet l s.ms.grants = none) (fun s l h => ?_) (fun s a c h => ?_) ls s h
  · exact drainTo_noGrant (by rwa [(visit_passes s d l).grants]) q lim
  · rwa [(visit_passes s d a).grants]
theorem readAt_passes (s : State) (d : Nat) (as : List Nat) : Passes s (s.readAt d as).1 :=
  Passes.traffic.foldl _ (fun s l => Passes.traffic.share s d l) _ s
theorem grants_of_lines {s : State} {b : BRead} (h : ∀ k < b.len, kvGet (lineOf (b.pa + k)) s.ms.grants = none) :
    ∀ l ∈ b.lines, kvGet l s.ms.grants = none := by
  simp only [BRead.lines, List.mem_eraseDups, addrs_eq_map, List.map_map, List.forall_mem_map, List.mem_range]
  exact h
/-- The answer to a bounded read whose lines have been brought within the tolerance. -/
def State.answerRead (s : State) (b : BRead) : State :=
  let p := s.readAt (homeOf s b.pa) (addrs b.pa b.len)
  if (s.poisoned (addrs b.pa b.len)).isSome then s.addFresh b.agent (.fail 0x0D (BitVec.ofNat 64 b.va))
  else p.1.addFresh b.agent (.bytes b.pa p.2)
/-- The read alone, made for its agent. -/
def State.takeRead (s : State) (b : BRead) : State := { s with ms := { s.ms with breads := [] }, cur := agentCur b.agent }
theorem boundedRead_only {s : State} {b : BRead} (hb : s.ms.breads = [b]) : exec (.boundedRead 0) s =
    .next ((b.lines.foldl (fun (s : State) l => (s.visit (agentDie b.agent) l).drainTo l b.q b.lim)
      (s.takeRead b)).answerRead b) := by
  rw [exec_boundedRead, execBoundedRead, hb]
  rfl
theorem answerRead_else (s : State) (b : BRead) : (s.answerRead b).ms.breads = s.ms.breads ∧ (s.answerRead b).ms.mem = s.ms.mem := by
  have hp := readAt_passes s (homeOf s b.pa) (addrs b.pa b.len)
  rw [State.answerRead]
  split
  · exact ⟨rfl, rfl⟩
  · exact ⟨hp.breads, hp.mem⟩
theorem answerRead_bytes {s : State} (h : s.ms.poison = []) (b : BRead) : (s.answerRead b).ms.fresh =
    s.ms.fresh ++ [(b.agent, .bytes b.pa ((List.range b.len).map fun k => s.byte (b.pa + k)))] := by
  have hp := readAt_passes s (homeOf s b.pa) (addrs b.pa b.len)
  have hbytes : (s.readAt (homeOf s b.pa) (addrs b.pa b.len)).2 = (List.range b.len).map fun k => s.byte (b.pa + k) := by
    show (addrs b.pa b.len).map (s.readAt (homeOf s b.pa) (addrs b.pa b.len)).1.byte = _
    rw [funext hp.byte, addrs_eq_map, List.map_map]
    rfl
  rw [State.answerRead, if_neg (by simp [State.poisoned, h])]
  dsimp only [State.addFresh]
  rw [hp.fresh, hbytes]
/-- A bounded read whose lines no share is given out of reads memory as it is. -/
theorem boundedRead_reads {s : State} {b : BRead} (hb : s.ms.breads = [b]) (hg : ∀ k < b.len, kvGet (lineOf (b.pa + k)) s.ms.grants = none) :
    ∃ t, happens (.boundedRead 0) s t ∧ t.ms.breads = [] ∧ t.ms.mem = s.ms.mem ∧
      (s.ms.poison = [] → t.ms.fresh = s.ms.fresh ++ [(b.agent, .bytes b.pa ((List.range b.len).map fun k => s.byte (b.pa + k)))]) := by
  have he := boundedRead_only hb
  rw [drainTos_noGrant (s := s.takeRead b) _ _ _ _ (grants_of_lines hg)] at he
  have hv := Passes.traffic.foldl (fun s l => s.visit (agentDie b.agent) l) (fun s l => visit_passes s _ l) b.lines (s.takeRead b)
  refine ⟨_, he, (answerRead_else _ b).1.trans hv.breads, (answerRead_else _ b).2.trans hv.mem, fun h0 => ?_⟩
  rw [answerRead_bytes (hv.poison.trans h0), hv.fresh]
  simp only [hv.byte]
  rfl
theorem grantRecordEviction_removes (s : State) (l : Nat) : ∃ t, happens (.grantRecordEviction l) s t ∧ kvGet l t.ms.grants = none :=
  ⟨_, rfl, kvGet_kvDel_same _ _⟩
theorem grantRecordEviction_noGrant {s : State} {l : Nat} (h : kvGet l s.ms.grants = none) :
    ∃ t, happens (.grantRecordEviction l) s t ∧ t.ms.mem = s.ms.mem ∧ kvGet l t.ms.grants = none :=
  ⟨_, rfl, congrArg (·.ms.mem) (drainLine_noGrant h), kvGet_kvDel_same _ _⟩
end Sys2Proof.Machine
end

section
/-! The end of a page walk, invalidations of translations, and the host's answers (R49, R63 to R70). -/
namespace Sys2Proof.Machine
open Sys2Proof.Claims

/-! ## Page walks (R49, R62, R63) -/

/-- The walks outstanding are the same. -/
def SameWalks (s t : State) : Prop := t.ms.walks = s.ms.walks
theorem SameWalks.walking : Walking SameWalks where
  refl _ := rfl
  trans h k := Eq.trans k h
  holdBack _ := rfl
  setAllowance _ _ _ _ := rfl
  setCopy _ _ _ _ := rfl
  staleWin _ _ _ := rfl
  write _ _ _ := rfl
  log _ _ _ _ _ := rfl
  sums _ _ _ _ := rfl
  answers _ _ _ := rfl
/-- A walk that has ended is outstanding no more. -/
theorem not_mem_endWalk (s : State) (w : Walk) : w ∉ (s.endWalk w).ms.walks := by
  have hw : SameWalks { s with ms := { s.ms with walks := s.ms.walks.filter (· != w) } } (s.endWalk w) := by
    rw [endWalk_eq]
    exact SameWalks.walking.trans (SameWalks.walking.walkDie _ _ _ _ _ _) (SameWalks.walking.serves _ _ _ _ ((s.walkOf w).1, (s.walkOf w).2.1))
  rw [show (s.endWalk w).ms.walks = _ from hw]
  exact fun h => absurd (List.mem_filter.1 h).2 (by simp)
theorem serves_absent (d va : Nat) (whole : Bool) (xs : List Waiter) (s : State) :
    xs.foldl (State.serve d va whole) (s, .absent) =
      (xs.foldl (fun u x => u.addFresh x.agent (.fail (if x.need.x then 0x0C else 0x08) (BitVec.ofNat 64 x.va))) s, .absent) := by
  induction xs generalizing s with
  | nil => rfl
  | cons x r ih =>
    have hc : BitVec.ofNat 8 (absentCause x.need) = if x.need.x then 0x0C else 0x08 := by
      unfold absentCause
      split <;> rfl
    rw [List.foldl_cons, List.foldl_cons, State.serve, hc, ih]
theorem serve_leaf (d va : Nat) (whole : Bool) (s : State) (l : Leaf) (pa : Nat) (x : Waiter) :
    (State.serve d va whole (s, .leaf l pa) x).1 = let p := if s.grants? l va x.need then s.setAD d l pa x.need else (s, l)
      (if x.need.none = true ∧ p.2.a = false then p.1 else p.1.tlbInstall x.unit p.2).addFresh x.agent (.leaf p.2 whole) := by
  rw [State.serve]
  dsimp only
  simp only [Bool.and_eq_true, Bool.not_eq_true']
section
variable {s : State} {i : Nat}
theorem pageWalkComplete_none (h : s.ms.walks[i]? = none) : nothing (.pageWalkComplete i) s := by
  rw [nothing, exec_pageWalkComplete, execPageWalkComplete, h]
variable {w : Walk} (h : s.ms.walks[i]? = some w)
include h
theorem hasWalker_eq : s.hasWalker i = decide (((s.ms.walks.take i).filter fun x => x.die == w.die).length < 32) := by
  rw [State.hasWalker, h]
  rfl
theorem pageWalkComplete_waits (hb : 32 ≤ ((s.ms.walks.take i).filter fun x => x.die == w.die).length) : nothing (.pageWalkComplete i) s := by
  rw [nothing, exec_pageWalkComplete, execPageWalkComplete, h]
  exact congrArg Host.Outcome.next (if_neg (by rw [hasWalker_eq h, decide_eq_true_eq, not_lt]; exact hb))
theorem pageWalkComplete_ends (hb : ((s.ms.walks.take i).filter fun x => x.die == w.die).length < 32) :
    happens (.pageWalkComplete i) s (({ s with cur := w.cur } : State).endWalk w) := by
  rw [happens, exec_pageWalkComplete, execPageWalkComplete, h]
  exact congrArg Host.Outcome.next (if_pos (by rw [hasWalker_eq h, decide_eq_true_eq]; exact hb))
end

/-! ## Invalidation of translations (R65 to R69) -/

theorem cmdKind_eq {v : BitVec 32} : cmdKind v = (v.extractLsb' 0 3).toNat := bits_toNat v 2 0 3 rfl
theorem cmdSpan_eq {v : BitVec 32} : cmdSpan v = 2 ^ (v.extractLsb' 3 5).toNat := by rw [cmdSpan, bits_toNat v 7 3 5 rfl]
theorem xlatCmd_refused {s : State} {v : Word} (h : s.invalRefused v = true) : s.xlatCmd v = { s with mg := { s.mg with xlatErr := true } } :=
  if_pos h
theorem invalRefused_iff {s : State} {v : Word} : s.invalRefused v = true ↔ s.mg.inval.isSome = true ∨ 6 ≤ cmdKind v ∨
    ((cmdKind v = 1 ∨ cmdKind v = 4) ∧ s.mg.xlatVa.toNat / 2 ^ 14 % cmdSpan v ≠ 0) := by
  simp only [State.invalRefused, Bool.or_eq_true, Bool.and_eq_true, beq_iff_eq, bne_iff_ne, decide_eq_true_eq, or_assoc]
theorem takes_waits (c : Inval) (ws : List Nat) : ({ c with waits := ws } : Inval).takes = c.takes := by
  funext x
  cases x <;> rfl
/-- The invalidation in progress and the command are the same. -/
def SameCmd (s t : State) : Prop := t.mg.inval = s.mg.inval ∧ t.mg.xlatCmd = s.mg.xlatCmd
theorem SameCmd.fetching : Fetching SameCmd where
  refl _ := ⟨rfl, rfl⟩
  trans h k := ⟨k.1.trans h.1, k.2.trans h.2⟩
  holdBack _ := ⟨rfl, rfl⟩
  setAllowance _ _ _ _ := ⟨rfl, rfl⟩
  setCopy _ _ _ _ := ⟨rfl, rfl⟩
  staleWin _ _ _ := ⟨rfl, rfl⟩
  write _ _ _ := ⟨rfl, rfl⟩
  log _ _ _ _ _ := ⟨rfl, rfl⟩
  sums _ _ _ _ := ⟨rfl, rfl⟩
  answers _ _ _ := ⟨rfl, rfl⟩
  cur _ _ := ⟨rfl, rfl⟩
  walks _ _ := ⟨rfl, rfl⟩
  cores _ _ _ := ⟨rfl, rfl⟩
/-- The command as it starts, before any code is dropped. -/
def State.beginInval (s : State) (v : Word) : State :=
  let c := invalOf s.mg.xlatVa v
  let s := (s.dropLeaves c).restartWalks
  { s with mg := { s.mg with xlatCmd := v &&& cmdMask, inval := some { c with waits := s.waitsOf c } } }
theorem startInval_sameCmd (s : State) (v : Word) : SameCmd (s.beginInval v) (s.startInval v) :=
  either (SameCmd.fetching.foldl _ (fun s k => SameCmd.fetching.dropCode s _ _ k) _ _) (SameCmd.fetching.refl _)
theorem startInval_noCode {s : State} {v : Word} (h : cmdKind v ≠ 4) : s.startInval v = s.beginInval v := if_neg h
/-- The invalidation events, by KIND (R66). -/
def xlatEvents : List (Nat × (BitVec 32 → Instr)) :=
  [(1, Instr.xlatInvPageRange), (2, .xlatInvContext), (3, .xlatInvRegion), (4, .xlatInvCodeRange), (5, .xlatInvAll)]
section
variable {s : State} {v : BitVec 32} {c : Nat × (BitVec 32 → Instr)} (hc : c ∈ xlatEvents)
include hc

theorem xlatEvents_kind : 1 ≤ c.1 ∧ c.1 ≤ 5 := by
  simp only [xlatEvents, List.mem_cons, List.not_mem_nil, or_false] at hc
  obtain rfl | rfl | rfl | rfl | rfl := hc <;> decide
theorem xlatEvents_exec : exec (c.2 v) s = xlatWrite c.1 v s := by
  simp only [xlatEvents, List.mem_cons, List.not_mem_nil, or_false] at hc
  obtain rfl | rfl | rfl | rfl | rfl := hc <;> rfl

variable (hk : cmdKind v = c.1)
include hk
theorem xlatEvents_writes : exec (c.2 v) s = .next (s.xlatCmd v) := by
  rw [xlatEvents_exec hc, xlatWrite, if_pos (by simp [hk])]
theorem xlatEvents_refused (h : s.mg.inval.isSome = true ∨ ((c.1 = 1 ∨ c.1 = 4) ∧ s.mg.xlatVa.toNat / 2 ^ 14 % cmdSpan v ≠ 0)) :
    happens (c.2 v) s { s with mg := { s.mg with xlatErr := true } } := by
  rw [happens, xlatEvents_writes hc hk, xlatCmd_refused (invalRefused_iff.2 _)]
  exact h.imp_right fun h => .inr (hk.symm ▸ h)
theorem xlatEvents_starts (hi : s.mg.inval = none) (hn : s.mg.xlatVa.toNat / 2 ^ 14 % cmdSpan v = 0) :
    happens (c.2 v) s (s.startInval v) := by
  obtain ⟨h1, h5⟩ := xlatEvents_kind hc
  have hr : ¬ s.invalRefused v = true := fun h => by
    obtain h | h | ⟨_, h⟩ := invalRefused_iff.1 h
    · rw [hi] at h; cases h
    · omega
    · exact h hn
  rw [happens, xlatEvents_writes hc hk, State.xlatCmd, if_neg hr, if_neg (by omega)]
end
theorem xlatInvalidationDone_ends {s : State} {c : Inval} (hi : s.mg.inval = some c) (hw : c.waits = []) (hl : s.latePending c = false) :
    happens .xlatInvalidationDone s { s with mg := { s.mg with
      inval := none, ctxUsed := s.mg.ctxUsed.filter fun k => !(c.kind == 5 || (c.kind == 2 && c.ctx == k)) } } := by
  rw [happens, exec_xlatInvalidationDone, execXlatInvalidationDone, hi]
  exact congrArg Host.Outcome.next (if_pos (by simp [hw, hl]))
theorem xlatInvalidationDone_waits {s : State} {c : Inval} (hi : s.mg.inval = some c) (h : c.waits ≠ [] ∨ s.latePending c = true) :
    nothing .xlatInvalidationDone s := by
  rw [nothing, exec_xlatInvalidationDone, execXlatInvalidationDone, hi]
  refine congrArg Host.Outcome.next (if_neg ?_)
  obtain h | h := h
  · simp [h]
  · simp [h]

/-! ## The host's answers (R70) -/

theorem hostWriteOut_iff (s : State) : s.ms.posted.any Posted.toHost = true ↔ hostWriteOut s := by
  rw [List.any_eq_true]
  refine exists_congr fun p => and_congr_right fun _ => ⟨fun h => ?_, fun ⟨cs, own, op, e, c, hc, hp⟩ => ?_⟩
  · unfold Posted.toHost at h
    split at h
    next cs own op e => 
      obtain ⟨c, hc, hp⟩ := List.any_eq_true.1 h
      exact ⟨cs, own, op, e, c, hc, of_decide_eq_true hp⟩
    next => cases h
  · rw [Posted.toHost, e]
    exact List.any_eq_true.2 ⟨c, hc, decide_eq_true hp⟩
section
variable {s : State} {fn base span : Nat}

theorem atsInvalidation_waits (h : hostWriteOut s ∨ ∃ x ∈ s.ms.atsUsed, s.accessing x.1 = true ∧ x.2.1 = fn ∧ x.2.2 * 4096 < base + span ∧
    base < x.2.2 * 4096 + 4096) : nothing (.atsInvalidation fn base span) s := by
  refine if_pos (Bool.or_eq_true_iff.2 ?_)
  obtain h | ⟨x, hx, ha, hf, hl, hr⟩ := h
  · exact .inr ((hostWriteOut_iff s).2 h)
  · exact .inl (List.any_eq_true.2 ⟨x, hx, by simp [atsMeets, ha, hf, hl, hr]⟩)
theorem atsInvalidation_ends (hw : ¬ hostWriteOut s) (hu : ∀ x ∈ s.ms.atsUsed, s.accessing x.1 = true → x.2.1 = fn →
    x.2.2 * 4096 < base + span → x.2.2 * 4096 + 4096 ≤ base) : happens (.atsInvalidation fn base span) s
      { s with ms := { s.ms with atc := s.ms.atc.filter fun a =>
        !(a.func == fn && decide (a.page * 4096 < base + span) && decide (base < a.page * 4096 + 4096)) } } := by
  refine if_neg fun h => ?_
  obtain h | h := Bool.or_eq_true_iff.1 h
  · obtain ⟨x, hx, hm⟩ := List.any_eq_true.1 h
    simp only [atsMeets, Bool.and_eq_true, beq_iff_eq, decide_eq_true_eq] at hm
    obtain ⟨ha, ⟨hf, hl⟩, hr⟩ := hm
    exact absurd hr (not_lt.2 (hu x hx ha hf hl))
  · exact hw ((hostWriteOut_iff s).1 h)
end

/-- What a request's waiting accesses are told. -/
def AtsReq.refusals (cause : Nat) (a : AtsReq) : List (Nat × Fresh) :=
  a.waiters.map fun w => (w.agent, .refused a.func a.page a.usePri w.need.w (BitVec.ofNat 8 cause))
theorem refuse_eq (a : AtsReq) (cause : Nat) (ws : List Waiter) (s : State) : s.refuse a ws cause = { s with ms := { s.ms with
    fresh := s.ms.fresh ++ ws.map fun w => (w.agent, .refused a.func a.page a.usePri w.need.w (BitVec.ofNat 8 cause)) } } := by
  induction ws generalizing s with
  | nil => simp [State.refuse]
  | cons w r ih =>
    rw [State.refuse, List.foldl_cons, ← State.refuse, ih]
    simp [State.addFresh]
/-- Requests that fail are gone, and their accesses know it. -/
theorem failAts_eq (s : State) (p : AtsReq → Bool) (cause : Nat) : s.failAts p cause = { s with ms := { s.ms with
    ats := s.ms.ats.filter fun a => !p a, fresh := s.ms.fresh ++ (s.ms.ats.filter p).flatMap (AtsReq.refusals cause) } } := by
  have hall : ∀ (l : List AtsReq) (u : State), l.foldl (fun s a => s.refuse a a.waiters cause) u =
      { u with ms := { u.ms with fresh := u.ms.fresh ++ l.flatMap (AtsReq.refusals cause) } } := by
    intro l
    induction l with
    | nil => intro u; simp
    | cons a r ih =>
      intro u
      rw [List.foldl_cons, ih, refuse_eq]
      simp [AtsReq.refusals]
  rw [State.failAts, hall]
  rfl
theorem failAts_miss {s : State} {p : AtsReq → Bool} (h : ∀ a ∈ s.ms.ats, p a = false) (cause : Nat) : s.failAts p cause = s := by
  have hn : s.ms.ats.filter p = [] := List.filter_eq_nil_iff.2 fun a ha => by rw [h a ha]; exact Bool.false_ne_true
  have hall : (s.ms.ats.filter fun a => !p a) = s.ms.ats := List.filter_eq_self.2 fun a ha => by rw [h a ha]; rfl
  rw [failAts_eq, hn, hall, List.flatMap_nil, List.append_nil]
theorem failAts_one {s : State} {p : AtsReq → Bool} {a : AtsReq} {w : Waiter} (hs : s.ms.ats = [a]) (h : p a = true) (hw : a.waiters = [w]) (cause : Nat) :
    (s.failAts p cause).ms.ats = [] ∧
      (s.failAts p cause).ms.fresh = s.ms.fresh ++ [(w.agent, .refused a.func a.page a.usePri w.need.w (BitVec.ofNat 8 cause))] := by
  rw [failAts_eq]
  simp [hs, h, AtsReq.refusals, hw]
section
variable {s : State} {fn page : Nat}

/-- Some request is the answer's. -/
theorem atsCompletion_asked (h : s.atsWhere (AtsReq.isFor fn page) ≠ []) (res : AtsResult) : exec (.atsTranslationCompletion fn page res) s =
    .next (match res with
      | .granted pa w =>
        let u := (s.dropAts (AtsReq.isFor fn page)).putAtc ⟨fn, page, pa, w⟩
        if w then u else (s.atsWhere (AtsReq.isFor fn page)).foldl (fun s a => s.refuse a (a.waiters.filter fun x => x.need.w) 0x09) u
      | .denied => s.failAts (AtsReq.isFor fn page) 0x09
      | .noPage => (s.failAts (fun a => AtsReq.isFor fn page a && !a.usePri) 0x08).modAts (fun a => AtsReq.isFor fn page a && a.pri.isNone)
          fun a => { a with pri := some s.clock }) :=
  congrArg Host.Outcome.next (if_neg (by rwa [List.isEmpty_iff]))

variable {a : AtsReq} (hf : a.func = fn) (hp : a.page = page)
include hf hp
theorem isFor_own : AtsReq.isFor fn page a = true := by simp [AtsReq.isFor, hf, hp]
theorem asked_head {r : List AtsReq} (hs : s.ms.ats = a :: r) : s.atsWhere (AtsReq.isFor fn page) ≠ [] :=
  List.ne_nil_of_mem (List.mem_filter.2 ⟨hs ▸ .head _, isFor_own hf hp⟩)

variable (hs : s.ms.ats = [a])
include hs
theorem atsCompletion_granted (pa : Nat) : ∃ t, happens (.atsTranslationCompletion fn page (.granted pa true)) s t ∧
    t.ms.ats = [] ∧ t.ms.atc.head? = some ⟨fn, page, pa, true⟩ := by
  refine ⟨_, atsCompletion_asked (asked_head hf hp hs) _, ?_, rfl⟩
  simp [State.putAtc, State.dropAts, hs, isFor_own hf hp]
theorem atsCompletion_denied {w : Waiter} (hw : a.waiters = [w]) : ∃ t, happens (.atsTranslationCompletion fn page .denied) s t ∧
    t.ms.ats = [] ∧ t.ms.fresh = s.ms.fresh ++ [(w.agent, .refused fn page a.usePri w.need.w 0x09)] :=
  ⟨_, atsCompletion_asked (asked_head hf hp hs) _, hf ▸ hp ▸ failAts_one hs (isFor_own rfl rfl) hw 0x09⟩
/-- Without PRI the access fails at once. -/
theorem atsCompletion_noPage {w : Waiter} (hw : a.waiters = [w]) (hu : a.usePri = false) :
    ∃ t, happens (.atsTranslationCompletion fn page .noPage) s t ∧ t.ms.ats = [] ∧
      t.ms.fresh = s.ms.fresh ++ [(w.agent, .refused fn page false w.need.w 0x08)] := by
  refine ⟨_, atsCompletion_asked (asked_head hf hp hs) _, ?_⟩
  dsimp only
  rw [failAts_eq]
  simp [State.modAts, hs, isFor_own hf hp, AtsReq.refusals, hw, hf, hp, hu]
/-- With PRI the page is asked for. -/
theorem atsCompletion_asksPage (hu : a.usePri = true) (hn : a.pri = none) :
    ∃ t, happens (.atsTranslationCompletion fn page .noPage) s t ∧ t.ms.ats = [{ a with pri := some s.clock }] := by
  refine ⟨_, atsCompletion_asked (asked_head hf hp hs) _, ?_⟩
  dsimp only
  rw [failAts_eq]
  simp [State.modAts, hs, isFor_own hf hp, hu, hn]
theorem priResponse_asksAgain : ∃ u, happens (.priResponse fn page true) s u ∧ u.ms.ats = [{ a with pri := none }] := by
  refine ⟨_, rfl, ?_⟩
  simp [State.modAts, hs, isFor_own hf hp]
theorem priTimeout_fails {t : Nat} {w : Waiter} (ht : a.pri = some t) (hw : a.waiters = [w]) (hc : t + 2 ^ 24 ≤ s.clock) :
    ∃ u, happens (.priTimeout fn page) s u ∧ u.ms.ats = [] ∧ u.ms.fresh = s.ms.fresh ++ [(w.agent, .refused fn page a.usePri w.need.w 0x08)] := by
  refine ⟨_, rfl, hf ▸ hp ▸ failAts_one hs ?_ hw 0x08⟩
  rw [isFor_own rfl rfl, ht, Option.any_some, decide_eq_true hc]
  rfl
omit hf hp in
theorem priTimeout_waits {t : Nat} (ht : a.pri = some t) (hc : s.clock < t + 2 ^ 24) : nothing (.priTimeout fn page) s := by
  refine congrArg Host.Outcome.next (failAts_miss (fun b hb => ?_) _)
  rw [hs, List.mem_singleton] at hb
  rw [hb, ht, Option.any_some, decide_eq_false (not_le.2 hc), Bool.and_false]
omit hs
/-- A page asked for by contexts with the PRI bit and by contexts without it. -/
theorem atsCompletion_both {b : AtsReq} {w : Waiter} (hs : s.ms.ats = [a, b]) (hbf : b.func = fn) (hbp : b.page = page) (ha : a.usePri = false)
    (hb : b.usePri = true) (hn : b.pri = none) (hw : a.waiters = [w]) : ∃ t, happens (.atsTranslationCompletion fn page .noPage) s t ∧
      t.ms.ats = [{ b with pri := some s.clock }] ∧ t.ms.fresh = s.ms.fresh ++ [(w.agent, .refused fn page false w.need.w 0x08)] := by
  refine ⟨_, atsCompletion_asked (asked_head hf hp hs) _, ?_⟩
  dsimp only
  rw [failAts_eq]
  simp [State.modAts, hs, isFor_own hf hp, isFor_own hbf hbp, AtsReq.refusals, hw, hf, hp, ha, hb, hn]
end
end Sys2Proof.Machine
end

section
/-! The events of the memory system (R49, R63, R65 to R70, R86, R91 to R97, R103 to R106, R141, R169 to R177, R184, R325). -/
namespace Sys2Proof.Machine
open Sys2Proof.Claims

/-! ## What arrives at its home -/

section
variable {s : State} {i : Nat} {p : Posted} (h : firstOnCircuit s i p)
include h

theorem homeWrite_outdated (ho : s.outdated p = true) (hf : ∀ a, p.what ≠ .fence a) (hd : ∀ d l k sums back, p.what ≠ .drain d l k sums back) :
    happens (.homeWrite i) s (without s i p) :=
  (homeWrite_arrives h hf hd).trans (congrArg Host.Outcome.next (if_pos ho))

variable (ho : s.outdated p = false)
include ho

theorem homeWrite_bytes {cs : List (Nat × Byte)} {own : Option WinLine} {op : Option Nat} (e : p.what = .write cs own op ∧ p.dst < 8 ∨
      p.what = .bounded cs own op ∧ ∀ c ∈ cs, kvGet (lineOf c.1) s.ms.grants = none) (hp : s.ms.poison = []) (hn : (cs.map (·.1)).Nodup) :
    ∃ t, happens (.homeWrite i) s t ∧ t.ms.posted = s.ms.posted.eraseIdx i ∧ (∀ c ∈ cs, t.byte c.1 = c.2) ∧
      ∀ pa ∉ cs.map (·.1), t.byte pa = s.byte pa := by
  refine ⟨(without s i p).writeHomes cs own (linesOf cs), ?_, (writeHomes_flight (without s i p) cs own _).posted, writeHomes_bytes (s := without s i p) hp hn own⟩
  obtain ⟨e, hdst⟩ | ⟨e, hg⟩ := e
  · exact homeWrite_write h ho e hdst
  · exact homeWrite_bounded h ho e hg
theorem homeWrite_red {r : AtomRow} (hr : r ∈ redRows) {w64 : Bool} {pa : Nat} {x : Dword} {rel : Option RelRec} (e : p.what = .red r.code w64 pa x rel)
    (ha : pa % (atomWidth w64 / 8) = 0) (hp : s.ms.poison.contains (lineOf pa) = false) :
    ∃ t, happens (.homeWrite i) s t ∧ changesElement r w64 pa x 0 s t ∧ ∀ c, rel = some c → c ∈ (t.copyOf (homeOf s pa) (lineOf pa)).recs := by
  refine ⟨_, homeWrite_performs h ho (by simp [e]) (by simp [e]), ?_⟩
  rw [State.performPosted, e]
  exact redAt_changes (s := without s i p) hr x rel ha hp _
theorem homeWrite_adds {l a : Nat} {k : BKind} {x : Word} (e : p.what = .add l a k x) (he : (a + 1) * k.bytes ≤ 128)
    (hp : s.ms.poison.contains l = false) : ∃ t, happens (.homeWrite i) s t ∧ addsTo k l a x s t := by
  refine ⟨_, homeWrite_performs h ho (by simp [e]) (by simp [e]), ?_⟩
  rw [State.performPosted, e]
  exact addition_addsTo (s := without s i p) x he hp _
end
theorem applySums_addsTo {s : State} {i l e : Nat} {p : Posted} {k : BKind} {x : Word} {sums : KV Word} (hs : sums = [(e, x)])
    (he : (e + 1) * k.bytes ≤ 128) (hp : s.ms.poison.contains l = false) : addsTo k l e x s ((without s i p).applySums l k sums) := by
  rw [hs, applySums_one (without s i p) l k e x hp]
  exact addition_addsTo (s := without s i p) x he hp _

/-! ## The end of a walk, and the start of an invalidation -/

theorem pageWalkComplete_serves {s : State} {i : Nat} {w : Walk} (h : s.ms.walks[i]? = some w)
    (hb : ((s.ms.walks.take i).filter fun x => x.die == w.die).length < 32) :
    let r := ({ s with cur := w.cur } : State).walkOf w
    ∃ t, happens (.pageWalkComplete i) s t ∧ w ∉ t.ms.walks ∧
      (r.2.1 = .absent → t = w.waiters.foldl (fun u x =>
        u.addFresh x.agent (.fail (if x.need.x then 0x0C else 0x08) (BitVec.ofNat 64 x.va))) r.1) ∧
      (∀ l pa x, r.2.1 = .leaf l pa → w.waiters = [x] →
        let p := if r.1.grants? l (w.page * 2 ^ 14) x.need then r.1.setAD w.die l pa x.need else (r.1, l)
        t = (if x.need.none = true ∧ p.2.a = false then p.1 else p.1.tlbInstall x.unit p.2).addFresh x.agent (.leaf p.2 r.2.2)) := by
  intro r
  refine ⟨_, pageWalkComplete_ends h hb, not_mem_endWalk _ w, fun hr => ?_, fun l pa x hr hx => ?_⟩
  · rw [endWalk_eq, show (State.walkOf _ w).2.1 = _ from hr, serves_absent]
  · rw [endWalk_eq, show (State.walkOf _ w).2.1 = _ from hr, hx]
    exact serve_leaf _ _ _ _ _ _ _
theorem xlatEvents_start {s : State} {v : BitVec 32} {c : Nat × (BitVec 32 → Instr)} (hc : c ∈ xlatEvents) (hk : (v.extractLsb' 0 3).toNat = c.1)
    (hi : s.mg.inval = none) (hn : s.mg.xlatVa.toNat / 2 ^ 14 % 2 ^ (v.extractLsb' 3 5).toNat = 0) :
    ∃ t q, happens (c.2 v) s t ∧ t.mg.inval = some q ∧ q.kind = c.1 ∧ q.ctx = (v.extractLsb' 8 16).toNat ∧ q.rgx = (v.extractLsb' 24 6).toNat ∧
      q.pages = 2 ^ (v.extractLsb' 3 5).toNat ∧ t.mg.xlatCmd = v &&& 0x3FFFFFFF ∧
      (c.1 ≠ 4 → t.ms.tlb = (s.ms.tlb.filter fun x => !q.takes x.what) ∧ t.ms.walks = s.ms.walks.map fun w => { w with restart := true }) := by
  have hkind : cmdKind v = c.1 := cmdKind_eq.trans hk
  obtain ⟨hinval, hcmd⟩ := startInval_sameCmd s v
  refine ⟨_, _, xlatEvents_starts hc hkind hi (cmdSpan_eq.symm ▸ hn), hinval, hkind, bits_toNat v 23 8 16 rfl, bits_toNat v 29 24 6 rfl,
    cmdSpan_eq, hcmd, fun h4 => ?_⟩
  rw [startInval_noCode (hkind.symm ▸ h4), takes_waits]
  exact ⟨rfl, rfl⟩

/-- Settles O49: it holds, event by event. What no event of a clause touches is read off the relations that the operations below keep
(`Traffic`, `Flushing`, `Walking`, `Fetching`). -/
theorem memoryEvents : Obligations.MemoryEvents := by
  unfold Obligations.MemoryEvents
  refine ⟨fun s i p h hw => ⟨homeWrite_waits (arrived_waits h hw), drainApplied_waits (arrived_waits h hw)⟩,
    fun s i p h ho => ⟨homeWrite_outdated h ho, fun d l k sums back e => drainApplied_outdated h e ho⟩,
    fun s i p cs own op h ho e hdst hp hn => homeWrite_bytes h ho (.inl ⟨e, hdst⟩) hp hn,
    fun s i p cs own op h ho e hp hn hg => homeWrite_bytes h ho (.inr ⟨e, hg⟩) hp hn,
    fun s i p cs own op h ho e hdst => homeWrite_leaves h ho e hdst,
    fun r hr s i p w64 pa x rel h ho e ha hp _ => homeWrite_red h ho hr e ha hp,
    fun s i p l e k x h ho hw he hp => homeWrite_adds h ho hw he hp,
    fun s i p d l k sums h ho e => ⟨drainApplied_applies h ho e, fun a x hs he hp => applySums_addsTo hs he hp⟩,
    fun s c h n hs => sendAllowanceGrant_adds hs h n,
    fun s d l hd => ⟨coherenceRequest_own s hd l, fun hs hp => coherenceRequest_held hd hs hp,
      fun hs hr => ⟨_, coherenceRequest_share s hd l .clean, copyOf_share_first hd hs hr, (Passes.traffic.share s d l).mem⟩,
      coherenceRequest_corrected s hd l, coherenceRequest_uncorrectable hd⟩,
    fun s d l => ⟨fun hi hne hh => lineEviction_invalid hi hh (.inl hne), fun hh => ⟨_, lineEviction_drains hh⟩,
      fun hi hh hr => ⟨s, lineEviction_invalid hi hh (.inr hr), rfl⟩, lineEviction_valid⟩,
    directoryEntryEviction_recalls, directoryError_recalls, fun s c hc => coreRejoin hc, fun s d hd => dieRejoin hd,
    fun s i o hi hf h0 hz => holderOffer_asks hi hf h0 hz,
    fun s o ho h5 hp hl hd hpa => ⟨holderOffer_poisoned ho h5 hp hl hd, fun hc _ => holderOffer_reads ho h5 hp hl hd hpa hc⟩,
    fun s o ho hs => grantRequest_grants ho hs, forcedDrain_empties, fun s v => ⟨fun hb => if_pos hb, fun hb hv => ?_, bvdrainWrite_starts⟩,
    fun s b hb hg => boundedRead_reads hb hg, fun s l h => grantRecordEviction_noGrant h, grantRecordEviction_removes,
    fun s i => ⟨pageWalkComplete_none, fun w h => ⟨pageWalkComplete_waits h, pageWalkComplete_serves h⟩⟩,
    fun s v c hc hk => ⟨fun hi => ?_, fun hi h1 hn => ?_, xlatEvents_start hc hk⟩,
    fun s c hi => ⟨xlatInvalidationDone_ends hi, fun hw => xlatInvalidationDone_waits hi (.inl hw), fun hl => xlatInvalidationDone_waits hi (.inr hl)⟩,
    fun s fn page a hs hf hp => ⟨fun _ pa => atsCompletion_granted hf hp hs pa, fun w hw => atsCompletion_denied hf hp hs hw,
      fun w hw hu => atsCompletion_noPage hf hp hs hw hu, atsCompletion_asksPage hf hp hs, fun t _ => priResponse_asksAgain hf hp hs, rfl,
      fun t w ht hw hc => priTimeout_fails hf hp hs ht hw hc, fun t ht hc => priTimeout_waits hs ht hc⟩,
    fun s fn page a b w hs hf hp hbf hbp ha hb hn hw => atsCompletion_both hf hp hs hbf hbp ha hb hn hw,
    fun s fn base span => ⟨fun h => atsInvalidation_waits (.inr h), fun h => atsInvalidation_waits (.inl h), atsInvalidation_ends⟩⟩
  · exact (bvdrainWrite_idle v hb).trans (congrArg Host.Outcome.next (if_pos hv))
  · exact xlatEvents_refused hc (cmdKind_eq.trans hk) (.inl hi)
  · exact xlatEvents_refused hc (cmdKind_eq.trans hk) (.inr ⟨h1, cmdSpan_eq.symm ▸ hn⟩)
end Sys2Proof.Machine
end

section
/-! Where a store's bytes go (R79, R80, R103, R112): into the first-level cache, to the die's copy of their lines, or into the
scratchpad. Each place takes its cells one after another, so one fact about such a fold serves all three. -/
namespace Sys2Proof.Machine
open Sys2Proof.Claims

/-! ## Cells taken one after another -/

/-- A fold over a list that holds c ends where c brings it, if no element leads away from there. -/
theorem foldl_reaches {α β : Type} {Q P : β → Prop} {f : β → α → β} {c : α} {cs : List α} (hc : c ∈ cs)
    (stays : ∀ m, Q m → ∀ x ∈ cs, Q (f m x)) (put : ∀ m, Q m → P (f m c)) (keep : ∀ m, Q m → P m → ∀ x ∈ cs, P (f m x))
    {m : β} (hm : Q m) : P (cs.foldl f m) := by
  obtain ⟨a, b, rfl⟩ := List.append_of_mem hc
  rw [List.foldl_append, List.foldl_cons]
  have ha : Q (a.foldl f m) := List.foldlRecOn a f hm fun n hn x hx => stays n hn x (List.mem_append_left _ hx)
  refine (List.foldlRecOn (motive := fun n => Q n ∧ P n) b f ⟨stays _ ha c hc, put _ ha⟩ fun n hn x hx => ?_).2
  have hx : x ∈ a ++ c :: b := List.mem_append_right _ (.tail _ hx)
  exact ⟨stays n hn.1 x hx, keep n hn.1 hn.2 x hx⟩

/-- Cells of different addresses: what is at the address of one of them is what that cell brings there, and elsewhere it is what
was there. `get` reads a map, `put` takes a cell into it. -/
theorem foldl_cells {μ β : Type} {get : μ → Nat → β} {put : μ → Nat × Byte → μ} {good : Nat × Byte → β → Prop}
    (same : ∀ m c, good c (get (put m c) c.1)) (other : ∀ m c k, k ≠ c.1 → get (put m c) k = get m k)
    {cs : List (Nat × Byte)} (hcs : (cs.map (·.1)).Nodup) (m : μ) :
    (∀ c ∈ cs, good c (get (cs.foldl put m) c.1)) ∧ ∀ k ∉ cs.map (·.1), get (cs.foldl put m) k = get m k := by
  refine ⟨fun c hc => ?_, fun k hk => ?_⟩
  · refine foldl_reaches (Q := fun _ => True) (P := fun m => good c (get m c.1)) hc (fun _ _ _ _ => trivial) (fun m _ => same m c)
      (fun m _ hm x hx => ?_) trivial
    by_cases h : c.1 = x.1
    · rw [List.inj_on_of_nodup_map hcs hc hx h]; exact same m x
    · rw [other m x c.1 h]; exact hm
  · refine List.foldlRecOn (motive := fun n => get n k = get m k) cs put rfl fun n hn c hc => ?_
    rw [other n c k fun h => hk (h ▸ List.mem_map_of_mem hc), hn]

/-! ## The first-level cache -/

theorem l1_tagLines (s : State) (core rgx : Nat) (keep : Bool) (ls : List Nat) :
    (ls.foldl (fun s l => s.tagLine core l rgx keep) s).ms.l1 = s.ms.l1 :=
  List.foldlRecOn (motive := fun t : State => t.ms.l1 = s.ms.l1) ls _ rfl fun _ h _ _ => h
theorem mem_tagLines (s : State) (core rgx : Nat) (keep : Bool) (ls : List Nat) :
    (ls.foldl (fun s l => s.tagLine core l rgx keep) s).ms.mem = s.ms.mem :=
  List.foldlRecOn (motive := fun t : State => t.ms.mem = s.ms.mem) ls _ rfl fun _ h _ _ => h

theorem mem_l1Store (s : State) (core rgx : Nat) (keep : Bool) (cs : List (Nat × Byte)) :
    (s.l1Store core rgx keep cs).ms.mem = s.ms.mem := mem_tagLines s core rgx keep _

/-- A store in the first-level cache leaves its bytes there as dirty ones, and every other byte as it was. -/
theorem l1At_l1Store (s : State) (core rgx : Nat) (keep : Bool) {cs : List (Nat × Byte)} (hcs : (cs.map (·.1)).Nodup) :
    (∀ c ∈ cs, ∃ b, (s.l1Store core rgx keep cs).l1At core c.1 = some b ∧ b.val = c.2 ∧ b.dirty = true) ∧
    ∀ pa ∉ cs.map (·.1), (s.l1Store core rgx keep cs).l1At core pa = s.l1At core pa := by
  unfold State.l1Store
  extract_lets t
  have ht : t.ms.l1 = s.ms.l1 := l1_tagLines s core rgx keep _
  simp only [State.l1At, ← ht]
  refine foldl_cells (get := fun m pa => kvGet (l1key core pa) m) (good := fun c x => ∃ b, x = some b ∧ b.val = c.2 ∧ b.dirty = true)
    (fun m c => ?_) (fun m c k hk => ?_) hcs t.ms.l1
  · exact ⟨_, kvGet_kvSet_same _ _ _, rfl, rfl⟩
  · exact kvGet_kvSet_other (by simp only [l1key]; omega) _ _

/-- An unbounded store to memory of a fibre that no release is pending for, on a core that is not being flushed, is performed in
the core's first-level cache (R79, R85). -/
theorem performStore_l1 {s : State} {f : Nat} {o : StoreOp} {rgx hint : Nat} (hg : o.goal = .global rgx hint false)
    (hl : o.lim.toNat % 2 ^ 31 = 0) (hr : s.relRec f = none) (hf : (partOf s (coreOf f)).flush = false) :
    s.performStore f o = s.l1Store (coreOf f) rgx (hint == 2) o.cells := by
  rw [State.performStore, hg]
  simp only [hl, hr, hf]
  rfl

/-! ## The die's copy -/

/-- A line whose cells meet poison that they do not clear is not written. -/
theorem writeLine_poisoned {s : State} {l : Nat} {cs : List (Nat × Byte)} {cl : Bool} (h : s.ms.poison.contains l = true)
    (hc : cl = false) (d : Nat) (but : Option WinLine) : s.writeLine d l cs cl but = s.logLine 2 l := by
  unfold State.writeLine
  extract_lets mine
  rw [if_pos (by simpa [hc] using h)]

/-- A write of a line either meets poison and changes no memory, or stores the line's cells and clears its poison. -/
theorem writeLine_cases (s : State) (d l : Nat) (cs : List (Nat × Byte)) (cl : Bool) (but : Option WinLine) :
    s.ms.poison.contains l = true ∧ s.writeLine d l cs cl but = s.logLine 2 l ∨
    (s.writeLine d l cs cl but).ms.mem = memPuts s.ms.mem (cs.filter fun c => lineOf c.1 == l) ∧
      (s.writeLine d l cs cl but).ms.poison = s.ms.poison.filter (· != l) := by
  unfold State.writeLine
  extract_lets mine u v ms w
  split
  next h => exact .inl ⟨(Bool.and_eq_true_iff.1 h).1, rfl⟩
  next =>
    have hu : SameMem s u := SameMem.traffic.own s d l but
    have hw := SameMem.traffic.staleWins w (w.copyOf d l).win (fun b => mine.any fun c => c.1 == l * 128 + b) but
    refine .inr ⟨hw.mem.trans ?_, hw.poison.trans ?_⟩
    · rw [show w.ms.mem = memPuts u.ms.mem mine from rfl, hu.mem]
    · rw [show w.ms.poison = u.ms.poison.filter (· != l) from rfl, hu.poison]

section
variable {s : State} (d l : Nat) (cs : List (Nat × Byte)) (cl : Bool) (but : Option WinLine)

/-- A write of a line changes no byte that none of its cells names. -/
theorem byte_writeLine_other {pa : Nat} (h : ∀ c ∈ cs, lineOf c.1 = l → c.1 ≠ pa) : (s.writeLine d l cs cl but).byte pa = s.byte pa := by
  obtain ⟨-, hw⟩ | ⟨hm, -⟩ := writeLine_cases s d l cs cl but
  · rw [hw]; rfl
  · rw [State.byte, hm]
    refine memGet_memPuts_other _ _ _ fun c hc => ?_
    obtain ⟨hc, hl⟩ := List.mem_filter.1 hc
    exact h c hc (beq_iff_eq.1 hl)

/-- A write poisons nothing. -/
theorem poison_writeLine_clean {k : Nat} (h : s.ms.poison.contains k = false) : (s.writeLine d l cs cl but).ms.poison.contains k = false := by
  obtain ⟨-, hw⟩ | ⟨-, hp⟩ := writeLine_cases s d l cs cl but
  · rw [hw]; exact h
  · rw [hp]; simp_all

/-- What does not clear poison leaves all of it. -/
theorem poison_writeLine_kept {k : Nat} (h : s.ms.poison.contains k = true) : (s.writeLine d l cs false but).ms.poison.contains k = true := by
  obtain ⟨-, hw⟩ | ⟨-, hp⟩ := writeLine_cases s d l cs false but
  · rw [hw]; exact h
  · by_cases e : k = l
    · rw [writeLine_poisoned (e ▸ h) rfl]; exact h
    · rw [hp]; simp_all

/-- A byte of a line without poison takes what its cell writes. -/
theorem byte_writeLine_same {c : Nat × Byte} (hcs : (cs.map (·.1)).Nodup) (hc : c ∈ cs) (hp : s.ms.poison.contains (lineOf c.1) = false) :
    (s.writeLine d (lineOf c.1) cs cl but).byte c.1 = c.2 := by
  obtain ⟨h, -⟩ | ⟨hm, -⟩ := writeLine_cases s d (lineOf c.1) cs cl but
  · rw [hp] at h; cases h
  · rw [State.byte, hm]
    refine memGet_memPuts_eq _ _ (fun x hx hxc => ?_) (.inr ⟨c, by simp [hc], rfl⟩)
    rw [List.inj_on_of_nodup_map hcs (List.mem_of_mem_filter hx) hc hxc]
end

section
variable (s : State) (d : Nat) {cs : List (Nat × Byte)} (cl : Bool) (but : Option WinLine)

/-- A write at the die's copy changes no byte but its own. -/
theorem byte_writeAt_other {pa : Nat} (h : pa ∉ cs.map (·.1)) : (s.writeAt d cs cl but).byte pa = s.byte pa :=
  List.foldlRecOn (motive := fun t : State => t.byte pa = s.byte pa) _ _ rfl fun _ ht l _ =>
    (byte_writeLine_other d l cs cl but fun c hc _ e => h (List.mem_map.2 ⟨c, hc, e⟩)).trans ht

/-- A write that does not clear poison changes nothing in a poisoned line. -/
theorem byte_writeAt_poisoned {pa : Nat} (h : s.ms.poison.contains (lineOf pa) = true) : (s.writeAt d cs false but).byte pa = s.byte pa := by
  refine (List.foldlRecOn (motive := fun t : State => t.ms.poison.contains (lineOf pa) = true ∧ t.byte pa = s.byte pa) _ _ ⟨h, rfl⟩
    fun t ⟨hp, hb⟩ l _ => ⟨poison_writeLine_kept d l cs but hp, ?_⟩).2
  by_cases e : lineOf pa = l
  · subst e
    rw [writeLine_poisoned hp rfl]
    exact hb
  · exact (byte_writeLine_other d l cs false but fun c _ hl hpa => e ((congrArg lineOf hpa).symm.trans hl)).trans hb

/-- A byte of a line without poison takes what its cell writes. -/
theorem byte_writeAt_same (hcs : (cs.map (·.1)).Nodup) {c : Nat × Byte} (hc : c ∈ cs) (h : s.ms.poison.contains (lineOf c.1) = false) :
    (s.writeAt d cs cl but).byte c.1 = c.2 := by
  have hl : lineOf c.1 ∈ linesOf cs := List.mem_eraseDups.2 (List.mem_map_of_mem (f := fun c => lineOf c.1) hc)
  refine foldl_reaches (Q := fun t : State => t.ms.poison.contains (lineOf c.1) = false) (P := fun t => t.byte c.1 = c.2) hl
    (fun t ht l _ => poison_writeLine_clean d l cs cl but ht) (fun t ht => byte_writeLine_same d cs cl but hcs hc ht)
    (fun t ht hb l _ => ?_) h
  by_cases e : l = lineOf c.1
  · rw [e]; exact byte_writeLine_same d cs cl but hcs hc ht
  · exact (byte_writeLine_other d l cs cl but fun x _ hx hpa => e (hx.symm.trans (congrArg lineOf hpa))).trans hb
end

/-! ## The scratchpad -/

/-- The scratchpad and memory stay as they are. -/
def SameBytes (s t : State) : Prop := t.ms.sp = s.ms.sp ∧ t.ms.mem = s.ms.mem

theorem SameBytes.trans {s t u : State} (h : SameBytes s t) (k : SameBytes t u) : SameBytes s u := ⟨k.1.trans h.1, k.2.trans h.2⟩
theorem SameBytes.enterWin (s : State) (d l g a : Nat) : SameBytes s (s.enterWin d l g a) := by
  have h : Passes s (s.enterWin d l g a) :=
    Passes.traffic.trans (Passes.traffic.share s d l) (either (Passes.traffic.refl _) (Passes.traffic.setCopy _ d l _))
  exact ⟨by rw [h.ms], h.mem⟩
theorem SameBytes.markWord (s : State) (g w m : Nat) : SameBytes s (s.markWord g w m) := by
  unfold State.markWord
  split
  · exact ⟨rfl, rfl⟩
  split
  · exact ⟨rfl, rfl⟩
  extract_lets x bm t
  have ht : SameBytes s t := by
    unfold t
    split
    · exact .enterWin s _ _ _ _
    · exact ⟨rfl, rfl⟩
  exact either (ht.trans ⟨rfl, rfl⟩) ⟨rfl, rfl⟩

/-- A write of an allocation changes its own bytes and marks the words of windows, which changes no byte. -/
theorem SameBytes.scratchWrite {s : State} {g : Nat} {ga : Gather} (h : s.gather? g = some ga) (cs : List (Nat × Byte)) :
    SameBytes (s.setSp ga.core (cs.map fun c => (ga.spBase + c.1, c.2))) (s.scratchWrite g cs) := by
  unfold State.scratchWrite
  rw [h]
  exact folded (R := SameBytes) (fun _ => ⟨rfl, rfl⟩) SameBytes.trans (fun (s : State) (w : Nat × Nat) => s.markWord g w.1 w.2)
    (fun s _ => .markWord s g _ _) _ _

theorem spByte_setSp (s : State) (core base : Nat) {cs : List (Nat × Byte)} (hcs : (cs.map (·.1)).Nodup) :
    (∀ c ∈ cs, (s.setSp core (cs.map fun c => (base + c.1, c.2))).spByte core (base + c.1) = c.2) ∧
    ∀ k ∉ cs.map (·.1), (s.setSp core (cs.map fun c => (base + c.1, c.2))).spByte core (base + k) = s.spByte core (base + k) := by
  simp only [State.spByte, State.setSp, List.foldl_map]
  refine foldl_cells (get := fun m k => kvGetD (spKey core (base + k)) 0 m) (good := fun c x => x = c.2)
    (fun m c => ?_) (fun m c k hk => ?_) hcs s.ms.sp
  · exact kvGetD_kvSetD_same _ _ _ _
  · exact kvGetD_kvSetD_other (by simp only [spKey]; omega) _ _ _

theorem SameBytes.spByte {s t : State} (h : SameBytes s t) (c k : Nat) : t.spByte c k = s.spByte c k := by
  rw [State.spByte, h.1, State.spByte]

/-- Settles O36: the cells reach their place one after another, and nothing else is written there. -/
theorem storesReachTheirPlace : Obligations.StoresReachTheirPlace := by
  refine ⟨fun s f o rgx hint hg hl hr hf hcs => ?_, fun s d cs cl but hcs => ?_, fun s g ga cs hg hcs => ?_⟩
  · rw [performStore_l1 hg hl hr hf]
    obtain ⟨hown, hother⟩ := l1At_l1Store s (coreOf f) rgx (hint == 2) hcs
    exact ⟨hown, hother, mem_l1Store s _ _ _ _⟩
  · exact ⟨fun c hc h => byte_writeAt_same s d cl but hcs hc h, fun c _ hcl h => hcl ▸ byte_writeAt_poisoned s d but h,
      fun pa h => byte_writeAt_other s d cl but h⟩
  · have h := SameBytes.scratchWrite hg cs
    obtain ⟨hown, hother⟩ := spByte_setSp s ga.core ga.spBase hcs
    exact ⟨fun c hc => (h.spByte _ _).trans (hown c hc), fun k hk => (h.spByte _ _).trans (hother k hk), h.2⟩

end Sys2Proof.Machine
end

section
/-! Physical memory keeps its canonical form (log entry 1). `MemoryCanonical` is kept by every operation of the model: a lemma for each of
them, named after it, says so of the state that it answers, and `NextCanonical` says it of an answer that may be no state. The proofs
follow the operations' definitions, each step of which is another operation. -/
namespace Sys2Proof.Safety
open Sys2Proof.Machine

/-- What a move answers, if it answers a next state, has its memory in canonical form. -/
def NextCanonical : Result → Prop
  | .next t => MemoryCanonical t
  | _ => True

theorem NextCanonical.next {r : Result} {t : State} (h : NextCanonical r) (e : r = .next t) : MemoryCanonical t := by
  subst e
  exact h

theorem NextCanonical.either {r x : Result} {c : Prop} [Decidable c] (h : NextCanonical r) (k : NextCanonical x) :
    NextCanonical (if c then r else x) := by
  split <;> assumption

namespace MemoryCanonical
variable {s t u : State} {α β : Type}

/-- A change of what is not the memory system. -/
theorem update (h : MemoryCanonical s) {fab mat disp mg clock free serial focus cur agenda} :
    MemoryCanonical ⟨s.ms, fab, mat, disp, mg, clock, free, serial, focus, cur, agenda⟩ := h

/-- A change of what is not physical memory. -/
theorem updateMs (h : MemoryCanonical s) {poison tier l1 l1tag l2 misses missq tlb walks fresh atc ats atsUsed posted allow fences drains
    holders grants offers breads sp tm fills copies stores inc out hold fab mat disp mg clock free serial focus cur agenda} :
    MemoryCanonical ⟨⟨s.ms.mem, poison, tier, l1, l1tag, l2, misses, missq, tlb, walks, fresh, atc, ats, atsUsed, posted, allow, fences, drains,
      holders, grants, offers, breads, sp, tm, fills, copies, stores, inc, out, hold⟩, fab, mat, disp, mg, clock, free, serial, focus, cur,
      agenda⟩ := h

/-- The state of an answer. -/
theorem answered {p : State × α} {a : α} (h : MemoryCanonical p.1) (e : p = (t, a)) : MemoryCanonical t := by
  subst e
  exact h

theorem either {c : Prop} [Decidable c] (h : MemoryCanonical t) (k : MemoryCanonical u) : MemoryCanonical (if c then t else u) := by
  split <;> assumption

theorem eitherFst {c : Prop} [Decidable c] {p q : State × α} (h : MemoryCanonical p.1) (k : MemoryCanonical q.1) :
    MemoryCanonical (if c then p else q).1 := by
  split <;> assumption

theorem foldl {f : State → α → State} (h : MemoryCanonical s) (k : ∀ s a, MemoryCanonical s → MemoryCanonical (f s a)) {l : List α} :
    MemoryCanonical (l.foldl f s) := by
  induction l generalizing s with
  | nil => exact h
  | cons a r ih => exact ih (k s a h)

/-- A fold that carries more than the state. -/
theorem foldlFst {f : State × β → α → State × β} {p : State × β} (h : MemoryCanonical p.1)
    (k : ∀ p a, MemoryCanonical p.1 → MemoryCanonical (f p a).1) {l : List α} : MemoryCanonical (l.foldl f p).1 := by
  induction l generalizing p with
  | nil => exact h
  | cons a r ih => exact ih (k p a h)

end MemoryCanonical
end Sys2Proof.Safety
end

section
/-! What the memory system's operations keep (R43 to R63, R71, R79 to R93, R100 to R107, R111, R116, R117): only the write of a line
changes physical memory, and that in its canonical form. -/
namespace Sys2Proof.Safety
open Sys2Proof.Machine
variable {s : State}

theorem MemoryCanonical.setGather (h : MemoryCanonical s) {g x} : MemoryCanonical (s.setGather g x) := h.update
theorem MemoryCanonical.modGather (h : MemoryCanonical s) {g fn} : MemoryCanonical (s.modGather g fn) := h.update
theorem MemoryCanonical.setL1 (h : MemoryCanonical s) {m} : MemoryCanonical (s.setL1 m) := (Quiet.setL1 ..).canon h
theorem MemoryCanonical.count (h : MemoryCanonical s) {unit ctx k} : MemoryCanonical (s.count unit ctx k) := (Quiet.count ..).canon h
theorem MemoryCanonical.logEvent (h : MemoryCanonical s) {kind die unit inc} :
    MemoryCanonical (s.logEvent kind die unit inc) := (Quiet.logEvent ..).canon h
theorem MemoryCanonical.logLine (h : MemoryCanonical s) {kind line} : MemoryCanonical (s.logLine kind line) := h.logEvent
theorem MemoryCanonical.staleWins (h : MemoryCanonical s) {ws hit but} :
    MemoryCanonical (s.staleWins ws hit but) := (Quiet.staleWins ..).canon h
theorem MemoryCanonical.setAllowance (h : MemoryCanonical s) {circ hop n} :
    MemoryCanonical (s.setAllowance circ hop n) := (Quiet.setAllowance ..).canon h
theorem MemoryCanonical.spend (h : MemoryCanonical s) {circ hops} : MemoryCanonical (s.spend circ hops) := (Quiet.spend ..).canon h
theorem MemoryCanonical.holdBack (h : MemoryCanonical s) : MemoryCanonical (s.holdBack) := (Quiet.holdBack ..).canon h
theorem MemoryCanonical.attempt (h : MemoryCanonical s) {m} (hm : ∀ s, MemoryCanonical s → MemoryCanonical (m s)) :
    MemoryCanonical (s.attempt m) := .either h (.either h (hm s h))
theorem MemoryCanonical.orWait {α : Type} (h : MemoryCanonical s) {w : α} {r : State × α} (hr : MemoryCanonical r.1) :
    MemoryCanonical (s.orWait w r).1 := by
  unfold State.orWait
  split
  · exact h
  · exact hr
theorem MemoryCanonical.asAgent (h : MemoryCanonical s) {a m} (hm : ∀ s, MemoryCanonical s → MemoryCanonical (m s)) :
    MemoryCanonical (s.asAgent a m) := hm { s with cur := a } h
theorem MemoryCanonical.sendOn (h : MemoryCanonical s) {set src dst cls} :
    MemoryCanonical (s.sendOn set src dst cls) := (Quiet.sendOn ..).canon h
theorem MemoryCanonical.send (h : MemoryCanonical s) {src dst cls} : MemoryCanonical (s.send src dst cls) := (Quiet.send ..).canon h
theorem MemoryCanonical.visit (h : MemoryCanonical s) {die line} : MemoryCanonical (s.visit die line) := (Quiet.visit ..).canon h
theorem MemoryCanonical.sendTierBack (h : MemoryCanonical s) {line} : MemoryCanonical (s.sendTierBack line) := .either h h.send
theorem MemoryCanonical.setCopy (h : MemoryCanonical s) {die line c} : MemoryCanonical (s.setCopy die line c) := (Quiet.setCopy ..).canon h
theorem MemoryCanonical.own (h : MemoryCanonical s) {die line but} : MemoryCanonical (s.own die line but) := (Quiet.own ..).canon h
theorem MemoryCanonical.share (h : MemoryCanonical s) {die line} : MemoryCanonical (s.share die line) := (Quiet.share ..).canon h
theorem MemoryCanonical.writeLine (h : MemoryCanonical s) {die line cs clears but} :
    MemoryCanonical (s.writeLine die line cs clears but) := (Quiet.writeLine ..).canon h
theorem MemoryCanonical.writeAt (h : MemoryCanonical s) {die cs clears but} :
    MemoryCanonical (s.writeAt die cs clears but) := (Quiet.writeAt ..).canon h
theorem MemoryCanonical.writebackSome (h : MemoryCanonical s) {core keep} :
    MemoryCanonical (s.writebackSome core keep) := (Quiet.writebackSome ..).canon h
theorem MemoryCanonical.drainSome (h : MemoryCanonical s) {core rgx} :
    MemoryCanonical (s.drainSome core rgx) := (Quiet.drainSome ..).canon h
theorem MemoryCanonical.dropClean (h : MemoryCanonical s) {core keep} :
    MemoryCanonical (s.dropClean core keep) := (Quiet.dropClean ..).canon h
theorem MemoryCanonical.acquireDrops (h : MemoryCanonical s) {core fs rgx} :
    MemoryCanonical (s.acquireDrops core fs rgx) := (Quiet.acquireDrops ..).canon h
theorem MemoryCanonical.acquireDrop (h : MemoryCanonical s) {f rgx} :
    MemoryCanonical (s.acquireDrop f rgx) := (Quiet.acquireDrop ..).canon h
theorem MemoryCanonical.l1Update (h : MemoryCanonical s) {core cs} : MemoryCanonical (s.l1Update core cs) := (Quiet.l1Update ..).canon h
theorem MemoryCanonical.l1Drop (h : MemoryCanonical s) {core pas} : MemoryCanonical (s.l1Drop core pas) := (Quiet.l1Drop ..).canon h
theorem MemoryCanonical.flushLines (h : MemoryCanonical s) {core pas} :
    MemoryCanonical (s.flushLines core pas) := (Quiet.flushLines ..).canon h
theorem MemoryCanonical.l1Store (h : MemoryCanonical s) {core rgx keep cs} :
    MemoryCanonical (s.l1Store core rgx keep cs) := (Quiet.l1Store ..).canon h
theorem MemoryCanonical.l1Fill (h : MemoryCanonical s) {core line rgx} :
    MemoryCanonical (s.l1Fill core line rgx) := (Quiet.l1Fill ..).canon h
theorem MemoryCanonical.sendDrain (h : MemoryCanonical s) {die core} :
    MemoryCanonical (s.sendDrain die core) := (Quiet.sendDrain ..).canon h
theorem MemoryCanonical.attach (h : MemoryCanonical s) {die line r} : MemoryCanonical (s.attach die line r) := (Quiet.attach ..).canon h
theorem MemoryCanonical.dropRec (h : MemoryCanonical s) {die line r} : MemoryCanonical (s.dropRec die line r) := (Quiet.dropRec ..).canon h
theorem MemoryCanonical.drainRec (h : MemoryCanonical s) {die line r} :
    MemoryCanonical (s.drainRec die line r) := (Quiet.drainRec ..).canon h
theorem MemoryCanonical.drainRecs (h : MemoryCanonical s) {die line} :
    MemoryCanonical (s.drainRecs die line) := (Quiet.drainRecs ..).canon h
theorem MemoryCanonical.setHolder (h : MemoryCanonical s) {die line n} :
    MemoryCanonical (s.setHolder die line n) := (Quiet.setHolder ..).canon h
theorem MemoryCanonical.dropHolder (h : MemoryCanonical s) {die line} :
    MemoryCanonical (s.dropHolder die line) := (Quiet.dropHolder ..).canon h
theorem MemoryCanonical.applySums (h : MemoryCanonical s) {line k sums} :
    MemoryCanonical (s.applySums line k sums) := (Quiet.applySums ..).canon h
theorem MemoryCanonical.giveBack (h : MemoryCanonical s) {die line share} :
    MemoryCanonical (s.giveBack die line share) := (Quiet.giveBack ..).canon h
theorem MemoryCanonical.forceDrain (h : MemoryCanonical s) {die line} :
    MemoryCanonical (s.forceDrain die line) := (Quiet.forceDrain ..).canon h
theorem MemoryCanonical.askForced (h : MemoryCanonical s) {die line} :
    MemoryCanonical (s.askForced die line) := (Quiet.askForced ..).canon h
theorem MemoryCanonical.drainLine (h : MemoryCanonical s) {line} : MemoryCanonical (s.drainLine line) := (Quiet.drainLine ..).canon h
theorem MemoryCanonical.awaitDrains (h : MemoryCanonical s) {line} : MemoryCanonical (s.awaitDrains line) := (Quiet.awaitDrains ..).canon h
theorem MemoryCanonical.drainDie (h : MemoryCanonical s) {die} : MemoryCanonical (s.drainDie die) := (Quiet.drainDie ..).canon h
theorem MemoryCanonical.setSp (h : MemoryCanonical s) {core cs} : MemoryCanonical (s.setSp core cs) := (Quiet.setSp ..).canon h

theorem MemoryCanonical.addFresh (h : MemoryCanonical s) {agent x} : MemoryCanonical (s.addFresh agent x) := (Quiet.addFresh ..).canon h
theorem MemoryCanonical.clearFresh (h : MemoryCanonical s) {agent} : MemoryCanonical (s.clearFresh agent) := (Quiet.clearFresh ..).canon h
theorem MemoryCanonical.endWalk (h : MemoryCanonical s) {w} : MemoryCanonical (s.endWalk w) := (Quiet.endWalk ..).canon h
theorem MemoryCanonical.xlate (h : MemoryCanonical s) {u ctx va n ok} :
    MemoryCanonical (s.xlate u ctx va n ok).1 := (Quiet.xlate ..).canon h
theorem MemoryCanonical.xlateWait (h : MemoryCanonical s) {agent u ctx va n ok} :
    MemoryCanonical (s.xlateWait agent u ctx va n ok).1 := (Quiet.xlateWait ..).canon h

theorem MemoryCanonical.setFabric (h : MemoryCanonical s) {core f} : MemoryCanonical (s.setFabric core f) := (Quiet.setFabric ..).canon h
theorem MemoryCanonical.fetchBytes (h : MemoryCanonical s) {unit die ctx line} :
    MemoryCanonical (s.fetchBytes unit die ctx line).1 := (Quiet.fetchBytes ..).canon h
theorem MemoryCanonical.finishFill (h : MemoryCanonical s) {core x} :
    MemoryCanonical (s.finishFill core x).1 := (Quiet.finishFill ..).canon h
theorem MemoryCanonical.readHeader (h : MemoryCanonical s) {core ctx hdr} :
    MemoryCanonical (s.readHeader core ctx hdr).1 := (Quiet.readHeader ..).canon h
theorem MemoryCanonical.seqFetch (h : MemoryCanonical s) {cl ctx pc n} : MemoryCanonical (s.seqFetch cl ctx pc n).1 := by
  induction n generalizing s pc with
  | zero => exact h
  | succ n ih =>
    rw [State.seqFetch]
    split
    · exact h.fetchBytes.answered ‹_›
    · exact ih (h.fetchBytes.answered ‹_›)

end Sys2Proof.Safety
end

section
/-! What the named operations over fibres, slots, barriers, launches and sequencers keep, and the taking of an exception (R220, R347,
R409 to R414). -/
namespace Sys2Proof.Safety
open Sys2Proof.Machine
variable {s : State}

theorem MemoryCanonical.setInst (h : MemoryCanonical s) {f i} : MemoryCanonical (s.setInst f i) := h.update
theorem MemoryCanonical.setSeq (h : MemoryCanonical s) {cl q} : MemoryCanonical (s.setSeq cl q) := h.update
theorem MemoryCanonical.compute (h : MemoryCanonical s) {l ext d fn} : NextCanonical (compute l ext d fn s) := by
  unfold Machine.compute
  split
  · split
    · trivial
    · split
      · exact h
      · exact h.setInst
      · exact h.setInst
  · split
    · trivial
    · exact h.setSeq
  · trivial
theorem MemoryCanonical.compute1 (h : MemoryCanonical s) {d a fn} : NextCanonical (compute1 d a fn s) := h.compute
theorem MemoryCanonical.compute2 (h : MemoryCanonical s) {d a b fn} : NextCanonical (compute2 d a b fn s) := h.compute
theorem MemoryCanonical.compute3 (h : MemoryCanonical s) {d a b c fn} : NextCanonical (compute3 d a b c fn s) := h.compute
theorem MemoryCanonical.compute2x (h : MemoryCanonical s) {d a c fn} : NextCanonical (compute2x d a c fn s) := h.compute
theorem MemoryCanonical.compute0 (h : MemoryCanonical s) {d x} : NextCanonical (compute0 d x s) := h.compute

theorem MemoryCanonical.setFibre (h : MemoryCanonical s) {f x} : MemoryCanonical (s.setFibre f x) := h.update
theorem MemoryCanonical.modFibre (h : MemoryCanonical s) {f fn} : MemoryCanonical (s.modFibre f fn) := h.update
theorem MemoryCanonical.delInst (h : MemoryCanonical s) {f} : MemoryCanonical (s.delInst f) := h.update
theorem MemoryCanonical.setSlot (h : MemoryCanonical s) {core idx x} : MemoryCanonical (s.setSlot core idx x) := h.update
theorem MemoryCanonical.fillSlot (h : MemoryCanonical s) {f k x} : MemoryCanonical (s.fillSlot f k x) := by
  unfold State.fillSlot
  split
  · split
    · exact h.setSlot
    · exact h.setFibre
  · exact h
theorem MemoryCanonical.clearSlot (h : MemoryCanonical s) {f k p} : MemoryCanonical (s.clearSlot f k p) := by
  unfold State.clearSlot
  split
  · split
    · exact h.setSlot
    · exact h.setFibre
  · exact h
theorem MemoryCanonical.modLaunch (h : MemoryCanonical s) {lid fn} : MemoryCanonical (s.modLaunch lid fn) := h.update
theorem MemoryCanonical.trimSets (h : MemoryCanonical s) {core} : MemoryCanonical (s.trimSets core) := (Calm.trimSets ..).canon h
theorem MemoryCanonical.joinSet (h : MemoryCanonical s) {f} : MemoryCanonical (s.joinSet f) := (Calm.joinSet ..).canon h
theorem MemoryCanonical.checkBar (h : MemoryCanonical s) {g b} : MemoryCanonical (s.checkBar g b) := by
  unfold State.checkBar
  split
  · exact h
  · exact .either h h.setGather.update
theorem MemoryCanonical.checkBars (h : MemoryCanonical s) {g} : MemoryCanonical (s.checkBars g) := h.foldl fun _ _ h => h.checkBar
theorem MemoryCanonical.arriveBar (h : MemoryCanonical s) {f b} : MemoryCanonical (s.arriveBar f b).1 := by
  unfold State.arriveBar
  split
  · exact h
  · exact .eitherFst h (.eitherFst h.setGather h.setGather)
theorem MemoryCanonical.checkMeets (h : MemoryCanonical s) {g} : MemoryCanonical (s.checkMeets g) := h.modGather
theorem MemoryCanonical.enterMeet (h : MemoryCanonical s) {f} : MemoryCanonical (s.enterMeet f) := by
  unfold State.enterMeet
  split
  · exact h
  · exact .either h.modGather.checkMeets h
theorem MemoryCanonical.leaveMeetAt (h : MemoryCanonical s) {f x a} :
    MemoryCanonical (s.leaveMeetAt f x a) := h.setFibre.modGather.checkMeets
theorem MemoryCanonical.leaveMeet (h : MemoryCanonical s) {f} : MemoryCanonical (s.leaveMeet f) := by
  unfold State.leaveMeet
  split
  · exact h
  · exact .either h.leaveMeetAt h
theorem MemoryCanonical.quitMeet (h : MemoryCanonical s) {f} : MemoryCanonical (s.quitMeet f) := by
  unfold State.quitMeet
  split
  · split
    · exact h.leaveMeetAt
    · exact h
  · exact h
theorem MemoryCanonical.withdrawMeets (h : MemoryCanonical s) {f} : MemoryCanonical (s.withdrawMeets f) := h.modGather
theorem MemoryCanonical.clearWaits (h : MemoryCanonical s) {f} : MemoryCanonical (s.clearWaits f) := h.updateMs
theorem MemoryCanonical.discard (h : MemoryCanonical s) {f} : MemoryCanonical (s.discard f) := by
  unfold State.discard
  split
  · exact h
  · exact h.clearWaits.delInst.update.modGather.modFibre
theorem MemoryCanonical.leaveRdv (h : MemoryCanonical s) {f} : MemoryCanonical (s.leaveRdv f) := h.update
theorem MemoryCanonical.reap (h : MemoryCanonical s) {f} : MemoryCanonical (s.reap f) := by
  unfold State.reap
  split
  · exact h
  · exact .either h.update h
theorem MemoryCanonical.dropProds (h : MemoryCanonical s) {ps} : MemoryCanonical (s.dropProds ps) := .either h h.update
theorem MemoryCanonical.keepPosts (h : MemoryCanonical s) {f x stay} :
    MemoryCanonical (s.keepPosts f x stay) := ((MemoryCanonical.either h h.leaveRdv).setFibre).dropProds
theorem MemoryCanonical.leaveGather (h : MemoryCanonical s) {f keep} : MemoryCanonical (s.leaveGather f keep) := by
  unfold State.leaveGather
  split
  · exact h.update.setGather.modLaunch.keepPosts.dropProds.modFibre.reap.withdrawMeets.checkMeets.trimSets
  · exact h
theorem MemoryCanonical.endFibre (h : MemoryCanonical s) {f keep} : MemoryCanonical (s.endFibre f keep) := h.leaveGather.checkBars
theorem MemoryCanonical.cancelFibre (h : MemoryCanonical s) {f} : MemoryCanonical (s.cancelFibre f) := by
  unfold State.cancelFibre
  split
  · exact h
  · exact .either h.keepPosts.reap (.either h.setFibre h.leaveGather)
theorem MemoryCanonical.cancelFibres (h : MemoryCanonical s) {fs} :
    MemoryCanonical (s.cancelFibres fs) := (h.foldl fun _ _ h => h.cancelFibre).foldl fun _ _ h => h.checkBars
theorem MemoryCanonical.endProgram (h : MemoryCanonical s) {cl fault} : MemoryCanonical (s.endProgram cl fault) := by
  unfold State.endProgram
  split
  · exact h
  · exact h.clearFresh.updateMs.setSeq
theorem MemoryCanonical.setOwn (h : MemoryCanonical s) {cl id o} : MemoryCanonical (s.setOwn cl id o) := h.update
theorem MemoryCanonical.clearTile (h : MemoryCanonical s) {cl id} : MemoryCanonical (s.clearTile cl id) := h.update
theorem MemoryCanonical.freeTile (h : MemoryCanonical s) {cl id} : MemoryCanonical (s.freeTile cl id) := h.clearTile.update
theorem MemoryCanonical.endTiles (h : MemoryCanonical s) {lid} :
    MemoryCanonical (s.endTiles lid) := h.foldl fun _ _ h => .either h.freeTile h.setOwn
theorem MemoryCanonical.endPrograms (h : MemoryCanonical s) {lid} : MemoryCanonical (s.endPrograms lid) := by
  unfold State.endPrograms
  refine MemoryCanonical.endTiles ?_
  refine MemoryCanonical.foldl h fun s a h => ?_
  split
  · exact h
  · exact (MemoryCanonical.either h.endProgram h).update
theorem MemoryCanonical.cancelLaunch (h : MemoryCanonical s) {lid info} : MemoryCanonical (s.cancelLaunch lid info) := by
  unfold State.cancelLaunch
  split
  · exact h
  · exact .either h (.either h.update h.update.cancelFibres.endPrograms)
theorem MemoryCanonical.launchEvent (h : MemoryCanonical s) {lid st info cause tval} :
    MemoryCanonical (s.launchEvent lid st info cause tval) := h.modLaunch.cancelLaunch
theorem MemoryCanonical.haltGather (h : MemoryCanonical s) {f} : MemoryCanonical (s.haltGather f) := h.update
theorem MemoryCanonical.haltFibre (h : MemoryCanonical s) {f pend slot} : MemoryCanonical (s.haltFibre f pend slot) := by
  unfold State.haltFibre
  extract_lets +onlyGivenNames t
  have ht : MemoryCanonical t := h.modFibre
  split
  · exact .either ht.haltGather ht
  · exact ht
theorem MemoryCanonical.noHandler (h : MemoryCanonical s) {f} : MemoryCanonical (s.noHandler f) := by
  unfold State.noHandler
  split
  · split
    · exact .either h.haltFibre h.launchEvent
    · exact h.launchEvent
  · exact h
theorem MemoryCanonical.deliver (h : MemoryCanonical s) {f} : MemoryCanonical (s.deliver f) := by
  unfold State.deliver
  split
  · exact h
  · exact .either h.haltFibre (.either h.noHandler (.either (.either h.setFibre.enterMeet.joinSet h.noHandler) (.either h.noHandler
        h.setFibre.joinSet)))
theorem MemoryCanonical.dropHeld (h : MemoryCanonical s) {f} : MemoryCanonical (s.dropHeld f) := by
  unfold State.dropHeld
  split
  · exact h
  · exact h.setFibre.modGather.dropProds
theorem MemoryCanonical.takeTrap (h : MemoryCanonical s) {f hdr n post} : MemoryCanonical (s.takeTrap f hdr n post) := by
  unfold State.takeTrap
  extract_lets +onlyGivenNames t u v
  have ht : MemoryCanonical t := .either h.count h
  have hu : MemoryCanonical u := ht.discard
  have hv : MemoryCanonical v := .either hu.dropHeld hu
  split
  · exact hv
  · exact .either hv.endFibre (.either hv.setFibre.setFibre hv.setFibre.deliver)
theorem MemoryCanonical.nodeFault (h : MemoryCanonical s) {f e cause tval a b c} : MemoryCanonical (s.nodeFault f e cause tval a b c) := by
  unfold State.nodeFault
  split
  · exact h
  · extract_lets +onlyGivenNames i t
    extract_lets +onlyGivenNames u
    have hu : MemoryCanonical u := h.setInst
    split
    · exact hu.takeTrap
    · exact hu
theorem MemoryCanonical.seqFault (h : MemoryCanonical s) {cl cause tval} : MemoryCanonical (s.seqFault cl cause tval) := by
  unfold State.seqFault
  split
  · exact h
  · exact h.endProgram.launchEvent
theorem MemoryCanonical.postFault (h : MemoryCanonical s) {f cause tval} : MemoryCanonical (s.postFault f cause tval) := by
  unfold State.postFault
  split
  · exact h
  · split
    · exact h
    · exact .either h.keepPosts.reap (.either h.keepPosts (.either h.setFibre h.setFibre))
theorem MemoryCanonical.popPost (h : MemoryCanonical s) {f} : MemoryCanonical (s.popPost f) := by
  unfold State.popPost
  split
  · exact h
  · exact .either h.setFibre.reap (.either h.setFibre.joinSet h.setFibre)
theorem MemoryCanonical.illegalSeq (h : MemoryCanonical s) {cl} : NextCanonical (illegalSeq s cl) := h.seqFault
theorem MemoryCanonical.withNode (h : MemoryCanonical s) {l ds k} (hk : ∀ f e i xs, NextCanonical (k f e i xs)) :
    NextCanonical (Machine.withNode s l ds k) := by
  unfold Machine.withNode
  split
  · split
    · trivial
    · split
      · exact h
      · exact h.setInst
      · exact hk _ _ _ _
  · exact h.illegalSeq
  · trivial
theorem MemoryCanonical.cullet (h : MemoryCanonical s) {l d} : NextCanonical (cullet l d s) := h.withNode (fun _ _ _ _ => h.nodeFault)
theorem MemoryCanonical.takeFree (h : MemoryCanonical s) : MemoryCanonical (s.takeFree).1 := h.update
theorem MemoryCanonical.takeBit (h : MemoryCanonical s) : MemoryCanonical (s.takeBit).1 := h.update
theorem MemoryCanonical.takeSerial (h : MemoryCanonical s) : MemoryCanonical (s.takeSerial).1 := h.update

end Sys2Proof.Safety
end

section
/-! What accesses keep: their resolution, loads, stores at commit, the tokens that carry them, and the instructions of memory (R20 to R40,
R79, R80, R93 to R97, R109 to R117, R132, R134, R174 to R178, R314 to R320, R346). -/
namespace Sys2Proof.Safety
open Sys2Proof.Machine
variable {s : State}

theorem MemoryCanonical.xlateBytes (h : MemoryCanonical s) {agent unit ctx need ok l} :
    MemoryCanonical (s.xlateBytes agent unit ctx need ok l).1 := by
  induction l generalizing s with
  | nil => exact h
  | cons a r ih =>
    rw [State.xlateBytes]
    split
    exact ih (h.xlateWait.answered ‹_›)
theorem MemoryCanonical.outsidePlace (h : MemoryCanonical s) {agent unit ctx va pa rgx need} :
    MemoryCanonical (s.outsidePlace agent unit ctx va pa rgx need).1 := (Quiet.outsidePlace ..).canon h
theorem MemoryCanonical.resolve (h : MemoryCanonical s) {w ea n align need heeds fits} :
    MemoryCanonical (s.resolve w ea n align need heeds fits).1 := (Quiet.resolve ..).canon h
theorem MemoryCanonical.visitOut (h : MemoryCanonical s) {pa} : MemoryCanonical (s.visitOut pa) := by
  unfold State.visitOut
  split
  · exact h.send.send
  · exact h
theorem MemoryCanonical.freeBytes (h : MemoryCanonical s) {n} : MemoryCanonical (freeBytes n s).1 := by
  induction n generalizing s with
  | zero => exact h
  | succ n ih =>
    rw [Machine.freeBytes]
    exact ih h.update
theorem MemoryCanonical.pastL1 (h : MemoryCanonical s) {pas} : MemoryCanonical (s.pastL1 pas) := by
  unfold State.pastL1
  split
  · exact h.flushLines.l1Drop
  · exact h
theorem MemoryCanonical.outsideRead (h : MemoryCanonical s) {r n} : MemoryCanonical (s.outsideRead r n).1 := by
  unfold State.outsideRead
  split
  · split
    · extract_lets +onlyGivenNames pas t
      have ht : MemoryCanonical t := by
        unfold t
        refine MemoryCanonical.foldl h.pastL1 fun s a h => ?_
        split
        · exact h.visit.drainLine
        · exact h.drainLine
      exact .eitherFst ht (ht.foldl fun _ _ h => h.share)
    · exact h.visitOut.freeBytes
  · exact .eitherFst h.visitOut.update h.visitOut.update.freeBytes
  · exact h
theorem MemoryCanonical.setTile (h : MemoryCanonical s) {cl id k x} : MemoryCanonical (s.setTile cl id k x) := h.update
theorem MemoryCanonical.drainLoop (h : MemoryCanonical s) {n line eps u} : MemoryCanonical (drainLoop n s line eps u) := by
  induction n generalizing s u with
  | zero => exact h
  | succ n ih =>
    rw [Machine.drainLoop]
    refine .either h ?_
    split
    · exact h
    · exact ih h.askForced
theorem MemoryCanonical.drainTo (h : MemoryCanonical s) {line q lim} : MemoryCanonical (s.drainTo line q lim) := by
  unfold State.drainTo
  split
  · exact h
  · exact h.awaitDrains.drainLoop
theorem MemoryCanonical.enterWin (h : MemoryCanonical s) {die line g aline} :
    MemoryCanonical (s.enterWin die line g aline) := .either h.share h.share.setCopy
theorem MemoryCanonical.markWord (h : MemoryCanonical s) {g w mask} : MemoryCanonical (s.markWord g w mask) := by
  unfold State.markWord
  split
  · exact h
  · split
    · exact h
    · extract_lets +onlyGivenNames x bm
      refine .either ?_ h.setGather
      extract_lets +onlyGivenNames t
      have ht : MemoryCanonical t := by
        unfold t
        split
        · exact h.enterWin
        · exact h
      exact ht.modGather
theorem MemoryCanonical.scratchWrite (h : MemoryCanonical s) {g cs} : MemoryCanonical (s.scratchWrite g cs) := by
  unfold State.scratchWrite
  split
  · exact h
  · exact h.setSp.foldl fun _ _ h => h.markWord
theorem MemoryCanonical.needFills (h : MemoryCanonical s) {agent g q ga offs} : MemoryCanonical (s.needFills agent g q ga offs).1 := by
  unfold State.needFills
  split
  · exact h
  · extract_lets +onlyGivenNames bad
    clear_value bad
    split
    · exact h
    · exact h.updateMs
theorem MemoryCanonical.scratchRead (h : MemoryCanonical s) {agent g q ga offs} : MemoryCanonical (s.scratchRead agent g q ga offs).1 := by
  unfold State.scratchRead
  split <;> exact h.needFills.answered ‹_›
theorem MemoryCanonical.fillNow (h : MemoryCanonical s) {agent unit g aline q} : MemoryCanonical (s.fillNow agent unit g aline q).1 := by
  unfold State.fillNow
  split
  · exact h
  · split
    · exact h
    · extract_lets +onlyGivenNames vas
      split
      · exact h.xlate.answered ‹_›
      · extract_lets +onlyGivenNames pa
        split
        · exact h.xlate.answered ‹_›
        · split
          · split
            · exact ((h.xlate.answered ‹_›).outsidePlace).answered ‹_›
            · exact ((h.xlate.answered ‹_›).outsidePlace).answered ‹_›
            · split
              · exact ((((h.xlate.answered ‹_›).outsidePlace).answered ‹_›).outsideRead).answered ‹_›
              · exact (((((((h.xlate.answered ‹_›).outsidePlace).answered ‹_›).outsideRead).answered ‹_›).clearFresh).count).foldl
                    fun _ _ h => .either h h.setSp.modGather
          · split
            · exact h.xlate.answered ‹_›
            · extract_lets +onlyGivenNames t u
              have ht : MemoryCanonical t := by
                unfold t
                split
                · exact (h.xlate.answered ‹_›).drainTo
                · exact h.xlate.answered ‹_›
              have hu : MemoryCanonical u := ht.enterWin.dropClean
              exact hu.count.foldl fun _ _ h => .either h h.setSp.modGather

theorem MemoryCanonical.postToken (h : MemoryCanonical s) {set src dst cls core what} :
    MemoryCanonical (s.postToken set src dst cls core what) := (MemoryCanonical.either h.spend h).updateMs
theorem MemoryCanonical.attachAll (h : MemoryCanonical s) {die cs rel} : MemoryCanonical (s.attachAll die cs rel) := by
  unfold State.attachAll
  split
  · exact h
  · exact h.foldl fun _ _ h => h.attach
theorem MemoryCanonical.storeL2 (h : MemoryCanonical s) {core cs rel} :
    MemoryCanonical (s.storeL2 core cs rel) := h.flushLines.writeAt.attachAll.l1Update
theorem MemoryCanonical.postWrite (h : MemoryCanonical s) {set die core cs own op bounded} :
    MemoryCanonical (s.postWrite set die core cs own op bounded) :=
      h.foldl fun _ _ h => .either ((MemoryCanonical.either h.drainLine h).writeLine) h.postToken
theorem MemoryCanonical.boundedWrite (h : MemoryCanonical s) {cs rel} :
    MemoryCanonical (s.boundedWrite cs rel) := h.foldl fun _ _ h => h.drainLine.writeLine.attachAll
theorem MemoryCanonical.tmRaw (h : MemoryCanonical s) {core x bs} : MemoryCanonical (s.tmRaw core x bs) := h.updateMs
theorem MemoryCanonical.tmWrite (h : MemoryCanonical s) {core x cs} : MemoryCanonical (s.tmWrite core x cs) := by
  unfold State.tmWrite
  extract_lets +onlyGivenNames bs d b t
  have ht : MemoryCanonical t := by
    unfold t
    split
    · exact .either h h.setGather
    · exact h
  split
  · exact ht.tmRaw.setGather
  · exact ht.tmRaw
theorem MemoryCanonical.chipPut (h : MemoryCanonical s) {off v} : MemoryCanonical (s.chipPut off v) := by
  unfold State.chipPut
  split
  · exact h.setSlot
  · exact h.foldl fun _ _ h => h.setSlot
  · exact h.setTile.setOwn
  · exact h
theorem MemoryCanonical.chipWrite (h : MemoryCanonical s) {cs} : MemoryCanonical (s.chipWrite cs) := by
  unfold State.chipWrite
  extract_lets +onlyGivenNames sc tg t u
  have ht : MemoryCanonical t := by
    unfold t
    refine MemoryCanonical.foldl h fun s a h => ?_
    split
    · exact .either h h.setSp
    · exact h.chipPut
  have hu : MemoryCanonical u := ht.foldl fun _ _ h => h.tmWrite
  exact hu.foldl fun _ _ h => h.scratchWrite
theorem MemoryCanonical.outsideWrite (h : MemoryCanonical s) {cs op} : MemoryCanonical (s.outsideWrite cs op) := by
  unfold State.outsideWrite
  extract_lets +onlyGivenNames own out
  split
  · exact h.boundedWrite
  · extract_lets +onlyGivenNames t
    have ht : MemoryCanonical t := (h.pastL1.foldl fun _ _ h => h.visit).boundedWrite
    clear_value own out t
    split
    · exact ht
    · exact ht.postToken
theorem MemoryCanonical.performStore (h : MemoryCanonical s) {f o} : MemoryCanonical (s.performStore f o) := by
  unfold State.performStore
  extract_lets +onlyGivenNames core
  split
  · split
    · exact h.scratchWrite
    · exact h
  · exact h.chipWrite
  · exact h.outsideWrite
  · exact .either (((h.flushLines.foldl fun _ _ h => h.visit.drainLine).boundedWrite).l1Update) (.either h.flushLines.storeL2 (.either
        h.flushLines.postWrite.l1Update h.l1Store))
theorem MemoryCanonical.performStores (h : MemoryCanonical s) {f os} :
    MemoryCanonical (s.performStores f os) := h.foldl fun _ _ h => h.performStore
theorem MemoryCanonical.missRoom (h : MemoryCanonical s) {f agent pas} :
    MemoryCanonical (s.missRoom f agent pas).1 := .eitherFst (MemoryCanonical.either h h.updateMs) (.eitherFst h h.updateMs)
theorem MemoryCanonical.addMisses (h : MemoryCanonical s) {f p pas} : MemoryCanonical (s.addMisses f p pas) := h.updateMs
theorem MemoryCanonical.endMisses (h : MemoryCanonical s) {p} : MemoryCanonical (s.endMisses p) := h.updateMs
theorem MemoryCanonical.countLines (h : MemoryCanonical s) {core ctx lines} :
    MemoryCanonical (s.countLines core ctx lines) := h.foldl fun _ _ h => h.count
theorem MemoryCanonical.readPast (h : MemoryCanonical s) {core ctx pas} :
    MemoryCanonical (s.readPast core ctx pas).1 := (h.countLines.foldl fun _ _ h => h.share).l1Drop
theorem MemoryCanonical.loadL1 (h : MemoryCanonical s) {core ctx rgx pas} :
    MemoryCanonical (s.loadL1 core ctx rgx pas).1 :=
      .eitherFst h (.eitherFst (h.flushLines.foldl fun _ _ h => h.share) (h.foldl fun _ _ h => h.count.l1Fill))
theorem MemoryCanonical.loadFibre (h : MemoryCanonical s) {f ctx rgx pas} :
    MemoryCanonical (s.loadFibre f ctx rgx pas).1 := .eitherFst h.loadL1 (.eitherFst h ((h.countLines.foldl fun _ _ h => h.share).l1Drop))
theorem MemoryCanonical.boundedRead (h : MemoryCanonical s) {agent q lim ea pas} :
    MemoryCanonical (s.boundedRead agent q lim ea pas).1 := by
  unfold State.boundedRead
  extract_lets +onlyGivenNames a
  split
  · exact h
  · split
    · exact h
    · exact h.updateMs
theorem MemoryCanonical.fibreRead (h : MemoryCanonical s) {f w q ea n r} : MemoryCanonical (s.fibreRead f w q ea n r).1 := by
  unfold State.fibreRead
  split
  · exact h
  · exact h
  · split
    · exact h.scratchRead
    · exact h
  · split <;> exact h
  · split
    · exact h.boundedRead
    · split
      · exact h.missRoom.answered ‹_›
      · split <;> exact ((h.missRoom.answered ‹_›).loadFibre).answered ‹_›
  · split <;> exact h.outsideRead.answered ‹_›
theorem MemoryCanonical.loadWith (h : MemoryCanonical s) {f e i w q ea n r} : MemoryCanonical (s.loadWith f e i w q ea n r).1 := by
  unfold State.loadWith
  split
  extract_lets +onlyGivenNames os
  split
  · exact h
  · split
    · exact h.fibreRead.answered ‹_›
    · exact h.fibreRead

theorem MemoryCanonical.failNode (h : MemoryCanonical s) {f e b ops} : NextCanonical (failNode s f e b ops) := h.clearFresh.nodeFault
theorem MemoryCanonical.fireLoad (h : MemoryCanonical s) {f e i d sz bs} : NextCanonical (fireLoad s f e i d sz bs) := h.clearFresh.setInst
theorem MemoryCanonical.setProds (h : MemoryCanonical s) {m} : MemoryCanonical (s.setProds m) := h.update
theorem MemoryCanonical.modProd (h : MemoryCanonical s) {p fn} : MemoryCanonical (s.modProd p fn) := h.setProds
theorem MemoryCanonical.dropProd (h : MemoryCanonical s) {p} : MemoryCanonical (s.dropProd p) := h.setProds
theorem MemoryCanonical.reportLate (h : MemoryCanonical s) {f hdr e cause tval a} :
    MemoryCanonical (s.reportLate f hdr e cause tval a) := h.modFibre
theorem MemoryCanonical.poisonLoad (h : MemoryCanonical s) {p pr j} :
    MemoryCanonical (s.poisonLoad p pr j) := .either h.modProd.nodeFault (.either h.dropProd h.reportLate.modFibre)
theorem MemoryCanonical.performLoad1 (h : MemoryCanonical s) {p} : MemoryCanonical (s.performLoad1 p) := by
  unfold State.performLoad1
  split
  · exact h
  · split
    · exact h
    · extract_lets +onlyGivenNames core
      refine .either h.endMisses.poisonLoad ?_
      split
      refine MemoryCanonical.modProd ?_
      refine MemoryCanonical.endMisses ?_
      refine MemoryCanonical.answered ?_ ‹_›
      split
      · split <;> exact h.loadL1.answered ‹_›
      · exact h.readPast
theorem MemoryCanonical.settleLoads (h : MemoryCanonical s) {f n pas} :
    MemoryCanonical (s.settleLoads f n pas) := h.foldl fun _ _ h => h.performLoad1
theorem MemoryCanonical.performLoad (h : MemoryCanonical s) {p} : MemoryCanonical (s.performLoad p) := by
  unfold State.performLoad
  split
  · exact h.settleLoads.performLoad1
  · exact h
theorem MemoryCanonical.performLoads (h : MemoryCanonical s) {f} : MemoryCanonical (s.performLoads f) := h.foldl fun _ _ h => h.performLoad
theorem MemoryCanonical.issueLoad (h : MemoryCanonical s) {f e i k ea a pas l sz} :
    MemoryCanonical (s.issueLoad f e i k ea a pas l sz) := h.update.setProds.addMisses.clearFresh.setInst
theorem MemoryCanonical.ldNode (h : MemoryCanonical s) {q sz d a off f e i} : NextCanonical (ldNode s q sz d a off f e i) := by
  unfold Machine.ldNode
  extract_lets +onlyGivenNames n ea
  refine .either h ?_
  extract_lets +onlyGivenNames w
  split
  refine .either ((h.resolve.answered ‹_›).failNode) ?_
  extract_lets +onlyGivenNames t
  split
  extract_lets +onlyGivenNames late
  refine .either (h.resolve.answered ‹_›) ?_
  split
  · refine .either ?_ ?_
    · split
      · exact (((h.resolve.answered ‹_›).missRoom).answered ‹_›).issueLoad
      · exact ((h.resolve.answered ‹_›).missRoom).answered ‹_›
    · split
      · exact ((h.resolve.answered ‹_›).loadWith).answered ‹_›
      · exact (((h.resolve.answered ‹_›).loadWith).answered ‹_›).failNode
      · exact (((h.resolve.answered ‹_›).loadWith).answered ‹_›).fireLoad
  · extract_lets +onlyGivenNames u
    have hu : MemoryCanonical u := .either ((h.resolve.answered ‹_›).settleLoads) (h.resolve.answered ‹_›)
    split
    · exact hu.loadWith.answered ‹_›
    · exact (hu.loadWith.answered ‹_›).failNode
    · exact (hu.loadWith.answered ‹_›).fireLoad
theorem MemoryCanonical.seqRead (h : MemoryCanonical s) {cl w q ea n r} : MemoryCanonical (s.seqRead cl w q ea n r).1 := by
  unfold State.seqRead
  split
  · exact h
  · exact h
  · exact h
  · split <;> exact h
  · split
    · exact h
    · split
      · exact h.boundedRead
      · exact .eitherFst h (h.foldl fun _ _ h => h.share)
  · split <;> exact h.outsideRead.answered ‹_›
theorem MemoryCanonical.seqWrite (h : MemoryCanonical s) {cl ea n r bs} : MemoryCanonical (s.seqWrite cl ea n r bs) := by
  unfold State.seqWrite
  split
  · exact .either ((h.foldl fun _ _ h => h.visit).boundedWrite) h.writeAt
  · exact h.chipWrite
  · exact h.outsideWrite
theorem MemoryCanonical.seqDone (h : MemoryCanonical s) {cl q words} : MemoryCanonical (s.seqDone cl q words) := h.clearFresh.setSeq
theorem MemoryCanonical.failSeq (h : MemoryCanonical s) {cl b} : NextCanonical (failSeq s cl b) := h.seqFault
theorem MemoryCanonical.ldSeq (h : MemoryCanonical s) {q sz d a off cl sq} : NextCanonical (ldSeq s q sz d a off cl sq) := by
  unfold Machine.ldSeq
  extract_lets +onlyGivenNames n ea w
  split
  refine .either ((h.resolve.answered ‹_›).failSeq) ?_
  split
  · exact ((h.resolve.answered ‹_›).seqRead).answered ‹_›
  · exact (((h.resolve.answered ‹_›).seqRead).answered ‹_›).failSeq
  · exact (((h.resolve.answered ‹_›).seqRead).answered ‹_›).seqDone
theorem MemoryCanonical.execLd (h : MemoryCanonical s) {q sz d a off} : NextCanonical (execLd q sz d a off s) := by
  unfold Machine.execLd
  split
  · split
    · exact h.ldSeq
    · trivial
  · exact h.withNode (fun _ _ _ _ => h.ldNode)
theorem MemoryCanonical.windowStoreCheck (h : MemoryCanonical s) {w ga offs} : MemoryCanonical (s.windowStoreCheck w ga offs).1 := by
  unfold State.windowStoreCheck
  extract_lets +onlyGivenNames vas
  split <;> exact h.xlateBytes.answered ‹_›
theorem MemoryCanonical.planStore (h : MemoryCanonical s) {w job e ea hint n nib bs r} :
    MemoryCanonical (s.planStore w job e ea hint n nib bs r).1 := by
  unfold State.planStore
  extract_lets +onlyGivenNames mk
  split
  · exact h
  · exact h
  · split
    · exact h
    · split <;> exact h.windowStoreCheck.answered ‹_›
  · exact h
  · exact h
  · exact h
theorem MemoryCanonical.stNode (h : MemoryCanonical s) {q sz a x y off f e i} : NextCanonical (stNode s q sz a x y off f e i) := by
  unfold Machine.stNode
  extract_lets +onlyGivenNames n ea w
  split
  split
  · exact ((h.resolve.answered ‹_›).planStore).answered ‹_›
  · exact (((h.resolve.answered ‹_›).planStore).answered ‹_›).failNode
  · exact ((((h.resolve.answered ‹_›).planStore).answered ‹_›).clearFresh).setInst
theorem MemoryCanonical.stSeq (h : MemoryCanonical s) {q sz x a off cl sq} : NextCanonical (stSeq s q sz x a off cl sq) := by
  unfold Machine.stSeq
  extract_lets +onlyGivenNames n ea w
  split
  split
  · exact ((h.resolve.answered ‹_›).planStore).answered ‹_›
  · exact (((h.resolve.answered ‹_›).planStore).answered ‹_›).failSeq
  · exact .either (((h.resolve.answered ‹_›).planStore).answered ‹_›) (((((h.resolve.answered ‹_›).planStore).answered
        ‹_›).seqWrite).seqDone)
theorem MemoryCanonical.execSt (h : MemoryCanonical s) {q sz x a off} : NextCanonical (execSt q sz x a off s) := by
  unfold Machine.execSt
  split
  · split
    · exact h.stSeq
    · trivial
  · exact h.withNode (fun _ _ _ _ => h.stNode)
theorem MemoryCanonical.fmtPlan (h : MemoryCanonical s) {w a e store} : MemoryCanonical (s.fmtPlan w a e store).1 := by
  unfold State.fmtPlan
  split
  · exact h
  · split
    · exact h.xlateWait.answered ‹_›
    · exact h.xlateWait.answered ‹_›
    · split
      · exact h.xlateWait.answered ‹_›
      · split
        · exact h.xlateWait.answered ‹_›
        · extract_lets +onlyGivenNames vas
          split <;> exact ((h.xlateWait.answered ‹_›).xlateBytes).answered ‹_›
theorem MemoryCanonical.boundedReads (h : MemoryCanonical s) {agent q lim ea l} : MemoryCanonical (s.boundedReads agent q lim ea l).1 := by
  induction l generalizing s with
  | nil => exact h
  | cons a r ih =>
    rw [State.boundedReads]
    split
    exact ih (h.boundedRead.answered ‹_›)
theorem MemoryCanonical.scalePlace (h : MemoryCanonical s) {w va} : MemoryCanonical (s.scalePlace w va).1 := by
  unfold State.scalePlace
  split
  exact h.resolve.answered ‹_›
theorem MemoryCanonical.scaleFibre (h : MemoryCanonical s) {f e i w p} : MemoryCanonical (s.scaleFibre f e i w p).1 := by
  unfold State.scaleFibre
  split
  · exact h
  · split
    split
    split
    · exact h.scalePlace.answered ‹_›
    · extract_lets +onlyGivenNames t
      have ht : MemoryCanonical t := .either ((h.scalePlace.answered ‹_›).settleLoads) (h.scalePlace.answered ‹_›)
      split
      exact ht.loadWith.answered ‹_›
theorem MemoryCanonical.scaleSeq (h : MemoryCanonical s) {cl w p} : MemoryCanonical (s.scaleSeq cl w p).1 := by
  unfold State.scaleSeq
  split
  · exact h
  · split
    exact (h.scalePlace.answered ‹_›).seqRead
theorem MemoryCanonical.fmtFibreRead (h : MemoryCanonical s) {f e i w q a p} : MemoryCanonical (s.fmtFibreRead f e i w q a p).1 := by
  unfold State.fmtFibreRead
  split
  · split
    · exact h.boundedReads.answered ‹_›
    · exact h.boundedReads
  · exact h.loadWith
  · exact h.loadWith
  · exact h
theorem MemoryCanonical.ldFmtNode (h : MemoryCanonical s) {q d a el f e i} : NextCanonical (ldFmtNode s q d a el f e i) := by
  unfold Machine.ldFmtNode
  refine .either h ?_
  extract_lets +onlyGivenNames w
  split
  · exact h.fmtPlan.answered ‹_›
  · exact (h.fmtPlan.answered ‹_›).failNode
  · refine .either (h.fmtPlan.answered ‹_›) ?_
    split
    · exact ((h.fmtPlan.answered ‹_›).scaleFibre).answered ‹_›
    · exact (((h.fmtPlan.answered ‹_›).scaleFibre).answered ‹_›).failNode
    · extract_lets +onlyGivenNames t
      have ht : MemoryCanonical t := .either ((((h.fmtPlan.answered ‹_›).scaleFibre).answered ‹_›).settleLoads) (((h.fmtPlan.answered
          ‹_›).scaleFibre).answered ‹_›)
      split
      · exact ht.fmtFibreRead.answered ‹_›
      · exact (ht.fmtFibreRead.answered ‹_›).failNode
      · exact ((ht.fmtFibreRead.answered ‹_›).clearFresh).setInst
theorem MemoryCanonical.ldFmtSeq (h : MemoryCanonical s) {q d a el cl sq} : NextCanonical (ldFmtSeq s q d a el cl sq) := by
  unfold Machine.ldFmtSeq
  extract_lets +onlyGivenNames w ad
  split
  · exact h.fmtPlan.answered ‹_›
  · exact (h.fmtPlan.answered ‹_›).failSeq
  · split
    · exact ((h.fmtPlan.answered ‹_›).scaleSeq).answered ‹_›
    · exact (((h.fmtPlan.answered ‹_›).scaleSeq).answered ‹_›).failSeq
    · extract_lets +onlyGivenNames r
      have hr : MemoryCanonical r.1 := by
        unfold r
        split
        · exact .eitherFst (((h.fmtPlan.answered ‹_›).scaleSeq).answered ‹_›) ((((h.fmtPlan.answered ‹_›).scaleSeq).answered
              ‹_›).boundedReads)
        · exact (((h.fmtPlan.answered ‹_›).scaleSeq).answered ‹_›).seqRead
        · exact ((h.fmtPlan.answered ‹_›).scaleSeq).answered ‹_›
      clear_value w ad r
      split
      · exact hr
      · exact hr.failSeq
      · exact hr.seqDone
theorem MemoryCanonical.execLdFmt (h : MemoryCanonical s) {q d a e} : NextCanonical (execLdFmt q d a e s) := by
  unfold Machine.execLdFmt
  split
  · split
    · exact h.ldFmtSeq
    · trivial
  · exact h.withNode (fun _ _ _ _ => h.ldFmtNode)
theorem MemoryCanonical.stFmtNode (h : MemoryCanonical s) {q a x el f e i} : NextCanonical (stFmtNode s q a x el f e i) := by
  unfold Machine.stFmtNode
  extract_lets +onlyGivenNames w
  split
  · exact h.fmtPlan.answered ‹_›
  · exact (h.fmtPlan.answered ‹_›).failNode
  · split
    extract_lets +onlyGivenNames fill
    have hfill : MemoryCanonical fill.1 := by
      unfold fill
      split
      · exact (h.fmtPlan.answered ‹_›).needFills
      · exact h.fmtPlan.answered ‹_›
    split
    · clear_value w fill
      split
      · exact hfill
      · exact hfill.failNode
      · exact hfill.clearFresh.setInst
    · clear_value w fill
      split
      · exact hfill
      · exact hfill.failNode
      · exact hfill.clearFresh.setInst
theorem MemoryCanonical.stFmtSeq (h : MemoryCanonical s) {x a el cl sq} : NextCanonical (stFmtSeq s x a el cl sq) := by
  unfold Machine.stFmtSeq
  extract_lets +onlyGivenNames w ad
  split
  · exact h.fmtPlan.answered ‹_›
  · exact (h.fmtPlan.answered ‹_›).failSeq
  · exact .either (h.fmtPlan.answered ‹_›) (((MemoryCanonical.either ((h.fmtPlan.answered ‹_›).foldl fun _ _ h => h.drainLine)
        (h.fmtPlan.answered ‹_›)).seqWrite).seqDone)
theorem MemoryCanonical.execStFmt (h : MemoryCanonical s) {q x a e} : NextCanonical (execStFmt q x a e s) := by
  unfold Machine.execStFmt
  split
  · split
    · exact h.stFmtSeq
    · trivial
  · exact h.withNode (fun _ _ _ _ => h.stFmtNode)

end Sys2Proof.Safety
end

section
/-! What synchronization keeps: releases and acquires, bounded additions and their drains, ATOM and RED, the FENCE group (R84 to R88,
R140 to R142, R154 to R156, R162 to R173, R321 to R329). -/
namespace Sys2Proof.Safety
open Sys2Proof.Machine
variable {s : State}

theorem MemoryCanonical.sendTokens (h : MemoryCanonical s) {agent set die} :
    MemoryCanonical (s.sendTokens agent set die) := (h.foldl fun _ _ h => h.postToken.postToken).updateMs
theorem MemoryCanonical.releaseDrain (h : MemoryCanonical s) {core scope mask sc rgx} :
    MemoryCanonical (s.releaseDrain core scope mask sc rgx) := .either h.drainSome h
theorem MemoryCanonical.askDrains (h : MemoryCanonical s) {die agent own rs} :
    MemoryCanonical (s.askDrains die agent own rs) := (h.foldl fun _ _ h => h.sendDrain).updateMs
theorem MemoryCanonical.dropMet (h : MemoryCanonical s) {r} : MemoryCanonical (s.dropMet r) := h.dropRec
theorem MemoryCanonical.rereadSets (h : MemoryCanonical s) {core p} : MemoryCanonical (s.rereadSets core p) := by
  unfold State.rereadSets
  refine MemoryCanonical.foldl h fun s a h => ?_
  split
  exact (h.readHeader.answered ‹_›).setFabric
theorem MemoryCanonical.refetch (h : MemoryCanonical s) {core ctx} : MemoryCanonical (s.refetch core ctx) := h.setFabric.rereadSets
theorem MemoryCanonical.setStage (h : MemoryCanonical s) {f n} : MemoryCanonical (s.setStage f n) := h.modFibre
theorem MemoryCanonical.donePost (h : MemoryCanonical s) {f p x} : MemoryCanonical (s.donePost f p x) := by
  unfold State.donePost
  extract_lets +onlyGivenNames t
  have ht : MemoryCanonical t := by
    unfold t
    split
    · exact h.modProd
    · exact h
  exact ht.popPost
theorem MemoryCanonical.addPost (h : MemoryCanonical s) {f e i d op xs desc place} :
    MemoryCanonical (s.addPost f e i d op xs desc place) := by
  unfold State.addPost
  extract_lets +onlyGivenNames woff po
  split
  · exact h.update.setProds.setInst
  · exact h.setInst
theorem MemoryCanonical.failEmulated (h : MemoryCanonical s) {f e xs} : NextCanonical (failEmulated s f e xs) := h.nodeFault
theorem MemoryCanonical.afterCommit (h : MemoryCanonical s) {op l d barred} {perform : ℕ → Fibre → PostOp → State → Result} (hperform : ∀ a
    b c s, MemoryCanonical s → NextCanonical (perform a b c s)) :
    NextCanonical (afterCommit s op l d barred perform) := by
  unfold Machine.afterCommit
  split
  · split
    · trivial
    · split
      · trivial
      · exact .either h (hperform _ _ _ _ h)
  · exact h.withNode (fun _ _ _ _ => .either h.failEmulated h.addPost)
theorem MemoryCanonical.failPost (h : MemoryCanonical s) {f cause tval} : NextCanonical (failPost s f cause tval) := h.postFault

theorem MemoryCanonical.requestGrant (h : MemoryCanonical s) {die line lim} :
    MemoryCanonical (s.requestGrant die line lim).1 := .eitherFst h h.updateMs
theorem MemoryCanonical.grantTo (h : MemoryCanonical s) {set die line lim} : MemoryCanonical (s.grantTo set die line lim) := by
  unfold State.grantTo
  extract_lets +onlyGivenNames home
  split
  exact (h.sendOn.sendOn.requestGrant.answered ‹_›).setHolder
theorem MemoryCanonical.drainKeep (h : MemoryCanonical s) {set die line} :
    MemoryCanonical (s.drainKeep set die line) := .either h.setHolder (.either h.setHolder.applySums h.setHolder.postToken)
theorem MemoryCanonical.addAtHome (h : MemoryCanonical s) {line e k x} : MemoryCanonical (s.addAtHome line e k x) := h.writeLine
theorem MemoryCanonical.setOffer (h : MemoryCanonical s) {i o} : MemoryCanonical (s.setOffer i o) := h.updateMs
theorem MemoryCanonical.dropOffer (h : MemoryCanonical s) {i} : MemoryCanonical (s.dropOffer i) := h.updateMs
theorem MemoryCanonical.answerOffer (h : MemoryCanonical s) {o} :
    MemoryCanonical (s.answerOffer o) := .either h.sendOn.sendOn.awaitDrains.addFresh ((((h.sendOn.sendOn.awaitDrains.foldl fun _ _ h =>
      h.share).foldl fun _ _ h => h.addAtHome).attachAll).addFresh)
theorem MemoryCanonical.offerOn (h : MemoryCanonical s) {i o} : MemoryCanonical (s.offerOn i o) := by
  unfold State.offerOn
  split
  · exact h.setOffer
  · exact .either h.dropOffer (.either h.setOffer h.dropOffer.answerOffer)
theorem MemoryCanonical.withhold (h : MemoryCanonical s) {i o} : MemoryCanonical (s.withhold i o) := h.setHolder.offerOn
theorem MemoryCanonical.postAdd (h : MemoryCanonical s) {set die line e k x} :
    MemoryCanonical (s.postAdd set die line e k x) := .either h.addAtHome h.postToken
theorem MemoryCanonical.postOffer (h : MemoryCanonical s) {i o} : MemoryCanonical (s.postOffer i o) := .either h.offerOn h.postAdd.offerOn
theorem MemoryCanonical.sameKind (h : MemoryCanonical s) {o} : MemoryCanonical (s.sameKind o) := by
  unfold State.sameKind
  split
  · exact .either h h.drainKeep
  · exact h
theorem MemoryCanonical.offerMain (h : MemoryCanonical s) {i o} :
    MemoryCanonical (s.offerMain i o) := .either h.sameKind.setOffer h.sameKind.withhold
theorem MemoryCanonical.offerEnd (h : MemoryCanonical s) {i o} :
    MemoryCanonical (s.offerEnd i o) := .either (.either h.sameKind.drainKeep.postOffer h.sameKind.drainKeep.withhold) h.sameKind.withhold
theorem MemoryCanonical.holderStep (h : MemoryCanonical s) {i o} : MemoryCanonical (s.holderStep i o) := by
  unfold State.holderStep
  refine .either h ?_
  extract_lets +onlyGivenNames t
  split
  · exact .either h.setOffer h.offerMain
  · exact .either h.postOffer h.offerMain
  · exact h.offerEnd
  · exact h.dropOffer.answerOffer
  · exact h

theorem MemoryCanonical.resolveAtom (h : MemoryCanonical s) {w o ea} : MemoryCanonical (s.resolveAtom w o ea).1 := h.resolve
theorem MemoryCanonical.planAtom (h : MemoryCanonical s) {w e ea o r} : MemoryCanonical (s.planAtom w e ea o r).1 := by
  unfold State.planAtom
  extract_lets +onlyGivenNames n mk
  split
  · exact h
  · exact h
  · exact h
  · split
    · exact h
    · split <;> exact h.windowStoreCheck.answered ‹_›
  · exact h
  · exact h
  · exact h
theorem MemoryCanonical.rmwAt (h : MemoryCanonical s) {die o pas b c rel} : MemoryCanonical (s.rmwAt die o pas b c rel).1 := by
  unfold State.rmwAt
  extract_lets +onlyGivenNames line t old recs
  have ht : MemoryCanonical t := h.share
  split
  · exact ht
  · exact ht.writeLine.attachAll
theorem MemoryCanonical.redAt (h : MemoryCanonical s) {die o pas b rel} : MemoryCanonical (s.redAt die o pas b rel) := h.rmwAt
theorem MemoryCanonical.offerAll (h : MemoryCanonical s) {w o k pa lim b} : MemoryCanonical (s.offerAll w o k pa lim b) := by
  unfold State.offerAll
  extract_lets +onlyGivenNames ls t
  have ht : MemoryCanonical t := h.foldl fun _ _ h => h.postAdd
  split
  · exact ht
  · exact ht.updateMs
theorem MemoryCanonical.markOffered (h : MemoryCanonical s) {g} : MemoryCanonical (s.markOffered g) := by
  unfold State.markOffered
  split
  · exact h.modGather
  · exact h
theorem MemoryCanonical.atomPlain (h : MemoryCanonical s) {w o pas b c} : MemoryCanonical (s.atomPlain w o pas b c).1 := by
  unfold State.atomPlain
  extract_lets pa home first t drop u
  clear_value first
  have ht : MemoryCanonical t := by
    unfold t
    split
    · exact h.flushLines
    · exact h
  have hdrop {s : State} (h : MemoryCanonical s) : MemoryCanonical (drop s) := by
    unfold drop
    split
    · exact h.l1Drop
    · exact h
  clear_value t drop
  split
  · split
    · exact hdrop ht.redAt
    · exact hdrop ht.postToken
  · split
    · exact ht
    · split
      · exact ht.share.dropMet
      · exact hdrop ht.share.rmwAt
theorem MemoryCanonical.atomHome (h : MemoryCanonical s) {w o pas b c} :
    MemoryCanonical (s.atomHome w o pas b c).1 := h.visit.drainLine.atomPlain
theorem MemoryCanonical.atomBounded (h : MemoryCanonical s) {w o pas lim b c} : MemoryCanonical (s.atomBounded w o pas lim b c).1 := by
  unfold State.atomBounded
  extract_lets +onlyGivenNames pa home t
  have ht : MemoryCanonical t := by
    unfold t
    split
    · exact h.flushLines.l1Drop
    · exact h
  split
  · split
    · exact .eitherFst ht ht.markOffered.offerAll
    · exact ht
  · exact .eitherFst (.eitherFst ht.visit.redAt ht.postToken) ht.atomHome
theorem MemoryCanonical.atomScratch (h : MemoryCanonical s) {w o offs b c} : MemoryCanonical (s.atomScratch w o offs b c).1 := by
  unfold State.atomScratch
  split
  · exact h
  · split
    · exact h
    · split
      · exact h.scratchRead.answered ‹_›
      · exact h.scratchRead.answered ‹_›
      · extract_lets +onlyGivenNames old
        split
        · exact h.scratchRead.answered ‹_›
        · exact (h.scratchRead.answered ‹_›).scratchWrite
theorem MemoryCanonical.atomOutside (h : MemoryCanonical s) {w o as b c} :
    MemoryCanonical (s.atomOutside w o as b c).1 :=
      .eitherFst (.eitherFst h.atomHome (.eitherFst h h.visitOut.update)) (.eitherFst h.visitOut.update h.visitOut.update.update)
theorem MemoryCanonical.atomPerform (h : MemoryCanonical s) {w o at_ b c} : MemoryCanonical (s.atomPerform w o at_ b c).1 := by
  unfold State.atomPerform
  extract_lets +onlyGivenNames as x y
  split
  dsimp only
  refine MemoryCanonical.answered ?_ ‹_›
  split
  · exact h.atomScratch
  · exact h.atomOutside
  · exact h
  · exact .eitherFst h.atomBounded h.atomPlain
theorem MemoryCanonical.atomEnd (h : MemoryCanonical s) {f p o old recs} : MemoryCanonical (s.atomEnd f p o old recs) := by
  unfold State.atomEnd
  extract_lets +onlyGivenNames t u
  have ht : MemoryCanonical t := h.clearFresh
  have hu : MemoryCanonical u := .either ht.modFibre ht
  refine .either ?_ hu.modFibre.donePost
  extract_lets +onlyGivenNames v
  have hv : MemoryCanonical v := by
    unfold v
    split
    · exact hu.modProd
    · exact hu
  exact hv.askDrains.setStage
theorem MemoryCanonical.atomPost (h : MemoryCanonical s) {named f x p} : NextCanonical (atomPost named f x p s) := by
  unfold Machine.atomPost
  split
  · exact h.popPost
  · extract_lets +onlyGivenNames o
    refine .either h ?_
    refine .either h ?_
    refine .either ?_ ?_
    · split
      · exact h.atomEnd
      · exact h.clearFresh.failPost
      · exact h
    · extract_lets +onlyGivenNames t
      have ht : MemoryCanonical t := .either h.performLoads (.either h.settleLoads h)
      refine .either ht.sendTokens.setStage ?_
      split
      · exact ht.atomPerform.answered ‹_›
      · exact ((ht.atomPerform.answered ‹_›).clearFresh).setStage
      · exact ((ht.atomPerform.answered ‹_›).clearFresh).failPost
      · exact (ht.atomPerform.answered ‹_›).atomEnd
theorem MemoryCanonical.atomNode (h : MemoryCanonical s) {op o d f e i xs} : NextCanonical (atomNode s op o d f e i xs) := by
  unfold Machine.atomNode
  extract_lets +onlyGivenNames a w
  split
  split
  · exact ((h.resolveAtom.answered ‹_›).planAtom).answered ‹_›
  · exact (((h.resolveAtom.answered ‹_›).planAtom).answered ‹_›).failNode
  · exact ((((h.resolveAtom.answered ‹_›).planAtom).answered ‹_›).clearFresh).addPost
theorem MemoryCanonical.seqAtomEnd (h : MemoryCanonical s) {cl q d words o old recs} :
    NextCanonical (seqAtomEnd s cl q d words o old recs) := .either h.clearFresh.askDrains.setSeq h.seqDone
theorem MemoryCanonical.atomSeq (h : MemoryCanonical s) {o d l cl q} : NextCanonical (atomSeq s o d l cl q) := by
  unfold Machine.atomSeq
  extract_lets +onlyGivenNames words xs a w t
  refine .either h ?_
  refine .either h.seqDone ?_
  refine .either (.either h h.seqAtomEnd) ?_
  refine .either ?_ ?_
  · split
    · exact h.seqAtomEnd
    · exact h.failSeq
    · exact h
  · split
    split
    · exact ((h.resolveAtom.answered ‹_›).planAtom).answered ‹_›
    · exact (((h.resolveAtom.answered ‹_›).planAtom).answered ‹_›).failSeq
    · refine .either (((h.resolveAtom.answered ‹_›).planAtom).answered ‹_›) ?_
      refine .either (((((h.resolveAtom.answered ‹_›).planAtom).answered ‹_›).sendTokens).setSeq) ?_
      split
      · exact ((((h.resolveAtom.answered ‹_›).planAtom).answered ‹_›).atomPerform).answered ‹_›
      · exact ((((((h.resolveAtom.answered ‹_›).planAtom).answered ‹_›).atomPerform).answered ‹_›).clearFresh).setSeq
      · exact (((((h.resolveAtom.answered ‹_›).planAtom).answered ‹_›).atomPerform).answered ‹_›).failSeq
      · exact (((((h.resolveAtom.answered ‹_›).planAtom).answered ‹_›).atomPerform).answered ‹_›).seqAtomEnd
theorem MemoryCanonical.atomic (h : MemoryCanonical s) {op fn w64 scope order red d l} :
    NextCanonical (atomic op fn w64 scope order red d l s) := by
  unfold Machine.atomic
  extract_lets +onlyGivenNames o
  split
  · split
    · exact h.atomSeq
    · trivial
  · split
    · trivial
    · split
      · trivial
      · exact h.atomPost
  · exact h.withNode (fun _ _ _ _ => h.atomNode)
theorem MemoryCanonical.execAtomLoad (h : MemoryCanonical s) {w64 scope order d a} :
    NextCanonical (execAtomLoad w64 scope order d a s) := h.atomic
theorem MemoryCanonical.execAtomStore (h : MemoryCanonical s) {w64 scope order a b} :
    NextCanonical (execAtomStore w64 scope order a b s) := h.atomic
theorem MemoryCanonical.execAtomAdd (h : MemoryCanonical s) {w64 scope order d a b} :
    NextCanonical (execAtomAdd w64 scope order d a b s) := h.atomic
theorem MemoryCanonical.execAtomSub (h : MemoryCanonical s) {w64 scope order d a b} :
    NextCanonical (execAtomSub w64 scope order d a b s) := h.atomic
theorem MemoryCanonical.execAtomAnd (h : MemoryCanonical s) {w64 scope order d a b} :
    NextCanonical (execAtomAnd w64 scope order d a b s) := h.atomic
theorem MemoryCanonical.execAtomOr (h : MemoryCanonical s) {w64 scope order d a b} :
    NextCanonical (execAtomOr w64 scope order d a b s) := h.atomic
theorem MemoryCanonical.execAtomXor (h : MemoryCanonical s) {w64 scope order d a b} :
    NextCanonical (execAtomXor w64 scope order d a b s) := h.atomic
theorem MemoryCanonical.execAtomMin (h : MemoryCanonical s) {w64 scope order d a b} :
    NextCanonical (execAtomMin w64 scope order d a b s) := h.atomic
theorem MemoryCanonical.execAtomMax (h : MemoryCanonical s) {w64 scope order d a b} :
    NextCanonical (execAtomMax w64 scope order d a b s) := h.atomic
theorem MemoryCanonical.execAtomMinn (h : MemoryCanonical s) {w64 scope order d a b} :
    NextCanonical (execAtomMinn w64 scope order d a b s) := h.atomic
theorem MemoryCanonical.execAtomMaxn (h : MemoryCanonical s) {w64 scope order d a b} :
    NextCanonical (execAtomMaxn w64 scope order d a b s) := h.atomic
theorem MemoryCanonical.execAtomSwap (h : MemoryCanonical s) {w64 scope order d a b} :
    NextCanonical (execAtomSwap w64 scope order d a b s) := h.atomic
theorem MemoryCanonical.execAtomCas (h : MemoryCanonical s) {w64 scope order d a b c} :
    NextCanonical (execAtomCas w64 scope order d a b c s) := h.atomic
theorem MemoryCanonical.execAtomInc (h : MemoryCanonical s) {w64 scope order d a b} :
    NextCanonical (execAtomInc w64 scope order d a b s) := h.atomic
theorem MemoryCanonical.execAtomDec (h : MemoryCanonical s) {w64 scope order d a b} :
    NextCanonical (execAtomDec w64 scope order d a b s) := h.atomic
theorem MemoryCanonical.execAtomFadd (h : MemoryCanonical s) {w64 scope order d a b} :
    NextCanonical (execAtomFadd w64 scope order d a b s) := h.atomic
theorem MemoryCanonical.execAtomFmin (h : MemoryCanonical s) {w64 scope order d a b} :
    NextCanonical (execAtomFmin w64 scope order d a b s) := h.atomic
theorem MemoryCanonical.execAtomFmax (h : MemoryCanonical s) {w64 scope order d a b} :
    NextCanonical (execAtomFmax w64 scope order d a b s) := h.atomic
theorem MemoryCanonical.execAtomHadd2F16 (h : MemoryCanonical s) {w64 scope order d a b} :
    NextCanonical (execAtomHadd2F16 w64 scope order d a b s) := h.atomic
theorem MemoryCanonical.execAtomHadd2Bf16 (h : MemoryCanonical s) {w64 scope order d a b} :
    NextCanonical (execAtomHadd2Bf16 w64 scope order d a b s) := h.atomic
theorem MemoryCanonical.execRedAdd (h : MemoryCanonical s) {w64 scope order a b} :
    NextCanonical (execRedAdd w64 scope order a b s) := h.atomic
theorem MemoryCanonical.execRedAnd (h : MemoryCanonical s) {w64 scope order a b} :
    NextCanonical (execRedAnd w64 scope order a b s) := h.atomic
theorem MemoryCanonical.execRedOr (h : MemoryCanonical s) {w64 scope order a b} :
    NextCanonical (execRedOr w64 scope order a b s) := h.atomic
theorem MemoryCanonical.execRedXor (h : MemoryCanonical s) {w64 scope order a b} :
    NextCanonical (execRedXor w64 scope order a b s) := h.atomic
theorem MemoryCanonical.execRedMin (h : MemoryCanonical s) {w64 scope order a b} :
    NextCanonical (execRedMin w64 scope order a b s) := h.atomic
theorem MemoryCanonical.execRedMax (h : MemoryCanonical s) {w64 scope order a b} :
    NextCanonical (execRedMax w64 scope order a b s) := h.atomic
theorem MemoryCanonical.execRedMinn (h : MemoryCanonical s) {w64 scope order a b} :
    NextCanonical (execRedMinn w64 scope order a b s) := h.atomic
theorem MemoryCanonical.execRedMaxn (h : MemoryCanonical s) {w64 scope order a b} :
    NextCanonical (execRedMaxn w64 scope order a b s) := h.atomic
theorem MemoryCanonical.execRedFadd (h : MemoryCanonical s) {w64 scope order a b} :
    NextCanonical (execRedFadd w64 scope order a b s) := h.atomic
theorem MemoryCanonical.execRedHadd2F16 (h : MemoryCanonical s) {w64 scope order a b} :
    NextCanonical (execRedHadd2F16 w64 scope order a b s) := h.atomic
theorem MemoryCanonical.execRedHadd2Bf16 (h : MemoryCanonical s) {w64 scope order a b} :
    NextCanonical (execRedHadd2Bf16 w64 scope order a b s) := h.atomic

theorem MemoryCanonical.endFence (h : MemoryCanonical s) {f o} :
    MemoryCanonical (s.endFence f o) :=
      ((MemoryCanonical.either ((MemoryCanonical.either h.acquireDrop h).refetch) (.either h.acquireDrop h)).modFibre).popPost
theorem MemoryCanonical.fencePost (h : MemoryCanonical s) {o f x p} : NextCanonical (fencePost o f x p s) := by
  unfold Machine.fencePost
  extract_lets +onlyGivenNames agent
  refine .either h ?_
  extract_lets +onlyGivenNames t u
  have ht : MemoryCanonical t := .either h.performLoads h
  have hu : MemoryCanonical u := .either ht.releaseDrain ht
  refine .either hu ?_
  refine .either hu.sendTokens.setStage ?_
  refine .either ?_ hu.endFence
  extract_lets +onlyGivenNames rs
  split
  · exact hu.modFibre.dropMet.failPost
  · exact hu.askDrains.setStage
theorem MemoryCanonical.fenceSeq (h : MemoryCanonical s) {o words cl q} : NextCanonical (fenceSeq o words cl q s) := by
  unfold Machine.fenceSeq
  extract_lets +onlyGivenNames agent
  refine .either h ?_
  refine .either h.seqDone ?_
  refine .either h.sendTokens.setSeq ?_
  refine .either ?_ h.seqDone
  extract_lets +onlyGivenNames rs
  split
  · exact h.setSeq.dropMet.failSeq
  · exact h.askDrains.setSeq
theorem MemoryCanonical.fence (h : MemoryCanonical s) {op o words} : NextCanonical (fence op o words s) := by
  unfold Machine.fence
  split
  · split
    · exact h.fenceSeq
    · trivial
  · exact h.afterCommit (fun _ _ _ _ h => h.fencePost)
theorem MemoryCanonical.execFence (h : MemoryCanonical s) {scope mask kind} : NextCanonical (execFence scope mask kind s) := h.fence
theorem MemoryCanonical.execRelb (h : MemoryCanonical s) {scope mask n n2} : NextCanonical (execRelb scope mask n n2 s) := h.fence
theorem MemoryCanonical.execAcqb (h : MemoryCanonical s) {scope mask n} : NextCanonical (execAcqb scope mask n s) := h.fence
theorem MemoryCanonical.drainScope (h : MemoryCanonical s) {scope die} :
    MemoryCanonical (s.drainScope scope die) := h.foldl fun _ _ h => h.drainDie
theorem MemoryCanonical.fencexPost (h : MemoryCanonical s) {scope f n m} :
    NextCanonical (fencexPost scope f n m s) :=
      .either h (.either h.drainScope (((MemoryCanonical.either h.drainScope.modGather h.drainScope).modFibre).popPost))
theorem MemoryCanonical.execFencex (h : MemoryCanonical s) {scope} : NextCanonical (execFencex scope s) := by
  unfold Machine.execFencex
  split
  · split
    · exact .either h (MemoryCanonical.either h.drainScope.seqDone h.drainScope)
    · trivial
  · exact h.afterCommit (fun _ _ _ _ h => h.fencexPost)
theorem MemoryCanonical.cutAcquire (h : MemoryCanonical s) {agent} : MemoryCanonical (s.cutAcquire agent) := by
  unfold State.cutAcquire
  extract_lets +onlyGivenNames va t
  extract_lets +onlyGivenNames u
  have hu : MemoryCanonical u := by
    unfold u
    refine MemoryCanonical.updateMs ?_
    exact h
  refine .either hu.seqFault ?_
  extract_lets +onlyGivenNames v
  have hv : MemoryCanonical v := by
    unfold v
    split
    · exact hu.modProd
    · exact hu
  exact hv.postFault
theorem MemoryCanonical.failAcquire (h : MemoryCanonical s) {agent r} :
    MemoryCanonical (s.failAcquire agent r) := ((MemoryCanonical.either h h.modFibre).dropMet).cutAcquire
theorem MemoryCanonical.execDrainRequest (h : MemoryCanonical s) {i} : NextCanonical (execDrainRequest i s) := by
  unfold Machine.execDrainRequest
  split
  · exact h
  · exact .either h.failAcquire (MemoryCanonical.either h.drainSome h.drainSome.updateMs.dropMet)
theorem MemoryCanonical.execAcquireComplete (h : MemoryCanonical s) {f} : NextCanonical (execAcquireComplete f s) := by
  unfold Machine.execAcquireComplete
  refine .either ?_ ?_
  · extract_lets +onlyGivenNames cl
    split
    · exact h
    · exact .either h.setSeq h
  · split
    · exact h
    · refine .either ?_ h
      split
      · exact h
      · split
        · exact h.endFence
        · exact h.acquireDrop.popPost
theorem MemoryCanonical.execFenceTokenArrival (h : MemoryCanonical s) {i} : NextCanonical (execFenceTokenArrival i s) := by
  unfold Machine.execFenceTokenArrival
  split
  · exact h
  · split
    · exact .either (.either h.updateMs h.updateMs.sendOn.updateMs) h
    · exact h
theorem MemoryCanonical.execFenceComplete (h : MemoryCanonical s) {f} : NextCanonical (execFenceComplete f s) := by
  unfold Machine.execFenceComplete
  extract_lets +onlyGivenNames agent
  split
  · exact h
  · refine .either h ?_
    extract_lets +onlyGivenNames t
    extract_lets +onlyGivenNames u
    have hu : MemoryCanonical u := by
      unfold u
      refine MemoryCanonical.updateMs ?_
      exact h
    refine .either ?_ hu.setStage
    split
    · exact hu.setSeq
    · exact hu

end Sys2Proof.Safety
end

section
/-! What transfers, calls, windows, barriers and the system instructions keep (R256 to R274, R344, R373 to R385). -/
namespace Sys2Proof.Safety
open Sys2Proof.Machine
variable {s : State}

theorem MemoryCanonical.seqJump (h : MemoryCanonical s) {cl q pc} : NextCanonical (seqJump s cl q pc) := h.setSeq
theorem MemoryCanonical.seqCall (h : MemoryCanonical s) {cl q ret pc} : NextCanonical (seqCall s cl q ret pc) := .either h.seqFault h.setSeq
theorem MemoryCanonical.seqRet (h : MemoryCanonical s) {cl q} : NextCanonical (seqRet s cl q) := by
  unfold Machine.seqRet
  split
  · exact h.seqFault
  · exact h.setSeq
theorem MemoryCanonical.bySeq (_h : MemoryCanonical s) {onFibre} {onSeq : ℕ → Machine.Seq → Result} (honSeq : ∀ a b, NextCanonical (onSeq a
    b)) (honFibre : NextCanonical onFibre) :
    NextCanonical (bySeq s onSeq onFibre) := by
  unfold Machine.bySeq
  split
  · split
    · exact honSeq _ _
    · trivial
  · exact honFibre
theorem MemoryCanonical.transfer (h : MemoryCanonical s) {f e i x} : NextCanonical (transfer s f e i x) := h.setInst
theorem MemoryCanonical.execJmp (h : MemoryCanonical s) {off} : NextCanonical (execJmp off s) := by
  unfold Machine.execJmp
  exact MemoryCanonical.bySeq h (fun _ _ => h.seqJump) (h.withNode (fun _ _ _ _ => h.transfer))
theorem MemoryCanonical.branch (h : MemoryCanonical s) {sense p off} : NextCanonical (branch sense p off s) := by
  unfold Machine.branch
  exact MemoryCanonical.bySeq h (fun _ _ => .either h.seqJump h.setSeq) (h.withNode (fun _ _ _ _ => h.transfer))
theorem MemoryCanonical.execBrt (h : MemoryCanonical s) {p off} : NextCanonical (execBrt p off s) := h.branch
theorem MemoryCanonical.execBrf (h : MemoryCanonical s) {p off} : NextCanonical (execBrf p off s) := h.branch
/-- What holds of a recursion over a list: of its value at the empty list, and of each next value from the one before. -/
theorem brecOn_induction {α β : Type} {F : (l : List α) → List.below (motive := fun _ => β) l → β} {P : β → Prop}
    (nil : P (F [] ⟨⟩)) (cons : ∀ a r x b, P x → P (F (a :: r) ⟨x, b⟩)) (l : List α) : P (List.brecOn (motive := fun _ => β) l F) := by
  induction l with
  | nil => exact nil
  | cons a r ih => exact cons a r _ _ ih
/-- The translation of a stored dword is made opaque first: its address is so large a number that evaluating it must be avoided. -/
theorem MemoryCanonical.planSpill (h : MemoryCanonical s) {w job e fsp l} : MemoryCanonical (s.planSpill w job e fsp l).1 := by
  have hR : ∀ {t}, MemoryCanonical t → ∀ w ea n al need, MemoryCanonical (t.resolve w ea n al need).1 := fun h _ _ _ _ _ => h.resolve
  delta State.planSpill State.planSpill._f
  revert hR
  obtain ⟨R, hR⟩ : ∃ R, R = @State.resolve := ⟨_, rfl⟩
  rw [← hR]
  clear hR
  intro hR
  refine brecOn_induction (P := fun g : State → State × Option (Except Bad (List StoreOp)) => ∀ s, MemoryCanonical s → MemoryCanonical (g
      s).1)
    (fun _ h => h) (fun a r g b ih s h => ?_) l s h
  obtain ⟨off, v⟩ := a
  dsimp only
  split
  · exact (hR h _ _ _ _ _).planStore.answered ‹_›
  · exact (hR h _ _ _ _ _).planStore.answered ‹_›
  · have hp := (hR h _ _ _ _ _).planStore.answered ‹_›
    split
    · exact (ih _ hp).answered ‹_›
    · exact ih _ hp
theorem MemoryCanonical.callNode (h : MemoryCanonical s) {f e i xs target adv} :
    NextCanonical (Machine.callNode s f e i xs target adv) := by
  unfold Machine.callNode
  split
  · trivial
  · refine .either h ?_
    extract_lets +onlyGivenNames v nw
    refine .either h.failNode (.either h.transfer (.either h ?_))
    extract_lets +onlyGivenNames fsp
    refine .either h.failNode ?_
    have hp : MemoryCanonical (s.planSpill (s.whoNode f e) (s.jobOf f) e fsp (spillWords v.stack)).1 := h.planSpill
    split
    · exact hp.answered ‹_›
    · exact (hp.answered ‹_›).failNode
    · exact (hp.answered ‹_›).clearFresh.transfer
theorem MemoryCanonical.execCall (h : MemoryCanonical s) {k off} : NextCanonical (execCall k off s) := by
  unfold Machine.execCall
  exact MemoryCanonical.bySeq h (fun _ _ => h.seqCall) (h.withNode (fun _ _ _ _ => h.callNode))
theorem MemoryCanonical.trampTrap (h : MemoryCanonical s) {f e} : NextCanonical (trampTrap s f e) := h.nodeFault
theorem MemoryCanonical.execTramp (h : MemoryCanonical s) {off} : NextCanonical (execTramp off s) := by
  unfold Machine.execTramp
  exact MemoryCanonical.bySeq h (fun _ _ => .either h.seqJump h.seqFault) (h.withNode (fun _ _ _ _ => .either h.transfer h.trampTrap))
theorem MemoryCanonical.execTrampLink (h : MemoryCanonical s) {k off} : NextCanonical (execTrampLink k off s) := by
  unfold Machine.execTrampLink
  exact MemoryCanonical.bySeq h (fun _ _ => .either h.seqCall h.seqFault) (h.withNode (fun _ _ _ _ => .either h.callNode h.trampTrap))
theorem MemoryCanonical.execBri (h : MemoryCanonical s) {a} : NextCanonical (execBri a s) := by
  unfold Machine.execBri
  exact MemoryCanonical.bySeq h (fun _ _ => h.seqJump) (h.withNode (fun _ _ _ _ => h.transfer))
theorem MemoryCanonical.execCalli (h : MemoryCanonical s) {a k} : NextCanonical (execCalli a k s) := by
  unfold Machine.execCalli
  exact MemoryCanonical.bySeq h (fun _ _ => h.seqCall) (h.withNode (fun _ _ _ _ => h.callNode))
theorem MemoryCanonical.readRecord (h : MemoryCanonical s) {f e i w fsp l} : MemoryCanonical (s.readRecord f e i w fsp l).1 := by
  induction l generalizing s with
  | nil => exact h
  | cons a r ih =>
    rw [State.readRecord]
    split
    split
    split
    · exact h.resolve.answered ‹_›
    · extract_lets +onlyGivenNames t
      have ht : MemoryCanonical t := .either ((h.resolve.answered ‹_›).settleLoads) (h.resolve.answered ‹_›)
      split
      · split
        · exact (ih (ht.loadWith.answered ‹_›)).answered ‹_›
        · exact ih (ht.loadWith.answered ‹_›)
      · exact ht.loadWith
theorem MemoryCanonical.retNode (h : MemoryCanonical s) {f e i} : NextCanonical (retNode s f e i) := by
  unfold Machine.retNode
  split
  · trivial
  · extract_lets +onlyGivenNames v
    split
    · exact .either h.transfer h.failNode
    · refine .either h.failNode ?_
      refine .either h ?_
      extract_lets +onlyGivenNames fsp held
      split
      · exact h.readRecord.answered ‹_›
      · exact (h.readRecord.answered ‹_›).failNode
      · split
        · exact (h.readRecord.answered ‹_›).failNode
        · exact ((h.readRecord.answered ‹_›).clearFresh).transfer
theorem MemoryCanonical.execRet (h : MemoryCanonical s) : NextCanonical (execRet s) := by
  unfold Machine.execRet
  exact MemoryCanonical.bySeq h (fun _ _ => h.seqRet) (h.withNode (fun _ _ _ _ => h.retNode))
theorem MemoryCanonical.execExit (h : MemoryCanonical s) : NextCanonical (execExit s) := by
  unfold Machine.execExit
  exact MemoryCanonical.bySeq h (fun _ _ => .either h.endProgram h) (h.withNode (fun _ _ _ _ => h.transfer))
theorem MemoryCanonical.execYield (h : MemoryCanonical s) {a} : NextCanonical (execYield a s) := h.withNode (fun _ _ _ _ => h.transfer)
theorem MemoryCanonical.execFork (h : MemoryCanonical s) {d a b} :
    NextCanonical (execFork d a b s) := h.withNode (fun _ _ _ _ => .either h.failEmulated h.setInst)
theorem MemoryCanonical.execWinb (h : MemoryCanonical s) {a} : NextCanonical (execWinb a s) := by
  unfold Machine.execWinb
  refine MemoryCanonical.withNode h (fun f e i xs => ?_)
  refine .either h.failEmulated ?_
  split
  · trivial
  · exact .either h.setInst h.failNode
theorem MemoryCanonical.arriveNode (h : MemoryCanonical s) {f e b i x} : MemoryCanonical (s.arriveNode f e b i x).1 := by
  unfold State.arriveNode
  split
  · exact h
  · split
    · exact h
    · extract_lets +onlyGivenNames t
      have ht : MemoryCanonical t := h.performLoads
      split
      · exact ht
      · split
        · exact ht.arriveBar.answered ‹_›
        · exact h
theorem MemoryCanonical.stopAtBar (h : MemoryCanonical s) {f x} : MemoryCanonical (s.stopAtBar f x) := .either h.discard h
theorem MemoryCanonical.barNode (h : MemoryCanonical s) {wait f e b i} : NextCanonical (barNode s wait f e b i) := by
  unfold Machine.barNode
  split
  · trivial
  · refine .either h.failEmulated ?_
    refine .either h ?_
    split
    · exact h.arriveNode.answered ‹_›
    · split
      · exact h.arriveNode.answered ‹_›
      · exact (((h.arriveNode.answered ‹_›).setInst).checkBar).stopAtBar
theorem MemoryCanonical.execBar (h : MemoryCanonical s) {n} : NextCanonical (execBar n s) := h.withNode (fun _ _ _ _ => h.barNode)
theorem MemoryCanonical.execArrive (h : MemoryCanonical s) {n} : NextCanonical (execArrive n s) := h.withNode (fun _ _ _ _ => h.barNode)
theorem MemoryCanonical.execAwait (h : MemoryCanonical s) {n} :
    NextCanonical (execAwait n s) := h.afterCommit (fun _ _ _ _ h => .either h h.popPost)
theorem MemoryCanonical.execSteer (h : MemoryCanonical s) {d a p} :
    NextCanonical (execSteer d a p s) := h.withNode (fun _ _ _ _ => h.setInst)
theorem MemoryCanonical.execMerge (h : MemoryCanonical s) {d a b p} : NextCanonical (execMerge d a b p s) := by
  unfold Machine.execMerge
  refine MemoryCanonical.withNode h (fun f e i _ => ?_)
  split
  · exact h
  · exact h.setInst
  · exact h.setInst
theorem MemoryCanonical.execSel (h : MemoryCanonical s) {d a b p} :
    NextCanonical (execSel d a b p s) := h.withNode (fun _ _ _ _ => h.setInst)
theorem MemoryCanonical.execPget (h : MemoryCanonical s) {d n} : NextCanonical (execPget d n s) := h.withNode (fun _ _ _ _ => h.setInst)
theorem MemoryCanonical.execPset (h : MemoryCanonical s) {a n} : NextCanonical (execPset a n s) := h.withNode (fun _ _ _ _ => h.setInst)

theorem MemoryCanonical.execRdsr (h : MemoryCanonical s) {d n} : NextCanonical (execRdsr d n s) := by
  unfold Machine.execRdsr
  refine MemoryCanonical.bySeq h (fun cl q => ?_) (h.withNode (fun _ _ _ _ => h.setInst))
  split
  · exact h.setSeq
  · exact h.illegalSeq
theorem MemoryCanonical.execWrsr (h : MemoryCanonical s) {n a} : NextCanonical (execWrsr n a s) := h.withNode (fun _ _ _ _ => h.setInst)
theorem MemoryCanonical.execClock (h : MemoryCanonical s) {d a} : NextCanonical (execClock d a s) := h.compute
theorem MemoryCanonical.execPerfc (h : MemoryCanonical s) {d k} : NextCanonical (execPerfc d k s) := by
  unfold Machine.execPerfc
  exact MemoryCanonical.bySeq h (fun _ _ => h.setSeq) (h.withNode (fun _ _ _ _ => h.setInst))
theorem MemoryCanonical.execNop (h : MemoryCanonical s) : NextCanonical (execNop s) := by
  unfold Machine.execNop
  exact MemoryCanonical.bySeq h (fun _ _ => h.setSeq) (h.withNode (fun _ _ _ _ => h.setInst))
theorem MemoryCanonical.execTrap (h : MemoryCanonical s) {a} : NextCanonical (execTrap a s) := by
  unfold Machine.execTrap
  exact MemoryCanonical.bySeq h (fun _ _ => h.seqFault) (h.withNode (fun _ _ _ _ => h.nodeFault))
theorem MemoryCanonical.execBkpt (h : MemoryCanonical s) {k} : NextCanonical (execBkpt k s) := by
  unfold Machine.execBkpt
  exact MemoryCanonical.bySeq h (fun _ _ => h.setSeq) (h.withNode (fun _ _ _ _ => .either h.nodeFault h.setInst))
theorem MemoryCanonical.resumeNode (h : MemoryCanonical s) {f e i skip xs} : NextCanonical (resumeNode s f e i skip xs) := by
  unfold Machine.resumeNode
  split
  · trivial
  · exact .either h.transfer h.failEmulated
theorem MemoryCanonical.execResumeRetry (h : MemoryCanonical s) :
    NextCanonical (execResumeRetry s) := h.withNode (fun _ _ _ _ => h.resumeNode)
theorem MemoryCanonical.execResumeSkip (h : MemoryCanonical s) {a} :
    NextCanonical (execResumeSkip a s) := h.withNode (fun _ _ _ _ => h.resumeNode)
theorem MemoryCanonical.execEmulret (h : MemoryCanonical s) {a} :
    NextCanonical (execEmulret a s) := h.withNode (fun _ _ _ _ => .either h.transfer h.failEmulated)
theorem MemoryCanonical.execMul24 (h : MemoryCanonical s) {d a b} : NextCanonical (execMul24 d a b s) := h.cullet
theorem MemoryCanonical.execFmadsat (h : MemoryCanonical s) {d a b} : NextCanonical (execFmadsat d a b s) := h.cullet
theorem MemoryCanonical.execCvt16z (h : MemoryCanonical s) {d a} : NextCanonical (execCvt16z d a s) := h.cullet
theorem MemoryCanonical.execLaneid (h : MemoryCanonical s) {d} : NextCanonical (execLaneid d s) := h.cullet
theorem MemoryCanonical.execShfl (h : MemoryCanonical s) {d a b} : NextCanonical (execShfl d a b s) := h.cullet
theorem MemoryCanonical.execVote (h : MemoryCanonical s) {d a n} : NextCanonical (execVote d a n s) := h.cullet

end Sys2Proof.Safety
end

section
/-! What windows, copies and the accesses of agents that do not wait keep (R110, R118 to R121, R127, R128, R330 to R341, R368, R402). -/
namespace Sys2Proof.Safety
open Sys2Proof.Machine
variable {s : State}

theorem MemoryCanonical.withCopyNode (h : MemoryCanonical s) {l ds} {k : ℕ → ℕ → Inst → Gather → List Dword → Result} (hk : ∀ a b c d e,
    NextCanonical (k a b c d e)) :
    NextCanonical (withCopyNode s l ds k) := by
  unfold Machine.withCopyNode
  refine MemoryCanonical.withNode h (fun f e i xs => ?_)
  refine .either h.failEmulated ?_
  split
  · trivial
  · exact hk _ _ _ _ _
theorem MemoryCanonical.spmapPost (h : MemoryCanonical s) {f n p} : NextCanonical (spmapPost f n p s) := h.update.modGather.popPost
theorem MemoryCanonical.atHead (h : MemoryCanonical s) {node} {perform : ℕ → Fibre → PostOp → State → Result} (hperform : ∀ a b c s,
    MemoryCanonical s → NextCanonical (perform a b c s)) (hnode : NextCanonical node) :
    NextCanonical (atHead s perform node) := by
  unfold Machine.atHead
  split
  · split
    · trivial
    · split
      · trivial
      · exact hperform _ _ _ _ h
  · exact hnode
theorem MemoryCanonical.execSpmap (h : MemoryCanonical s) {a b c} : NextCanonical (execSpmap a b c s) := by
  unfold Machine.execSpmap
  refine MemoryCanonical.atHead h (fun _ _ _ _ h => h.spmapPost) ?_
  refine MemoryCanonical.withCopyNode h (fun f e i g xs => ?_)
  extract_lets +onlyGivenNames cx off
  split
  · exact h.failNode
  · exact h.addPost.setGather
theorem MemoryCanonical.setCopies (h : MemoryCanonical s) {core l} : MemoryCanonical (s.setCopies core l) := h.updateMs
theorem MemoryCanonical.issueCopy (h : MemoryCanonical s) {f tag kind p} :
    MemoryCanonical (s.issueCopy f tag kind p) := h.update.setCopies.modGather.popPost
theorem MemoryCanonical.issuePost (h : MemoryCanonical s) {tag kind f n p} :
    NextCanonical (issuePost tag kind f n p s) := .either h.issueCopy h
theorem MemoryCanonical.retireWin (h : MemoryCanonical s) {g off} : MemoryCanonical (s.retireWin g off) := by
  unfold State.retireWin
  split
  · exact h
  · split
    · exact h
    · exact h.setSp.setGather
theorem MemoryCanonical.commitUnmaps (h : MemoryCanonical s) {f ps} : MemoryCanonical (s.commitUnmaps f ps) := by
  unfold State.commitUnmaps
  refine MemoryCanonical.foldl h fun s a h => ?_
  split
  · exact h.retireWin
  · exact h
theorem MemoryCanonical.spunmapPost (h : MemoryCanonical s) {tag f n p} :
    NextCanonical (spunmapPost tag f n p s) := .either h.modGather.issueCopy h
theorem MemoryCanonical.execSpunmap (h : MemoryCanonical s) {t a} : NextCanonical (execSpunmap t a s) := by
  unfold Machine.execSpunmap
  exact MemoryCanonical.atHead h (fun _ _ _ _ h => h.spunmapPost) (h.withCopyNode (fun _ _ _ _ _ => .either h.addPost.setGather h.failNode))
theorem MemoryCanonical.execSpwb (h : MemoryCanonical s) {t a b} : NextCanonical (execSpwb t a b s) := by
  unfold Machine.execSpwb
  refine MemoryCanonical.atHead h (fun _ _ _ _ h => h.issuePost) ?_
  refine MemoryCanonical.withCopyNode h (fun f e i g xs => ?_)
  split
  · exact h.failNode
  · exact h.addPost
theorem MemoryCanonical.execSpinv (h : MemoryCanonical s) {a b} : NextCanonical (execSpinv a b s) := by
  unfold Machine.execSpinv
  refine MemoryCanonical.atHead h (fun _ _ _ _ h => h.popPost) ?_
  refine MemoryCanonical.withCopyNode h (fun f e i g xs => ?_)
  split
  · exact h.failNode
  · exact h.addPost
theorem MemoryCanonical.commitSpinv (h : MemoryCanonical s) {f ps} : MemoryCanonical (s.commitSpinv f ps) := by
  unfold State.commitSpinv
  refine MemoryCanonical.foldl h fun s a h => ?_
  split
  · exact h.modGather
  · exact h
theorem MemoryCanonical.execSpcpy (h : MemoryCanonical s) {t a b c} : NextCanonical (execSpcpy t a b c s) := by
  unfold Machine.execSpcpy
  refine MemoryCanonical.atHead h (fun _ _ _ _ h => h.issuePost) ?_
  refine MemoryCanonical.withCopyNode h (fun f e i g xs => ?_)
  extract_lets +onlyGivenNames cx len
  split
  · exact h.failNode
  · exact h.failNode
  · exact h.addPost
theorem MemoryCanonical.execSpfill (h : MemoryCanonical s) {t a b c} : NextCanonical (execSpfill t a b c s) := by
  unfold Machine.execSpfill
  refine MemoryCanonical.atHead h (fun _ _ _ _ h => h.issuePost) ?_
  refine MemoryCanonical.withCopyNode h (fun f e i g xs => ?_)
  extract_lets +onlyGivenNames cx
  split
  · exact h.failNode
  · exact h.addPost
theorem MemoryCanonical.prefetch (h : MemoryCanonical s) {f a k} : MemoryCanonical (s.prefetch f a k) := by
  unfold State.prefetch
  extract_lets +onlyGivenNames ctx
  refine .either h ?_
  split
  · exact h
  · extract_lets +onlyGivenNames pa
    refine .either h ?_
    extract_lets +onlyGivenNames t
    have ht : MemoryCanonical t := h.xlate.answered ‹_›
    refine .either ht ?_
    split
    · exact ht.visit.drainTo.share
    · exact .either ht.l1Fill ht.share
theorem MemoryCanonical.execPref (h : MemoryCanonical s) {a k} : NextCanonical (execPref a k s) := by
  unfold Machine.execPref
  exact MemoryCanonical.atHead h (fun _ _ _ _ h => h.prefetch.popPost) (h.withCopyNode (fun _ _ _ _ _ => h.addPost))
theorem MemoryCanonical.execIpref (h : MemoryCanonical s) {a k} : NextCanonical (execIpref a k s) := by
  unfold Machine.execIpref
  exact MemoryCanonical.atHead h (fun _ _ _ _ h => h.setFabric.popPost) (h.withCopyNode (fun _ _ _ _ _ => h.addPost))
theorem MemoryCanonical.copyNode (h : MemoryCanonical s) {op f e i xs} : NextCanonical (copyNode s op f e i xs) := by
  unfold Machine.copyNode
  extract_lets +onlyGivenNames a
  refine .either h ?_
  extract_lets +onlyGivenNames w
  split
  split
  refine .either ((h.resolve.answered ‹_›).failNode) ?_
  refine .either (h.resolve.answered ‹_›) ?_
  extract_lets +onlyGivenNames t
  have ht : MemoryCanonical t := .either ((h.resolve.answered ‹_›).settleLoads) (h.resolve.answered ‹_›)
  split
  · exact ht.loadWith.answered ‹_›
  · exact (ht.loadWith.answered ‹_›).failNode
  · exact ((ht.loadWith.answered ‹_›).clearFresh).addPost
theorem MemoryCanonical.execCpy (h : MemoryCanonical s) {t a b c} : NextCanonical (execCpy t a b c s) := by
  unfold Machine.execCpy
  exact MemoryCanonical.atHead h (fun _ _ _ _ h => h.issuePost) (h.withCopyNode (fun _ _ _ _ _ => h.copyNode))
theorem MemoryCanonical.execCpyr (h : MemoryCanonical s) {t a b} : NextCanonical (execCpyr t a b s) := by
  unfold Machine.execCpyr
  exact MemoryCanonical.atHead h (fun _ _ _ _ h => h.issuePost) (h.withCopyNode (fun _ _ _ _ _ => h.copyNode))
theorem MemoryCanonical.execCpyp (h : MemoryCanonical s) {t a b} : NextCanonical (execCpyp t a b s) := by
  unfold Machine.execCpyp
  exact MemoryCanonical.atHead h (fun _ _ _ _ h => h.issuePost) (h.withCopyNode (fun _ _ _ _ _ => h.copyNode))
theorem MemoryCanonical.execCpyg (h : MemoryCanonical s) {t a b} : NextCanonical (execCpyg t a b s) := by
  unfold Machine.execCpyg
  exact MemoryCanonical.atHead h (fun _ _ _ _ h => h.issuePost) (h.withCopyNode (fun _ _ _ _ _ => h.copyNode))
theorem MemoryCanonical.emptySlots (h : MemoryCanonical s) {f slot n} : MemoryCanonical (s.emptySlots f slot n) := by
  induction n generalizing s slot with
  | zero => exact h
  | succ n ih =>
    rw [State.emptySlots]
    exact ih h.update.setProds.clearSlot
theorem MemoryCanonical.commitCopy (h : MemoryCanonical s) {f p} : MemoryCanonical (s.commitCopy f p).1 := by
  unfold State.commitCopy
  split
  · exact h
  · exact .eitherFst h.emptySlots h
theorem MemoryCanonical.commitCopies (h : MemoryCanonical s) {f l} : MemoryCanonical (s.commitCopies f l).1 := by
  induction l generalizing s with
  | nil => exact h
  | cons a r ih =>
    rw [State.commitCopies]
    split
    exact ih (h.commitCopy.answered ‹_›)
theorem MemoryCanonical.spotMem (h : MemoryCanonical s) {o pa va wr lim} : MemoryCanonical (s.spotMem o pa va wr lim).1 := by
  unfold State.spotMem
  split
  · exact h
  · split
    · exact h
    · extract_lets +onlyGivenNames die home
      dsimp only
      split
      · exact h.visit.drainTo.share
      · exact h.share
theorem MemoryCanonical.spotOwn (h : MemoryCanonical s) {o pa va wr} :
    MemoryCanonical (s.spotOwn o pa va wr).1 := .eitherFst h (.eitherFst h h.visit.drainLine.share)
theorem MemoryCanonical.spotGlobal (h : MemoryCanonical s) {o ctx job va wr sz8} :
    MemoryCanonical (s.spotGlobal o ctx job va wr sz8).1 := by
  unfold State.spotGlobal
  extract_lets +onlyGivenNames need
  split
  · exact h
  · split
    · exact h.xlate.answered ‹_›
    · split
      · exact h.xlate.answered ‹_›
      · extract_lets +onlyGivenNames pa
        split
        · exact .eitherFst (h.xlate.answered ‹_›) (.eitherFst (h.xlate.answered ‹_›) (h.xlate.answered ‹_›))
        · exact (h.xlate.answered ‹_›).spotMem
        · exact (h.xlate.answered ‹_›).spotMem
        · split
          · exact ((h.xlate.answered ‹_›).outsidePlace).answered ‹_›
          · exact ((h.xlate.answered ‹_›).outsidePlace).answered ‹_›
          · exact ((h.xlate.answered ‹_›).outsidePlace).answered ‹_›
          · exact .eitherFst ((((h.xlate.answered ‹_›).outsidePlace).answered ‹_›).spotOwn) (((h.xlate.answered ‹_›).outsidePlace).answered
                ‹_›)
          · exact ((h.xlate.answered ‹_›).outsidePlace).answered ‹_›
theorem MemoryCanonical.spotScratch (h : MemoryCanonical s) {o va wr} : MemoryCanonical (s.spotScratch o va wr).1 := by
  unfold State.spotScratch
  split
  · exact h
  · split
    · exact h
    · split
      · exact h
      · split
        · split <;> exact h.xlate.answered ‹_›
        · split
          · exact h
          · split <;> exact h.fillNow.answered ‹_›
theorem MemoryCanonical.spotPeer (h : MemoryCanonical s) {o ctx job n va wr sz8} :
    MemoryCanonical (s.spotPeer o ctx job n va wr sz8).1 := .eitherFst h.spotGlobal (.eitherFst h h)
theorem MemoryCanonical.spot (h : MemoryCanonical s) {o ctx job kind peer va wr sz8} :
    MemoryCanonical (s.spot o ctx job kind peer va wr sz8).1 := by
  unfold State.spot
  split
  · exact h.spotPeer
  · split
    · exact h.spotGlobal
    · exact h.spotScratch
    · exact h
    · exact h
theorem MemoryCanonical.spots (h : MemoryCanonical s) {n va} {f : State → ℕ → State × Found} (hf : ∀ s a, MemoryCanonical s →
    MemoryCanonical (f s a).1) :
    MemoryCanonical (s.spots f n va).1 := by
  induction n generalizing s va with
  | zero => exact h
  | succ n ih =>
    rw [State.spots]
    split
    · exact ih ((h.orWait (hf _ _ h)).answered ‹_›)
    · exact ih ((h.orWait (hf _ _ h)).answered ‹_›)
    · exact (h.orWait (hf _ _ h)).answered ‹_›
theorem MemoryCanonical.spotByte (h : MemoryCanonical s) {ga n} : MemoryCanonical (s.spotByte ga n).1 := by
  unfold State.spotByte
  split
  · exact h
  · exact h
  · exact h
  · exact h.update
theorem MemoryCanonical.spotBytes (h : MemoryCanonical s) {ga l} : MemoryCanonical (s.spotBytes ga l).1 := by
  induction l generalizing s with
  | nil => exact h
  | cons a r ih =>
    rw [State.spotBytes]
    split
    exact ih (h.spotByte.answered ‹_›)
theorem MemoryCanonical.copyIndex (h : MemoryCanonical s) {o ctx job ga idx r} : MemoryCanonical (s.copyIndex o ctx job ga idx r).1 := by
  unfold State.copyIndex
  extract_lets +onlyGivenNames va kind
  split
  · exact ((h.spots (fun _ _ h => h.spot)).answered ‹_›).spotBytes
  · exact (h.spots (fun _ _ h => h.spot)).answered ‹_›
  · exact (h.spots (fun _ _ h => h.spot)).answered ‹_›
  · exact (h.spots (fun _ _ h => h.spot)).answered ‹_›
theorem MemoryCanonical.rowSource (h : MemoryCanonical s) {o ctx job ga n r} : MemoryCanonical (s.rowSource o ctx job ga n r).1 := by
  unfold State.rowSource
  split
  · exact h
  · split
    · exact h.copyIndex.answered ‹_›
    · exact .eitherFst (h.copyIndex.answered ‹_›) (.eitherFst (h.copyIndex.answered ‹_›) (h.copyIndex.answered ‹_›))
theorem MemoryCanonical.visitSpots (h : MemoryCanonical s) {xs} : MemoryCanonical (s.visitSpots xs) := by
  unfold State.visitSpots
  split
  · exact h.visitOut
  · exact h
theorem MemoryCanonical.refusedAt (h : MemoryCanonical s) {xs} : MemoryCanonical (s.refusedAt xs).1 := by
  unfold State.refusedAt
  split
  · exact h
  · exact h.update.update
theorem MemoryCanonical.copyRow (h : MemoryCanonical s) {o ctx job ga n r} : MemoryCanonical (s.copyRow o ctx job ga n r).1 := by
  unfold State.copyRow
  extract_lets +onlyGivenNames sz8
  split
  · exact h.rowSource.answered ‹_›
  · extract_lets +onlyGivenNames da
    split
    split
    split
    · exact ((((h.rowSource.answered ‹_›).spots (fun _ _ h => h.spot)).answered ‹_›).spots (fun _ _ h => h.spot)).answered ‹_›
    · extract_lets +onlyGivenNames bad
      split
      split
      exact ((((((((((h.rowSource.answered ‹_›).spots (fun _ _ h => h.spot)).answered ‹_›).spots (fun _ _ h => h.spot)).answered
          ‹_›).visitSpots).refusedAt).answered ‹_›).refusedAt).answered ‹_›).spotBytes
theorem MemoryCanonical.copyRows (h : MemoryCanonical s) {o ctx job ga k n m} : MemoryCanonical (s.copyRows o ctx job ga k n m).1 := by
  induction n generalizing s m with
  | zero => exact h
  | succ n ih =>
    rw [State.copyRows]
    split
    · exact ih (h.copyRow.answered ‹_›)
    · exact h.copyRow.answered ‹_›
    · exact h.copyRow.answered ‹_›
    · exact h.copyRow.answered ‹_›
    · exact ih (h.copyRow.answered ‹_›)
theorem MemoryCanonical.someOf (h : MemoryCanonical s) {last l} : MemoryCanonical (s.someOf last l).1 := by
  induction l generalizing s last with
  | nil => exact h
  | cons x r ih =>
    rw [State.someOf.eq_def]
    dsimp only
    refine ih (s := (match last with
      | some (j, b) => if j = x.dst.key / 8 then (s, b) else s.takeBit
      | none => s.takeBit).1) ?_
    split
    · split
      · exact h
      · exact h.takeBit
    · exact h.takeBit
theorem MemoryCanonical.overlapped (h : MemoryCanonical s) {m l} : MemoryCanonical (s.overlapped m l).1 := by
  induction l generalizing s m with
  | nil => exact h
  | cons a r ih =>
    rw [State.overlapped]
    split
    split
    dsimp only
    refine MemoryCanonical.answered ?_ ‹_›
    refine ih ?_
    refine MemoryCanonical.answered ?_ ‹_›
    split
    · exact .eitherFst h h.update
    · exact h
theorem MemoryCanonical.spotWrite (h : MemoryCanonical s) {o set ws} :
    MemoryCanonical (s.spotWrite o set ws) := h.flushLines.postWrite.postWrite.scratchWrite.outsideWrite.chipWrite
theorem MemoryCanonical.clearWay (h : MemoryCanonical s) {core own ls} :
    MemoryCanonical (s.clearWay core own ls) :=
      h.foldl fun _ _ h => h.writebackSome.attempt (fun _ h => .either ((MemoryCanonical.either h.drainLine h).own) h)
theorem MemoryCanonical.giveSlots (h : MemoryCanonical s) {p l} : MemoryCanonical (s.giveSlots p l) := by
  induction l generalizing s p with
  | nil => exact h
  | cons a r ih =>
    rw [State.giveSlots]
    exact ih h.modProd
theorem MemoryCanonical.fillSources (h : MemoryCanonical s) {o ctx job ga k n m} :
    MemoryCanonical (s.fillSources o ctx job ga k n m).1 := by
  induction n generalizing s m with
  | zero => exact h
  | succ n ih =>
    rw [State.fillSources]
    split
    · exact h.rowSource.answered ‹_›
    · split
      · exact ih (((h.rowSource.answered ‹_›).spots (fun _ _ h => h.spotScratch)).answered ‹_›)
      · exact ((h.rowSource.answered ‹_›).spots (fun _ _ h => h.spotScratch)).answered ‹_›
theorem MemoryCanonical.runCopy (h : MemoryCanonical s) {o n} : MemoryCanonical (s.runCopy o n).1 := by
  unfold State.runCopy
  split
  · exact h
  · next ga _ =>
    extract_lets +onlyGivenNames job
    have hf : MemoryCanonical (if n.skind = 1 && s.intoPad ga n then s.fillSources o ga.ctx job ga n n.rows 0 else (s, none)).1 :=
      h.fillSources.eitherFst h
    split
    · exact hf.answered ‹_›
    · exact hf.answered ‹_›
    · have ht := hf.answered ‹_›
      split
      have hu := ht.copyRows.answered ‹_›
      split
      · exact hu
      · extract_lets +onlyGivenNames rows
        split
        have hv := hu.someOf.answered ‹_›
        extract_lets +onlyGivenNames ms inside
        split
        have hw := (hv.takeBit.eitherFst hv).answered ‹_›
        split
        have hy := (MemoryCanonical.eitherFst hw hw.overlapped).answered ‹_›
        extract_lets +onlyGivenNames t u
        have hu' : MemoryCanonical u := hy.clearWay.spotWrite
        split
        · exact hy.clearWay
        · extract_lets +onlyGivenNames w
          refine .either ?_ hu'
          split
          · exact hu'.giveSlots
          · exact hu'
theorem MemoryCanonical.cleanWords (h : MemoryCanonical s) {g ws} : MemoryCanonical (s.cleanWords g ws) := h.modGather
theorem MemoryCanonical.backMem (h : MemoryCanonical s) {b ga win bounded pa w0 ws} :
    MemoryCanonical (s.backMem b ga win bounded pa w0 ws).1 := .eitherFst h.cleanWords h.flushLines.postWrite.l1Drop.cleanWords
theorem MemoryCanonical.lineBack (h : MemoryCanonical s) {b ga win words} : MemoryCanonical (s.lineBack b ga win words).1 := by
  unfold State.lineBack
  extract_lets +onlyGivenNames unit
  split
  · exact h
  · extract_lets +onlyGivenNames ws va
    split
    · exact h.xlate.answered ‹_›
    · extract_lets +onlyGivenNames refused
      split
      · exact h.xlate.answered ‹_›
      · extract_lets +onlyGivenNames pa
        split
        · split
          exact ((h.xlate.answered ‹_›).backMem).answered ‹_›
        · split
          · exact ((h.xlate.answered ‹_›).outsidePlace).answered ‹_›
          · exact ((h.xlate.answered ‹_›).outsidePlace).answered ‹_›
          · exact ((((h.xlate.answered ‹_›).outsidePlace).answered ‹_›).outsideWrite).cleanWords
theorem MemoryCanonical.linesBack (h : MemoryCanonical s) {b win l} : MemoryCanonical (s.linesBack b win l).1 := by
  induction l generalizing s with
  | nil => exact h
  | cons a r ih =>
    rw [State.linesBack]
    split
    · exact h
    · split
      exact ih (h.lineBack.answered ‹_›)
theorem MemoryCanonical.wayBack (h : MemoryCanonical s) {b win words} : MemoryCanonical (s.wayBack b win words) := by
  unfold State.wayBack
  refine MemoryCanonical.attempt h (fun s h => ?_)
  split
  · exact h
  · split
    · exact h
    · extract_lets +onlyGivenNames va
      split
      · exact h.xlate.answered ‹_›
      · exact .either ((h.xlate.answered ‹_›).clearWay) (h.xlate.answered ‹_›)
theorem MemoryCanonical.rangeBack (h : MemoryCanonical s) {b win off len} :
    MemoryCanonical (s.rangeBack b win off len).1 :=
      .eitherFst ((h.foldl fun _ _ h => h.wayBack).updateMs) (((h.foldl fun _ _ h => h.wayBack).linesBack).clearFresh)
theorem MemoryCanonical.endWin (h : MemoryCanonical s) {b k} : MemoryCanonical (s.endWin b k).1 := by
  unfold State.endWin
  split
  · exact h
  · split
    · exact h
    · split
      · exact h.rangeBack.answered ‹_›
      · exact (h.rangeBack.answered ‹_›).modGather
theorem MemoryCanonical.fillLines (h : MemoryCanonical s) {agent unit g l} : MemoryCanonical (s.fillLines agent unit g l).1 := by
  induction l generalizing s with
  | nil => exact h
  | cons a r ih =>
    rw [State.fillLines]
    split
    · exact h
    · split
      · exact ih h
      · split
        exact ih ((h.orWait h.fillNow).answered ‹_›)
theorem MemoryCanonical.perform (h : MemoryCanonical s) {o} : MemoryCanonical (s.perform o).1 := by
  unfold State.perform
  split
  · exact h
  · extract_lets +onlyGivenNames c set
    split
    · split
      · exact h
      · exact h.rangeBack
    · split
      · exact h
      · exact h.endWin
    · exact h.fillLines
    · exact h.runCopy
    · split
      · exact h
      · exact h.runCopy
theorem MemoryCanonical.noteError (h : MemoryCanonical s) {lid e} : MemoryCanonical (s.noteError lid e) := by
  unfold State.noteError
  split
  · exact h
  · exact h.modLaunch
theorem MemoryCanonical.leaveWin (h : MemoryCanonical s) {g off len} : MemoryCanonical (s.leaveWin g off len) := h.updateMs
theorem MemoryCanonical.freeWindow (h : MemoryCanonical s) {g off} : MemoryCanonical (s.freeWindow g off) := by
  unfold State.freeWindow
  split
  · exact h
  · exact (h.foldl fun _ _ h => h.leaveWin).modGather
theorem MemoryCanonical.endCopy (h : MemoryCanonical s) {core i o e} : MemoryCanonical (s.endCopy core i o e) := by
  unfold State.endCopy
  extract_lets +onlyGivenNames t u v w
  have ht : MemoryCanonical t := h.clearFresh.dropProds
  have hu : MemoryCanonical u := ht.setCopies
  have hv : MemoryCanonical v := by
    unfold v
    split
    · exact hu.noteError
    · exact hu
  have hw : MemoryCanonical w := by
    unfold w
    split
    · exact hv.freeWindow
    · exact hv
  exact hw.modGather
theorem MemoryCanonical.settleCopy (h : MemoryCanonical s) {core i o e} :
    MemoryCanonical (s.settleCopy core i o e) := .either h.setCopies h.endCopy
theorem MemoryCanonical.execCopyOperationComplete (h : MemoryCanonical s) {core i} :
    NextCanonical (execCopyOperationComplete core i s) := by
  unfold Machine.execCopyOperationComplete
  split
  · exact h
  · split
    · exact h.settleCopy
    · split
      · exact h.update.perform.answered ‹_›
      · exact (h.update.perform.answered ‹_›).settleCopy
theorem MemoryCanonical.tagNode (h : MemoryCanonical s) {l d fn} :
    NextCanonical (tagNode s l d fn) := h.withCopyNode (fun _ _ _ _ _ => h.setInst)
theorem MemoryCanonical.execFfr (h : MemoryCanonical s) {d a} : NextCanonical (execFfr d a s) := h.tagNode
theorem MemoryCanonical.execTags (h : MemoryCanonical s) {d} : NextCanonical (execTags d s) := h.tagNode
theorem MemoryCanonical.tagPost (h : MemoryCanonical s) {l d op fn upd} : NextCanonical (tagPost s l d op fn upd) := by
  unfold Machine.tagPost
  refine MemoryCanonical.atHead h (fun f _ p s h => ?_) (h.withCopyNode (fun _ _ _ _ _ => h.addPost))
  split
  · trivial
  · refine .either h ?_
    split
    · exact h
    · exact h.setGather.donePost
theorem MemoryCanonical.execWany (h : MemoryCanonical s) {d a} : NextCanonical (execWany d a s) := h.tagPost
theorem MemoryCanonical.execWall (h : MemoryCanonical s) {d a} : NextCanonical (execWall d a s) := h.tagPost
theorem MemoryCanonical.execTagclr (h : MemoryCanonical s) {d a} : NextCanonical (execTagclr d a s) := h.tagPost
theorem MemoryCanonical.commitReserved (h : MemoryCanonical s) {f} : MemoryCanonical (s.commitReserved f) := h.modGather

theorem MemoryCanonical.checkPiece (h : MemoryCanonical s) {unit ctx need p} : MemoryCanonical (s.checkPiece unit ctx need p).1 := by
  unfold State.checkPiece
  split
  split
  · exact h
  · split
    · exact h.xlate.answered ‹_›
    · extract_lets +onlyGivenNames pa
      split
      · exact h.xlate.answered ‹_›
      · split
        · exact .either (h.xlate.answered ‹_›) ((h.xlate.answered ‹_›).foldl fun _ _ h => h.drainLine)
        · split
          · exact (((h.xlate.answered ‹_›).outsidePlace).answered ‹_›).holdBack
          · exact ((h.xlate.answered ‹_›).outsidePlace).answered ‹_›
          · exact ((h.xlate.answered ‹_›).outsidePlace).answered ‹_›
theorem MemoryCanonical.checkPieces (h : MemoryCanonical s) {unit ctx need l} : MemoryCanonical (s.checkPieces unit ctx need l).1 := by
  induction l generalizing s with
  | nil => exact h
  | cons a r ih =>
    rw [State.checkPieces]
    split
    exact ih (h.checkPiece.answered ‹_›)
theorem MemoryCanonical.range (h : MemoryCanonical s) {unit ctx need va n} :
    MemoryCanonical (s.range unit ctx need va n).1 := .either h.checkPieces h.checkPieces.clearFresh
theorem MemoryCanonical.readPieces (h : MemoryCanonical s) {die l} : MemoryCanonical (s.readPieces die l).1 := by
  induction l generalizing s with
  | nil => exact h
  | cons a r ih =>
    rw [State.readPieces]
    split
    split
    · exact (MemoryCanonical.eitherFst (h.foldl fun _ _ h => h.share) h.outsideRead).answered ‹_›
    · split <;> exact (ih ((MemoryCanonical.eitherFst (h.foldl fun _ _ h => h.share) h.outsideRead).answered ‹_›)).answered ‹_›
theorem MemoryCanonical.readVirt (h : MemoryCanonical s) {unit die ctx va n} : MemoryCanonical (s.readVirt unit die ctx va n).1 := by
  unfold State.readVirt
  split
  · exact h.range.answered ‹_›
  · exact (h.range.answered ‹_›).readPieces
theorem MemoryCanonical.writePiece (h : MemoryCanonical s) {die p bs} :
    MemoryCanonical (s.writePiece die p bs) := .either h.outsideWrite (.either ((h.foldl fun _ _ h => h.visit).boundedWrite) h.writeAt)
theorem MemoryCanonical.writePieces (h : MemoryCanonical s) {die l bs} : MemoryCanonical (s.writePieces die l bs) := by
  induction l generalizing s bs with
  | nil => exact h
  | cons a r ih =>
    rw [State.writePieces]
    exact ih h.writePiece
theorem MemoryCanonical.writeVirt (h : MemoryCanonical s) {unit die ctx va bs} : MemoryCanonical (s.writeVirt unit die ctx va bs).1 := by
  unfold State.writeVirt
  split
  · exact h.range.answered ‹_›
  · exact (h.range.answered ‹_›).writePieces
theorem MemoryCanonical.readPhys (h : MemoryCanonical s) {pa n} :
    MemoryCanonical (s.readPhys pa n).1 :=
      .eitherFst (.eitherFst (h.foldl fun _ _ h => h.drainLine) ((h.foldl fun _ _ h => h.drainLine).foldl fun _ _ h => h.share)) h
theorem MemoryCanonical.busEnd (h : MemoryCanonical s) {err} : MemoryCanonical (s.busEnd err) := h.update
theorem MemoryCanonical.mgmtRead (h : MemoryCanonical s) {pa n} : MemoryCanonical (s.mgmtRead pa n).1 := by
  unfold State.mgmtRead
  extract_lets +onlyGivenNames got
  have hgot : MemoryCanonical got.1 := by
    unfold got
    split
    · exact h
    · exact h.readPhys
  clear_value got
  split <;> exact hgot.busEnd
theorem MemoryCanonical.mgmtMapWrite (h : MemoryCanonical s) {off bs} :
    MemoryCanonical (s.mgmtMapWrite off bs) := .either h.busEnd h.chipWrite.busEnd
theorem MemoryCanonical.writePhys (h : MemoryCanonical s) {pa bs} : MemoryCanonical (s.writePhys pa bs) := h.boundedWrite

end Sys2Proof.Safety
end

section
/-! What launches, placements and rendezvous keep (R71 to R78, R157, R158, R276, R277, R389 to R405). -/
namespace Sys2Proof.Safety
open Sys2Proof.Machine
variable {s : State}

theorem MemoryCanonical.readRanges (h : MemoryCanonical s) {unit die ctx r} : MemoryCanonical (s.readRanges unit die ctx r).1 := by
  unfold State.readRanges
  split
  · exact h
  · split <;> exact h.readVirt.answered ‹_›
theorem MemoryCanonical.writeRecord (h : MemoryCanonical s) {ctx crec off info id kind status cause tval} :
    MemoryCanonical (s.writeRecord ctx crec off info id kind status cause tval) := .either h h.writeVirt
theorem MemoryCanonical.setGroup (h : MemoryCanonical s) {k g} : MemoryCanonical (s.setGroup k g) := h.update
theorem MemoryCanonical.endGroup (h : MemoryCanonical s) {k g} : MemoryCanonical (s.endGroup k g) := h.setGroup.writeRecord
theorem MemoryCanonical.checkGroup (h : MemoryCanonical s) {k} : MemoryCanonical (s.checkGroup k) := by
  unfold State.checkGroup
  split
  · exact .either h.endGroup h
  · exact h
theorem MemoryCanonical.checkJob (h : MemoryCanonical s) {job} : MemoryCanonical (s.checkJob job) := by
  unfold State.checkJob
  split
  · exact .either h.update h
  · exact h
theorem MemoryCanonical.finishLaunch (h : MemoryCanonical s) {lid} : MemoryCanonical (s.finishLaunch lid) := by
  unfold State.finishLaunch
  split
  · exact h
  · exact .either h ((h.modLaunch.update.endTiles.writeRecord.checkGroup.foldl fun _ _ h => h.checkGroup).checkJob)
theorem MemoryCanonical.failLaunch (h : MemoryCanonical s) {lid st info} :
    MemoryCanonical (s.failLaunch lid st info) := h.modLaunch.finishLaunch
theorem MemoryCanonical.wantObj (h : MemoryCanonical s) {n} : MemoryCanonical (s.wantObj n) := by
  unfold State.wantObj
  split
  · exact h
  · exact .either h.update h
theorem MemoryCanonical.loadingStep (h : MemoryCanonical s) {lid} : MemoryCanonical (s.loadingStep lid) := by
  unfold State.loadingStep
  split
  · exact h
  · refine .either h ?_
    split
    · exact h.failLaunch
    · refine .either h.wantObj ?_
      split
      · exact h.failLaunch
      · exact .either h.modLaunch h.failLaunch
theorem MemoryCanonical.orderedStep (h : MemoryCanonical s) {lid} : MemoryCanonical (s.orderedStep lid) := by
  unfold State.orderedStep
  split
  · exact h
  · exact .either h.modLaunch h
theorem MemoryCanonical.boundStep (h : MemoryCanonical s) {lid} : MemoryCanonical (s.boundStep lid) := by
  unfold State.boundStep
  split
  · exact h
  · exact .either h.modLaunch h
theorem MemoryCanonical.progressOne (h : MemoryCanonical s) {lid} :
    MemoryCanonical (s.progressOne lid) := h.loadingStep.orderedStep.boundStep
theorem MemoryCanonical.progress (h : MemoryCanonical s) : MemoryCanonical (s.progress) := h.foldl fun _ _ h => h.progressOne
theorem MemoryCanonical.joinGroup (h : MemoryCanonical s) {job number isPhase ctx phaseId} :
    MemoryCanonical (s.joinGroup job number isPhase ctx phaseId).1 := by
  unfold State.joinGroup
  split
  · exact h
  · exact h.update.setGroup
theorem MemoryCanonical.closeGroup (h : MemoryCanonical s) {k closer crec ctx} :
    MemoryCanonical (s.closeGroup k closer crec ctx) := h.update
theorem MemoryCanonical.accept (h : MemoryCanonical s) {q qu r rng byHost} : MemoryCanonical (s.accept q qu r rng byHost) := by
  unfold State.accept
  extract_lets +onlyGivenNames job ctx lid
  split
  split
  extract_lets +onlyGivenNames other l t u v w
  have hu : MemoryCanonical u := (((h.joinGroup.answered ‹_›).joinGroup).answered ‹_›).update
  have hv : MemoryCanonical v := .either hu.closeGroup hu
  have hw : MemoryCanonical w := .either hv.closeGroup hv
  extract_lets +onlyGivenNames y
  have hy : MemoryCanonical y := by
    unfold y
    split
    · exact hw.failLaunch
    · exact hw.failLaunch
    · exact hw.failLaunch
    · exact .either hw hw.failLaunch
  exact hy.progress
theorem MemoryCanonical.cancelNow (h : MemoryCanonical s) {lid info} : MemoryCanonical (s.cancelNow lid info) := by
  unfold State.cancelNow
  split
  · exact h
  · exact .either h (.either h.cancelLaunch (.either h.cancelLaunch.finishLaunch h.cancelLaunch))
theorem MemoryCanonical.cancelWhere (h : MemoryCanonical s) {p info} :
    MemoryCanonical (s.cancelWhere p info) := h.foldl fun _ _ h => h.cancelNow
theorem MemoryCanonical.markGroups (h : MemoryCanonical s) {ks info} :
    MemoryCanonical (s.markGroups ks info) := h.foldl fun _ _ h => h.update
theorem MemoryCanonical.stopQueues (h : MemoryCanonical s) {job} : MemoryCanonical (s.stopQueues job) := h.update
theorem MemoryCanonical.cancelUnit (h : MemoryCanonical s) {job lvl a info} : MemoryCanonical (s.cancelUnit job lvl a info) := by
  unfold State.cancelUnit
  extract_lets +onlyGivenNames i
  split
  · exact h.cancelNow
  · exact h.markGroups.cancelWhere
  · exact h.markGroups.cancelWhere
  · exact h.stopQueues.cancelWhere
theorem MemoryCanonical.execCancel (h : MemoryCanonical s) {d a lvl} :
    NextCanonical (execCancel d a lvl s) :=
      h.afterCommit (fun _ _ _ _ h => MemoryCanonical.either h.donePost.cancelUnit.progress h.donePost)
theorem MemoryCanonical.setQueue (h : MemoryCanonical s) {q x} : MemoryCanonical (s.setQueue q x) := h.update
theorem MemoryCanonical.execQcfgWrite (h : MemoryCanonical s) {q dw v} :
    NextCanonical (execQcfgWrite q dw v s) := MemoryCanonical.either h.setQueue h
theorem MemoryCanonical.execIngressPortWrite (h : MemoryCanonical s) {func off bytes} :
    NextCanonical (execIngressPortWrite func off bytes s) := .either h (.either h.setQueue h.writePhys.setQueue)
theorem MemoryCanonical.takeRecord (h : MemoryCanonical s) {q} : MemoryCanonical (s.takeRecord q) := by
  unfold State.takeRecord
  extract_lets +onlyGivenNames x
  refine .either h ?_
  extract_lets +onlyGivenNames y t
  have ht : MemoryCanonical t := h.setQueue
  split
  · exact (ht.readPhys.answered ‹_›).setQueue
  · extract_lets +onlyGivenNames r
    refine .either ((ht.readPhys.answered ‹_›).setQueue) ?_
    split
    · exact (((ht.readPhys.answered ‹_›).readRanges).answered ‹_›).setQueue
    · exact (((ht.readPhys.answered ‹_›).readRanges).answered ‹_›).accept
theorem MemoryCanonical.execLaunchAcceptance (h : MemoryCanonical s) {q} : NextCanonical (execLaunchAcceptance q s) := h.takeRecord
theorem MemoryCanonical.submit (h : MemoryCanonical s) {f a b} : MemoryCanonical (s.submit f a b).1 := by
  unfold State.submit
  extract_lets +onlyGivenNames x job ctx
  split
  · exact h
  · split
    · exact h
    · split
      · exact h.readVirt.answered ‹_›
      · extract_lets +onlyGivenNames r
        split
        · exact h.readVirt.answered ‹_›
        · split
          · exact ((h.readVirt.answered ‹_›).readRanges).answered ‹_›
          · exact .eitherFst (((h.readVirt.answered ‹_›).readRanges).answered ‹_›) (((((h.readVirt.answered ‹_›).readRanges).answered
                ‹_›).foldl fun _ _ h => h.takeRecord).accept)
theorem MemoryCanonical.launchPost (h : MemoryCanonical s) {f x p} : NextCanonical (launchPost f x p s) := by
  unfold Machine.launchPost
  split
  · exact .either h.performLoads.drainSome h.performLoads.drainSome.sendTokens.setStage
  · split
    exact (h.submit.answered ‹_›).donePost
  · exact h
theorem MemoryCanonical.execLaunch (h : MemoryCanonical s) {d a b} :
    NextCanonical (execLaunch d a b s) := h.afterCommit (fun _ _ _ _ h => h.launchPost)

theorem MemoryCanonical.setPart (h : MemoryCanonical s) {core p} : MemoryCanonical (s.setPart core p) := h.updateMs
theorem MemoryCanonical.flushL1 (h : MemoryCanonical s) {core} : MemoryCanonical (s.flushL1 core) := h.writebackSome.dropClean
theorem MemoryCanonical.execCspartWrite (h : MemoryCanonical s) {core v} :
    NextCanonical (execCspartWrite core v s) := .either h (.either h.setPart (.either h ((MemoryCanonical.either h h.flushL1).setPart)))
theorem MemoryCanonical.execL1FlushComplete (h : MemoryCanonical s) {core} :
    NextCanonical (execL1FlushComplete core s) := MemoryCanonical.either (.either h.flushL1.setPart h.flushL1) h
theorem MemoryCanonical.execRepartitionBankEmpty (h : MemoryCanonical s) {core} : NextCanonical (execRepartitionBankEmpty core s) := by
  unfold Machine.execRepartitionBankEmpty
  extract_lets +onlyGivenNames p
  split
  · exact h
  · exact MemoryCanonical.either h h.setPart
theorem MemoryCanonical.clearAlloc (h : MemoryCanonical s) {ga} : MemoryCanonical (s.clearAlloc ga) := h.updateMs
theorem MemoryCanonical.startFibres (h : MemoryCanonical s) {g l k gi} :
    MemoryCanonical (s.startFibres g l k gi) := h.foldl fun _ _ h => h.setFibre.fillSlot.joinSet
theorem MemoryCanonical.goOn (h : MemoryCanonical s) {lid} : MemoryCanonical (s.goOn lid) := h.update
theorem MemoryCanonical.placeGather (h : MemoryCanonical s) {lid l k core n lv sp} :
    MemoryCanonical (s.placeGather lid l k core n lv sp) := (MemoryCanonical.either
      h.update.clearAlloc.setGather.acquireDrops.startFibres.goOn h.update.clearAlloc.setGather.acquireDrops.startFibres).modLaunch
theorem MemoryCanonical.execGatherPlacement (h : MemoryCanonical s) : NextCanonical (execGatherPlacement s) := by
  unfold Machine.execGatherPlacement
  split
  · exact h
  · exact h.placeGather
theorem MemoryCanonical.execBindRecordWrite (h : MemoryCanonical s) {die idx dw v} :
    NextCanonical (execBindRecordWrite die idx dw v s) := .either h h.update.progress
theorem MemoryCanonical.endWins (h : MemoryCanonical s) {lid g set} : MemoryCanonical (s.endWins lid g set).1 := by
  unfold State.endWins
  refine MemoryCanonical.foldlFst h fun p a h => ?_
  split
  · exact h.endWin.answered ‹_›
  · exact (h.endWin.answered ‹_›).noteError
theorem MemoryCanonical.unbind (h : MemoryCanonical s) {gid} : MemoryCanonical (s.unbind gid) := h.update
theorem MemoryCanonical.removeGather (h : MemoryCanonical s) {g ga} :
    MemoryCanonical (s.removeGather g ga) := h.clearAlloc.unbind.updateMs.trimSets
theorem MemoryCanonical.exitGather (h : MemoryCanonical s) {g} : MemoryCanonical (s.exitGather g) := by
  unfold State.exitGather
  split
  · exact h
  · next ga _ =>
    extract_lets +onlyGivenNames set t
    have ht : MemoryCanonical t := h.update
    clear_value t
    have he : MemoryCanonical (t.endWins ga.lid g set).1 := ht.endWins
    split
    extract_lets +onlyGivenNames u
    have hu : MemoryCanonical u := (he.answered ‹_›).drainSome
    exact .either hu hu.removeGather.modLaunch
theorem MemoryCanonical.execGatherExit (h : MemoryCanonical s) {g} : NextCanonical (execGatherExit g s) := by
  unfold Machine.execGatherExit
  split
  · exact h
  · exact MemoryCanonical.either h (.either (.either h.update.drainDie.exitGather h.update.drainDie) h.exitGather)
theorem MemoryCanonical.execLaunchCompletion (h : MemoryCanonical s) {lid} : NextCanonical (execLaunchCompletion lid s) := by
  unfold Machine.execLaunchCompletion
  split
  · exact h
  · exact MemoryCanonical.either h.finishLaunch.progress h
theorem MemoryCanonical.execJobClose (h : MemoryCanonical s) {job} : NextCanonical (execJobClose job s) := by
  unfold Machine.execJobClose
  split
  · exact h
  · exact h.update.checkJob

theorem MemoryCanonical.eforkPost (h : MemoryCanonical s) {f n p} : NextCanonical (eforkPost f n p s) := by
  unfold Machine.eforkPost
  extract_lets +onlyGivenNames cl
  refine .either h.donePost ?_
  split
  · trivial
  · exact .either h.performLoads.drainSome (.either h.performLoads.drainSome.donePost h.performLoads.drainSome.setSeq.donePost)
theorem MemoryCanonical.execEfork (h : MemoryCanonical s) {d a b} :
    NextCanonical (execEfork d a b s) := h.afterCommit (fun _ _ _ _ h => h.eforkPost)
theorem MemoryCanonical.execSequencerProgramStart (h : MemoryCanonical s) {cl} : NextCanonical (execSequencerProgramStart cl s) := by
  unfold Machine.execSequencerProgramStart
  split
  · exact h
  · split
    · exact h
    · exact MemoryCanonical.either h h.setSeq
theorem MemoryCanonical.rdvPost (h : MemoryCanonical s) {n f x p} :
    NextCanonical (rdvPost n f x p s) := .either h (.either h.performLoads.drainSome h.performLoads.drainSome.setSeq.setStage)
theorem MemoryCanonical.execRdv (h : MemoryCanonical s) {n} : NextCanonical (execRdv n s) := h.afterCommit (fun _ _ _ _ h => h.rdvPost)
theorem MemoryCanonical.releaseRdv (h : MemoryCanonical s) {f} : MemoryCanonical (s.releaseRdv f) := h.acquireDrop.popPost
theorem MemoryCanonical.execSequencerRdv (h : MemoryCanonical s) {a n} : NextCanonical (execSequencerRdv a n s) := by
  unfold Machine.execSequencerRdv
  split
  · split
    · trivial
    · exact .either h.illegalSeq (.either h.setSeq (.either h.setSeq (h.setSeq.foldl fun _ _ h => h.releaseRdv)))
  · trivial

end Sys2Proof.Safety
end

section
/-! What the matrix instructions keep (R200 to R202, R348 to R372). -/
namespace Sys2Proof.Safety
open Sys2Proof.Machine
variable {s : State}

theorem MemoryCanonical.putTile (h : MemoryCanonical s) {cl id rows} : MemoryCanonical (s.putTile cl id rows) := h.update

theorem MemoryCanonical.fillWords (h : MemoryCanonical s) {unit l} : MemoryCanonical (s.fillWords unit l).1 := by
  induction l generalizing s with
  | nil => exact h
  | cons a r ih =>
    rw [State.fillWords]
    split
    · exact ih h
    · split
      · exact ih h
      · split
        · exact (h.fillNow.answered ‹_›).holdBack
        · exact h.fillNow.answered ‹_›
        · exact ih (h.fillNow.answered ‹_›)
theorem MemoryCanonical.fillSpans (h : MemoryCanonical s) {unit ps} : MemoryCanonical (s.fillSpans unit ps).1 := h.fillWords
theorem MemoryCanonical.checkResult (h : MemoryCanonical s) {unit ctx ps} : MemoryCanonical (s.checkResult unit ctx ps).1 := by
  unfold State.checkResult
  extract_lets +onlyGivenNames vas
  refine MemoryCanonical.foldlFst h fun p a h => ?_
  split
  · exact h
  · split <;> exact h.xlate.answered ‹_›
theorem MemoryCanonical.writeSpan (h : MemoryCanonical s) {p bs} : MemoryCanonical (s.writeSpan p bs) := by
  unfold State.writeSpan
  extract_lets +onlyGivenNames cs gs
  refine MemoryCanonical.foldl h fun s a h => ?_
  split
  · exact h.scratchWrite
  · exact h
theorem MemoryCanonical.onSeq (_h : MemoryCanonical s) {k : ℕ → Machine.Seq → Result} (hk : ∀ a b, NextCanonical (k a b)) :
    NextCanonical (onSeq s k) := by
  unfold Machine.onSeq
  split
  · split
    · exact hk _ _
    · trivial
  · trivial
theorem MemoryCanonical.failVal (h : MemoryCanonical s) {cl x} : NextCanonical (failVal s cl x) := h.failSeq
theorem MemoryCanonical.issueMat (h : MemoryCanonical s) {cl q words op ctl engines tiles reads writes data} {after : List MatData → State
    → Machine.Seq → State × Machine.Seq} (hafter : ∀ a s b, MemoryCanonical s → MemoryCanonical (after a s b).1) :
    NextCanonical (issueMat s cl q words op ctl engines tiles reads writes data after) := by
  unfold Machine.issueMat
  refine .either h.setSeq ?_
  refine .either h ?_
  split
  · exact (h.checkResult.answered ‹_›).failSeq
  · split
    · exact (((h.checkResult.answered ‹_›).fillSpans).answered ‹_›).failSeq
    · exact ((hafter _ _ _ (((h.checkResult.answered ‹_›).fillSpans).answered ‹_›)).count).seqDone
theorem MemoryCanonical.readTileDesc (h : MemoryCanonical s) {cl q loc fov} : MemoryCanonical (s.readTileDesc cl q loc fov).1 := by
  unfold State.readTileDesc
  split
  · exact h
  · split
    · exact h
    · split
      · exact h.fillSpans.answered ‹_›
      · exact .eitherFst (h.fillSpans.answered ‹_›) (h.fillSpans.answered ‹_›)
theorem MemoryCanonical.planOperand (h : MemoryCanonical s) {cl q loc fov along} :
    MemoryCanonical (s.planOperand cl q loc fov along).1 := by
  unfold State.planOperand
  split <;> exact h.readTileDesc.answered ‹_›
theorem MemoryCanonical.planAs (h : MemoryCanonical s) {cl q loc fov along n} : MemoryCanonical (s.planAs cl q loc fov along n).1 := by
  induction n generalizing s loc with
  | zero => exact h
  | succ n ih =>
    rw [State.planAs]
    split
    · exact h.planOperand.answered ‹_›
    · split <;> exact (ih (h.planOperand.answered ‹_›)).answered ‹_›
theorem MemoryCanonical.planB (h : MemoryCanonical s) {cl q c e b} : MemoryCanonical (s.planB cl q c e b).1 := by
  unfold State.planB
  extract_lets fov fresh
  have hfresh (l : Dword) : MemoryCanonical (fresh s l).1 := by
    unfold fresh
    split <;> exact h.planOperand.answered ‹_›
  split
  · split
    · exact h
    · split
      · exact h
      · exact hfresh _
  · exact hfresh _
theorem MemoryCanonical.failMat (h : MemoryCanonical s) {cl n} : NextCanonical (failMat s cl n) := by
  unfold Machine.failMat
  split
  · exact h.illegalSeq
  · exact h.failSeq
theorem MemoryCanonical.mmaAfter (h : MemoryCanonical s) {c tiles engines loc int cl ds q} :
    MemoryCanonical (mmaAfter c tiles engines loc int cl ds s q).1 := .either (h.foldl fun _ _ h => h.setOwn) h
theorem MemoryCanonical.execMma (h : MemoryCanonical s) {ctl a b} : NextCanonical (execMma ctl a b s) := by
  unfold Machine.execMma
  refine MemoryCanonical.onSeq h (fun cl q => ?_)
  extract_lets +onlyGivenNames cv c tiles engines
  refine .either h.failVal ?_
  refine .either h.illegalSeq ?_
  split
  · exact h.failSeq
  · refine .either h ?_
    split
    · exact (h.planAs.answered ‹_›).failMat
    · split
      · exact (((h.planAs.answered ‹_›).planB).answered ‹_›).failMat
      · exact .either ((((h.planAs.answered ‹_›).planB).answered ‹_›).illegalSeq) ((((h.planAs.answered ‹_›).planB).answered ‹_›).issueMat
            (fun _ _ _ h => h.mmaAfter))
theorem MemoryCanonical.noAfter (h : MemoryCanonical s) {n q} : MemoryCanonical (noAfter n s q).1 := h
theorem MemoryCanonical.execMdelta (h : MemoryCanonical s) {ctl a b} : NextCanonical (execMdelta ctl a b s) := by
  unfold Machine.execMdelta
  refine MemoryCanonical.onSeq h (fun cl q => ?_)
  extract_lets +onlyGivenNames cv c t id
  refine .either h.failVal ?_
  refine .either h.illegalSeq ?_
  refine .either h.failSeq ?_
  refine .either h.illegalSeq ?_
  split
  · exact h.failSeq
  · exact h.failSeq
  · exact h.issueMat (fun _ _ _ h => h.noAfter)
theorem MemoryCanonical.execMscan (h : MemoryCanonical s) {ctl a b} : NextCanonical (execMscan ctl a b s) := by
  unfold Machine.execMscan
  refine MemoryCanonical.onSeq h (fun cl q => ?_)
  extract_lets +onlyGivenNames cv c t id
  refine .either h.failVal ?_
  refine .either h.illegalSeq ?_
  refine .either h.failSeq ?_
  refine .either h.illegalSeq ?_
  split
  · exact h.failSeq
  · exact h.failSeq
  · exact h.issueMat (fun _ _ _ h => h.noAfter)
theorem MemoryCanonical.xferCheck {r : Result} (h : MemoryCanonical s) {cl q c a ok} (e : Machine.xferCheck s cl q c a ok = .error r) :
    NextCanonical r := by
  unfold Machine.xferCheck at e
  dsimp only at e
  split at e
  · cases e; exact h.failVal
  split at e
  · cases e; exact h.illegalSeq
  split at e
  · cases e; exact h.failVal
  split at e
  · cases e; exact h.failSeq
  split at e
  · cases e; exact h.failSeq
  · cases e
theorem MemoryCanonical.execMout (h : MemoryCanonical s) {ctl a} : NextCanonical (Machine.execMout ctl a s) := by
  unfold Machine.execMout
  refine h.onSeq fun cl q => ?_
  extract_lets +onlyGivenNames cv x
  split
  · exact h.xferCheck ‹_›
  · split
    · exact h.failSeq
    · exact h.issueMat fun _ _ _ h => h
theorem MemoryCanonical.execMlda (h : MemoryCanonical s) {ctl a} : NextCanonical (Machine.execMlda ctl a s) := by
  unfold Machine.execMlda
  refine h.onSeq fun cl q => ?_
  extract_lets +onlyGivenNames cv x
  split
  · exact h.xferCheck ‹_›
  · split
    · exact h.failSeq
    · exact h.issueMat fun _ _ _ h => h
theorem MemoryCanonical.tileId (h : MemoryCanonical s) {cl x} {k : ℕ → Result} (hk : ∀ a, NextCanonical (k a)) :
    NextCanonical (tileId s cl x k) := .either h.failVal (hk _)
theorem MemoryCanonical.execMzero (h : MemoryCanonical s) {a ty} :
    NextCanonical (execMzero a ty s) := h.onSeq (fun _ _ => h.tileId (fun _ => .either h.failSeq (h.issueMat (fun _ _ _ h => h.setOwn))))
theorem MemoryCanonical.touchTile (h : MemoryCanonical s) {cl id fn} : MemoryCanonical (s.touchTile cl id fn) := h.setOwn
theorem MemoryCanonical.deltaRun (h : MemoryCanonical s) {ro bf l ws st} : MemoryCanonical (s.deltaRun ro bf l ws st).1 := by
  induction l generalizing s ws st with
  | nil => exact h
  | cons a r ih =>
    rw [State.deltaRun]
    split
    extract_lets +onlyGivenNames out t
    have ht : MemoryCanonical t := by
      unfold t
      split
      · exact h.writeSpan
      · exact h
    exact ih ht
theorem MemoryCanonical.runMat (h : MemoryCanonical s) {cl m} : MemoryCanonical (s.runMat cl m) := by
  unfold State.runMat
  extract_lets +onlyGivenNames c id
  split
  · exact h.foldl fun _ _ h => h.putTile.touchTile
  · exact h.deltaRun.putTile.touchTile
  · exact h.putTile.touchTile
  · exact h.foldl fun _ _ h => h.writeSpan
  · exact h.putTile.touchTile
  · exact h.putTile.touchTile
  · exact h
theorem MemoryCanonical.lateTiles (h : MemoryCanonical s) {lid} : MemoryCanonical (s.lateTiles lid) := .either h.endTiles h
theorem MemoryCanonical.execMatComplete (h : MemoryCanonical s) {cl i} : NextCanonical (execMatComplete cl i s) := by
  unfold Machine.execMatComplete
  split
  · exact h
  · split
    · exact h
    · exact MemoryCanonical.either (h.setSeq.asAgent (fun _ h => h.runMat.lateTiles)) h
theorem MemoryCanonical.spillTile (h : MemoryCanonical s) {cl id ctx job va kind} :
    MemoryCanonical (s.spillTile cl id ctx job va kind).1 := h.writeVirt
/-- The read of a tile's image is made opaque first: it is so long that evaluating it must be avoided. -/
theorem MemoryCanonical.fillTile (h : MemoryCanonical s) {cl id ctx job va} : MemoryCanonical (s.fillTile cl id ctx job va).1 := by
  obtain ⟨F, hF⟩ : ∃ F, F = @State.fillTile := ⟨_, rfl⟩
  rw [← hF]
  delta State.fillTile at hF
  obtain ⟨R, hR⟩ : ∃ R, R = @State.readVirt := ⟨_, rfl⟩
  rw [← hR] at hF
  have hr : ∀ {t}, MemoryCanonical t → ∀ unit die ctx va n, MemoryCanonical (R t unit die ctx va n).1 := by
    subst hR; exact fun h _ _ _ _ _ => h.readVirt
  clear hR
  rw [hF]
  dsimp only
  split
  · exact (hr h _ _ _ _ _).answered ‹_›
  · split
    · exact (hr h _ _ _ _ _).answered ‹_›
    · exact ((hr h _ _ _ _ _).answered ‹_›).putTile.setOwn
/-- The read of a tile's image is made opaque first: it is so long that evaluating it must be avoided. -/
theorem MemoryCanonical.pinNew (h : MemoryCanonical s) {cl q pref x} : MemoryCanonical (s.pinNew cl q pref x).1 := by
  obtain ⟨F, hF⟩ : ∃ F, F = @State.pinNew := ⟨_, rfl⟩
  rw [← hF]
  delta State.pinNew at hF
  obtain ⟨R, hR⟩ : ∃ R, R = @State.readVirt := ⟨_, rfl⟩
  obtain ⟨T, hT⟩ : ∃ T, T = @State.fillTile := ⟨_, rfl⟩
  rw [← hR, ← hT] at hF
  have hr : ∀ {t}, MemoryCanonical t → ∀ unit die ctx va n, MemoryCanonical (R t unit die ctx va n).1 := by
    subst hR; exact fun h _ _ _ _ _ => h.readVirt
  have ht : ∀ {t}, MemoryCanonical t → ∀ cl id ctx job va, MemoryCanonical (T t cl id ctx job va).1 := by
    subst hT; exact fun h _ _ _ _ _ => h.fillTile
  clear hR hT
  rw [hF]
  dsimp only
  split
  · exact (hr h _ _ _ _ _).answered ‹_›
  · next t bs _ =>
    have hu : MemoryCanonical t := (hr h _ _ _ _ _).answered ‹_›
    have hp : MemoryCanonical (if leNat (bs.take 4) = 0 then
        ((t.putTile cl pref zeroTile).setOwn cl pref { t.own? cl pref with int32 := false, tokens := 0, dirty := true }, none)
      else T t cl pref q.ctx q.job x).1 := by
      split
      · exact hu.putTile.setOwn
      · exact ht hu _ _ _ _ _
    split
    · exact hp
    · exact hp.setOwn
theorem MemoryCanonical.execMpin (h : MemoryCanonical s) {d a b} : NextCanonical (Machine.execMpin d a b s) := by
  refine h.onSeq fun cl q => h.tileId fun pref => ?_
  refine .either h.failSeq (.either h.failSeq ?_)
  split
  · exact .either h (.either h.failSeq h.setOwn.seqDone)
  · refine .either h (.either h.failSeq ?_)
    split
    · exact (h.pinNew.answered ‹_›).failSeq
    · exact (h.pinNew.answered ‹_›).seqDone
theorem MemoryCanonical.execMunpin (h : MemoryCanonical s) {a} : NextCanonical (execMunpin a s) := by
  unfold Machine.execMunpin
  refine MemoryCanonical.onSeq h (fun cl q => ?_)
  refine MemoryCanonical.tileId h (fun id => ?_)
  extract_lets +onlyGivenNames o
  refine .either h ?_
  refine .either h.failSeq ?_
  split
  split
  · exact ((MemoryCanonical.eitherFst h.spillTile h).answered ‹_›).failSeq
  · exact (((MemoryCanonical.eitherFst h.spillTile h).answered ‹_›).setOwn).seqDone
theorem MemoryCanonical.execMspill (h : MemoryCanonical s) {a b} : NextCanonical (execMspill a b s) := by
  unfold Machine.execMspill
  refine MemoryCanonical.onSeq h (fun cl q => ?_)
  refine MemoryCanonical.tileId h (fun id => ?_)
  extract_lets +onlyGivenNames o va
  refine .either h ?_
  refine .either ?_ ?_
  · refine .either h.failSeq ?_
    split
    · exact (h.spillTile.answered ‹_›).failSeq
    · exact ((h.spillTile.answered ‹_›).setOwn).seqDone
  · refine .either h.failSeq ?_
    refine .either h.failSeq ?_
    split
    · exact (h.spillTile.answered ‹_›).failSeq
    · exact (h.spillTile.answered ‹_›).seqDone
/-- The read of a tile's image is made opaque first: it is so long that evaluating it must be avoided. -/
theorem MemoryCanonical.execMfill (h : MemoryCanonical s) {a b} : NextCanonical (Machine.execMfill a b s) := by
  obtain ⟨F, hF⟩ : ∃ F, F = @Machine.execMfill := ⟨_, rfl⟩
  rw [← hF]
  delta Machine.execMfill at hF
  obtain ⟨S, hS⟩ : ∃ S, S = @State.spillTile := ⟨_, rfl⟩
  obtain ⟨T, hT⟩ : ∃ T, T = @State.fillTile := ⟨_, rfl⟩
  rw [← hS, ← hT] at hF
  have hs : ∀ {t}, MemoryCanonical t → ∀ cl id ctx job va k, MemoryCanonical (S t cl id ctx job va k).1 := by
    subst hS; exact fun h _ _ _ _ _ _ => h.spillTile
  have ht : ∀ {t}, MemoryCanonical t → ∀ cl id ctx job va, MemoryCanonical (T t cl id ctx job va).1 := by
    subst hT; exact fun h _ _ _ _ _ => h.fillTile
  clear hS hT
  rw [hF]
  dsimp only
  have fill (cl : Nat) (q : Machine.Seq) (id : Nat) {t} (hu : MemoryCanonical t) : NextCanonical (match
        T t cl id q.ctx q.job (q.read b) with
      | (s, some b) => Machine.failSeq s cl b
      | (s, none) => .next ((s.setOwn cl id { s.own? cl id with
          st := .active, handle := 0, job := q.job, launch := q.lid }).seqDone cl q (matWords [a, b]))) := by
    split
    · exact ((ht hu _ _ _ _ _).answered ‹_›).failSeq
    · exact ((ht hu _ _ _ _ _).answered ‹_›).setOwn.seqDone
  refine h.onSeq fun cl q => h.tileId fun id => ?_
  rcases s.holderOf cl q.job (q.read b) with _ | x
  · exact .either h (.either h.failSeq (fill cl q id h))
  · refine .either h (.either h.failSeq ?_)
    dsimp only
    by_cases hd : (s.own? cl x).dirty = true
    · rw [if_pos hd]
      have hp := hs h cl x q.ctx q.job (q.read b) 1
      revert hp
      rcases S s cl x q.ctx q.job (q.read b) 1 with ⟨t, _ | e⟩ <;> intro hp
      · exact fill cl q id (MemoryCanonical.setOwn hp)
      · exact MemoryCanonical.failSeq hp
    · rw [if_neg hd]
      exact fill cl q id h
theorem MemoryCanonical.execMwait (h : MemoryCanonical s) {a} :
    NextCanonical (execMwait a s) := h.onSeq (fun _ _ => .either h.failVal (.either h h.seqDone))
theorem MemoryCanonical.execMown (h : MemoryCanonical s) {d a} :
    NextCanonical (execMown d a s) := h.onSeq (fun _ _ => h.tileId (fun _ => .either h (.either h.setOwn.seqDone h.seqDone)))
theorem MemoryCanonical.execHomeTileEviction (h : MemoryCanonical s) {cl id} : NextCanonical (execHomeTileEviction cl id s) := by
  unfold Machine.execHomeTileEviction
  extract_lets +onlyGivenNames o idle
  split
  · exact h
  · split
    · split
      · exact h.spillTile.answered ‹_›
      · exact (h.spillTile.answered ‹_›).freeTile
    · exact h.freeTile

end Sys2Proof.Safety
end

section
/-! What admission, commit and scheduling keep (R207 to R226, R242 to R244, R259 to R266, R409 to R413, R466 to R471), and the
conversions (R304 to R311). -/
namespace Sys2Proof.Safety
open Sys2Proof.Machine
variable {s : State}

theorem MemoryCanonical.admFault (h : MemoryCanonical s) {f x cause eidx tval} :
    MemoryCanonical (s.admFault f x cause eidx tval) := .either h.count.noHandler h.count.takeTrap
theorem MemoryCanonical.enter (h : MemoryCanonical s) {f x ga c} : MemoryCanonical (s.enter f x ga c) := h.count.setFibre.setInst
theorem MemoryCanonical.takeBuildFault (h : MemoryCanonical s) {f x core w e} :
    MemoryCanonical (s.takeBuildFault f x core w e) := h.setFabric.admFault
theorem MemoryCanonical.admitBy (h : MemoryCanonical s) {f x ga c} : MemoryCanonical (s.admitBy f x ga c) := by
  unfold State.admitBy
  extract_lets +onlyGivenNames ws ready
  refine .either h ?_
  refine .either h.admFault ?_
  split
  · exact h.admFault
  · split
    · exact h.haltFibre
    · exact h.enter
theorem MemoryCanonical.atHeader (h : MemoryCanonical s) {f x ga} : MemoryCanonical (s.atHeader f x ga) := by
  unfold State.atHeader
  extract_lets +onlyGivenNames core
  refine .either h.admFault ?_
  split
  · exact h.joinSet
  · extract_lets +onlyGivenNames noHeader
    split
    · exact h.takeBuildFault
    · exact h.admFault
    · split
      · exact h
      · exact h.admitBy
theorem MemoryCanonical.execBlockAdmission (h : MemoryCanonical s) {f} : NextCanonical (execBlockAdmission f s) := by
  unfold Machine.execBlockAdmission
  split
  · exact MemoryCanonical.either h.atHeader h
  · exact h
theorem MemoryCanonical.arrive (h : MemoryCanonical s) {p pr v} : MemoryCanonical (s.arrive p pr v) := by
  unfold State.arrive
  extract_lets +onlyGivenNames latest t
  have ht : MemoryCanonical t := h.dropProd
  split
  · extract_lets +onlyGivenNames real
    refine .either ht ?_
    split
    · exact .either ht.fillSlot (.either ht.setSlot ht)
    · exact .either ht.fillSlot ht
  · exact ht
theorem MemoryCanonical.commitSlots (h : MemoryCanonical s) {f woff l} : MemoryCanonical (s.commitSlots f woff l) := by
  unfold State.commitSlots
  refine MemoryCanonical.foldl h fun s a h => ?_
  split
  · exact h.fillSlot
  · extract_lets +onlyGivenNames t
    have ht : MemoryCanonical t := h.clearSlot
    split
    · split
      · exact ht.dropProd.fillSlot
      · exact ht
    · exact ht
theorem MemoryCanonical.commitGs (h : MemoryCanonical s) {f l} : MemoryCanonical (s.commitGs f l) := by
  unfold State.commitGs
  split
  · exact h
  · split
    · exact h.setFibre
    · exact h.modGather
theorem MemoryCanonical.commitStores (h : MemoryCanonical s) {f last os} : MemoryCanonical (s.commitStores f last os) := by
  unfold State.commitStores
  split
  · exact h
  · split
    · exact h.performStores.setFibre
    · exact h.performStores
theorem MemoryCanonical.bornAt (h : MemoryCanonical s) {c ga x} : MemoryCanonical (s.bornAt c ga x) := h.update.setFibre
theorem MemoryCanonical.joinChild (h : MemoryCanonical s) {c parent} : MemoryCanonical (s.joinChild c parent) := by
  unfold State.joinChild
  split
  · exact .either h.leaveGather h.modFibre.joinSet
  · exact h.joinSet
theorem MemoryCanonical.forkOne (h : MemoryCanonical s) {busy f woff i w} : MemoryCanonical (s.forkOne busy f woff i w) := by
  unfold State.forkOne
  split
  · extract_lets +onlyGivenNames g free t
    have ht : MemoryCanonical t := by
      unfold t
      split
      · exact h.bornAt.fillSlot.fillSlot.joinChild
      · exact h
    split
    · exact ht.fillSlot
    · exact ht
  · exact h
theorem MemoryCanonical.commitForks (h : MemoryCanonical s) {busy f woff i} :
    MemoryCanonical (s.commitForks busy f woff i) := h.foldl fun _ _ h => h.forkOne
theorem MemoryCanonical.skipHeld (h : MemoryCanonical s) {f x a} : MemoryCanonical (s.skipHeld f x a) := by
  unfold State.skipHeld
  extract_lets names give
  have hgive {s : State} (h : MemoryCanonical s) (p : Nat) : MemoryCanonical (give s p) := by
    unfold give
    split
    · exact h.arrive
    · exact h
  split
  · refine .either ?_ h
    split
    · exact hgive h.modFibre _
    · exact h.modFibre
  · split
    · exact hgive h.modFibre _
    · exact h
theorem MemoryCanonical.retryHeld (h : MemoryCanonical s) {f} : MemoryCanonical (s.retryHeld f) := h.modFibre
theorem MemoryCanonical.commitResume (h : MemoryCanonical s) {f skip} : MemoryCanonical (s.commitResume f skip) := by
  unfold State.commitResume
  split
  · exact h
  · refine .either ?_ ((MemoryCanonical.either h.leaveMeet h).modFibre)
    extract_lets +onlyGivenNames t
    have ht : MemoryCanonical t := by
      unfold t
      split
      · exact h.skipHeld
      · exact h
    exact ht.retryHeld.modFibre
theorem MemoryCanonical.applyShadow (h : MemoryCanonical s) {f x n} : MemoryCanonical (s.applyShadow f x n) := by
  unfold State.applyShadow
  extract_lets +onlyGivenNames t u v
  have ht : MemoryCanonical t := h.setFibre
  have hu : MemoryCanonical u := by
    unfold u
    refine MemoryCanonical.foldl ht fun s a h => ?_
    split
    · exact h.setSlot
    · exact h
  have hv : MemoryCanonical v := hu.foldl fun _ _ h => h.fillSlot
  exact hv.commitGs.foldl fun _ _ h => h.performStore
theorem MemoryCanonical.commitEmulret (h : MemoryCanonical s) {f a} : MemoryCanonical (s.commitEmulret f a) := by
  unfold State.commitEmulret
  extract_lets +onlyGivenNames t
  have ht : MemoryCanonical t := h.leaveMeet
  split
  · exact ht
  · extract_lets +onlyGivenNames u
    have hu : MemoryCanonical u := by
      unfold u
      split
      · exact ht.applyShadow
      · exact ht
    exact hu.modFibre
theorem MemoryCanonical.commitMove (h : MemoryCanonical s) {f i} : MemoryCanonical (s.commitMove f i) := by
  unfold State.commitMove
  split
  · exact h
  · split
    extract_lets +onlyGivenNames x d t drop u v w
    have hu : MemoryCanonical u := h.setFibre
    have hv : MemoryCanonical v := .either hu.dropHeld hu
    have hw : MemoryCanonical w := .either hv.quitMeet hv
    split
    · exact hw.commitResume
    · exact hw.commitEmulret
    · exact hw
theorem MemoryCanonical.commit (h : MemoryCanonical s) {busy f x i} : MemoryCanonical (s.commit busy f x i) := by
  unfold State.commit
  extract_lets +onlyGivenNames woff t u v w
  have ht : MemoryCanonical t := h.commitSlots
  have hu : MemoryCanonical u := ht.commitGs
  have hv : MemoryCanonical v := hu.commitStores
  have hw : MemoryCanonical w := hv.commitForks.commitSpinv.commitUnmaps
  split
  split
  extract_lets +onlyGivenNames y z
  have hy : MemoryCanonical y := ((((hw.takeSerial.answered ‹_›).commitCopies).answered ‹_›).commitReserved).modFibre
  have hz : MemoryCanonical z := hy.commitMove.count.delInst
  split
  · exact hz
  · exact .either hz.leaveGather (.either hz.dropHeld.leaveGather hz.joinSet)
theorem MemoryCanonical.commitIf (h : MemoryCanonical s) {busy f} : MemoryCanonical (s.commitIf busy f) := by
  unfold State.commitIf
  split
  · refine .either h ?_
    refine .either h.commit ?_
    extract_lets +onlyGivenNames t
    have ht : MemoryCanonical t := h.performLoads
    split
    · exact .either ht.commit ht
    · exact ht
  · exact h
theorem MemoryCanonical.mapLast (h : MemoryCanonical s) {ms} :
    MemoryCanonical (s.mapLast ms) := h.foldl fun _ _ h => .either h (h.attempt (fun _ h => h.asAgent (fun _ h => h.performStores)))
theorem MemoryCanonical.execCommit (h : MemoryCanonical s) {f} : NextCanonical (execCommit f s) := h.commitIf.mapLast.checkBars
theorem MemoryCanonical.commitAll (h : MemoryCanonical s) {core} :
    MemoryCanonical (s.commitAll core) :=
      (((h.foldl fun _ _ h => h.attempt (fun _ h => h.update.commitIf)).mapLast).foldl fun _ _ h => h.checkBars).update
theorem MemoryCanonical.execInstanceFault (h : MemoryCanonical s) {f} : NextCanonical (execInstanceFault f s) := by
  unfold Machine.execInstanceFault
  split
  · split
    · exact h.takeTrap
    · exact h
  · exact h
theorem MemoryCanonical.execPostCommitTrapDelivery (h : MemoryCanonical s) {f} : NextCanonical (execPostCommitTrapDelivery f s) := by
  unfold Machine.execPostCommitTrapDelivery
  split
  · split
    · exact h.setFibre.takeTrap
    · exact h
  · exact h
theorem MemoryCanonical.asLoad (h : MemoryCanonical s) {p} : MemoryCanonical (s.asLoad p) := by
  unfold State.asLoad
  split
  · exact h.update
  · exact h
theorem MemoryCanonical.execLoadResultArrival (h : MemoryCanonical s) {p} : NextCanonical (execLoadResultArrival p s) := by
  unfold Machine.execLoadResultArrival
  extract_lets +onlyGivenNames t
  have ht : MemoryCanonical t := h.asLoad.performLoad
  split
  · split
    · exact MemoryCanonical.either ht ht.arrive
    · exact ht
  · exact ht
theorem MemoryCanonical.execFibreAgeing (h : MemoryCanonical s) {f} : NextCanonical (execFibreAgeing f s) := by
  unfold Machine.execFibreAgeing
  split
  · exact MemoryCanonical.either h.setFibre h
  · exact h
theorem MemoryCanonical.execYieldDelayExpiry (h : MemoryCanonical s) {f} : NextCanonical (execYieldDelayExpiry f s) := by
  unfold Machine.execYieldDelayExpiry
  split
  · exact MemoryCanonical.either h.setFibre h
  · exact h

theorem MemoryCanonical.execFtoi (h : MemoryCanonical s) {d a} : NextCanonical (execFtoi d a s) := h.compute1
theorem MemoryCanonical.execFton (h : MemoryCanonical s) {d a} : NextCanonical (execFton d a s) := h.compute1
theorem MemoryCanonical.execFtoi64 (h : MemoryCanonical s) {d a} : NextCanonical (execFtoi64 d a s) := h.compute1
theorem MemoryCanonical.execFton64 (h : MemoryCanonical s) {d a} : NextCanonical (execFton64 d a s) := h.compute1
theorem MemoryCanonical.execItof (h : MemoryCanonical s) {d a} : NextCanonical (execItof d a s) := h.compute1
theorem MemoryCanonical.execNtof (h : MemoryCanonical s) {d a} : NextCanonical (execNtof d a s) := h.compute1
theorem MemoryCanonical.execItof64 (h : MemoryCanonical s) {d a} : NextCanonical (execItof64 d a s) := h.compute1
theorem MemoryCanonical.execNtof64 (h : MemoryCanonical s) {d a} : NextCanonical (execNtof64 d a s) := h.compute1
theorem MemoryCanonical.execPkh (h : MemoryCanonical s) {d a b} : NextCanonical (execPkh d a b s) := h.compute2
theorem MemoryCanonical.execPkb (h : MemoryCanonical s) {d a b} : NextCanonical (execPkb d a b s) := h.compute2
theorem MemoryCanonical.execUph (h : MemoryCanonical s) {d a} : NextCanonical (execUph d a s) := h.compute1
theorem MemoryCanonical.execUpb (h : MemoryCanonical s) {d a} : NextCanonical (execUpb d a s) := h.compute1
theorem MemoryCanonical.execPk8e4 (h : MemoryCanonical s) {d a} : NextCanonical (execPk8e4 d a s) := h.compute1
theorem MemoryCanonical.execUp8e4 (h : MemoryCanonical s) {d a} : NextCanonical (execUp8e4 d a s) := h.compute1
theorem MemoryCanonical.execPk8e5 (h : MemoryCanonical s) {d a} : NextCanonical (execPk8e5 d a s) := h.compute1
theorem MemoryCanonical.execUp8e5 (h : MemoryCanonical s) {d a} : NextCanonical (execUp8e5 d a s) := h.compute1
theorem MemoryCanonical.execPk6e3 (h : MemoryCanonical s) {d a} : NextCanonical (execPk6e3 d a s) := h.compute1
theorem MemoryCanonical.execUp6e3 (h : MemoryCanonical s) {d a} : NextCanonical (execUp6e3 d a s) := h.compute1
theorem MemoryCanonical.execPk6e2 (h : MemoryCanonical s) {d a} : NextCanonical (execPk6e2 d a s) := h.compute1
theorem MemoryCanonical.execUp6e2 (h : MemoryCanonical s) {d a} : NextCanonical (execUp6e2 d a s) := h.compute1
theorem MemoryCanonical.execPk4 (h : MemoryCanonical s) {d a b} : NextCanonical (execPk4 d a b s) := h.compute2
theorem MemoryCanonical.execUp4l (h : MemoryCanonical s) {d a} : NextCanonical (execUp4l d a s) := h.compute1
theorem MemoryCanonical.execUp4h (h : MemoryCanonical s) {d a} : NextCanonical (execUp4h d a s) := h.compute1
theorem MemoryCanonical.execPki8 (h : MemoryCanonical s) {d a} : NextCanonical (execPki8 d a s) := h.compute1
theorem MemoryCanonical.execUpi8 (h : MemoryCanonical s) {d a} : NextCanonical (execUpi8 d a s) := h.compute1
theorem MemoryCanonical.execPki4 (h : MemoryCanonical s) {d a} : NextCanonical (execPki4 d a s) := h.compute1
theorem MemoryCanonical.execUpi4 (h : MemoryCanonical s) {d a} : NextCanonical (execUpi4 d a s) := h.compute1
theorem MemoryCanonical.execScale (h : MemoryCanonical s) {d a b} : NextCanonical (execScale d a b s) := h.compute2
theorem MemoryCanonical.execEscale (h : MemoryCanonical s) {d a k} : NextCanonical (execEscale d a k s) := h.compute1
theorem MemoryCanonical.execCbdec (h : MemoryCanonical s) {d a k} : NextCanonical (execCbdec d a k s) := h.compute1
theorem MemoryCanonical.execPkhSr (h : MemoryCanonical s) {d a b c} : NextCanonical (execPkhSr d a b c s) := h.compute3
theorem MemoryCanonical.execPkbSr (h : MemoryCanonical s) {d a b c} : NextCanonical (execPkbSr d a b c s) := h.compute3
theorem MemoryCanonical.execPk8e4Sr (h : MemoryCanonical s) {d a c} : NextCanonical (execPk8e4Sr d a c s) := h.compute2x
theorem MemoryCanonical.execPk8e5Sr (h : MemoryCanonical s) {d a c} : NextCanonical (execPk8e5Sr d a c s) := h.compute2x
theorem MemoryCanonical.execPk6e3Sr (h : MemoryCanonical s) {d a c} : NextCanonical (execPk6e3Sr d a c s) := h.compute2x
theorem MemoryCanonical.execPk6e2Sr (h : MemoryCanonical s) {d a c} : NextCanonical (execPk6e2Sr d a c s) := h.compute2x
theorem MemoryCanonical.execPk4Sr (h : MemoryCanonical s) {d a b c} : NextCanonical (execPk4Sr d a b c s) := h.compute3
theorem MemoryCanonical.execRcp (h : MemoryCanonical s) {d a} : NextCanonical (execRcp d a s) := h.compute1
theorem MemoryCanonical.execRsq (h : MemoryCanonical s) {d a} : NextCanonical (execRsq d a s) := h.compute1
theorem MemoryCanonical.execSqrta (h : MemoryCanonical s) {d a} : NextCanonical (execSqrta d a s) := h.compute1
theorem MemoryCanonical.execExp2 (h : MemoryCanonical s) {d a} : NextCanonical (execExp2 d a s) := h.compute1
theorem MemoryCanonical.execLog2 (h : MemoryCanonical s) {d a} : NextCanonical (execLog2 d a s) := h.compute1
theorem MemoryCanonical.execSinpi (h : MemoryCanonical s) {d a} : NextCanonical (execSinpi d a s) := h.compute1
theorem MemoryCanonical.execCospi (h : MemoryCanonical s) {d a} : NextCanonical (execCospi d a s) := h.compute1
theorem MemoryCanonical.execTanh (h : MemoryCanonical s) {d a} : NextCanonical (execTanh d a s) := h.compute1
theorem MemoryCanonical.execSigm (h : MemoryCanonical s) {d a} : NextCanonical (execSigm d a s) := h.compute1

theorem MemoryCanonical.makeRoom (h : MemoryCanonical s) {core w im} : MemoryCanonical (s.makeRoom core w im) := .either h h.setFabric
theorem MemoryCanonical.askLines (h : MemoryCanonical s) {core ctx ls} : MemoryCanonical (s.askLines core ctx ls) := h.setFabric
theorem MemoryCanonical.touchLines (h : MemoryCanonical s) {core ctx ls} : MemoryCanonical (s.touchLines core ctx ls) := h.setFabric
theorem MemoryCanonical.startBuild (h : MemoryCanonical s) {core w} :
    MemoryCanonical (s.startBuild core w) := h.count.touchLines.askLines.setFabric
theorem MemoryCanonical.pursue (h : MemoryCanonical s) {core w} : MemoryCanonical (s.pursue core w) := by
  unfold State.pursue
  extract_lets +onlyGivenNames fb
  split
  · exact h.setFabric.makeRoom
  · exact .either h h.startBuild
theorem MemoryCanonical.countWaiting (h : MemoryCanonical s) {core} : MemoryCanonical (s.countWaiting core) := h.foldl fun _ _ h => h.count
theorem MemoryCanonical.execSchedulerChoice (h : MemoryCanonical s) {core} : NextCanonical (execSchedulerChoice core s) := by
  unfold Machine.execSchedulerChoice
  split
  · exact h.pursue
  · split
    · exact h.setFabric.pursue
    · exact h.setFabric
theorem MemoryCanonical.execInstructionLineFill (h : MemoryCanonical s) {core ctx line} :
    NextCanonical (execInstructionLineFill core ctx line s) := by
  unfold Machine.execInstructionLineFill
  extract_lets +onlyGivenNames fb
  split
  · exact h
  · split
    · exact h.setFabric
    · exact h.finishFill
theorem MemoryCanonical.failBuild (h : MemoryCanonical s) {core b e} : MemoryCanonical (s.failBuild core b e) := h.setFabric
theorem MemoryCanonical.finishBuild (h : MemoryCanonical s) {core b ws} : MemoryCanonical (s.finishBuild core b ws) := by
  unfold State.finishBuild
  extract_lets +onlyGivenNames fb t u
  have ht : MemoryCanonical t := h.setFabric
  refine .either ht.setFabric ?_
  split
  · exact ht.failBuild
  · exact ht.setFabric
theorem MemoryCanonical.execConfigBuildComplete (h : MemoryCanonical s) {core ctx hdr} :
    NextCanonical (execConfigBuildComplete core ctx hdr s) := by
  unfold Machine.execConfigBuildComplete
  extract_lets +onlyGivenNames fb
  split
  · exact h
  · refine .either h ?_
    extract_lets +onlyGivenNames known head n
    refine .either h.failBuild ?_
    split
    · exact h.finishBuild
    · exact h.touchLines.askLines.setFabric
theorem MemoryCanonical.execConfigPlacement (h : MemoryCanonical s) {core ctx hdr} :
    NextCanonical (execConfigPlacement core ctx hdr s) := by
  unfold Machine.execConfigPlacement
  extract_lets +onlyGivenNames fb
  split
  · refine .either ?_ h
    extract_lets +onlyGivenNames n
    split
    · exact h
    · exact h.update.setFabric.count
  · exact h
theorem MemoryCanonical.execNodeTeardown (h : MemoryCanonical s) {core cfg node} : NextCanonical (execNodeTeardown core cfg node s) := by
  unfold Machine.execNodeTeardown
  extract_lets +onlyGivenNames fb
  split
  · exact h
  · exact .either h.setFabric h

end Sys2Proof.Safety
end

section
/-! What the events of the memory system and translation invalidation keep (R65 to R70, R82, R86, R91 to R93, R97, R104, R105, R113 to
R116, R169 to R184). -/
namespace Sys2Proof.Safety
open Sys2Proof.Machine
variable {s : State}

theorem MemoryCanonical.execWindowFillComplete (h : MemoryCanonical s) {g line} : NextCanonical (execWindowFillComplete g line s) := by
  unfold Machine.execWindowFillComplete
  split
  · extract_lets +onlyGivenNames t
    extract_lets +onlyGivenNames u
    have hu : MemoryCanonical u := by
      unfold u
      refine MemoryCanonical.updateMs ?_
      exact h
    split
    · exact (hu.fillNow.answered ‹_›).modGather
    · refine MemoryCanonical.updateMs ?_
      exact h
    · exact ((hu.fillNow.answered ‹_›).clearFresh).foldl fun _ _ h => h.addFresh
  · exact h
theorem MemoryCanonical.performPosted (h : MemoryCanonical s) {p} : MemoryCanonical (s.performPosted p) := by
  unfold State.performPosted
  split
  · exact .either h (h.foldl fun _ _ h => h.writeLine)
  · exact h.foldl fun _ _ h => h.drainLine.writeLine
  · exact h.redAt
  · exact h.addAtHome
  · exact h
theorem MemoryCanonical.takeToken (h : MemoryCanonical s) {i p} : MemoryCanonical (s.takeToken i p) := h.updateMs
theorem MemoryCanonical.execHomeWrite (h : MemoryCanonical s) {i} : NextCanonical (execHomeWrite i s) := by
  unfold Machine.execHomeWrite
  split
  · exact h
  · split
    · exact h
    · exact h
    · exact MemoryCanonical.either h.takeToken h.takeToken.performPosted
theorem MemoryCanonical.execDrainApplied (h : MemoryCanonical s) {i} : NextCanonical (execDrainApplied i s) := by
  unfold Machine.execDrainApplied
  split
  · exact h
  · split
    · split
      · exact h.takeToken
      · extract_lets +onlyGivenNames t
        have ht : MemoryCanonical t := h.takeToken.applySums
        split
        · exact ht.giveBack
        · exact ht
    · exact h
theorem MemoryCanonical.releaseHeld (h : MemoryCanonical s) {n circ} : MemoryCanonical (releaseHeld n s circ) := by
  induction n generalizing s with
  | zero => exact h
  | succ n ih =>
    rw [Machine.releaseHeld]
    split
    · exact h
    · split
      · exact h
      · exact .either (ih h.spend.updateMs) h
theorem MemoryCanonical.execSendAllowanceGrant (h : MemoryCanonical s) {circ hop flits} :
    NextCanonical (execSendAllowanceGrant circ hop flits s) := h.setAllowance.releaseHeld
theorem MemoryCanonical.sweepLine (h : MemoryCanonical s) {core line} : MemoryCanonical (s.sweepLine core line) := h.writebackSome.dropClean
theorem MemoryCanonical.sweep (h : MemoryCanonical s) {core} : MemoryCanonical (s.sweep core) := h.foldl fun _ _ h => h.sweepLine
theorem MemoryCanonical.execL1AgeingSweep (h : MemoryCanonical s) {core} : NextCanonical (execL1AgeingSweep core s) := h.sweep
theorem MemoryCanonical.trimL1Core (h : MemoryCanonical s) {n core} : MemoryCanonical (State.trimL1Core n s core) := by
  induction n generalizing s with
  | zero => exact h
  | succ n ih =>
    rw [State.trimL1Core]
    refine .either h ?_
    extract_lets +onlyGivenNames sets setOf
    split
    · exact h
    · split
      split
      · exact h.takeFree.answered ‹_›
      · exact ih ((h.takeFree.answered ‹_›).sweepLine)
theorem MemoryCanonical.trimL1 (h : MemoryCanonical s) : MemoryCanonical (s.trimL1) := .either h (h.foldl fun _ _ h => h.trimL1Core)
theorem MemoryCanonical.poisonLine (h : MemoryCanonical s) {line} : MemoryCanonical (s.poisonLine line) := h.updateMs.logLine
theorem MemoryCanonical.readError (h : MemoryCanonical s) {line n} : MemoryCanonical (s.readError line n) := by
  unfold State.readError
  split
  · exact h
  · exact h.logLine
  · exact .either h.poisonLine h
theorem MemoryCanonical.execCoherenceRequest (h : MemoryCanonical s) {die line r} :
    NextCanonical (execCoherenceRequest die line r s) := MemoryCanonical.either h (.either h.readError.own h.readError.share)
theorem MemoryCanonical.cleanWins (h : MemoryCanonical s) {die line} :
    MemoryCanonical (s.cleanWins die line) := h.foldl fun _ _ h => h.modGather
theorem MemoryCanonical.evict (h : MemoryCanonical s) {die line} :
    MemoryCanonical (s.evict die line) := .either (.either ((MemoryCanonical.either h.forceDrain h).drainRecs) (.either h.forceDrain h))
      (.either (.either ((MemoryCanonical.either h.forceDrain h).drainRecs) ((MemoryCanonical.either h.forceDrain h).send))
        (((MemoryCanonical.either (((MemoryCanonical.either ((MemoryCanonical.either h.forceDrain h).drainRecs) ((MemoryCanonical.either
          h.forceDrain h).send)).cleanWins).sendTierBack) ((MemoryCanonical.either ((MemoryCanonical.either h.forceDrain h).drainRecs)
            ((MemoryCanonical.either h.forceDrain h).send)).cleanWins)).setCopy).foldl fun _ _ h => h.attach))
theorem MemoryCanonical.execLineEviction (h : MemoryCanonical s) {die line} : NextCanonical (execLineEviction die line s) := h.evict
theorem MemoryCanonical.trimL2Die (h : MemoryCanonical s) {n die} : MemoryCanonical (State.trimL2Die n s die) := by
  induction n generalizing s with
  | zero => exact h
  | succ n ih =>
    rw [State.trimL2Die]
    refine .either h ?_
    split
    · exact h
    · split
      split
      · exact h.takeFree.answered ‹_›
      · exact ih ((h.takeFree.answered ‹_›).attempt (fun _ h => h.evict))
theorem MemoryCanonical.trimL2 (h : MemoryCanonical s) : MemoryCanonical (s.trimL2) := .either h (h.foldl fun _ _ h => h.trimL2Die)
theorem MemoryCanonical.trimRec (h : MemoryCanonical s) {die line} : MemoryCanonical (s.trimRec die line) := by
  unfold State.trimRec
  split
  · exact .either h.drainRec h
  · exact h
theorem MemoryCanonical.trimRecs (h : MemoryCanonical s) {n} : MemoryCanonical (State.trimRecs n s) := by
  induction n generalizing s with
  | zero => exact h
  | succ n ih =>
    rw [State.trimRecs]
    split
    · exact h
    · exact .either (h.foldl fun _ _ h => h.trimRec) (ih (h.foldl fun _ _ h => h.trimRec))
theorem MemoryCanonical.trim (h : MemoryCanonical s) : MemoryCanonical (s.trim) := h.trimL1.trimRecs.trimL2
theorem MemoryCanonical.recallAll (h : MemoryCanonical s) {line ds} :
    MemoryCanonical (s.recallAll line ds) :=
      ((MemoryCanonical.either h.sendTierBack h).foldl fun _ _ h => h.send.send.staleWins.setCopy).setCopy
theorem MemoryCanonical.execDirectoryEntryEviction (h : MemoryCanonical s) {line} :
    NextCanonical (execDirectoryEntryEviction line s) := h.recallAll
theorem MemoryCanonical.execDirectoryError (h : MemoryCanonical s) {line} :
    NextCanonical (execDirectoryError line s) := MemoryCanonical.either h.recallAll.poisonLine h.recallAll
theorem MemoryCanonical.loseFences (h : MemoryCanonical s) {p} : MemoryCanonical (s.loseFences p) := h.updateMs
theorem MemoryCanonical.clearDie (h : MemoryCanonical s) {die} :
    MemoryCanonical (s.clearDie die) := ((h.foldl fun _ _ h => ((MemoryCanonical.either h
      h.poisonLine).staleWins).setCopy).loseFences).foldl fun _ _ h => ((MemoryCanonical.either h h.poisonLine).dropHolder).giveBack
theorem MemoryCanonical.clearL1 (h : MemoryCanonical s) {core} : MemoryCanonical (s.clearL1 core) := h.setL1.updateMs
theorem MemoryCanonical.readmitted (h : MemoryCanonical s) {die} : MemoryCanonical (s.readmitted die) := h.updateMs
theorem MemoryCanonical.nextInc (h : MemoryCanonical s) {k} : MemoryCanonical (s.nextInc k) := h.updateMs
theorem MemoryCanonical.execAgentRejoin (h : MemoryCanonical s) {isDie unit} :
    NextCanonical (execAgentRejoin isDie unit s) :=
      .either (.either h h.clearDie.nextInc.readmitted.logEvent) (.either h h.loseFences.clearL1.nextInc.logEvent)
theorem MemoryCanonical.execHolderOffer (h : MemoryCanonical s) {i} : NextCanonical (execHolderOffer i s) := by
  unfold Machine.execHolderOffer
  split
  · exact h.holderStep
  · exact h
theorem MemoryCanonical.execGrantRequest (h : MemoryCanonical s) {die line} : NextCanonical (execGrantRequest die line s) := by
  unfold Machine.execGrantRequest
  split
  · exact h.grantTo.setOffer
  · exact h
theorem MemoryCanonical.bvCheck (h : MemoryCanonical s) : MemoryCanonical (s.bvCheck) := .either h.update h
theorem MemoryCanonical.execForcedDrain (h : MemoryCanonical s) {die line} :
    NextCanonical (execForcedDrain die line s) := h.forceDrain.bvCheck
theorem MemoryCanonical.execBvdrainWrite (h : MemoryCanonical s) {v} :
    NextCanonical (execBvdrainWrite v s) := .either h.update (.either h.update h.update.update.bvCheck)
theorem MemoryCanonical.execBoundedRead (h : MemoryCanonical s) {i} : NextCanonical (execBoundedRead i s) := by
  unfold Machine.execBoundedRead
  split
  · exact h
  · exact .either h (MemoryCanonical.either ((h.updateMs.foldl fun _ _ h => h.visit.drainTo).addFresh) (((h.updateMs.foldl fun _ _ h =>
        h.visit.drainTo).foldl fun _ _ h => h.share).addFresh))
theorem MemoryCanonical.execGrantRecordEviction (h : MemoryCanonical s) {line} :
    NextCanonical (execGrantRecordEviction line s) := h.drainLine.updateMs
theorem MemoryCanonical.execPageWalkComplete (h : MemoryCanonical s) {i} : NextCanonical (execPageWalkComplete i s) := by
  unfold Machine.execPageWalkComplete
  split
  · exact MemoryCanonical.either h.update.endWalk h
  · exact h

theorem MemoryCanonical.dropLeaves (h : MemoryCanonical s) {c} : MemoryCanonical (s.dropLeaves c) := h.updateMs
theorem MemoryCanonical.dropCode (h : MemoryCanonical s) {c gone core} : MemoryCanonical (s.dropCode c gone core) := h.setFabric.rereadSets
theorem MemoryCanonical.restartWalks (h : MemoryCanonical s) : MemoryCanonical (s.restartWalks) := h.updateMs
theorem MemoryCanonical.startInval (h : MemoryCanonical s) {v} :
    MemoryCanonical (s.startInval v) :=
      .either (h.dropLeaves.restartWalks.update.foldl fun _ _ h => h.dropCode) h.dropLeaves.restartWalks.update
theorem MemoryCanonical.xlatCmd (h : MemoryCanonical s) {v} : MemoryCanonical (s.xlatCmd v) := .either h.update (.either h h.startInval)
theorem MemoryCanonical.xlatWrite (h : MemoryCanonical s) {kind v} :
    NextCanonical (xlatWrite kind v s) := MemoryCanonical.either h.xlatCmd h
theorem MemoryCanonical.execXlatInvPageRange (h : MemoryCanonical s) {v} : NextCanonical (execXlatInvPageRange v s) := h.xlatWrite
theorem MemoryCanonical.execXlatInvContext (h : MemoryCanonical s) {v} : NextCanonical (execXlatInvContext v s) := h.xlatWrite
theorem MemoryCanonical.execXlatInvRegion (h : MemoryCanonical s) {v} : NextCanonical (execXlatInvRegion v s) := h.xlatWrite
theorem MemoryCanonical.execXlatInvCodeRange (h : MemoryCanonical s) {v} : NextCanonical (execXlatInvCodeRange v s) := h.xlatWrite
theorem MemoryCanonical.execXlatInvAll (h : MemoryCanonical s) {v} : NextCanonical (execXlatInvAll v s) := h.xlatWrite
theorem MemoryCanonical.execXlatInvalidationDone (h : MemoryCanonical s) : NextCanonical (execXlatInvalidationDone s) := by
  unfold Machine.execXlatInvalidationDone
  split
  · exact MemoryCanonical.either h.update h
  · exact h
theorem MemoryCanonical.failWaiters (h : MemoryCanonical s) {ws cause} :
    MemoryCanonical (s.failWaiters ws cause) := h.foldl fun _ _ h => h.addFresh
theorem MemoryCanonical.refuse (h : MemoryCanonical s) {a ws cause} :
    MemoryCanonical (s.refuse a ws cause) := h.foldl fun _ _ h => h.addFresh
theorem MemoryCanonical.dropAts (h : MemoryCanonical s) {p} : MemoryCanonical (s.dropAts p) := h.updateMs
theorem MemoryCanonical.failAts (h : MemoryCanonical s) {p cause} :
    MemoryCanonical (s.failAts p cause) := h.dropAts.foldl fun _ _ h => h.refuse
theorem MemoryCanonical.modAts (h : MemoryCanonical s) {p fn} : MemoryCanonical (s.modAts p fn) := h.updateMs
theorem MemoryCanonical.putAtc (h : MemoryCanonical s) {e} : MemoryCanonical (s.putAtc e) := h.updateMs
theorem MemoryCanonical.execAtsTranslationCompletion (h : MemoryCanonical s) {func page res} :
    NextCanonical (execAtsTranslationCompletion func page res s) := by
  unfold Machine.execAtsTranslationCompletion
  extract_lets +onlyGivenNames mine
  split
  · exact h
  · split
    · exact MemoryCanonical.either h.dropAts.putAtc (h.dropAts.putAtc.foldl fun _ _ h => h.refuse)
    · exact h.failAts
    · exact h.failAts.modAts
theorem MemoryCanonical.execPriResponse (h : MemoryCanonical s) {func page ok} :
    NextCanonical (execPriResponse func page ok s) := MemoryCanonical.either h.modAts h
theorem MemoryCanonical.execPriTimeout (h : MemoryCanonical s) {func page} : NextCanonical (execPriTimeout func page s) := h.failAts
theorem MemoryCanonical.trimAts (h : MemoryCanonical s) : MemoryCanonical (s.trimAts) := .either h h.updateMs
theorem MemoryCanonical.execAtsInvalidation (h : MemoryCanonical s) {func base span} :
    NextCanonical (execAtsInvalidation func base span s) := .either h h.updateMs

end Sys2Proof.Safety
end

section
/-! What the loader, pre-emption, checkpoint, restore and the debug slots keep (R370, R371, R406, R414 to R420, R426, R439 to R446). -/
namespace Sys2Proof.Safety
open Sys2Proof.Machine
variable {s : State}

theorem MemoryCanonical.setObj (h : MemoryCanonical s) {n o} : MemoryCanonical (s.setObj n o) := h.update
theorem MemoryCanonical.descend (h : MemoryCanonical s) {n pool t va} : MemoryCanonical (State.descend n s pool t va).1 := by
  induction n generalizing s pool t with
  | zero => exact h
  | succ n ih =>
    rw [State.descend]
    split
    · exact h
    · split
      · exact h
      · exact .eitherFst (.eitherFst h (ih h)) (.eitherFst (ih h.writePhys.writePhys.update) h)
theorem MemoryCanonical.mapPage (h : MemoryCanonical s) {pool ctx va frame perm} :
    MemoryCanonical (s.mapPage pool ctx va frame perm).1 := by
  unfold State.mapPage
  split
  · exact (h.descend.answered ‹_›).writePhys
  · exact h.descend.answered ‹_›
theorem MemoryCanonical.placePages (h : MemoryCanonical s) {ctx base ss bs share l pool} :
    MemoryCanonical (State.placePages ctx base ss bs share l s pool).1 := by
  induction l generalizing s pool with
  | nil => exact h
  | cons p r ih =>
    unfold State.placePages
    extract_lets +onlyGivenNames va old
    clear_value old
    have hw : MemoryCanonical (match old with
      | some f => (s, f, pool, true)
      | none => if s.frameOk pool then (s.writePhys pool (pageBytes ss bs p.num), pool, pool + 2 ^ 14, true) else (s, 0, pool, false)).1 :=
        by
      split
      · exact h
      · split
        · dsimp only; exact h.writePhys
        · exact h
    split
    next t frame pl ok _ =>
      have ht : MemoryCanonical t := hw.answered ‹_›
      split
      · exact ht
      · split
        · exact ht.mapPage.answered ‹_›
        · split
          · exact (ih (ht.mapPage.answered ‹_›)).answered ‹_›
          · exact ih (ht.mapPage.answered ‹_›)
theorem MemoryCanonical.invalCode (h : MemoryCanonical s) {ctx base span} :
    MemoryCanonical (s.invalCode ctx base span) := h.dropLeaves.restartWalks.update.foldl fun _ _ h => h.dropCode
theorem MemoryCanonical.loadObj {t : State} (h : MemoryCanonical s) {o pool} (e : s.loadObj o pool = .ok t) : MemoryCanonical t := by
  unfold State.loadObj at e
  dsimp only at e
  split at e
  · cases e
  · split at e
    · cases e
    · split at e
      · cases e
      · split at e
        · cases e
        · rw [← Except.ok.inj e]
          exact (h.placePages.answered ‹_›).setObj.invalCode
theorem MemoryCanonical.wantLibs (h : MemoryCanonical s) {o} :
    MemoryCanonical (s.wantLibs o) := h.setObj.foldl fun _ _ h => .either h h.wantObj
theorem MemoryCanonical.execCodeLoad (h : MemoryCanonical s) {handle pool} : NextCanonical (execCodeLoad handle pool s) := by
  unfold Machine.execCodeLoad
  split
  · exact h
  · split
    · exact h
    · split
      · exact h.setObj
      · split
        · exact h.setObj
        · exact h.wantLibs
        · split
          · exact h.loadObj ‹_›
          · exact h.setObj
theorem MemoryCanonical.reportLoad (h : MemoryCanonical s) {o} : MemoryCanonical (s.reportLoad o) := .either h h.update
theorem MemoryCanonical.execCodeLoadComplete (h : MemoryCanonical s) {handle} : NextCanonical (execCodeLoadComplete handle s) := by
  unfold Machine.execCodeLoadComplete
  split
  · exact h
  · exact MemoryCanonical.either h (.either ((h.setObj.reportLoad.foldl fun _ _ h => h.failLaunch).progress) (.either h h.setObj.progress))
theorem MemoryCanonical.unmapPages (h : MemoryCanonical s) {ctx o} : MemoryCanonical (s.unmapPages ctx o) := by
  unfold State.unmapPages
  refine MemoryCanonical.foldl h fun s a h => ?_
  split
  · exact h.writePhys
  · exact h
theorem MemoryCanonical.beginLeave (h : MemoryCanonical s) {o} : MemoryCanonical (s.beginLeave o) := h.unmapPages.setObj.invalCode
theorem MemoryCanonical.execCodeUnload (h : MemoryCanonical s) {handle} : NextCanonical (execCodeUnload handle s) := by
  unfold Machine.execCodeUnload
  split
  · exact h
  · exact MemoryCanonical.either h (.either h.beginLeave (.either h h.update.progress))
theorem MemoryCanonical.execCodeEviction (h : MemoryCanonical s) {handle} : NextCanonical (execCodeEviction handle s) := by
  unfold Machine.execCodeEviction
  split
  · exact h
  · exact MemoryCanonical.either h (.either h.beginLeave (.either h.setObj.progress h))

theorem MemoryCanonical.endKill (h : MemoryCanonical s) {lid} : MemoryCanonical (s.endKill lid) := h.endTiles.update.modLaunch.progress
theorem MemoryCanonical.execKill (h : MemoryCanonical s) {lid} : NextCanonical (execKill lid s) := by
  unfold Machine.execKill
  split
  · exact h
  · exact MemoryCanonical.either (.either h.endKill h) (.either h h.modLaunch.cancelFibres.endPrograms)
theorem MemoryCanonical.stopPrograms (h : MemoryCanonical s) {lid} : MemoryCanonical (s.stopPrograms lid) := h.update
theorem MemoryCanonical.execDrain (h : MemoryCanonical s) {lid} : NextCanonical (execDrain lid s) := by
  unfold Machine.execDrain
  split
  · exact h
  · exact MemoryCanonical.either h (.either h.stopPrograms h.update.modLaunch)
theorem MemoryCanonical.withdraw (h : MemoryCanonical s) {f} : MemoryCanonical (s.withdraw f) := by
  unfold State.withdraw
  split
  · exact h
  · split
    · exact h
    · exact .either h (.either h.keepPosts.reap (.either h.keepPosts h.leaveRdv.setFibre))
theorem MemoryCanonical.dropEmulation (h : MemoryCanonical s) {f} : MemoryCanonical (s.dropEmulation f) := by
  unfold State.dropEmulation
  split
  · exact h
  · exact .either h h.setFibre.dropHeld.joinSet
theorem MemoryCanonical.stopFibre (h : MemoryCanonical s) {f} : MemoryCanonical (s.stopFibre f) := by
  unfold State.stopFibre
  extract_lets +onlyGivenNames t u
  have ht : MemoryCanonical t := h.modFibre
  have hu : MemoryCanonical u := by
    unfold u
    split
    · exact .either ht.discard ht
    · exact ht
  exact hu.withdraw.dropEmulation
theorem MemoryCanonical.stopLaunch (h : MemoryCanonical s) {lid} :
    MemoryCanonical (s.stopLaunch lid) := (h.foldl fun _ _ h => h.stopFibre).stopPrograms
theorem MemoryCanonical.execTimeSliceExpiry (h : MemoryCanonical s) {lid} : NextCanonical (execTimeSliceExpiry lid s) := by
  unfold Machine.execTimeSliceExpiry
  split
  · exact h
  · exact MemoryCanonical.either h.modLaunch.stopLaunch h
theorem MemoryCanonical.execCheckpoint (h : MemoryCanonical s) {lid} : NextCanonical (execCheckpoint lid s) := by
  unfold Machine.execCheckpoint
  split
  · exact h
  · exact MemoryCanonical.either h.modLaunch.stopLaunch h
/-- The spill of a tile is made opaque first: its image is so long that evaluating it must be avoided. -/
theorem MemoryCanonical.spillPinned (h : MemoryCanonical s) {l m} : MemoryCanonical (s.spillPinned l m).1 := by
  have hS : ∀ {t}, MemoryCanonical t → ∀ cl id ctx job va k, MemoryCanonical (t.spillTile cl id ctx job va k).1 := fun h _ _ _ _ _ _ =>
      h.spillTile
  delta State.spillPinned State.spillPinned._f
  revert hS
  obtain ⟨S, hS⟩ : ∃ S, S = @State.spillTile := ⟨_, rfl⟩
  rw [← hS]
  clear hS
  intro hS
  refine brecOn_induction (P := fun g : State → State × Option SpillBad => ∀ s, MemoryCanonical s → MemoryCanonical (g s).1)
    (fun _ h => h) (fun a r g b ih s h => ?_) m s h
  obtain ⟨cl, id⟩ := a
  dsimp only
  split
  · split
    · exact (hS h _ _ _ _ _ _).answered ‹_›
    · exact ih _ ((hS h _ _ _ _ _ _).answered ‹_›).setOwn
  · exact ih _ h
theorem MemoryCanonical.backWins (h : MemoryCanonical s) {lid set g} : MemoryCanonical (s.backWins lid set g).1 := by
  unfold State.backWins
  split
  · exact h
  · refine MemoryCanonical.foldlFst h.update fun p a h => ?_
    split
    · exact h.rangeBack.answered ‹_›
    · exact (h.rangeBack.answered ‹_›).noteError
theorem MemoryCanonical.drainOffered (h : MemoryCanonical s) {lid} : MemoryCanonical (s.drainOffered lid) := by
  unfold State.drainOffered
  refine MemoryCanonical.foldl h fun s a h => ?_
  split
  · exact .either (.either h.update.drainDie.setGather h.update.drainDie) h
  · exact h
theorem MemoryCanonical.settleMemory (h : MemoryCanonical s) {lid set} : MemoryCanonical (s.settleMemory lid set).1 := by
  unfold State.settleMemory
  extract_lets +onlyGivenNames gs
  split
  extract_lets +onlyGivenNames t
  have ht : MemoryCanonical t := by
    unfold t
    refine MemoryCanonical.foldl ?_ fun _ _ h => h.drainSome
    refine MemoryCanonical.answered ?_ ‹_›
    refine MemoryCanonical.foldlFst h fun p a h => ?_
    split
    exact h.backWins.answered ‹_›
  exact ht
theorem MemoryCanonical.takeOff (h : MemoryCanonical s) {g} : MemoryCanonical (s.takeOff g) := by
  unfold State.takeOff
  split
  · exact h
  · exact h.removeGather.update.trimSets
theorem MemoryCanonical.saveLaunch (h : MemoryCanonical s) {lid pool} : MemoryCanonical (s.saveLaunch lid pool) := by
  unfold State.saveLaunch
  extract_lets +onlyGivenNames gs cls lehrs secs at_
  refine .either h ?_
  extract_lets +onlyGivenNames kept reqs place old sv t u v w y
  have ht : MemoryCanonical t := h.foldl fun _ _ h => h.writePhys
  have hu : MemoryCanonical u := ht.foldl fun _ _ h => h.freeTile
  have hv : MemoryCanonical v := hu.foldl fun _ _ h => h.takeOff
  extract_lets +onlyGivenNames z t'
  have hz : MemoryCanonical z := hv.update
  have ht' : MemoryCanonical t' := hz.modLaunch
  split
  · exact .either ht'.finishLaunch.progress ht'.progress
  · exact ht'
theorem MemoryCanonical.abandon (h : MemoryCanonical s) {lid e} :
    MemoryCanonical (s.abandon lid e) := h.freeTile.modLaunch.launchEvent.progress
theorem MemoryCanonical.saveDrained (h : MemoryCanonical s) {lid pool l} : MemoryCanonical (s.saveDrained lid pool l) := by
  unfold State.saveDrained
  refine .either h ?_
  extract_lets +onlyGivenNames t
  have ht : MemoryCanonical t := h.stopPrograms
  refine .either ht ?_
  split
  · exact (ht.spillPinned.answered ‹_›).abandon
  · exact (ht.spillPinned.answered ‹_›).saveLaunch
theorem MemoryCanonical.execCheckpointSaved (h : MemoryCanonical s) {lid pool} : NextCanonical (execCheckpointSaved lid pool s) := by
  unfold Machine.execCheckpointSaved
  split
  · exact h
  · split
    · exact h.saveDrained
    · extract_lets +onlyGivenNames t
      have ht : MemoryCanonical t := h.stopLaunch
      split
      · exact ht
      · split
        · exact ht.modLaunch.progress
        · split
          · exact (ht.spillPinned.answered ‹_›).abandon
          · extract_lets +onlyGivenNames u
            have hu : MemoryCanonical u := (ht.spillPinned.answered ‹_›).drainOffered
            split
            · exact hu
            · split
              exact MemoryCanonical.either (hu.settleMemory.answered ‹_›) ((hu.settleMemory.answered ‹_›).saveLaunch)
theorem MemoryCanonical.savedBytes (h : MemoryCanonical s) {a n} : MemoryCanonical (s.savedBytes a n).1 := by
  unfold State.savedBytes
  split
  exact h.mgmtRead.answered ‹_›
theorem MemoryCanonical.readSaved (h : MemoryCanonical s) {ok l} : MemoryCanonical (s.readSaved ok l).1 := by
  induction l generalizing s with
  | nil => exact h
  | cons a r ih =>
    rw [State.readSaved]
    split
    split
    · exact h.savedBytes.answered ‹_›
    · split <;> exact (ih (h.savedBytes.answered ‹_›)).answered ‹_›
theorem MemoryCanonical.failRestore (h : MemoryCanonical s) {lid cause tval} :
    MemoryCanonical (s.failRestore lid cause tval) := (MemoryCanonical.either h.modLaunch.finishLaunch h.modLaunch.cancelLaunch).progress
theorem MemoryCanonical.evictHome (h : MemoryCanonical s) {cl id} : MemoryCanonical (s.evictHome cl id) := by
  unfold State.evictHome
  extract_lets +onlyGivenNames o
  refine .either h ?_
  refine .either ?_ h.freeTile
  split
  · exact (h.spillTile.answered ‹_›).freeTile
  · exact h.spillTile.answered ‹_›
theorem MemoryCanonical.clearIds (h : MemoryCanonical s) {cl ids} :
    MemoryCanonical (s.clearIds cl ids).1 := h.foldl fun _ _ h => h.evictHome
/-- The read of a tile's image is made opaque first: it is so long that evaluating it must be avoided. -/
theorem MemoryCanonical.restoreTiles (h : MemoryCanonical s) {l cl m data} : MemoryCanonical (s.restoreTiles l cl m data).1 := by
  have hT : ∀ {t}, MemoryCanonical t → ∀ cl id ctx job va, MemoryCanonical (t.fillTile cl id ctx job va).1 := fun h _ _ _ _ _ => h.fillTile
  delta State.restoreTiles State.restoreTiles._f
  revert hT
  obtain ⟨T, hT⟩ : ∃ T, T = @State.fillTile := ⟨_, rfl⟩
  rw [← hT]
  clear hT
  intro hT
  refine brecOn_induction (P := fun g : State → List Byte → State × Option (Nat × Bad) => ∀ s d, MemoryCanonical s → MemoryCanonical (g s
      d).1)
    (fun _ _ h => h) (fun a r g b ih s d h => ?_) m s data h
  obtain ⟨id, o⟩ := a
  dsimp only
  split
  · exact ih _ _ h.putTile.setOwn
  · split
    · exact ((hT h _ _ _ _ _).answered ‹_›).freeTile
    · exact ih _ _ ((hT h _ _ _ _ _).answered ‹_›).setOwn
theorem MemoryCanonical.restoreFibre (h : MemoryCanonical s) {g ga sv r} :
    MemoryCanonical (s.restoreFibre g ga sv r) :=
      (((h.setFibre.foldl fun _ _ h => h.setSlot).foldl fun _ _ h => .either h.update h.update.setSlot).modGather).joinSet
theorem MemoryCanonical.restoreGather (h : MemoryCanonical s) {n ga sv l} :
    MemoryCanonical (s.restoreGather n ga sv l) := (h.update.clearAlloc.setGather.setSp.foldl fun _ _ h => h.restoreFibre).acquireDrops
theorem MemoryCanonical.placeSaved {t : State} (h : MemoryCanonical s) {lid l k sv secs m} (e : s.placeSaved lid l k sv secs m = some t) :
    MemoryCanonical t := by
  induction m generalizing s with
  | nil => exact Option.some.inj e ▸ h
  | cons a r ih =>
    rw [State.placeSaved] at e
    split at e
    · cases e
    · split at e
      · cases e
      · exact ih h.restoreGather e
theorem MemoryCanonical.restoreSections (h : MemoryCanonical s) {lid l sv m} : MemoryCanonical (s.restoreSections lid l sv m).1 := by
  induction m generalizing s with
  | nil => exact h
  | cons a r ih =>
    rw [State.restoreSections]
    split
    · exact h.restoreTiles.answered ‹_›
    · exact ih ((h.restoreTiles.answered ‹_›).setSeq)
theorem MemoryCanonical.readySections {t : State} (h : MemoryCanonical s) {sv m} (e : s.readySections sv m = some t) :
    MemoryCanonical t := by
  induction m generalizing s with
  | nil => exact Option.some.inj e ▸ h
  | cons a r ih =>
    rw [State.readySections] at e
    split at e
    · cases e
    · split at e
      · exact ih (h.clearIds.answered ‹_›) e
      · cases e
theorem MemoryCanonical.restoreLaunch (h : MemoryCanonical s) {lid l k sv hs secs} :
    MemoryCanonical (s.restoreLaunch lid l k sv hs secs) := by
  unfold State.restoreLaunch
  split
  · exact h
  · have h1 := h.readySections ‹_›
    split
    · exact h
    · have h2 := h1.placeSaved ‹_›
      split
      · exact (h1.restoreSections.answered ‹_›).endPrograms.failRestore
      · split
        extract_lets +onlyGivenNames d t
        have ht : MemoryCanonical t := (h2.restoreSections.answered ‹_›).update
        exact ht.modLaunch.progress
theorem MemoryCanonical.execRestore (h : MemoryCanonical s) {lid} : NextCanonical (execRestore lid s) := by
  unfold Machine.execRestore
  split
  · split
    · exact h
    · split
      · exact h
      · split
        · exact (h.readSaved.answered ‹_›).failRestore
        · split
          · exact (((h.readSaved.answered ‹_›).readSaved).answered ‹_›).failRestore
          · exact (((h.readSaved.answered ‹_›).readSaved).answered ‹_›).restoreLaunch
  · exact h

theorem MemoryCanonical.setDbg (h : MemoryCanonical s) {n d} : MemoryCanonical (s.setDbg n d) := h.update
theorem MemoryCanonical.dropHalted (h : MemoryCanonical s) : MemoryCanonical (s.dropHalted) := .either h h.update
theorem MemoryCanonical.execDbgHaltreq (h : MemoryCanonical s) {slot} : NextCanonical (execDbgHaltreq slot s) := by
  unfold Machine.execDbgHaltreq
  split
  · exact h
  · exact (h.foldl fun _ _ h => h.modFibre).setDbg
theorem MemoryCanonical.continueFibre (h : MemoryCanonical s) {f} : MemoryCanonical (s.continueFibre f) := by
  unfold State.continueFibre
  split
  · exact h
  · exact .either h (.either (.either h.setFibre.joinSet h.setFibre.deliver) h.setFibre)
theorem MemoryCanonical.putRecord {t : State} (h : MemoryCanonical s) {f ga x bs} (e : s.putRecord f ga x bs = some t) :
    MemoryCanonical t := by
  unfold State.putRecord at e
  dsimp only at e
  split at e
  · cases e
  · rw [← Option.some.inj e]
    exact (h.setFibre.dropProds.foldl fun _ _ h => h.setSlot).modGather.joinSet
theorem MemoryCanonical.continueSome (h : MemoryCanonical s) {slot sel} : MemoryCanonical (s.continueSome slot sel) := by
  unfold State.continueSome
  split
  · exact h
  · exact h.foldl fun _ _ h => h.continueFibre
theorem MemoryCanonical.execDbgcmdFibre (h : MemoryCanonical s) {slot v} : NextCanonical (execDbgcmdFibre slot v s) := h.continueSome
theorem MemoryCanonical.execDbgcmdGather (h : MemoryCanonical s) {slot v} : NextCanonical (execDbgcmdGather slot v s) := h.continueSome
theorem MemoryCanonical.goOnSeqs (h : MemoryCanonical s) {job} : MemoryCanonical (s.goOnSeqs job) := h.foldl fun _ _ h => h.count.setSeq
theorem MemoryCanonical.execDbgcmdJob (h : MemoryCanonical s) {slot n} : NextCanonical (execDbgcmdJob slot n s) := by
  unfold Machine.execDbgcmdJob
  split
  · exact h
  · exact h.continueSome.goOnSeqs

end Sys2Proof.Safety
end

section
/-! What the computing instructions keep (R284 to R303): each of them reads its operands and delivers a value. -/
namespace Sys2Proof.Safety
open Sys2Proof.Machine
variable {s : State}

theorem MemoryCanonical.execFadd (h : MemoryCanonical s) {d a b} : NextCanonical (execFadd d a b s) := h.compute2
theorem MemoryCanonical.execFsub (h : MemoryCanonical s) {d a b} : NextCanonical (execFsub d a b s) := h.compute2
theorem MemoryCanonical.execFmul (h : MemoryCanonical s) {d a b} : NextCanonical (execFmul d a b s) := h.compute2
theorem MemoryCanonical.execFma (h : MemoryCanonical s) {d a b c} : NextCanonical (execFma d a b c s) := h.compute3
theorem MemoryCanonical.execFmin (h : MemoryCanonical s) {d a b} : NextCanonical (execFmin d a b s) := h.compute2
theorem MemoryCanonical.execFmax (h : MemoryCanonical s) {d a b} : NextCanonical (execFmax d a b s) := h.compute2
theorem MemoryCanonical.execFabs (h : MemoryCanonical s) {d a} : NextCanonical (execFabs d a s) := h.compute1
theorem MemoryCanonical.execFneg (h : MemoryCanonical s) {d a} : NextCanonical (execFneg d a s) := h.compute1
theorem MemoryCanonical.execFeq (h : MemoryCanonical s) {d a b} : NextCanonical (execFeq d a b s) := h.compute2
theorem MemoryCanonical.execFne (h : MemoryCanonical s) {d a b} : NextCanonical (execFne d a b s) := h.compute2
theorem MemoryCanonical.execFlt (h : MemoryCanonical s) {d a b} : NextCanonical (execFlt d a b s) := h.compute2
theorem MemoryCanonical.execFle (h : MemoryCanonical s) {d a b} : NextCanonical (execFle d a b s) := h.compute2
theorem MemoryCanonical.execFunord (h : MemoryCanonical s) {d a b} : NextCanonical (execFunord d a b s) := h.compute2
theorem MemoryCanonical.execFrndn (h : MemoryCanonical s) {d a} : NextCanonical (execFrndn d a s) := h.compute1
theorem MemoryCanonical.execFrndz (h : MemoryCanonical s) {d a} : NextCanonical (execFrndz d a s) := h.compute1
theorem MemoryCanonical.execFrndu (h : MemoryCanonical s) {d a} : NextCanonical (execFrndu d a s) := h.compute1
theorem MemoryCanonical.execFrndd (h : MemoryCanonical s) {d a} : NextCanonical (execFrndd d a s) := h.compute1
theorem MemoryCanonical.execFsat (h : MemoryCanonical s) {d a} : NextCanonical (execFsat d a s) := h.compute1
theorem MemoryCanonical.execFcsgn (h : MemoryCanonical s) {d a b} : NextCanonical (execFcsgn d a b s) := h.compute2
theorem MemoryCanonical.execFdiv (h : MemoryCanonical s) {d a b} : NextCanonical (execFdiv d a b s) := h.compute2
theorem MemoryCanonical.execFsqrt (h : MemoryCanonical s) {d a} : NextCanonical (execFsqrt d a s) := h.compute1
theorem MemoryCanonical.execHadd (h : MemoryCanonical s) {bf d a b} : NextCanonical (execHadd bf d a b s) := h.compute2
theorem MemoryCanonical.execHsub (h : MemoryCanonical s) {bf d a b} : NextCanonical (execHsub bf d a b s) := h.compute2
theorem MemoryCanonical.execHmul (h : MemoryCanonical s) {bf d a b} : NextCanonical (execHmul bf d a b s) := h.compute2
theorem MemoryCanonical.execHfma (h : MemoryCanonical s) {bf d a b c} : NextCanonical (execHfma bf d a b c s) := h.compute3
theorem MemoryCanonical.execHmin (h : MemoryCanonical s) {bf d a b} : NextCanonical (execHmin bf d a b s) := h.compute2
theorem MemoryCanonical.execHmax (h : MemoryCanonical s) {bf d a b} : NextCanonical (execHmax bf d a b s) := h.compute2
theorem MemoryCanonical.execHneg (h : MemoryCanonical s) {n d a} : NextCanonical (execHneg n d a s) := h.compute1
theorem MemoryCanonical.execHabs (h : MemoryCanonical s) {n d a} : NextCanonical (execHabs n d a s) := h.compute1
theorem MemoryCanonical.execHdot2 (h : MemoryCanonical s) {bf d a b c} : NextCanonical (execHdot2 bf d a b c s) := h.compute3

theorem MemoryCanonical.execIcmp (h : MemoryCanonical s) {ty cond d a b} : NextCanonical (execIcmp ty cond d a b s) := h.compute2
theorem MemoryCanonical.execAddi (h : MemoryCanonical s) {w64 d a imm} : NextCanonical (execAddi w64 d a imm s) := h.compute1
theorem MemoryCanonical.execAndi (h : MemoryCanonical s) {w64 d a imm} : NextCanonical (execAndi w64 d a imm s) := h.compute1
theorem MemoryCanonical.execOri (h : MemoryCanonical s) {w64 d a imm} : NextCanonical (execOri w64 d a imm s) := h.compute1
theorem MemoryCanonical.execShli (h : MemoryCanonical s) {d a n} : NextCanonical (execShli d a n s) := h.compute1
theorem MemoryCanonical.execShri (h : MemoryCanonical s) {d a n} : NextCanonical (execShri d a n s) := h.compute1
theorem MemoryCanonical.execSari (h : MemoryCanonical s) {d a n} : NextCanonical (execSari d a n s) := h.compute1
theorem MemoryCanonical.execRotli (h : MemoryCanonical s) {d a n} : NextCanonical (execRotli d a n s) := h.compute1
theorem MemoryCanonical.execLhi (h : MemoryCanonical s) {d imm} : NextCanonical (execLhi d imm s) := h.compute0
theorem MemoryCanonical.execPchi (h : MemoryCanonical s) {d imm} : NextCanonical (execPchi d imm s) := h.compute0
theorem MemoryCanonical.execBfx (h : MemoryCanonical s) {d a b} : NextCanonical (execBfx d a b s) := h.compute2
theorem MemoryCanonical.execBfxn (h : MemoryCanonical s) {d a b} : NextCanonical (execBfxn d a b s) := h.compute2
theorem MemoryCanonical.execBfi (h : MemoryCanonical s) {d a b c} : NextCanonical (execBfi d a b c s) := h.compute3
theorem MemoryCanonical.execLea1 (h : MemoryCanonical s) {d a b} : NextCanonical (execLea1 d a b s) := h.compute2
theorem MemoryCanonical.execLea2 (h : MemoryCanonical s) {d a b} : NextCanonical (execLea2 d a b s) := h.compute2
theorem MemoryCanonical.execLea4 (h : MemoryCanonical s) {d a b} : NextCanonical (execLea4 d a b s) := h.compute2
theorem MemoryCanonical.execLea8 (h : MemoryCanonical s) {d a b} : NextCanonical (execLea8 d a b s) := h.compute2
theorem MemoryCanonical.execLea16 (h : MemoryCanonical s) {d a b} : NextCanonical (execLea16 d a b s) := h.compute2
theorem MemoryCanonical.execPerm (h : MemoryCanonical s) {d a b c} : NextCanonical (execPerm d a b c s) := h.compute3
theorem MemoryCanonical.execMad (h : MemoryCanonical s) {d a b c} : NextCanonical (execMad d a b c s) := h.compute3
theorem MemoryCanonical.execMad64 (h : MemoryCanonical s) {d a b c} : NextCanonical (execMad64 d a b c s) := h.compute3
theorem MemoryCanonical.execPand (h : MemoryCanonical s) {d a b} : NextCanonical (execPand d a b s) := h.compute2
theorem MemoryCanonical.execPor (h : MemoryCanonical s) {d a b} : NextCanonical (execPor d a b s) := h.compute2
theorem MemoryCanonical.execPxor (h : MemoryCanonical s) {d a b} : NextCanonical (execPxor d a b s) := h.compute2
theorem MemoryCanonical.execPnot (h : MemoryCanonical s) {d a} : NextCanonical (execPnot d a s) := h.compute1
theorem MemoryCanonical.execPandn (h : MemoryCanonical s) {d a b} : NextCanonical (execPandn d a b s) := h.compute2
theorem MemoryCanonical.execP2i (h : MemoryCanonical s) {d a} : NextCanonical (execP2i d a s) := h.compute1
theorem MemoryCanonical.execI2p (h : MemoryCanonical s) {d a} : NextCanonical (execI2p d a s) := h.compute1

theorem MemoryCanonical.execAdd (h : MemoryCanonical s) {d a b} : NextCanonical (execAdd d a b s) := h.compute2
theorem MemoryCanonical.execSub (h : MemoryCanonical s) {d a b} : NextCanonical (execSub d a b s) := h.compute2
theorem MemoryCanonical.execMul (h : MemoryCanonical s) {d a b} : NextCanonical (execMul d a b s) := h.compute2
theorem MemoryCanonical.execMulh (h : MemoryCanonical s) {d a b} : NextCanonical (execMulh d a b s) := h.compute2
theorem MemoryCanonical.execMulhn (h : MemoryCanonical s) {d a b} : NextCanonical (execMulhn d a b s) := h.compute2
theorem MemoryCanonical.execMin (h : MemoryCanonical s) {d a b} : NextCanonical (execMin d a b s) := h.compute2
theorem MemoryCanonical.execMax (h : MemoryCanonical s) {d a b} : NextCanonical (execMax d a b s) := h.compute2
theorem MemoryCanonical.execMinn (h : MemoryCanonical s) {d a b} : NextCanonical (execMinn d a b s) := h.compute2
theorem MemoryCanonical.execMaxn (h : MemoryCanonical s) {d a b} : NextCanonical (execMaxn d a b s) := h.compute2
theorem MemoryCanonical.execAnd (h : MemoryCanonical s) {d a b} : NextCanonical (execAnd d a b s) := h.compute2
theorem MemoryCanonical.execOr (h : MemoryCanonical s) {d a b} : NextCanonical (execOr d a b s) := h.compute2
theorem MemoryCanonical.execXor (h : MemoryCanonical s) {d a b} : NextCanonical (execXor d a b s) := h.compute2
theorem MemoryCanonical.execAndn (h : MemoryCanonical s) {d a b} : NextCanonical (execAndn d a b s) := h.compute2
theorem MemoryCanonical.execShl (h : MemoryCanonical s) {d a b} : NextCanonical (execShl d a b s) := h.compute2
theorem MemoryCanonical.execShr (h : MemoryCanonical s) {d a b} : NextCanonical (execShr d a b s) := h.compute2
theorem MemoryCanonical.execSar (h : MemoryCanonical s) {d a b} : NextCanonical (execSar d a b s) := h.compute2
theorem MemoryCanonical.execRotl (h : MemoryCanonical s) {d a b} : NextCanonical (execRotl d a b s) := h.compute2
theorem MemoryCanonical.execClz (h : MemoryCanonical s) {d a} : NextCanonical (execClz d a s) := h.compute1
theorem MemoryCanonical.execCtz (h : MemoryCanonical s) {d a} : NextCanonical (execCtz d a s) := h.compute1
theorem MemoryCanonical.execPopc (h : MemoryCanonical s) {d a} : NextCanonical (execPopc d a s) := h.compute1
theorem MemoryCanonical.execBrev (h : MemoryCanonical s) {d a} : NextCanonical (execBrev d a s) := h.compute1
theorem MemoryCanonical.execAbs (h : MemoryCanonical s) {d a} : NextCanonical (execAbs d a s) := h.compute1
theorem MemoryCanonical.execNeg (h : MemoryCanonical s) {d a} : NextCanonical (execNeg d a s) := h.compute1
theorem MemoryCanonical.execNot (h : MemoryCanonical s) {d a} : NextCanonical (execNot d a s) := h.compute1
theorem MemoryCanonical.execAdds (h : MemoryCanonical s) {d a b} : NextCanonical (execAdds d a b s) := h.compute2
theorem MemoryCanonical.execSubs (h : MemoryCanonical s) {d a b} : NextCanonical (execSubs d a b s) := h.compute2
theorem MemoryCanonical.execDiv (h : MemoryCanonical s) {d a b} : NextCanonical (execDiv d a b s) := h.compute2
theorem MemoryCanonical.execDivn (h : MemoryCanonical s) {d a b} : NextCanonical (execDivn d a b s) := h.compute2
theorem MemoryCanonical.execRem (h : MemoryCanonical s) {d a b} : NextCanonical (execRem d a b s) := h.compute2
theorem MemoryCanonical.execRemn (h : MemoryCanonical s) {d a b} : NextCanonical (execRemn d a b s) := h.compute2
theorem MemoryCanonical.execMov (h : MemoryCanonical s) {d a} : NextCanonical (execMov d a s) := h.compute1
theorem MemoryCanonical.execXtnd (h : MemoryCanonical s) {d a k} : NextCanonical (execXtnd d a k s) := h.compute1
theorem MemoryCanonical.execAdd64 (h : MemoryCanonical s) {d a b} : NextCanonical (execAdd64 d a b s) := h.compute2
theorem MemoryCanonical.execSub64 (h : MemoryCanonical s) {d a b} : NextCanonical (execSub64 d a b s) := h.compute2
theorem MemoryCanonical.execMul64 (h : MemoryCanonical s) {d a b} : NextCanonical (execMul64 d a b s) := h.compute2
theorem MemoryCanonical.execMulh64 (h : MemoryCanonical s) {d a b} : NextCanonical (execMulh64 d a b s) := h.compute2
theorem MemoryCanonical.execMulhn64 (h : MemoryCanonical s) {d a b} : NextCanonical (execMulhn64 d a b s) := h.compute2
theorem MemoryCanonical.execMin64 (h : MemoryCanonical s) {d a b} : NextCanonical (execMin64 d a b s) := h.compute2
theorem MemoryCanonical.execMax64 (h : MemoryCanonical s) {d a b} : NextCanonical (execMax64 d a b s) := h.compute2
theorem MemoryCanonical.execMinn64 (h : MemoryCanonical s) {d a b} : NextCanonical (execMinn64 d a b s) := h.compute2
theorem MemoryCanonical.execMaxn64 (h : MemoryCanonical s) {d a b} : NextCanonical (execMaxn64 d a b s) := h.compute2
theorem MemoryCanonical.execAnd64 (h : MemoryCanonical s) {d a b} : NextCanonical (execAnd64 d a b s) := h.compute2
theorem MemoryCanonical.execOr64 (h : MemoryCanonical s) {d a b} : NextCanonical (execOr64 d a b s) := h.compute2
theorem MemoryCanonical.execXor64 (h : MemoryCanonical s) {d a b} : NextCanonical (execXor64 d a b s) := h.compute2
theorem MemoryCanonical.execAndn64 (h : MemoryCanonical s) {d a b} : NextCanonical (execAndn64 d a b s) := h.compute2
theorem MemoryCanonical.execShl64 (h : MemoryCanonical s) {d a b} : NextCanonical (execShl64 d a b s) := h.compute2
theorem MemoryCanonical.execShr64 (h : MemoryCanonical s) {d a b} : NextCanonical (execShr64 d a b s) := h.compute2
theorem MemoryCanonical.execSar64 (h : MemoryCanonical s) {d a b} : NextCanonical (execSar64 d a b s) := h.compute2
theorem MemoryCanonical.execRotl64 (h : MemoryCanonical s) {d a b} : NextCanonical (execRotl64 d a b s) := h.compute2
theorem MemoryCanonical.execClz64 (h : MemoryCanonical s) {d a} : NextCanonical (execClz64 d a s) := h.compute1
theorem MemoryCanonical.execCtz64 (h : MemoryCanonical s) {d a} : NextCanonical (execCtz64 d a s) := h.compute1
theorem MemoryCanonical.execPopc64 (h : MemoryCanonical s) {d a} : NextCanonical (execPopc64 d a s) := h.compute1
theorem MemoryCanonical.execBrev64 (h : MemoryCanonical s) {d a} : NextCanonical (execBrev64 d a s) := h.compute1
theorem MemoryCanonical.execAbs64 (h : MemoryCanonical s) {d a} : NextCanonical (execAbs64 d a s) := h.compute1
theorem MemoryCanonical.execNeg64 (h : MemoryCanonical s) {d a} : NextCanonical (execNeg64 d a s) := h.compute1
theorem MemoryCanonical.execNot64 (h : MemoryCanonical s) {d a} : NextCanonical (execNot64 d a s) := h.compute1
theorem MemoryCanonical.execAdds64 (h : MemoryCanonical s) {d a b} : NextCanonical (execAdds64 d a b s) := h.compute2
theorem MemoryCanonical.execSubs64 (h : MemoryCanonical s) {d a b} : NextCanonical (execSubs64 d a b s) := h.compute2
theorem MemoryCanonical.execDiv64 (h : MemoryCanonical s) {d a b} : NextCanonical (execDiv64 d a b s) := h.compute2
theorem MemoryCanonical.execDivn64 (h : MemoryCanonical s) {d a b} : NextCanonical (execDivn64 d a b s) := h.compute2
theorem MemoryCanonical.execRem64 (h : MemoryCanonical s) {d a b} : NextCanonical (execRem64 d a b s) := h.compute2
theorem MemoryCanonical.execRemn64 (h : MemoryCanonical s) {d a b} : NextCanonical (execRemn64 d a b s) := h.compute2
theorem MemoryCanonical.execMov64 (h : MemoryCanonical s) {d a} : NextCanonical (execMov64 d a s) := h.compute1
theorem MemoryCanonical.execXtnd64 (h : MemoryCanonical s) {d a k} : NextCanonical (execXtnd64 d a k s) := h.compute1
theorem MemoryCanonical.execMulw (h : MemoryCanonical s) {d a b} : NextCanonical (execMulw d a b s) := h.compute2
theorem MemoryCanonical.execMulwn (h : MemoryCanonical s) {d a b} : NextCanonical (execMulwn d a b s) := h.compute2

end Sys2Proof.Safety
end

section
/-! What firmware's registers and services, and what comes from outside or fails, keep (R16 to R18, R65 to R67, R98 to R101, R161,
R450 to R465). -/
namespace Sys2Proof.Safety
open Sys2Proof.Machine
variable {s : State}

theorem MemoryCanonical.setMailbox (h : MemoryCanonical s) {func m} : MemoryCanonical (s.setMailbox func m) := h.update
theorem MemoryCanonical.answer (h : MemoryCanonical s) {func st rep} : MemoryCanonical (s.answer func st rep) := h.setMailbox
theorem MemoryCanonical.service (h : MemoryCanonical s) {code vf func} {run : Mailbox → State → State} (hrun : ∀ a s, MemoryCanonical s →
    MemoryCanonical (run a s)) :
    NextCanonical (service code vf func run s) := MemoryCanonical.either h (.either h.answer (hrun _ _ h))
theorem MemoryCanonical.readImageAt (h : MemoryCanonical s) {pa n} : MemoryCanonical (s.readImageAt pa n).1 := by
  unfold State.readImageAt
  split
  · split
    exact h.mgmtRead.answered ‹_›
  · exact h.outsideRead
  · exact h
theorem MemoryCanonical.execServiceRegister (h : MemoryCanonical s) {func} : NextCanonical (execServiceRegister func s) := by
  unfold Machine.execServiceRegister
  refine MemoryCanonical.service h (fun m s h => ?_)
  extract_lets +onlyGivenNames d1 job n libs
  refine .either h.answer ?_
  refine .either h.answer ?_
  split
  · exact (h.readImageAt.answered ‹_›).answer
  · exact (((h.readImageAt.answered ‹_›).setObj).update).answer
theorem MemoryCanonical.execServiceWithdraw (h : MemoryCanonical s) {func} : NextCanonical (execServiceWithdraw func s) := by
  unfold Machine.execServiceWithdraw
  refine MemoryCanonical.service h (fun m s h => ?_)
  split
  · exact h.answer
  · exact .either h.answer (.either h.answer h.setObj.answer)
theorem MemoryCanonical.execServiceInvalidate (h : MemoryCanonical s) {func} :
    NextCanonical (execServiceInvalidate func s) := h.service (fun _ _ h => .either h h.update.update.xlatCmd.update.answer)
theorem MemoryCanonical.execServicePowerMode (h : MemoryCanonical s) {func} :
    NextCanonical (execServicePowerMode func s) := h.service (fun _ _ h => .either h.answer h.update.answer)
theorem MemoryCanonical.execServiceReadLog (h : MemoryCanonical s) {func} :
    NextCanonical (execServiceReadLog func s) := h.service (fun _ _ h => h.answer)
theorem MemoryCanonical.writeDbgctl (h : MemoryCanonical s) {n v} : MemoryCanonical (s.writeDbgctl n v) := by
  unfold State.writeDbgctl
  extract_lets +onlyGivenNames d t
  have ht : MemoryCanonical t := h.setDbg
  refine .either ?_ ht
  split
  · exact ht.execDbgHaltreq.next ‹_›
  · exact ht
theorem MemoryCanonical.writeDbgcmd (h : MemoryCanonical s) {n v} : MemoryCanonical (s.writeDbgcmd n v) := by
  unfold State.writeDbgcmd
  have hr : NextCanonical (match bits v.toNat 21 20 with
    | 0 => Machine.execDbgcmdFibre n v s
    | 1 => Machine.execDbgcmdGather n v s
    | 2 => Machine.execDbgcmdJob n v s
    | _ => .next s) := by
    split
    · exact h.execDbgcmdFibre
    · exact h.execDbgcmdGather
    · exact h.execDbgcmdJob
    · exact h
  split
  · exact hr.next ‹_›
  · exact h
theorem MemoryCanonical.writeOwn (h : MemoryCanonical s) {cl id dw v} :
    MemoryCanonical (s.writeOwn cl id dw v) := .either h.clearTile.setOwn h.setOwn
theorem MemoryCanonical.setBridge (h : MemoryCanonical s) {br b} : MemoryCanonical (s.setBridge br b) := h.update
theorem MemoryCanonical.written {r : Result} (h : MemoryCanonical s) (hr : NextCanonical r) : MemoryCanonical (Machine.written s r) := by
  cases r with
  | next t => exact hr
  | _ => exact h
theorem MemoryCanonical.writeReg (h : MemoryCanonical s) {r v} : MemoryCanonical (s.writeReg r v) := by
  unfold State.writeReg
  split
  · exact h.update
  · exact h.xlatCmd
  · exact MemoryCanonical.written h h.execCspartWrite
  · exact MemoryCanonical.written h h.execBvdrainWrite
  · exact MemoryCanonical.written h h.execQcfgWrite
  · exact h.update
  · exact .either h.setPart h
  · exact h.update
  · exact .either h.writeDbgctl h
  · exact .either h.setDbg h
  · exact .either h.writeOwn h
  · exact h
  · exact h
  · exact h
  · exact .either h.setMailbox h
  · exact .either h.setMailbox h
theorem MemoryCanonical.execRegisterWrite (h : MemoryCanonical s) {r v} : NextCanonical (execRegisterWrite r v s) := h.writeReg
theorem MemoryCanonical.debugRecord (h : MemoryCanonical s) {func n m wr} : MemoryCanonical (s.debugRecord func n m wr) := by
  unfold State.debugRecord
  extract_lets +onlyGivenNames o
  split
  · exact h.answer
  · extract_lets +onlyGivenNames bs
    refine .either h.answer ?_
    refine .either ?_ h.answer
    split
    · exact (h.putRecord ‹_›).answer
    · exact h.answer
theorem MemoryCanonical.execServiceDebugSlot (h : MemoryCanonical s) {func} :
    NextCanonical (execServiceDebugSlot func s) := h.service (fun _ _ h => .either h.answer (.either h.debugRecord (.either
      ((MemoryCanonical.either h.writeDbgcmd h).answer) ((MemoryCanonical.either h.writeReg h).answer))))
theorem MemoryCanonical.putCtx (h : MemoryCanonical s) {c} : MemoryCanonical (s.putCtx c) := h.update
theorem MemoryCanonical.configure {t : State} (h : MemoryCanonical s) {m} (e : s.configure m = some t) : MemoryCanonical t := by
  unfold State.configure at e
  dsimp only at e
  split at e
  · split at e
    · exact Option.some.inj e ▸ h.putCtx
    · cases e
  · exact Option.some.inj e ▸ h.setQueue
  · split at e
    · split at e
      · cases e
      · exact Option.some.inj e ▸ h.update
    · exact Option.some.inj e ▸ h.update
  · exact Option.some.inj e ▸ h.update
  · exact Option.some.inj e ▸ h.update
  · split at e
    · cases e
    · exact Option.some.inj e ▸ h.update
  · cases e
theorem MemoryCanonical.execServiceJobConfig (h : MemoryCanonical s) {func} : NextCanonical (execServiceJobConfig func s) := by
  unfold Machine.execServiceJobConfig
  refine MemoryCanonical.service h (fun m s h => ?_)
  split
  · exact (h.configure ‹_›).answer
  · exact h.answer
theorem MemoryCanonical.restart : MemoryCanonical s.restart := Memory.wf_nil
theorem MemoryCanonical.execReset (_h : MemoryCanonical s) : NextCanonical (execReset s) := MemoryCanonical.restart
theorem MemoryCanonical.execManagementCoreFailure (h : MemoryCanonical s) : NextCanonical (execManagementCoreFailure s) := h.update
theorem MemoryCanonical.execServiceLoadFirmware (h : MemoryCanonical s) {func} :
    NextCanonical (execServiceLoadFirmware func s) :=
      MemoryCanonical.either (.either h h.answer) (.either h (.either MemoryCanonical.restart h.update.answer))
theorem MemoryCanonical.execMailboxReply (h : MemoryCanonical s) {func} : NextCanonical (Machine.execMailboxReply func s) := by
  have give (m : Mailbox) : MemoryCanonical (s.setMailbox func m) := h.setMailbox
  unfold Machine.execMailboxReply
  extract_lets +onlyGivenNames m g
  refine MemoryCanonical.either h ?_
  split
  · split
    · exact give _
    · exact h
  · exact .either (give _) h

theorem MemoryCanonical.execOnchipMapWrite (h : MemoryCanonical s) {off bytes} :
    NextCanonical (execOnchipMapWrite off bytes s) := h.mgmtMapWrite
theorem MemoryCanonical.sendIn (h : MemoryCanonical s) {line} : MemoryCanonical (s.sendIn line) := h.send
theorem MemoryCanonical.sendBack (h : MemoryCanonical s) {line} : MemoryCanonical (s.sendBack line) := h.send
theorem MemoryCanonical.homeWrite (h : MemoryCanonical s) {clears cs} :
    MemoryCanonical (s.homeWrite clears cs) := h.foldl fun _ _ h => h.sendIn.drainLine.writeLine
theorem MemoryCanonical.homeRead (h : MemoryCanonical s) {pa n} :
    MemoryCanonical (s.homeRead pa n) := ((h.foldl fun _ _ h => h.sendIn).readPhys).foldl fun _ _ h => h.sendBack
theorem MemoryCanonical.execHostWindowAccess (h : MemoryCanonical s) {func off len wr} :
    NextCanonical (execHostWindowAccess func off len wr s) := by
  unfold Machine.execHostWindowAccess
  extract_lets +onlyGivenNames pa n
  split
  · exact h
  · split
    · exact h.homeWrite
    · exact h.homeRead
theorem MemoryCanonical.execPeerRequest (h : MemoryCanonical s) {op addr len bytes} :
    NextCanonical (execPeerRequest op addr len bytes s) := by
  unfold Machine.execPeerRequest
  extract_lets +onlyGivenNames ok
  split
  · exact MemoryCanonical.either h.homeRead h
  · exact MemoryCanonical.either h.homeWrite h
  · exact MemoryCanonical.either h h.sendIn.drainLine.rmwAt.sendBack
theorem MemoryCanonical.failWalks (h : MemoryCanonical s) {lost} :
    MemoryCanonical (s.failWalks lost) := h.updateMs.foldl fun _ _ h => h.failWaiters
theorem MemoryCanonical.failNodes (h : MemoryCanonical s) {lost} :
    MemoryCanonical (s.failNodes lost) := h.foldl fun _ _ h => h.foldl fun _ _ h => h.nodeFault
theorem MemoryCanonical.failSeqs (h : MemoryCanonical s) {lost} : MemoryCanonical (s.failSeqs lost) := by
  unfold State.failSeqs
  refine MemoryCanonical.foldl h fun s a h => ?_
  extract_lets +onlyGivenNames q
  refine .either h ?_
  refine .either h.seqFault ?_
  split
  · split
    · exact h.seqFault
    · exact h
  · exact h
theorem MemoryCanonical.failFills (h : MemoryCanonical s) {lost home} :
    MemoryCanonical (s.failFills lost home) := (h.updateMs.foldl fun _ _ h => h.foldl fun _ _ h => h.addFresh).foldl fun _ _ h => h.addFresh
theorem MemoryCanonical.failIFills (h : MemoryCanonical s) {lost} :
    MemoryCanonical (s.failIFills lost) := h.foldl fun _ _ h => h.foldl fun _ _ h => (MemoryCanonical.either h.count h).setFabric
theorem MemoryCanonical.failLoads (h : MemoryCanonical s) {lost} : MemoryCanonical (s.failLoads lost) := by
  unfold State.failLoads
  refine MemoryCanonical.foldl h fun s a h => ?_
  split
  · exact .either h h.poisonLoad
  · exact h
theorem MemoryCanonical.failAtoms (h : MemoryCanonical s) {lost} : MemoryCanonical (s.failAtoms lost) := by
  unfold State.failAtoms
  refine MemoryCanonical.foldl h fun s a h => ?_
  split
  · split
    · exact .either h.postFault h
    · exact h
  · exact h
theorem MemoryCanonical.failLaunches (h : MemoryCanonical s) {lost} : MemoryCanonical (s.failLaunches lost) := by
  unfold State.failLaunches
  refine MemoryCanonical.foldl h fun s a h => ?_
  split
  · split
    · exact .either h.donePost h
    · exact h
  · exact h
theorem MemoryCanonical.keepWords (h : MemoryCanonical s) {before g ls} : MemoryCanonical (s.keepWords before g ls) := by
  unfold State.keepWords
  split
  · exact h.modGather
  · exact h
theorem MemoryCanonical.copyWithout {t : State} (h : MemoryCanonical s) {port o x} (e : s.copyWithout port o = some (t, x)) :
    MemoryCanonical t := by
  unfold State.copyWithout at e
  dsimp only at e
  split at e
  · cases e
  · split at e
    · have ht := (h.update.updateMs.perform).answered ‹_›
      split at e
      · cases e
      · cases e
        exact .either ht.updateMs.keepWords ht.updateMs
    · cases e
theorem MemoryCanonical.failCopies (h : MemoryCanonical s) {port core n} : MemoryCanonical (s.failCopies port core n) := by
  induction n generalizing s with
  | zero => exact h
  | succ n ih =>
    rw [State.failCopies]
    split
    · exact ih h
    · refine .either (ih h) ?_
      split
      · exact ih (h.copyWithout ‹_›).endCopy
      · exact ih h
theorem MemoryCanonical.execSecondTierTimeout (h : MemoryCanonical s) {port} :
    NextCanonical (execSecondTierTimeout port s) :=
      h.failWalks.failFills.failIFills.failLoads.failAtoms.failLaunches.failNodes.failSeqs.foldl fun _ _ h => h.failCopies
theorem MemoryCanonical.loseGather (h : MemoryCanonical s) {g ga} :
    MemoryCanonical (s.loseGather g ga) :=
      (((h.foldl fun _ _ h => h.clearWaits.leaveRdv.delInst.clearFresh).updateMs).removeGather).modLaunch
theorem MemoryCanonical.loseCore (h : MemoryCanonical s) {core} :
    MemoryCanonical (s.loseCore core) := (((h.foldl fun _ _ h => h.loseGather).setCopies).clearL1).updateMs
theorem MemoryCanonical.loseCluster (h : MemoryCanonical s) {cl} :
    MemoryCanonical (s.loseCluster cl) := ((h.foldl fun _ _ h => h.loseCore).foldl fun _ _ h => h.freeTile).updateMs
theorem MemoryCanonical.cancelOn (h : MemoryCanonical s) {p} : MemoryCanonical (s.cancelOn p) := h.foldl fun _ _ h => h.modLaunch.cancelNow
theorem MemoryCanonical.failReads (h : MemoryCanonical s) : MemoryCanonical (s.failReads) := h.updateMs.foldl fun _ _ h => h.addFresh
theorem MemoryCanonical.loseTokens (h : MemoryCanonical s) {reason p} : MemoryCanonical (s.loseTokens reason p) := h.update.updateMs
theorem MemoryCanonical.rebind (h : MemoryCanonical s) : MemoryCanonical (s.rebind) := h.updateMs.foldl fun _ _ h => h.releaseHeld
theorem MemoryCanonical.dieOut (h : MemoryCanonical s) {die} :
    MemoryCanonical (s.dieOut die) := .either h ((((((((h.cancelOn.foldl fun _ _ h =>
      h.loseCluster).loseTokens).clearDie).updateMs).failReads).rebind).logEvent).progress)
theorem MemoryCanonical.execDieOutOfService (h : MemoryCanonical s) {die} : NextCanonical (execDieOutOfService die s) := h.dieOut
theorem MemoryCanonical.execClusterFailure (h : MemoryCanonical s) {cl} :
    NextCanonical (execClusterFailure cl s) := MemoryCanonical.either h (.either h.dieOut ((((h.cancelOn.loseCluster.update.foldl
      fun _ _ h => h.nextInc).logEvent).foldl fun _ _ h => h.logEvent).progress))
theorem MemoryCanonical.execRowSparing (h : MemoryCanonical s) {die stack} :
    NextCanonical (execRowSparing die stack s) := MemoryCanonical.either h h.logEvent
theorem MemoryCanonical.execFlitReplay (h : MemoryCanonical s) {r} :
    NextCanonical (execFlitReplay r s) := MemoryCanonical.either h h.setBridge
theorem MemoryCanonical.execLinkRetrain (h : MemoryCanonical s) {br ok} :
    NextCanonical (execLinkRetrain br ok s) := MemoryCanonical.either h (.either h.setBridge (.either h.setBridge.logEvent h.setBridge))
theorem MemoryCanonical.failFence (h : MemoryCanonical s) {agent} : MemoryCanonical (s.failFence agent) := by
  unfold State.failFence
  extract_lets +onlyGivenNames t
  extract_lets +onlyGivenNames u
  have hu : MemoryCanonical u := by
    unfold u
    refine MemoryCanonical.updateMs ?_
    exact h
  refine .either hu.seqFault ?_
  split
  · split
    · exact hu.donePost
    · exact hu.postFault
  · exact hu
theorem MemoryCanonical.failOffers (h : MemoryCanonical s) {lost} :
    MemoryCanonical (s.failOffers lost) := h.updateMs.foldl fun _ _ h => .either h.seqFault h.postFault
theorem MemoryCanonical.failLink (h : MemoryCanonical s) {x y} :
    MemoryCanonical (s.failLink x y) := ((h.loseTokens.failWalks.failFills.failIFills.failLoads.failOffers.foldl fun _ _ h =>
      h.cutAcquire).foldl fun _ _ h => h.failFence).failNodes
theorem MemoryCanonical.execLinkDown (h : MemoryCanonical s) {br} :
    NextCanonical (execLinkDown br s) := MemoryCanonical.either h h.failLink.setBridge.setBridge.logEvent.update.dieOut
theorem MemoryCanonical.setPort (h : MemoryCanonical s) {p x} : MemoryCanonical (s.setPort p x) := h.update
theorem MemoryCanonical.execPortLaneFailure (h : MemoryCanonical s) {port} :
    NextCanonical (execPortLaneFailure port s) := MemoryCanonical.either h h.setPort
theorem MemoryCanonical.failStores (h : MemoryCanonical s) :
    MemoryCanonical (s.failStores) := h.foldl fun _ _ h => h.foldl fun _ _ h => h.nodeFault
theorem MemoryCanonical.execPortDown (h : MemoryCanonical s) {port} :
    NextCanonical (execPortDown port s) := MemoryCanonical.either h h.setPort.logEvent.update.loseTokens.failStores
theorem MemoryCanonical.execPowerChangeApply (h : MemoryCanonical s) :
    NextCanonical (execPowerChangeApply s) := MemoryCanonical.either h h.update
theorem MemoryCanonical.execArbiterInterval (h : MemoryCanonical s) {est estF} :
    NextCanonical (execArbiterInterval est estF s) := .either h h.update
theorem MemoryCanonical.execCoolantLimit (h : MemoryCanonical s) {watts} :
    NextCanonical (execCoolantLimit watts s) := MemoryCanonical.either h h.update.logEvent

end Sys2Proof.Safety
end

section
/-! What an instruction keeps is what its meaning keeps; a move keeps what its instruction does, and a step is a move of one agent
(R131, log entry 9). -/
namespace Sys2Proof.Safety
open Sys2Proof.Machine Sys2Proof.Claims
variable {s : State}

theorem MemoryCanonical.exec (h : MemoryCanonical s) {i} : NextCanonical (Machine.exec i s) := by
  cases i with
  | blockAdmission => exact h.execBlockAdmission
  | commit => exact h.execCommit
  | instanceFault => exact h.execInstanceFault
  | postCommitTrapDelivery => exact h.execPostCommitTrapDelivery
  | loadResultArrival => exact h.execLoadResultArrival
  | schedulerChoice => exact h.execSchedulerChoice
  | instructionLineFill => exact h.execInstructionLineFill
  | configBuildComplete => exact h.execConfigBuildComplete
  | configPlacement => exact h.execConfigPlacement
  | nodeTeardown => exact h.execNodeTeardown
  | fibreAgeing => exact h.execFibreAgeing
  | yieldDelayExpiry => exact h.execYieldDelayExpiry
  | windowFillComplete => exact h.execWindowFillComplete
  | homeWrite => exact h.execHomeWrite
  | copyOperationComplete => exact h.execCopyOperationComplete
  | drainRequest => exact h.execDrainRequest
  | acquireComplete => exact h.execAcquireComplete
  | fenceTokenArrival => exact h.execFenceTokenArrival
  | fenceComplete => exact h.execFenceComplete
  | l1AgeingSweep => exact h.execL1AgeingSweep
  | coherenceRequest => exact h.execCoherenceRequest
  | lineEviction => exact h.execLineEviction
  | directoryEntryEviction => exact h.execDirectoryEntryEviction
  | directoryError => exact h.execDirectoryError
  | agentRejoin => exact h.execAgentRejoin
  | holderOffer => exact h.execHolderOffer
  | grantRequest => exact h.execGrantRequest
  | forcedDrain => exact h.execForcedDrain
  | drainApplied => exact h.execDrainApplied
  | boundedRead => exact h.execBoundedRead
  | repartitionBankEmpty => exact h.execRepartitionBankEmpty
  | l1FlushComplete => exact h.execL1FlushComplete
  | xlatInvPageRange => exact h.execXlatInvPageRange
  | xlatInvContext => exact h.execXlatInvContext
  | xlatInvRegion => exact h.execXlatInvRegion
  | xlatInvCodeRange => exact h.execXlatInvCodeRange
  | xlatInvAll => exact h.execXlatInvAll
  | xlatInvalidationDone => exact h.execXlatInvalidationDone
  | cspartWrite => exact h.execCspartWrite
  | bvdrainWrite => exact h.execBvdrainWrite
  | qcfgWrite => exact h.execQcfgWrite
  | ingressPortWrite => exact h.execIngressPortWrite
  | launchAcceptance => exact h.execLaunchAcceptance
  | bindRecordWrite => exact h.execBindRecordWrite
  | gatherPlacement => exact h.execGatherPlacement
  | gatherExit => exact h.execGatherExit
  | launchCompletion => exact h.execLaunchCompletion
  | codeLoad => exact h.execCodeLoad
  | codeLoadComplete => exact h.execCodeLoadComplete
  | codeUnload => exact h.execCodeUnload
  | codeEviction => exact h.execCodeEviction
  | kill => exact h.execKill
  | drain => exact h.execDrain
  | checkpoint => exact h.execCheckpoint
  | checkpointSaved => exact h.execCheckpointSaved
  | restore => exact h.execRestore
  | timeSliceExpiry => exact h.execTimeSliceExpiry
  | sequencerProgramStart => exact h.execSequencerProgramStart
  | matComplete => exact h.execMatComplete
  | dbgHaltreq => exact h.execDbgHaltreq
  | dbgcmdFibre => exact h.execDbgcmdFibre
  | dbgcmdGather => exact h.execDbgcmdGather
  | dbgcmdJob _ v => exact h.execDbgcmdJob (n := v)
  | serviceRegister => exact h.execServiceRegister
  | serviceWithdraw => exact h.execServiceWithdraw
  | serviceInvalidate => exact h.execServiceInvalidate
  | servicePowerMode => exact h.execServicePowerMode
  | serviceReadLog => exact h.execServiceReadLog
  | serviceDebugSlot => exact h.execServiceDebugSlot
  | serviceJobConfig => exact h.execServiceJobConfig
  | serviceLoadFirmware => exact h.execServiceLoadFirmware
  | mailboxReply => exact h.execMailboxReply
  | onchipMapWrite => exact h.execOnchipMapWrite
  | registerWrite => exact h.execRegisterWrite
  | hostWindowAccess => exact h.execHostWindowAccess
  | peerRequest => exact h.execPeerRequest
  | atsInvalidation => exact h.execAtsInvalidation
  | priResponse => exact h.execPriResponse
  | priTimeout => exact h.execPriTimeout
  | secondTierTimeout => exact h.execSecondTierTimeout
  | flitReplay => exact h.execFlitReplay
  | linkRetrain => exact h.execLinkRetrain
  | linkDown => exact h.execLinkDown
  | portLaneFailure => exact h.execPortLaneFailure
  | portDown => exact h.execPortDown
  | clusterFailure => exact h.execClusterFailure
  | dieOutOfService => exact h.execDieOutOfService
  | rowSparing => exact h.execRowSparing
  | powerChangeApply => exact h.execPowerChangeApply
  | arbiterInterval => exact h.execArbiterInterval
  | coolantLimit => exact h.execCoolantLimit
  | reset => exact h.execReset
  | pageWalkComplete => exact h.execPageWalkComplete
  | grantRecordEviction => exact h.execGrantRecordEviction
  | homeTileEviction => exact h.execHomeTileEviction
  | sendAllowanceGrant => exact h.execSendAllowanceGrant
  | atsTranslationCompletion => exact h.execAtsTranslationCompletion
  | jobClose => exact h.execJobClose
  | managementCoreFailure => exact h.execManagementCoreFailure
  | jmp => exact h.execJmp
  | brt => exact h.execBrt
  | brf => exact h.execBrf
  | call => exact h.execCall
  | tramp => exact h.execTramp
  | trampLink => exact h.execTrampLink
  | bri => exact h.execBri
  | calli => exact h.execCalli
  | ret => exact h.execRet
  | exit => exact h.execExit
  | fork => exact h.execFork
  | bar => exact h.execBar
  | arrive => exact h.execArrive
  | await => exact h.execAwait
  | winb => exact h.execWinb
  | steer => exact h.execSteer
  | merge => exact h.execMerge
  | sel => exact h.execSel
  | pget => exact h.execPget
  | pset => exact h.execPset
  | yield => exact h.execYield
  | launch => exact h.execLaunch
  | efork => exact h.execEfork
  | rdv => exact h.execRdv
  | sequencerRdv => exact h.execSequencerRdv
  | cancel => exact h.execCancel
  | shfl => exact h.execShfl
  | vote _ _ mode => exact h.execVote (n := mode)
  | icmp => exact h.execIcmp
  | addi => exact h.execAddi
  | andi => exact h.execAndi
  | ori => exact h.execOri
  | shli => exact h.execShli
  | shri => exact h.execShri
  | sari => exact h.execSari
  | rotli => exact h.execRotli
  | lhi => exact h.execLhi
  | pchi => exact h.execPchi
  | hadd => exact h.execHadd
  | hsub => exact h.execHsub
  | hmul => exact h.execHmul
  | hfma => exact h.execHfma
  | hmin => exact h.execHmin
  | hmax => exact h.execHmax
  | hneg bf => exact h.execHneg (n := bf)
  | habs bf => exact h.execHabs (n := bf)
  | hdot2 => exact h.execHdot2
  | ld => exact h.execLd
  | ldFmt => exact h.execLdFmt
  | st => exact h.execSt
  | stFmt => exact h.execStFmt
  | atomLoad => exact h.execAtomLoad
  | atomStore => exact h.execAtomStore
  | atomAdd => exact h.execAtomAdd
  | atomSub => exact h.execAtomSub
  | atomAnd => exact h.execAtomAnd
  | atomOr => exact h.execAtomOr
  | atomXor => exact h.execAtomXor
  | atomMin => exact h.execAtomMin
  | atomMax => exact h.execAtomMax
  | atomMinn => exact h.execAtomMinn
  | atomMaxn => exact h.execAtomMaxn
  | atomSwap => exact h.execAtomSwap
  | atomCas => exact h.execAtomCas
  | atomInc => exact h.execAtomInc
  | atomDec => exact h.execAtomDec
  | atomFadd => exact h.execAtomFadd
  | atomFmin => exact h.execAtomFmin
  | atomFmax => exact h.execAtomFmax
  | atomHadd2F16 => exact h.execAtomHadd2F16
  | atomHadd2Bf16 => exact h.execAtomHadd2Bf16
  | redAdd => exact h.execRedAdd
  | redAnd => exact h.execRedAnd
  | redOr => exact h.execRedOr
  | redXor => exact h.execRedXor
  | redMin => exact h.execRedMin
  | redMax => exact h.execRedMax
  | redMinn => exact h.execRedMinn
  | redMaxn => exact h.execRedMaxn
  | redFadd => exact h.execRedFadd
  | redHadd2F16 => exact h.execRedHadd2F16
  | redHadd2Bf16 => exact h.execRedHadd2Bf16
  | fence => exact h.execFence
  | fencex => exact h.execFencex
  | relb => exact h.execRelb
  | acqb => exact h.execAcqb
  | spmap => exact h.execSpmap
  | spunmap => exact h.execSpunmap
  | spwb => exact h.execSpwb
  | spinv => exact h.execSpinv
  | spcpy => exact h.execSpcpy
  | spfill => exact h.execSpfill
  | pref => exact h.execPref
  | ipref => exact h.execIpref
  | cpy => exact h.execCpy
  | cpyr => exact h.execCpyr
  | cpyp => exact h.execCpyp
  | cpyg => exact h.execCpyg
  | wany => exact h.execWany
  | wall => exact h.execWall
  | ffr => exact h.execFfr
  | tags => exact h.execTags
  | tagclr => exact h.execTagclr
  | mma => exact h.execMma
  | mdelta => exact h.execMdelta
  | mscan => exact h.execMscan
  | mout => exact h.execMout
  | mlda => exact h.execMlda
  | mzero => exact h.execMzero
  | mpin => exact h.execMpin
  | munpin => exact h.execMunpin
  | mspill => exact h.execMspill
  | mfill => exact h.execMfill
  | mwait => exact h.execMwait
  | mown => exact h.execMown
  | rdsr => exact h.execRdsr
  | wrsr => exact h.execWrsr
  | clock => exact h.execClock
  | trap => exact h.execTrap
  | resumeRetry => exact h.execResumeRetry
  | resumeSkip => exact h.execResumeSkip
  | bkpt => exact h.execBkpt
  | emulret => exact h.execEmulret
  | nop => exact h.execNop
  | perfc => exact h.execPerfc
  | laneid => exact h.execLaneid
  | add => exact h.execAdd
  | sub => exact h.execSub
  | mul => exact h.execMul
  | mulh => exact h.execMulh
  | mulhn => exact h.execMulhn
  | min => exact h.execMin
  | max => exact h.execMax
  | minn => exact h.execMinn
  | maxn => exact h.execMaxn
  | and => exact h.execAnd
  | or => exact h.execOr
  | xor => exact h.execXor
  | andn => exact h.execAndn
  | shl => exact h.execShl
  | shr => exact h.execShr
  | sar => exact h.execSar
  | rotl => exact h.execRotl
  | clz => exact h.execClz
  | ctz => exact h.execCtz
  | popc => exact h.execPopc
  | brev => exact h.execBrev
  | abs => exact h.execAbs
  | neg => exact h.execNeg
  | not => exact h.execNot
  | adds => exact h.execAdds
  | subs => exact h.execSubs
  | div => exact h.execDiv
  | divn => exact h.execDivn
  | rem => exact h.execRem
  | remn => exact h.execRemn
  | mov => exact h.execMov
  | xtnd => exact h.execXtnd
  | mul24 => exact h.execMul24
  | add64 => exact h.execAdd64
  | sub64 => exact h.execSub64
  | mul64 => exact h.execMul64
  | mulh64 => exact h.execMulh64
  | mulhn64 => exact h.execMulhn64
  | min64 => exact h.execMin64
  | max64 => exact h.execMax64
  | minn64 => exact h.execMinn64
  | maxn64 => exact h.execMaxn64
  | and64 => exact h.execAnd64
  | or64 => exact h.execOr64
  | xor64 => exact h.execXor64
  | andn64 => exact h.execAndn64
  | shl64 => exact h.execShl64
  | shr64 => exact h.execShr64
  | sar64 => exact h.execSar64
  | rotl64 => exact h.execRotl64
  | clz64 => exact h.execClz64
  | ctz64 => exact h.execCtz64
  | popc64 => exact h.execPopc64
  | brev64 => exact h.execBrev64
  | abs64 => exact h.execAbs64
  | neg64 => exact h.execNeg64
  | not64 => exact h.execNot64
  | adds64 => exact h.execAdds64
  | subs64 => exact h.execSubs64
  | div64 => exact h.execDiv64
  | divn64 => exact h.execDivn64
  | rem64 => exact h.execRem64
  | remn64 => exact h.execRemn64
  | mov64 => exact h.execMov64
  | xtnd64 => exact h.execXtnd64
  | mulw => exact h.execMulw
  | mulwn => exact h.execMulwn
  | bfx => exact h.execBfx
  | bfxn => exact h.execBfxn
  | bfi => exact h.execBfi
  | lea1 => exact h.execLea1
  | lea2 => exact h.execLea2
  | lea4 => exact h.execLea4
  | lea8 => exact h.execLea8
  | lea16 => exact h.execLea16
  | perm => exact h.execPerm
  | mad => exact h.execMad
  | mad64 => exact h.execMad64
  | pand => exact h.execPand
  | por => exact h.execPor
  | pxor => exact h.execPxor
  | pnot => exact h.execPnot
  | pandn => exact h.execPandn
  | p2i => exact h.execP2i
  | i2p => exact h.execI2p
  | fadd => exact h.execFadd
  | fsub => exact h.execFsub
  | fmul => exact h.execFmul
  | fma => exact h.execFma
  | fmin => exact h.execFmin
  | fmax => exact h.execFmax
  | fabs => exact h.execFabs
  | fneg => exact h.execFneg
  | feq => exact h.execFeq
  | fne => exact h.execFne
  | flt => exact h.execFlt
  | fle => exact h.execFle
  | funord => exact h.execFunord
  | frndn => exact h.execFrndn
  | frndz => exact h.execFrndz
  | frndu => exact h.execFrndu
  | frndd => exact h.execFrndd
  | fsat => exact h.execFsat
  | fcsgn => exact h.execFcsgn
  | fdiv => exact h.execFdiv
  | fsqrt => exact h.execFsqrt
  | fmadsat => exact h.execFmadsat
  | ftoi => exact h.execFtoi
  | fton => exact h.execFton
  | ftoi64 => exact h.execFtoi64
  | fton64 => exact h.execFton64
  | itof => exact h.execItof
  | ntof => exact h.execNtof
  | itof64 => exact h.execItof64
  | ntof64 => exact h.execNtof64
  | pkh => exact h.execPkh
  | pkb => exact h.execPkb
  | uph => exact h.execUph
  | upb => exact h.execUpb
  | pk8e4 => exact h.execPk8e4
  | pk8e5 => exact h.execPk8e5
  | up8e4 => exact h.execUp8e4
  | up8e5 => exact h.execUp8e5
  | pk4 => exact h.execPk4
  | up4l => exact h.execUp4l
  | up4h => exact h.execUp4h
  | pki8 => exact h.execPki8
  | upi8 => exact h.execUpi8
  | pki4 => exact h.execPki4
  | upi4 => exact h.execUpi4
  | scale => exact h.execScale
  | escale => exact h.execEscale
  | cbdec => exact h.execCbdec
  | pk6e3 => exact h.execPk6e3
  | up6e3 => exact h.execUp6e3
  | pk6e2 => exact h.execPk6e2
  | up6e2 => exact h.execUp6e2
  | pkhSr => exact h.execPkhSr
  | pkbSr => exact h.execPkbSr
  | pk8e4Sr => exact h.execPk8e4Sr
  | pk8e5Sr => exact h.execPk8e5Sr
  | pk4Sr => exact h.execPk4Sr
  | pk6e3Sr => exact h.execPk6e3Sr
  | pk6e2Sr => exact h.execPk6e2Sr
  | cvt16z => exact h.execCvt16z
  | rcp => exact h.execRcp
  | rsq => exact h.execRsq
  | sqrta => exact h.execSqrta
  | exp2 => exact h.execExp2
  | log2 => exact h.execLog2
  | sinpi => exact h.execSinpi
  | cospi => exact h.execCospi
  | tanh => exact h.execTanh
  | sigm => exact h.execSigm

theorem MemoryCanonical.execParsed (h : MemoryCanonical s) {p} : NextCanonical (Machine.execParsed p s) := by
  rw [← runParsed_eq_execParsed]
  exact h.exec

theorem MemoryCanonical.runNode (h : MemoryCanonical s) {f e} : NextCanonical (s.runNode f e) := by
  unfold State.runNode
  split
  · trivial
  · split
    · exact h.nodeFault
    · split
      · exact .either h.setInst h.update.execParsed
      · exact h.update.execParsed
theorem MemoryCanonical.runPost (h : MemoryCanonical s) {f} : NextCanonical (s.runPost f) := by
  unfold State.runPost
  split
  · trivial
  · split
    · trivial
    · exact h.update.exec
theorem MemoryCanonical.countSeq (h : MemoryCanonical s) {cl before p} : MemoryCanonical (State.countSeq cl before p s) := by
  unfold State.countSeq
  split
  · exact h
  · exact .either h.count h
theorem NextCanonical.seqCounted {r : Result} (h : NextCanonical r) {cl before p} : NextCanonical (Machine.seqCounted cl before p r) := by
  cases r with
  | next t => exact MemoryCanonical.countSeq h
  | fault | refused => trivial
theorem MemoryCanonical.runSeq (h : MemoryCanonical s) {cl} : NextCanonical (s.runSeq cl) := by
  unfold State.runSeq
  split
  · trivial
  · extract_lets +onlyGivenNames t
    have ht : MemoryCanonical t := h.setSeq
    refine .either ht.seqFault ?_
    split
    split
    · exact (ht.seqFetch.answered ‹_›).seqFault
    · split
      · refine .either ?_ ((ht.seqFetch.answered ‹_›).seqFault)
        exact NextCanonical.seqCounted (((ht.seqFetch.answered ‹_›).update).execParsed)
      · split
        · exact .either ((ht.seqFetch.answered ‹_›).seqFault) ((ht.seqFetch.answered ‹_›).seqFault)
        · exact (ht.seqFetch.answered ‹_›).seqFault
theorem MemoryCanonical.make (h : MemoryCanonical s) {n} : NextCanonical (s.make n) := by
  unfold State.make
  split
  · exact h.update.commitAll
  · exact h.update.exec
  · exact h.runNode
  · exact h.runPost
  · exact h.runSeq
theorem MemoryCanonical.unmade (h : MemoryCanonical s) {t : State} : MemoryCanonical (s.unmade t) := h.updateMs
theorem NextCanonical.settledMove {r : Result} (h : NextCanonical r) : NextCanonical (Machine.settledMove r) := by
  cases r with
  | next t => exact (MemoryCanonical.trim h).trimAts
  | fault | refused => trivial
theorem MemoryCanonical.after (h : MemoryCanonical s) {r} (hr : NextCanonical r) : NextCanonical (s.after r) := by
  unfold State.after
  have ht := hr.settledMove
  split
  · exact MemoryCanonical.either h.unmade (ht.next ‹_›)
  · exact ht
theorem MemoryCanonical.runAgenda (h : MemoryCanonical s) {before l} :
    MemoryCanonical (s.runAgenda before l).1 ∧ ∀ r, (s.runAgenda before l).2 = some r → NextCanonical r := by
  induction l generalizing s before with
  | nil => exact ⟨h, fun _ e => nomatch e⟩
  | cons i l ih =>
    rw [State.runAgenda]
    split
    · exact ih h
    · have hr : NextCanonical (settledMove (Machine.exec i { s with agenda := before ++ l, cur := .none })) :=
        NextCanonical.settledMove (MemoryCanonical.exec h.update)
      split
      · split
        · exact ih h.unmade
        · exact ⟨h, fun _ e => Option.some.inj e ▸ hr.next ‹_›⟩
      · exact ⟨h, fun _ e => Option.some.inj e ▸ hr⟩
theorem MemoryCanonical.tick (h : MemoryCanonical s) :
    MemoryCanonical (s.tick) :=
      (((h.update.foldl fun _ _ h => h.countWaiting).foldl fun _ _ h => .either h.count h).foldl fun _ _ h => h.sweep).dropHalted
theorem NextCanonical.atEnd {r : Result} (h : NextCanonical r) : NextCanonical (s.atEnd r) := by
  cases r with
  | next t => exact MemoryCanonical.foldl h fun _ _ h => .either h.checkBar h
  | fault | refused => trivial
theorem MemoryCanonical.cycle (h : MemoryCanonical s) : NextCanonical s.cycle := by
  unfold State.cycle
  obtain ⟨hs, hr⟩ := h.runAgenda (before := []) (l := s.agenda)
  split
  · next e => exact hr _ (congrArg Prod.snd e)
  · have ht := hs.answered ‹_›
    split
    · exact ht.after ht.make
    · exact ht
theorem MemoryCanonical.turn (h : MemoryCanonical s) : NextCanonical s.turn := NextCanonical.atEnd h.tick.cycle

/-- Settles O58: every operation keeps memory canonical, for only the write of a line changes it, byte by byte. -/
theorem stepsKeepMemoryCanonical : Obligations.StepsKeepMemoryCanonical := fun _ _ h e => (MemoryCanonical.turn h).next e

end Sys2Proof.Safety
end

section
/-! What translations, fetches and the joining of a waiting set leave alone: where an address lies, the contexts, the operations of the
copy engines, and of the gathers all but the states of their window words. So what a second look-up of an address asks of its leaf
beyond the first changes the answer only where it refuses the leaf that the first one answered. -/
namespace Sys2Proof.Machine

/-- The map of physical addresses, the contexts, the copy engines and the gathers, but for window words, are the same. -/
structure Undisturbed (s t : State) : Prop where
  dies : t.mg.dies = s.mg.dies
  tier : t.ms.tier = s.ms.tier
  stores : t.ms.stores = s.ms.stores
  copies : t.ms.copies = s.ms.copies
  disp : t.disp = s.disp
  gathers : ∀ g, (t.gather? g).map Gather.bare = (s.gather? g).map Gather.bare

theorem Undisturbed.fetching : Fetching Undisturbed where
  refl _ := ⟨rfl, rfl, rfl, rfl, rfl, fun _ => rfl⟩
  trans h k := ⟨k.dies.trans h.dies, k.tier.trans h.tier, k.stores.trans h.stores, k.copies.trans h.copies, k.disp.trans h.disp,
    fun g => (k.gathers g).trans (h.gathers g)⟩
  holdBack _ := ⟨rfl, rfl, rfl, rfl, rfl, fun _ => rfl⟩
  setAllowance _ _ _ _ := ⟨rfl, rfl, rfl, rfl, rfl, fun _ => rfl⟩
  setCopy _ _ _ _ := ⟨rfl, rfl, rfl, rfl, rfl, fun _ => rfl⟩
  staleWin s w hit := ⟨rfl, rfl, rfl, rfl, rfl, (Quiet.staleWin s w hit).gathers⟩
  write _ _ _ := ⟨rfl, rfl, rfl, rfl, rfl, fun _ => rfl⟩
  log _ _ _ _ _ := ⟨rfl, rfl, rfl, rfl, rfl, fun _ => rfl⟩
  sums _ _ _ _ := ⟨rfl, rfl, rfl, rfl, rfl, fun _ => rfl⟩
  answers _ _ _ := ⟨rfl, rfl, rfl, rfl, rfl, fun _ => rfl⟩
  cur _ _ := ⟨rfl, rfl, rfl, rfl, rfl, fun _ => rfl⟩
  walks _ _ := ⟨rfl, rfl, rfl, rfl, rfl, fun _ => rfl⟩
  cores _ _ _ := ⟨rfl, rfl, rfl, rfl, rfl, fun _ => rfl⟩

theorem Undisturbed.setFibre (s : State) (f : Nat) (x : Fibre) : Undisturbed s (s.setFibre f x) := ⟨rfl, rfl, rfl, rfl, rfl, fun _ => rfl⟩

/-! ## Where an address lies, and what a leaf grants -/

section
variable {s t : State} (h : Undisturbed s t)
include h

theorem Undisturbed.placeOf (pa : Nat) : placeOf t pa = placeOf s pa := by simp only [Machine.placeOf, h.dies, h.tier]
theorem Undisturbed.chipOf (off : Nat) : chipOf t off = chipOf s off := by
  have hp (core : Nat) : partOf t core = partOf s core := by rw [partOf, h.stores, partOf]
  unfold Machine.chipOf
  simp only [hp, h.dies]
theorem Undisturbed.ctxOf (c : Nat) : ctxOf t c = ctxOf s c := by rw [Machine.ctxOf, h.disp, Machine.ctxOf]
theorem Undisturbed.grants? (l : Leaf) (va : Nat) (n : Need) : t.grants? l va n = s.grants? l va n := by
  simp only [State.grants?, h.placeOf, h.chipOf, h.ctxOf]
theorem Undisturbed.copiesOf (core : Nat) : t.copiesOf core = s.copiesOf core := by rw [State.copiesOf, h.copies, State.copiesOf]
/-- A gather stays, but for its window words. -/
theorem Undisturbed.gather {g : Nat} {x : Gather} (hx : s.gather? g = some x) : ∃ y, t.gather? g = some y ∧ y.bare = x.bare :=
  Option.map_eq_some_iff.1 ((h.gathers g).trans (congrArg (Option.map Gather.bare) hx))
end

/-! ## Waiting sets -/

theorem Undisturbed.joinOne (s : State) (f : Nat) : Undisturbed s (s.joinOne f) := by
  have F := Undisturbed.fetching
  unfold State.joinOne
  split
  · exact F.refl s
  · extract_lets core ctx u
    refine F.trans (F.setFabric s _ _ : Undisturbed s u) (either (F.refl u) (either (.setFibre u _ _) (either (.setFibre u _ _) ?_)))
    exact F.trans (.setFibre u _ _) (F.trans (F.readHeader _ _ _ _) (F.setFabric _ _ _))
theorem Undisturbed.joinSet (s : State) (f : Nat) : Undisturbed s (s.joinSet f) :=
  have F := Undisturbed.fetching
  F.trans (F.trans (F.setFabric s _ _) (F.foldl _ (fun t k => .joinOne t k) _ _)) (.joinOne _ f)

/-! ## Setting A and D (R50) -/

section
variable (s : State) (die : Nat) (l : Leaf) (pa : Nat) (n : Need)

/-- It changes the entry's low bits at most: the leaf names the same frame and the same region. -/
theorem setAD_leaf : ∃ e : Dword, (s.setAD die l pa n).2 = { l with pte := e } ∧ e.extractLsb' 14 38 = l.pte.extractLsb' 14 38 := by
  unfold State.setAD
  extract_lets e
  refine ⟨if e == l.pte || n.none then l.pte else e, ?_, ?_⟩
  · split <;> rfl
  · have he : e.extractLsb' 14 38 = l.pte.extractLsb' 14 38 := by
      unfold e
      cases n.w <;> simp [BitVec.extractLsb'_or]
    split
    · rfl
    · exact he
theorem pa_setAD (va : Nat) : (s.setAD die l pa n).2.pa va = l.pa va := by
  obtain ⟨e, h, he⟩ := setAD_leaf s die l pa n
  simp only [h, Leaf.pa, bits_toNat _ 51 14 38 rfl, he]
theorem permits_setAD (vas : List Nat) : (s.setAD die l pa n).2.permits vas = l.permits vas := by
  obtain ⟨e, h, -⟩ := setAD_leaf s die l pa n
  rw [h]
  rfl
end

/-! ## A look-up that asks more of the leaf (R58) -/

section
variable {good less : Leaf → Bool} (hg : ∀ l, good l = true → less l = true)
include hg

/-- Among the cached leaves. -/
theorem cached_asksMore (s : State) (u c va : Nat) (n : Need) (q : Leaf → Bool) :
    (∃ l, (s.cached u c va n less).filter q = some l ∧ good l = false) ∨
      (s.cached u c va n good).filter q = (s.cached u c va n less).filter q := by
  unfold State.cached
  cases s.cachedLeaf u c va with
  | none => exact .inr rfl
  | some l =>
    cases e : good l with
    | true => exact .inr (by simp [Option.filter, State.useful, e, hg l e])
    | false =>
      have hnone : ((some l).filter (s.useful va n good)).filter q = none := by simp [Option.filter, State.useful, e]
      rw [hnone]
      cases h : ((some l).filter (s.useful va n less)).filter q with
      | none => exact .inr rfl
      | some m =>
        obtain rfl : l = m := Option.some.inj (Option.filter_eq_some_iff.1 (Option.filter_eq_some_iff.1 h).1).1
        exact .inl ⟨l, rfl, e⟩

/-- In a walk of the die. -/
theorem walkDie_asksMore (s : State) (d c va : Nat) (afresh : Bool) :
    (∃ t l pa w, s.walkDie d c va afresh less = (t, .leaf l pa, w) ∧ less l = true ∧ good l = false) ∨
      s.walkDie d c va afresh good = s.walkDie d c va afresh less := by
  unfold State.walkDie
  extract_lets keep whole
  split
  · exact .inr rfl
  · extract_lets p
    split
    next l pa _ =>
      cases e : good l with
      | true => exact .inr (by rw [if_pos rfl, if_pos (hg l e)])
      | false =>
        by_cases h : less l = true
        · exact .inl ⟨_, l, pa, _, if_pos h, h, e⟩
        · exact .inr (by rw [if_neg h, if_neg Bool.false_ne_true])
    · exact .inr rfl
end

/-- A leaf that one translation answers is refused by another that asks more of it, or both answer the same. Whatever a leaf is asked
is to hold of it whether or not A and D are set. -/
theorem xlate_asksMore {good less : Leaf → Bool} (hg : ∀ l, good l = true → less l = true) {n : Need}
    (had : ∀ (s : State) d l pa, good (s.setAD d l pa n).2 = good l) (s : State) (u c va : Nat) :
    (∃ t l, s.xlate u c va n less = (t, .ok l) ∧ good l = false) ∨ s.xlate u c va n good = s.xlate u c va n less := by
  unfold State.xlate
  split
  · exact .inr rfl
  have hall (o : Option Leaf) : o.filter (fun _ => true) = o := by cases o <;> rfl
  have hfirst := cached_asksMore hg s u c va n fun _ => true
  rw [hall, hall] at hfirst
  obtain ⟨l, hl, hn⟩ | hfirst := hfirst
  · exact .inl ⟨_, l, by rw [hl], hn⟩
  rw [hfirst]
  split
  · exact .inr rfl
  extract_lets die afresh t
  obtain ⟨l, hl, hn⟩ | hsecond := cached_asksMore hg t u c va n (·.a)
  · exact .inl ⟨_, l, by rw [hl], hn⟩
  rw [hsecond]
  split
  · exact .inr rfl
  have hmore (l : Leaf) (h : (t.grants? l va n && good l) = true) : (t.grants? l va n && less l) = true := by
    rw [Bool.and_eq_true] at h ⊢
    exact ⟨h.1, hg l h.2⟩
  obtain ⟨v, l, pa, w, hw, hless, hgood⟩ | hwalk := walkDie_asksMore hmore t die c va afresh
  · have hv : Undisturbed t v := answeredBy (Undisturbed.fetching.walkDie t die c va afresh _) hw
    rw [Bool.and_eq_true] at hless
    rw [hless.1, Bool.true_and] at hgood
    rw [hw]
    exact .inl ⟨_, _, if_pos ((hv.grants? l va n).trans hless.1), (had v die l pa).trans hgood⟩
  · exact .inr (by rw [hwalk])

end Sys2Proof.Machine
end

section
/-! Operations whose turn has come at the head of their fibre's queue, and the part of SPINV and SPUNMAP that their instance's commit
performs (R110, R111, R120, R121, R124, R313, R331, R332, R337, R471). -/
namespace Sys2Proof.Machine
open Sys2Proof.Claims

/-! ## The head of the queue (R219, R313) -/

section
variable {s : State} {f : Nat} {x : Fibre} {p : PostOp} {r : List PostOp}

theorem atHead_post (hc : s.cur = .post f) (hx : s.fibre? f = some x) (hp : x.post = p :: r)
    (perform : Nat → Fibre → PostOp → State → Result) (node : Result) : atHead s perform node = perform f x p s := by
  simp only [atHead, hc, hx, hp]

/-- The fibre once the head of its queue has gone. -/
def Fibre.popped (x : Fibre) : Fibre := { x.passed 1 with post := x.post.tail, stage := 0 }
/-- Only an operation that holds admission changes with its going whether its fibre awaits one. -/
theorem awaits_popped (hp : x.post = p :: r) (h : holdsAdmission p.op = false) : x.popped.awaits = x.awaits := by
  cases e : x.orphans <;> simp [Fibre.awaits, Fibre.popped, Fibre.passed, hp, e, h]

theorem popPost_some (hx : s.fibre? f = some x) : s.popPost f =
    if x.popped.ended then (s.setFibre f x.popped).reap f
    else if x.awaits && !x.popped.awaits && (s.inst? f).isNone then
      (s.setFibre f { x.popped with since := max x.since s.clock, aged := false }).joinSet f
    else s.setFibre f x.popped := by
  rw [State.popPost, hx]
  rfl
theorem popPost_eq (hx : s.fibre? f = some x) (hp : x.post = p :: r) (he : x.ended = false) (h : holdsAdmission p.op = false) :
    s.popPost f = s.setFibre f x.popped := by
  have hend : x.popped.ended = false := he
  simp [popPost_some hx, hend, awaits_popped hp h]

theorem Undisturbed.popPost (hx : s.fibre? f = some x) (he : x.ended = false) : Undisturbed s (s.popPost f) := by
  have hend : x.popped.ended = false := he
  rw [popPost_some hx, if_neg (hend ▸ Bool.false_ne_true)]
  exact either (Undisturbed.fetching.trans (.setFibre s _ _) (.joinSet _ f)) (.setFibre s _ _)
end

/-! ## Issue (R124, R337) -/

theorem canIssue_iff {s : State} {f : Nat} {g : Gather} (hg : s.gather? (gatherOf f) = some g) (tag : Nat) :
    s.canIssue f tag = true ↔ (s.copiesOf (coreOf f)).length < 128 ∧ (g.tag tag).count < 255 := by
  simp [State.canIssue, hg]

/-- A copy instruction at the head of its queue is issued once there is room. -/
theorem issues_of_atHead {i : Instr} {tag : Nat} {kind : CopyKind} {node : State → Result}
    (hi : ∀ s, exec i s = atHead s (issuePost tag kind) (node s)) : Issues i tag kind := by
  intro s f x p r g hc hx hp hg
  rw [hi, atHead_post hc hx hp, issuePost]
  simp only [canIssue_iff hg]
  split <;> rfl

/-! ## SPMAP (R110, R111) -/

theorem kvGet_kvFilter {α : Type} (k : Nat) (q : Nat → Bool) (m : KV α) :
    kvGet k (kvFilter (fun i _ => q i) m) = if q k then kvGet k m else none := by
  unfold kvFilter
  induction m with
  | nil => simp [kvGet]
  | cons c r ih =>
    obtain ⟨i, v⟩ := c
    by_cases hi : i = k
    · subst hi
      by_cases hq : q i = true <;> simp_all [kvGet]
    · by_cases hq : q i = true <;> simp_all [kvGet]

theorem word_voidWords (g : Gather) (off len i : Nat) : kvGet i (g.voidWords off len).words =
    if 4 * i + 4 ≤ off ∨ off + len ≤ 4 * i then kvGet i g.words else none := by
  rw [Gather.voidWords, kvGet_kvFilter i fun w => 4 * w + 4 ≤ off || off + len ≤ 4 * w]
  simp only [Bool.or_eq_true, decide_eq_true_eq]

/-- Of eight window numbers one is free while fewer than eight windows are held. -/
theorem kvGet_freeWin {g : Gather} (h : g.wins.length < 8) : kvGet g.freeWin g.wins = none := by
  unfold Gather.freeWin
  cases e : (upto 8).find? fun k => (kvGet k g.wins).isNone with
  | some k => simpa using List.find?_some e
  | none =>
    have hused : List.range 8 ⊆ g.wins.map (·.1) := by
      intro k hk
      have hs := List.find?_eq_none.1 e k hk
      obtain ⟨w, hw⟩ := Option.ne_none_iff_exists'.1 fun h => hs (Option.isNone_iff_eq_none.2 h)
      exact List.mem_map_of_mem (mem_of_kvGet hw)
    have hl := (List.nodup_range.subperm hused).length_le
    rw [List.length_range, List.length_map] at hl
    omega

theorem takeFirst_head {α : Type} (k : Nat) (x : α) (l : List (Nat × α)) : takeFirst k ((k, x) :: l) = (some x, l) := by
  simp [takeFirst]

theorem spmap_maps {s : State} {f : Nat} {x : Fibre} {p : PostOp} {r : List PostOp} {g : Gather} {w : Window} {rest : List (Nat × Window)}
    {a b c : Operand} (hc : s.cur = .post f) (hx : s.fibre? f = some x) (hp : x.post = p :: r) (hg : s.gather? (gatherOf f) = some g)
    (ho : p.op = .spmap a b c) (hr : g.reserved = (reservedKey f p.eidx, w) :: rest) (he : x.ended = false) :
    ∃ t, exec (.spmap a b c) s = .next t ∧ t.fibre? f = some x.popped ∧
      t.gather? (gatherOf f) = some ({ g with reserved := rest }.mapWin { w with id := s.serial }) ∧
      t.serial = s.serial + 1 ∧ t.ms = s.ms := by
  have h : spmapPost f x p s = _ := congrArg Host.Outcome.next (popPost_eq (x := x) hx hp he (by rw [ho]; rfl))
  refine ⟨_, (exec_spmap a b c s).trans ((atHead_post hc hx hp spmapPost _).trans h), fibre_setFibre_same _ _ _, ?_, rfl, rfl⟩
  refine (gather_modGather_same _ _ _).trans ((congrArg (Option.map _) hg).trans ?_)
  rw [Option.map_some, hr, heldKey, takeFirst_head]

/-! ## SPINV and SPUNMAP at their instance's commit (R111, R120, R121) -/

theorem sb_le_of_offset {c : Ctx} {g : Gather} {a o : Nat} (h : c.offset g a = some o) : c.sb ≤ a := by
  unfold Ctx.offset at h
  split at h
  next hin =>
    have ha : c.inAperture a = true := (Bool.and_eq_true _ _ ▸ hin).1
    rw [Ctx.inAperture, beq_iff_eq] at ha
    rw [Ctx.sb, ← ha]
    exact Nat.div_mul_le_self _ _
  · cases h

theorem offsetOf_eq_sub {s : State} {g : Gather} {a : Dword} (h : (ctxOf s g.ctx).sb ≤ a.toNat) :
    offsetOf s g a = a.toNat - (ctxOf s g.ctx).sb := by
  rw [offsetOf, BitVec.toNat_sub, BitVec.toNat_ofNat]
  omega

theorem rangeCheck_none_iff {s : State} {g : Gather} {a b : Dword} :
    rangeCheck s g a b = none ↔ rangeOffence s g [a, b] = none := by
  simp only [rangeCheck, rangeOffence, List.getD_cons_zero, List.getD_cons_succ, Bool.or_eq_true, bne_iff_ne]
  split
  · simp
  · by_cases hb : b = 0
    · simp [hb]
    · simp only [hb, if_false, false_or]
      split <;> simp

/-- A range that passes its check, unless it is empty, begins in the aperture. -/
theorem sb_le_of_rangeOffence {s : State} {g : Gather} {a b : Dword} (h : rangeOffence s g [a, b] = none) (hb : b ≠ 0) :
    (ctxOf s g.ctx).sb ≤ a.toNat := by
  simp only [rangeOffence, List.getD_cons_zero, List.getD_cons_succ, hb, false_or] at h
  split at h
  · cases h
  · split at h
    next hw =>
      unfold Gather.winRange at hw
      split at hw
      · cases hw
      next ho => exact sb_le_of_offset ho
    · cases h

theorem gather_commitSpinv {s : State} {f : Nat} {p : PostOp} {a b : Operand} {g : Gather} (ho : p.op = .spinv a b)
    (hg : s.gather? (gatherOf f) = some g) (hr : rangeOffence s g [p.a, p.b] = none) (hb : p.b ≠ 0) :
    (s.commitSpinv f [p]).gather? (gatherOf f) = some (g.voidWords (offsetOf s g p.a) p.b.toNat) := by
  simp only [State.commitSpinv, List.foldl_cons, List.foldl_nil, ho, gather_modGather_same, hg, Option.map_some,
    rangeCheck_none_iff.2 hr, Option.isNone_none, if_true, offsetOf_eq_sub (sb_le_of_rangeOffence hr hb)]

/-- Bytes of the scratchpad set to zero. -/
theorem spByte_setSp_zeros (s : State) (core k : Nat) {cs : List (Nat × Byte)} (hz : ∀ c ∈ cs, c.2 = 0) :
    (s.setSp core cs).spByte core k = if k ∈ cs.map (·.1) then 0 else s.spByte core k := by
  induction cs generalizing s with
  | nil => rfl
  | cons c r ih =>
    have h : (s.setSp core [c]).spByte core k = if k = c.1 then 0 else s.spByte core k := by
      split
      next hk =>
        subst hk
        exact (kvGetD_kvSetD_same _ _ _ _).trans (hz c List.mem_cons_self)
      next hk => exact kvGetD_kvSetD_other (by simp only [spKey]; omega) _ _ _
    rw [show s.setSp core (c :: r) = (s.setSp core [c]).setSp core r from rfl, ih _ fun x hx => hz x (List.mem_cons_of_mem _ hx), h]
    simp only [List.map_cons, List.mem_cons]
    by_cases hr : k ∈ r.map (·.1) <;> simp [hr]

/-- The bytes of a window that are neither valid nor written, set to zero as it stops mapping. -/
def Gather.lostBytes (g : Gather) (w : Window) : List (Nat × Byte) :=
  (upto (w.len / 4)).flatMap fun j =>
    let x := g.word (w.off / 4 + j)
    if x.v then [] else ((upto 4).filter fun b => !x.bm.getLsbD b).map fun b => (g.spBase + w.off + 4 * j + b, (0 : Byte))

theorem mem_lostBytes {g : Gather} {w : Window} {c : Nat × Byte} : c ∈ g.lostBytes w ↔
    ∃ j < w.len / 4, ∃ b < 4, ((g.word (w.off / 4 + j)).v || (g.word (w.off / 4 + j)).bm.getLsbD b) = false ∧
      (g.spBase + w.off + 4 * j + b, (0 : Byte)) = c := by
  simp only [Gather.lostBytes, List.mem_flatMap, upto, List.mem_range]
  refine exists_congr fun j => and_congr_right fun _ => ?_
  cases (g.word (w.off / 4 + j)).v <;> simp [and_assoc]

theorem address_mem_lostBytes {g : Gather} {w : Window} {j b : Nat} (hj : j < w.len / 4) (hb : b < 4) :
    g.spBase + w.off + 4 * j + b ∈ (g.lostBytes w).map (·.1) ↔
      ((g.word (w.off / 4 + j)).v || (g.word (w.off / 4 + j)).bm.getLsbD b) = false := by
  rw [List.mem_map]
  constructor
  · rintro ⟨c, hc, e⟩
    obtain ⟨i, -, d, hd, hlost, rfl⟩ := mem_lostBytes.1 hc
    obtain ⟨rfl, rfl⟩ : i = j ∧ d = b := by simp only at e; omega
    exact hlost
  · exact fun h => ⟨_, mem_lostBytes.2 ⟨j, hj, b, hb, h, rfl⟩, rfl⟩

theorem commitUnmaps_retires {s : State} {f : Nat} {p : PostOp} {t : BitVec 7} {a : Operand} {g : Gather} {k : Nat} {w : Window}
    (ho : p.op = .spunmap t a) (hg : s.gather? (gatherOf f) = some g) (hw : g.wins = [(k, w)]) (hm : w.retiring = false)
    (hoff : w.off = offsetOf s g p.a) :
    s.commitUnmaps f [p] = (s.setSp g.core (g.lostBytes w)).setGather (gatherOf f) { g with wins := [(k, { w with retiring := true })] } := by
  have hctx : s.ctxOfFibre f = g.ctx := by rw [State.ctxOfFibre, hg]
  rw [offsetOf] at hoff
  simp only [State.commitUnmaps, List.foldl_cons, List.foldl_nil, ho, hctx, ← hoff]
  simp [State.retireWin, hg, hw, hm, kvSet, Gather.lostBytes]

/-! ## SPUNMAP at the head of the queue (R121, R124) -/

/-- An issued operation counts in its tag and is the last of its engine's. -/
theorem issueCopy_issued {s : State} {f : Nat} {x : Fibre} {g : Gather} (hx : s.fibre? f = some x) (he : x.ended = false)
    (hg : s.gather? (gatherOf f) = some g) (tag : Nat) (kind : CopyKind) (p : PostOp) :
    (∃ h, (s.issueCopy f tag kind p).gather? (gatherOf f) = some h ∧
      h.bare = (g.setTag tag { g.tag tag with count := (g.tag tag).count + 1 }).bare) ∧
    (s.issueCopy f tag kind p).copiesOf (coreOf f) = s.copiesOf (coreOf f) ++
      [⟨s.serial, gatherOf f, f, kind, tag, p.a, p.b, p.c, p.desc, p.slot0, p.prod, none⟩] := by
  have h : Undisturbed _ (s.issueCopy f tag kind p) := Undisturbed.popPost (x := x) hx he
  exact ⟨h.gather ((gather_modGather_same _ _ _).trans (congrArg (Option.map _) hg)), (h.copiesOf _).trans (kvGetD_kvSetD_same _ _ _ _)⟩

theorem spunmap_issued {s : State} {f : Nat} {x : Fibre} {p : PostOp} {r : List PostOp} {g : Gather} {off : Nat} {rest : List (Nat × Nat)}
    (t : BitVec 7) (a : Operand) (hc : s.cur = .post f) (hx : s.fibre? f = some x) (hp : x.post = p :: r)
    (hg : s.gather? (gatherOf f) = some g) (hroom : (s.copiesOf (coreOf f)).length < 128 ∧ (g.tag t.toNat).count < 255)
    (hr : g.unmaps = (reservedKey f p.eidx, off) :: rest) (he : x.ended = false) :
    ∃ u h, exec (.spunmap t a) s = .next u ∧ u.gather? (gatherOf f) = some h ∧ h.unmaps = rest ∧ h.wins = g.wins ∧
      (h.tag t.toNat).count = (g.tag t.toNat).count + 1 ∧ ∃ o, u.copiesOf (coreOf f) = s.copiesOf (coreOf f) ++ [o] ∧ o.kind = .spunmap ∧
        o.tag = t.toNat ∧ o.a = p.a := by
  have hv : (s.modGather (gatherOf f) fun g => { g with unmaps := (takeFirst (heldKey f p.eidx) g.unmaps).2 }).gather? (gatherOf f) =
      some { g with unmaps := rest } := by
    rw [gather_modGather_same, hg, Option.map_some, hr, heldKey, takeFirst_head]
  obtain ⟨⟨h, hh, hbare⟩, hcopies⟩ := issueCopy_issued (s := s.modGather _ _) (f := f) (x := x) hx he hv t.toNat .spunmap p
  refine ⟨_, h, ?_, hh, (congrArg Gather.unmaps hbare :), (congrArg Gather.wins hbare :), ?_, _, hcopies, rfl, rfl, rfl⟩
  · rw [exec_spunmap, execSpunmap, atHead_post hc hx hp, spunmapPost, if_pos ((canIssue_iff hg _).2 hroom)]
  · have htags := congrArg Gather.tags hbare
    change h.tags = kvSetD t.toNat noTag { g.tag t.toNat with count := (g.tag t.toNat).count + 1 } g.tags at htags
    rw [Gather.tag, htags, kvGetD_kvSetD_same]

/-! ## PREF (R60, R174, R332) -/

section
variable {s u : State} {f a k : Nat} {l : Leaf}

theorem prefetch_outside (h : canonical a = false ∨ (ctxOf s (s.ctxOfFibre f)).inAperture a = true) : s.prefetch f a k = s :=
  if_pos (by simpa using h)

/-- What a prefetch asks of a leaf: that its region does not forbid the access, and that its frame is memory of the part. -/
def State.prefetchable (s : State) (a : Nat) (l : Leaf) : Bool := l.permits [a] && (placeOf s (l.pa a)).isMem

/-- The translation of a prefetch differs only where the other one's leaf does not lie in memory. -/
theorem xlate_prefetchable (s : State) (c x a : Nat) :
    (∃ u l, s.xlate c x a needR (Leaf.permits [a]) = (u, .ok l) ∧ s.prefetchable a l = false) ∨
      s.xlate c x a needR (s.prefetchable a) = s.xlate c x a needR (Leaf.permits [a]) :=
  xlate_asksMore (fun l h => ((Bool.and_eq_true _ _).mp h).1)
    (fun t d l pa => by simp only [permits_setAD, pa_setAD]) s c x a

theorem prefetch_failed {b : Bad} (hx : s.xlate (coreOf f) (s.ctxOfFibre f) a needR (Leaf.permits [a]) = (u, .error b)) :
    s.prefetch f a k = s := by
  by_cases ho : canonical a = false ∨ (ctxOf s (s.ctxOfFibre f)).inAperture a = true
  · exact prefetch_outside ho
  obtain ⟨t, l, h, -⟩ | h := xlate_prefetchable s (coreOf f) (s.ctxOfFibre f) a
  · cases (congrArg Prod.snd hx).symm.trans (congrArg Prod.snd h)
  · have hx' : s.xlate (coreOf f) (s.ctxOfFibre f) a needR (fun l => l.permits [a] && (placeOf s (l.pa a)).isMem) = (u, .error b) := h.trans hx
    unfold State.prefetch
    extract_lets ctx
    rw [if_neg (by simpa using ho), hx']

variable (hc : canonical a = true) (ha : (ctxOf s (s.ctxOfFibre f)).inAperture a = false)
  (hx : s.xlate (coreOf f) (s.ctxOfFibre f) a needR (Leaf.permits [a]) = (u, .ok l)) (hl : l.permits [a] = true)
  (hp : u.ms.poison.contains (lineOf (l.pa a)) = false)
include hx

theorem placeOf_xlate (pa : Nat) : placeOf u pa = placeOf s pa :=
  (answeredBy (Undisturbed.fetching.xlate s _ _ _ _ _) hx : Undisturbed s u).placeOf pa

include hl
theorem xlate_ofPrefetch (hm : (placeOf s (l.pa a)).isMem = true) :
    s.xlate (coreOf f) (s.ctxOfFibre f) a needR (fun l => l.permits [a] && (placeOf s (l.pa a)).isMem) = (u, .ok l) := by
  obtain ⟨t, m, h, hn⟩ | h := xlate_prefetchable s (coreOf f) (s.ctxOfFibre f) a
  · cases hx.symm.trans h
    rw [State.prefetchable, hl, hm] at hn
    cases hn
  · exact h.trans hx

include hc ha hp
theorem prefetch_unbounded (hm : (placeOf u (l.pa a)).isMem = true) (hb : l.bound u a = none)
    (hf : (partOf u (coreOf f)).flush = false) :
    s.prefetch f a k = if k = 0 then u.l1Fill (coreOf f) (lineOf (l.pa a)) l.rgx else u.share (dieOf f) (lineOf (l.pa a)) := by
  rw [placeOf_xlate hx] at hm
  simp [State.prefetch, hc, ha, xlate_ofPrefetch hx hl hm, hl, hm, by simpa using hp, hb, hf]

theorem prefetch_bounded {lim : Word} (hm : (placeOf s (l.pa a)).isMem = true) (hb : l.bound u a = some lim) :
    s.prefetch f a k = ((u.visit (dieOf f) (lineOf (l.pa a))).drainTo (lineOf (l.pa a)) 7 lim).share (homeOf u (l.pa a)) (lineOf (l.pa a)) := by
  simp [State.prefetch, hc, ha, xlate_ofPrefetch hx hl hm, hl, hm, by simpa using hp, hb]
end

/-! ## IPREF (R332, R471) -/

theorem ipref_asks {s : State} {f : Nat} {x : Fibre} {p : PostOp} {r : List PostOp} {a : Operand} (hc : s.cur = .post f)
    (hx : s.fibre? f = some x) (hp : x.post = p :: r) (ho : p.op = .ipref a 0) (hl : (s.fabric (coreOf f)).ilines = [])
    (hi : (s.fabric (coreOf f)).ifills = []) (he : x.ended = false) :
    ∃ t, exec (.ipref a 0) s = .next t ∧
      (t.fabric (coreOf f)).ifills = [⟨s.ctxOfFibre f, p.a.toNat / 128, false, false⟩] ∧ t.ms = s.ms := by
  have hline : (p.a.toNat / 128 + 0) % 2 ^ 57 = p.a.toNat / 128 := by omega
  have hask : (s.fabric (coreOf f)).askLine (s.ctxOfFibre f) false (p.a.toNat / 128) =
      { s.fabric (coreOf f) with ifills := [⟨s.ctxOfFibre f, p.a.toNat / 128, false, false⟩] } := by
    simp [Fabric.askLine, Fabric.line?, hl, hi, joinIFill]
  refine ⟨_, (exec_ipref a 0 s).trans ((atHead_post hc hx hp _ _).trans (congrArg Host.Outcome.next
    (popPost_eq (x := x) hx hp he (by rw [ho]; rfl)))), ?_, rfl⟩
  refine (congrArg Fabric.ifills (kvGetD_kvSetD_same _ _ _ _)).trans ?_
  change ((s.fabric (coreOf f)).askLine (s.ctxOfFibre f) false ((p.a.toNat / 128 + 0) % 2 ^ 57)).ifills = _
  rw [hline, hask]

/-- Settles O43: it holds. A copy is issued once there is room; the head of the queue is performed and goes; SPINV and SPUNMAP change
window words and windows at commit; and a PREF's translation, which asks more of a leaf than the statement's, answers the same. -/
theorem scratchpadOperationsAct : Obligations.ScratchpadOperationsAct := by
  refine ⟨fun _ _ _ => issues_of_atHead fun _ => rfl, fun _ _ _ _ => issues_of_atHead fun _ => rfl,
    fun _ _ _ _ => issues_of_atHead fun _ => rfl, fun _ _ _ _ => issues_of_atHead fun _ => rfl,
    fun _ _ _ => issues_of_atHead fun _ => rfl, fun _ _ _ => issues_of_atHead fun _ => rfl,
    fun _ _ _ => issues_of_atHead fun _ => rfl, ?spmap, ?spunmap, ?spinv, ?commitSpinv, ?commitUnmaps, ?pref, ?ipref⟩
  case spmap =>
    intro a b c s f x p r g w rest hc hx hp hg ho hr hw he
    obtain ⟨t, ht, hf, hgt, hs, hms⟩ := spmap_maps hc hx hp hg ho hr he
    refine ⟨t, _, g.freeWin, _, ht, hf, congrArg List.tail hp, hgt, rfl, kvGet_freeWin hw, kvGet_kvSet_same _ _ _, hs,
      fun j hj => kvGet_kvSet_other hj _ _, fun i h1 h2 => ?_, fun i h => ?_, hms⟩
    · exact (word_voidWords { g with reserved := rest } w.off w.len i).trans (if_neg (by omega))
    · exact (word_voidWords { g with reserved := rest } w.off w.len i).trans (if_pos h)
  case spunmap =>
    intro t a s f x p r g off rest hc hx hp hg hl ht hr he
    exact spunmap_issued t a hc hx hp hg ⟨hl, ht⟩ hr he
  case spinv =>
    intro a b s f x p r hc hx hp
    exact (exec_spinv a b s).trans (atHead_post hc hx hp _ _)
  case commitSpinv =>
    intro s f p a b g ho hg hr hb
    exact ⟨_, gather_commitSpinv ho hg hr hb, rfl, word_voidWords _ _ _⟩
  case commitUnmaps =>
    intro s f p t a g k w ho hg hw hm hoff
    rw [commitUnmaps_retires ho hg hw hm hoff]
    refine ⟨_, gather_setGather_same _ _ _, rfl, rfl, fun j hj b hb => ?_⟩
    have h := spByte_setSp_zeros s g.core (g.spBase + w.off + 4 * j + b) (cs := g.lostBytes w)
      fun c hc => by obtain ⟨_, _, _, _, _, rfl⟩ := mem_lostBytes.1 hc; rfl
    simp only [address_mem_lostBytes hj hb] at h
    refine h.trans ?_
    cases (g.word (w.off / 4 + j)).v || (g.word (w.off / 4 + j)).bm.getLsbD b <;> rfl
  case pref =>
    intro a k s f x p r hc hx hp
    exact ⟨(exec_pref a k s).trans (atHead_post hc hx hp _ _), prefetch_outside, fun u l h ha hx hl hm hb hp hf => prefetch_unbounded h ha hx hl hp hm hb hf,
      fun u l lim h ha hx hl hm hb hp => prefetch_bounded h ha hx hl hp hm hb, fun u b => prefetch_failed⟩
  case ipref =>
    intro a s f x p r hc hx hp ho hl hi he
    exact ipref_asks hc hx hp ho hl hi he

end Sys2Proof.Machine
end

section
/-! ST with the unused size code 7 (R314 gives 0 to 6): the statement takes 16 bytes of an access of the allocation, the upper
eight of a dword that it leaves free. -/
namespace Sys2Proof.Machine
open Sys2Proof.Claims

/-- The first address of the aperture of a context that has not been set up. -/
def allocationAt : Dword := 0xFFFFFFF000000000
/-- An instance whose v0 points there and whose v1 is 7. -/
def allocInst : Inst := { placedInst [0xF0000007] with toks := [(0, .val allocationAt), (1, .val 7)] }
/-- A gather with an allocation of 1024 bytes. -/
def allocGather : Gather := { placedGather with spSize := 1024 }
/-- Node 0 of that instance is to fire. -/
def allocState : State :=
  { State.reset with
    fab := { Fab.reset with gathers := [(0, allocGather)], fibres := [(0, newFibre placedAt 0 0 0)], insts := [(0, allocInst)] }
    cur := .node 0 0 }
/-- What the instances of fibre 0 have kept to store afterwards. -/
def keptCells : Result → List (List (Nat × Byte))
  | .next t => ((t.inst? 0).toList.flatMap (·.stores)).map (·.cells)
  | _ => []

theorem resolve_allocState : allocState.resolve (allocState.whoNode 0 0) (effective allocationAt 0 (accessBytes 7)) (accessBytes 7)
    (accessBytes 7) needW = (allocState, .scratch (List.range 16)) := Prod.ext rfl (by decide)

/-- What the statement says of that store, for each value of the dword that it leaves free. -/
theorem keptCells_of_statement (h : Obligations.StoresAreKeptUntilCommit) (z : Dword) :
    keptCells (exec (.st 0 7 (.v 1) (.v 0) 0) allocState) = [(List.range 16).zip (stored 7 7 z)] := by
  have hkept := ((h 0 7 (.v 1) (.v 0) 0).2 allocState allocState 0 0 allocInst allocationAt 7 z _ rfl rfl rfl
    resolve_allocState).2 _ allocGather rfl rfl (by decide)
  exact congrArg keptCells hkept

/-- Refutes O35: for the size code 7 the statement leaves the second dword of the stored value free, so it gives one ST the
upper bytes of 0 and those of 1. -/
theorem not_storesAreKeptUntilCommit : ¬ Obligations.StoresAreKeptUntilCommit := by
  intro h
  exact absurd ((keptCells_of_statement h 0).symm.trans (keptCells_of_statement h 1)) (by decide)

end Sys2Proof.Machine
end

section
/-! A copy whose descriptor lies in the on-chip map. The model lets no cached translation lead there (the check of R36 joins those
that a cached translation must pass, so the page is walked first); the statement's translation lets it, and faults at once. -/
namespace Sys2Proof.Machine
open Sys2Proof.Claims

/-- An instance whose v0 holds the placed address and whose v1 is 7. -/
def copyInst : Inst := { placedInst [0xF0000007] with toks := [(0, .val placedAt), (1, .val 7)] }
/-- Its node 0 is to fire. The core's translation cache maps that address to the on-chip map, which the context may use. -/
def chipState : State :=
  { State.reset with
    fab := { Fab.reset with gathers := [(0, placedGather)], fibres := [(0, newFibre placedAt 0 0 0)], insts := [(0, copyInst)] }
    ms := { State.reset.ms with tlb := [⟨0, .leaf ⟨0, 3, placedAt.toNat / 2 ^ 14, BitVec.ofNat 64 (2 ^ 40 + 0x673), [0, 0, 0, 0]⟩⟩] }
    disp := { Disp.reset with ctxs := [(0, ⟨1, 0, 0xFFFFFFF000010000, 0, 0⟩)] }
    cur := .node 0 0 }
/-- The statement's translation of the descriptor's 64 bytes. -/
def chipResolved : State × Resolved := chipState.resolve (chipState.whoNode 0 0) placedAt.toNat 64 64 needR
/-- The page walks under way afterwards. -/
def walksOf : Result → Nat
  | .next t => t.ms.walks.length
  | _ => 0

theorem chipResolved_snd : chipResolved.2 = .onchip 0 0 := by decide
theorem chipResolved_eq : chipResolved = (chipResolved.1, .onchip 0 0) := by rw [← chipResolved_snd]
theorem walksOf_cpyr : walksOf (exec (.cpyr 0 (.v 0) (.v 1)) chipState) = 1 := by decide
theorem walksOf_traps : walksOf (.next (traps chipResolved.1 0 0 0x09 placedAt [placedAt, 7])) = 0 := by decide

/-- Refutes O42: the node of a CPYR asks for a page walk where a cached translation leads into the on-chip map, and the statement
has it fault with the cached translation. -/
theorem not_postCommitOperationsAreKept : ¬ Obligations.PostCommitOperationsAreKept := by
  unfold Obligations.PostCommitOperationsAreKept
  rintro ⟨-, -, -, -, -, -, -, -, -, -, -, -, -, -, -, -, -, -, -, -, -, hcopy⟩
  have hfault := ((hcopy (.cpyr 0 (.v 0) (.v 1), [.v 0, .v 1]) (.inr (.inl ⟨_, _, _, rfl⟩))).2.2 chipState chipResolved.1 0 0 copyInst
    placedGather placedAt [7] _ rfl rfl (by decide) (by decide) rfl rfl rfl chipResolved_eq).2.1 0 0 rfl
  exact absurd (walksOf_cpyr.symm.trans ((congrArg walksOf hfault).trans walksOf_traps)) (by decide)

end Sys2Proof.Machine
end

section
/-! A step runs the decoded instruction (R131, R213, R342) but for the commit of a store that goes through the on-chip map: R35 has
that store applied again after every other store of the cycle. -/
namespace Sys2Proof.Machine
open Sys2Proof.Claims

/-- An instance that leaves by EXIT and stores one byte through the on-chip map, where slot 0 of core 0 stands. -/
def mappingInst : Inst :=
  { placedInst [0xF0000007] with todo := [], xfer := some .exit, stores := [⟨0, placedAt, .onchip, [(0, 7)], none, 0, []⟩] }
/-- Its fibre. -/
def mappingFibre : Fibre := newFibre placedAt 0 0 0
/-- Its commit is the next move. -/
def mappingState : State :=
  { State.reset with
    fab := { Fab.reset with gathers := [(0, placedGather)], fibres := [(0, mappingFibre)], insts := [(0, mappingInst)] }
    focus := .fibre 0 }
/-- The cycle of that commit. -/
def mappingCycle : State := { mappingState.tick with cur := .none }
/-- What slot 0 of core 0 holds afterwards. -/
def firstSlot : Result → Option Slot
  | .next t => some (t.slot 0 0)
  | _ => none
/-- The cycle keeps that store: the EXIT empties the fibre's slots and the store then stands (R35). -/
theorem firstSlot_step_mapping : firstSlot (step mappingState) = some ⟨7, true, none⟩ := by decide
/-- The commit alone loses it. -/
theorem firstSlot_commitIf_mapping : firstSlot (mappingState.tick.atEnd (mappingState.tick.after (.next
    { (mappingCycle.attempt fun w => State.commitIf { w with cur := .gather (gatherOf 0) } [0] 0).checkBars (gatherOf 0) with
      cur := .none }))) = some noSlot := by decide

/-- Refutes O60: a fibre's commit applies its stores through the on-chip map once more, last (R35), and the state of the eighth
clause leaves that out. Here the EXIT that commits empties slot 0, which the instance's own store names. -/
theorem not_aStepRunsTheDecodedInstruction : ¬ Obligations.AStepRunsTheDecodedInstruction := by
  unfold Obligations.AStepRunsTheDecodedInstruction
  rintro ⟨-, -, -, -, -, -, -, hcommit, -⟩
  have hstep := (hcommit mappingState 0 rfl (by decide)).2 mappingFibre mappingInst rfl rfl rfl (by decide)
  have hslot : some ⟨7, true, none⟩ = some noSlot :=
    firstSlot_step_mapping.symm.trans ((congrArg firstSlot hstep).trans firstSlot_commitIf_mapping)
  exact absurd hslot (by decide)

end Sys2Proof.Machine
end

section
/-! Fences (R139, R140, R154): what a fence is for each instruction, its turns at the head of a fibre's queue, its end, and the
events of the acquire and of the fence tokens. -/
namespace Sys2Proof.Machine
open Sys2Proof.Claims

/-! ## Words of a fence, and records -/

theorem maskBelow_toNat (m : BitVec 7) : maskBelow m.toNat = below m := by
  simp only [maskBelow, bit_toNat, below]
theorem recMatters_none : recMatters none = fun _ => true := rfl
theorem recMatters_some (n : Nat) : recMatters (some n) = concerns n := rfl
/-- A system-scope fence waits for the fibre's copies to and from peers (R96). -/
theorem systemWaits_iff {s : State} {f : Nat} {sc : BitVec 7} : s.systemWaits f sc.toNat = true ↔ awaitsPeers s f sc := by
  simp [State.systemWaits, awaitsPeers, State.copiesOf]
theorem staleRec_eq_true {s : State} {c : Nat × RelRec} : s.staleRec c.2 = true ↔ ¬ fresh s c := by
  simp [State.staleRec, fresh]
theorem findStale_fresh {s : State} {rs : List (Nat × RelRec)} (h : ∀ c ∈ rs, fresh s c) : s.findStale rs = none :=
  List.find?_eq_none.2 fun c hc => fun hs => staleRec_eq_true.1 hs (h c hc)
theorem findStale_head {s : State} {c : Nat × RelRec} {l : List (Nat × RelRec)} (h : ¬ fresh s c) :
    s.findStale (c :: l) = some c := List.find?_cons_of_pos (staleRec_eq_true.2 h)
theorem Steady.fresh {s t : State} (h : Steady s t) (c : Nat × RelRec) : Claims.fresh t c ↔ Claims.fresh s c := by
  rw [Claims.fresh, Claims.fresh, h.coreInc]
theorem Steady.attempt (s : State) {m : State → State} (h : ∀ t, Steady t (m t)) : Steady s (s.attempt m) :=
  .ite (.refl s) (.ite (.refl s) (h s))
theorem Steady.drainSome (s : State) (c : Nat) (r : List Nat) : Steady s (s.drainSome c r) :=
  .foldl _ (fun _ _ => .foldl _ (fun s _ => .attempt s fun _ => .partClean _ _ _ _) _ _) _ _
theorem Quiet.fibre {s t : State} (h : Quiet s t) (f : Nat) : t.fibre? f = s.fibre? f := by
  rw [State.fibre?, h.fibres, State.fibre?]
theorem Quiet.ctxOfFibre {s t : State} (h : Quiet s t) (f : Nat) : t.ctxOfFibre f = s.ctxOfFibre f := by
  have hctx (u : State) : u.ctxOfFibre f = ((u.gather? (gatherOf f)).map Gather.bare |>.map Gather.ctx).getD 0 := by
    unfold State.ctxOfFibre
    cases u.gather? (gatherOf f) <;> rfl
  rw [hctx, hctx, h.gathers]

/-! ## The end of a fence -/

/-- The end of an acquire, with the regions that it names. -/
theorem endFence_acquire (s : State) (f : Nat) (sc m : BitVec 7) {o : FenceOp} (hs : o.scope = sc.toNat) (hm : o.mask = m.toNat)
    (ha : o.acq = true) :
    s.endFence f o = fenced (acquired s f sc m o.dropRgx) f (if o.rel = true ∧ 2 ≤ sc.toNat then some o.rgx else none)
      fun c => !recMatters o.acqN c := by
  have hctx : (if 2 ≤ sc.toNat ∨ below m = true then s.acquireDrop f o.dropRgx else s).ctxOfFibre f = s.ctxOfFibre f :=
    (Quiet.ite (Quiet.acquireDrop s f _) (.refl s)).ctxOfFibre f
  simp only [State.endFence, ha, hs, hm, Bool.true_and, maskBelow_toNat, bit_toNat, fenced, acquired, Bool.and_eq_true,
    Bool.or_eq_true, decide_eq_true_eq, if_true, hctx]
theorem endFence_release (s : State) (f : Nat) {o : FenceOp} (ha : o.acq = false) (hr : o.rel = true) :
    s.endFence f o = fenced s f (if 2 ≤ o.scope then some o.rgx else none) fun _ => true := by
  simp only [State.endFence, ha, hr, Bool.false_and, Bool.true_and, Bool.false_eq_true, if_false, fenced, decide_eq_true_eq,
    List.filter_true]

/-! ## A fence at the head of a fibre's queue -/

/-- The fence's release writes lines back (R154, R156). -/
def FenceOp.sheds (o : FenceOp) : Bool := o.rel && (maskBelow o.mask || (o.sc && decide (2 ≤ o.scope)))
/-- It has written back what may leave; and some of it may not (R97). -/
def State.shedBy (s : State) (f : Nat) (o : FenceOp) : State := if o.sheds then s.drainSome (coreOf f) o.rgx else s
def State.heldBy (s : State) (f : Nat) (o : FenceOp) : Bool := o.sheds && (s.shedBy f o).undrained (coreOf f) o.rgx
/-- A fence whose release is over, and whose tokens are answered where it has sent any: its acquire, or its end. -/
def fenceGoesOn (o : FenceOp) (f : Nat) (x : Fibre) (s : State) : Result :=
  if o.acq && decide (2 ≤ o.scope) then
    match s.findStale (x.met.filter (recMatters o.acqN)) with
    | some r => .next (((s.modFibre f fun x => { x with met := x.met.erase r }).dropMet r).postFault f 0x0D 0)
    | none => .next ((s.askDrains (dieOf f) (agentNode f 127) (some (coreOf f)) (x.met.filter (recMatters o.acqN))).setStage f 3)
  else .next (s.endFence f o)

theorem Quiet.shedBy (s : State) (f : Nat) (o : FenceOp) : Quiet s (s.shedBy f o) := .ite (.drainSome _ _ _) (.refl s)
theorem Steady.shedBy (s : State) (f : Nat) (o : FenceOp) : Steady s (s.shedBy f o) := .ite (.drainSome _ _ _) (.refl s)
theorem performLoads_none {s : State} {f : Nat} (h : s.loadsOf f = []) : s.performLoads f = s := by
  rw [State.performLoads, h, List.foldl_nil]
theorem atHeadOf_head {s : State} {f : Nat} {x : Fibre} {p : PostOp} {r : List PostOp} (hx : s.fibre? f = some x)
    (hp : x.post = p :: r) : s.atHeadOf f p = true := by
  simp [State.atHeadOf, hx, hp]

section
variable {s : State} {f : Nat} {x : Fibre} {p : PostOp} {r : List PostOp} (hd : heads s f x p r)
include hd

theorem fence_heads (op : Instr) (o : FenceOp) (w : Nat) : fence op o w s = fencePost o f x p s := by
  obtain ⟨hc, hx, hp, ho⟩ := hd
  simp [fence, afterCommit, hc, hx, hp, ho]
theorem fencex_heads (sc : BitVec 7) : exec (.fencex sc) s = fencexPost sc.toNat f x p s := by
  obtain ⟨hc, hx, hp, ho⟩ := hd
  simp [execFencex, afterCommit, hc, hx, hp, ho]

omit hd in
theorem fencePost_waits {o : FenceOp} (h0 : x.stage = 0) (hw : s.systemWaits f o.scope = true) : fencePost o f x p s = .next s :=
  if_pos (.inr (.inr ⟨h0, hw⟩))
/-- A fence's first turn, by what its release leaves and by its scope. -/
theorem fencePost_starts {o : FenceOp} (h0 : x.stage = 0) (hl : s.loadsOf f = []) (hw : s.systemWaits f o.scope = false) :
    fencePost o f x p s = if s.heldBy f o then .next (s.shedBy f o)
      else if 4 ≤ o.scope then .next (sendsTokens (s.shedBy f o) f) else fenceGoesOn o f x (s.shedBy f o) := by
  obtain ⟨-, hx, hp, -⟩ := hd
  have hshed : (if o.rel then s.releaseDrain (coreOf f) o.scope o.mask o.sc o.rgx else s) = s.shedBy f o := by
    cases h : o.rel <;> simp [State.shedBy, FenceOp.sheds, State.releaseDrain, h]
  have hheld : (o.rel && (s.shedBy f o).releaseLeft (coreOf f) o.scope o.mask o.sc o.rgx) = s.heldBy f o := by
    rw [State.heldBy, FenceOp.sheds, State.releaseLeft, Bool.and_assoc]
  have hhead : (s.shedBy f o).atHeadOf f p = true := atHeadOf_head ((Quiet.shedBy s f o).fibre f |>.trans hx) hp
  cases hst : (s.shedBy f o).findStale (x.met.filter (recMatters o.acqN)) <;>
    simp [fencePost, h0, hw, performLoads_none hl, hshed, hheld, hhead, fenceGoesOn, hst, sendsTokens, failPost]
/-- Its turn once its tokens are answered. -/
theorem fencePost_answered {o : FenceOp} (h2 : x.stage = 2) : fencePost o f x p s = fenceGoesOn o f x s := by
  obtain ⟨-, hx, hp, -⟩ := hd
  cases hst : s.findStale (x.met.filter (recMatters o.acqN)) <;>
    simp [fencePost, h2, atHeadOf_head hx hp, fenceGoesOn, hst, failPost]
end

section
variable {s : State} {f : Nat} {x : Fibre} {o : FenceOp}
theorem fenceGoesOn_asks (ha : o.acq = true) (hs : 2 ≤ o.scope) (hf : ∀ c ∈ x.met.filter (recMatters o.acqN), fresh s c) :
    fenceGoesOn o f x s =
      .next ((asksDrains s (dieOf f) (agentNode f 127) (some (coreOf f)) (x.met.filter (recMatters o.acqN))).setStage f 3) := by
  simp only [fenceGoesOn, ha, hs, decide_true, Bool.and_true, if_true, findStale_fresh hf]
  rfl
theorem fenceGoesOn_stale {c : Nat × RelRec} {l : List (Nat × RelRec)} (ha : o.acq = true) (hs : 2 ≤ o.scope)
    (hm : x.met.filter (recMatters o.acqN) = c :: l) (hc : ¬ fresh s c) :
    fenceGoesOn o f x s = .next (((s.modFibre f fun x => { x with met := x.met.erase c }).dropMet c).postFault f 0x0D 0) := by
  simp only [fenceGoesOn, ha, hs, decide_true, Bool.and_true, if_true, hm, findStale_head hc]
theorem fenceGoesOn_ends (h : ¬ (o.acq = true ∧ 2 ≤ o.scope)) : fenceGoesOn o f x s = .next (s.endFence f o) :=
  if_neg (by simpa using h)
end

/-! ## The fences of the instructions -/

theorem sheds_fenceOp (sc m k : BitVec 7) :
    (fenceOp sc m k).sheds = true ↔ k ≠ 0 ∧ (below m = true ∨ (k = 3 ∧ 2 ≤ sc.toNat)) := by
  have h : (fenceOp sc m k).sheds = (k != 0 && (maskBelow m.toNat || (k == 3 && decide (2 ≤ sc.toNat)))) := rfl
  simp [h, maskBelow_toNat]
theorem sheds_relbOp (sc m n n2 : BitVec 7) :
    (relbOp sc m n n2).sheds = true ↔ (1 : BitVec 7) ≠ 0 ∧ (below m = true ∨ ((1 : BitVec 7) = 3 ∧ 2 ≤ sc.toNat)) := by
  simp [FenceOp.sheds, relbOp, maskBelow_toNat]
theorem shedBy_acqbOp (s : State) (f : Nat) (sc m n : BitVec 7) : s.shedBy f (acqbOp sc m n) = s := rfl
theorem heldBy_acqbOp (s : State) (f : Nat) (sc m n : BitVec 7) : s.heldBy f (acqbOp sc m n) = false := rfl
theorem fenceOp_acq {sc m k : BitVec 7} (hk : k ≠ 1) : (fenceOp sc m k).acq = true := by
  simpa [fenceOp] using hk
theorem fenceOp_all (sc m k : BitVec 7) (x : Fibre) : x.met.filter (recMatters (fenceOp sc m k).acqN) = x.met :=
  List.filter_true _
theorem endFence_release_fenceOp (s : State) (f : Nat) (sc m : BitVec 7) :
    s.endFence f (fenceOp sc m 1) = fenced s f (if 2 ≤ sc.toNat then some [] else none) fun _ => true :=
  endFence_release s f rfl rfl
theorem endFence_relbOp (s : State) (f : Nat) (sc m n n2 : BitVec 7) :
    s.endFence f (relbOp sc m n n2) = fenced s f
      (if 2 ≤ sc.toNat then some (n.toNat :: (if n2.getLsbD 6 then [n2.toNat % 64] else [])) else none) fun _ => true :=
  endFence_release s f rfl rfl
theorem endFence_fenceOp (s : State) (f : Nat) (sc m : BitVec 7) {k : BitVec 7} (hk : k ≠ 1) :
    s.endFence f (fenceOp sc m k) = fenced (acquired s f sc m []) f (if k ≠ 0 ∧ 2 ≤ sc.toNat then some [] else none)
      fun _ => false := by
  simpa [fenceOp, FenceOp.dropRgx, recMatters_none] using endFence_acquire s f sc m (o := fenceOp sc m k) rfl rfl (fenceOp_acq hk)
theorem endFence_acqbOp (s : State) (f : Nat) (sc m n : BitVec 7) :
    s.endFence f (acqbOp sc m n) = fenced (acquired s f sc m [n.toNat]) f none fun c => !concerns n.toNat c :=
  endFence_acquire s f sc m (o := acqbOp sc m n) rfl rfl rfl

/-- A fence's first turn where its release writes back under a condition. -/
theorem fencePost_first {s : State} {f : Nat} {x : Fibre} {p : PostOp} {r : List PostOp} (hd : heads s f x p r) {o : FenceOp}
    {c : Prop} [Decidable c] (hc : o.sheds = true ↔ c) (h0 : x.stage = 0) (hl : s.loadsOf f = []) (hw : s.systemWaits f o.scope = false) :
    let u := if c then s.drainSome (coreOf f) o.rgx else s
    fencePost o f x p s = if c ∧ u.undrained (coreOf f) o.rgx = true then .next u
      else if 4 ≤ o.scope then .next (sendsTokens u f) else fenceGoesOn o f x u := by
  intro u
  have hu : s.shedBy f o = u := if_congr hc rfl rfl
  have hh : s.heldBy f o = true ↔ c ∧ u.undrained (coreOf f) o.rgx = true := by rw [State.heldBy, Bool.and_eq_true, hc, hu]
  rw [fencePost_starts hd h0 hl hw, hu]
  exact if_congr hh rfl rfl

/-! ## FENCEX -/

theorem drainedScope_eq_true {s : State} {sc : BitVec 7} {die : Nat} :
    s.drainedScope sc.toNat die = true ↔ ∀ d ∈ drainedDies sc die, s.heldLines d = [] := by
  simp [State.drainedScope, State.drainedDie, scopeDies, drainedDies, upto]
/-- A FENCEX ends once the holders that it drains keep nothing. -/
theorem fencexPost_eq (s : State) (f : Nat) (x : Fibre) (p : PostOp) (sc : BitVec 7) (h : s.addsOut (agentNode f 127) (dieOf f) = false) :
    let u := shedSums s sc (dieOf f)
    let v := if 4 ≤ sc.toNat then u.modGather (gatherOf f) fun g => { g with offered := false } else u
    fencexPost sc.toNat f x p s =
      .next (if u.drainedScope sc.toNat (dieOf f) then (v.modFibre f fun x => x.withRel none).popPost f else u) := by
  intro u v
  have hu : s.drainScope sc.toNat (dieOf f) = u := rfl
  simp only [fencexPost, h, hu, Bool.false_eq_true, if_false, Bool.not_eq_true']
  cases u.drainedScope sc.toNat (dieOf f) <;> rfl
theorem exec_fencex_seq {s : State} {c : Nat} {q : Seq} {sc : BitVec 7} (hc : s.cur = .seq c) (hq : s.seq? c = some q) (hm : q.mats = [])
    (h : s.addsOut (agentSeq c) (dieOfCl c) = false) :
    let u := shedSums s sc (dieOfCl c)
    exec (.fencex sc) s = .next (if u.drainedScope sc.toNat (dieOfCl c) then u.seqDone c q 1 else u) := by
  intro u
  simp only [exec_fencex, execFencex, hc, hq, hm, h, List.isEmpty_nil, Bool.not_true, Bool.or_self, Bool.false_eq_true, if_false]
  rfl

/-! ## A fence of sequencer code -/

section
variable {s : State} {c : Nat} {q : Seq}

theorem fence_seq (hc : s.cur = .seq c) (hq : s.seq? c = some q) (op : Instr) (o : FenceOp) (w : Nat) :
    fence op o w s = fenceSeq o w c q s := by
  simp [fence, hc, hq]

variable (hm : q.mats = []) (ho : s.offering (agentSeq c) = false) {o : FenceOp} {w : Nat}
include hm ho

theorem fenceSeq_sends (h0 : q.stage = 0) (hs : 4 ≤ o.scope) : fenceSeq o w c q s =
    .next ((s.sendTokens (agentSeq c) (s.setOf q.job) (dieOfCl c)).setSeq c { q with stage := 1 }) := by
  simp [fenceSeq, hm, ho, h0, hs]
/-- Its acquire or its end, with no tokens to send or all of them answered. -/
theorem fenceSeq_goesOn (h : (q.stage = 0 ∧ o.scope < 4) ∨ q.stage = 2) : fenceSeq o w c q s =
    if o.acq then
      match s.findStale (q.met.filter (recMatters o.acqN)) with
      | some r => .next (((s.setSeq c { q with met := q.met.erase r }).dropMet r).seqFault c 0x0D 0)
      | none => .next ((asksDrains s (dieOfCl c) (agentSeq c) none (q.met.filter (recMatters o.acqN))).setSeq c { q with stage := 3 })
    else .next (s.seqDone c { q with stage := 0 } w) := by
  rcases h with ⟨h0, hs⟩ | h2
  · cases hst : s.findStale (q.met.filter (recMatters o.acqN)) <;>
      simp [fenceSeq, hm, ho, h0, Nat.not_le.2 hs, hst, failSeq, State.askDrains, asksDrains]
  · cases hst : s.findStale (q.met.filter (recMatters o.acqN)) <;>
      simp [fenceSeq, hm, ho, h2, hst, failSeq, State.askDrains, asksDrains]
theorem fenceSeq_acquired (h4 : q.stage = 4) : fenceSeq o w c q s =
    .next (s.seqDone c { q with stage := 0, met := q.met.filter fun r => !recMatters o.acqN r } w) := by
  simp [fenceSeq, hm, ho, h4]
end

/-! ## The events -/

theorem acquireVa_agentNode {s : State} {f : Nat} {x : Fibre} {p : PostOp} {r : List PostOp} (h : agentNode f 127 < 10 ^ 12)
    (hx : s.fibre? f = some x) (hp : x.post = p :: r) (hl : p.place = none) : s.acquireVa (agentNode f 127) = 0 := by
  have hf : agentNode f 127 / 128 = f := by unfold agentNode; omega
  rw [State.acquireVa, if_neg (Nat.not_le.2 h), hf]
  simp [hx, hp, hl]
theorem cutAcquire_agentNode {s : State} {f : Nat} {x : Fibre} {p : PostOp} {r : List PostOp} (h : agentNode f 127 < 10 ^ 12)
    (hx : s.fibre? f = some x) (hp : x.post = p :: r) (hl : p.place = none) (hn : p.prod = none) :
    s.cutAcquire (agentNode f 127) =
      ({ s with ms := { s.ms with drains := s.ms.drains.filter fun o => o.agent != agentNode f 127 } } : State).postFault f 0x0D 0 := by
  have hf : agentNode f 127 / 128 = f := by unfold agentNode; omega
  have hva := acquireVa_agentNode h hx hp hl
  simp only [State.fibre?] at hx
  simp only [State.cutAcquire, hva, if_neg (Nat.not_le.2 h), hf, State.fibre?, hx, hp, hn, Option.bind_some, List.head?_cons]
/-- An acquire by fence that fails: its other drains are given up and its fibre's operation faults. -/
theorem failAcquire_agentNode {s : State} {f : Nat} {x : Fibre} {p : PostOp} {r : List PostOp} (c : Nat × RelRec)
    (h : agentNode f 127 < 10 ^ 12) (hx : s.fibre? f = some x) (hp : x.post = p :: r) (hl : p.place = none) (hn : p.prod = none) :
    let u := (s.modFibre f fun y => { y with met := y.met.erase c }).dropMet c
    s.failAcquire (agentNode f 127) c =
      ({ u with ms := { u.ms with drains := u.ms.drains.filter fun o => o.agent != agentNode f 127 } } : State).postFault f 0x0D 0 := by
  intro u
  have hf : agentNode f 127 / 128 = f := by unfold agentNode; omega
  have hu : u.fibre? f = some { x with met := x.met.erase c } := (fibre_modFibre_same s f _).trans (by rw [hx]; rfl)
  rw [State.failAcquire, if_neg (Nat.not_le.2 h), hf]
  exact cutAcquire_agentNode h hu hp hl hn

theorem acquireComplete_fibre {s : State} {f : Nat} {x : Fibre} {p : PostOp} {r : List PostOp} {o : FenceOp} (hf : f < 10 ^ 12)
    (hx : s.fibre? f = some x) (h3 : x.stage = 3) (hd : s.drained (agentNode f 127) = true) (hp : x.post = p :: r)
    (ho : fenceOfOp p.op = some o) : exec (.acquireComplete f) s = .next (s.endFence f o) := by
  simp only [exec_acquireComplete, execAcquireComplete, if_neg (Nat.not_le.2 hf), hx, h3, hd, hp, ho, and_self, if_true]
theorem acquireComplete_seq {s : State} {c : Nat} {q : Seq} (hq : s.seq? c = some q) (h3 : q.stage = 3)
    (hd : s.drained (agentSeq c) = true) : exec (.acquireComplete (agentSeq c)) s = .next (s.setSeq c { q with stage := 4 }) := by
  have hle : 10 ^ 12 ≤ agentSeq c := Nat.le_add_right _ _
  have hcl : agentSeq c - 10 ^ 12 = c := Nat.add_sub_cancel_left _ _
  simp only [exec_acquireComplete, execAcquireComplete, if_pos hle, hcl, hq, h3, hd, and_self, if_true]
theorem fenceTokenArrival_eq {s : State} {i : Nat} {p : Posted} {agent : Nat} (hp : s.ms.posted[i]? = some p) (hw : p.what = .fence agent)
    (hs : p.sent = true) (hb : ∀ o ∈ s.ms.posted.take i, o.circ ≠ p.circ) :
    let u : State := { s with ms := { s.ms with posted := s.ms.posted.eraseIdx i } }
    let v := u.sendOn p.set p.dst p.src 2
    exec (.fenceTokenArrival i) s = .next (if s.outdated p then u else { v with ms := { v.ms with
      fences := v.ms.fences.map (fun w => if w.agent = agent then { w with left := w.left - 1 } else w) } }) := by
  have hbefore : ((s.ms.posted.take i).any fun x => x.circ == p.circ) = false := by simpa using hb
  simp only [exec_fenceTokenArrival, execFenceTokenArrival, hp, hw, hs, hbefore, dropAt_eq_eraseIdx, Bool.not_false, Bool.and_self,
    if_true, beq_iff_eq]
  exact (apply_ite Host.Outcome.next (s.outdated p = true) _ _).symm
theorem fenceComplete_eq {s : State} {f : Nat} {w : FenceWait} (hf : f < 10 ^ 12) (hw : s.ms.fences = [w]) (ha : w.agent = agentNode f 127)
    (hl : w.left = 0) :
    exec (.fenceComplete f) s = .next (({ s with ms := { s.ms with fences := [] } } : State).setStage f 2) := by
  have hfence : s.fenceOf (agentNode f 127) = some w := by simp [State.fenceOf, hw, ha]
  have hgone : [w].filter (fun w => w.agent != agentNode f 127) = [] := by simp [ha]
  simp only [exec_fenceComplete, execFenceComplete, if_neg (Nat.not_le.2 hf), hfence, hw, hgone, hl, ne_eq, not_true_eq_false, if_false]

theorem drainRequest_fresh {s : State} {i : Nat} {d : DrainReq} (hd : s.ms.drains[i]? = some d) (h : fresh s (d.copy, d.record)) :
    let u := s.drainSome d.record.core d.record.rgx
    exec (.drainRequest i) s = .next (if u.undrained d.record.core d.record.rgx then u
      else ({ u with ms := { u.ms with drains := u.ms.drains.eraseIdx i } } : State).dropMet (d.copy, d.record)) := by
  have hst : s.staleRec d.record = false := Bool.eq_false_iff.2 fun hs => (staleRec_eq_true (c := (d.copy, d.record))).1 hs h
  simp only [exec_drainRequest, execDrainRequest, hd, hst, dropAt_eq_eraseIdx, Bool.false_eq_true, if_false]
theorem drainRequest_stale {s : State} {i : Nat} {d : DrainReq} (hd : s.ms.drains[i]? = some d) (h : ¬ fresh s (d.copy, d.record)) :
    exec (.drainRequest i) s = .next (s.failAcquire d.agent (d.copy, d.record)) := by
  have hst : s.staleRec d.record = true := (staleRec_eq_true (c := (d.copy, d.record))).2 h
  simp only [exec_drainRequest, execDrainRequest, hd, hst, if_true]

/-- Settles O44: it holds. Each instruction is a fence at the head of its queue, whose turns `fencePost_first`,
`fencePost_answered` and `fenceGoesOn` say; what a release writes back leaves fibres, gathers and incarnations as they were. -/
theorem fencesReleaseAndAcquire : Obligations.FencesReleaseAndAcquire := by
  refine ⟨?start, ?waits, ?answered, ?fencex, ?sequencer, ?drain, ?complete, fun s c q => acquireComplete_seq, ?token,
    fun s f w => fenceComplete_eq⟩
  case start =>
    intro sc m s f x p r hd h0 hl hp agent sheds shed holds two pending
    have hw : s.systemWaits f sc.toNat = false := Bool.eq_false_iff.2 fun h => hp (systemWaits_iff.1 h)
    have hf k : exec (.fence sc m k) s = if holds k [] then .next (shed k []) else if 4 ≤ sc.toNat then .next (sendsTokens (shed k []) f)
        else fenceGoesOn (fenceOp sc m k) f x (shed k []) :=
      (fence_heads hd _ _ _).trans (fencePost_first hd (sheds_fenceOp sc m k) h0 hl hw)
    have hr n n2 : exec (.relb sc m n n2) s = if holds 1 (two n n2) then .next (shed 1 (two n n2)) else if 4 ≤ sc.toNat then
        .next (sendsTokens (shed 1 (two n n2)) f) else fenceGoesOn (relbOp sc m n n2) f x (shed 1 (two n n2)) :=
      (fence_heads hd _ _ _).trans (fencePost_first hd (sheds_relbOp sc m n n2) h0 hl hw)
    have ha n : exec (.acqb sc m n) s = if 4 ≤ sc.toNat then .next (sendsTokens s f) else fenceGoesOn (acqbOp sc m n) f x s :=
      (fence_heads hd _ _ _).trans (fencePost_starts hd h0 hl hw)
    have hfresh k c : fresh (shed k []) c ↔ fresh s c := (Steady.ite (.drainSome _ _ _) (.refl s)).fresh c
    refine ⟨fun k h => (hf k).trans (if_pos h), fun n n2 h => (hr n n2).trans (if_pos h),
      fun k h4 h => (hf k).trans ((if_neg h).trans (if_pos h4)), fun n n2 h4 h => (hr n n2).trans ((if_neg h).trans (if_pos h4)),
      fun n h4 => (ha n).trans (if_pos h4), fun h4 h => ?fence, fun n n2 h4 h => ?relb, fun k hk h2 h => ?acquire,
      fun k hk h2 h4 h hm => ?asks, fun k c l hk h2 h4 h hm hc => ?stale, fun n h2 => ?acqb, fun n h2 h4 hm => ?acqbAsks⟩
    case fence =>
      rw [hf, if_neg h, if_neg (Nat.not_le.2 h4), fenceGoesOn_ends (by simp [fenceOp]), endFence_release_fenceOp]
    case relb =>
      rw [hr, if_neg h, if_neg (Nat.not_le.2 h4), fenceGoesOn_ends (by simp [relbOp]), endFence_relbOp]
    case acquire =>
      rw [hf, if_neg h, if_neg (by omega), fenceGoesOn_ends (fun hs => absurd hs.2 (Nat.not_le.2 h2)), endFence_fenceOp _ _ _ _ hk,
        if_neg (fun hs => absurd hs.2 (Nat.not_le.2 h2))]
    case asks =>
      rw [hf, if_neg h, if_neg (Nat.not_le.2 h4), fenceGoesOn_asks (fenceOp_acq hk) h2, fenceOp_all]
      rw [fenceOp_all]
      exact fun c hc => (hfresh k c).2 (hm c hc)
    case stale =>
      rw [hf, if_neg h, if_neg (Nat.not_le.2 h4), fenceGoesOn_stale (fenceOp_acq hk) h2 ((fenceOp_all sc m k x).trans hm)
        fun hs => hc ((hfresh k c).1 hs)]
    case acqb =>
      rw [ha, if_neg (by omega), fenceGoesOn_ends (fun hs => absurd hs.2 (Nat.not_le.2 h2)), endFence_acqbOp]
    case acqbAsks =>
      rw [ha, if_neg (Nat.not_le.2 h4)]
      exact fenceGoesOn_asks rfl h2 fun c hc => hm c (List.mem_filter.1 hc).1 (List.mem_filter.1 hc).2
  case waits =>
    intro sc m s f x p r hd h0 hp
    have hw := systemWaits_iff.2 hp
    exact ⟨fun k => (fence_heads hd _ _ _).trans (fencePost_waits h0 hw), fun n n2 => (fence_heads hd _ _ _).trans (fencePost_waits h0 hw),
      fun n => (fence_heads hd _ _ _).trans (fencePost_waits h0 hw)⟩
  case answered =>
    intro sc m s f x p r hd h2 h4
    have hs : 2 ≤ sc.toNat := by omega
    have hf k : exec (.fence sc m k) s = fenceGoesOn (fenceOp sc m k) f x s :=
      (fence_heads hd _ _ _).trans (fencePost_answered hd h2)
    refine ⟨?_, fun k hk hm => ?_, fun k c l hk hm hc => ?_⟩
    · rw [hf, fenceGoesOn_ends (by simp [fenceOp]), endFence_release_fenceOp, if_pos hs]
    · rw [hf, fenceGoesOn_asks (fenceOp_acq hk) hs (by rwa [fenceOp_all]), fenceOp_all]
    · rw [hf, fenceGoesOn_stale (fenceOp_acq hk) hs ((fenceOp_all sc m k x).trans hm) hc]
  case fencex =>
    intro sc s f x p r hd u
    have hx := fencex_heads hd sc
    refine ⟨fun h => hx.trans (if_pos h), fun h hl => ?_, fun h hl => ?_⟩
    · rw [hx, fencexPost_eq s f x p sc h, if_pos (drainedScope_eq_true.2 hl)]
    · rw [hx, fencexPost_eq s f x p sc h, if_neg fun hn => ?_]
      obtain ⟨d, hd, hne⟩ := hl
      exact hne (drainedScope_eq_true.1 hn d hd)
  case sequencer =>
    intro sc m k s c q hc hq hm ho u
    have hf := fence_seq hc hq (.fence sc m k) (fenceOp sc m k) 1
    have hnone : q.met.filter (fun r => !recMatters (fenceOp sc m k).acqN r) = [] := List.filter_false _
    refine ⟨fun h0 h4 => hf.trans (fenceSeq_sends hm ho h0 h4), fun h => ?turn,
      fun h4 => hf.trans ((fenceSeq_acquired hm ho h4).trans (by rw [hnone])),
      fun h hl => ?_, fun h hl => ?_⟩
    case turn =>
      have ht := hf.trans (fenceSeq_goesOn hm ho h)
      have hall : q.met.filter (recMatters (fenceOp sc m k).acqN) = q.met := List.filter_true _
      refine ⟨fun hk => ?_, fun hk hr => ?_, fun r l hk hr hs => ?_⟩
      · subst hk
        exact ht
      · rw [hall, fenceOp_acq hk, findStale_fresh hr] at ht
        exact ht
      · rw [hall, fenceOp_acq hk, hr, findStale_head hs] at ht
        exact ht.trans (by simp)
    · rw [exec_fencex_seq hc hq hm h, if_pos (drainedScope_eq_true.2 hl)]
    · rw [exec_fencex_seq hc hq hm h, if_neg fun hn => ?_]
      obtain ⟨d, hd, hne⟩ := hl
      exact hne (drainedScope_eq_true.1 hn d hd)
  case drain =>
    intro s i d hd
    refine ⟨drainRequest_fresh hd, fun f x p r hs ha hlt hx hp hl hn => ?_⟩
    rw [drainRequest_stale hd hs, ha, failAcquire_agentNode _ (ha ▸ hlt) hx hp hl hn]
  case complete =>
    intro s f x p r sc m k n hx h3 hd hp hlt
    refine ⟨fun ho hk => ?_, fun ho => ?_⟩
    · rw [acquireComplete_fibre hlt hx h3 hd hp (by rw [ho]; rfl), endFence_fenceOp _ _ _ _ hk]
    · rw [acquireComplete_fibre hlt hx h3 hd hp (by rw [ho]; rfl), endFence_acqbOp]
  case token =>
    intro s i p agent hp hw hs hb u v
    have ht := fenceTokenArrival_eq hp hw hs hb
    exact ⟨fun ho => by rw [ht, ho]; rfl, fun ho => by rw [ht, if_pos ho]⟩

end Sys2Proof.Machine
end

section
/-! What the stores of an instance and its operations on windows leave of the state (R132, R331): fibres, instances, slots,
producers, fabrics and launches stay, and of a gather all but its barriers, windows and meetings. -/
namespace Sys2Proof.Machine
open Sys2Proof.Claims

/-- A gather without its barriers, windows and meetings: its place, its size, its registers and its tags. -/
def Gather.seat (g : Gather) : Gather := { g with bars := [], wins := [], words := [], reserved := [], unmaps := [], meets := [] }
theorem Gather.seat_bare (g : Gather) : g.bare.seat = g.seat := rfl

/-- Only the memory system, the sequencers, the registers of management and the barriers, windows and meetings of gathers differ. -/
structure Aside (s t : State) : Prop where
  fibres : t.fab.fibres = s.fab.fibres
  insts : t.fab.insts = s.fab.insts
  slots : t.fab.slots = s.fab.slots
  prods : t.fab.prods = s.fab.prods
  cores : t.fab.cores = s.fab.cores
  gathers : ∀ k, (t.gather? k).map Gather.seat = (s.gather? k).map Gather.seat
  disp : t.disp = s.disp
  clock : t.clock = s.clock
  serial : t.serial = s.serial

theorem Aside.refl (s : State) : Aside s s := ⟨rfl, rfl, rfl, rfl, rfl, fun _ => rfl, rfl, rfl, rfl⟩
theorem Aside.trans {s t u : State} (h : Aside s t) (k : Aside t u) : Aside s u :=
  ⟨k.fibres.trans h.fibres, k.insts.trans h.insts, k.slots.trans h.slots, k.prods.trans h.prods, k.cores.trans h.cores,
    fun g => (k.gathers g).trans (h.gathers g), k.disp.trans h.disp, k.clock.trans h.clock, k.serial.trans h.serial⟩
theorem Aside.ofMs (s : State) (m : MemSys) : Aside s { s with ms := m } := ⟨rfl, rfl, rfl, rfl, rfl, fun _ => rfl, rfl, rfl, rfl⟩
theorem Aside.foldl {α : Type} (f : State → α → State) (h : ∀ s a, Aside s (f s a)) (l : List α) (s : State) :
    Aside s (l.foldl f s) := folded .refl .trans f h l s
/-- A change of one gather's windows. -/
theorem Aside.ofGathers {s : State} {m : KV Gather} (h : ∀ k, (kvGet k m).map Gather.seat = (s.gather? k).map Gather.seat) :
    Aside s { s with fab := { s.fab with gathers := m } } := ⟨rfl, rfl, rfl, rfl, rfl, h, rfl, rfl, rfl⟩
theorem Aside.setGather {s : State} {g : Nat} {x y : Gather} (hx : s.gather? g = some x) (h : y.seat = x.seat) :
    Aside s (s.setGather g y) := .ofGathers fun k => by
  by_cases hk : k = g
  · rw [hk, kvGet_kvSet_same, hx, Option.map_some, Option.map_some, h]
  · rw [kvGet_kvSet_other hk, State.gather?]
theorem Aside.modGather (s : State) (g : Nat) (fn : Gather → Gather) (h : ∀ x, (fn x).seat = x.seat) : Aside s (s.modGather g fn) :=
  .ofGathers fun k => by
    by_cases hk : k = g
    · rw [hk, kvGet_kvMod_same, Option.map_map, State.gather?]
      exact congrArg (Option.map · _) (funext h)
    · rw [kvGet_kvMod_other hk, State.gather?]

theorem Gather.seat_stale (g : Gather) (l : Nat) (hit : Nat → Bool) : (g.stale l hit).seat = g.seat := by
  rw [← Gather.seat_bare, Gather.bare_stale, Gather.seat_bare]
theorem Aside.below : Below Aside where
  refl := .refl
  trans := .trans
  holdBack _ := .ofMs _ _
  setAllowance _ _ _ _ := .ofMs _ _
  setCopy _ _ _ _ := .ofMs _ _
  staleWin s w _ := (Aside.modGather s w.1 _ fun g => g.seat_stale _ _).trans (.ofMs _ _)
  write _ _ _ := .ofMs _ _
  log _ _ _ _ _ := ⟨rfl, rfl, rfl, rfl, rfl, fun _ => rfl, rfl, rfl, rfl⟩
theorem Aside.flushing : Flushing Aside where
  toBelow := below
  cur _ _ := ⟨rfl, rfl, rfl, rfl, rfl, fun _ => rfl, rfl, rfl, rfl⟩
  l1 _ _ _ := .ofMs _ _
theorem Aside.walking : Walking Aside where
  toBelow := below
  sums _ _ _ _ := .ofMs _ _
  answers _ _ _ := .ofMs _ _

/-! ## Stores -/

theorem Aside.flushLines (s : State) (c : Nat) (p : List Nat) : Aside s (s.flushLines c p) :=
  .foldl _ (fun s _ => .foldl _ (fun s _ => flushing.partClean s _ _ _) _ s) _ s
theorem Aside.l1Update (s : State) (c : Nat) (cs : List (Nat × Byte)) : Aside s (s.l1Update c cs) :=
  (Aside.ofMs _ _).trans (either (.refl _) (.ofMs _ _))
theorem Aside.l1Store (s : State) (c r : Nat) (k : Bool) (cs : List (Nat × Byte)) : Aside s (s.l1Store c r k cs) :=
  (Aside.foldl (fun (s : State) l => s.tagLine c l r k) (fun _ _ => .ofMs _ _) _ s).trans (.ofMs _ _)
theorem Aside.attachAll (s : State) (d : Nat) (cs : List (Nat × Byte)) (r : Option RelRec) : Aside s (s.attachAll d cs r) := by
  cases r with
  | none => exact .refl s
  | some r => exact .foldl (fun (s : State) l => s.attach d l r) (fun _ _ => .ofMs _ _) _ s
theorem Aside.boundedWrite (s : State) (cs : List (Nat × Byte)) (r : Option RelRec) : Aside s (s.boundedWrite cs r) :=
  .foldl _ (fun s _ => ((walking.drainLine s _).trans (walking.writeLine _ _ _ _ _ _)).trans (.attachAll _ _ _ _)) _ _
theorem Aside.storeL2 (s : State) (c : Nat) (cs : List (Nat × Byte)) (r : Option RelRec) : Aside s (s.storeL2 c cs r) :=
  (((Aside.flushLines _ _ _).trans (below.writeAt _ _ _ _ _)).trans (.attachAll _ _ _ _)).trans (.l1Update _ _ _)
theorem Aside.postToken (s : State) (n a b c : Nat) (k : Option Nat) (w : Payload) : Aside s (s.postToken n a b c k w) :=
  (either (below.spend _ _ _) (.refl s)).trans (.ofMs _ _)
theorem Aside.postWrite (s : State) (n d : Nat) (c : Option Nat) (cs : List (Nat × Byte)) (own : Option WinLine) (op : Option Nat)
    (b : Bool) : Aside s (s.postWrite n d c cs own op b) :=
  .foldl _ (fun s _ => either ((either (walking.drainLine s _) (.refl s)).trans (below.writeLine _ _ _ _ _ _)) (.postToken _ _ _ _ _ _ _)) _ _
theorem Aside.pastL1 (s : State) (p : List Nat) : Aside s (s.pastL1 p) := by
  unfold State.pastL1
  split
  · exact (Aside.flushLines _ _ _).trans (.ofMs _ _)
  · exact .refl s
theorem Aside.outsideWrite (s : State) (cs : List (Nat × Byte)) (op : Option Nat) : Aside s (s.outsideWrite cs op) := by
  have hown (d : Nat) (own : List (Nat × Byte)) (ls : List Nat) :
      Aside s ((ls.foldl (fun s l => s.visit d l) (s.pastL1 (own.map (·.1)))).boundedWrite own none) :=
    ((Aside.pastL1 _ _).trans (.foldl _ (fun s _ => below.sends s _ _ _ _ _ _) _ _)).trans (.boundedWrite _ _ _)
  unfold State.outsideWrite
  extract_lets own out
  split
  · exact .boundedWrite _ _ _
  · clear_value out
    cases out with
    | nil => exact hown _ _ _
    | cons c r => exact (hown _ _ _).trans (.postToken _ _ _ _ _ _ _)
theorem Aside.enterWin (s : State) (d l g a : Nat) : Aside s (s.enterWin d l g a) :=
  (below.share s d l).trans (either (.refl _) (.ofMs _ _))
theorem Aside.markWord (s : State) (g w m : Nat) : Aside s (s.markWord g w m) := by
  unfold State.markWord
  split
  · exact .refl s
  · rename_i ga hga
    split
    · exact .refl s
    · extract_lets x bm t
      have ht : Aside s t := by
        unfold t
        split
        · exact .enterWin s _ _ _ _
        · exact .refl s
      exact either (ht.trans (.modGather _ _ _ fun _ => rfl)) (.setGather hga rfl)
theorem Aside.scratchWrite (s : State) (g : Nat) (cs : List (Nat × Byte)) : Aside s (s.scratchWrite g cs) := by
  unfold State.scratchWrite
  split
  · exact .refl s
  · exact (Aside.ofMs _ _).trans (.foldl (fun s (w : Nat × Nat) => s.markWord g w.1 w.2) (fun s w => .markWord s g w.1 w.2) _ _)
/-- A store that is not through the on-chip map. -/
theorem Aside.performStore (s : State) (f : Nat) {o : StoreOp} (h : o.goal ≠ .onchip) : Aside s (s.performStore f o) := by
  have hf := Aside.flushLines s (coreOf f) (o.cells.map (·.1))
  unfold State.performStore
  extract_lets core
  split
  · split
    · exact .scratchWrite _ _ _
    · exact .refl s
  · exact absurd ‹_› h
  · exact .outsideWrite _ _ _
  · exact either (((hf.trans (.foldl _ (fun s _ => (below.sends s _ _ _ _ _ _).trans (walking.drainLine _ _)) _ _)).trans
        (.boundedWrite _ _ _)).trans (.l1Update _ _ _))
      (either (hf.trans (.storeL2 _ _ _ _)) (either ((hf.trans (.postWrite _ _ _ _ _ _ _ _)).trans (.l1Update _ _ _)) (.l1Store _ _ _ _ _)))

theorem mem_insertBy {α : Type} (le : α → α → Bool) (a b : α) : ∀ l, b ∈ sortBy.insertBy le a l ↔ b = a ∨ b ∈ l
  | [] => by simp [sortBy.insertBy]
  | c :: r => by
    unfold sortBy.insertBy
    split
    · simp
    · simp [mem_insertBy le a b r, or_left_comm]
theorem mem_sortBy {α : Type} (le : α → α → Bool) (b : α) : ∀ l, b ∈ sortBy le l ↔ b ∈ l
  | [] => Iff.rfl
  | a :: r => by simp [sortBy, mem_insertBy, mem_sortBy le b r]
/-- A list in order stays as it is. -/
theorem sortBy_sorted {α : Type} {le : α → α → Bool} {l : List α} (h : l.Pairwise fun a b => le a b = true) : sortBy le l = l := by
  induction h with
  | nil => rfl
  | @cons a r ha _ ih =>
    rw [sortBy, ih]
    cases r with
    | nil => rfl
    | cons b t => exact if_pos (ha b List.mem_cons_self)
theorem Aside.performStores (s : State) (f : Nat) {os : List StoreOp} (h : ∀ o ∈ os, o.goal ≠ .onchip) : Aside s (s.performStores f os) := by
  have hsorted : ∀ o ∈ sortBy (fun a b : StoreOp => decide (a.eidx ≤ b.eidx)) os, o.goal ≠ .onchip :=
    fun o ho => h o ((mem_sortBy _ o os).1 ho)
  unfold State.performStores
  generalize sortBy (fun a b : StoreOp => decide (a.eidx ≤ b.eidx)) os = l at hsorted
  induction l generalizing s with
  | nil => exact .refl s
  | cons o r ih =>
    obtain ⟨ho, hr⟩ := List.forall_mem_cons.1 hsorted
    exact (Aside.performStore s f ho).trans (ih _ hr)

/-! ## Windows -/

theorem Aside.retireWin (s : State) (g off : Nat) : Aside s (s.retireWin g off) := by
  unfold State.retireWin
  split
  · exact .refl s
  · rename_i ga hga
    split
    · exact .refl s
    · exact (Aside.ofMs _ _).trans (.setGather hga rfl)
theorem Aside.commitUnmaps (s : State) (f : Nat) (ps : List PostOp) : Aside s (s.commitUnmaps f ps) := by
  refine .foldl _ (fun s p => ?_) ps s
  split
  · exact .retireWin _ _ _
  · exact .refl s
theorem Aside.commitReserved (s : State) (f : Nat) : Aside s (s.commitReserved f) := .modGather _ _ _ fun _ => rfl

end Sys2Proof.Machine
end

section
/-! A fibre joins a waiting set whose header's lines are in the instruction cache (R213, R223, R469): no line is filled, so nothing of
the memory system changes. -/
namespace Sys2Proof.Machine
open Sys2Proof.Claims

/-! ## The instruction cache -/

/-- No set of the instruction cache holds more lines than it has ways. -/
def Fabric.within (fb : Fabric) : Prop := ∀ k, (fb.ilines.filter fun l => l.set == k).length ≤ 8
/-- The two lines are the same line of the same context. -/
def ILine.same (a b : ILine) : Bool := a.ctx == b.ctx && a.line == b.line
theorem fabric_setFabric_same (s : State) (c : Nat) (fb : Fabric) : (s.setFabric c fb).fabric c = fb := kvGetD_kvSetD_same _ _ _ _
theorem line?_isSome {fb : Fabric} {ctx l : Nat} : (fb.line? ctx l).isSome = true ↔ ∃ e ∈ fb.ilines, e.ctx = ctx ∧ e.line = l := by
  simp [Fabric.line?, List.find?_isSome]

section
variable {fb : Fabric} {e : ILine} (he : e ∈ fb.ilines) (h : fb.within) (t : Nat)
include he h

/-- The ways beside a line that the cache holds are fewer than eight. -/
theorem ways_beside_lt : ((fb.ilines.filter fun x => !x.same e).filter fun x => x.set == e.set).length < 8 := by
  refine lt_of_lt_of_le ?_ (h e.set)
  rw [List.filter_comm]
  exact List.length_filter_lt_length_iff_exists.2 ⟨e, List.mem_filter.2 ⟨he, beq_self_eq_true _⟩, by simp [ILine.same]⟩
/-- A line that is used again stays, with every other one. -/
theorem ilines_putLine : (fb.putLine { e with used := t }).ilines = { e with used := t } :: fb.ilines.filter fun x => !x.same e := by
  have hways := ways_beside_lt he h
  refine congrArg (List.cons _) ?_
  exact (ite_congr rfl (fun _ => rfl) fun _ => if_pos hways).trans (ite_self _)
theorem within_putLine : (fb.putLine { e with used := t }).within := by
  intro k
  rw [ilines_putLine he h, List.filter_cons]
  split
  · next hk =>
    have hset : e.set = k := beq_iff_eq.1 hk
    exact hset ▸ ways_beside_lt he h
  · exact (List.filter_sublist.filter _).length_le.trans (h k)
theorem line?_putLine {ctx l : Nat} (hl : (fb.line? ctx l).isSome = true) : ((fb.putLine { e with used := t }).line? ctx l).isSome = true := by
  obtain ⟨d, hd, hc, hn⟩ := line?_isSome.1 hl
  rw [line?_isSome, ilines_putLine he h]
  cases hs : d.same e with
  | true =>
    simp only [ILine.same, Bool.and_eq_true, beq_iff_eq] at hs
    exact ⟨_, List.mem_cons_self, hs.1.symm.trans hc, hs.2.symm.trans hn⟩
  | false => exact ⟨d, List.mem_cons_of_mem _ (List.mem_filter.2 ⟨hd, by rw [hs]; rfl⟩), hc, hn⟩
end

/-! ## Fetching what is held -/

/-- The core's instruction cache holds those lines. -/
def State.holdsLines (s : State) (core ctx : Nat) (ls : List Nat) : Prop :=
  (s.fabric core).within ∧ ∀ l ∈ ls, ((s.fabric core).line? ctx l).isSome = true

/-- A line that is held is read from the cache, which goes on holding what it held. -/
theorem fetchLine_held {s : State} {core ctx l : Nat} {ls : List Nat} (h : s.holdsLines core ctx (l :: ls)) :
    (s.fetchLine core ctx l).1.ms = s.ms ∧ (s.fetchLine core ctx l).1.holdsLines core ctx ls := by
  obtain ⟨hw, hl⟩ := h
  obtain ⟨e, he⟩ := Option.isSome_iff_exists.1 (hl l List.mem_cons_self)
  have hmem : e ∈ (s.fabric core).ilines := List.mem_of_find?_eq_some he
  simp only [State.fetchLine, he, State.holdsLines, fabric_setFabric_same]
  exact ⟨rfl, within_putLine hmem hw _, fun k hk => line?_putLine hmem hw _ (hl k (List.mem_cons_of_mem _ hk))⟩
theorem fetchWords_held {s : State} {core ctx a n : Nat} (h : s.holdsLines core ctx (codeLines a n)) :
    (s.fetchWords core ctx a n).1.ms = s.ms := by
  have step (p : State × List (Nat × List Byte) × List Nat) (l : Nat) : (match p.1.fetchLine core ctx l with
      | (s, some bs) => (s, p.2.1 ++ [(l, bs)], p.2.2)
      | (s, none) => (s, p.2.1, p.2.2 ++ [l])).1 = (p.1.fetchLine core ctx l).1 := by
    split <;> rename_i heq <;> rw [heq]
  have fold : ∀ (ls : List Nat) (p : State × List (Nat × List Byte) × List Nat), p.1.holdsLines core ctx ls → (ls.foldl (fun p l =>
      match p.1.fetchLine core ctx l with
      | (s, some bs) => (s, p.2.1 ++ [(l, bs)], p.2.2)
      | (s, none) => (s, p.2.1, p.2.2 ++ [l])) p).1.ms = p.1.ms := fun ls => by
    induction ls with
    | nil => exact fun _ _ => rfl
    | cons l r ih =>
      intro p hp
      obtain ⟨hms, hheld⟩ := fetchLine_held hp
      rw [← step p l] at hms hheld
      exact (ih _ hheld).trans hms
  unfold State.fetchWords
  dsimp only
  split <;> exact fold _ (s, [], []) h
theorem readHeader_held {s : State} {core ctx a : Nat} (h : s.holdsLines core ctx (codeLines a 4)) :
    (s.readHeader core ctx a).1.ms = s.ms := by
  have hw := fetchWords_held h
  unfold State.readHeader
  split
  · split <;> rename_i heq <;> rw [heq] at hw <;> exact hw
  · rfl

/-! ## Joining a set -/

theorem joinOne_held {s : State} {f : Nat} {x : Fibre} (hx : s.fibre? f = some x)
    (h : s.holdsLines (coreOf f) (s.ctxOfFibre f) (codeLines x.pc.toNat 4)) : (s.joinOne f).ms = s.ms := by
  have hu : (s.setFabric (coreOf f) ((s.fabric (coreOf f)).forgive f)).holdsLines (coreOf f) (s.ctxOfFibre f) (codeLines x.pc.toNat 4) := by
    rw [State.holdsLines, fabric_setFabric_same]
    exact h
  simp only [State.joinOne, hx]
  split
  · rfl
  · split
    · rfl
    · split
      · rfl
      · exact readHeader_held hu
theorem joinSet_held {s : State} {f : Nat} {x : Fibre} (hx : s.fibre? f = some x) (h : headerHeld s f x.pc) : (s.joinSet f).ms = s.ms := by
  obtain ⟨hpark, hlines⟩ := h
  unfold State.joinSet State.trimSets
  extract_lets fb t
  have ht : t.parkedOn (coreOf f) = [] := hpark
  rw [ht, List.foldl_nil]
  have hfab : t.fabric (coreOf f) = { fb with sets := fb.sets.filter (s.setUsed (coreOf f)) } := fabric_setFabric_same _ _ _
  refine (joinOne_held (s := t) hx ?_).trans rfl
  rw [State.holdsLines, hfab]
  exact hlines

end Sys2Proof.Machine
end

section
/-! A fibre's commit seen from beside: what the joining of waiting sets and the check of barriers leave of fibres, slots, gathers and
launches. -/
namespace Sys2Proof.Machine
open Sys2Proof.Claims

/-- Only the memory system, fabrics, sequencers, the registers of management, the parking of fibres, what instances hold, and the
barriers, windows and meetings of gathers differ. -/
structure Beside (s t : State) : Prop where
  fibres : ∀ k, (t.fibre? k).map Fibre.unparked = (s.fibre? k).map Fibre.unparked
  insts : ∀ k, (t.inst? k).isSome = (s.inst? k).isSome
  slots : t.fab.slots = s.fab.slots
  gathers : ∀ k, (t.gather? k).map Gather.seat = (s.gather? k).map Gather.seat
  disp : t.disp = s.disp
  clock : t.clock = s.clock
  serial : t.serial = s.serial

theorem Beside.refl (s : State) : Beside s s := ⟨fun _ => rfl, fun _ => rfl, rfl, fun _ => rfl, rfl, rfl, rfl⟩
theorem Beside.trans {s t u : State} (h : Beside s t) (k : Beside t u) : Beside s u :=
  ⟨fun f => (k.fibres f).trans (h.fibres f), fun f => (k.insts f).trans (h.insts f), k.slots.trans h.slots,
    fun g => (k.gathers g).trans (h.gathers g), k.disp.trans h.disp, k.clock.trans h.clock, k.serial.trans h.serial⟩
theorem Aside.beside {s t : State} (h : Aside s t) : Beside s t :=
  ⟨fun k => by rw [State.fibre?, h.fibres, State.fibre?], fun k => by rw [State.inst?, h.insts, State.inst?], h.slots, h.gathers, h.disp,
    h.clock, h.serial⟩
theorem Calm.beside {s t : State} (h : Calm s t) : Beside s t := by
  refine ⟨h.fibres, fun k => by rw [State.inst?, h.insts, State.inst?], h.slots, fun k => ?_, h.disp, h.clock, h.serial⟩
  have hseat (g : Option Gather) : g.map Gather.seat = (g.map Gather.bare).map Gather.seat := by cases g <;> rfl
  rw [hseat, h.gathers, ← hseat]
theorem Beside.checkBar (s : State) (g b : Nat) : Beside s (s.checkBar g b) := by
  unfold State.checkBar
  split
  · exact .refl s
  · rename_i ga hga
    extract_lets b0
    split
    · exact .refl s
    · refine (Aside.setGather hga (y := ga.setBar b _) rfl).beside.trans ⟨fun _ => rfl, fun k => ?_, rfl, fun _ => rfl, rfl, rfl, rfl⟩
      simp only [State.inst?]
      rw [kvGet_kvMap, Option.isSome_map]
theorem Beside.checkBars (s : State) (g : Nat) : Beside s (s.checkBars g) :=
  folded .refl .trans (fun s b => s.checkBar g b) (fun s b => .checkBar s g b) _ s
theorem ms_checkBar (s : State) (g b : Nat) : (s.checkBar g b).ms = s.ms := by
  unfold State.checkBar
  split
  · rfl
  · dsimp only
    split <;> rfl
theorem ms_checkBars (s : State) (g : Nat) : (s.checkBars g).ms = s.ms :=
  folded (R := fun s t => t.ms = s.ms) (fun _ => rfl) (fun h k => k.trans h) (fun s b => s.checkBar g b) (fun s b => ms_checkBar s g b) _ s

section
variable {s t : State} (h : Beside s t)
include h

theorem Beside.fibre {f : Nat} {x : Fibre} (hx : s.fibre? f = some x) : ∃ y, t.fibre? f = some y ∧ y.unparked = x.unparked := by
  have hf := h.fibres f
  rw [hx, Option.map_some] at hf
  obtain ⟨y, hy, hu⟩ := Option.map_eq_some_iff.1 hf
  exact ⟨y, hy, hu⟩
theorem Beside.noFibre {f : Nat} (hx : s.fibre? f = none) : t.fibre? f = none := by
  have hf := h.fibres f
  rw [hx, Option.map_none] at hf
  exact Option.map_eq_none_iff.1 hf
theorem Beside.gather {g : Nat} {x : Gather} (hx : s.gather? g = some x) : ∃ y, t.gather? g = some y ∧ y.seat = x.seat := by
  have hf := h.gathers g
  rw [hx, Option.map_some] at hf
  obtain ⟨y, hy, hu⟩ := Option.map_eq_some_iff.1 hf
  exact ⟨y, hy, hu⟩
theorem Beside.noInst {f : Nat} (hi : s.inst? f = none) : t.inst? f = none := by
  have hf := h.insts f
  rw [hi] at hf
  exact Option.not_isSome_iff_eq_none.1 (by simp [hf])
theorem Beside.slot (c i : Nat) : t.slot c i = s.slot c i := by rw [State.slot, h.slots, State.slot]
theorem Beside.launch (l : Nat) : t.launch? l = s.launch? l := by rw [State.launch?, h.disp, State.launch?]
theorem Beside.isSome_fibre (k : Nat) : (t.fibre? k).isSome = (s.fibre? k).isSome := by
  rw [← Option.isSome_map (f := Fibre.unparked), h.fibres, Option.isSome_map]
end

/-- A slot as a fibre outside every emulation sees it. -/
theorem fibreSlot_eq {s : State} {f k : Nat} {g : Gather} {x : Fibre} (hg : s.gather? (gatherOf f) = some g) (hx : s.fibre? f = some x)
    (hs : x.shadow = none) : s.fibreSlot f k = s.slot (coreOf f) (storeIdx g f k) := by
  simp only [State.fibreSlot, hg, hx, hs]
/-- A slot of the store in a gather that has the same place. -/
theorem storeIdx_seat {g h : Gather} (e : h.seat = g.seat) (f k : Nat) : storeIdx h f k = storeIdx g f k := by
  have hb : h.lvBase = g.lvBase := (congrArg Gather.lvBase e : h.seat.lvBase = g.seat.lvBase)
  have hw : h.wsize = g.wsize := (congrArg Gather.wsize e : h.seat.wsize = g.seat.wsize)
  rw [storeIdx, hb, hw, storeIdx]
theorem ctxOfFibre_eq {s : State} {f : Nat} {g : Gather} (hg : s.gather? (gatherOf f) = some g) : s.ctxOfFibre f = g.ctx := by
  rw [State.ctxOfFibre, hg]

/-! ## Slots -/

theorem slot_setSlot_other (s : State) (c : Nat) {i j : Nat} (h : j ≠ i) (x : Slot) : (s.setSlot c i x).slot c j = s.slot c j :=
  kvGetD_kvSetD_other (by simpa [slotKey] using h) _ _ _

/-- Only slots and producers differ. -/
def Fills (s t : State) : Prop := t = { s with fab := { s.fab with slots := t.fab.slots, prods := t.fab.prods } }
theorem Fills.refl (s : State) : Fills s s := rfl
theorem Fills.trans {s t u : State} (h : Fills s t) (k : Fills t u) : Fills s u := by
  unfold Fills at h k ⊢
  rw [k, h]
theorem Fills.setSlot (s : State) (c i : Nat) (x : Slot) : Fills s (s.setSlot c i x) := rfl
theorem Fills.dropProd (s : State) (p : Nat) : Fills s (s.dropProd p) := rfl

section
variable {s t : State} (h : Fills s t)
include h
theorem Fills.fibre (f : Nat) : t.fibre? f = s.fibre? f := by rw [h]; rfl
theorem Fills.gather (g : Nat) : t.gather? g = s.gather? g := by rw [h]; rfl
theorem Fills.ms : t.ms = s.ms := by rw [h]
end

theorem fillSlot_eq {s : State} {f k : Nat} {g : Gather} {x : Fibre} (hg : s.gather? (gatherOf f) = some g) (hx : s.fibre? f = some x)
    (hs : x.shadow = none) (v : Dword) : s.fillSlot f k v = s.setSlot (coreOf f) (storeIdx g f k) ⟨v, true, none⟩ := by
  simp only [State.fillSlot, hg, hx, hs]
theorem clearSlot_eq {s : State} {f k : Nat} {g : Gather} {x : Fibre} (hg : s.gather? (gatherOf f) = some g) (hx : s.fibre? f = some x)
    (hs : x.shadow = none) (p : Nat) :
    s.clearSlot f k p = s.setSlot (coreOf f) (storeIdx g f k) ⟨(s.slot (coreOf f) (storeIdx g f k)).val, false, some p⟩ := by
  simp only [State.clearSlot, hg, hx, hs]

end Sys2Proof.Machine
end

section
/-! The writes of an instance at its commit (R207, R214, R215): its slots, its gather registers and its operations. -/
namespace Sys2Proof.Machine
open Sys2Proof.Claims

/-! ## Slot writes -/

/-- One slot write at commit. -/
def State.commitSlot (s : State) (f woff : Nat) (w : Nat × SlotW) : State := s.commitSlots f woff [w]
theorem commitSlots_cons (s : State) (f woff : Nat) (w : Nat × SlotW) (l : KV SlotW) :
    s.commitSlots f woff (w :: l) = (s.commitSlot f woff w).commitSlots f woff l := rfl

section
variable {s : State} {f : Nat} {g : Gather} {x : Fibre} (hg : s.gather? (gatherOf f) = some g) (hx : s.fibre? f = some x)
  (hs : x.shadow = none)
include hg hx hs

theorem commitSlot_full (woff k : Nat) (v : Dword) :
    s.commitSlot f woff (k, .full v) = s.setSlot (coreOf f) (storeIdx g f (woff + k)) ⟨v, true, none⟩ := fillSlot_eq hg hx hs v
/-- A slot that waits for a producer; one that has its value already gives it at once. -/
theorem commitSlot_wait (woff k p : Nat) :
    let t := s.setSlot (coreOf f) (storeIdx g f (woff + k)) ⟨(s.slot (coreOf f) (storeIdx g f (woff + k))).val, false, some p⟩
    s.commitSlot f woff (k, .wait p) = match (kvGet p s.fab.prods).bind (·.value) with
      | some v => (t.dropProd p).setSlot (coreOf f) (storeIdx g f (woff + k)) ⟨v, true, none⟩
      | none => t := by
  intro t
  have ht : s.clearSlot f (woff + k) p = t := clearSlot_eq hg hx hs p
  simp only [State.commitSlot, State.commitSlots, List.foldl_cons, List.foldl_nil, ht]
  change (match kvGet p s.fab.prods with | some pr => _ | none => _) = _
  cases kvGet p s.fab.prods with
  | none => rfl
  | some pr =>
    obtain ⟨pf, ps, pl, pv⟩ := pr
    cases pv with
    | none => rfl
    | some v => exact fillSlot_eq (s := t.dropProd p) hg hx hs v
theorem Fills.commitSlot (woff : Nat) (w : Nat × SlotW) : Fills s (s.commitSlot f woff w) := by
  obtain ⟨k, w⟩ := w
  cases w with
  | full v => rw [commitSlot_full hg hx hs]; exact .setSlot _ _ _ _
  | wait p =>
    rw [commitSlot_wait hg hx hs]
    split
    · rfl
    · rfl
theorem slot_commitSlot_same (woff k : Nat) (w : SlotW) : (s.commitSlot f woff (k, w)).slot (coreOf f) (storeIdx g f (woff + k)) =
    slotAfter s (s.slot (coreOf f) (storeIdx g f (woff + k))) w := by
  cases w with
  | full v => rw [commitSlot_full hg hx hs, slot_setSlot_same]; rfl
  | wait p =>
    rw [commitSlot_wait hg hx hs, slotAfter]
    cases (kvGet p s.fab.prods).bind (·.value) <;> exact slot_setSlot_same _ _ _ _
theorem slot_commitSlot_other (woff : Nat) {i : Nat} (w : Nat × SlotW) (hi : i ≠ storeIdx g f (woff + w.1)) :
    (s.commitSlot f woff w).slot (coreOf f) i = s.slot (coreOf f) i := by
  obtain ⟨k, w⟩ := w
  cases w with
  | full v => rw [commitSlot_full hg hx hs, slot_setSlot_other _ _ hi]
  | wait p =>
    rw [commitSlot_wait hg hx hs]
    have ht (q : Slot) : (s.setSlot (coreOf f) (storeIdx g f (woff + k)) q).slot (coreOf f) i = s.slot (coreOf f) i := slot_setSlot_other _ _ hi _
    cases (kvGet p s.fab.prods).bind (·.value) with
    | none => exact ht _
    | some v => exact (slot_setSlot_other _ _ hi _).trans (ht _)
/-- The producers of other writes stay. -/
theorem prods_commitSlot (woff : Nat) {w : Nat × SlotW} {q : Nat} (hq : w.2 ≠ .wait q) :
    kvGet q (s.commitSlot f woff w).fab.prods = kvGet q s.fab.prods := by
  obtain ⟨k, w⟩ := w
  cases w with
  | full v => rw [commitSlot_full hg hx hs]; rfl
  | wait p =>
    have hp : q ≠ p := fun h => hq (h ▸ rfl)
    rw [commitSlot_wait hg hx hs]
    cases (kvGet p s.fab.prods).bind (·.value) with
    | none => rfl
    | some v => exact kvGet_kvDel_other hp _
end

theorem slotAfter_congr {s t : State} {old : Slot} {w : SlotW} (h : ∀ p, w = .wait p → kvGet p t.fab.prods = kvGet p s.fab.prods) :
    slotAfter t old w = slotAfter s old w := by
  cases w with
  | full v => rfl
  | wait p => simp only [slotAfter, h p rfl]

section
variable {s : State} {f : Nat} {g : Gather} {x : Fibre}

theorem Fills.commitSlots (hg : s.gather? (gatherOf f) = some g) (hx : s.fibre? f = some x) (hs : x.shadow = none) (woff : Nat)
    (l : KV SlotW) : Fills s (s.commitSlots f woff l) := by
  induction l generalizing s with
  | nil => exact .refl s
  | cons a r ih =>
    have ha := Fills.commitSlot hg hx hs woff a
    exact ha.trans (ih ((ha.gather _).trans hg) ((ha.fibre _).trans hx))
/-- Slots that no write names stay. -/
theorem slot_commitSlots_other (hg : s.gather? (gatherOf f) = some g) (hx : s.fibre? f = some x) (hs : x.shadow = none) (woff : Nat)
    (l : KV SlotW) {i : Nat} (hi : ∀ a ∈ l, i ≠ storeIdx g f (woff + a.1)) :
    (s.commitSlots f woff l).slot (coreOf f) i = s.slot (coreOf f) i := by
  induction l generalizing s with
  | nil => rfl
  | cons a r ih =>
    have ha := Fills.commitSlot hg hx hs woff a
    rw [commitSlots_cons, ih ((ha.gather _).trans hg) ((ha.fibre _).trans hx) fun b hb => hi b (List.mem_cons_of_mem _ hb),
      slot_commitSlot_other hg hx hs woff a (hi a List.mem_cons_self)]
/-- The slots that the writes name become what they say: no two writes name one slot, or wait for one producer. -/
theorem slot_commitSlots (hg : s.gather? (gatherOf f) = some g) (hx : s.fibre? f = some x) (hs : x.shadow = none) (woff : Nat)
    {l : KV SlotW} (hl : kvSorted l = true) (hone : ∀ a ∈ l, ∀ b ∈ l, ∀ p, a.2 = .wait p → b.2 = .wait p → b = a) :
    ∀ a ∈ l, (s.commitSlots f woff l).slot (coreOf f) (storeIdx g f (woff + a.1)) =
      slotAfter s (s.slot (coreOf f) (storeIdx g f (woff + a.1))) a.2 := by
  induction l generalizing s with
  | nil => exact fun _ h => absurd h List.not_mem_nil
  | cons a r ih =>
    have ha := Fills.commitSlot hg hx hs woff a
    have hg' := (ha.gather (gatherOf f)).trans hg
    have hx' := (ha.fibre f).trans hx
    have hne b (hb : b ∈ r) : storeIdx g f (woff + b.1) ≠ storeIdx g f (woff + a.1) := by
      have := kvSorted_lt hl b hb
      simp only [storeIdx]
      omega
    intro b hb
    rw [commitSlots_cons]
    rcases List.mem_cons.1 hb with rfl | hr
    · rw [slot_commitSlots_other hg' hx' hs woff r fun c hc => (hne c hc).symm]
      exact slot_commitSlot_same hg hx hs woff _ _
    · rw [ih hg' hx' (kvSorted_tail hl) (fun c hc d hd => hone c (List.mem_cons_of_mem _ hc) d (List.mem_cons_of_mem _ hd)) b hr,
        slot_commitSlot_other hg hx hs woff a (hne b hr)]
      refine slotAfter_congr fun p hp => prods_commitSlot hg hx hs woff fun hq => ?_
      have hab : b = a := hone a List.mem_cons_self b hb p hq hp
      exact absurd (kvSorted_lt hl b hr) (by rw [hab]; exact lt_irrefl _)
end

/-! ## Gather registers -/

/-- Writes of distinct keys, and what was there before. -/
theorem kvGet_foldl_kvSet {α : Type} (k : Nat) : ∀ (l m : KV α), kvSorted l = true →
    kvGet k (l.foldl (fun m w => kvSet w.1 w.2 m) m) = (kvGet k l).or (kvGet k m)
  | [], m, _ => rfl
  | (a, v) :: r, m, h => by
    rw [List.foldl_cons, kvGet_foldl_kvSet k r _ (kvSorted_tail h)]
    by_cases hk : a = k
    · subst hk
      have hr : kvGet a r = none := by
        cases hv : kvGet a r with
        | none => rfl
        | some y => exact absurd (kvSorted_lt h _ (mem_of_kvGet hv)) (lt_irrefl _)
      simp [kvGet, hr, kvGet_kvSet_same]
    · simp [kvGet, hk, kvGet_kvSet_other (Ne.symm hk)]

/-! ## Operations -/

theorem commitSpinv_none {s : State} {f : Nat} {ps : List PostOp} (h : ∀ p ∈ ps, ∀ a b, p.op ≠ .spinv a b) : s.commitSpinv f ps = s := by
  induction ps with
  | nil => rfl
  | cons p r ih =>
    obtain ⟨hp, hr⟩ := List.forall_mem_cons.1 h
    refine Eq.trans ?_ (ih hr)
    rw [State.commitSpinv, List.foldl_cons]
    split
    · exact absurd ‹_› (hp _ _)
    · rfl
/-- Copies into anything but slots are queued as they are. -/
theorem commitCopies_none (s : State) (f : Nat) {ps : List PostOp}
    (h : ∀ p ∈ ps, ∀ k, copyKindOf p.op = some k → (shapeOf k p.desc p.a p.b p.c).dkind ≠ 2) : s.commitCopies f ps = (s, ps) := by
  induction ps with
  | nil => rfl
  | cons p r ih =>
    obtain ⟨hp, hr⟩ := List.forall_mem_cons.1 h
    have hone : s.commitCopy f p = (s, p) := by
      unfold State.commitCopy
      split
      · rfl
      · rename_i k hk
        exact if_neg (by simp [hp k hk])
    simp only [State.commitCopies, hone, ih hr]
theorem posts_eq {n : Inst} (h : postsQueue n) : n.posts = n.post := by
  obtain ⟨hord, hop⟩ := h
  unfold Inst.posts
  refine (congrArg _ (List.filter_eq_self.2 fun p hp => ?_)).trans (sortBy_sorted (hord.imp fun h => decide_eq_true h))
  split
  · exact absurd ‹_› ((hop p hp).1 _ _)
  · rfl

end Sys2Proof.Machine
end

section
/-! Where a fibre goes at its commit (R219, R231 to R233, R265), and the commit in one equation. -/
namespace Sys2Proof.Machine
open Sys2Proof.Claims

/-! ## The fibre after its transfer -/

/-- The instance's transfer leaves no handler and no emulation. -/
def Inst.staysOut (n : Inst) : Prop := (∀ a, n.xfer ≠ some (.resume a)) ∧ ∀ a, n.xfer ≠ some (.emulret a)
theorem staysOut_of_staysOrdinary {n : Inst} (h : staysOrdinary n) : n.staysOut := by
  constructor <;> intro a ha <;> simp [staysOrdinary, ha] at h
theorem staysOut_of_exit {n : Inst} (h : n.xfer = some .exit) : n.staysOut := by
  constructor <;> intro a ha <;> simp [h] at ha
theorem not_exit_of_staysOrdinary {n : Inst} (h : staysOrdinary n) : n.xfer ≠ some .exit := fun hx => by simp [staysOrdinary, hx] at h

/-- A fibre outside every emulation after its instance's writes and transfer. -/
def Fibre.moved (x : Fibre) (n : Inst) (clock : Nat) : Fibre :=
  { (moveView x n).1 with
    pc := (moveView x n).2.1, prev := n.hdr, way := (moveView x n).2.2, notes := (moveView x n).1.notes.filter fun k => k.1 != n.hdr
    since := clock + yieldOf n, aged := false, delay := if yieldOf n = 0 then none else some (clock + yieldOf n), hm := false }
/-- A transfer moves the window, the call stack and FSP, and nothing else of the fibre but for pw and THND. -/
theorem moveView_rest (x : Fibre) (n : Inst) : ∃ woff stack spilled fsp, (moveView x n).1 =
    { x with pw := n.pwW.getD x.pw, thnd := n.thndW.getD x.thnd, woff := woff, stack := stack, spilled := spilled, fsp := fsp } := by
  unfold moveView
  extract_lets woff fsp v
  split
  · exact ⟨_, _, _, _, rfl⟩
  · exact ⟨_, _, _, _, rfl⟩
  · split <;> exact ⟨_, _, _, _, rfl⟩
  · exact ⟨_, _, _, _, rfl⟩
  · exact ⟨_, _, _, _, rfl⟩
theorem following_eq (n : Inst) : following n = n.next := by
  have h : BitVec.ofNat 64 (4 * n.n) = 4 * BitVec.ofNat 64 n.n := BitVec.ofNat_mul 4 n.n
  rw [following, Inst.next, fallThrough, h]
/-- The transfer in the statement's words. -/
theorem moved_arrival (x : Fibre) {n : Inst} (h : staysOrdinary n) (c : Nat) :
    ((x.moved n c).pc, (x.moved n c).way, (x.moved n c).woff, (x.moved n c).stack, (x.moved n c).spilled, (x.moved n c).fsp) = arrival x n := by
  have hw : (n.woffWith x.woff).toNat = committedWindow x n := rfl
  have hf := following_eq n
  unfold staysOrdinary at h
  cases hx : n.xfer with
  | none => simp [Fibre.moved, moveView, arrival, hx, hw, hf]
  | some t =>
    cases t with
    | goto pc e => simp [Fibre.moved, moveView, arrival, hx, hw]
    | call pc adv =>
      by_cases hl : x.stack.length < 4
      · simp [Fibre.moved, moveView, arrival, hx, hw, hf, hl, Nat.not_le.2 hl]
      · simp [Fibre.moved, moveView, arrival, hx, hw, hf, hl, Nat.not_lt.1 hl]
    | ret r =>
      cases r with
      | none => cases hst : x.stack <;> simp [Fibre.moved, moveView, arrival, hx, hw, hf, hst]
      | some p => simp [Fibre.moved, moveView, arrival, hx]
    | exit => simp [hx] at h
    | yield d => simp [Fibre.moved, moveView, arrival, hx, hw, hf]
    | resume a => simp [hx] at h
    | emulret a => simp [hx] at h

theorem commitMove_eq {s : State} {f : Nat} {x : Fibre} {n : Inst} (hx : s.fibre? f = some x) (hs : x.shadow = none) (hh : x.hm = false)
    (hn : n.staysOut) : s.commitMove f n = s.setFibre f (x.moved n s.clock) := by
  obtain ⟨woff, stack, spilled, fsp, hv⟩ := moveView_rest x n
  have heff : x.eff = x := by rw [Fibre.eff, hs]
  have hkeep : x.keep (moveView x n).1 = (moveView x n).1 := by rw [Fibre.keep, hs]
  have hhm : (moveView x n).1.hm = false := by rw [hv]; exact hh
  obtain ⟨hr, he⟩ := hn
  simp only [State.commitMove, hx, heff, hkeep, hhm, Bool.false_and, Bool.false_eq_true, if_false, Bool.not_false, Bool.and_true]
  rfl

/-! ## The commit in one equation -/

/-- What an instance writes at its commit, before its fibre moves. -/
def State.effects (s : State) (busy : List Nat) (f : Nat) (x : Fibre) (n : Inst) : State :=
  (((((s.commitSlots f x.woff n.slotW).commitGs f n.gW).commitStores f (lastIdx n) n.stores).commitForks busy f x.woff n).commitSpinv f
    n.post).commitUnmaps f n.post
/-- What its commit does after that. -/
def State.leaves (u : State) (f : Nat) (n : Inst) : State :=
  let (v, k) := u.takeSerial
  let (v, ps) := v.commitCopies f n.posts
  let v := (v.commitReserved f).modFibre f fun z => { z with post := z.post ++ ps.map fun p => { p with inst := k } }
  let w := ((v.commitMove f n).count (coreOf f) (v.ctxOfFibre f) 1).delInst f
  match w.fibre? f with
  | none => w
  | some z =>
    if z.cancelled then w.leaveGather f (withoutRdv z.post)
    else if n.xfer = some .exit then (w.dropHeld f).leaveGather f ((((w.dropHeld f).fibre? f).map (·.post)).getD [])
    else w.joinSet f
theorem commit_leaves {s : State} {busy : List Nat} {f : Nat} {x : Fibre} {n : Inst} (hs : x.shadow = none) :
    s.commit busy f x n = (s.effects busy f x n).leaves f n := by
  have heff : x.eff = x := by rw [Fibre.eff, hs]
  rw [State.commit, heff]
  rfl

/-- The state in which an instance's operations are queued. -/
def State.queues (u : State) (f : Nat) (n : Inst) : State :=
  (({ u with serial := u.serial + 1 } : State).commitReserved f).modFibre f fun z => { z with post := queued u z n }
/-- The fibre with its instance's operations queued, where its transfer takes it. -/
def State.departed (u : State) (x : Fibre) (n : Inst) : Fibre := { x with post := queued u x n }.moved n u.clock
/-- The state in which the instance is over and the fibre has moved, but has not joined a waiting set. -/
def State.departs (u : State) (f : Nat) (x : Fibre) (n : Inst) : State :=
  (((u.queues f n).setFibre f (u.departed x n)).count (coreOf f) (u.ctxOfFibre f) 1).delInst f

theorem fibre_departs (u : State) (f : Nat) (x : Fibre) (n : Inst) : (u.departs f x n).fibre? f = some (u.departed x n) :=
  kvGet_kvSet_same _ _ _
theorem ctxOfFibre_queues (u : State) (f : Nat) (n : Inst) : (u.queues f n).ctxOfFibre f = u.ctxOfFibre f := by
  have hg : (u.queues f n).gather? (gatherOf f) = (u.gather? (gatherOf f)).map _ := kvGet_kvMod_same _ _ _
  unfold State.ctxOfFibre
  rw [hg]
  cases u.gather? (gatherOf f) <;> rfl
/-- An ordinary fibre ends at EXIT and joins the set of its header otherwise. -/
theorem leaves_eq {u : State} {f : Nat} {y : Fibre} {n : Inst} (hu : u.fibre? f = some y) (hy : ordinary y) (hn : n.staysOut)
    (hq : postsQueue n) :
    let w := u.departs f y n
    u.leaves f n = if n.xfer = some .exit then (w.dropHeld f).leaveGather f ((((w.dropHeld f).fibre? f).map (·.post)).getD [])
      else w.joinSet f := by
  intro w
  obtain ⟨hhm, hsh, -, hcan⟩ := hy
  have hv : (u.queues f n).fibre? f = some { y with post := queued u y n } :=
    (fibre_modFibre_same _ f _).trans (congrArg (Option.map _) hu)
  have hmove : (u.queues f n).commitMove f n = (u.queues f n).setFibre f (u.departed y n) := commitMove_eq hv hsh hhm hn
  have hw : w.fibre? f = some (u.departed y n) := fibre_departs _ _ _ _
  have hcw : (u.departed y n).cancelled = false := by
    obtain ⟨_, _, _, _, hv⟩ := moveView_rest { y with post := queued u y n } n
    simp only [State.departed, Fibre.moved, hv]
    exact hcan
  have hleave : u.leaves f n = (match w.fibre? f with
      | none => w
      | some z => if z.cancelled then w.leaveGather f (withoutRdv z.post)
        else if n.xfer = some .exit then (w.dropHeld f).leaveGather f ((((w.dropHeld f).fibre? f).map (·.post)).getD [])
        else w.joinSet f) := by
    have hqueue : (u.takeSerial.1.commitReserved f).modFibre f (fun z => { z with post := z.post ++ n.post.map fun p =>
        { p with inst := u.takeSerial.2 } }) = u.queues f n := rfl
    simp only [State.leaves, posts_eq hq, commitCopies_none _ _ fun p hp => (hq.2 p hp).2, hqueue, hmove,
      ctxOfFibre_queues]
    rfl
  rw [hleave, hw]
  exact if_neg (by simp [hcw])

end Sys2Proof.Machine
end

section
/-! The commit of an instance whose fibre goes on (R218, R219): what it leaves of fibre, gather, slots and memory. -/
namespace Sys2Proof.Machine
open Sys2Proof.Claims

/-- Fibres that differ in their parking only. -/
theorem eq_of_unparked {x y : Fibre} (h : y.unparked = x.unparked) : y = { x with parked := y.parked, parkedAt := y.parkedAt } :=
  congrArg (fun z : Fibre => { z with parked := y.parked, parkedAt := y.parkedAt }) h

/-! ## COMMIT of one instance -/

theorem mapStores_none {x : Fibre} {n : Inst} (hs : x.shadow = none) (h : ∀ o ∈ n.stores, o.goal ≠ .onchip) : mapStores x n = [] := by
  unfold mapStores
  rw [hs]
  refine List.filter_eq_nil_iff.2 fun o ho hg => ?_
  have hmem : o ∈ n.stores := by
    rcases List.mem_append.1 ho with hm | hm
    · exact (List.mem_filter.1 hm).1
    · split at hm
      · cases ‹none = some _›
      · exact absurd hm List.not_mem_nil
  exact h o hmem (beq_iff_eq.1 hg)
theorem mapLast_none {s u : State} {f : Nat} {x : Fibre} {n : Inst} (hx : s.fibre? f = some x) (hi : s.inst? f = some n)
    (h : mapStores x n = []) : u.mapLast (s.mapsOf [f]) = u := by
  simp [State.mapsOf, hx, hi, h, State.mapLast]
/-- An instance that is complete commits; one with a FORK, once nothing of its fibre is pending. -/
theorem exec_commit_complete {s : State} {f : Nat} {x : Fibre} {n : Inst} (hx : s.fibre? f = some x) (hi : s.inst? f = some n)
    (ho : ordinary x) (ht : n.todo = []) (hf : n.faults = []) (hst : storesReady s f n)
    (hfork : n.forks = [] ∨ (s.memPending f = false ∧ s.loadsOf f = [])) :
    exec (.commit f) s = .next (((s.effects [] f x n).leaves f n).checkBars (gatherOf f)) := by
  obtain ⟨-, hs, hrep, -⟩ := ho
  have hwait : s.storesWait f n = false := List.any_eq_false.2 fun o ho => by simp [(hst o ho).2]
  have hready : s.commitReady f x n = true := by
    rcases hfork with h | ⟨h, -⟩ <;> simp [State.commitReady, Inst.complete, ht, hf, hrep, hwait, h]
  have hif : s.commitIf [] f = s.commit [] f x n := by
    simp only [State.commitIf, hx, hi, hready, Bool.not_true, Bool.false_eq_true, if_false]
    split
    · rfl
    · rename_i hn
      obtain ⟨-, hl⟩ := hfork.resolve_left fun h => hn (by rw [h]; rfl)
      simp only [performLoads_none hl, hx, hi, hready, if_true]
  have hmap := mapLast_none (u := s.commitIf [] f) hx hi (mapStores_none hs fun o ho => (hst o ho).1)
  rw [exec_commit, execCommit, hmap, hif, commit_leaves hs]

/-! ## What the fibre's departure leaves -/

theorem slot_departs (u : State) (f : Nat) (x : Fibre) (n : Inst) (c i : Nat) : (u.departs f x n).slot c i = u.slot c i := rfl
theorem gather_departs {u : State} {f : Nat} {x : Fibre} {n : Inst} {k : Nat} {g : Gather} (h : u.gather? k = some g) :
    ∃ h, (u.departs f x n).gather? k = some h ∧ h.seat = g.seat :=
  (Aside.commitReserved { u with serial := u.serial + 1 } f).beside.gather (s := { u with serial := u.serial + 1 }) h
theorem fibre_departs_other (u : State) {f k : Nat} (h : k ≠ f) (x : Fibre) (n : Inst) : (u.departs f x n).fibre? k = u.fibre? k :=
  (kvGet_kvSet_other h _ _).trans (kvGet_kvMod_other h _ _)
theorem isSome_fibre_departs {u : State} {f : Nat} {x : Fibre} {n : Inst} (h : u.fibre? f = some x) (k : Nat) :
    ((u.departs f x n).fibre? k).isSome = (u.fibre? k).isSome := by
  by_cases hk : k = f
  · rw [hk, fibre_departs, h]; rfl
  · rw [fibre_departs_other u hk]
theorem inst_departs (u : State) (f : Nat) (x : Fibre) (n : Inst) : (u.departs f x n).inst? f = none := kvGet_kvDel_same _ _

theorem parkedOn_eq_nil {s : State} {c : Nat} : s.parkedOn c = [] ↔
    ∀ p ∈ s.fab.fibres, coreOf p.1 = c → p.2.parked = true → p.2.ended = true := by
  have hnil (l : List (Nat × Fibre)) : sortBy (fun a b => decide (a.2.parkedAt ≤ b.2.parkedAt)) l = [] ↔ l = [] := by
    simp only [List.eq_nil_iff_forall_not_mem, mem_sortBy]
  simp only [State.parkedOn, List.map_eq_nil_iff, hnil, List.filter_eq_nil_iff, Bool.and_eq_true, beq_iff_eq, Bool.not_eq_true',
    not_and, Bool.not_eq_false, and_imp]
/-- A core that has no fibre parked has none after a departure. -/
theorem parkedOn_departs {u : State} {f : Nat} {x : Fibre} {n : Inst} {c : Nat} (hx : u.fibre? f = some x) (h : u.parkedOn c = []) :
    (u.departs f x n).parkedOn c = [] := by
  rw [parkedOn_eq_nil] at h ⊢
  have hown := h (f, x) (mem_of_kvGet hx)
  have hqueue : (u.queues f n).fab.fibres = kvSet f { x with post := queued u x n } u.fab.fibres := by
    change kvMod f _ u.fab.fibres = _
    unfold kvMod
    rw [show kvGet f u.fab.fibres = some x from hx]
  obtain ⟨_, _, _, _, hv⟩ := moveView_rest { x with post := queued u x n } n
  intro p hp
  rcases mem_kvSet (m := (u.queues f n).fab.fibres) hp with rfl | hq
  · simp only [State.departed, Fibre.moved, hv]
    exact hown
  · rw [hqueue] at hq
    rcases mem_kvSet hq with rfl | hm
    · exact hown
    · exact h p hm
theorem ctxOfFibre_departs (u : State) (f : Nat) (x : Fibre) (n : Inst) : (u.departs f x n).ctxOfFibre f = u.ctxOfFibre f :=
  ctxOfFibre_queues u f n
theorem headerHeld_departs {u : State} {f : Nat} {x : Fibre} {n : Inst} {pc : Dword} (hx : u.fibre? f = some x)
    (h : headerHeld u f pc) : headerHeld (u.departs f x n) f pc := by
  obtain ⟨hpark, hways, hlines⟩ := h
  refine ⟨parkedOn_departs hx hpark, hways, ?_⟩
  rw [ctxOfFibre_departs]
  exact hlines

/-- A fibre that goes on joins the set of its header, and the barriers of its gather are looked at. -/
theorem beside_leaves {u : State} {f : Nat} {x : Fibre} {n : Inst} (hx : u.fibre? f = some x) (ho : ordinary x) (hn : staysOrdinary n)
    (hq : postsQueue n) : Beside (u.departs f x n) ((u.leaves f n).checkBars (gatherOf f)) := by
  rw [leaves_eq hx ho (staysOut_of_staysOrdinary hn) hq, if_neg (not_exit_of_staysOrdinary hn)]
  exact (Calm.joinSet _ _).beside.trans (.checkBars _ _)
theorem ms_leaves {u : State} {f : Nat} {x : Fibre} {n : Inst} (hx : u.fibre? f = some x) (ho : ordinary x) (hn : staysOrdinary n)
    (hq : postsQueue n) (h : headerHeld u f (u.departed x n).pc) : ((u.leaves f n).checkBars (gatherOf f)).ms = u.ms := by
  rw [leaves_eq hx ho (staysOut_of_staysOrdinary hn) hq, if_neg (not_exit_of_staysOrdinary hn), ms_checkBars]
  exact joinSet_held (fibre_departs u f x n) (headerHeld_departs hx h)

end Sys2Proof.Machine
end

section
/-! The commit of an instance without FORK (R207, R214, R218, R219, R132): the first two clauses of the statement. -/
namespace Sys2Proof.Machine
open Sys2Proof.Claims

/-- A gather that has taken an instance's writes of its registers. -/
def Gather.wrote (g : Gather) (l : KV Dword) : Gather := { g with gs := l.foldl (fun m w => kvSet w.1 w.2 m) g.gs }

theorem commitGs_eq {s : State} {f : Nat} {x : Fibre} (hx : s.fibre? f = some x) (hs : x.shadow = none) (l : KV Dword) :
    s.commitGs f l = s.modGather (gatherOf f) (·.wrote l) := by
  rw [State.commitGs, hx]
  simp only [hs]
  rfl
theorem commitStores_eq {s : State} {f : Nat} {x : Fibre} (hx : s.fibre? f = some x) (hs : x.shadow = none) (k : Nat)
    (os : List StoreOp) : s.commitStores f k os = s.performStores f os := by
  rw [State.commitStores, hx]
  simp only [hs]

section
variable {s : State} {f : Nat} {x : Fibre} {n : Inst} {g : Gather} (hx : s.fibre? f = some x) (hs : x.shadow = none)
  (hg : s.gather? (gatherOf f) = some g)
include hx hs hg

/-- The writes of an instance without FORK. -/
theorem effects_noFork (busy : List Nat) (hf : n.forks = []) (hp : ∀ p ∈ n.post, ∀ a b, p.op ≠ .spinv a b) :
    s.effects busy f x n =
      (((s.commitSlots f x.woff n.slotW).modGather (gatherOf f) (·.wrote n.gW)).performStores f n.stores).commitUnmaps f n.post := by
  have hslots : (s.commitSlots f x.woff n.slotW).fibre? f = some x := ((Fills.commitSlots hg hx hs _ _).fibre f).trans hx
  have hforks (t : State) : t.commitForks busy f x.woff n = t := by rw [State.commitForks, hf]; rfl
  rw [State.effects, commitSpinv_none hp, hforks, commitGs_eq hslots hs,
    commitStores_eq (s := (s.commitSlots f x.woff n.slotW).modGather (gatherOf f) (·.wrote n.gW)) hslots hs]

/-- The state between its writes of registers and its stores. -/
theorem aside_effects (busy : List Nat) (hf : n.forks = []) (hp : ∀ p ∈ n.post, ∀ a b, p.op ≠ .spinv a b)
    (hst : ∀ o ∈ n.stores, o.goal ≠ .onchip) :
    Aside ((s.commitSlots f x.woff n.slotW).modGather (gatherOf f) (·.wrote n.gW)) (s.effects busy f x n) := by
  rw [effects_noFork hx hs hg busy hf hp]
  exact (Aside.performStores _ f hst).trans (.commitUnmaps _ _ _)
end

/-- What an instance without FORK leaves before its fibre moves: the fibres, the fabrics, the clock and the numbers as they were, its
slots and the registers of its gather written. -/
structure Wrote (s : State) (f : Nat) (x : Fibre) (n : Inst) (g : Gather) (u : State) : Prop where
  fibres : u.fab.fibres = s.fab.fibres
  cores : u.fab.cores = s.fab.cores
  disp : u.disp = s.disp
  clock : u.clock = s.clock
  serial : u.serial = s.serial
  gather : ∃ h, u.gather? (gatherOf f) = some h ∧ h.seat = (g.wrote n.gW).seat
  slot : ∀ i, u.slot (coreOf f) i = (s.commitSlots f x.woff n.slotW).slot (coreOf f) i

theorem Wrote.effects {s : State} {f : Nat} {x : Fibre} {n : Inst} {g : Gather} (hx : s.fibre? f = some x) (hs : x.shadow = none)
    (hg : s.gather? (gatherOf f) = some g) (busy : List Nat) (hf : n.forks = []) (hp : ∀ p ∈ n.post, ∀ a b, p.op ≠ .spinv a b)
    (hst : ∀ o ∈ n.stores, o.goal ≠ .onchip) : Wrote s f x n g (s.effects busy f x n) := by
  have ha := aside_effects hx hs hg busy hf hp hst
  have hfill := Fills.commitSlots hg hx hs x.woff n.slotW
  have hwrote : ((s.commitSlots f x.woff n.slotW).modGather (gatherOf f) (·.wrote n.gW)).gather? (gatherOf f) = some (g.wrote n.gW) := by
    rw [gather_modGather_same, hfill.gather, hg]; rfl
  exact ⟨ha.fibres.trans (by rw [hfill]; rfl), ha.cores.trans (by rw [hfill]; rfl), ha.disp.trans (by rw [hfill]; rfl),
    ha.clock.trans (by rw [hfill]; rfl), ha.serial.trans (by rw [hfill]; rfl), ha.beside.gather hwrote, ha.beside.slot _⟩

section
variable {s u : State} {f : Nat} {x : Fibre} {n : Inst} {g : Gather} (hw : Wrote s f x n g u)
include hw

theorem Wrote.fibre (k : Nat) : u.fibre? k = s.fibre? k := by rw [State.fibre?, hw.fibres, State.fibre?]
theorem Wrote.departed (y : Fibre) : u.departed y n = s.departed y n := by
  rw [State.departed, State.departed, queued, queued, hw.serial, hw.clock]
theorem Wrote.headerHeld {pc : Dword} (hg : s.gather? (gatherOf f) = some g) (h : headerHeld s f pc) : headerHeld u f pc := by
  obtain ⟨hpark, hways, hlines⟩ := h
  have hfab : u.fabric (coreOf f) = s.fabric (coreOf f) := by rw [State.fabric, hw.cores, State.fabric]
  have hctx : u.ctxOfFibre f = s.ctxOfFibre f := by
    obtain ⟨h, hu, he⟩ := hw.gather
    rw [ctxOfFibre_eq hu, ctxOfFibre_eq hg]
    exact (congrArg Gather.ctx he : h.seat.ctx = (g.wrote n.gW).seat.ctx)
  refine ⟨?_, by rw [hfab]; exact hways, by rw [hfab, hctx]; exact hlines⟩
  rw [parkedOn_eq_nil, hw.fibres]
  exact parkedOn_eq_nil.1 hpark
end

/-- What a departure leaves of the fibre's registers. -/
theorem departed_rest (s : State) (x : Fibre) (n : Inst) : let y := s.departed x n
    y.prev = n.hdr ∧ y.pw = n.pwW.getD x.pw ∧ y.thnd = n.thndW.getD x.thnd ∧
    y.delay = (if yieldOf n = 0 then none else some (s.clock + yieldOf n)) ∧ y.since = s.clock + yieldOf n ∧
    y.trap = x.trap ∧ y.emul = x.emul ∧ y.hm = false ∧ y.post = queued s x n ∧ y.shadow = x.shadow := by
  obtain ⟨_, _, _, _, hv⟩ := moveView_rest { x with post := queued s x n } n
  simp only [State.departed, Fibre.moved, hv, and_self]
/-- The fibre after the commit of an instance that goes on. -/
theorem departed_fields (s : State) (x : Fibre) {n : Inst} (hn : staysOrdinary n) {y : Fibre} (hy : y.unparked = (s.departed x n).unparked) :
    (y.pc, y.way, y.woff, y.stack, y.spilled, y.fsp) = arrival x n ∧ y.prev = n.hdr ∧
    y.pw = n.pwW.getD x.pw ∧ y.thnd = n.thndW.getD x.thnd ∧
    y.delay = (if yieldOf n = 0 then none else some (s.clock + yieldOf n)) ∧ y.since = s.clock + yieldOf n ∧
    y.trap = x.trap ∧ y.emul = x.emul ∧ y.hm = false ∧ y.post = queued s x n ∧ y.shadow = x.shadow := by
  rw [eq_of_unparked hy]
  exact ⟨moved_arrival { x with post := queued s x n } hn s.clock, departed_rest s x n⟩

/-! ## The clauses of an instance without FORK -/

section
variable {s : State} {f : Nat} {x : Fibre} {n : Inst} {g : Gather} (hx : s.fibre? f = some x) (hi : s.inst? f = some n)
  (hg : s.gather? (gatherOf f) = some g) (ho : ordinary x) (ht : n.todo = []) (hf : n.faults = []) (hst : storesReady s f n)
  (hfork : n.forks = []) (hn : staysOrdinary n) (hq : postsQueue n)
include hx hi hg ho ht hf hst hfork hn hq

/-- The commit leaves the fibre where its transfer takes it, and the slots and gather registers written. -/
theorem commit_lands : ∃ t y h, exec (.commit f) s = .next t ∧ t.fibre? f = some y ∧ y.unparked = (s.departed x n).unparked ∧
    t.gather? (gatherOf f) = some h ∧ h.seat = (g.wrote n.gW).seat ∧ t.inst? f = none ∧
    (∀ i, t.slot (coreOf f) i = (s.commitSlots f x.woff n.slotW).slot (coreOf f) i) ∧
    (headerHeld s f (arrival x n).1 → t.ms = (s.effects [] f x n).ms) := by
  have hs : x.shadow = none := ho.2.1
  have hw : Wrote s f x n g (s.effects [] f x n) :=
    .effects hx hs hg [] hfork (fun p hp => (hq.2 p hp).1) fun o ho => (hst o ho).1
  have hux := (hw.fibre f).trans hx
  have hb := beside_leaves hux ho hn hq
  have hdep := hw.departed x
  obtain ⟨y, hy, hyu⟩ := hb.fibre (fibre_departs _ f x n)
  obtain ⟨h1, hg1, he1⟩ := hw.gather
  obtain ⟨h2, hg2, he2⟩ := gather_departs (f := f) (x := x) (n := n) hg1
  obtain ⟨h, hgt, he⟩ := hb.gather hg2
  refine ⟨_, y, h, exec_commit_complete hx hi ho ht hf hst (.inl hfork), hy, hdep ▸ hyu, hgt, he.trans (he2.trans he1),
    hb.noInst (inst_departs _ f x n), fun i => (hb.slot _ i).trans (hw.slot i), fun hh => ?_⟩
  refine ms_leaves hux ho hn hq (hw.headerHeld hg ?_)
  have hpc : (s.departed x n).pc = (arrival x n).1 := congrArg Prod.fst (departed_fields s x hn rfl).1
  rw [hdep, hpc]
  exact hh
end

end Sys2Proof.Machine
end

section
/-! The first two clauses of the statement of commits (R132, R218): every write takes effect, and what is stored is performed. -/
namespace Sys2Proof.Machine
open Sys2Proof.Claims

theorem mem_commitUnmaps (s : State) (f : Nat) (ps : List PostOp) : (s.commitUnmaps f ps).ms.mem = s.ms.mem := by
  refine folded (R := fun s t => t.ms.mem = s.ms.mem) (fun _ => rfl) (fun h k => k.trans h) _ (fun s p => ?_) ps s
  split
  · unfold State.retireWin
    split
    · rfl
    · split <;> rfl
  · rfl
/-- A value that stands at its key is put there to no effect. -/
theorem kvSet_self {α : Type} {k : Nat} {v : α} : ∀ {m : KV α}, kvSorted m = true → kvGet k m = some v → kvSet k v m = m
  | [], _, h => by cases h
  | (i, y) :: r, hm, h => by
    by_cases hi : i = k
    · rw [kvGet, if_pos hi] at h
      rw [kvSet, if_pos hi, ← hi, Option.some.inj h]
    · rw [kvGet, if_neg hi] at h
      have hlt : i < k := kvSorted_lt hm _ (mem_of_kvGet h)
      rw [kvSet, if_neg hi, if_neg (by omega), kvSet_self (kvSorted_tail hm) h]
theorem modGather_same {s : State} {k : Nat} {g : Gather} {fn : Gather → Gather} (hs : kvSorted s.fab.gathers = true)
    (hg : s.gather? k = some g) (h : fn g = g) : s.modGather k fn = s := by
  have hm : kvMod k fn s.fab.gathers = s.fab.gathers := by
    unfold kvMod
    rw [show kvGet k s.fab.gathers = some g from hg]
    exact (congrArg (kvSet k · s.fab.gathers) h).trans (kvSet_self hs hg)
  rw [State.modGather, hm]

section
variable {s : State} {f : Nat} {x : Fibre} {n : Inst} {g : Gather} (hx : s.fibre? f = some x) (hi : s.inst? f = some n)
  (hg : s.gather? (gatherOf f) = some g) (ho : ordinary x) (ht : n.todo = []) (hf : n.faults = []) (hst : storesReady s f n)
  (hfork : n.forks = []) (hn : staysOrdinary n)
include hx hi hg ho ht hf hst hfork hn

theorem commit_writesAndMoves (hready : slotWritesReady n) (hgs : kvSorted n.gW = true) (hq : postsQueue n) :
    ∃ t y h, exec (.commit f) s = .next t ∧ t.fibre? f = some y ∧ t.gather? (gatherOf f) = some h ∧ t.inst? f = none ∧
      (y.pc, y.way, y.woff, y.stack, y.spilled, y.fsp) = arrival x n ∧ y.prev = n.hdr ∧
      y.pw = n.pwW.getD x.pw ∧ y.thnd = n.thndW.getD x.thnd ∧
      y.delay = (if yieldOf n = 0 then none else some (s.clock + yieldOf n)) ∧ y.since = s.clock + yieldOf n ∧
      y.trap = x.trap ∧ y.emul = x.emul ∧ y.hm = false ∧ y.post = queued s x n ∧
      (∀ k w, kvGet k n.slotW = some w → t.fibreSlot f (x.woff + k) = slotAfter s (s.fibreSlot f (x.woff + k)) w) ∧
      (∀ j, (∀ p ∈ n.slotW, x.woff + p.1 ≠ j) → t.fibreSlot f j = s.fibreSlot f j) ∧
      (∀ k, kvGet k h.gs = ((kvGet k n.gW).or (kvGet k g.gs))) ∧
      (headerHeld s f (arrival x n).1 → n.stores = [] → ∀ a, t.byte a = s.byte a) := by
  have hs : x.shadow = none := ho.2.1
  obtain ⟨t, y, h, hexec, hy, hyu, hh, hseat, hinst, hslot, hms⟩ := commit_lands hx hi hg ho ht hf hst hfork hn hq
  obtain ⟨harr, hprev, hpw, hthnd, hdelay, hsince, htrap, hemul, hhm, hpost, hys⟩ := departed_fields s x hn hyu
  have hold j : s.fibreSlot f j = s.slot (coreOf f) (storeIdx g f j) := fibreSlot_eq hg hx hs
  have hnew j : t.fibreSlot f j = (s.commitSlots f x.woff n.slotW).slot (coreOf f) (storeIdx g f j) := by
    rw [fibreSlot_eq hh hy (hys.trans hs), hslot]
    exact congrArg _ (storeIdx_seat hseat f j)
  refine ⟨t, y, h, hexec, hy, hh, hinst, harr, hprev, hpw, hthnd, hdelay, hsince, htrap, hemul, hhm, hpost, fun k w hk => ?_,
    fun j hj => ?_, fun k => ?_, fun hheld hnone a => ?_⟩
  · rw [hnew, hold]
    exact slot_commitSlots hg hx hs x.woff hready.1 hready.2 (k, w) (mem_of_kvGet hk)
  · rw [hnew, hold]
    refine slot_commitSlots_other hg hx hs x.woff _ fun p hp he => hj p hp ?_
    simp only [storeIdx] at he
    omega
  · have hgsw : h.gs = (g.wrote n.gW).gs := (congrArg Gather.gs hseat : h.seat.gs = (g.wrote n.gW).seat.gs)
    rw [hgsw]
    exact kvGet_foldl_kvSet k n.gW g.gs hgs
  · have hmem : t.ms.mem = s.ms.mem := by
      rw [hms hheld, effects_noFork hx hs hg [] hfork fun p hp => (hq.2 p hp).1, mem_commitUnmaps, hnone]
      exact congrArg MemSys.mem (Fills.commitSlots hg hx hs x.woff n.slotW).ms
    rw [State.byte, hmem, State.byte]

theorem commit_storesPerformed (hslots : n.slotW = []) (hgs : n.gW = []) (hpost : n.post = []) (hheld : headerHeld s f (arrival x n).1)
    (hsort : kvSorted s.fab.gathers = true) : ∃ t, exec (.commit f) s = .next t ∧ t.ms = (s.performStores f n.stores).ms := by
  have hs : x.shadow = none := ho.2.1
  have hq : postsQueue n := by simp [postsQueue, hpost]
  obtain ⟨t, y, h, hexec, -, -, -, -, -, -, hms⟩ := commit_lands hx hi hg ho ht hf hst hfork hn hq
  refine ⟨t, hexec, (hms hheld).trans ?_⟩
  rw [effects_noFork hx hs hg [] hfork fun p hp => (hq.2 p hp).1, hslots, hgs, hpost]
  have hsame : (s.commitSlots f x.woff []).modGather (gatherOf f) (·.wrote []) = s := modGather_same (s := s) hsort hg rfl
  rw [hsame]
  rfl
end

end Sys2Proof.Machine
end

section
/-! FORK at its instance's commit (R205, R266): the child at the lowest free index of a gather that is not full, or none. -/
namespace Sys2Proof.Machine
open Sys2Proof.Claims

/-- The fibre at an index of a gather. -/
def childOf (f k : Nat) : Nat := gatherOf f * 1024 + k
theorem gatherOf_childOf {f k : Nat} (h : k < 1024) : gatherOf (childOf f k) = gatherOf f := by
  simp only [childOf, gatherOf]; omega
theorem coreOf_childOf {f k : Nat} (h : k < 1024) : coreOf (childOf f k) = coreOf f := by
  rw [coreOf, gatherOf_childOf h, coreOf]
theorem fiOf_childOf {f k : Nat} (h : k < 1024) : fiOf (childOf f k) = k := by
  simp only [childOf, fiOf]; omega
/-- Slots of two fibres' allocations differ. -/
theorem storeIdx_ne {g : Gather} {f h i j : Nat} (hf : fiOf f ≠ fiOf h) (hi : i < g.wsize) (hj : j < g.wsize) :
    storeIdx g f i ≠ storeIdx g h j := by
  have key {a b i j : Nat} (hab : a < b) (hi : i < g.wsize) : a * g.wsize + i ≠ b * g.wsize + j := by
    have := Nat.mul_le_mul_right g.wsize (Nat.succ_le_of_lt hab)
    rw [Nat.succ_mul] at this
    omega
  simp only [storeIdx, Nat.add_assoc]
  intro he
  rcases Nat.lt_or_gt_of_ne hf with hlt | hlt
  · exact key hlt hi (Nat.add_left_cancel he)
  · exact key hlt hj (Nat.add_left_cancel he).symm

/-! ## The choice of the index -/

/-- The index that a FORK takes, if it takes one. -/
def State.freeIndex (s : State) (f : Nat) (g : Gather) : Option Nat :=
  if g.size ≤ (s.liveFibres (gatherOf f)).length then none
  else (upto g.size).find? fun k => !(s.indexUsed (gatherOf f * 1024 + k) || [].contains (gatherOf f * 1024 + k))
theorem freeIndex_some {s : State} {f k : Nat} {g : Gather} (hfull : ¬ g.size ≤ (s.liveFibres (gatherOf f)).length) (hk : k < g.size)
    (hfree : s.indexUsed (childOf f k) = false) (hused : ∀ j < k, s.indexUsed (childOf f j) = true) : s.freeIndex f g = some k := by
  rw [State.freeIndex, if_neg hfull, upto, List.find?_range_eq_some]
  simp only [childOf] at hfree hused
  simpa [hfree, hk] using hused
theorem freeIndex_none {s : State} {f : Nat} {g : Gather}
    (h : g.size ≤ (s.liveFibres (gatherOf f)).length ∨ ∀ k < g.size, s.indexUsed (childOf f k) = true) : s.freeIndex f g = none := by
  unfold State.freeIndex
  split
  · rfl
  · rename_i hfull
    refine List.find?_eq_none.2 fun k hk => ?_
    have hused := h.resolve_left hfull k (List.mem_range.1 hk)
    simp only [childOf] at hused
    simp [hused]

/-! ## The child -/

/-- A child is born at an index: its allocation is emptied and its first two slots are filled. -/
def State.begets (s : State) (f k : Nat) (g : Gather) (z : Fibre) (b : Dword) : State :=
  (((s.bornAt (childOf f k) g z).fillSlot (childOf f k) 0 b).fillSlot (childOf f k) 1 (BitVec.ofNat 64 (fiOf f)))

section
variable {s : State} {f : Nat} {g : Gather} {x : Fibre} {n : Inst} {l : Launch} {kn : Kernel} {e : Nat} {a b : Dword} {d : Nat}
  (hg : s.gather? (gatherOf f) = some g) (hl : s.launchOf f = some l) (hd : slotOf (forkDest n.body e) = some d)
include hg hl hd

theorem forkOne_none (woff : Nat) (h : s.freeIndex f g = none) :
    s.forkOne [] f woff n (e, a, b) = s.fillSlot f (woff + d) (BitVec.allOnes 64) := by
  rw [State.freeIndex] at h
  simp only [State.forkOne, hg, hl, hd, h]
  rfl
theorem forkOne_some (woff : Nat) {k : Nat} (hk : l.kern = some kn) (h : s.freeIndex f g = some k) :
    s.forkOne [] f woff n (e, a, b) =
      ((s.begets f k g (newFibre a (fspOf l kn g.gi k) kn.handler s.clock) b).joinChild (childOf f k)
        ((s.bornAt (childOf f k) g (newFibre a (fspOf l kn g.gi k) kn.handler s.clock)).fibre? f)).fillSlot f (woff + d)
          (BitVec.ofNat 64 k) := by
  rw [State.freeIndex] at h
  simp only [State.forkOne, hg, hl, hd, hk, h]
  rfl
end

end Sys2Proof.Machine
end

section
/-! The child of a FORK: its fibre and its allocation (R205, R266). -/
namespace Sys2Proof.Machine
open Sys2Proof.Claims

/-- No slot of an emptied allocation is kept. -/
theorem kvGet_emptied {g : Gather} {c h j : Nat} (hj : j < g.wsize) (m : KV Slot) : kvGet (slotKey c (storeIdx g h j))
    (kvFilter (fun i _ => i < slotKey c (storeIdx g h 0) || slotKey c (storeIdx g h 0) + g.wsize ≤ i) m) = none := by
  refine kvGet_kvFilter_none (fun _ => ?_) m
  simp only [Bool.or_eq_false_iff, decide_eq_false_iff_not]
  simp only [slotKey, storeIdx]
  omega

section
variable {s : State} {f k : Nat} {g : Gather} {x z : Fibre} {b : Dword}

theorem fibre_bornAt (hc : s.fibre? (childOf f k) = none) : (s.bornAt (childOf f k) g z).fibre? (childOf f k) = some z := by
  have hc' : ({ s with fab := { s.fab with slots := kvFilter (fun i _ => i < slotKey (coreOf (childOf f k)) (storeIdx g (childOf f k) 0) ||
      slotKey (coreOf (childOf f k)) (storeIdx g (childOf f k) 0) + g.wsize ≤ i) s.fab.slots } } : State).fibre? (childOf f k) = none := hc
  simp only [State.bornAt, hc']
  exact fibre_setFibre_same _ _ _
theorem fibre_bornAt_other {m : Nat} (h : m ≠ childOf f k) : (s.bornAt (childOf f k) g z).fibre? m = s.fibre? m :=
  fibre_setFibre_other _ h _
theorem slot_bornAt (hk : k < 1024) {j : Nat} (hj : j < g.wsize) :
    (s.bornAt (childOf f k) g z).slot (coreOf f) (storeIdx g (childOf f k) j) = noSlot := by
  have hgone := kvGet_emptied (c := coreOf (childOf f k)) (h := childOf f k) hj s.fab.slots
  rw [coreOf_childOf hk] at hgone
  rw [State.slot, kvGetD]
  refine (congrArg (Option.getD · noSlot) (Eq.trans ?_ hgone)).trans rfl
  simp only [State.bornAt, coreOf_childOf hk]
  rfl

variable (hg : s.gather? (gatherOf f) = some g) (hx : s.fibre? f = some x) (hk : k < 1024) (hz : z.shadow = none)
  (hc : s.fibre? (childOf f k) = none)
include hg hk hz hc

/-- The two writes of a birth. -/
theorem begets_eq : s.begets f k g z b = ((s.bornAt (childOf f k) g z).setSlot (coreOf f) (storeIdx g (childOf f k) 0) ⟨b, true, none⟩).setSlot
    (coreOf f) (storeIdx g (childOf f k) 1) ⟨BitVec.ofNat 64 (fiOf f), true, none⟩ := by
  have hz1 := fibre_bornAt (g := g) (z := z) hc
  have hgc : s.gather? (gatherOf (childOf f k)) = some g := by rw [gatherOf_childOf hk, hg]
  rw [State.begets, fillSlot_eq (s := s.bornAt (childOf f k) g z) hgc hz1 hz,
    fillSlot_eq (s := (s.bornAt (childOf f k) g z).setSlot _ _ _) hgc hz1 hz, coreOf_childOf hk]
theorem fibre_begets (m : Nat) : (s.begets f k g z b).fibre? m = if m = childOf f k then some z else s.fibre? m := by
  rw [begets_eq hg hk hz hc]
  split
  · next h => rw [h]; exact fibre_bornAt hc
  · next h => exact fibre_bornAt_other h
theorem slot_begets :
    (s.begets f k g z b).slot (coreOf f) (storeIdx g (childOf f k) 0) = ⟨b, true, none⟩ ∧
    (s.begets f k g z b).slot (coreOf f) (storeIdx g (childOf f k) 1) = ⟨BitVec.ofNat 64 (fiOf f), true, none⟩ ∧
    ∀ j < g.wsize, 2 ≤ j → (s.begets f k g z b).slot (coreOf f) (storeIdx g (childOf f k) j) = noSlot := by
  have hne {i j : Nat} (h : i ≠ j) : storeIdx g (childOf f k) i ≠ storeIdx g (childOf f k) j := by simp only [storeIdx]; omega
  rw [begets_eq hg hk hz hc]
  refine ⟨?_, slot_setSlot_same _ _ _ _, fun j hj h2 => ?_⟩
  · rw [slot_setSlot_other _ _ (hne (by decide)), slot_setSlot_same]
  · rw [slot_setSlot_other _ _ (hne (by omega)), slot_setSlot_other _ _ (hne (by omega)), slot_bornAt hk hj]
include hx in
/-- The child joins the set of its entry: its parent, its slots and its gather stay. -/
theorem joinChild_eq (hx' : x.cancelled = false) (hne : f ≠ childOf f k) :
    (s.begets f k g z b).joinChild (childOf f k) ((s.bornAt (childOf f k) g z).fibre? f) =
      ((s.begets f k g z b).setFibre (childOf f k) { z with stop := x.stop }).joinSet (childOf f k) := by
  have hmod : (s.begets f k g z b).modFibre (childOf f k) (fun y => { y with stop := x.stop }) =
      (s.begets f k g z b).setFibre (childOf f k) { z with stop := x.stop } := by
    have hf := fibre_begets (b := b) hg hk hz hc (childOf f k)
    rw [if_pos rfl] at hf
    unfold State.modFibre kvMod
    rw [show kvGet (childOf f k) (s.begets f k g z b).fab.fibres = some z from hf]
    rfl
  rw [fibre_bornAt_other hne, hx, State.joinChild]
  simp only [hx', Bool.false_eq_true, if_false, hmod]
end

end Sys2Proof.Machine
end

section
/-! The commit of an instance with a FORK and nothing else to write (R266): the third clause of the statement. -/
namespace Sys2Proof.Machine
open Sys2Proof.Claims

theorem ordinary_of_unparked {x y : Fibre} (h : y.unparked = x.unparked) (ho : ordinary x) : ordinary y := by
  rw [eq_of_unparked h]; exact ho

/-! ## One FORK -/

section
variable {s : State} {f k : Nat} {g : Gather} {x : Fibre} {n : Inst} {l : Launch} {kn : Kernel} {e : Nat} {a b : Dword} {d : Nat}

theorem forkOne_bears (hg : s.gather? (gatherOf f) = some g) (hx : s.fibre? f = some x) (ho : ordinary x) (hl : s.launchOf f = some l)
    (hk : l.kern = some kn) (hd : slotOf (forkDest n.body e) = some d) (hd48 : x.woff + d < g.wsize) (hk1024 : k < 1024)
    (hfree : s.freeIndex f g = some k) (hc : s.fibre? (childOf f k) = none) :
    let u := s.forkOne [] f x.woff n (e, a, b)
    let z := newFibre a (fspOf l kn g.gi k) kn.handler s.clock
    (∃ y, u.fibre? f = some y ∧ y.unparked = x.unparked) ∧
    (∃ y, u.fibre? (childOf f k) = some y ∧ y.unparked = { z with stop := x.stop }.unparked) ∧
    (∃ h, u.gather? (gatherOf f) = some h ∧ h.seat = g.seat) ∧
    (1 < g.wsize → u.slot (coreOf f) (storeIdx g (childOf f k) 0) = ⟨b, true, none⟩ ∧
      u.slot (coreOf f) (storeIdx g (childOf f k) 1) = ⟨BitVec.ofNat 64 (fiOf f), true, none⟩) ∧
    (∀ j < g.wsize, 2 ≤ j → u.slot (coreOf f) (storeIdx g (childOf f k) j) = noSlot) ∧
    u.slot (coreOf f) (storeIdx g f (x.woff + d)) = ⟨BitVec.ofNat 64 k, true, none⟩ := by
  intro u z
  obtain ⟨-, hshadow, -, hcan⟩ := ho
  have hne : f ≠ childOf f k := fun h => by rw [← h, hx] at hc; cases hc
  have hfi : fiOf (childOf f k) ≠ fiOf f := by
    rw [fiOf_childOf hk1024]
    intro h
    refine hne ?_
    simp only [childOf, gatherOf, h, fiOf]
    omega
  have hborn := forkOne_some (a := a) (b := b) hg hl hd x.woff hk hfree
  rw [joinChild_eq hg hx hk1024 rfl hc hcan hne] at hborn
  have hbe := (Calm.joinSet ((s.begets f k g z b).setFibre (childOf f k) { z with stop := x.stop }) (childOf f k)).beside
  have hfx : (s.begets f k g z b).fibre? f = some x := by rw [fibre_begets hg hk1024 rfl hc, if_neg hne, hx]
  have hgs : (s.begets f k g z b).gather? (gatherOf f) = some g := by rw [begets_eq hg hk1024 rfl hc]; exact hg
  obtain ⟨y, hy, hyu⟩ := hbe.fibre ((fibre_setFibre_other _ hne _).trans hfx)
  obtain ⟨w, hw, hwu⟩ := hbe.fibre (fibre_setFibre_same _ _ _)
  obtain ⟨h, hh, hseat⟩ := hbe.gather (x := g) hgs
  have hu : u = _ := hborn.trans (fillSlot_eq hh hy (by rw [eq_of_unparked hyu]; exact hshadow) _)
  clear_value u
  obtain ⟨h0, h1, h2⟩ := slot_begets (b := b) hg hk1024 (z := z) rfl hc
  have hother {j : Nat} (hj : j < g.wsize) : u.slot (coreOf f) (storeIdx g (childOf f k) j) =
      (s.begets f k g z b).slot (coreOf f) (storeIdx g (childOf f k) j) := by
    rw [hu, storeIdx_seat hseat, slot_setSlot_other _ _ (storeIdx_ne hfi hj hd48), hbe.slot]
    rfl
  refine ⟨⟨y, by rw [hu, fibre_setSlot]; exact hy, hyu⟩, ⟨w, by rw [hu, fibre_setSlot]; exact hw, hwu⟩,
    ⟨h, by rw [hu, gather_setSlot]; exact hh, hseat⟩,
    fun h1w => ⟨(hother (j := 0) (by omega)).trans h0, (hother h1w).trans h1⟩, fun j hj hj2 => (hother hj).trans (h2 j hj hj2), ?_⟩
  rw [hu, storeIdx_seat hseat, slot_setSlot_same]
end

/-! ## The clause -/

/-- An empty list of writes leaves each gather as it was. -/
theorem gather_wroteNothing (s : State) (j k : Nat) : (s.modGather k (·.wrote [])).gather? j = s.gather? j := by
  by_cases h : j = k
  · rw [h, gather_modGather_same]
    exact congrFun (Option.map_id_fun) _
  · exact kvGet_kvMod_other h _ _

section
variable {s : State} {f : Nat} {x : Fibre} {n : Inst} {g : Gather} {e : Nat} {a b : Dword} (hx : s.fibre? f = some x)
  (ho : ordinary x) (hfork : n.forks = [(e, a, b)]) (hst : n.stores = []) (hslots : n.slotW = []) (hgs : n.gW = []) (hpost : n.post = [])
include hx ho hfork hst hslots hgs hpost

theorem effects_fork :
    s.effects [] f x n = (s.modGather (gatherOf f) (·.wrote [])).forkOne [] f x.woff n (e, a, b) := by
  have hgw : (s.commitSlots f x.woff n.slotW).commitGs f n.gW = s.modGather (gatherOf f) (·.wrote []) := by
    rw [hslots, hgs]
    exact commitGs_eq hx ho.2.1 []
  have hstores : (s.modGather (gatherOf f) (·.wrote [])).commitStores f (lastIdx n) n.stores = s.modGather (gatherOf f) (·.wrote []) := by
    rw [commitStores_eq (s := s.modGather (gatherOf f) (·.wrote [])) hx ho.2.1, hst]
    rfl
  rw [State.effects, commitSpinv_none (by simp [hpost]), hgw, hstores, hpost, State.commitForks, hfork]
  rfl

/-- After the FORK the fibre departs. -/
theorem commit_fork_departs (hi : s.inst? f = some n) (ht : n.todo = []) (hf : n.faults = []) (hn : staysOrdinary n)
    (hmem : s.memPending f = false) (hloads : s.loadsOf f = []) {y : Fibre}
    (hy : ((s.modGather (gatherOf f) (·.wrote [])).forkOne [] f x.woff n (e, a, b)).fibre? f = some y) (hyu : y.unparked = x.unparked) :
    ∃ t, exec (.commit f) s = .next t ∧
      Beside (((s.modGather (gatherOf f) (·.wrote [])).forkOne [] f x.woff n (e, a, b)).departs f y n) t := by
  refine ⟨_, exec_commit_complete hx hi ho ht hf (fun o h => absurd (hst ▸ h) List.not_mem_nil) (.inr ⟨hmem, hloads⟩), ?_⟩
  rw [effects_fork hx ho hfork hst hslots hgs hpost]
  exact beside_leaves hy (ordinary_of_unparked hyu ho) hn (by simp [postsQueue, hpost])

variable (hi : s.inst? f = some n) (hg : s.gather? (gatherOf f) = some g) (ht : n.todo = []) (hf : n.faults = []) (hn : staysOrdinary n)
  (hmem : s.memPending f = false) (hloads : s.loadsOf f = []) {l : Launch} {kn : Kernel} {d : Nat} (hl : s.launchOf f = some l)
  (hd : slotOf (forkDest n.body e) = some d)
include hi hg ht hf hn hmem hloads hl hd

theorem commit_fork_child (hkern : l.kern = some kn) (hsize : g.size ≤ 1024) (hd48 : d < 48) (hwsize : x.woff + 48 ≤ g.wsize) {k : Nat}
    (hfull : ¬ g.size ≤ (s.liveFibres (gatherOf f)).length) (hk : k < g.size) (hfree : s.indexUsed (childOf f k) = false)
    (hused : ∀ j < k, s.indexUsed (childOf f j) = true) (hc : s.fibre? (childOf f k) = none) :
    ∃ t z, exec (.commit f) s = .next t ∧ t.fibre? (childOf f k) = some z ∧ z.pc = a ∧ z.way = .entry ∧ z.prev = 0 ∧ z.pw = 0 ∧
      z.woff = 0 ∧ z.stack = [] ∧ z.spilled = 0 ∧ z.fsp = fspOf l kn g.gi k ∧ z.thnd = kn.handler ∧ z.since = s.clock ∧
      z.ended = false ∧ t.fibreSlot (childOf f k) 0 = ⟨b, true, none⟩ ∧
      t.fibreSlot (childOf f k) 1 = ⟨BitVec.ofNat 64 (fiOf f), true, none⟩ ∧
      (∀ j < g.wsize, 2 ≤ j → (t.fibreSlot (childOf f k) j).full = false) ∧
      t.fibreSlot f (x.woff + d) = ⟨BitVec.ofNat 64 k, true, none⟩ := by
  have hk1024 : k < 1024 := by omega
  have hg' := (gather_wroteNothing s (gatherOf f) (gatherOf f)).trans hg
  have hl' : (s.modGather (gatherOf f) (·.wrote [])).launchOf f = some l := by
    rw [State.launchOf, gather_wroteNothing]; exact hl
  have hidx : (s.modGather (gatherOf f) (·.wrote [])).freeIndex f g = some k := freeIndex_some (s := s) hfull hk hfree hused
  obtain ⟨⟨y, hy, hyu⟩, ⟨w, hw, hwu⟩, ⟨h1, hh1, he1⟩, h01, h2, hdest⟩ :=
    forkOne_bears (a := a) (b := b) hg' hx ho hl' hkern hd (by omega) hk1024 hidx hc
  obtain ⟨t, hexec, hbe⟩ := commit_fork_departs hx ho hfork hst hslots hgs hpost hi ht hf hn hmem hloads hy hyu
  have hne : childOf f k ≠ f := fun h => by rw [h, hx] at hc; cases hc
  obtain ⟨h2', hh2, he2⟩ := gather_departs (f := f) (x := y) (n := n) hh1
  obtain ⟨h, hh, he⟩ := hbe.gather hh2
  have hseat : h.seat = g.seat := he.trans (he2.trans he1)
  obtain ⟨z, hz, hzu⟩ := hbe.fibre ((fibre_departs_other _ hne y n).trans hw)
  obtain ⟨x', hx', hxu⟩ := hbe.fibre (fibre_departs _ f y n)
  have hz' := eq_of_unparked (hzu.trans hwu)
  have hx'shadow : x'.shadow = none := by
    obtain ⟨-, -, -, -, -, -, -, -, -, -, hs⟩ := departed_fields _ y hn hxu
    exact hs.trans (ordinary_of_unparked hyu ho).2.1
  have hchild (j : Nat) : t.fibreSlot (childOf f k) j = t.slot (coreOf f) (storeIdx g (childOf f k) j) := by
    have hh' : t.gather? (gatherOf (childOf f k)) = some h := by rw [gatherOf_childOf hk1024]; exact hh
    rw [fibreSlot_eq hh' hz (by rw [hz']; rfl), coreOf_childOf hk1024, storeIdx_seat hseat]
  have hslot (i : Nat) := hbe.slot (coreOf f) i
  obtain ⟨h0, h1⟩ := h01 (by omega)
  refine ⟨t, z, hexec, hz, ?_⟩
  rw [fibreSlot_eq hh hx' hx'shadow, storeIdx_seat hseat, hchild, hchild, hslot, hslot, hslot, hz']
  refine ⟨rfl, rfl, rfl, rfl, rfl, rfl, rfl, rfl, rfl, rfl, rfl, h0, h1, fun j hj hj2 => ?_, hdest⟩
  rw [hchild, hslot, slot_departs, h2 j hj hj2]
  rfl

theorem commit_fork_none (hnone : g.size ≤ (s.liveFibres (gatherOf f)).length ∨ ∀ k < g.size, s.indexUsed (childOf f k) = true) :
    ∃ t, exec (.commit f) s = .next t ∧ t.fibreSlot f (x.woff + d) = ⟨BitVec.allOnes 64, true, none⟩ ∧
      ∀ c, (t.fibre? c).isSome = (s.fibre? c).isSome := by
  have hg' := (gather_wroteNothing s (gatherOf f) (gatherOf f)).trans hg
  have hl' : (s.modGather (gatherOf f) (·.wrote [])).launchOf f = some l := by
    rw [State.launchOf, gather_wroteNothing]; exact hl
  have hidx : (s.modGather (gatherOf f) (·.wrote [])).freeIndex f g = none := freeIndex_none (s := s) hnone
  have hfill := (forkOne_none (a := a) (b := b) hg' hl' hd x.woff hidx).trans
    (fillSlot_eq (s := s.modGather (gatherOf f) (·.wrote [])) hg' hx ho.2.1 _)
  have hy : ((s.modGather (gatherOf f) (·.wrote [])).forkOne [] f x.woff n (e, a, b)).fibre? f = some x := by rw [hfill]; exact hx
  obtain ⟨t, hexec, hbe⟩ := commit_fork_departs hx ho hfork hst hslots hgs hpost hi ht hf hn hmem hloads hy rfl
  obtain ⟨h1, hh1, he1⟩ := gather_departs (f := f) (x := x) (n := n)
    (show ((s.modGather (gatherOf f) (·.wrote [])).forkOne [] f x.woff n (e, a, b)).gather? (gatherOf f) = some g by rw [hfill]; exact hg')
  obtain ⟨h, hh, he⟩ := hbe.gather hh1
  obtain ⟨x', hx', hxu⟩ := hbe.fibre (fibre_departs _ f x n)
  have hx'shadow : x'.shadow = none := by
    obtain ⟨-, -, -, -, -, -, -, -, -, -, hs⟩ := departed_fields _ x hn hxu
    exact hs.trans ho.2.1
  refine ⟨t, hexec, ?_, fun c => ?_⟩
  · rw [fibreSlot_eq hh hx' hx'shadow, storeIdx_seat (he.trans he1), hbe.slot, slot_departs, hfill, slot_setSlot_same]
  · rw [hbe.isSome_fibre, isSome_fibre_departs hy, hfill]
    rfl
end

end Sys2Proof.Machine
end

section
/-! EXIT at commit (R205, R227, R264): what a fibre that ends leaves behind. -/
namespace Sys2Proof.Machine
open Sys2Proof.Claims

/-! ## Producers and rendezvous points -/

/-- Only producers and sequencers differ. -/
def Sheds (s t : State) : Prop := t = { s with mat := t.mat, fab := { s.fab with prods := t.fab.prods } }
theorem Sheds.trans {s t u : State} (h : Sheds s t) (k : Sheds t u) : Sheds s u := by
  unfold Sheds at h k ⊢
  rw [k, h]
theorem Sheds.dropProds (s : State) (ps : List Nat) : Sheds s (s.dropProds ps) := by
  unfold State.dropProds
  split <;> rfl
/-- A queue that is cut back: the fibre's operations are those that stay. -/
theorem Sheds.keepPosts (s : State) (f : Nat) (x : Fibre) (stay : List PostOp) :
    ∃ st, Sheds (s.setFibre f { x with post := stay, stage := st }) (s.keepPosts f x stay) := by
  unfold State.keepPosts
  extract_lets st v
  refine ⟨st, Sheds.trans (t := v.setFibre f { x with post := stay, stage := st }) ?_ (.dropProds _ _)⟩
  unfold v
  split <;> rfl

section
variable {s t : State} (h : Sheds s t)
include h
theorem Sheds.fibre (f : Nat) : t.fibre? f = s.fibre? f := by rw [h]; rfl
theorem Sheds.inst (f : Nat) : t.inst? f = s.inst? f := by rw [h]; rfl
theorem Sheds.gather (g : Nat) : t.gather? g = s.gather? g := by rw [h]; rfl
theorem Sheds.slot (c i : Nat) : t.slot c i = s.slot c i := by rw [h]; rfl
theorem Sheds.launch (l : Nat) : t.launch? l = s.launch? l := by rw [h]; rfl
end

/-! ## Arrivals -/

/-- No barrier has an arrival of this index. -/
def Gather.unarrived (g : Gather) (fi : Nat) : Prop := ∀ b, fi ∉ (g.bar b).arr ∧ fi ∉ (g.bar b).held
/-- The same of a gather of the state. -/
def State.unarrived (s : State) (g fi : Nat) : Prop := ∀ x, s.gather? g = some x → x.unarrived fi

theorem unarrived_withdraw (g : Gather) (fi : Nat) : { g with bars := kvMap (fun _ b => b.withdraw fi) g.bars }.unarrived fi := by
  intro b
  rw [Gather.bar, kvGetD, kvGet_kvMap]
  cases kvGet b g.bars <;> simp [noBar, Barrier.withdraw]
theorem unarrived_of_bars {s t : State} {k fi : Nat} (h : (t.gather? k).map Gather.bars = (s.gather? k).map Gather.bars)
    (hs : s.unarrived k fi) : t.unarrived k fi := by
  intro x hx b
  rw [hx, Option.map_some] at h
  obtain ⟨y, hy, hb⟩ := Option.map_eq_some_iff.1 h.symm
  rw [Gather.bar, ← hb]
  exact hs y hy b
theorem unarrived_calm {s t : State} {k fi : Nat} (h : Calm s t) (hs : s.unarrived k fi) : t.unarrived k fi := by
  have hbars (g : Option Gather) : g.map Gather.bars = (g.map Gather.bare).map Gather.bars := by cases g <;> rfl
  exact unarrived_of_bars (by rw [hbars, h.gathers, ← hbars]) hs
theorem unarrived_modGather {s : State} {k fi : Nat} {fn : Gather → Gather} (h : ∀ g, (fn g).bars = g.bars)
    (hs : s.unarrived k fi) : (s.modGather k fn).unarrived k fi := by
  refine unarrived_of_bars ?_ hs
  rw [gather_modGather_same, Option.map_map]
  exact congrArg (Option.map · _) (funext h)
theorem unarrived_setBar {g : Gather} {fi : Nat} (b : Nat) {r : Barrier} (hr : fi ∉ r.arr ∧ fi ∉ r.held) (h : g.unarrived fi) :
    (g.setBar b r).unarrived fi := by
  intro c
  by_cases hc : c = b
  · rw [hc, Gather.bar, Gather.setBar, kvGetD_kvSetD_same]
    exact hr
  · rw [Gather.bar, Gather.setBar, kvGetD_kvSetD_other hc]
    exact h c
theorem unarrived_checkBar {s : State} {k fi : Nat} (b : Nat) (hs : s.unarrived k fi) : (s.checkBar k b).unarrived k fi := by
  unfold State.checkBar
  split
  · exact hs
  · rename_i ga hga
    extract_lets r
    split
    · exact hs
    · intro x hx
      rw [← Option.some.inj ((gather_setGather_same s k _).symm.trans hx)]
      exact unarrived_setBar b ⟨(hs ga hga b).2, List.not_mem_nil⟩ (hs ga hga)
theorem unarrived_checkBars {s : State} {k fi : Nat} (hs : s.unarrived k fi) : (s.checkBars k).unarrived k fi := by
  unfold State.checkBars
  generalize upto 16 = l
  induction l generalizing s with
  | nil => exact hs
  | cons b r ih => exact ih (unarrived_checkBar b hs)

/-! ## The end of a fibre -/

/-- A fibre's slots are emptied, its arrivals withdrawn, its launch counts one more that has ended. -/
def State.unseats (s : State) (f : Nat) (ga : Gather) (keep : List PostOp) : State :=
  let lo := slotKey (coreOf f) (storeIdx ga f 0)
  let s := { s with fab := { s.fab with slots := kvFilter (fun k _ => k < lo || lo + ga.wsize ≤ k) s.fab.slots } }
  let s := s.setGather (gatherOf f) ({ ga with bars := kvMap (fun _ b => b.withdraw (fiOf f)) ga.bars }.unreserve f keep)
  s.modLaunch ga.lid fun l => { l with ended := l.ended + 1 }
/-- The record of a fibre that ends. -/
def Fibre.over (x : Fibre) (n : Nat) : Fibre := { x with
  ended := true, stack := [], spilled := 0, shadow := none, halt := false, tpend := false, parked := false
  held := [], tail := [], heldLoads := [], report := none, orphans := min x.orphans n }
/-- A fibre gives up what it has and holds; its record and its meetings are still to be looked at. -/
def State.gives (s : State) (f : Nat) (x : Fibre) (ga : Gather) (keep : List PostOp) : State :=
  (((s.unseats f ga keep).keepPosts f x keep).dropProds (x.heldLoads ++ (x.held ++ x.tail).flatMap (·.prods))).modFibre f
    (·.over keep.length)
theorem leaveGather_eq {s : State} {f : Nat} {x : Fibre} {ga : Gather} (hx : s.fibre? f = some x) (hg : s.gather? (gatherOf f) = some ga)
    (keep : List PostOp) : s.leaveGather f keep =
      ((((s.gives f x ga keep).reap f).withdrawMeets f).checkMeets (gatherOf f)).trimSets (coreOf f) := by
  simp only [State.leaveGather, hx, hg]
  rfl

/-- The fibre has ended, these operations of it still to be carried out. -/
def Fibre.isOver (y : Fibre) (keep : List PostOp) : Prop := y.ended = true ∧ y.post = keep ∧ y.stack = [] ∧ y.spilled = 0

/-- What the end of a fibre leaves of its slots, its arrivals and its launch. -/
structure Ended (s : State) (f : Nat) (ga : Gather) (t : State) : Prop where
  inst : (t.inst? f).isSome = (s.inst? f).isSome
  gather : ∃ h, t.gather? (gatherOf f) = some h ∧ h.seat = ga.seat
  arrivals : t.unarrived (gatherOf f) (fiOf f)
  slot : ∀ j < ga.wsize, t.slot (coreOf f) (storeIdx ga f j) = noSlot
  launch : t.launch? ga.lid = (s.launch? ga.lid).map fun l => { l with ended := l.ended + 1 }

theorem Ended.gives (s : State) (f : Nat) (x : Fibre) (ga : Gather) (keep : List PostOp) :
    Ended s f ga (s.gives f x ga keep) ∧ ∃ y, (s.gives f x ga keep).fibre? f = some y ∧ y.isOver keep := by
  obtain ⟨st, hk⟩ := Sheds.keepPosts (s.unseats f ga keep) f x keep
  have hsh := hk.trans (.dropProds _ (x.heldLoads ++ (x.held ++ x.tail).flatMap (·.prods)))
  generalize ht : ((s.unseats f ga keep).keepPosts f x keep).dropProds (x.heldLoads ++ (x.held ++ x.tail).flatMap (·.prods)) = t at hsh
  rw [State.gives, ht]
  have hgather : t.gather? (gatherOf f) = some ({ ga with bars := kvMap (fun _ b => b.withdraw (fiOf f)) ga.bars }.unreserve f keep) :=
    (hsh.gather _).trans (kvGet_kvSet_same _ _ _)
  have hfibre : t.fibre? f = some { x with post := keep, stage := st } := (hsh.fibre f).trans (fibre_setFibre_same _ f _)
  refine ⟨⟨congrArg Option.isSome (hsh.inst f), ⟨_, hgather, rfl⟩, fun y hy => ?_, fun j hj => ?_, ?_⟩, ?_⟩
  · rw [← Option.some.inj (hgather.symm.trans hy)]
    exact unarrived_withdraw ga (fiOf f)
  · exact (hsh.slot _ _).trans (congrArg (Option.getD · noSlot) (kvGet_emptied hj s.fab.slots))
  · exact (hsh.launch _).trans (kvGet_kvMod_same _ _ _)
  · exact ⟨_, (fibre_modFibre_same t f _).trans (congrArg (Option.map _) hfibre), rfl, rfl, rfl, rfl⟩

section
variable {s t u : State} {f : Nat} {ga : Gather}

/-- It is kept by what leaves its gather's barriers as they are or completes them. -/
theorem Ended.beside (h : Ended s f ga t) (hb : Beside t u) (ha : u.unarrived (gatherOf f) (fiOf f)) : Ended s f ga u := by
  obtain ⟨x, hx, hs⟩ := h.gather
  obtain ⟨y, hy, hys⟩ := hb.gather hx
  exact ⟨(hb.insts f).trans h.inst, ⟨y, hy, hys.trans hs⟩, ha, fun j hj => (hb.slot _ _).trans (h.slot j hj), (hb.launch _).trans h.launch⟩
theorem Ended.reap (h : Ended s f ga t) : Ended s f ga (t.reap f) := by
  unfold State.reap
  split
  · exact h
  · split
    · exact ⟨h.inst, h.gather, h.arrivals, h.slot, h.launch⟩
    · exact h

/-- A record goes once nothing of the fibre is left to do. -/
theorem fibre_reap_gone {x : Fibre} (hx : t.fibre? f = some x) (he : x.isOver []) (hi : t.inst? f = none) : (t.reap f).fibre? f = none := by
  obtain ⟨hended, hpost, -, -⟩ := he
  simp only [State.reap, hx, hended, hpost, hi]
  exact kvGet_kvDel_same _ _
theorem fibre_reap_kept {x : Fibre} {keep : List PostOp} (hx : t.fibre? f = some x) (he : x.isOver keep) (hk : keep ≠ []) :
    (t.reap f).fibre? f = some x := by
  obtain ⟨-, hpost, -, -⟩ := he
  have hne : x.post.isEmpty = false := by simp [hpost, hk]
  simp only [State.reap, hx, hne, Bool.and_false, Bool.false_and, Bool.false_eq_true, if_false]

/-- What is looked at as a fibre has ended. -/
theorem beside_endFibre (t : State) (f : Nat) : Beside t
    ((((t.withdrawMeets f).checkMeets (gatherOf f)).trimSets (coreOf f)).checkBars (gatherOf f)) := by
  have hwithdraw : Aside t (t.withdrawMeets f) := .modGather _ _ _ fun _ => rfl
  have hcheck : Aside (t.withdrawMeets f) ((t.withdrawMeets f).checkMeets (gatherOf f)) := .modGather _ _ _ fun _ => rfl
  exact ((hwithdraw.trans hcheck).beside.trans (Calm.trimSets _ _).beside).trans (.checkBars _ _)

/-- A fibre outside any instance ends. -/
theorem endFibre_ends {x : Fibre} (hx : s.fibre? f = some x) (hg : s.gather? (gatherOf f) = some ga) (hi : s.inst? f = none)
    (keep : List PostOp) : Ended s f ga (s.endFibre f keep) ∧ (keep = [] → (s.endFibre f keep).fibre? f = none) ∧
      (keep ≠ [] → ∃ y, (s.endFibre f keep).fibre? f = some y ∧ y.isOver keep) := by
  obtain ⟨hgive, y, hy, hover⟩ := Ended.gives s f x ga keep
  have hno : (s.gives f x ga keep).inst? f = none := by
    have := hgive.inst
    rwa [hi, Option.isSome_none, Option.isSome_eq_false_iff, Option.isNone_iff_eq_none] at this
  have hb := beside_endFibre ((s.gives f x ga keep).reap f) f
  rw [State.endFibre, leaveGather_eq hx hg]
  refine ⟨hgive.reap.beside hb ?_, fun hk => ?_, fun hk => ?_⟩
  · exact unarrived_checkBars (unarrived_calm (Calm.trimSets _ _)
      (unarrived_modGather (fun _ => rfl) (unarrived_modGather (fun _ => rfl) hgive.reap.arrivals)))
  · subst hk
    exact hb.noFibre (fibre_reap_gone hy hover hno)
  · obtain ⟨z, hz, hzu⟩ := hb.fibre (fibre_reap_kept hy hover hk)
    refine ⟨z, hz, ?_⟩
    rw [eq_of_unparked hzu]
    exact hover
end

end Sys2Proof.Machine
end

section
/-! The commit of an EXIT (R205, R264), and the whole statement. -/
namespace Sys2Proof.Machine
open Sys2Proof.Claims

/-- A fibre for which nothing is held for a handler gives up the slot loads held with it. -/
theorem dropHeld_sheds {s : State} {f : Nat} {x : Fibre} (hx : s.fibre? f = some x) (h : x.held = []) :
    Sheds ((s.setFibre f { x with held := [], heldLoads := [] }).modGather (gatherOf f) (·.unreserve f (x.post ++ x.tail)))
      (s.dropHeld f) := by
  have hpost : (if x.stage != 0 then x.post.take 1 ++ [] ++ x.post.drop 1 else [] ++ x.post) = x.post := by
    split
    · rw [List.append_nil, List.take_append_drop]
    · rfl
  simp only [State.dropHeld, hx, h, heldBehind, hpost]
  exact .dropProds _ _

section
variable {s : State} {f : Nat} {x : Fibre} {n : Inst} {g : Gather} (hx : s.fibre? f = some x) (hi : s.inst? f = some n)
  (hg : s.gather? (gatherOf f) = some g) (ho : ordinary x) (ht : n.todo = []) (hf : n.faults = []) (hst : storesReady s f n)
  (hfork : n.forks = []) (hexit : n.xfer = some .exit) (hq : postsQueue n) (hheld : x.held = [])
include hx hi hg ho ht hf hst hfork hexit hq hheld

/-- EXIT ends the fibre, with its queued operations to be carried out. -/
theorem commit_exit_ends : ∃ t h, exec (.commit f) s = .next t ∧ t.inst? f = none ∧ t.gather? (gatherOf f) = some h ∧
    h.unarrived (fiOf f) ∧ t.launch? g.lid = (s.launch? g.lid).map (fun l => { l with ended := l.ended + 1 }) ∧
    (∀ j < g.wsize, t.slot (coreOf f) (storeIdx g f j) = noSlot) ∧ (queued s x n = [] → t.fibre? f = none) ∧
    (queued s x n ≠ [] → ∃ y, t.fibre? f = some y ∧ y.isOver (queued s x n)) := by
  have hw : Wrote s f x n g (s.effects [] f x n) :=
    .effects hx ho.2.1 hg [] hfork (fun p hp => (hq.2 p hp).1) fun o ho => (hst o ho).1
  have hexec := exec_commit_complete hx hi ho ht hf hst (.inl hfork)
  generalize s.effects [] f x n = u at hw hexec
  have hux : u.fibre? f = some x := (hw.fibre f).trans hx
  have hleave := leaves_eq hux ho (staysOut_of_exit hexit) hq
  dsimp only at hleave
  rw [if_pos hexit] at hleave
  have hdep := fibre_departs u f x n
  have hyheld : (u.departed x n).held = [] := by
    obtain ⟨_, _, _, _, hv⟩ := moveView_rest { x with post := queued u x n } n
    simp only [State.departed, Fibre.moved, hv]
    exact hheld
  have hypost : (u.departed x n).post = queued s x n := by
    obtain ⟨-, -, -, -, -, -, -, -, hp, -⟩ := departed_rest u x n
    rw [hp, queued, queued, hw.serial]
  have hsh := dropHeld_sheds hdep hyheld
  obtain ⟨h1, hg1, he1⟩ := hw.gather
  obtain ⟨h2, hg2, he2⟩ := gather_departs (f := f) (x := x) (n := n) hg1
  have hgv : ((u.departs f x n).dropHeld f).gather? (gatherOf f) = some (h2.unreserve f ((u.departed x n).post ++ (u.departed x n).tail)) := by
    rw [hsh.gather, gather_modGather_same]
    exact congrArg (Option.map _) hg2
  have hfv := (hsh.fibre f).trans (fibre_setFibre_same _ f _)
  have hiv := (hsh.inst f).trans (inst_departs u f x n)
  have hseat : (h2.unreserve f ((u.departed x n).post ++ (u.departed x n).tail)).seat = (g.wrote n.gW).seat := he2.trans he1
  generalize h2.unreserve f ((u.departed x n).post ++ (u.departed x n).tail) = h3 at hgv hseat
  have hlid : h3.lid = g.lid := (congrArg Gather.lid hseat : h3.seat.lid = (g.wrote n.gW).seat.lid)
  have hwsize : h3.wsize = g.wsize := (congrArg Gather.wsize hseat : h3.seat.wsize = (g.wrote n.gW).seat.wsize)
  have hlaunch (k : Nat) : ((u.departs f x n).dropHeld f).launch? k = s.launch? k := by
    rw [hsh.launch]
    exact congrArg (fun d => kvGet k d.launches) hw.disp
  rw [hfv, Option.map_some, Option.getD_some, hypost] at hleave
  rw [hleave] at hexec
  obtain ⟨hend, hgone, hkept⟩ := endFibre_ends hfv hgv hiv (queued s x n)
  obtain ⟨h, hh, -⟩ := hend.gather
  refine ⟨_, h, hexec, ?_, hh, hend.arrivals h hh, ?_, fun j hj => ?_, hgone, hkept⟩
  · have := hend.inst
    rwa [hiv, Option.isSome_none, Option.isSome_eq_false_iff, Option.isNone_iff_eq_none] at this
  · have := hend.launch
    rwa [hlid, hlaunch] at this
  · have := hend.slot j (hwsize ▸ hj)
    rwa [storeIdx_seat hseat] at this
end

/-- Settles O23: it holds. An instance's writes come first and leave its fibre where it was; the fibre then departs by its transfer,
and joins the set of its header or ends. What follows beside it, the waiting sets and the barriers, moves no slot and no register. -/
theorem commitWritesAndMoves : Obligations.CommitWritesAndMoves := by
  intro s f x n g hx hi hg ho ht hf hst
  refine ⟨fun hfork hn => ?_, fun hfork hn => ?_, ?_, ?_⟩
  · exact commit_writesAndMoves hx hi hg ho ht hf hst hfork hn
  · exact commit_storesPerformed hx hi hg ho ht hf hst hfork hn
  · intro l kn e a b d hfork hn hstores hslots hgs hpost hmem hloads hl hkern hsize hd hd48 hwsize
    exact ⟨fun k hfull hk hfree hused hc => commit_fork_child hx ho hfork hstores hslots hgs hpost hi hg ht hf hn hmem hloads hl hd hkern
      hsize hd48 hwsize hfull hk hfree hused hc,
      commit_fork_none hx ho hfork hstores hslots hgs hpost hi hg ht hf hn hmem hloads hl hd⟩
  · intro l hfork hexit hq hheld hl
    obtain ⟨t, h, hexec, hinst, hh, harr, hlaunch, hslot, hgone, hkept⟩ :=
      commit_exit_ends hx hi hg ho ht hf hst hfork hexit hq hheld
    rw [hl] at hlaunch
    refine ⟨t, h, _, hexec, hinst, hh, hlaunch, rfl, hslot, harr, hgone, hkept⟩

end Sys2Proof.Machine
end

section
/-! What it takes for an instruction to compute a value (R284, R342): its meaning is a `compute`, and its encoding has one word, its
extension words and its literals. -/
namespace Sys2Proof.Machine
open Sys2Proof.Claims

theorem length_litOf (a : Operand) : (litOf a).length = litCount [a] := by cases a <;> rfl
theorem litCount_cons (a : Operand) (l : List Operand) : litCount (a :: l) = litCount [a] + litCount l := by
  cases a <;> simp [litCount, Nat.add_comm]
theorem length_encK (op d : Nat) (a : Operand) (b fn : Nat) : (encK op d a b fn).length = 1 + 0 + litCount [a] := by
  rw [encK, List.length_cons, length_litOf, Nat.add_comm]
theorem length_encA (op d : Nat) (a b : Operand) (fn : Nat) : (encA op d a b fn).length = 1 + 0 + litCount [a, b] := by
  rw [encA, List.length_cons, List.length_append, length_litOf, length_litOf, litCount_cons a [b], Nat.add_comm]
theorem length_encX (op d : Nat) (a b c : Operand) (fn x : Nat) : (encX op d a b c fn x).length = 1 + 1 + litCount [a, b, c] := by
  simp only [encX, List.length_cons, List.length_append, length_litOf, litCount_cons a [b, c], litCount_cons b [c]]
  omega

/-- An instruction that is a `compute` and has as many words computes its value. -/
theorem computes_of_compute {i : Instr} {srcs : List Operand} {d : Dest} {ext : Nat} {y : List Dword → Dword}
    (hexec : ∀ s, exec i s = compute srcs ext d y s) (hlen : (encode i).length = 1 + ext + litCount srcs) :
    Computes i srcs d y := by
  intro s
  refine ⟨fun f e n hc hn => ⟨fun xs hxs => ?_, fun hg => ?_, fun hw => ?_⟩, fun c q hc hq => ?_⟩
  · simp only [hexec, compute, hc, hn, hxs]
  · simp only [hexec, compute, hc, hn, hg]
  · simp only [hexec, compute, hc, hn, hw]
  · simp only [hexec, compute, hc, hq, hlen]

theorem yields1_of_compute1 {mk : Dest → Operand → Instr} {fn y : Dword → Dword}
    (hexec : ∀ d a s, exec (mk d a) s = compute1 d a fn s) (hlen : ∀ d a, (encode (mk d a)).length = 1 + 0 + litCount [a])
    (hy : ∀ x, fn x = y x) : Yields1 mk y :=
  fun d a => funext hy ▸ computes_of_compute (hexec d a) (hlen d a)
theorem yields2_of_compute2 {mk : Dest → Operand → Operand → Instr} {fn y : Dword → Dword → Dword}
    (hexec : ∀ d a b s, exec (mk d a b) s = compute2 d a b fn s)
    (hlen : ∀ d a b, (encode (mk d a b)).length = 1 + 0 + litCount [a, b]) (hy : ∀ x z, fn x z = y x z) : Yields2 mk y :=
  fun d a b => (funext₂ hy : fn = y) ▸ computes_of_compute (hexec d a b) (hlen d a b)
theorem yields3_of_compute3 {mk : Dest → Operand → Operand → Operand → Instr} {fn y : Dword → Dword → Dword → Dword}
    (hexec : ∀ d a b c s, exec (mk d a b c) s = compute3 d a b c fn s)
    (hlen : ∀ d a b c, (encode (mk d a b c)).length = 1 + 1 + litCount [a, b, c]) (hy : ∀ x z w, fn x z w = y x z w) :
    Yields3 mk y :=
  fun d a b c => (funext₃ hy : fn = y) ▸ computes_of_compute (hexec d a b c) (hlen d a b c)

theorem lo32_eq_low (x : Dword) : lo32 x = low x := by ext i hi; simp [lo32, low]

end Sys2Proof.Machine
end

section
/-! Exact dyadic numbers over the rationals (R196): `Dy.align` brings both numerators to one exponent without changing a value, so that
sums, differences, products and comparisons of dyadics are those of their values. -/
namespace Sys2Proof.Machine
open Sys2Proof.Claims

theorem mul_two_zpow_sub (x : ℚ) {e g : ℤ} (h : g ≤ e) : x * ((2 ^ (e - g).toNat : ℕ) : ℚ) * 2 ^ g = x * 2 ^ e := by
  obtain ⟨k, hk⟩ := Int.eq_ofNat_of_zero_le (sub_nonneg.mpr h)
  obtain rfl : e = g + k := by omega
  rw [show (g + (k : ℤ) - g).toNat = k by omega, zpow_add₀ two_ne_zero, zpow_natCast]
  push_cast
  ring

/-- Both numerators of `Dy.align` are those of the two values at the exponent it gives. -/
theorem real_align (a b : Dy) : real a = (Dy.align a b).1 * 2 ^ (Dy.align a b).2.2 ∧
    real b = (Dy.align a b).2.1 * 2 ^ (Dy.align a b).2.2 := by
  simp only [real, Dy.align, Int.cast_mul, Int.cast_natCast]
  exact ⟨(mul_two_zpow_sub _ (min_le_left ..)).symm, (mul_two_zpow_sub _ (min_le_right ..)).symm⟩

@[simp] theorem real_zero : real Dy.zero = 0 := by simp [real, Dy.zero]
@[simp] theorem real_add (a b : Dy) : real (a.add b) = real a + real b := by
  obtain ⟨ha, hb⟩ := real_align a b
  rw [ha, hb, ← add_mul, ← Int.cast_add]
  rfl
@[simp] theorem real_sub (a b : Dy) : real (a.sub b) = real a - real b := by
  obtain ⟨ha, hb⟩ := real_align a b
  rw [ha, hb, ← sub_mul, ← Int.cast_sub]
  rfl
theorem real_eq_zero_iff (a : Dy) : real a = 0 ↔ a.isZero = true := by
  simp [real, Dy.isZero, zpow_ne_zero]
theorem lt_iff_real_lt (a b : Dy) : a.lt b = true ↔ real a < real b := by
  obtain ⟨ha, hb⟩ := real_align a b
  rw [ha, hb, mul_lt_mul_iff_of_pos_right (by positivity), Int.cast_lt]
  exact decide_eq_true_iff

theorem real_fin (s : Bool) (m : ℕ) (e : ℤ) : real (FV.fin s m e).dy = (if s then -1 else 1) * magnitude m e := by
  cases s <;> simp [real, FV.dy, magnitude]
theorem real_foldl_add (l : List FV) (d : Dy) :
    real (l.foldl (fun d x => d.add x.dy) d) = real d + (l.map fun x => real x.dy).sum := by
  induction l generalizing d with
  | nil => simp
  | cons x l ih => rw [List.foldl_cons, ih, real_add, List.map_cons, List.sum_cons, add_assoc]

end Sys2Proof.Machine
end

section
/-! Exact sums and products (R192, R196, R303). -/
namespace Sys2Proof.Machine
open Sys2Proof.Claims

/-- What `FV.ofDy` makes of a number: a finite value of that number, with the given sign when it is zero. -/
theorem ofDy_exact (d : Dy) (z : Bool) :
    ∃ u k h, FV.ofDy d z = .fin u k h ∧ real (FV.fin u k h).dy = real d ∧ (k = 0 → u = z) := by
  by_cases hd : d.num = 0
  · exact ⟨z, 0, 0, by simp [FV.ofDy, hd], by rw [real_fin]; simp [magnitude, real, hd], fun _ => rfl⟩
  · refine ⟨_, _, _, by simp only [FV.ofDy, beq_iff_eq, if_neg hd]; rfl, ?_, fun h => absurd (Int.natAbs_eq_zero.mp h) hd⟩
    rw [real_fin, magnitude, real, ← mul_assoc, Nat.cast_natAbs]
    congr 1
    rcases lt_or_gt_of_ne hd with h | h
    · simp [h, abs_of_neg h]
    · simp [h.le, abs_of_pos h]

theorem isZero_and_negative_iff (s : Bool) (m : ℕ) (e : ℤ) :
    ((FV.fin s m e).isZero && (FV.fin s m e).negative) = true ↔ s = true ∧ m = 0 := by
  cases m <;> simp [FV.isZero, FV.negative]

/-- The sum of finite values is their exact sum (R196), and a zero sum is −0 when every term is (R192). -/
theorem sum_exact {l : List FV} (hl : ∀ x ∈ l, ∃ s m e, x = .fin s m e) : ∃ u k h, FV.sum l = .fin u k h ∧
    real (FV.fin u k h).dy = (l.map fun x => real x.dy).sum ∧ (k = 0 → (u = true ↔ ∀ x ∈ l, ∃ e, x = .fin true 0 e)) := by
  have hnan : l.any FV.isNan = false := List.any_eq_false.mpr fun x hx => by
    obtain ⟨s, m, e, rfl⟩ := hl x hx
    simp [FV.isNan]
  have hinf (t : Bool) : l.any (· == .inf t) = false := List.any_eq_false.mpr fun x hx => by
    obtain ⟨s, m, e, rfl⟩ := hl x hx
    simp
  obtain ⟨u, k, h, hsum, hreal, hsign⟩ := ofDy_exact (l.foldl (fun d x => d.add x.dy) Dy.zero)
    (l.all fun x => x.isZero && x.negative)
  refine ⟨u, k, h, by simpa [FV.sum, hnan, hinf] using hsum, by rw [hreal, real_foldl_add, real_zero, zero_add], fun hk => ?_⟩
  rw [hsign hk, List.all_eq_true]
  refine forall₂_congr fun x hx => ?_
  obtain ⟨s, m, e, rfl⟩ := hl x hx
  rw [isZero_and_negative_iff]
  simp

theorem sum_nan {l : List FV} (h : .nan ∈ l ∨ (.inf false ∈ l ∧ .inf true ∈ l)) : FV.sum l = .nan := by
  refine if_pos ?_
  rcases h with h | ⟨h, h'⟩
  · simp [List.any_eq_true.mpr ⟨_, h, (rfl : FV.nan.isNan = true)⟩]
  · simp [h, h']
theorem sum_inf {l : List FV} {s : Bool} (h : .inf s ∈ l) (hnan : .nan ∉ l) (ho : .inf (!s) ∉ l) : FV.sum l = .inf s := by
  have hn : l.any FV.isNan = false := List.any_eq_false.mpr fun x hx => by
    cases x with
    | nan => exact absurd hx hnan
    | _ => simp [FV.isNan]
  cases s <;> simp_all [FV.sum]

/-- The sum of two finite values. -/
theorem add_exact (s : Bool) (m : ℕ) (e : ℤ) (t : Bool) (n : ℕ) (g : ℤ) : ∃ u k h, FV.add (.fin s m e) (.fin t n g) = .fin u k h ∧
    real (FV.fin u k h).dy = real (FV.fin s m e).dy + real (FV.fin t n g).dy ∧
    (k = 0 → (u = true ↔ (s = true ∧ m = 0 ∧ t = true ∧ n = 0))) := by
  obtain ⟨u, k, h, hsum, hreal, hsign⟩ := sum_exact (l := [.fin s m e, .fin t n g]) (by simp)
  refine ⟨u, k, h, hsum, by simpa using hreal, fun hk => (hsign hk).trans ?_⟩
  simp [and_assoc]

theorem mul_exact (s : Bool) (m : ℕ) (e : ℤ) (t : Bool) (n : ℕ) (g : ℤ) :
    real (FV.mul (.fin s m e) (.fin t n g)).dy = real (FV.fin s m e).dy * real (FV.fin t n g).dy := by
  simp only [FV.mul, real_fin, magnitude, Nat.cast_mul, zpow_add₀ (two_ne_zero' ℚ)]
  cases s <;> cases t <;> simp <;> ring

theorem add_nan_left (a : FV) : FV.add .nan a = .nan := sum_nan (by simp)
theorem add_nan_right (a : FV) : FV.add a .nan = .nan := sum_nan (by simp)
theorem add_inf_inf (s t : Bool) : FV.add (.inf s) (.inf t) = if s = t then .inf s else .nan := by
  cases s <;> cases t <;> rfl
theorem mul_nan_right (a : FV) : FV.mul a .nan = .nan := by cases a <;> rfl
theorem div_nan_right (a : FV) : FV.div a .nan = .nan := by cases a <;> rfl

/-- Settles O9: it holds. A sum of finite values is a fold of `Dy.add`, which is exact, and its zero sign is read off the terms; the
other clauses are the cases of the operations. -/
theorem floatSumsAndProductsAreExact : Obligations.FloatSumsAndProductsAreExact := by
  refine ⟨add_exact, fun l hl => sum_exact hl, fun l => ⟨sum_nan, fun s => sum_inf⟩, fun _ _ => rfl,
    fun s m e t n g => ⟨rfl, mul_exact s m e t n g⟩, fun s m e t n g u k h => rfl, add_inf_inf,
    fun s t e => ⟨rfl, rfl, fun c => ⟨rfl, rfl⟩⟩, fun s t e g => ⟨rfl, rfl⟩, fun s t m e g => ⟨fun hm => ?_, rfl, rfl⟩,
    fun m e hm => ?_, fun e => rfl, rfl, rfl, rfl,
    fun a => ⟨add_nan_left a, add_nan_right a, rfl, mul_nan_right a, rfl, div_nan_right a⟩⟩
  · simp [FV.div, hm.ne']
  · simp [FV.sqrt, hm.ne']

end Sys2Proof.Machine
end


section
/-! A value in whole units (R192): `units` gives the whole part and the rest, and `roundUnits` adds one or nothing by the rest. -/
namespace Sys2Proof.Machine
open Sys2Proof.Claims

/-- The whole part and the rest of a value in units of 2^q. -/
theorem units_exact (m : ℕ) (e q : ℤ) : ∃ n r k, units m e q = (n, r, k) ∧ r < 2 ^ k ∧
    magnitude m e = (n + (r : ℚ) / 2 ^ k) * 2 ^ q := by
  rcases le_or_gt q e with h | h
  · refine ⟨_, 0, 0, if_pos h, by simp, ?_⟩
    rw [magnitude, ← mul_two_zpow_sub _ h]
    push_cast
    ring
  · refine ⟨_, _, _, if_neg (not_le.mpr h), Nat.mod_lt _ (by positivity), ?_⟩
    have hm : (m : ℚ) = 2 ^ (q - e).toNat * (m / 2 ^ (q - e).toNat : ℕ) + (m % 2 ^ (q - e).toNat : ℕ) := by
      exact_mod_cast (Nat.div_add_mod ..).symm
    rw [magnitude, ← mul_two_zpow_sub _ h.le]
    congr 1
    push_cast
    rw [add_mul, div_mul_cancel₀ _ (by positivity), mul_comm, hm]

/-- One when a whole number of units with the part t of a unit more is rounded away from zero, else 0 (R192). -/
def roundsUp (d : Dir) (neg : Bool) (n : ℕ) (t : ℚ) : ℕ :=
  if t = 0 then 0
  else match d with
    | .rz => 0
    | .ru => if neg then 0 else 1
    | .rd => if neg then 1 else 0
    | .rne => if t < 1 / 2 then 0 else if 1 / 2 < t then 1 else n % 2

theorem roundsUp_zero (d : Dir) (neg : Bool) (n : ℕ) : roundsUp d neg n 0 = 0 := if_pos rfl

theorem roundUnits_eq_add_roundsUp (d : Dir) (neg : Bool) {n c : ℕ} (r k : ℕ) (hc : c % 2 = n % 2) :
    roundUnits d neg n r k = n + roundsUp d neg c (r / 2 ^ k) := by
  have hk : (0 : ℚ) < 2 ^ k := by positivity
  have hr : (r : ℚ) / 2 ^ k = 0 ↔ r = 0 := by simp
  have hlt : (r : ℚ) / 2 ^ k < 1 / 2 ↔ 2 * r < 2 ^ k := by
    rw [div_lt_div_iff₀ hk two_pos, mul_comm, one_mul]
    exact_mod_cast Iff.rfl
  have hgt : 1 / 2 < (r : ℚ) / 2 ^ k ↔ 2 ^ k < 2 * r := by
    rw [div_lt_div_iff₀ two_pos hk, mul_comm (r : ℚ), one_mul]
    exact_mod_cast Iff.rfl
  simp only [roundUnits, roundsUp, hr, hlt, hgt, hc]
  cases d <;> simp only <;> split_ifs <;> rfl

end Sys2Proof.Machine
end

section
/-! The numbers of a format in order (R185), as though its exponent had no upper bound: encoding c stands for `valueOf c`, and the next
one for 2^`stepAt c` more. Rounding takes the encoding c of the largest number not above a magnitude, and goes to c + 1 or not. -/
namespace Sys2Proof.Machine
open Sys2Proof.Claims

/-- The exponent field of an encoding without its sign, 1 for the subnormals, whose step is that of the exponent 1. -/
def Fmt.binade (f : Fmt) (c : ℕ) : ℕ := max (c / 2 ^ f.mb) 1
/-- The exponent of the step from an encoding to the next. -/
def Fmt.stepAt (f : Fmt) (c : ℕ) : ℤ := f.binade c - f.bias - f.mb
/-- The magnitude that an encoding without its sign stands for. -/
def Fmt.valueOf (f : Fmt) (c : ℕ) : ℚ := (c - ((f.binade c : ℚ) - 1) * 2 ^ f.mb) * 2 ^ f.stepAt c

variable {f : Fmt}

theorem valueOf_zero : f.valueOf 0 = 0 := by simp [Fmt.valueOf, Fmt.binade]

/-- A binade ends where the next encoding begins one, above the subnormals. -/
theorem binade_succ (f : Fmt) (c : ℕ) : f.binade (c + 1) = f.binade c ∨
    f.binade (c + 1) = f.binade c + 1 ∧ c + 1 = f.binade (c + 1) * 2 ^ f.mb := by
  simp only [Fmt.binade, Nat.succ_div]
  split_ifs with h
  · have hc := Nat.div_mul_cancel h
    rw [Nat.succ_div_of_dvd h] at hc
    rcases Nat.eq_zero_or_pos (c / 2 ^ f.mb) with h0 | h0
    · simp [h0]
    · exact .inr ⟨by omega, by rw [max_eq_left (by omega), hc]⟩
  · exact .inl rfl

theorem valueOf_succ (f : Fmt) (c : ℕ) : f.valueOf (c + 1) = f.valueOf c + 2 ^ f.stepAt c := by
  rcases binade_succ f c with h | ⟨h, hc⟩
  · simp only [Fmt.valueOf, Fmt.stepAt, h]
    push_cast
    ring
  · have hq : (c : ℚ) + 1 = (f.binade c + 1) * 2 ^ f.mb := by
      rw [h] at hc
      exact_mod_cast hc
    have hs : f.stepAt (c + 1) = f.stepAt c + 1 := by simp only [Fmt.stepAt, h]; push_cast; ring
    rw [Fmt.valueOf, Fmt.valueOf, hs, h, zpow_add_one₀ two_ne_zero, eq_sub_of_add_eq hq]
    push_cast
    linear_combination (2 ^ f.stepAt c * 2) * hq

theorem valueOf_strictMono (f : Fmt) : StrictMono f.valueOf :=
  strictMono_nat_of_lt_succ fun c => by
    rw [valueOf_succ]
    exact lt_add_of_pos_right _ (by positivity)

/-- What lies less than a step above an encoding's number lies below the next one. -/
theorem between_of_part {q : ℚ} {c : ℕ} {t : ℚ} (hq : q = f.valueOf c + t * 2 ^ f.stepAt c) (ht : 0 ≤ t) (ht' : t < 1) :
    f.valueOf c ≤ q ∧ q < f.valueOf (c + 1) := by
  have hp : (0 : ℚ) < 2 ^ f.stepAt c := by positivity
  rw [valueOf_succ, hq]
  exact ⟨le_add_of_nonneg_right (mul_nonneg ht hp.le), add_lt_add_right (mul_lt_of_lt_one_left hp ht') _⟩

theorem code_lt_of_between {q : ℚ} {c d : ℕ} (hc : f.valueOf c ≤ q) (hd : q < f.valueOf d) : c < d :=
  (valueOf_strictMono f).lt_iff_lt.mp (hc.trans_lt hd)

/-- At most one encoding has a given number between it and the next. -/
theorem code_unique {q : ℚ} {c d : ℕ} (hc : f.valueOf c ≤ q) (hc' : q < f.valueOf (c + 1)) (hd : f.valueOf d ≤ q)
    (hd' : q < f.valueOf (d + 1)) : c = d := by
  have h1 := code_lt_of_between hc hd'
  have h2 := code_lt_of_between hd hc'
  omega

theorem codeAt_add (f : Fmt) (n i : ℕ) (q : ℤ) : f.codeAt (n + i) q = f.codeAt n q + i := (add_assoc ..).symm

/-- The encoding of n units of 2^q. -/
theorem codeAt_spec {n : ℕ} {q : ℤ} (hq : 1 - f.bias - f.mb ≤ q) (hn : n < 2 ^ (f.mb + 1))
    (hlow : 2 ^ f.mb ≤ n ∨ q = 1 - f.bias - f.mb) : f.stepAt (f.codeAt n q) = q ∧ f.valueOf (f.codeAt n q) = n * 2 ^ q ∧
      (1 ≤ f.mb → f.codeAt n q % 2 = n % 2) := by
  obtain ⟨j, hj⟩ := Int.eq_ofNat_of_zero_le (sub_nonneg.mpr hq)
  obtain rfl : q = j + (1 - f.bias - f.mb) := by omega
  have hc : f.codeAt n (j + (1 - f.bias - f.mb)) = j * 2 ^ f.mb + n := by
    rw [Fmt.codeAt, show (j : ℤ) + (1 - f.bias - f.mb) + f.mb + f.bias - 1 = j by ring, ← Nat.cast_mul, Int.toNat_natCast]
  have hb : f.binade (j * 2 ^ f.mb + n) = j + 1 := by
    have hp : 0 < 2 ^ f.mb := by positivity
    rw [Fmt.binade, mul_comm, Nat.mul_add_div hp]
    rcases hlow with h | h
    · have : n / 2 ^ f.mb = 1 := Nat.div_eq_of_lt_le (by simpa using h) (by rw [pow_succ'] at hn; simpa using hn)
      omega
    · have : n / 2 ^ f.mb < 2 := Nat.div_lt_of_lt_mul (by rwa [pow_succ] at hn)
      omega
  have hs : f.stepAt (j * 2 ^ f.mb + n) = j + (1 - f.bias - f.mb) := by rw [Fmt.stepAt, hb]; push_cast; ring
  rw [hc]
  refine ⟨hs, ?_, fun hmb => ?_⟩
  · rw [Fmt.valueOf, hs, hb]
    push_cast
    ring
  · obtain ⟨i, hi⟩ := Nat.exists_eq_add_of_le hmb
    rw [hi, pow_add, pow_one, mul_left_comm, Nat.mul_add_mod]

/-- A magnitude is at least 2^`ilog` and less than twice that. -/
theorem two_zpow_ilog_le {m : ℕ} (hm : 0 < m) (e : ℤ) : (2 : ℚ) ^ ilog m e ≤ magnitude m e ∧ magnitude m e < 2 ^ (ilog m e + 1) := by
  simp only [ilog, magnitude, add_right_comm _ e 1]
  rw [zpow_add₀ two_ne_zero, zpow_add₀ two_ne_zero _ e]
  refine ⟨mul_le_mul_of_nonneg_right ?_ (by positivity), mul_lt_mul_of_pos_right ?_ (by positivity)⟩
  · exact_mod_cast Nat.log2_self_le hm.ne'
  · exact_mod_cast Nat.lt_log2_self

/-- In units of a format's quantum a value has at most its digits, and all of them above the subnormals. -/
theorem units_quantum_bounds {m : ℕ} (hm : 0 < m) {e : ℤ} {n : ℕ} {t : ℚ} (ht : 0 ≤ t) (ht' : t < 1)
    (h : magnitude m e = (n + t) * 2 ^ f.quantum m e) :
    n < 2 ^ (f.mb + 1) ∧ (2 ^ f.mb ≤ n ∨ f.quantum m e = 1 - f.bias - f.mb) := by
  obtain ⟨hlo, hhi⟩ := two_zpow_ilog_le hm e
  rw [h] at hlo hhi
  have hp : (0 : ℚ) < 2 ^ f.quantum m e := by positivity
  constructor
  · have : (n : ℚ) < 2 ^ (f.mb + 1) := by
      refine (le_add_of_nonneg_right ht).trans_lt (lt_of_mul_lt_mul_right (hhi.trans_le ?_) hp.le)
      rw [← zpow_natCast, ← zpow_add₀ two_ne_zero]
      refine zpow_le_zpow_right₀ one_le_two ?_
      have := le_max_left (ilog m e - f.mb) (1 - f.bias - f.mb)
      simp only [Fmt.quantum]
      push_cast
      omega
    exact_mod_cast this
  · rcases max_choice (ilog m e - f.mb) (1 - f.bias - f.mb) with hq | hq
    · left
      rw [show ilog m e = f.mb + f.quantum m e by rw [Fmt.quantum, hq]; ring, zpow_add₀ two_ne_zero, zpow_natCast,
        mul_le_mul_iff_of_pos_right hp] at hlo
      have : (2 ^ f.mb : ℚ) < n + 1 := hlo.trans_lt (by linarith)
      exact Nat.lt_succ_iff.mp (by exact_mod_cast this)
    · exact .inr hq

/-- An encoding that is rounded, held back at the largest finite number (R193). -/
def Fmt.capped (f : Fmt) (d : Dir) (neg : Bool) (c : ℕ) : ℕ := if f.maxCode < c then f.overflow d neg else c

/-- The first w bits of the part of a unit that is cut off (R195). -/
theorem first_bits (w r k : ℕ) :
    ((r : ℚ) / 2 ^ k * 2 ^ w).floor.toNat = if w ≤ k then r / 2 ^ (k - w) else r * 2 ^ (w - k) := by
  have h : ((r : ℚ) / 2 ^ k * 2 ^ w).floor.toNat = r * 2 ^ w / 2 ^ k := by
    have hfloor := Rat.floor_natCast_div_natCast (r * 2 ^ w) (2 ^ k)
    push_cast at hfloor
    rw [div_mul_eq_mul_div, ← Int.toNat_natCast (r * 2 ^ w / 2 ^ k)]
    exact congrArg Int.toNat (hfloor.trans (by push_cast; rfl))
  rw [h]
  split_ifs with hk
  · obtain ⟨i, rfl⟩ := Nat.exists_eq_add_of_le hk
    rw [Nat.pow_add, mul_comm r, Nat.mul_div_mul_left _ _ (by positivity), Nat.add_sub_cancel_left]
  · obtain ⟨i, rfl⟩ := Nat.exists_eq_add_of_le (not_le.mp hk).le
    rw [Nat.add_sub_cancel_left, Nat.pow_add, mul_left_comm, Nat.mul_div_cancel_left _ (by positivity)]

/-- What rounding makes of a magnitude, in every direction and stochastically: c is the encoding of the largest number of the format
not above it, and t the part of c's step that lies between them (R192, R193, R195). -/
theorem rounds_from_below (hmb : 1 ≤ f.mb) (m : ℕ) (e : ℤ) : ∃ c t, magnitude m e = f.valueOf c + t * 2 ^ f.stepAt c ∧
    0 ≤ t ∧ t < 1 ∧ (∀ d neg, f.roundMag d neg m e = f.capped d neg (c + roundsUp d neg c t)) ∧
    ∀ neg, ∀ rb < 2 ^ 32, f.roundSR rb (.fin neg m e) =
      f.signCode neg + f.capped .rne neg (c + if 2 ^ 32 ≤ (t * 2 ^ 32).floor.toNat + rb then 1 else 0) := by
  rcases Nat.eq_zero_or_pos m with rfl | hm
  · refine ⟨0, 0, by simp [valueOf_zero, magnitude], le_rfl, one_pos, fun d neg => ?_, fun neg rb hrb => ?_⟩
    · simp [Fmt.roundMag, Fmt.capped, roundsUp_zero]
    · have h0 : ((0 : ℚ) * 2 ^ 32).floor.toNat = 0 := by rw [zero_mul]; rfl
      rw [Fmt.roundSR, if_pos rfl, h0, if_neg (by omega)]
      simp [Fmt.capped]
  · obtain ⟨n, r, k, hu, hr, hval⟩ := units_exact m e (f.quantum m e)
    have ht : (0 : ℚ) ≤ r / 2 ^ k := by positivity
    have ht' : (r : ℚ) / 2 ^ k < 1 := (div_lt_one (by positivity)).mpr (by exact_mod_cast hr)
    obtain ⟨hn, hlow⟩ := units_quantum_bounds hm ht ht' hval
    obtain ⟨hstep, hvalue, hodd⟩ := codeAt_spec (q := f.quantum m e) (le_max_right ..) hn hlow
    refine ⟨_, _, by rw [hval, hvalue, hstep, add_mul], ht, ht', fun d neg => ?_, fun neg rb hrb => ?_⟩
    · simp only [Fmt.roundMag, if_neg hm.ne', hu, roundUnits_eq_add_roundsUp d neg r k (hodd hmb), codeAt_add,
        Fmt.capped]
    · have hfirst := first_bits 32 r k
      simp only [Fmt.roundSR, if_neg hm.ne', hu, ← hfirst, Fmt.capped]
      have hcarry : (if r = 0 then n else if 2 ^ 32 ≤ ((r : ℚ) / 2 ^ k * 2 ^ 32).floor.toNat + rb then n + 1 else n) =
          n + if 2 ^ 32 ≤ ((r : ℚ) / 2 ^ k * 2 ^ 32).floor.toNat + rb then 1 else 0 := by
        split_ifs with h0 hc
        · rw [hfirst, h0] at hc
          simp only [Nat.zero_div, Nat.zero_mul, ite_self] at hc
          omega
        all_goals rfl
      rw [hcarry, codeAt_add]

end Sys2Proof.Machine
end

section
/-! The encodings of the eight formats (R185): below the largest finite one each stands for the number of its place in the order, and
above it stand an infinity and NaNs. -/
namespace Sys2Proof.Machine
open Sys2Proof.Claims

/-! ## What the formats share -/

section
variable {f : Fmt}

theorem formats_mb (hf : f ∈ formats) : 1 ≤ f.mb := by revert f; decide
theorem formats_maxCode_lt (hf : f ∈ formats) : f.maxCode < 2 ^ (f.eb + f.mb) := by revert f; decide
theorem formats_maxCode_pos (hf : f ∈ formats) : f.maxCode - 1 + 1 = f.maxCode := by revert f; decide
theorem formats_stepAt (hf : f ∈ formats) : f.stepAt (f.maxCode - 1) = f.stepAt f.maxCode := by revert f; decide
theorem overflow_rne (hf : f ∈ formats) (neg : Bool) : f.overflow .rne neg = beyond f := by revert f neg; decide
theorem overflow_rz (hf : f ∈ formats) (neg : Bool) : f.overflow .rz neg = f.maxCode := by revert f neg; decide
theorem overflow_ru (hf : f ∈ formats) (neg : Bool) : f.overflow .ru neg = if neg then f.maxCode else beyond f := by
  revert f neg; decide
theorem overflow_rd (hf : f ∈ formats) (neg : Bool) : f.overflow .rd neg = if neg then beyond f else f.maxCode := by
  revert f neg; decide

/-! ## Decoding -/

theorem sign_of_code (f : Fmt) (neg : Bool) {c : ℕ} (hc : c < 2 ^ (f.eb + f.mb)) : bit (f.signCode neg + c) (f.eb + f.mb) = neg := by
  cases neg <;> simp [bit, Fmt.signCode, Nat.div_eq_of_lt hc, Nat.add_div_left]

theorem exponent_of_code (f : Fmt) (neg : Bool) {c : ℕ} (hc : c < 2 ^ (f.eb + f.mb)) :
    (f.signCode neg + c) / 2 ^ f.mb % 2 ^ f.eb = c / 2 ^ f.mb := by
  have h : c / 2 ^ f.mb < 2 ^ f.eb := Nat.div_lt_of_lt_mul (by rwa [← Nat.pow_add, Nat.add_comm])
  cases neg
  · simp [Fmt.signCode, Nat.mod_eq_of_lt h]
  · simp [Fmt.signCode, Nat.pow_add, Nat.mul_comm (2 ^ f.eb), Nat.mul_add_div, Nat.mod_eq_of_lt h]

theorem fraction_of_code (f : Fmt) (neg : Bool) (c : ℕ) : (f.signCode neg + c) % 2 ^ f.mb = c % 2 ^ f.mb := by
  cases neg <;> simp [Fmt.signCode, Nat.pow_add]

/-- Decoding by the sign and the encoding without it. -/
theorem decode_signCode_add (f : Fmt) (neg : Bool) {c : ℕ} (hc : c < 2 ^ (f.eb + f.mb)) : f.decode (f.signCode neg + c) =
    if f.sp = .ieee ∧ c / 2 ^ f.mb = 2 ^ f.eb - 1 then (if c % 2 ^ f.mb = 0 then .inf neg else .nan)
    else if f.sp = .oneNan ∧ c / 2 ^ f.mb = 2 ^ f.eb - 1 ∧ c % 2 ^ f.mb = 2 ^ f.mb - 1 then .nan
    else if c / 2 ^ f.mb = 0 then .fin neg (c % 2 ^ f.mb) (1 - f.bias - f.mb)
    else .fin neg (2 ^ f.mb + c % 2 ^ f.mb) (((c / 2 ^ f.mb : ℕ) : ℤ) - f.bias - f.mb) := by
  simp [Fmt.decode, sign_of_code f neg hc, exponent_of_code f neg hc, fraction_of_code, and_assoc]

/-- The number of a place in the order, by the fields of its encoding. -/
theorem valueOf_fields (f : Fmt) (c : ℕ) : f.valueOf c = if c / 2 ^ f.mb = 0 then magnitude (c % 2 ^ f.mb) (1 - f.bias - f.mb)
    else magnitude (2 ^ f.mb + c % 2 ^ f.mb) (((c / 2 ^ f.mb : ℕ) : ℤ) - f.bias - f.mb) := by
  have hc : (c : ℚ) = 2 ^ f.mb * (c / 2 ^ f.mb : ℕ) + (c % 2 ^ f.mb : ℕ) := by exact_mod_cast (Nat.div_add_mod ..).symm
  split_ifs with h
  · simp [Fmt.valueOf, Fmt.stepAt, Fmt.binade, magnitude, h, hc]
  · rw [Fmt.valueOf, Fmt.stepAt, Fmt.binade, max_eq_left (Nat.one_le_iff_ne_zero.mpr h), magnitude, hc]
    push_cast
    ring

theorem maxCode_ieee (hf : f ∈ formats) (hs : f.sp = .ieee) : f.maxCode + 1 = 2 ^ f.mb * (2 ^ f.eb - 1) := by
  revert f
  decide
theorem maxCode_oneNan (hf : f ∈ formats) (hs : f.sp = .oneNan) : f.maxCode + 2 = 2 ^ (f.eb + f.mb) := by
  revert f
  decide
theorem maxCode_none (hf : f ∈ formats) (hs : f.sp = .none) : f.maxCode + 1 = 2 ^ (f.eb + f.mb) := by
  revert f
  decide

theorem topExponent_add (f : Fmt) : 2 ^ f.mb * (2 ^ f.eb - 1) + 2 ^ f.mb = 2 ^ (f.eb + f.mb) := by
  rw [← Nat.mul_succ, Nat.succ_eq_add_one, Nat.sub_add_cancel Nat.one_le_two_pow, Nat.add_comm f.eb, Nat.pow_add]

theorem exponent_eq_top {c : ℕ} (hc : 2 ^ f.mb * (2 ^ f.eb - 1) ≤ c) (hlt : c < 2 ^ (f.eb + f.mb)) : c / 2 ^ f.mb = 2 ^ f.eb - 1 := by
  refine Nat.div_eq_of_lt_le (by rwa [Nat.mul_comm]) ?_
  rw [Nat.succ_mul, Nat.mul_comm, topExponent_add]
  exact hlt

/-- Up to the largest finite encoding no NaN and no infinity is found. -/
theorem decode_of_le (hf : f ∈ formats) (neg : Bool) {c : ℕ} (hc : c ≤ f.maxCode) :
    ∃ m e, f.decode (f.signCode neg + c) = .fin neg m e ∧ magnitude m e = f.valueOf c := by
  have hdiv := Nat.div_add_mod c (2 ^ f.mb)
  have hieee : ¬(f.sp = .ieee ∧ c / 2 ^ f.mb = 2 ^ f.eb - 1) := by
    rintro ⟨hs, he⟩
    have := maxCode_ieee hf hs
    rw [he] at hdiv
    omega
  have hone : ¬(f.sp = .oneNan ∧ c / 2 ^ f.mb = 2 ^ f.eb - 1 ∧ c % 2 ^ f.mb = 2 ^ f.mb - 1) := by
    rintro ⟨hs, he, hm⟩
    have := maxCode_oneNan hf hs
    have := topExponent_add f
    rw [he, hm] at hdiv
    omega
  rw [decode_signCode_add f neg (hc.trans_lt (formats_maxCode_lt hf)), if_neg hieee, if_neg hone, valueOf_fields]
  split_ifs
  · exact ⟨_, _, rfl, rfl⟩
  · exact ⟨_, _, rfl, rfl⟩

/-- Above it stand the infinity of a format that has one, and NaNs. -/
theorem decode_of_gt (hf : f ∈ formats) (neg : Bool) {c : ℕ} (hc : f.maxCode < c) (hlt : c < 2 ^ (f.eb + f.mb)) :
    f.decode (f.signCode neg + c) = .nan ∨ c = f.infCode ∧ f.decode (f.signCode neg + c) = .inf neg := by
  have hdiv := Nat.div_add_mod c (2 ^ f.mb)
  have htop := topExponent_add f
  rw [decode_signCode_add f neg hlt]
  cases hs : f.sp with
  | ieee =>
    have hmax := maxCode_ieee hf hs
    have he := exponent_eq_top (by omega) hlt
    rw [he] at hdiv
    by_cases hm : c % 2 ^ f.mb = 0
    · exact .inr ⟨by simp [Fmt.infCode, hs]; omega, by simp [he, hm]⟩
    · exact .inl (by simp [he, hm])
  | oneNan =>
    have hmax := maxCode_oneNan hf hs
    have he := exponent_eq_top (by omega) hlt
    have hm : c % 2 ^ f.mb = 2 ^ f.mb - 1 := by
      rw [he] at hdiv
      omega
    exact .inl (by simp [he, hm])
  | none =>
    have hmax := maxCode_none hf hs
    omega

theorem real_decode (hf : f ∈ formats) {c : ℕ} (hc : c ≤ f.maxCode) : real (f.decode c).dy = f.valueOf c := by
  obtain ⟨m, e, hd, hv⟩ := decode_of_le hf false hc
  rw [Fmt.signCode, if_neg Bool.false_ne_true, Nat.zero_add] at hd
  rw [hd, real_fin, if_neg Bool.false_ne_true, one_mul, hv]

theorem top_eq (hf : f ∈ formats) : top f = f.valueOf f.maxCode := real_decode hf le_rfl

/-- The step below the largest finite number is the one above it. -/
theorem topStep_eq (hf : f ∈ formats) : topStep f = 2 ^ f.stepAt f.maxCode := by
  have h := valueOf_succ f (f.maxCode - 1)
  rw [formats_maxCode_pos hf, formats_stepAt hf] at h
  rw [topStep, top_eq hf, real_decode hf (Nat.sub_le ..), h, add_sub_cancel_left]

theorem top_add_topStep (hf : f ∈ formats) : top f + topStep f = f.valueOf (f.maxCode + 1) := by
  rw [top_eq hf, topStep_eq hf, valueOf_succ]

/-- A sign and an encoding without it make up every encoding. -/
theorem exists_sign_code {x : ℕ} (hx : x < 2 ^ f.width) : ∃ neg c, c < 2 ^ (f.eb + f.mb) ∧ x = f.signCode neg + c := by
  refine ⟨decide (2 ^ (f.eb + f.mb) ≤ x), x % 2 ^ (f.eb + f.mb), Nat.mod_lt _ (by positivity), ?_⟩
  rw [Fmt.width, Nat.add_assoc, Nat.pow_add, pow_one] at hx
  simp only [Fmt.signCode, decide_eq_true_eq]
  split_ifs with h
  · rw [Nat.mod_eq_sub_mod h, Nat.mod_eq_of_lt (by omega)]
    omega
  · rw [Nat.mod_eq_of_lt (not_le.mp h), Nat.zero_add]
end

end Sys2Proof.Machine
end

section
/-! Rounding to nearest even (R192, R193): of two neighbours the nearer one, and of two equally near the even one. -/
namespace Sys2Proof.Machine
open Sys2Proof.Claims

/-- δ takes an encoding c to the nearer of the numbers V c and V (c + 1) that q stands between, and from the middle to the even one. -/
structure NearestEven (V : ℕ → ℝ) (q : ℝ) (c δ : ℕ) : Prop where
  above : V c ≤ q
  below : q < V (c + 1)
  down : 2 * q < V c + V (c + 1) → δ = 0
  up : V c + V (c + 1) < 2 * q → δ = 1
  tie : 2 * q = V c + V (c + 1) → δ = c % 2

section
variable {V : ℕ → ℝ} {q : ℝ} {c δ : ℕ}

theorem NearestEven.cases (h : NearestEven V q c δ) : δ = 0 ∧ 2 * q ≤ V c + V (c + 1) ∨ δ = 1 ∧ V c + V (c + 1) ≤ 2 * q := by
  rcases lt_trichotomy (2 * q) (V c + V (c + 1)) with hq | hq | hq
  · exact .inl ⟨h.down hq, hq.le⟩
  · rcases Nat.mod_two_eq_zero_or_one c with hc | hc
    · exact .inl ⟨(h.tie hq).trans hc, hq.le⟩
    · exact .inr ⟨(h.tie hq).trans hc, hq.ge⟩
  · exact .inr ⟨h.up hq, hq.le⟩

/-- The number that δ leads to is no further from q than any other, and even where another one is as near. -/
theorem NearestEven.nearest (h : NearestEven V q c δ) (hV : StrictMono V) (d : ℕ) : |V (c + δ) - q| ≤ |V d - q| ∧
    (|V (c + δ) - q| = |V d - q| → d ≠ c + δ → (c + δ) % 2 = 0) := by
  have hc : |V c - q| = q - V c := by rw [abs_sub_comm, abs_of_nonneg (sub_nonneg.mpr h.above)]
  have hc' : |V (c + 1) - q| = V (c + 1) - q := abs_of_pos (sub_pos.mpr h.below)
  rcases Nat.lt_or_ge c d with hd | hd
  · have hmono := hV.monotone (Nat.succ_le_of_lt hd)
    have habs : |V d - q| = V d - q := abs_of_pos (sub_pos.mpr (h.below.trans_le hmono))
    rcases h.cases with ⟨rfl, hq⟩ | ⟨rfl, hq⟩
    · rw [Nat.add_zero, hc, habs]
      exact ⟨by linarith, fun he _ => (h.tie (by linarith)).symm⟩
    · rw [hc', habs]
      exact ⟨by linarith, fun he hne => absurd (hV.injective (by linarith)) hne⟩
  · have hmono := hV.monotone hd
    have habs : |V d - q| = q - V d := by rw [abs_sub_comm, abs_of_nonneg (sub_nonneg.mpr (hmono.trans h.above))]
    rcases h.cases with ⟨rfl, hq⟩ | ⟨rfl, hq⟩
    · rw [Nat.add_zero, hc, habs]
      exact ⟨by linarith, fun he hne => absurd (hV.injective (by linarith)) hne⟩
    · rw [hc', habs]
      refine ⟨by linarith, fun he _ => ?_⟩
      have := h.tie (by linarith)
      omega
end

/-- The magnitude that an encoding stands for, as a real number. -/
def Fmt.realOf (f : Fmt) (c : ℕ) : ℝ := f.valueOf c

variable {f : Fmt}

theorem beyond_of_even (hf : f ∈ formats) (h : f.maxCode % 2 = 0) : beyond f = f.maxCode := by
  revert f
  decide

theorem capped_of_le {d : Dir} {neg : Bool} {c : ℕ} (h : c ≤ f.maxCode) : f.capped d neg c = c := if_neg (not_lt.mpr h)
theorem capped_of_gt {d : Dir} {neg : Bool} {c : ℕ} (h : f.maxCode < c) : f.capped d neg c = f.overflow d neg := if_pos h

theorem realOf_strictMono (f : Fmt) : StrictMono f.realOf := fun _ _ hc => Rat.cast_lt.mpr (valueOf_strictMono f hc)
theorem realOf_succ (f : Fmt) (c : ℕ) : f.realOf (c + 1) = f.realOf c + 2 ^ f.stepAt c := by
  rw [Fmt.realOf, valueOf_succ]
  push_cast
  rfl
theorem cast_top (hf : f ∈ formats) : ((top f : ℚ) : ℝ) = f.realOf f.maxCode := congrArg _ (top_eq hf)
theorem cast_top_add_half (hf : f ∈ formats) :
    ((top f + topStep f / 2 : ℚ) : ℝ) = (f.realOf f.maxCode + f.realOf (f.maxCode + 1)) / 2 := by
  rw [Fmt.realOf, Fmt.realOf, ← top_add_topStep hf, top_eq hf]
  push_cast
  ring

/-- What goes to the nearer neighbour and is held back at the largest finite number is rounded to nearest. -/
theorem roundsToNearest_of_nearestEven (hf : f ∈ formats) (neg : Bool) {q : ℝ} {c δ : ℕ} (h : NearestEven f.realOf q c δ) :
    RoundsToNearest f neg q (f.signCode neg + f.capped .rne neg (c + δ)) := by
  have hV := realOf_strictMono f
  have hmax := hV f.maxCode.lt_succ_self
  refine ⟨_, rfl, fun hq d hd => ?_, fun hq hq' => ?_, fun hq => ?_⟩
  · rw [cast_top hf] at hq
    have hle : c + δ ≤ f.maxCode := by
      rcases (hV.le_iff_le.mp (h.above.trans hq)).lt_or_eq with hc | rfl
      · rcases h.cases with ⟨rfl, -⟩ | ⟨rfl, -⟩ <;> omega
      · exact (congrArg _ (h.down (by linarith))).le
    have hoff (i : ℕ) (hi : i ≤ f.maxCode) : ((real (f.decode i).dy : ℚ) : ℝ) = f.realOf i := congrArg _ (real_decode hf hi)
    simp only [capped_of_le hle, hoff _ hle, hoff d hd]
    exact ⟨hle, h.nearest hV d⟩
  · rw [cast_top hf] at hq
    rw [cast_top_add_half hf] at hq'
    have h1 := hV.lt_iff_lt.mp (hq.trans h.below)
    have h2 := hV.lt_iff_lt.mp (h.above.trans_lt (by linarith : q < f.realOf (f.maxCode + 1)))
    obtain rfl : c = f.maxCode := by omega
    rw [h.down (by linarith), Nat.add_zero, capped_of_le le_rfl]
  · rw [cast_top_add_half hf] at hq
    by_cases hc : f.maxCode < c + δ
    · rw [capped_of_gt hc, overflow_rne hf]
    · have h1 := hV.lt_iff_lt.mp ((by linarith : f.realOf f.maxCode < q).trans h.below)
      obtain ⟨rfl, rfl⟩ : c = f.maxCode ∧ δ = 0 := by omega
      have htie : 2 * q = f.realOf f.maxCode + f.realOf (f.maxCode + 1) :=
        le_antisymm (not_lt.mp fun hlt => absurd (h.up hlt) zero_ne_one) (by linarith)
      rw [Nat.add_zero, capped_of_le le_rfl, beyond_of_even hf (h.tie htie).symm]

/-- A number that lies the part t of c's step above c goes to the nearer neighbour as `roundsUp` says. -/
theorem nearestEven_roundsUp (f : Fmt) (neg : Bool) {q : ℝ} {c : ℕ} {t : ℚ} (hq : q = f.realOf c + t * 2 ^ f.stepAt c) (ht : 0 ≤ t)
    (ht' : t < 1) : NearestEven f.realOf q c (roundsUp .rne neg c t) := by
  have hp : (0 : ℝ) < 2 ^ f.stepAt c := by positivity
  have hsum : f.realOf c + f.realOf (c + 1) - 2 * q = (((1 - 2 * t : ℚ)) : ℝ) * 2 ^ f.stepAt c := by
    rw [hq, realOf_succ]
    push_cast
    ring
  refine ⟨?_, ?_, fun h => ?_, fun h => ?_, fun h => ?_⟩
  · rw [hq]
    exact le_add_of_nonneg_right (mul_nonneg (by exact_mod_cast ht) hp.le)
  · rw [hq, realOf_succ]
    exact add_lt_add_right (mul_lt_of_lt_one_left hp (by exact_mod_cast ht')) _
  · have hneg : 0 < 1 - 2 * t := Rat.cast_pos.mp (pos_of_mul_pos_left (hsum ▸ sub_pos.mpr h) hp.le)
    rw [roundsUp, ite_eq_left_iff]
    exact fun _ => if_pos (by linarith)
  · have hpos : 1 - 2 * t < 0 := Rat.cast_lt_zero.mp (neg_of_mul_neg_left (hsum ▸ sub_neg.mpr h) hp.le)
    rw [roundsUp, if_neg (by linarith : t ≠ 0)]
    exact (if_neg (by linarith)).trans (if_pos (by linarith))
  · have hzero : 1 - 2 * t = 0 := by
      have h0 := hsum.symm.trans (sub_eq_zero.mpr h.symm)
      exact Rat.cast_eq_zero.mp ((mul_eq_zero.mp h0).resolve_right hp.ne')
    obtain rfl : t = 1 / 2 := by linarith
    norm_num [roundsUp]

theorem roundsToNearest_round (hf : f ∈ formats) (neg : Bool) (m : ℕ) (e : ℤ) :
    RoundsToNearest f neg (magnitude m e : ℚ) (f.round .rne (.fin neg m e)) := by
  obtain ⟨c, t, hval, ht, ht', hround, -⟩ := rounds_from_below (formats_mb hf) m e
  rw [Fmt.round, hround]
  exact roundsToNearest_of_nearestEven hf neg (nearestEven_roundsUp f neg (by rw [hval, Fmt.realOf]; push_cast; rfl) ht ht')

end Sys2Proof.Machine
end

section
/-! Beyond the largest number, stochastic rounding, and encodings that round to themselves (R193 to R195). -/
namespace Sys2Proof.Machine
open Sys2Proof.Claims

variable {f : Fmt}

/-- A magnitude above the largest finite number overflows in a direction that is not to nearest, or is cut to that number, which is
then what the overflow gives. -/
theorem capped_directed (hf : f ∈ formats) {d : Dir} (hd : d ≠ .rne) (neg : Bool) {c : ℕ} {t : ℚ} (hc : f.maxCode ≤ c)
    (ht : c = f.maxCode → t ≠ 0) : f.capped d neg (c + roundsUp d neg c t) = f.overflow d neg := by
  rcases hc.lt_or_eq with hlt | rfl
  · exact capped_of_gt (by omega)
  · simp only [roundsUp, if_neg (ht rfl)]
    cases d with
    | rne => exact absurd rfl hd
    | rz => rw [overflow_rz hf, Nat.add_zero, capped_of_le le_rfl]
    | ru =>
      cases neg with
      | true => rw [overflow_ru hf]; exact capped_of_le le_rfl
      | false => exact capped_of_gt (Nat.lt_succ_self _)
    | rd =>
      cases neg with
      | true => exact capped_of_gt (Nat.lt_succ_self _)
      | false => rw [overflow_rd hf]; exact capped_of_le le_rfl

/-- A value above the largest finite number, in a direction that is not to nearest. -/
theorem round_of_top_lt (hf : f ∈ formats) {neg : Bool} {m : ℕ} {e : ℤ} (h : top f < magnitude m e) {d : Dir} (hd : d ≠ .rne) :
    f.round d (.fin neg m e) = f.signCode neg + f.overflow d neg := by
  obtain ⟨c, t, hval, ht, ht', hround, -⟩ := rounds_from_below (formats_mb hf) m e
  rw [top_eq hf] at h
  have hc := Nat.lt_succ_iff.mp (code_lt_of_between h.le (between_of_part hval ht ht').2)
  rw [Fmt.round, hround, capped_directed hf hd neg hc]
  rintro rfl rfl
  simp [hval] at h

/-- Stochastic rounding of a magnitude between an encoding's number and the next: it goes on when the first 32 bits of what is cut off
and the random bits carry (R195). -/
theorem roundSR_between (hf : f ∈ formats) {neg : Bool} {m : ℕ} {e : ℤ} {c : ℕ} (hc : f.valueOf c ≤ magnitude m e)
    (hc' : magnitude m e < f.valueOf (c + 1)) {rb : ℕ} (hrb : rb < 2 ^ 32) : f.roundSR rb (.fin neg m e) = f.signCode neg +
      f.capped .rne neg (c + if 2 ^ 32 ≤ ((magnitude m e - f.valueOf c) / 2 ^ f.stepAt c * 2 ^ 32).floor.toNat + rb then 1 else 0) := by
  obtain ⟨c', t, hval, ht, ht', -, hsr⟩ := rounds_from_below (formats_mb hf) m e
  have hp : (2 : ℚ) ^ f.stepAt c' ≠ 0 := by positivity
  obtain ⟨hlo, hhi⟩ := between_of_part hval ht ht'
  obtain rfl := code_unique hlo hhi hc hc'
  rw [hsr neg rb hrb, hval, add_sub_cancel_left, mul_div_cancel_right₀ _ hp]

/-- Stochastic rounding of a magnitude that is a whole step or more above the largest finite number. -/
theorem roundSR_of_top_add_topStep_le (hf : f ∈ formats) {neg : Bool} {m : ℕ} {e : ℤ} (h : top f + topStep f ≤ magnitude m e) {rb : ℕ}
    (hrb : rb < 2 ^ 32) : f.roundSR rb (.fin neg m e) = f.signCode neg + beyond f := by
  obtain ⟨c, t, hval, ht, ht', -, hsr⟩ := rounds_from_below (formats_mb hf) m e
  have hc : f.maxCode + 1 < c + 1 := code_lt_of_between (top_add_topStep hf ▸ h) (between_of_part hval ht ht').2
  rw [hsr neg rb hrb, capped_of_gt (by omega), overflow_rne hf]

/-- Settles O10: it holds. Every direction goes from the largest number not above the magnitude to it or to the next
(`rounds_from_below`), and an overflow is what is held back at the largest finite number. -/
theorem roundingIsToNearestEven : Obligations.RoundingIsToNearestEven := by
  intro f hf neg m e
  refine ⟨roundsToNearest_round hf neg m e, fun h => ⟨?_, ?_, ?_⟩, fun rb hrb => ⟨fun c hc hlo hhi => ?_, fun hlo hhi => ?_,
    fun h => roundSR_of_top_add_topStep_le hf h hrb⟩⟩
  · rw [round_of_top_lt hf h (by decide), overflow_rz hf]
  · rw [round_of_top_lt hf h (by decide), overflow_ru hf]
  · rw [round_of_top_lt hf h (by decide), overflow_rd hf]
  · have hd := real_decode hf hc.le
    have hd' := real_decode hf (Nat.succ_le_of_lt hc)
    simp only [hd, hd'] at hlo hhi ⊢
    rw [roundSR_between hf hlo hhi hrb, valueOf_succ, add_sub_cancel_left, capped_of_le (by split_ifs <;> omega)]
    split_ifs <;> rfl
  · rw [top_add_topStep hf] at hhi
    rw [top_eq hf] at hlo
    simp only [top_eq hf, topStep_eq hf]
    rw [roundSR_between hf hlo hhi hrb]
    split_ifs
    · rw [capped_of_gt (Nat.lt_succ_self _), overflow_rne hf]
    · rw [Nat.add_zero, capped_of_le le_rfl]

/-- A number of the format is rounded to its own encoding. -/
theorem round_of_eq_valueOf (hf : f ∈ formats) {neg : Bool} {m : ℕ} {e : ℤ} {c : ℕ} (hc : c ≤ f.maxCode)
    (h : magnitude m e = f.valueOf c) : (∀ d, f.round d (.fin neg m e) = f.signCode neg + c) ∧
      ∀ rb < 2 ^ 32, f.roundSR rb (.fin neg m e) = f.signCode neg + c := by
  obtain ⟨c', t, hval, ht, ht', hround, hsr⟩ := rounds_from_below (formats_mb hf) m e
  have hp : (2 : ℚ) ^ f.stepAt c' ≠ 0 := by positivity
  obtain ⟨hlo, hhi⟩ := between_of_part hval ht ht'
  obtain rfl := code_unique hlo hhi h.ge (h.trans_lt (valueOf_strictMono f c.lt_succ_self))
  obtain rfl : t = 0 := by
    rw [h, left_eq_add] at hval
    exact (mul_eq_zero.mp hval).resolve_right hp
  refine ⟨fun d => ?_, fun rb hrb => ?_⟩
  · rw [Fmt.round, hround, roundsUp_zero, Nat.add_zero, capped_of_le hc]
  · have h0 : ((0 : ℚ) * 2 ^ 32).floor.toNat = 0 := by rw [zero_mul]; rfl
    rw [hsr neg rb hrb, h0, if_neg (by omega), Nat.add_zero, capped_of_le hc]

/-- Settles O11: it holds. A finite encoding stands for the number of its place in the order, which no direction leaves, and the
infinities stand where the overflow of the format does; NaNs and infinities are the table's. -/
theorem encodingsRoundToThemselves : Obligations.EncodingsRoundToThemselves := by
  refine ⟨fun f hf d x hx hnan => ?_, fun r hr d rb neg => ?_⟩
  · obtain ⟨neg, c, hc, rfl⟩ := exists_sign_code hx
    rcases Nat.lt_or_ge f.maxCode c with hmax | hmax
    · rcases decode_of_gt hf neg hmax hc with h | ⟨rfl, h⟩
      · rw [h] at hnan
        exact absurd hnan (by decide)
      · rw [h]
        exact ⟨rfl, fun _ _ => rfl⟩
    · obtain ⟨m, e, h, hval⟩ := decode_of_le hf neg hmax
      rw [h]
      obtain ⟨hround, hsr⟩ := round_of_eq_valueOf hf (neg := neg) hmax hval
      exact ⟨hround d, hsr⟩
  · have htable : ∀ r ∈ [(fp32, 0x7F800000, 0x7FC00000), (fp16, 0x7C00, 0x7E00), (bf16, 0x7F80, 0x7FC0), (e5m2, 0x7C, 0x7E),
        (e4m3, 0x7E, 0x7F), (e3m2, 0x1F, 0), (e2m3, 0x1F, 0), (e2m1, 0x7, 0)], r.1.nanCode = r.2.2 ∧ r.1.infCode = r.2.1 := by decide
    obtain ⟨hnan, hinf⟩ := htable r hr
    exact ⟨hnan, hnan, congrArg _ hinf, congrArg _ hinf⟩

end Sys2Proof.Machine
end

section
/-! Quotient and root (R196). Both are cut to whole units, and one more bit says whether anything was cut off: the number so made stands on
the same side of every whole number of units as the exact one, and so rounds as the exact one does. -/
namespace Sys2Proof.Machine
open Sys2Proof.Claims

/-! ## A last sticky bit -/

section
variable {A X u : ℝ}

/-- Two numbers stand alike to every whole number of units u. -/
def SameSides (u A X : ℝ) : Prop := ∀ z : ℤ, (A < z * u ↔ X < z * u) ∧ (z * u < A ↔ z * u < X)

/-- The whole units of a number, with a half unit more when it is not whole, stand as the number does. -/
theorem sameSides_sticky (hu : 0 < u) {Y : ℕ} (hlo : Y * u ≤ X) (hhi : X < (Y + 1) * u) {P : Prop} [Decidable P] (hP : P ↔ X = Y * u) :
    SameSides u (((2 * Y + if P then 0 else 1 : ℕ) : ℝ) * (u / 2)) X := by
  intro z
  have hz : (z : ℝ) * u = ((2 * z : ℤ) : ℝ) * (u / 2) := by push_cast; ring
  have hlt : X < z * u ↔ (Y : ℤ) < z := by
    constructor
    · intro h
      exact_mod_cast lt_of_mul_lt_mul_right (hlo.trans_lt h) hu.le
    · intro h
      exact hhi.trans_le (mul_le_mul_of_nonneg_right (by exact_mod_cast h) hu.le)
  have hgt : z * u < X ↔ (2 * z : ℤ) < (2 * Y + if P then 0 else 1 : ℕ) := by
    split_ifs with h
    · rw [hP.mp h, mul_lt_mul_iff_of_pos_right hu]
      push_cast
      rw [add_zero, mul_lt_mul_iff_of_pos_left two_pos]
      exact_mod_cast Iff.rfl
    · have hne : Y * u < X := hlo.lt_of_ne fun he => h (hP.mpr he.symm)
      have hle : z * u < X ↔ z ≤ (Y : ℤ) := by
        constructor
        · intro h
          have : (z : ℝ) < Y + 1 := lt_of_mul_lt_mul_right (h.trans hhi) hu.le
          exact Int.lt_add_one_iff.mp (by exact_mod_cast this)
        · intro h
          exact (mul_le_mul_of_nonneg_right (by exact_mod_cast h) hu.le).trans_lt hne
      rw [hle]
      omega
  rw [hlt, hgt, hz, ← Int.cast_natCast (R := ℝ), mul_lt_mul_iff_of_pos_right (half_pos hu), mul_lt_mul_iff_of_pos_right (half_pos hu),
    Int.cast_lt, Int.cast_lt]
  refine ⟨?_, Iff.rfl⟩
  split_ifs <;> omega

/-- Of two numbers that stand alike to a step's ends and its middle, both go to the same neighbour. -/
theorem NearestEven.of_sameSides {V : ℕ → ℝ} {c δ : ℕ} (h : NearestEven V A c δ) (hs : SameSides u A X) {z i : ℤ} (hz : V c = z * u)
    (hi : V (c + 1) = V c + 2 * i * u) : NearestEven V X c δ := by
  have hsum : V c + V (c + 1) = 2 * ((z + i : ℤ) * u) := by rw [hi, hz]; push_cast; ring
  have hnext : V (c + 1) = (z + 2 * i : ℤ) * u := by rw [hi, hz]; push_cast; ring
  obtain ⟨hmid, hmid'⟩ := hs (z + i)
  obtain ⟨hab, hbe, hdown, hup, htie⟩ := h
  rw [hsum, mul_lt_mul_iff_of_pos_left two_pos] at hdown
  rw [hsum, mul_lt_mul_iff_of_pos_left two_pos] at hup
  rw [hsum, mul_right_inj' two_ne_zero] at htie
  refine ⟨?_, ?_, fun hx => ?_, fun hx => ?_, fun hx => ?_⟩
  · rw [hz] at hab ⊢
    exact not_lt.mp (mt (hs z).1.mpr (not_lt.mpr hab))
  · rw [hnext] at hbe ⊢
    exact (hs _).1.mp hbe
  · rw [hsum, mul_lt_mul_iff_of_pos_left two_pos] at hx
    exact hdown (hmid.mpr hx)
  · rw [hsum, mul_lt_mul_iff_of_pos_left two_pos] at hx
    exact hup (hmid'.mpr hx)
  · rw [hsum, mul_right_inj' two_ne_zero] at hx
    exact htie (le_antisymm (not_lt.mp (mt hmid'.mp hx.not_gt)) (not_lt.mp (mt hmid.mp hx.not_lt)))
end

/-! ## Rounding with a sticky bit -/

section
variable {f : Fmt}

theorem realOf_succ_le (f : Fmt) (c : ℕ) : f.realOf (c + 1) ≤ 2 ^ (f.mb + 1 + f.stepAt c) := by
  have hc : (c : ℝ) + 1 ≤ (f.binade c + 1) * 2 ^ f.mb := by
    have : c < (c / 2 ^ f.mb + 1) * 2 ^ f.mb := by rw [mul_comm]; exact Nat.lt_mul_div_succ c (by positivity)
    have : c + 1 ≤ (f.binade c + 1) * 2 ^ f.mb := this.trans_le (Nat.mul_le_mul_right _ (Nat.succ_le_succ (le_max_left ..)))
    exact_mod_cast this
  rw [realOf_succ, Fmt.realOf, Fmt.valueOf, zpow_add₀ two_ne_zero, zpow_add_one₀ two_ne_zero, zpow_natCast]
  push_cast
  rw [← add_one_mul]
  exact mul_le_mul_of_nonneg_right (by linarith) (by positivity)

/-- Where a step is four units or more, an encoding's number and the middle of the step are whole numbers of units. -/
theorem exists_units_of_step (f : Fmt) {c : ℕ} {g : ℤ} (h : g < f.stepAt c) :
    ∃ z i : ℤ, f.realOf c = z * 2 ^ g ∧ f.realOf (c + 1) = f.realOf c + 2 * i * 2 ^ g := by
  obtain ⟨k, hk⟩ := Int.eq_ofNat_of_zero_le (Int.sub_nonneg_of_le h)
  have hs : f.stepAt c = k + 1 + g := by omega
  have hp : (2 : ℝ) ^ f.stepAt c = 2 * ((2 ^ k : ℤ) : ℝ) * 2 ^ g := by
    rw [hs, zpow_add₀ two_ne_zero, zpow_add_one₀ two_ne_zero, zpow_natCast]
    push_cast
    ring
  refine ⟨(c - ((f.binade c : ℤ) - 1) * 2 ^ f.mb) * (2 * 2 ^ k), 2 ^ k, ?_, by rw [realOf_succ, hp]⟩
  rw [Fmt.realOf, Fmt.valueOf]
  push_cast at hp ⊢
  rw [hp]
  ring

/-- Whole units and a sticky bit round as the number that they were cut from, where the units are fine enough. -/
theorem roundsToNearest_sticky (hf : f ∈ formats) (neg : Bool) {X : ℝ} {Y : ℕ} {g : ℤ} (hlo : Y * 2 ^ (g + 1) ≤ X)
    (hhi : X < (Y + 1) * 2 ^ (g + 1)) {P : Prop} [Decidable P] (hP : P ↔ X = Y * 2 ^ (g + 1)) (hY : 2 ^ (f.mb + 1) ≤ Y) :
    RoundsToNearest f neg X (f.round .rne (.fin neg (2 * Y + if P then 0 else 1) g)) := by
  have hsides := sameSides_sticky (by positivity) hlo hhi hP
  obtain ⟨c, t, hval, ht, ht', hround, -⟩ := rounds_from_below (formats_mb hf) (2 * Y + if P then 0 else 1) g
  have hval' : ((2 * Y + if P then 0 else 1 : ℕ) : ℝ) * (2 ^ (g + 1) / 2) = f.realOf c + t * 2 ^ f.stepAt c := by
    rw [zpow_add_one₀ two_ne_zero, mul_div_cancel_right₀ _ two_ne_zero]
    have := congrArg (Rat.cast (K := ℝ)) hval
    rw [magnitude, Rat.cast_mul, Rat.cast_natCast] at this
    push_cast at this ⊢
    exact this
  have hnear := nearestEven_roundsUp f neg hval' ht ht'
  have hstep : g + 1 < f.stepAt c := by
    have hlt : (2 : ℝ) ^ ((f.mb : ℤ) + 1 + (g + 1)) < 2 ^ (f.mb + 1 + f.stepAt c) := by
      refine lt_of_le_of_lt ?_ (hnear.below.trans_le (realOf_succ_le f c))
      have hA : (Y : ℝ) * 2 ^ (g + 1) ≤ _ := not_lt.mp (mt (hsides Y).1.mp (not_lt.mpr hlo))
      refine le_trans ?_ hA
      rw [zpow_add₀ two_ne_zero]
      refine mul_le_mul_of_nonneg_right ?_ (by positivity)
      exact_mod_cast hY
    have := (zpow_lt_zpow_iff_right₀ one_lt_two).mp hlt
    omega
  obtain ⟨z, i, hz, hi⟩ := exists_units_of_step f hstep
  rw [Fmt.round, hround]
  exact roundsToNearest_of_nearestEven hf neg (hnear.of_sameSides hsides hz hi)
end

end Sys2Proof.Machine
end

section
/-! What the arithmetic of FALU and HALU writes (R196, R299, R300, R302, R303). -/
namespace Sys2Proof.Machine
open Sys2Proof.Claims

/-! ## FP32 results -/

theorem round_fin_lt {f : Fmt} (hf : f ∈ formats) (d : Dir) (neg : Bool) (m : ℕ) (e : ℤ) : f.round d (.fin neg m e) < 2 ^ f.width := by
  have hover : f.overflow d neg < 2 ^ (f.eb + f.mb) := by
    revert f neg
    cases d <;> decide
  have hmag : f.roundMag d neg m e < 2 ^ (f.eb + f.mb) := by
    obtain ⟨c, t, -, -, -, hround, -⟩ := rounds_from_below (formats_mb hf) m e
    rw [hround, Fmt.capped]
    split_ifs with h
    · exact hover
    · exact (not_lt.mp h).trans_lt (formats_maxCode_lt hf)
  rw [Fmt.round, Fmt.signCode, Fmt.width, Nat.add_assoc, Nat.add_comm 1, pow_succ]
  split_ifs <;> omega

theorem fp32_mem_formats : fp32 ∈ formats := by decide

/-- A finite value as an FP32 word holds its rounding. -/
theorem toNat_toF32_fin (neg : Bool) (m : ℕ) (e : ℤ) : (toF32 (.fin neg m e)).toNat = fp32.round .rne (.fin neg m e) := by
  rw [toF32, BitVec.toNat_ofNat]
  exact Nat.mod_eq_of_lt (round_fin_lt fp32_mem_formats .rne neg m e)

/-! ## Quotient -/

/-- The quotient keeps 65 bits and more. -/
theorem two_pow_le_quotient {m n : ℕ} (hm : 0 < m) (hn : 0 < n) : 2 ^ 65 ≤ m * 2 ^ (Nat.log2 n + 66) / n := by
  rw [Nat.le_div_iff_mul_le hn]
  calc 2 ^ 65 * n ≤ 2 ^ 65 * 2 ^ (Nat.log2 n + 1) := Nat.mul_le_mul_left _ Nat.lt_log2_self.le
    _ = 1 * 2 ^ (Nat.log2 n + 66) := by rw [← Nat.pow_add, one_mul]; congr 1; omega
    _ ≤ m * 2 ^ (Nat.log2 n + 66) := Nat.mul_le_mul_right _ hm

/-- The quotient of two magnitudes, rounded once (R300). -/
theorem roundsToNearest_div (s t : Bool) (m : ℕ) (e : ℤ) {n : ℕ} (g : ℤ) (hn : 0 < n) : RoundsToNearest fp32 (s != t)
    ((magnitude m e / magnitude n g : ℚ) : ℝ) (toF32 (FV.div (.fin s m e) (.fin t n g))).toNat := by
  have hdiv : FV.div (.fin s m e) (.fin t n g) = .fin (s != t) (divMag m e n g).1 (divMag m e n g).2 := if_neg hn.ne'
  rw [hdiv, toNat_toF32_fin]
  rcases Nat.eq_zero_or_pos m with rfl | hm
  · have h := roundsToNearest_round fp32_mem_formats (s != t) (divMag 0 e n g).1 (divMag 0 e n g).2
    simpa [divMag, magnitude] using h
  · have hX : ((magnitude m e / magnitude n g : ℚ) : ℝ) =
        ((m * 2 ^ (Nat.log2 n + 66) : ℕ) : ℝ) / n * 2 ^ (e - g - (Nat.log2 n + 66 : ℕ)) := by
      simp only [magnitude]
      generalize Nat.log2 n + 66 = k
      push_cast
      rw [zpow_sub₀ two_ne_zero, zpow_sub₀ two_ne_zero, zpow_natCast]
      field_simp
    have hp : (0 : ℝ) < 2 ^ (e - g - (Nat.log2 n + 66 : ℕ)) := by positivity
    have hn' : (0 : ℝ) < n := by exact_mod_cast hn
    have hround := two_pow_le_quotient hm hn
    rw [divMag, hX]
    generalize m * 2 ^ (Nat.log2 n + 66) = x at hround ⊢
    generalize (Nat.log2 n + 66) = k at hp ⊢
    refine roundsToNearest_sticky fp32_mem_formats _ ?_ ?_ ?_ (le_trans (by decide) hround)
    all_goals rw [sub_add_cancel]
    · exact mul_le_mul_of_nonneg_right Nat.cast_div_le hp.le
    · refine mul_lt_mul_of_pos_right ?_ hp
      rw [div_lt_iff₀ hn']
      exact_mod_cast Nat.lt_mul_of_div_lt (Nat.lt_succ_self _) hn
    · rw [mul_left_inj' hp.ne', div_eq_iff hn'.ne', ← Nat.dvd_iff_mod_eq_zero]
      constructor
      · intro h
        exact_mod_cast (Nat.div_mul_cancel h).symm
      · intro h
        exact ⟨x / n, by rw [mul_comm]; exact_mod_cast h⟩

/-! ## Root -/

/-- The loop finds the root between r and r + 2^k. -/
theorem isqrtLoop_spec (k x r : ℕ) (hlo : r * r ≤ x) (hhi : x < (r + 2 ^ k) * (r + 2 ^ k)) :
    isqrtLoop k x r * isqrtLoop k x r ≤ x ∧ x < (isqrtLoop k x r + 1) * (isqrtLoop k x r + 1) := by
  induction k generalizing r with
  | zero => exact ⟨hlo, hhi⟩
  | succ k ih =>
    rw [isqrtLoop]
    split_ifs with h
    · exact ih _ h (by rwa [pow_succ, mul_two, ← Nat.add_assoc] at hhi)
    · exact ih _ hlo (not_le.mp h)

theorem isqrt_spec (x : ℕ) : isqrt (Nat.log2 x / 2 + 1) x * isqrt (Nat.log2 x / 2 + 1) x ≤ x ∧
    x < (isqrt (Nat.log2 x / 2 + 1) x + 1) * (isqrt (Nat.log2 x / 2 + 1) x + 1) := by
  refine isqrtLoop_spec _ x 0 (Nat.zero_le _) ?_
  rw [Nat.zero_add, ← Nat.pow_add]
  exact Nat.lt_log2_self.trans_le (Nat.pow_le_pow_right two_pos (by omega))

/-- A root with a sticky bit rounds as the root does. -/
theorem roundsToNearest_root {x r : ℕ} (j : ℤ) (hx : 2 ^ 128 ≤ x) (hlo : r * r ≤ x) (hhi : x < (r + 1) * (r + 1)) :
    RoundsToNearest fp32 false (Real.sqrt (x * 2 ^ (2 * j)))
      (fp32.round .rne (.fin false (2 * r + if r * r = x then 0 else 1) (j - 1))) := by
  have hp : (0 : ℝ) < 2 ^ j := by positivity
  have hroot : Real.sqrt (x * 2 ^ (2 * j)) = Real.sqrt x * 2 ^ j := by
    rw [Real.sqrt_mul (Nat.cast_nonneg x), two_mul, zpow_add₀ two_ne_zero, Real.sqrt_mul_self hp.le]
  have hbig : 2 ^ 64 ≤ r := by
    by_contra h
    have : (r + 1) * (r + 1) ≤ 2 ^ 64 * 2 ^ 64 := Nat.mul_le_mul (by omega) (by omega)
    omega
  rw [hroot]
  refine roundsToNearest_sticky fp32_mem_formats _ ?_ ?_ ?_ (le_trans (by decide) hbig)
  all_goals rw [sub_add_cancel]
  · refine mul_le_mul_of_nonneg_right (Real.le_sqrt_of_sq_le ?_) hp.le
    rw [sq]
    exact_mod_cast hlo
  · refine mul_lt_mul_of_pos_right ((Real.sqrt_lt' (by positivity)).mpr ?_) hp
    rw [sq]
    exact_mod_cast hhi
  · rw [mul_left_inj' hp.ne', Real.sqrt_eq_iff_mul_self_eq (Nat.cast_nonneg x) (Nat.cast_nonneg r), eq_comm]
    exact_mod_cast Iff.rfl

/-- The root of a magnitude, rounded once (R300). -/
theorem roundsToNearest_sqrt {m : ℕ} (e : ℤ) (hm : 0 < m) :
    RoundsToNearest fp32 false (Real.sqrt (magnitude m e : ℚ)) (toF32 (FV.sqrt (.fin false m e))).toNat := by
  obtain ⟨x, j, hx, hval, hsqrt⟩ : ∃ (x : ℕ) (j : ℤ), 2 ^ 128 ≤ x ∧ ((magnitude m e : ℚ) : ℝ) = x * 2 ^ (2 * j) ∧
      FV.sqrt (.fin false m e) = .fin false (2 * isqrt (Nat.log2 x / 2 + 1) x +
        if isqrt (Nat.log2 x / 2 + 1) x * isqrt (Nat.log2 x / 2 + 1) x = x then 0 else 1) (j - 1) := by
    have hval (k : ℕ) {j : ℤ} (hj : e - k = 2 * j) : ((magnitude m e : ℚ) : ℝ) = (m * 2 ^ k : ℕ) * 2 ^ (2 * j) := by
      rw [← hj, magnitude, zpow_sub₀ two_ne_zero, zpow_natCast]
      push_cast
      field_simp
    by_cases he : e % 2 = 0
    · refine ⟨m * 2 ^ 128, (e - 128) / 2, Nat.le_mul_of_pos_left _ hm, hval 128 (by omega), ?_⟩
      simp only [FV.sqrt, if_neg hm.ne', if_pos he, Bool.false_eq_true, if_false]
    · refine ⟨m * 2 ^ 129, (e - 129) / 2, le_trans (by decide) (Nat.le_mul_of_pos_left _ hm), hval 129 (by omega), ?_⟩
      simp only [FV.sqrt, if_neg hm.ne', if_neg he, Bool.false_eq_true, if_false]
  obtain ⟨hlo, hhi⟩ := isqrt_spec x
  rw [hsqrt, toNat_toF32_fin, hval]
  exact roundsToNearest_root j hx hlo hhi

end Sys2Proof.Machine
end

section
/-! What the arithmetic of FALU and HALU writes (R299, R302, R303): each instruction is a `compute` of the statement's value. -/
namespace Sys2Proof.Machine
open Sys2Proof.Claims

theorem elem_eq_el16 (x : Dword) (i : ℕ) : elem 16 i x.toNat = el16 x i := by
  simp [elem, el16, BitVec.extractLsb'_toNat, Nat.shiftRight_eq_div_pow]

/-- Two 16-bit elements in the low word. -/
theorem ofNat_packElems (g : ℕ → ℕ) : BitVec.ofNat 64 (packElems 16 ((upto 2).map g)) = pair (g 0) (g 1) := by
  have hlist : (upto 2).map g = [g 0, g 1] := rfl
  apply BitVec.eq_of_toNat_eq
  rw [hlist, pair]
  simp only [packElems, BitVec.toNat_ofNat, BitVec.toNat_append]
  rw [← Nat.shiftLeft_add_eq_or_of_lt (Nat.mod_lt _ (by decide)), ← Nat.shiftLeft_add_eq_or_of_lt (Nat.mod_lt _ (by decide)),
    Nat.shiftLeft_eq, Nat.shiftLeft_eq]
  omega

theorem halves_eq_pair (fn : ℕ → ℕ → ℕ → ℕ) (a b c : Dword) : halves fn a b c =
    pair (fn (el16 a 0) (el16 b 0) (el16 c 0)) (fn (el16 a 1) (el16 b 1) (el16 c 1)) := by
  simp only [halves, ofNat_packElems, elem_eq_el16]

theorem packed2_halfOp {mk : Bool → Dest → Operand → Operand → Instr} {op : FV → FV → FV}
    (hexec : ∀ bf d a b s, exec (mk bf d a b) s = compute2 d a b (halfOp bf op) s)
    (hlen : ∀ bf d a b, (encode (mk bf d a b)).length = 1 + 0 + litCount [a, b]) : Packed2 mk op :=
  fun bf => yields2_of_compute2 (hexec bf) (hlen bf) fun x y => by
    rw [halfOp, halves_eq_pair]
    rfl

theorem opF_eq_fp (op : FV → FV → FV) (x y : Dword) : opF op x y = fp (op (f32 (low x)) (f32 (low y))) := by
  rw [opF, lo32_eq_low, lo32_eq_low]
  rfl

/-- Settles O12: it holds. Quotient and root round once because their sticky bit keeps the side of every whole unit; the other results
are one rounding of the operation's exact value. -/
theorem floatArithmeticResults : Obligations.FloatArithmeticResults := by
  refine ⟨fun s m e t n g => roundsToNearest_div s t m e g, fun m e => roundsToNearest_sqrt e, ?fadd, ?fsub, ?fmul, ?fma, ?fdiv, ?fsqrt,
    ?hadd, ?hsub, ?hmul, ?hfma, ?hdot2⟩
  case fadd => exact yields2_of_compute2 exec_fadd (fun _ _ _ => length_encA ..) (opF_eq_fp _)
  case fsub => exact yields2_of_compute2 exec_fsub (fun _ _ _ => length_encA ..) (opF_eq_fp _)
  case fmul => exact yields2_of_compute2 exec_fmul (fun _ _ _ => length_encA ..) (opF_eq_fp _)
  case fma =>
    refine yields3_of_compute3 exec_fma (fun _ _ _ _ => length_encX ..) fun x y z => ?_
    rw [lo32_eq_low, lo32_eq_low, lo32_eq_low]
    rfl
  case fdiv => exact yields2_of_compute2 exec_fdiv (fun _ _ _ => length_encA ..) (opF_eq_fp _)
  case fsqrt =>
    refine yields1_of_compute1 exec_fsqrt (fun _ _ => length_encK ..) fun x => ?_
    rw [lo32_eq_low]
    rfl
  case hadd => exact packed2_halfOp exec_hadd fun _ _ _ _ => length_encA ..
  case hsub => exact packed2_halfOp exec_hsub fun _ _ _ _ => length_encA ..
  case hmul => exact packed2_halfOp exec_hmul fun _ _ _ _ => length_encA ..
  case hfma => exact fun bf => yields3_of_compute3 (exec_hfma bf) (fun _ _ _ _ => length_encX ..) fun _ _ _ => halves_eq_pair ..
  case hdot2 =>
    refine fun bf => yields3_of_compute3 (exec_hdot2 bf) (fun _ _ _ _ => length_encX ..) fun x y z => ?_
    simp only [dot2, elem_eq_el16, lo32_eq_low]
    rfl

end Sys2Proof.Machine
end

section
/-! Comparisons, selections, sign operations and whole numbers (R197, R300 to R302). -/
namespace Sys2Proof.Machine
open Sys2Proof.Claims

/-! ## Order -/

theorem lt_eq_less (x y : FV) : x.lt y = less x y := by
  cases x with
  | nan => rfl
  | inf s => cases y <;> rfl
  | fin s m e =>
    cases y with
    | nan => rfl
    | inf t => rfl
    | fin t n g => exact Bool.eq_iff_iff.mpr ((lt_iff_real_lt ..).trans decide_eq_true_iff.symm)
theorem eq_eq_same (x y : FV) : x.eq y = same x y := by
  cases x with
  | nan => rfl
  | inf s => cases y <;> rfl
  | fin s m e =>
    cases y with
    | nan => rfl
    | inf t => rfl
    | fin t n g =>
      refine Bool.eq_iff_iff.mpr (Iff.trans (real_eq_zero_iff _).symm (Iff.trans ?_ decide_eq_true_iff.symm))
      rw [real_sub, sub_eq_zero]
theorem below_eq_lessOrNegZero (x y : FV) : x.below y = lessOrNegZero x y := by rw [FV.below, lt_eq_less, eq_eq_same, lessOrNegZero]

theorem minF_eq_minCode (f : Fmt) (a b : ℕ) : minF f a b = minCode f a b := by
  simp only [minF, minCode, below_eq_lessOrNegZero]
  cases (f.decode a).isNan <;> cases (f.decode b).isNan <;> rfl
theorem maxF_eq_maxCode (f : Fmt) (a b : ℕ) : maxF f a b = maxCode f a b := by
  simp only [maxF, maxCode, below_eq_lessOrNegZero]
  cases (f.decode a).isNan <;> cases (f.decode b).isNan <;> rfl

theorem cmpF_eq_ite {op : FV → FV → Bool} {r : Word → Word → Bool} (h : ∀ x y, op (f32 x) (f32 y) = r x y) (x y : Dword) :
    cmpF op x y = if r (low x) (low y) then 1 else 0 := by
  rw [cmpF, lo32_eq_low, lo32_eq_low, h, ofPred]
theorem opBits_eq_unsigned {op op' : ℕ → ℕ → ℕ} (h : ∀ a b, op a b = op' a b) (x y : Dword) :
    opBits op x y = unsigned (BitVec.ofNat 32 (op' (low x).toNat (low y).toNat)) := by
  rw [opBits, lo32_eq_low, lo32_eq_low, h]
  rfl
theorem unZ_eq_unsigned {op op' : Word → Word} (h : ∀ x, op x = op' x) (x : Dword) : unZ op x = unsigned (op' (low x)) := by
  rw [unZ, lo32_eq_low, h]
  rfl

/-! ## Whole numbers (R301) -/

/-- A whole number and a part of one more, rounded as the units of a format are. -/
theorem wholeRounded_add (d : Dir) (neg : Bool) (n : ℕ) {t : ℚ} (ht : 0 ≤ t) (ht' : t < 1) :
    wholeRounded d neg (n + t) = n + roundsUp d neg n t := by
  have hfloor : ((n : ℚ) + t).floor.toNat = n := by
    have : ⌊(n : ℚ) + t⌋ = n := by rw [Int.floor_natCast_add, Int.floor_eq_zero_iff.mpr ⟨ht, ht'⟩, add_zero]
    exact congrArg Int.toNat this
  simp only [wholeRounded, hfloor, roundsUp, add_eq_left, add_sub_cancel_left]
  cases d <;> simp only <;> split_ifs <;> rfl

theorem roundInt_eq_wholeRounded (d : Dir) (neg : Bool) (m : ℕ) (e : ℤ) : roundInt d neg m e = wholeRounded d neg (magnitude m e) := by
  obtain ⟨n, r, k, hu, hr, hval⟩ := units_exact m e 0
  rw [zpow_zero, mul_one] at hval
  have ht : (r : ℚ) / 2 ^ k < 1 := (div_lt_one (by positivity)).mpr (by exact_mod_cast hr)
  rw [hval, wholeRounded_add d neg n (by positivity) ht, roundInt, hu]
  exact roundUnits_eq_add_roundsUp d neg r k rfl

theorem roundToInt_eq_wholeFp32 (d : Dir) (x : Word) : roundToInt d x = wholeFp32 d x := by
  rw [roundToInt, wholeFp32]
  cases f32 x with
  | nan => rfl
  | inf n => rfl
  | fin n m e => exact congrArg (fun k => toF32 (.fin n k 0)) (roundInt_eq_wholeRounded d n m e)

theorem magnitude_nonneg (m : ℕ) (e : ℤ) : 0 ≤ magnitude m e := by
  rw [magnitude]
  positivity
theorem magnitude_pos_iff (m : ℕ) (e : ℤ) : 0 < magnitude m e ↔ 0 < m := by
  rw [magnitude, mul_pos_iff_of_pos_right (by positivity), Nat.cast_pos]

/-- FSAT keeps what lies above 0 and not above 1 (R301). -/
theorem extZ_satUnit (x : Word) : extZ (satUnit x) = if (f32 x).isNan || !less (.fin false 0 0) (f32 x) then 0
    else if less (.fin false 1 0) (f32 x) then 0x3F800000 else unsigned x := by
  rw [satUnit]
  cases f32 x with
  | nan => rfl
  | inf n => cases n <;> rfl
  | fin n m e =>
    have hpos : less (.fin false 0 0) (.fin n m e) = !(n || m == 0) := by
      refine Bool.eq_iff_iff.mpr (decide_eq_true_iff.trans ?_)
      rw [real_fin, real_fin, magnitude, Nat.cast_zero, zero_mul, mul_zero]
      cases n with
      | true => simpa using magnitude_nonneg m e
      | false => simp [magnitude_pos_iff, Nat.pos_iff_ne_zero]
    simp only [hpos, lt_eq_less]
    cases n || m == 0 <;> cases less (.fin false 1 0) (.fin n m e) <;> rfl

/-! ## Signs -/

/-- A word of two fields, extended by zero. -/
theorem zeroExtend_append {v w : ℕ} (a : BitVec v) (b : BitVec w) : ((a ++ b).zeroExtend (32 + v + w)) = 0#32 ++ a ++ b := by
  apply BitVec.eq_of_toNat_eq
  rw [BitVec.toNat_setWidth, Nat.mod_eq_of_lt ((a ++ b).isLt.trans_le (Nat.pow_le_pow_right two_pos (by omega)))]
  simp [BitVec.toNat_append]

theorem extZ_sign_append (s : BitVec 1) (y : BitVec 31) : extZ (s ++ y) = 0#32 ++ s ++ y := zeroExtend_append s y
theorem unsigned_halves_append (a b : BitVec 16) : unsigned (a ++ b) = 0#32 ++ a ++ b := zeroExtend_append a b

theorem low_eq_sign_append (x : Dword) : low x = x.extractLsb' 31 1 ++ x.extractLsb' 0 31 := by
  rw [BitVec.extractLsb'_append_extractLsb'_eq_extractLsb' (by decide)]
  rfl
theorem low_eq_halves_append (x : Dword) : low x = x.extractLsb' 16 16 ++ x.extractLsb' 0 16 := by
  rw [BitVec.extractLsb'_append_extractLsb'_eq_extractLsb' (by decide)]
  rfl

theorem magnitudeMask : 0x7FFFFFFF#32 = (0#1 ++ BitVec.allOnes 31 : BitVec (1 + 31)) := by decide
theorem signMask : 0x80000000#32 = (1#1 ++ 0#31 : BitVec (1 + 31)) := by decide

/-- FABS clears the sign bit. -/
theorem fabs_bits (x : Dword) : extZ (lo32 x &&& 0x7FFFFFFF#32) = 0#33 ++ x.extractLsb' 0 31 := by
  rw [lo32_eq_low, low_eq_sign_append, magnitudeMask]
  refine (congrArg extZ BitVec.and_append).trans ((extZ_sign_append ..).trans ?_)
  rw [BitVec.and_zero, BitVec.and_allOnes]
  rfl

/-- FNEG inverts the sign bit. -/
theorem fneg_bits (x : Dword) : extZ (lo32 x ^^^ 0x80000000#32) = 0#32 ++ ~~~(x.extractLsb' 31 1) ++ x.extractLsb' 0 31 := by
  rw [lo32_eq_low, low_eq_sign_append, signMask]
  refine (congrArg extZ BitVec.xor_append).trans ((extZ_sign_append ..).trans ?_)
  rw [BitVec.xor_zero, ← BitVec.xor_allOnes]
  rfl

/-- FCSGN takes the sign bit of B. -/
theorem fcsgn_bits (x y : Dword) :
    opZ (fun x y => (x &&& 0x7FFFFFFF#32) ||| (y &&& 0x80000000#32)) x y = 0#32 ++ y.extractLsb' 31 1 ++ x.extractLsb' 0 31 := by
  have hx : low x &&& 0x7FFFFFFF#32 = (0#1 ++ x.extractLsb' 0 31 : BitVec (1 + 31)) := by
    rw [low_eq_sign_append, magnitudeMask]
    refine BitVec.and_append.trans ?_
    rw [BitVec.and_zero, BitVec.and_allOnes]
  have hy : low y &&& 0x80000000#32 = (y.extractLsb' 31 1 ++ 0#31 : BitVec (1 + 31)) := by
    rw [low_eq_sign_append, signMask]
    refine BitVec.and_append.trans ?_
    rw [BitVec.and_zero]
    exact congrArg (· ++ 0#31) (BitVec.and_allOnes ..)
  rw [opZ, lo32_eq_low, lo32_eq_low, hx, hy]
  refine (congrArg extZ BitVec.or_append).trans ((extZ_sign_append ..).trans ?_)
  rw [BitVec.or_zero, BitVec.zero_or]

theorem ofNat_add_signBit (u : ℕ) : BitVec.ofNat 16 ((u + 0x8000) % 0x10000) = BitVec.ofNat 16 u ^^^ 0x8000#16 := by
  apply BitVec.eq_of_getLsbD_eq
  intro i hi
  have hbit : (0x8000#16).getLsbD i = decide (i = 15) := by
    revert i
    decide
  have hmod : BitVec.ofNat 16 ((u + 0x8000) % 0x10000) = BitVec.ofNat 16 (2 ^ 15 + u) :=
    BitVec.eq_of_toNat_eq (by rw [BitVec.toNat_ofNat, BitVec.toNat_ofNat]; omega)
  rw [hmod, BitVec.getLsbD_xor, hbit, BitVec.getLsbD_ofNat, BitVec.getLsbD_ofNat]
  rcases Nat.lt_succ_iff_lt_or_eq.mp hi with h | rfl
  · rw [Nat.testBit_two_pow_add_gt h, decide_eq_false h.ne, Bool.xor_false]
  · rw [Nat.testBit_two_pow_add_eq]
    simp
theorem ofNat_mod_signBit (u : ℕ) : BitVec.ofNat 16 (u % 0x8000) = BitVec.ofNat 16 u &&& 0x7FFF#16 := by
  apply BitVec.eq_of_toNat_eq
  rw [BitVec.toNat_and, BitVec.toNat_ofNat, BitVec.toNat_ofNat, BitVec.toNat_ofNat]
  exact (by omega : u % 0x8000 % 2 ^ 16 = u % 2 ^ 16 % 2 ^ 15).trans (Nat.and_two_pow_sub_one_eq_mod _ 15).symm
theorem ofNat_el16 (x : Dword) (i : ℕ) : BitVec.ofNat 16 (el16 x i) = x.extractLsb' (16 * i) 16 := by
  rw [el16, BitVec.ofNat_toNat, BitVec.setWidth_eq]

/-- HNEG inverts the sign bit of each half. -/
theorem hneg_bits (x : Dword) : pair ((el16 x 0 + 0x8000) % 0x10000) ((el16 x 1 + 0x8000) % 0x10000) =
    unsigned (low x ^^^ 0x80008000) := by
  rw [pair, ofNat_add_signBit, ofNat_add_signBit, ofNat_el16, ofNat_el16, low_eq_halves_append]
  exact (unsigned_halves_append ..).symm.trans (congrArg unsigned BitVec.xor_append.symm)

/-- HABS clears the sign bit of each half. -/
theorem habs_bits (x : Dword) : pair (el16 x 0 % 0x8000) (el16 x 1 % 0x8000) = unsigned (low x &&& 0x7FFF7FFF) := by
  rw [pair, ofNat_mod_signBit, ofNat_mod_signBit, ofNat_el16, ofNat_el16, low_eq_halves_append]
  exact (unsigned_halves_append ..).symm.trans (congrArg unsigned BitVec.and_append.symm)

/-- Settles O13: it holds. The model's comparisons are those of the rationals, its selections follow them, rounding to a whole number is
rounding in units of 1, and the sign operations change the sign bits alone. -/
theorem floatComparisonAndSignResults : Obligations.FloatComparisonAndSignResults := by
  refine ⟨?feq, ?fne, ?flt, ?fle, ?funord, ?fmin, ?fmax, ?fabs, ?fneg, ?fcsgn, ?frndn, ?frndz, ?frndu, ?frndd, ?fsat, ?hmin, ?hmax,
    ?hneg, ?habs⟩
  case feq => exact yields2_of_compute2 exec_feq (fun _ _ _ => length_encA ..) (cmpF_eq_ite fun _ _ => eq_eq_same ..)
  case fne =>
    refine yields2_of_compute2 exec_fne (fun _ _ _ => length_encA ..) fun x y => ?_
    rw [cmpF_eq_ite (r := fun x y => !same (f32 x) (f32 y)) fun _ _ => by rw [eq_eq_same]]
    cases same (f32 (low x)) (f32 (low y)) <;> rfl
  case flt => exact yields2_of_compute2 exec_flt (fun _ _ _ => length_encA ..) (cmpF_eq_ite fun _ _ => lt_eq_less ..)
  case fle =>
    refine yields2_of_compute2 exec_fle (fun _ _ _ => length_encA ..)
      (cmpF_eq_ite (r := fun x y => less (f32 x) (f32 y) || same (f32 x) (f32 y)) fun _ _ => ?_)
    rw [lt_eq_less, eq_eq_same]
  case funord => exact yields2_of_compute2 exec_funord (fun _ _ _ => length_encA ..) (cmpF_eq_ite fun _ _ => rfl)
  case fmin => exact yields2_of_compute2 exec_fmin (fun _ _ _ => length_encA ..) (opBits_eq_unsigned (minF_eq_minCode fp32))
  case fmax => exact yields2_of_compute2 exec_fmax (fun _ _ _ => length_encA ..) (opBits_eq_unsigned (maxF_eq_maxCode fp32))
  case fabs => exact yields1_of_compute1 exec_fabs (fun _ _ => length_encK ..) fabs_bits
  case fneg => exact yields1_of_compute1 exec_fneg (fun _ _ => length_encK ..) fneg_bits
  case fcsgn => exact yields2_of_compute2 exec_fcsgn (fun _ _ _ => length_encA ..) fcsgn_bits
  case frndn => exact yields1_of_compute1 exec_frndn (fun _ _ => length_encK ..) (unZ_eq_unsigned (roundToInt_eq_wholeFp32 _))
  case frndz => exact yields1_of_compute1 exec_frndz (fun _ _ => length_encK ..) (unZ_eq_unsigned (roundToInt_eq_wholeFp32 _))
  case frndu => exact yields1_of_compute1 exec_frndu (fun _ _ => length_encK ..) (unZ_eq_unsigned (roundToInt_eq_wholeFp32 _))
  case frndd => exact yields1_of_compute1 exec_frndd (fun _ _ => length_encK ..) (unZ_eq_unsigned (roundToInt_eq_wholeFp32 _))
  case fsat =>
    refine yields1_of_compute1 exec_fsat (fun _ _ => length_encK ..) fun x => ?_
    rw [unZ, lo32_eq_low, extZ_satUnit]
  case hmin =>
    refine fun bf => yields2_of_compute2 (exec_hmin bf) (fun _ _ _ => length_encA ..) fun x y => ?_
    simp only [halves_eq_pair, minF_eq_minCode]
    rfl
  case hmax =>
    refine fun bf => yields2_of_compute2 (exec_hmax bf) (fun _ _ _ => length_encA ..) fun x y => ?_
    simp only [halves_eq_pair, maxF_eq_maxCode]
    rfl
  case hneg =>
    exact fun bf => yields1_of_compute1 (exec_hneg bf) (fun _ _ => length_encK ..) fun x => (halves_eq_pair ..).trans (hneg_bits x)
  case habs =>
    exact fun bf => yields1_of_compute1 (exec_habs bf) (fun _ _ => length_encK ..) fun x => (halves_eq_pair ..).trans (habs_bits x)

end Sys2Proof.Machine
end
